-- ==== Sys2Proof/Word.lean ====
section
/-!
DEFINITION. The machine's words and the shapes of its sparse maps.
A register's contents, a packet's words and bytes are bit vectors.
Addresses, identifiers, counts and times are natural numbers.
-/

namespace Sys2Proof

/-- One byte. -/
abbrev Byte := BitVec 8
/-- A 32-bit word. -/
abbrev W32 := BitVec 32
/-- A 64-bit word: a register's contents, a packet's parameter word. -/
abbrev W64 := BitVec 64

/-- A sparse map from keys to plain data.
Keys rise strictly and no entry equals the value that an unlisted key reads as. -/
abbrev Sparse (α : Type) := List (Nat × α)

end Sys2Proof
end

