-- ==== Sys2Proof/Syntax.lean ====
section
/-!
DEFINITION. The commands that the block takes, one constructor per row of spec/opcode_table.json,
and the shapes of their operands: packets, messages, events and descriptors.
-/

namespace Sys2Proof

/-! ### Commands of Crown (R373, R381, R397) -/

/-- R382: where a command came from: the context ring of a queue class, a node of a graph launch, or the manager. -/
inductive Src where
  | ring (q : Nat)
  | node (launch n : Nat)
  | mgr (dev : Nat)
  deriving DecidableEq, Repr

/-- A command as Crown starts it: the packet of R373 with its indirect parameters read (R375)
and the slots of R398 applied.
`params` are the parameter words, `data` the inline bytes, `chain` the chain slot address. -/
structure Cmd where
  src : Src
  ctx : Nat
  seq : Nat
  opcode : Nat
  quiet : Bool := false
  irq : Bool := false
  chainCond : Nat := 0
  chain : Nat := 0
  params : List W64 := []
  data : List Byte := []
  deriving DecidableEq, Repr

/-- R37 to R39: the three masters, in the order in which R39 names them. -/
inductive Master where
  | taproot
  | manager
  | host
  deriving DecidableEq, Repr

/-- R595: what an order would do, with the resources it acts on.
Grove sets are masks of 128 bits over Grove numbers. -/
inductive OrderKind where
  | pin (ctx : Nat) (on : Bool) (groves : Nat)
  | create (ctx : Nat)
  | destroy (ctx : Nat)
  | partition (p : Nat) (set : Bool) (exact : Bool) (groups ways groves : Nat)
  | park (groves : Nat)
  | unpark (groves : Nat)
  | powerCap (slot : Nat) (value : Nat)
  | chord (mask : Nat) (enable : Bool)
  deriving DecidableEq, Repr

/-- R38 to R40: an order in an arbitration window, as the losing order's result word names it. -/
structure Order where
  master : Master
  seq : Nat
  ctx : Nat := 0
  dev : Nat := 0
  kind : OrderKind
  deriving DecidableEq, Repr

/-- R445, R447: what the network header of a received message says that the receiver uses.
`cseq` counts on CONTROL alone; `crVc` and `crFlits` return end-to-end credit. -/
structure Hdr where
  src : Nat
  broadcast : Bool := false
  plane : Nat := 0
  cseq : Nat := 0
  crVc : Nat := 0
  crFlits : Nat := 0
  deriving DecidableEq, Repr

/-! ### Lookup batches and fragments (R97, R98) -/

/-- R97: a segment block of a batch. A bag part is the number of its indices and its split mark.
`outShift` is the 7-bit field. -/
structure SegBlock where
  table : Nat
  epoch : Nat
  poolOp : Nat
  onePerBag : Bool := false
  outFmt : Nat := 0
  outKind : Nat := 0
  outShift : Nat := 0
  parts : List (Nat × Bool)
  indices : List Nat
  weights : List Nat := []
  deriving DecidableEq, Repr

/-- R97: a batch message. -/
structure BatchMsg where
  requester : Nat
  id : Nat
  deadline : Nat
  hedge : Bool := false
  exact : Bool := false
  segs : List SegBlock
  deriving DecidableEq, Repr

/-- R98: a reply fragment: one result, a vector or a partial, for each bag part covered. -/
structure FragMsg where
  batch : Nat
  firstPart : Nat
  responder : Nat
  fault : Bool := false
  faultCode : Nat := 0
  saturated : Nat := 0
  results : List (List Byte)
  deriving DecidableEq, Repr

/-! ### Table messages (R125, R451) -/

/-- The table prefix and the row of a Graft or migration message. -/
structure RowRef where
  table : Nat
  epoch : Nat
  row : Nat
  deriving DecidableEq, Repr

/-- R451: UPD_BATCH. `deltas` holds the delta bytes, row by row. -/
structure UpdMsg where
  table : Nat
  epoch : Nat
  id : Nat
  op : Nat
  refit : Bool := false
  dfmt : Nat := 0
  rnd : Nat := 0
  updateId : Nat := 0
  entropy : Nat := 0
  rows : List Nat
  deltas : List Byte
  deriving DecidableEq, Repr

/-- R451: UPD_ACK. Status 0 applied, 1 epoch-gone, 2 row fault. -/
structure UpdAckMsg where
  table : Nat
  epoch : Nat
  id : Nat
  applied : Nat
  refits : Nat := 0
  saturations : Nat := 0
  status : Nat := 0
  fault : Nat := 0
  deriving DecidableEq, Repr

/-! ### Fabric messages (R451) -/

/-- R451: HELLO. -/
structure HelloMsg where
  uid : Nat
  mgrCapable : Bool := false
  candidate : Bool := false
  reserve : Bool := false
  isSwitch : Bool := false
  chord : Nat := 0
  dev : Nat := 0xFFFF
  term : Nat := 0
  mgrUid : Nat := 0
  deriving DecidableEq, Repr

/-- R451: CLAIM. -/
structure ClaimMsg where
  term : Nat
  members : Nat := 0
  mgrUid : Nat
  depUid : Nat := 0
  mgrId : Nat := 0xFFFF
  depId : Nat := 0xFFFF
  deriving DecidableEq, Repr

/-- R451: an entry of the state report of JOINED. -/
structure JoinEntry where
  table : Nat
  slots : Nat
  pendEpoch : Nat
  row : Nat
  rowState : Nat
  deriving DecidableEq, Repr

/-- R452: a remote memory-side operation. The operand is 8, 16 or 64 bytes. -/
structure MemopMsg where
  offset : Nat
  code : Nat
  exact : Bool := false
  part : Nat := 0
  group : Nat := 0
  contrib : Nat := 0
  expected : Nat := 0
  tag : Nat := 0
  operand : List Byte
  deriving DecidableEq, Repr

/-- R472: a restore record. -/
structure RestoreRec where
  kind : Nat
  table : Nat
  w1 : Nat
  w2 : Nat
  w3 : Nat
  deriving DecidableEq, Repr

/-- R387: a completion record; `phase` is set when the record is written to a ring. -/
structure Record where
  seq : Nat
  ctx : Nat
  status : Nat
  fault : Nat
  ftime : Nat
  result : Nat
  cls : Nat
  opcode : Nat
  second : Bool := false
  chainRefused : Bool := false
  deriving DecidableEq, Repr

/-- R460: what a MGR_STATE message copies to the deputy. -/
inductive MgrItem where
  | assignment (uid dev : Nat)
  | publication (table epoch time : Nat)
  | migBegun (r : RowRef) (target : Nat)
  | migEnded (r : RowRef)
  | shardMap (table : Nat)
  | switchIn (failed reserve : Nat)
  deriving DecidableEq, Repr

/-- R451: the messages of the fabric with their payloads. -/
inductive Body where
  | hello (m : HelloMsg)
  | announce (uid : Nat) (mgrCapable candidate reserve : Bool) (dev term : Nat)
  | claim (m : ClaimMsg)
  | assign (uid dev : Nat) (reserve : Bool) (term members : Nat)
  | joined (uid dev : Nat) (report : Option (List JoinEntry))
  | routeSet (routes : List (Nat × Nat))
  | keepalive (time : Nat)
  | depart (reason : Nat)
  | deviceDown (dev : Nat)
  | chordEnable (mask : Nat)
  | chordDisable (mask : Nat)
  | cmd (payload : List Byte)
  | cmdCpl (r : Record)
  | mgrState (item : MgrItem) (copy : Nat)
  | mgrStateAck (kind copy : Nat)
  | restoreBegin (dev : Nat)
  | restoreAck (dev : Nat)
  | restoreRec (recs : List RestoreRec)
  | restoreDone (failed first : Nat)
  | restoreEnd (dev : Nat)
  | credit (vc flits : Nat)
  | regWrite (off width tag value : Nat)
  | regRead (off width tag : Nat)
  | regRsp (tag status fault value : Nat)
  | prepare (table epoch time : Nat) (desc : List Byte)
  | ready (table epoch : Nat)
  | refuse (table epoch reason : Nat)
  | commit (table epoch time : Nat)
  | abort (table epoch : Nat)
  | drained (table epoch : Nat) (none : Bool)
  | drop (table epoch : Nat)
  | retire (table time : Nat)
  | repAdd (r : RowRef) (holder : Nat)
  | repDrop (r : RowRef) (holder : Nat)
  | repGrant (r : RowRef)
  | repRevoke (r : RowRef)
  | migBegin (r : RowRef) (newOwner oldOwner replica : Nat)
  | migEnd (r : RowRef) (newOwner oldOwner replica : Nat)
  | migReady (r : RowRef)
  | migFwd (r : RowRef)
  | migFwdAck (r : RowRef)
  | migCopied (r : RowRef)
  | overlaySet (r : RowRef) (newOwner : Nat)
  | overlayAck (r : RowRef)
  | repAck (r : RowRef)
  | repDone (r : RowRef) (holder : Nat)
  | beacon (origin : Nat) (correction : Int) (term : Nat)
  | delayReq (t1 : Nat)
  | delayRsp (t1 t2 t3 : Nat)
  | syncTrigger (time id : Nat)
  | batch (m : BatchMsg)
  | cancel (batch : Nat)
  | repFill (r : RowRef)
  | rowFetch (r : RowRef) (tag : Nat)
  | gread (offset bytes tag : Nat)
  | fragment (m : FragMsg)
  | epochGone (batch responder : Nat)
  | fillData (r : RowRef) (slot : List Byte)
  | rowData (r : RowRef) (tag : Nat) (slot : List Byte)
  | grdata (tag status fault : Nat) (data : List Byte)
  | updBatch (m : UpdMsg)
  | updAck (m : UpdAckMsg)
  | invalidate (r : RowRef)
  | invAck (r : RowRef)
  | memop (m : MemopMsg)
  | memopAck (tag status fault old : Nat)
  | gwrite (offset tag : Nat) (data : List Byte)
  | gwAck (tag status fault : Nat)
  | migData (r : RowRef) (slot : List Byte)
  | image (payload : List Byte)
  deriving DecidableEq, Repr

/-- A message that the part has sent: destination device (0xFFFF: broadcast) and body. -/
structure Msg where
  dst : Nat
  body : Body
  deriving DecidableEq, Repr

/-! ### The commands -/

/-- The commands of the block: each row of the opcode table with its operands. -/
inductive Instr where
  /-- R5: A host write to a BAR 0 register that has no row of its own updates the register's writable fields, RW1C bits included. -/
  | hostRegisterWrite (off size value : Nat)
  /-- R5: A BAR access of the wrong size or alignment is ignored, or returns all ones, and is counted. -/
  | badBarAccess (write : Bool) (off size : Nat)
  /-- R84: The LOOKUP command is checked, its indices are bucketed by owner pair and batches are formed and sent. -/
  | lookup (c : Cmd)
  /-- R287: A LOOKUP with ring output that waited for its ring ID's previous producer starts once that producer has written its last byte. -/
  | lookupRingStart (c : Cmd)
  /-- R94: The free window of a partly filled batch elapses after bucketing has ended, and the batch is sent. -/
  | batchFreeWindowExpire (id : Nat)
  /-- R100: An owner receives a lookup batch, checks its epoch and placement, and has its Xylem units gather, decode and pool the rows. -/
  | batch (h : Hdr) (m : BatchMsg)
  /-- R98: The owner's pooling of consecutive bag parts completes, and it converts the results and sends a reply fragment. -/
  | ownerFragmentReady (requester id count : Nat)
  /-- R105: Fabric time reaches a batch's deadline at the owner, which stops work on the batch and counts it. -/
  | ownerBatchDeadline (requester id : Nat)
  /-- R109: The requester receives a reply fragment, keeps the first answer for each bag part, writes or merges results and sends cancels when a hedged batch is fully answered. -/
  | fragment (h : Hdr) (m : FragMsg)
  /-- R122: The requester receives an EPOCH_GONE notice and finalises every unanswered bag part of the batch as missing. -/
  | epochGone (h : Hdr) (id responder : Nat)
  /-- R106: An owner receives a cancel for a batch and may stop work on it. -/
  | cancel (h : Hdr) (id : Nat)
  /-- R108: The hedge delay of a sent batch passes, and a hedge copy of its unanswered bag parts is sent to the replica if the budget and mode allow. -/
  | hedgeDelayExpire (id : Nat)
  /-- R111: A LOOKUP's deadline passes, and unanswered bag parts are finalised as missing, pooled over the rows answered, and the mask written. -/
  | lookupDeadline (c : Cmd)
  /-- R93: All output vectors and the mask of a LOOKUP have arrived, so the chain fires and the outcome goes to Crown. -/
  | lookupOutputWritten (c : Cmd)
  /-- R124: LOAD_TABLE checks the descriptor and installs the first version of a table as CURRENT in slot 0. -/
  | loadTable (c : Cmd)
  /-- R129: PUBLISH_TABLE on the manager checks the member records and sends PREPARE to every member. -/
  | publishTable (c : Cmd)
  /-- R129: A member receives PREPARE, checks the descriptor and its slots, sets a slot PENDING and answers READY or REFUSE. -/
  | prepare (h : Hdr) (table epoch time : Nat) (desc : List Byte)
  /-- R129: The manager receives READY; with READY from every member it copies the commit to the deputy and sends COMMIT. -/
  | ready (h : Hdr) (table epoch : Nat)
  /-- R129: The manager receives REFUSE and aborts the publication. -/
  | refuse (h : Hdr) (table epoch reason : Nat)
  /-- R129: Time T minus half the lead passes with a reply still missing, and the manager sends ABORT. -/
  | publishReplyDeadline (table : Nat)
  /-- R130: A member receives COMMIT and flips its PENDING slot to CURRENT at the later of T and receipt. -/
  | commit (h : Hdr) (table epoch time : Nat)
  /-- R129: Commit time T arrives at a member holding COMMIT, which flips PENDING to CURRENT and CURRENT to PREVIOUS. -/
  | commitTimeReached (table : Nat)
  /-- R129: A member receives ABORT and its PENDING slot becomes EMPTY. -/
  | abort (h : Hdr) (table epoch : Nat)
  /-- R129: A member's last LOOKUP or UPDATE_ROWS stamped with a former epoch completes, and it sends DRAINED. -/
  | memberDrainDone (table epoch : Nat)
  /-- R129: The manager receives DRAINED and, after every member's, sends DROP of the drained epochs. -/
  | drained (h : Hdr) (table epoch : Nat) (none : Bool)
  /-- R129: A member receives DROP for an epoch held PREVIOUS or RETIRING and schedules that slot to become EMPTY. -/
  | drop (h : Hdr) (table epoch : Nat)
  /-- R129: The owner work on batches stamped with a dropped or retiring epoch ends, the slot becomes EMPTY, and Graft entries of it are freed. -/
  | ownerEpochWorkEnd (table epoch : Nat)
  /-- R134: RETIRE_TABLE moves local versions to RETIRING, or on the manager sends RETIRE with a retire time. -/
  | retireTable (c : Cmd)
  /-- R136: A domain RETIRE_TABLE that waited for a publication of the same table starts when that publication completes. -/
  | retireAfterPublish (c : Cmd)
  /-- R134: A member receives RETIRE and schedules its versions to go RETIRING at the retire time. -/
  | retire (h : Hdr) (table time : Nat)
  /-- R134: The retire time arrives and the member moves its held versions to RETIRING. -/
  | retireTimeReached (table : Nat)
  /-- R137: UPDATE_ROWS is checked, its rows are bucketed by owner and UPD_BATCH messages are sent. -/
  | updateRows (c : Cmd)
  /-- R141: An owner receives an update batch, checks its epoch and applies each row's update as one slot read-modify-write. -/
  | updBatch (h : Hdr) (m : UpdMsg)
  /-- R145: The requester receives UPD_ACK, accumulates counts from counting owners and completes UPDATE_ROWS when every row is acknowledged. -/
  | updAck (h : Hdr) (m : UpdAckMsg)
  /-- R151: A Graft replica holder receives INVALIDATE, updates its overlay entry and answers INV_ACK. -/
  | invalidate (h : Hdr) (r : RowRef)
  /-- R144: The owner receives INV_ACK and, when every holder has answered, sends UPD_ACK for the row. -/
  | invAck (h : Hdr) (r : RowRef)
  /-- R146: Every 2^decay_shift µs every count sketch counter is halved. -/
  | sketchDecay
  /-- R148: GRAFT_ROW on the manager broadcasts WATCH or UNWATCH, or starts replication, unreplication or migration of a row. -/
  | graftRow (c : Cmd)
  /-- R152: The primary owner receives REP_ADD, registers the holder and sends REP_GRANT. -/
  | repAdd (h : Hdr) (r : RowRef) (holder : Nat)
  /-- R152: The primary owner receives REP_DROP and sends REP_REVOKE to the holder. -/
  | repDrop (h : Hdr) (r : RowRef) (holder : Nat)
  /-- R152: A holder receives REP_GRANT, creates its entry in INVALID and answers REP_ACK. -/
  | repGrant (h : Hdr) (r : RowRef)
  /-- R152: A holder receives REP_REVOKE, frees its entry and answers REP_ACK. -/
  | repRevoke (h : Hdr) (r : RowRef)
  /-- R152: The owner receives REP_ACK, registers or unregisters the holder or continues a migration, and sends REP_DONE. -/
  | repAck (h : Hdr) (r : RowRef)
  /-- R152: The manager receives REP_DONE and completes GRAFT_ROW. -/
  | repDone (h : Hdr) (r : RowRef) (holder : Nat)
  /-- R151: The primary owner receives REP_FILL, reads the slot and sends FILL_DATA. -/
  | repFill (h : Hdr) (r : RowRef)
  /-- R151: A holder receives FILL_DATA and installs or discards it according to its entry state. -/
  | fillData (h : Hdr) (r : RowRef) (slot : List Byte)
  /-- R153: Old owner, shard replica and new owner receive MIG_BEGIN and enter COPYING, SHADOW and RECEIVING. -/
  | migBegin (h : Hdr) (r : RowRef) (newOwner oldOwner replica : Nat)
  /-- R153: The new owner receives the row slot, stores it in its migration area, becomes OWNER and sends MIG_READY. -/
  | migData (h : Hdr) (r : RowRef) (slot : List Byte)
  /-- R153: The old owner receives MIG_READY, enters FORWARDING and sends MIG_FWD to the shard replica. -/
  | migReady (h : Hdr) (r : RowRef)
  /-- R153: The shard replica receives MIG_FWD, enters FORWARDING and answers MIG_FWD_ACK. -/
  | migFwd (h : Hdr) (r : RowRef)
  /-- R153: The old owner receives MIG_FWD_ACK, forwards its held updates to the new owner and sends MIG_COPIED. -/
  | migFwdAck (h : Hdr) (r : RowRef)
  /-- R153: The manager receives MIG_COPIED and sends OVERLAY_SET to every member. -/
  | migCopied (h : Hdr) (r : RowRef)
  /-- R153: A member receives OVERLAY_SET, sets the row to MOVED and answers once its earlier batches for the row have finished. -/
  | overlaySet (h : Hdr) (r : RowRef) (newOwner : Nat)
  /-- R153: The manager receives OVERLAY_ACK and, after every member's, sends MIG_END and completes GRAFT_ROW. -/
  | overlayAck (h : Hdr) (r : RowRef)
  /-- R153: Old owner and shard replica receive MIG_END and set the row GONE. -/
  | migEnd (h : Hdr) (r : RowRef) (newOwner oldOwner replica : Nat)
  /-- R154: The new owner receives ROW_FETCH for a forwarded row and answers ROW_DATA. -/
  | rowFetch (h : Hdr) (r : RowRef) (tag : Nat)
  /-- R154: A forwarding party receives ROW_DATA and pools the row into the waiting batch. -/
  | rowData (h : Hdr) (r : RowRef) (tag : Nat) (slot : List Byte)
  /-- R155: The new owner fails before MIG_READY and the manager abandons the migration, returning the row to its old owner. -/
  | migrationAbandon (r : RowRef)
  /-- R165: The scrub of a group leaving a partition ends, its Canopy lines are invalidated and the new assignment takes effect. -/
  | groupScrubDone
  /-- R172: A write to CAN_WAY_MODE changes the mode of ways whose partitions hold no context, clears them, and counts refusals. -/
  | canWayModeWrite (value : Nat)
  /-- R177: A memory-side operation reaches its Xylem unit and is applied as one sector read-modify-write, or staged in its reduction group. -/
  | xylemMemopApply (j : Nat)
  /-- R179: A first contribution that waited for staging entries reserves them when they free. -/
  | redStagingReserve (channel : Nat)
  /-- R180: A reduction group incomplete after timeout_us is discarded and FLT_WATCHDOG goes to each staged contributor. -/
  | redGroupTimeout (part group sector : Nat)
  /-- R186: A Xylem unit's patrol scrub reads and checks a sector of its channel. -/
  | patrolScrub (sector err : Nat)
  /-- R188: A write of MEM_TEST_CTL with maint set requests raw test access, taking effect only with no context. -/
  | maintRequest (value : Nat)
  /-- R188: Traffic to the stack has stopped and any running Taproot repair has ended, so granted rises. -/
  | maintGrant
  /-- R188: A write of MEM_TEST_CTL with maint clear ends test access and restores traffic. -/
  | maintRelease (value : Nat)
  /-- R188: A write of MEM_PPR_REQ with go set starts a post-package repair while granted is 1. -/
  | pprGo (value : Nat)
  /-- R188: A requested post-package repair completes, fails or finds no resource, and the status bit is set. -/
  | pprDone (status : Nat)
  /-- R188: A write of MEM_1500_INSTR shifts an IEEE 1500 wrapper instruction into the stack. -/
  | mem1500InstrWrite (value : Nat)
  /-- R188: A write of MEM_1500_DATA shifts one data word in. -/
  | mem1500DataWrite (value : Nat)
  /-- R188: A read of MEM_1500_DATA returns the word shifted out. -/
  | mem1500DataRead
  /-- R190: The soft repair ends, the sectors are written back and the bank is released. -/
  | taprootRepairDone (soft : Bool)
  /-- R211: A tile step whose operands, scales and escapes are available enters the Lattice pipeline. -/
  | tileStep (k : Nat)
  /-- R210: A tile drains, passes its residue check, is narrowed and written back, and its token is released. -/
  | tileWriteback (k : Nat)
  /-- R215: A mismatched block is recomputed on a stand-in Lattice, giving a strike or a quarantine and FLT_RESIDUE. -/
  | tileRetry (k lattice : Nat)
  /-- R216: A Lattice drains 2^24 tiles without a mismatch and one strike is cleared. -/
  | strikeClear (k lattice : Nat)
  /-- R223: A write of LAT_INJECT arms a one-time bit inversion in the next drained tile of a Lattice. -/
  | latInjectArm (k value : Nat)
  /-- R231: The next issued chain starts when the running chain completes. -/
  | chainStart (k : Nat)
  /-- R236: A chain's outputs, escape group and summary register are written and its token released. -/
  | chainComplete (k : Nat)
  /-- R256: The ALU instruction computes its function of two registers. -/
  | alu (k : Nat)
  /-- R255: ADDI adds a sign-extended immediate. -/
  | addi (k : Nat)
  /-- R255: ANDI ands a zero-extended immediate. -/
  | andi (k : Nat)
  /-- R255: ORI ors a zero-extended immediate. -/
  | ori (k : Nat)
  /-- R255: XORI xors a zero-extended immediate. -/
  | xori (k : Nat)
  /-- R255: SHI shifts a register by an immediate amount. -/
  | shi (k : Nat)
  /-- R255: LUI loads a shifted immediate. -/
  | lui (k : Nat)
  /-- R255: SLTI sets a register when less than an immediate. -/
  | slti (k : Nat)
  /-- R257: LD loads a 64-bit grove store word. -/
  | ld (k : Nat)
  /-- R257: LW loads a zero-extended 32-bit grove store word. -/
  | lw (k : Nat)
  /-- R257: SD stores a 64-bit word to the grove store. -/
  | sd (k : Nat)
  /-- R257: SW stores a 32-bit word to the grove store. -/
  | sw (k : Nat)
  /-- R258: AMO issues a memory-side operation on a context address. -/
  | amo (k : Nat)
  /-- R255: BEQ branches when two registers are equal. -/
  | beq (k : Nat)
  /-- R255: BNE branches when two registers differ. -/
  | bne (k : Nat)
  /-- R255: BLT branches on signed less-than. -/
  | blt (k : Nat)
  /-- R255: BGE branches on signed greater-or-equal. -/
  | bge (k : Nat)
  /-- R255: BLTU branches on unsigned less-than. -/
  | bltu (k : Nat)
  /-- R255: BGEU branches on unsigned greater-or-equal. -/
  | bgeu (k : Nat)
  /-- R255: JAL jumps and links into x1. -/
  | jal (k : Nat)
  /-- R254: JALR jumps to a register plus offset and links. -/
  | jalr (k : Nat)
  /-- R260: BSUM branches on a summary register compared with a scalar register. -/
  | bsum (k : Nat)
  /-- R252: MVS copies a summary register to a scalar register. -/
  | mvs (k : Nat)
  /-- R259: CSRR reads a control-state register. -/
  | csrr (k : Nat)
  /-- R259: CSRW writes a control-state register. -/
  | csrw (k : Nat)
  /-- R199: LTILE checks and issues a tile descriptor to the Lattices under a token. -/
  | ltile (k : Nat)
  /-- R233: VCHAIN checks and issues a chain descriptor to the vector engine under a token. -/
  | vchain (k : Nat)
  /-- R292: HSTART checks a stream program, copies it into a Helix channel and starts it. -/
  | hstart (k : Nat)
  /-- R360: GDMA checks and queues a grove DMA descriptor under a token. -/
  | gdma (k : Nat)
  /-- R265: WAIT holds the core until the named tokens are released. -/
  | wait (k : Nat)
  /-- R255: TOKS returns the mask of pending tokens. -/
  | toks (k : Nat)
  /-- R269: BAR waits for the Grove's tokens and AMOs and arrives at a hardware barrier. -/
  | bar (k : Nat)
  /-- R270: A barrier generation is not complete within timeout_us and raises FLT_BARRIER_TIMEOUT. -/
  | barrierTimeout (ctx : Nat)
  /-- R255: The core's FENCE waits until every AMO of the core has completed. -/
  | coreFence (k : Nat)
  /-- R266: WORK draws the next work item from a counter. -/
  | work (k : Nat)
  /-- R271: TAG checks its region and fires a tensor dump copy when an armed dump matches. -/
  | tag (k : Nat)
  /-- R532: A TAG's dump copy arrives, the record header is written and TAG completes. -/
  | tagCopyDone (k : Nat)
  /-- R272: END waits for the Grove's tokens and AMOs and ends its program. -/
  | endProg (k : Nat)
  /-- R265: A core held on a token, a full engine queue or an AMO fetch resumes when its condition is met. -/
  | coreResume (k : Nat)
  /-- R273: A node's time reaches the watchdog limit and the core traps with FLT_WATCHDOG. -/
  | coreWatchdog (k : Nat)
  /-- R291: A Helix LOOP opens a loop at the next depth. -/
  | loop (k ch : Nat)
  /-- R291: A Helix ENDL advances the innermost counter and loops or closes. -/
  | endl (k ch : Nat)
  /-- R291: A Helix STRIDE sets a stride register. -/
  | stride (k ch : Nat)
  /-- R291: A Helix LDA loads an address register from the grove store. -/
  | lda (k ch : Nat)
  /-- R291: A Helix ADDA adds a value to an address register. -/
  | adda (k ch : Nat)
  /-- R291: A Helix READ issues requests that append bytes from an address. -/
  | read (k ch : Nat)
  /-- R291: A Helix READ2 appends several strided rows. -/
  | read2 (k ch : Nat)
  /-- R291: A Helix GATHER reads an index list and appends the indexed elements. -/
  | gather (k ch : Nat)
  /-- R291: A Helix ZERO appends zero bytes under credit. -/
  | zero (k ch : Nat)
  /-- R286: A Helix TAKE accepts slots from the external producer once they lie within the credit window. -/
  | take (k ch : Nat)
  /-- R298: A Helix BARW waits until bar_gen has advanced by n since HSTART. -/
  | barw (k ch : Nat)
  /-- R293: A Helix HEND ends the program once its issued requests have arrived. -/
  | hend (k ch : Nat)
  /-- R282: Data of a Helix request arrives in the ring and the tail advances over completed slots. -/
  | helixRequestArrive (k ch j : Nat)
  /-- R293: A stream program's last arrival lands, the last slot is zero-filled and the channel token is released. -/
  | helixProgramEnd (k ch : Nat)
  /-- R286: An external producer writes granted bytes into a bound slot ring. -/
  | extProducerWrite (ctx ring j : Nat)
  /-- R302: A Helix request meets a translation fault, the channel stops issuing and halts at its resume point. -/
  | helixFaultHalt (k ch : Nat)
  /-- R315: A write of XLT_SPAN_GO with write set installs or removes a span entry, or refuses it with a result code. -/
  | spanWrite (value : Nat)
  /-- R315: A write of XLT_SPAN_GO with read set returns the present entry and source word into the window. -/
  | spanRead (value : Nat)
  /-- R316: Every access translated with a replaced span entry has been accepted and done rises. -/
  | spanWriteDone
  /-- R319: An ATS Translation Completion fills an address translation cache entry and the waiting access proceeds. -/
  | atsCompletion (pasid page size target : Nat) (read write : Bool)
  /-- R320: An ATS Invalidate Request removes matching entries and waits for affected accesses. -/
  | atsInvalidate (tag pasid addr size : Nat) (global : Bool)
  /-- R320: The affected reads complete and writes are sent, and the Invalidate Completion is returned. -/
  | atsInvalidateComplete (tag : Nat)
  /-- R323: A host translation fault joins an outstanding page request or opens one in the PASID's group. -/
  | hostFault (pasid page : Nat) (write : Bool)
  /-- R324: A page request group's window elapses and the group is sent. -/
  | priGroupWindow (pasid : Nat)
  /-- R325: A PRG response arrives and every waiter of the group retranslates or fails. -/
  | prgResponse (index code : Nat)
  /-- R325: No PRG response arrives within the timeout and every waiter fails with FLT_XLATE. -/
  | priTimeout (index : Nat)
  /-- R328: A fault on an absent span starts or joins a span load by Crown firmware. -/
  | absentSpanFault (ctx va : Nat)
  /-- R328: A span load ends, absent is cleared and waiters translate again, or they fail. -/
  | absentLoadDone (ctx va : Nat) (ok : Bool) (data : List Byte)
  /-- R338: SET_BIAS holds new accesses to the range and starts draining and, when asked, flushing. -/
  | setBias (c : Cmd)
  /-- R338: The drain and flush of SET_BIAS end, the bias table is updated and held accesses proceed. -/
  | setBiasDone (c : Cmd) (ok : Bool)
  /-- R354: DMA_SUBMIT binds, configures and enables a bulk channel. -/
  | dmaSubmit (c : Cmd)
  /-- R358: DMA_STOP starts stopping a bulk channel at its next descriptor boundary. -/
  | dmaStop (c : Cmd)
  /-- R356: A host write of DMA_CH_TAIL sets the tail of an ENABLED channel. -/
  | dmaChTailWrite (n value : Nat)
  /-- R356: A bulk channel with head not equal to tail fetches and starts the next descriptor. -/
  | bulkDescStart (n : Nat)
  /-- R351: A bulk descriptor's transfer ends, its status is written, its chain and notify follow and head advances. -/
  | bulkDescComplete (n : Nat)
  /-- R360: A grove DMA engine starts the next queued descriptor. -/
  | groveDescStart (k : Nat)
  /-- R352: A grove descriptor's writes arrive, its status is written and its token released. -/
  | groveDescComplete (k : Nat)
  /-- R362: A write setting GDMA_CTL.disable stops the engine and discards its queue when no context is resident. -/
  | gdmaDisable (k : Nat)
  /-- R362: A write clearing GDMA_CTL.disable re-enables the engine with an empty queue. -/
  | gdmaEnable (k : Nat)
  /-- R372: A doorbell write sets the tail of a context's command ring. -/
  | dbTail (ctx q value : Nat)
  /-- R372: A doorbell write sets the completion ring head that software has read. -/
  | dbCplHead (ctx value : Nat)
  /-- R378: Crown fetches and starts the next startable command of the highest-class ring. -/
  | packetFetch (ctx q : Nat)
  /-- R597: A ring fetch or head_shadow write fails after handling, the packet gets ST_FAULT and the context is torn down. -/
  | ringFetchFault (ctx q : Nat) (shadow : Bool) (fault : Nat) (header : Option W64)
  /-- R383: NOP completes with ST_OK. -/
  | nop (c : Cmd)
  /-- R384: FENCE completes when the earlier commands of its scope have completed. -/
  | fence (c : Cmd)
  /-- R385: WRITE_INLINE writes inline bytes to a context address. -/
  | writeInline (c : Cmd)
  /-- R386: WAIT_VALUE reads a word and completes when the masked comparison holds. -/
  | waitValue (c : Cmd)
  /-- R386: A pending WAIT_VALUE rereads its word at least once per µs and after each completion of the context. -/
  | waitValuePoll (c : Cmd)
  /-- R386: A WAIT_VALUE unsatisfied after timeout_us completes with FLT_WATCHDOG. -/
  | waitValueTimeout (c : Cmd)
  /-- R388: Crown writes the next completion record of a context into its completion ring when room and translation allow. -/
  | completionRecordWrite (ctx : Nat)
  /-- R390: A completion ring's interrupt holdoff ends and one message covers the records that needed it. -/
  | irqHoldoffExpire (ctx : Nat)
  /-- R393: LAUNCH makes a grove program node ready for its Groves. -/
  | launch (c : Cmd)
  /-- R400: LAUNCH_GRAPH pins the current generation of a stored graph and starts its root nodes. -/
  | launchGraph (c : Cmd)
  /-- R401: A graph node whose predecessors have completed reads its slots and parameters and starts. -/
  | graphNodeStart (launch n : Nat)
  /-- R399: STORE_GRAPH checks a graph image and stores it as generation 1. -/
  | storeGraph (c : Cmd)
  /-- R403: PATCH_GRAPH makes a new generation by copy or rewrites slot values. -/
  | patchGraph (c : Cmd)
  /-- R405: RETIRE_GRAPH makes a graph DRAINING until its generations are freed. -/
  | retireGraph (c : Cmd)
  /-- R407: A write of CRN_UCL_POP advances the undeliverable-completion log consumer. -/
  | uclPop (value : Nat)
  /-- R381: A member's Crown receives a manager command packet and runs it in its device queue. -/
  | cmd (h : Hdr) (payload : List Byte)
  /-- R381: The manager receives the completion record of a manager packet. -/
  | cmdCpl (h : Hdr) (r : Record)
  /-- R411: A write of CTX_ADMIN_CTL with go set creates the administrative context. -/
  | adminCreate (pasid : Nat)
  /-- R411: A write of CTX_ADMIN_CTL with go clear destroys the administrative context. -/
  | adminDestroy (pasid : Nat)
  /-- R414: CTX_PARTITION sets or deletes a partition's masks and mode, scrubbing groups and ways that leave. -/
  | ctxPartition (c : Cmd) (rivals : List Order)
  /-- R416: CTX_CREATE reads the queue table and creates a context in state OUT. -/
  | ctxCreate (c : Cmd) (rivals : List Order)
  /-- R417: CTX_DESTROY starts tearing a context down. -/
  | ctxDestroy (c : Cmd) (rivals : List Order)
  /-- R417: A teardown finishes and Crown retires graphs, frees the span table, unbinds the PASID and completes CTX_DESTROY. -/
  | contextTeardownEnd (ctx : Nat)
  /-- R434: CTX_PIN pins or unpins a context and reserves or releases Groves. -/
  | ctxPin (c : Cmd) (rivals : List Order)
  /-- R424: A ready node takes its Groves when all are free and loads its program. -/
  | nodeStart (ctx : Nat)
  /-- R425: A waiter and a runner have both held their slice, and the runner is soft-pre-empted. -/
  | sliceExpire (waiter runner : Nat)
  /-- R427: A soft pre-emption has not reached a tile boundary after 19 µs and becomes hard. -/
  | softEscalate (ctx grove : Nat)
  /-- R426: Every Grove of a pre-empted node has written its records and the node is stopped. -/
  | preemptStopped (ctx : Nat)
  /-- R426: A Grove's chunks and scale file are saved and a waiting program load may start. -/
  | groveSaveDone (grove : Nat)
  /-- R428: A saved node's logical Groves are free and its slots and barrier record are restored before restart. -/
  | nodeRestore (ctx : Nat)
  /-- R429: A runnable context takes a residency slot, evicting under R432 if needed, and its scratch image is restored. -/
  | swapIn (ctx : Nat)
  /-- R433: An eviction ends and its slot returns to the reserve. -/
  | evictionDone (ctx : Nat)
  /-- R433: A swap-in ends and the context becomes resident. -/
  | swapInDone (ctx : Nat)
  /-- R439: A Chord finishes or fails training and comes up or stays down. -/
  | chordTrainDone (n : Nat) (ok : Bool)
  /-- R442: A flit is received and checked, acknowledged or naked, and credits returned to it are taken. -/
  | flit (n : Nat) (bytes : List Byte)
  /-- R442: A retrain does not end within 10 ms, the Chord goes down and its buffered flits are lost. -/
  | chordRetrainTimeout (n : Nat)
  /-- R456: A trained Chord sends HELLO every 100 µs until it receives one. -/
  | helloTimer (n : Nat)
  /-- R456: A device receives HELLO and records the neighbour's kind and fields. -/
  | hello (n : Nat) (m : HelloMsg)
  /-- R456: A device without an ID broadcasts ANNOUNCE every 200 µs. -/
  | announceTimer
  /-- R457: A device receives ANNOUNCE and records the candidate UID heard. -/
  | announce (uid : Nat) (mgrCapable candidate reserve : Bool) (dev term : Nat)
  /-- R457: A candidate's window ends with no lower candidate heard and it broadcasts CLAIM. -/
  | electionWindow
  /-- R457: A device receives CLAIM and accepts it by term and UID, a manager stepping down when outranked. -/
  | claim (h : Hdr) (m : ClaimMsg)
  /-- R458: A device receives ASSIGN, takes its device ID and answers JOINED. -/
  | assign (h : Hdr) (uid dev : Nat) (reserve : Bool) (term members : Nat)
  /-- R458: The manager receives JOINED and forms the domain when every heard device has joined. -/
  | joined (h : Hdr) (uid dev : Nat) (report : Option (List JoinEntry))
  /-- R455: A part in a direct domain receives ROUTE_SET and installs its route table. -/
  | routeSet (h : Hdr) (routes : List (Nat × Nat))
  /-- R461: A member sends KEEPALIVE to the manager every keepalive interval. -/
  | keepaliveTimer
  /-- R461: The manager receives KEEPALIVE and restarts the member's miss count. -/
  | keepalive (h : Hdr) (time : Nat)
  /-- R461: A member misses miss_limit keepalive intervals and the manager declares it DOWN. -/
  | keepaliveMiss (dev : Nat)
  /-- R461: The manager or deputy receives DEPART and declares the sender DOWN or takes over. -/
  | depart (h : Hdr) (reason : Nat)
  /-- R462: A member receives DEVICE_DOWN and reroutes or finalises batches for the ID. -/
  | deviceDown (h : Hdr) (dev : Nat)
  /-- R46: A member receives CHORD_ENABLE and enables the named Chords. -/
  | chordEnable (h : Hdr) (mask : Nat)
  /-- R46: A member receives CHORD_DISABLE and starts draining the named Chords. -/
  | chordDisable (h : Hdr) (mask : Nat)
  /-- R46: A draining Chord's queues are empty and the link is down, so it becomes DISABLED. -/
  | chordDrainEnd (n : Nat)
  /-- R460: The deputy receives a copy of manager state and answers MGR_STATE_ACK. -/
  | mgrState (h : Hdr) (item : MgrItem) (copy : Nat)
  /-- R460: The manager receives MGR_STATE_ACK and may act on that item of state. -/
  | mgrStateAck (h : Hdr) (kind copy : Nat)
  /-- R463: The deputy misses 3 beacon intervals from the manager and claims the next term. -/
  | deputyTakeover
  /-- R464: Neither manager nor deputy claims within the window and members hold a fresh election. -/
  | freshElection
  /-- R446: A sender receives end-to-end credit and waiting requests may go. -/
  | credit (h : Hdr)
  /-- R450: A timed request's response is not received within e2e_timeout_us and the request fails. -/
  | e2eTimeout (tag : Nat)
  /-- R453: A device receives REG_WRITE from the manager and performs or refuses the register write. -/
  | regWrite (h : Hdr) (off width tag value : Nat)
  /-- R453: A device receives REG_READ and answers with REG_RSP. -/
  | regRead (h : Hdr) (off width tag : Nat)
  /-- R453: The manager or deputy receives the response to a register access. -/
  | regRsp (h : Hdr) (tag status fault value : Nat)
  /-- R466: The manager sends BEACON on every plane every beacon_us. -/
  | beaconTimer
  /-- R466: A member receives BEACON and forms a fabric time estimate. -/
  | beacon (h : Hdr) (origin : Nat) (correction : Int) (term : Nat) (stamp : Nat)
  /-- R466: At each beacon interval a member steps or adjusts its counter from the median estimate and updates lock. -/
  | timeDiscipline
  /-- R466: Every 1 ms a Chord sends DELAY_REQ to its neighbour. -/
  | delayTimer (n : Nat)
  /-- R466: A Chord receives DELAY_REQ and answers DELAY_RSP with timestamps. -/
  | delayReq (n t1 t2 t3 : Nat)
  /-- R466: A Chord receives DELAY_RSP and computes the link delay. -/
  | delayRsp (n t1 t2 t3 t4 : Nat)
  /-- R452: An owner serves a global read and answers GRDATA. -/
  | gread (h : Hdr) (offset bytes tag : Nat)
  /-- R452: A requester receives global read data or a failure. -/
  | grdata (h : Hdr) (tag status fault : Nat) (data : List Byte)
  /-- R452: An owner serves a global write and answers GW_ACK. -/
  | gwrite (h : Hdr) (offset tag : Nat) (data : List Byte)
  /-- R452: A requester receives the acknowledgement of a global write. -/
  | gwAck (h : Hdr) (tag status fault : Nat)
  /-- R452: An owner receives a remote memory-side operation and hands it to its Xylem unit. -/
  | memop (h : Hdr) (m : MemopMsg)
  /-- R452: A requester receives the outcome and old value of a remote memory-side operation. -/
  | memopAck (h : Hdr) (tag status fault old : Nat)
  /-- R469: SYNC_START arms the following launch work to issue at a fabric time. -/
  | syncStart (c : Cmd)
  /-- R469: Fabric time reaches T, and armed Groves issue their first instructions or the start is missed. -/
  | syncStartTime (c : Cmd)
  /-- R520: A member receives SYNC_TRIGGER and schedules a counter action at T. -/
  | syncTrigger (h : Hdr) (time id : Nat)
  /-- R471: FABRIC_STATUS queries, stands, withdraws, lists members or reports a publication outcome. -/
  | fabricStatus (c : Cmd)
  /-- R473: SWITCH_IN on the manager assigns a failed ID to a reserve and starts its restore. -/
  | switchIn (c : Cmd)
  /-- R473: A member receives RESTORE_BEGIN, holds updates for the ID and answers once earlier ones are settled. -/
  | restoreBegin (h : Hdr) (dev : Nat)
  /-- R473: The manager receives RESTORE_ACK and after every member's sends restore records. -/
  | restoreAck (h : Hdr) (dev : Nat)
  /-- R473: The reserve receives restore records and copies or installs them. -/
  | restoreRec (h : Hdr) (recs : List RestoreRec)
  /-- R473: The manager receives RESTORE_DONE and broadcasts RESTORE_END. -/
  | restoreDone (h : Hdr) (failed first : Nat)
  /-- R473: A member receives RESTORE_END and releases its held updates. -/
  | restoreEnd (h : Hdr) (dev : Nat)
  /-- R579: The ROM receives a firmware image segment and adds it to the assembly. -/
  | image (h : Hdr) (payload : List Byte)
  /-- R482: The host writes configuration space, enabling capabilities such as ATS, PRI, CXL.cache or MSI-X. -/
  | pcieConfigWrite (off size value : Nat)
  /-- R483: An inbound AtomicOp, I/O request or out-of-BAR request is answered Unsupported Request. -/
  | inboundUnsupported (posted : Bool)
  /-- R480: A CXL.cache snoop is answered as a miss. -/
  | cxlSnoop (addr : Nat)
  /-- R485: A masked vector with its PBA bit set is unmasked and sends one message. -/
  | msixUnmask (v : Nat)
  /-- R489: The host link enters Recovery and returns to L0, holding requests meanwhile. -/
  | linkRetrain (ended : Bool) (speed width : Nat)
  /-- R490: A completion for a host read arrives, with data or an error status. -/
  | hostReadCompletion (tag status : Nat) (data : List Byte)
  /-- R490: A non-posted host request's completion timer expires and the request fails. -/
  | hostCplTimeout (tag : Nat)
  /-- R491: DL_Down without a preceding reset starts a host-loss reset. -/
  | linkDown
  /-- R491: PERST_N is asserted and a host-loss reset starts. -/
  | perstNAssert
  /-- R491: A hot reset or link disable starts a host-loss reset. -/
  | hotReset
  /-- R491: A Function Level Reset starts a host-loss reset. -/
  | flr
  /-- R573: PERST_N is released, straps are sampled and the host link and Chords train. -/
  | perstNDeassert (mgrCapable reserve : Bool) (smbAddr : Nat)
  /-- R495: Writing 1 to HL_CRASH_CTL.valid clears the crash record. -/
  | hlCrashCtlWrite (value : Nat)
  /-- R542: The host sets D3hot, Groves park, HBM enters self-refresh and Crown stops fetching. -/
  | d3hotEntry
  /-- R542: The host sets D0 and the part returns to RUN. -/
  | d0Entry
  /-- R503: DIGEST_REGION computes two CRC-64 words over a region and compares them with an expected digest. -/
  | digestRegion (c : Cmd)
  /-- R506: An idle Grove past its probe period starts a probe run. -/
  | probeStart (k : Nat)
  /-- R508: A probe run ends and the hub compares signatures, votes with a third Grove and gives strikes. -/
  | probeRunEnd (k : Nat) (errors : List (Nat × Nat))
  /-- R508: A probe pair's second run has not ended within expire_ms and the pair is discarded. -/
  | probeExpire (n : Nat)
  /-- R517: A write of EVT_SEL sets an event counter's selection and zeroes it, or is refused. -/
  | evtSelWrite (u i value : Nat)
  /-- R518: COUNTER_FREEZE schedules a freeze, thaw or trigger locally or across the domain. -/
  | counterFreeze (c : Cmd)
  /-- R519: Fabric time reaches T and the counters latch, thaw or the trigger fires. -/
  | freezeTime (k : Nat)
  /-- R522: TRACE_ARM arms or disarms the trace buffer. -/
  | traceArm (c : Cmd)
  /-- R526: A write of OBS_TRACE_FIRE fires an armed trace. -/
  | traceFire (value : Nat)
  /-- R528: post_limit_ms elapses after the trigger and the trace ends. -/
  | tracePostLimit
  /-- R528: The post phase ends, END and the header are written and device vector 9 is raised. -/
  | tracePostEnd
  /-- R530: DUMP_TENSOR arms or disarms a dump slot of the context. -/
  | dumpTensor (c : Cmd)
  /-- R533: An armed dump that has not fired reaches limit_us and completes. -/
  | dumpExpire (ctx slot : Nat)
  /-- R539: The input rises through 38.0 V and the package capacitance starts charging. -/
  | inputPowerUp
  /-- R539: Inrush ends, the standby converter starts and the part enters STANDBY and the ROM stage. -/
  | inrushDone (smbAddr : Nat)
  /-- R541: The input falls below 36.0 V and the part turns OFF. -/
  | inputPowerLoss
  /-- R544: Every 10 ns the ramp governor samples input current, holds Grove issue or moves the ballast. -/
  | rampGovernorTick (mv load held : Nat)
  /-- R546: The time before a ballasted SYNC_START arrives and the ballast ramps to the expected step. -/
  | ballastPrerampStart (k : Nat)
  /-- R549: POWER_CAP sets or clears the host or manager cap slot. -/
  | powerCap (c : Cmd)
  /-- R550: Every 100 µs Taproot compares average power with the effective cap and adjusts cap duty. -/
  | capControlTick (avg withheld : Nat)
  /-- R552: Every 10 µs the temperature sensors are read. -/
  | sensorReadTick (temps : List Nat)
  /-- R553: Every 100 µs Taproot adjusts each grove die's thermal duty. -/
  | thermalTick
  /-- R554: A sensor above 102 °C for 1 ms at minimum duty parks the row of Groves above it. -/
  | thermalPark (sensor : Nat)
  /-- R554: The die has stayed below 97 °C for 10 ms and one parked row is unparked. -/
  | thermalUnpark (die : Nat)
  /-- R556: EMSTOP_N held low for 1 µs starts an emergency stop. -/
  | emstopNLow
  /-- R556: Input above the over-voltage threshold for 10 µs starts an emergency stop. -/
  | overVoltage
  /-- R556: Input current above the threshold for 1 µs starts an emergency stop. -/
  | overCurrent
  /-- R556: A power-stage die reports a fault and an emergency stop starts. -/
  | powerStageFault
  /-- R563: The root PLL loses lock in RUN and an emergency stop starts. -/
  | rootPllUnlock
  /-- R561: The root PLL or a SerDes PLL achieves lock. -/
  | pllLock (pll : Nat)
  /-- R562: A SerDes PLL loses lock and its four Chords go down. -/
  | serdesPllUnlock (q : Nat)
  /-- R568: The sideband IDENT command returns part and UID. -/
  | ident (pec : Bool)
  /-- R568: The sideband TELEMETRY command returns power and thermal telemetry. -/
  | telemetry (pec : Bool)
  /-- R568: The sideband SENSOR command returns one sensor reading. -/
  | sensor (pec : Bool) (n : Nat)
  /-- R568: The sideband CAP_SET command sets or empties the BMC cap slot. -/
  | capSet (pec : Bool) (value : Nat)
  /-- R568: The sideband CAP_GET command returns the effective cap. -/
  | capGet (pec : Bool)
  /-- R568: The sideband EVENTS command returns the power events. -/
  | events (pec : Bool)
  /-- R568: The sideband EVENTS_CLEAR command clears power event bits. -/
  | eventsClear (pec : Bool) (value : Nat)
  /-- R568: The sideband CRASH command returns four words of the crash record. -/
  | crash (pec : Bool) (n : Nat)
  /-- R568: The sideband CRASH_CLEAR command clears the crash record. -/
  | crashClear (pec : Bool)
  /-- R558: The sideband RESTART leaves STOPPED for STANDBY when its conditions hold. -/
  | restart (pec emstopHigh : Bool) (mv : Nat) (temps : List Nat)
  /-- R569: The BMC reads the SMBus Alert Response Address and the part answers. -/
  | smbusAlertResponse
  /-- R573: The ROM's fuse and flash checks end and the main converters start, or the part halts. -/
  | romCheckDone (fuseOk flashOk : Bool)
  /-- R573: HBM training and repair conversion end and the part waits for an image, or halts. -/
  | hbmTrainDone (ok : Bool)
  /-- R578: The mailbox LOAD command reads a host image from its page list. -/
  | load
  /-- R578: The host image read ends or fails, and a complete image goes to verification. -/
  | imageReadDone
  /-- R580: Verification of an image ends and it is refused into RECOVERY or passed to START. -/
  | imageVerifyDone
  /-- R573: Sections are loaded and HBM initialised, and the part enters READY and raises the boot counter. -/
  | startDone (ok : Bool)
  /-- R582: The mailbox SVN_COMMIT command blows anti-rollback fuses up to the running image's svn. -/
  | svnCommit (ok : Bool)
  /-- R583: The mailbox OWNER_PROGRAM command blows the owner key hash. -/
  | ownerProgram (ok : Bool)
  /-- R591: The mailbox SEAL command blows the SEAL fuse, closing every RWS field and test path. -/
  | sealFuse (ok : Bool)
  /-- R587: ATTEST returns a signed report, the identity certificate or the signature status. -/
  | attest (c : Cmd) (flash : Bool)
  /-- R590: A DOE mailbox 0 request object is served as an attestation operation. -/
  | doeRequest (request : List Byte) (flash : Bool)
  /-- R492: A host-loss reset completes its step 5, and the part waits for PERST_N to be deasserted or trains the host link, then reloads firmware. -/
  | hostLossResetDone
  /-- R541: The main converters finish starting under the ramp governor, and the part leaves STANDBY for RUN. -/
  | mainConvertersUp
  /-- R573: The host link finishes training after PERST_N release or a host-loss reset, and HL_LINK_STAT reports data link up with its speed, width and mode. -/
  | hostLinkTrained (speed width : Nat) (flit cxl : Bool)
  /-- R432: A runnable context has waited slice_us for a residency slot, and rule 4 evicts a READY or RUNNING context whose pending work is not of a higher class. -/
  | residencySliceExpire (ctx : Nat)
  deriving DecidableEq, Repr

end Sys2Proof
end

