-- ==== Sys2Proof/Decode.lean ====
section
/-!
DEFINITION. Commands spelled by words. The table gives no row any bits: its rows are commands and events, so no word spells one.
The encodings that the spec gives the part's own programs (packets, graph images, core instructions, Helix programs,
messages and flits) are read where they are used.
-/

namespace Sys2Proof

/-- The command that a word of the table's bits spells: no row has bits, so none. -/
def decodeTableWord (_nbits _w : Nat) : Option Instr := none

end Sys2Proof
end

