-- ==== Sys2Proof/Config.lean ====
section
/-!
DEFINITION. What the spec leaves open. Each constant has no body, so nothing can evaluate it and a statement
about the machine holds for every value of it. `n` is the value of the counter `State.free` at the draw.
-/

namespace Sys2Proof

/-- R72: the n-th 64-bit sample of the free-running entropy source. -/
opaque Config.entropy : Nat → W64

/-- R29: the n-th choice of an order that Free mode leaves to timing, as a number reduced modulo the count of candidates. -/
opaque Config.choice : Nat → Nat

/-- R237: the offset in units in the last place of an operation whose result the spec gives within a bound only.
It depends on the function and the operand codes alone, so equal inputs give equal results (R227). -/
opaque Config.ulp : Nat → Nat → Nat → Nat

/-- R188, R492 and the like: the n-th byte or word whose value the spec leaves undefined. -/
opaque Config.undef : Nat → W64

/-- R309: the n-th victim that pseudo-LRU replacement picks. -/
opaque Config.victim : Nat → Nat

/-- R159: the bank and the DRAM row of a channel offset, as bank × 2^18 + row: a mapping that the spec keeps from software. -/
opaque Config.dramPlace : Nat → Nat

/-- R159: the 64-byte sectors of a DRAM row, by channel, pseudo-channel, bank and row. -/
opaque Config.rowSectors : Nat → Nat → Nat → Nat → List Nat

/-- R588, R587: the digest of bytes under SHAKE256 with a 32-byte output, as a number. -/
opaque Config.shake256 : List Byte → Nat

/-- R584, R587: the XMSS signature of a digest with a signature index, as bytes. -/
opaque Config.xmssSign : Nat → List Byte → List Byte

/-- R458, R460: the route records that the manager sends to a device, or to the switches under 0xFFFF: its plan of the cabling. -/
opaque Config.routesOf : Nat → List (Nat × Nat)

/-- R466: the SerDes asymmetry of a Chord that the fuses hold, in 1/256 ns. -/
opaque Config.serdesAsym : Nat → Int

/-- R580: whether an XMSS signature verifies: public key, message, signature. -/
opaque Config.xmssVerify : List Byte → List Byte → List Byte → Bool

/-- R586: the identity public key in the flash, from manufacture. -/
opaque Config.identityKey : List Byte

/-- R587: the vendor's signature in the flash certificate. -/
opaque Config.certSignature : List Byte

/-- R162, R573: where firmware puts what it keeps in the device areas: 0 the replica directory, 1 the hot-row log,
2 the undeliverable-completion log. -/
opaque Config.deviceArea : Nat → Nat

end Sys2Proof
end

