-- ==== Sys2Proof/Machine/Bits.lean ====
section
/-!
DEFINITION. Bit fields, byte order and the sparse maps, written once.
Every layout of the spec is little-endian, bit 0 the least significant (chapter 00, Notation).
-/

namespace Sys2Proof.Machine

/-- Bits `hi` down to `lo` of a word. -/
def bits (w hi lo : Nat) : Nat := (w >>> lo) % 2 ^ (hi + 1 - lo)

/-- Bit `i` of a word. -/
def bit (w i : Nat) : Bool := (w >>> i) % 2 == 1

/-- A word whose bits `hi` down to `lo` are replaced. -/
def setBits (w hi lo v : Nat) : Nat :=
  w - bits w hi lo * 2 ^ lo + (v % 2 ^ (hi + 1 - lo)) * 2 ^ lo

/-- 1 for true, 0 for false. -/
def b2n (b : Bool) : Nat := if b then 1 else 0

/-- The signed value of the low `n` bits of `w`, two's complement. -/
def sext (w n : Nat) : Int :=
  let v := w % 2 ^ n
  if v < 2 ^ (n - 1) then (v : Int) else (v : Int) - (2 ^ n : Nat)

/-- The two's-complement code of `x` in `n` bits. -/
def unsext (x : Int) (n : Nat) : Nat := (x % ((2 ^ n : Nat) : Int)).toNat

/-- The `n` bytes of `v`, least significant first. -/
def leBytes : Nat → Nat → List Byte
  | 0, _ => []
  | n + 1, v => BitVec.ofNat 8 v :: leBytes n (v / 256)

/-- The number whose bytes are listed least significant first. -/
def ofLe : List Byte → Nat
  | [] => 0
  | b :: bs => b.toNat + 256 * ofLe bs

/-- `n` elements of a list from position `i`. -/
def slice {α : Type} (i n : Nat) (l : List α) : List α := (l.drop i).take n

/-- The bytes of 64-bit words. -/
def words8 (l : List Nat) : List Byte := (l.map (leBytes 8)).flatten

/-- A field of `n` bytes at byte `i`, little-endian. -/
def leAt (l : List Byte) (i n : Nat) : Nat := ofLe (slice i n l)

/-- A list cut or padded with zero bytes to `n` bytes. -/
def padTo (n : Nat) (l : List Byte) : List Byte := l.take n ++ List.replicate (n - l.length) 0

/-- `x` rounded up to a multiple of `k`. -/
def roundUp (x k : Nat) : Nat := (x + k - 1) / k * k

/-- Value of a sparse map at a key; `d` where the key is not listed. -/
def mget {α : Type} (d : α) : Sparse α → Nat → α
  | [], _ => d
  | (k, v) :: m, a => if a = k then v else mget d m a

/-- A sparse map with one key set.
Setting the value that an unlisted key reads as removes the entry. -/
def mset {α : Type} [DecidableEq α] (d : α) : Sparse α → Nat → α → Sparse α
  | [], a, v => if v = d then [] else [(a, v)]
  | (k, x) :: m, a, v =>
    if a < k then (if v = d then (k, x) :: m else (a, v) :: (k, x) :: m)
    else if a = k then (if v = d then m else (a, v) :: m)
    else (k, x) :: mset d m a v

/-- The canonical form: keys above `lo` rising strictly, no listed default. -/
def mwfFrom {α : Type} [DecidableEq α] (d : α) : Nat → Sparse α → Bool
  | _, [] => true
  | lo, (k, v) :: m => decide (lo ≤ k) && decide (v ≠ d) && mwfFrom d (k + 1) m

/-- The canonical form of a sparse map. -/
def mwf {α : Type} [DecidableEq α] (d : α) (m : Sparse α) : Bool := mwfFrom d 0 m

/-- Consecutive keys set from a list of values. -/
def msetMany {α : Type} [DecidableEq α] (d : α) (m : Sparse α) (a : Nat) : List α → Sparse α
  | [] => m
  | v :: vs => msetMany d (mset d m a v) (a + 1) vs

/-- `n` consecutive values of a sparse map. -/
def mgetMany {α : Type} (d : α) (m : Sparse α) (a : Nat) : Nat → List α
  | 0 => []
  | n + 1 => mget d m a :: mgetMany d m (a + 1) n

/-- The first element of a list that satisfies `p`, replaced by `f` of it. -/
def updFirst {α : Type} (p : α → Bool) (f : α → α) : List α → List α
  | [] => []
  | x :: xs => if p x then f x :: xs else x :: updFirst p f xs

/-- Every element of a list that satisfies `p`, replaced by `f` of it. -/
def updWhere {α : Type} (p : α → Bool) (f : α → α) (l : List α) : List α :=
  l.map fun x => if p x then f x else x

/-- A list without the elements that satisfy `p`. -/
def dropWhere {α : Type} (p : α → Bool) (l : List α) : List α := l.filter fun x => !p x

/-- A list with element `i` replaced, if it has one. -/
def setAt {α : Type} (l : List α) (i : Nat) (v : α) : List α := l.set i v

/-- Insertion of a key into a strictly rising list of keys. -/
def keyInsert (a : Nat) : List Nat → List Nat
  | [] => [a]
  | k :: ks => if a < k then a :: k :: ks else if a = k then k :: ks else k :: keyInsert a ks

/-- The positions of the one bits of a mask of `n` bits, rising. -/
def maskBits (n mask : Nat) : List Nat := (List.range n).filter fun i => bit mask i

/-- The mask whose one bits are the listed positions. -/
def maskOf (l : List Nat) : Nat := l.foldl (fun m i => m ||| 1 <<< i) 0

/-- Number of one bits among the low `n` bits. -/
def popCount (n mask : Nat) : Nat := (maskBits n mask).length

end Sys2Proof.Machine
end

