-- ==== Sys2Proof/Machine/RegMap.lean ====
section
/-!
DEFINITION. The BAR 0 registers: offsets, widths, reset values and access kinds of every register of the spec
(chapter 00 R4 to R8 and the register tables of each chapter).
A register is named by its BAR 0 offset; an indexed register by the offset of its element.
-/

namespace Sys2Proof.Machine

/-! ### Offsets (R7: block bases; R8: Grove k at 0x200_0000 + k × 0x1_0000) -/

def Reg.GLB_PART : Nat := 0x0
def Reg.GLB_UID : Nat := 0x8
def Reg.XCH_CAPS : Nat := 0x1000000
def Reg.XCH_CFG : Nat := 0x1000008
def Reg.XCH_DEADLINE_DEF : Nat := 0x1000010
def Reg.XCH_HEDGE_CFG : Nat := 0x1000018
def Reg.XCH_DIR_BASE : Nat := 0x1000020
def Reg.XCH_CNT_LOOKUPS : Nat := 0x1000100
def Reg.XCH_CNT_INDICES : Nat := 0x1000108
def Reg.XCH_CNT_BATCHES : Nat := 0x1000110
def Reg.XCH_CNT_HEDGES : Nat := 0x1000118
def Reg.XCH_CNT_HEDGE_WINS : Nat := 0x1000120
def Reg.XCH_CNT_HEDGE_SUPPRESSED : Nat := 0x1000128
def Reg.XCH_CNT_DUP_DISCARD : Nat := 0x1000130
def Reg.XCH_CNT_LATE_DISCARD : Nat := 0x1000138
def Reg.XCH_CNT_MISSING : Nat := 0x1000140
def Reg.XCH_CNT_BAD_INDEX : Nat := 0x1000148
def Reg.XCH_CNT_SATURATE : Nat := 0x1000150
def Reg.XCH_CNT_OWNER_EXPIRED : Nat := 0x1000158
def Reg.XCH_CNT_ROW_FAULT : Nat := 0x1000160
def Reg.TBL_GRAFT_CFG : Nat := 0x1000200
def Reg.TBL_GRAFT_CAP : Nat := 0x1000208
def Reg.TBL_HOTLOG_BASE : Nat := 0x1000210
def Reg.TBL_HOTLOG_PROD : Nat := 0x1000218
def Reg.TBL_HOTLOG_CONS : Nat := 0x1000220
def Reg.TBL_CNT_UPD_ROWS : Nat := 0x1000280
def Reg.TBL_CNT_UPD_REFIT : Nat := 0x1000288
def Reg.TBL_CNT_UPD_SAT : Nat := 0x1000290
def Reg.TBL_CNT_UPD_EPOCH_GONE : Nat := 0x1000298
def Reg.TBL_CNT_EPOCH_NOTICE : Nat := 0x10002a0
def Reg.TBL_CNT_LATE_COMMIT : Nat := 0x10002a8
def Reg.TBL_CNT_INVALIDATE : Nat := 0x10002b0
def Reg.TBL_CNT_STALE_FILL : Nat := 0x10002b8
def Reg.TBL_CNT_FWD_LOOKUP : Nat := 0x10002c0
def Reg.TBL_CNT_FWD_UPDATE : Nat := 0x10002c8
def Reg.TBL_CNT_HOTLOG_DROP : Nat := 0x10002d0
def Reg.MEM_CAPS : Nat := 0x2800000
def Reg.MEM_GROUP_OWNER (i : Nat) : Nat := 0x2800100 + i * 0x8
def Reg.CAN_WAY_MODE : Nat := 0x2800200
def Reg.MEM_SCRUB_CFG : Nat := 0x2800300
def Reg.MEM_RED_CFG : Nat := 0x2800308
def Reg.MEM_TEST_CTL : Nat := 0x2800400
def Reg.MEM_TEST_STAT : Nat := 0x2800408
def Reg.MEM_PPR_REQ : Nat := 0x2800410
def Reg.MEM_PPR_STAT : Nat := 0x2800418
def Reg.MEM_1500_INSTR : Nat := 0x2801000
def Reg.MEM_1500_DATA : Nat := 0x2801008
def Reg.MEM_REPAIR_LOG (i : Nat) : Nat := 0x2802000 + i * 0x8
def Reg.MEM_REPAIR_COUNT : Nat := 0x2802200
def Reg.MEM_CNT_CE : Nat := 0x2803000
def Reg.MEM_CNT_UE : Nat := 0x2803008
def Reg.MEM_CNT_POISON_READ : Nat := 0x2803010
def Reg.MEM_CNT_ODECC : Nat := 0x2803018
def Reg.MEM_CNT_RFM : Nat := 0x2803020
def Reg.MEM_CNT_REPAIR : Nat := 0x2803028
def Reg.MEM_CNT_RED_TIMEOUT : Nat := 0x2803030
def Reg.CAN_CNT_FILL_DROP : Nat := 0x2803038
def Reg.CAN_CNT_MODE_REFUSED : Nat := 0x2803040
def Reg.CAN_CNT_ECC_REFETCH : Nat := 0x2803048
def Reg.LAT_STAT (i : Nat) : Nat := 0x2004000 + i * 0x10000
def Reg.LAT_STRIKES (i : Nat) : Nat := 0x2004008 + i * 0x10000
def Reg.LAT_INJECT (i : Nat) : Nat := 0x2004010 + i * 0x10000
def Reg.LAT_CNT_TILES (i : Nat) : Nat := 0x2004100 + i * 0x10000
def Reg.LAT_CNT_BUSY (i : Nat) : Nat := 0x2004108 + i * 0x10000
def Reg.LAT_CNT_RES_MISMATCH (i : Nat) : Nat := 0x2004110 + i * 0x10000
def Reg.LAT_CNT_RES_RETRY_OK (i : Nat) : Nat := 0x2004118 + i * 0x10000
def Reg.LAT_CNT_ACC_SAT (i : Nat) : Nat := 0x2004120 + i * 0x10000
def Reg.LAT_CNT_OUT_SAT (i : Nat) : Nat := 0x2004128 + i * 0x10000
def Reg.LAT_CNT_OUT_ESC (i : Nat) : Nat := 0x2004130 + i * 0x10000
def Reg.LAT_CNT_NAN (i : Nat) : Nat := 0x2004138 + i * 0x10000
def Reg.LAT_CNT_ESC_CLAMP (i : Nat) : Nat := 0x2004140 + i * 0x10000
def Reg.LAT_CNT_ESC_STALL (i : Nat) : Nat := 0x2004148 + i * 0x10000
def Reg.VEC_STAT (i : Nat) : Nat := 0x2005000 + i * 0x10000
def Reg.VEC_CNT_CHAINS (i : Nat) : Nat := 0x2005100 + i * 0x10000
def Reg.VEC_CNT_BEATS (i : Nat) : Nat := 0x2005108 + i * 0x10000
def Reg.VEC_CNT_BUSY (i : Nat) : Nat := 0x2005110 + i * 0x10000
def Reg.VEC_CNT_OUT_SAT (i : Nat) : Nat := 0x2005118 + i * 0x10000
def Reg.VEC_CNT_OUT_ESC (i : Nat) : Nat := 0x2005120 + i * 0x10000
def Reg.VEC_CNT_NAN (i : Nat) : Nat := 0x2005128 + i * 0x10000
def Reg.VEC_CNT_RED_NAN (i : Nat) : Nat := 0x2005130 + i * 0x10000
def Reg.VEC_CNT_TOPK_STALL (i : Nat) : Nat := 0x2005138 + i * 0x10000
def Reg.VEC_CNT_EXACT_SUM (i : Nat) : Nat := 0x2005140 + i * 0x10000
def Reg.CORE_STAT (i : Nat) : Nat := 0x2000000 + i * 0x10000
def Reg.CORE_TRAP (i : Nat) : Nat := 0x2000008 + i * 0x10000
def Reg.CORE_WDOG (i : Nat) : Nat := 0x2000010 + i * 0x10000
def Reg.CORE_BAR_TIMEOUT (i : Nat) : Nat := 0x2000018 + i * 0x10000
def Reg.CORE_CNT_INSTR (i : Nat) : Nat := 0x2000100 + i * 0x10000
def Reg.CORE_CNT_WAIT_TOKEN (i : Nat) : Nat := 0x2000108 + i * 0x10000
def Reg.CORE_CNT_WAIT_BAR (i : Nat) : Nat := 0x2000110 + i * 0x10000
def Reg.CORE_CNT_FULL_TILE (i : Nat) : Nat := 0x2000118 + i * 0x10000
def Reg.CORE_CNT_FULL_CHAIN (i : Nat) : Nat := 0x2000120 + i * 0x10000
def Reg.CORE_CNT_FULL_HELIX (i : Nat) : Nat := 0x2000128 + i * 0x10000
def Reg.CORE_CNT_FULL_GDMA (i : Nat) : Nat := 0x2000130 + i * 0x10000
def Reg.CORE_CNT_FAULT_WAIT (i : Nat) : Nat := 0x2000138 + i * 0x10000
def Reg.CORE_CNT_TAG_FIRE (i : Nat) : Nat := 0x2000140 + i * 0x10000
def Reg.CORE_CNT_AMO (i : Nat) : Nat := 0x2000148 + i * 0x10000
def Reg.HLX_CH_STAT (i j : Nat) : Nat := 0x2006000 + i * 0x10000 + j * 0x20
def Reg.HLX_CH_RING (i j : Nat) : Nat := 0x2006008 + i * 0x10000 + j * 0x20
def Reg.HLX_CH_CREDIT (i j : Nat) : Nat := 0x2006010 + i * 0x10000 + j * 0x20
def Reg.HLX_FAULT (i : Nat) : Nat := 0x2006200 + i * 0x10000
def Reg.HLX_FAULT_POS (i : Nat) : Nat := 0x2006208 + i * 0x10000
def Reg.HLX_CNT_LATE_CANOPY (i : Nat) : Nat := 0x2006100 + i * 0x10000
def Reg.HLX_CNT_LATE_HBM (i : Nat) : Nat := 0x2006108 + i * 0x10000
def Reg.HLX_CNT_LATE_FABRIC (i : Nat) : Nat := 0x2006110 + i * 0x10000
def Reg.HLX_CNT_LATE_SCALE (i : Nat) : Nat := 0x2006118 + i * 0x10000
def Reg.HLX_CNT_FAULT_WAIT (i : Nat) : Nat := 0x2006120 + i * 0x10000
def Reg.HLX_CNT_BARRIER_WAIT (i : Nat) : Nat := 0x2006128 + i * 0x10000
def Reg.HLX_CNT_CREDIT_WAIT (i : Nat) : Nat := 0x2006130 + i * 0x10000
def Reg.HLX_CNT_BYTES (i : Nat) : Nat := 0x2006138 + i * 0x10000
def Reg.HLX_CNT_REQ (i : Nat) : Nat := 0x2006140 + i * 0x10000
def Reg.HLX_CNT_REISSUE (i : Nat) : Nat := 0x2006148 + i * 0x10000
def Reg.XLT_CAPS : Nat := 0x800000
def Reg.XLT_STAT : Nat := 0x800008
def Reg.XLT_PRI_CFG : Nat := 0x800010
def Reg.XLT_PRI_OUT : Nat := 0x800018
def Reg.XLT_SPAN_CTX : Nat := 0x800100
def Reg.XLT_SPAN_VA : Nat := 0x800108
def Reg.XLT_SPAN_DATA : Nat := 0x800110
def Reg.XLT_SPAN_SRC : Nat := 0x800118
def Reg.XLT_SPAN_GO : Nat := 0x800120
def Reg.XLT_SPAN_STAT : Nat := 0x800128
def Reg.XLT_CNT_UTLB_MISS : Nat := 0x800200
def Reg.XLT_CNT_DTLB_MISS : Nat := 0x800208
def Reg.XLT_CNT_WALK : Nat := 0x800210
def Reg.XLT_CNT_ATC_MISS : Nat := 0x800218
def Reg.XLT_CNT_ATS_INV : Nat := 0x800220
def Reg.XLT_CNT_PRI_PAGES : Nat := 0x800228
def Reg.XLT_CNT_PRI_GROUPS : Nat := 0x800230
def Reg.XLT_CNT_COALESCED : Nat := 0x800238
def Reg.XLT_CNT_PRI_FAIL : Nat := 0x800240
def Reg.XLT_CNT_PRI_TIMEOUT : Nat := 0x800248
def Reg.XLT_CNT_ABSENT_LOAD : Nat := 0x800250
def Reg.XLT_CNT_GATHER_HOLD : Nat := 0x800258
def Reg.XLT_CNT_BIAS_HOLD : Nat := 0x800260
def Reg.XLT_CNT_CLFLUSH : Nat := 0x800268
def Reg.XLT_CNT_UNTRANSLATED : Nat := 0x800270
def Reg.XLT_CNT_REMOTE_REFUSED : Nat := 0x800278
def Reg.DMA_CAPS : Nat := 0xc00000
def Reg.DMA_CH_STAT (i : Nat) : Nat := 0xc01000 + i * 0x40
def Reg.DMA_CH_RING (i : Nat) : Nat := 0xc01008 + i * 0x40
def Reg.DMA_CH_HEAD (i : Nat) : Nat := 0xc01010 + i * 0x40
def Reg.DMA_CH_TAIL (i : Nat) : Nat := 0xc01018 + i * 0x40
def Reg.DMA_CNT_DESC : Nat := 0xc00100
def Reg.DMA_CNT_BYTES : Nat := 0xc00108
def Reg.DMA_CNT_DESC_BAD : Nat := 0xc00110
def Reg.DMA_CNT_FAULT_WAIT : Nat := 0xc00118
def Reg.DMA_CNT_BARRIER_WAIT : Nat := 0xc00120
def Reg.DMA_CNT_CHAIN : Nat := 0xc00128
def Reg.DMA_CNT_CHAIN_REFUSED : Nat := 0xc00130
def Reg.GDMA_CTL (i : Nat) : Nat := 0x2007000 + i * 0x10000
def Reg.GDMA_STAT (i : Nat) : Nat := 0x2007008 + i * 0x10000
def Reg.GDMA_CNT_DESC (i : Nat) : Nat := 0x2007100 + i * 0x10000
def Reg.GDMA_CNT_BYTES (i : Nat) : Nat := 0x2007108 + i * 0x10000
def Reg.GDMA_CNT_DESC_BAD (i : Nat) : Nat := 0x2007110 + i * 0x10000
def Reg.GDMA_CNT_FAULT_WAIT (i : Nat) : Nat := 0x2007118 + i * 0x10000
def Reg.GDMA_CNT_CHAIN_REFUSED (i : Nat) : Nat := 0x2007120 + i * 0x10000
def Reg.GDMA_CNT_DISABLE_REFUSED (i : Nat) : Nat := 0x2007128 + i * 0x10000
def Reg.CRN_CAPS : Nat := 0x100000
def Reg.CRN_STAT : Nat := 0x100008
def Reg.CRN_RING_SEL : Nat := 0x100010
def Reg.CRN_RING_VIEW : Nat := 0x100018
def Reg.CRN_GRAPH_SPACE : Nat := 0x100020
def Reg.CRN_UCL_BASE : Nat := 0x100100
def Reg.CRN_UCL_STAT : Nat := 0x100108
def Reg.CRN_UCL_CONS : Nat := 0x100110
def Reg.CRN_UCL_POP : Nat := 0x100118
def Reg.CRN_UCL_WIN (i : Nat) : Nat := 0x100140 + i * 0x8
def Reg.CRN_UCL_CTX (i : Nat) : Nat := 0x101000 + i * 0x8
def Reg.CRN_CNT_PACKETS : Nat := 0x100200
def Reg.CRN_CNT_BAD_PACKET : Nat := 0x100208
def Reg.CRN_CNT_UNITS_DISCARDED : Nat := 0x100210
def Reg.CRN_CNT_RECORDS : Nat := 0x100218
def Reg.CRN_CNT_DIVERTED : Nat := 0x100220
def Reg.CRN_CNT_UCL_DROP : Nat := 0x100228
def Reg.CRN_CNT_CHAIN : Nat := 0x100230
def Reg.CRN_CNT_CHAIN_REFUSED : Nat := 0x100238
def Reg.CRN_CNT_GRAPH_LAUNCH : Nat := 0x100240
def Reg.CRN_CNT_NODES : Nat := 0x100248
def Reg.CRN_CNT_IND_READ : Nat := 0x100250
def Reg.CRN_CNT_DB_IGNORED : Nat := 0x100258
def Reg.CRN_CNT_FETCH_HOLD : Nat := 0x100260
def Reg.CTX_CAPS : Nat := 0x400000
def Reg.CTX_RES_CFG : Nat := 0x400008
def Reg.CTX_SCHED_CFG : Nat := 0x400010
def Reg.CTX_RES_STAT : Nat := 0x400018
def Reg.CTX_ADMIN_QT : Nat := 0x400020
def Reg.CTX_ADMIN_CTL : Nat := 0x400028
def Reg.CTX_SEL : Nat := 0x400100
def Reg.CTX_VIEW : Nat := 0x400108
def Reg.CTX_PROGRESS : Nat := 0x400110
def Reg.PART_CFG (i : Nat) : Nat := 0x401000 + i * 0x20
def Reg.PART_GROVES_LO (i : Nat) : Nat := 0x401008 + i * 0x20
def Reg.PART_GROVES_HI (i : Nat) : Nat := 0x401010 + i * 0x20
def Reg.PART_STAT (i : Nat) : Nat := 0x401018 + i * 0x20
def Reg.CTX_CNT_SWAP_IN : Nat := 0x400200
def Reg.CTX_CNT_EVICT_IDLE : Nat := 0x400208
def Reg.CTX_CNT_EVICT_BLOCKED : Nat := 0x400210
def Reg.CTX_CNT_EVICT_SLICE : Nat := 0x400218
def Reg.CTX_CNT_EVICT_OVERLAP : Nat := 0x400220
def Reg.CTX_CNT_RESERVE_WAIT : Nat := 0x400228
def Reg.CTX_CNT_PREEMPT_HARD : Nat := 0x400230
def Reg.CTX_CNT_PREEMPT_SOFT : Nat := 0x400238
def Reg.CTX_CNT_SOFT_ESCALATED : Nat := 0x400240
def Reg.CTX_CNT_TEARDOWN : Nat := 0x400248
def Reg.CTX_CNT_SAVE_ABANDONED : Nat := 0x400250
def Reg.CTX_CNT_SAVE_BYTES : Nat := 0x400258
def Reg.FAB_CAPS : Nat := 0x1800000
def Reg.FAB_STAT : Nat := 0x1800008
def Reg.FAB_DOMAIN : Nat := 0x1800010
def Reg.FAB_CFG : Nat := 0x1800018
def Reg.FAB_MGR_CFG : Nat := 0x1800020
def Reg.FAB_TIME : Nat := 0x1800100
def Reg.FAB_TIME_STAT : Nat := 0x1800108
def Reg.CHORD_CTL (i : Nat) : Nat := 0x1801000 + i * 0x100
def Reg.CHORD_STAT (i : Nat) : Nat := 0x1801008 + i * 0x100
def Reg.CHORD_DELAY (i : Nat) : Nat := 0x1801010 + i * 0x100
def Reg.FAB_CNT_MSG_TX : Nat := 0x1800200
def Reg.FAB_CNT_MSG_RX : Nat := 0x1800208
def Reg.FAB_CNT_BAD_MSG : Nat := 0x1800210
def Reg.FAB_CNT_E2E_WAIT : Nat := 0x1800218
def Reg.FAB_CNT_E2E_TIMEOUT : Nat := 0x1800220
def Reg.FAB_CNT_LINK_LOST : Nat := 0x1800228
def Reg.FAB_CNT_STALE_TERM : Nat := 0x1800230
def Reg.FAB_CNT_SYNC_MISSED : Nat := 0x1800238
def Reg.FAB_CNT_BEACON_MISSED : Nat := 0x1800240
def Reg.CHORD_CNT_FEC_CORR (i : Nat) : Nat := 0x1801020 + i * 0x100
def Reg.CHORD_CNT_FEC_UNCORR (i : Nat) : Nat := 0x1801028 + i * 0x100
def Reg.CHORD_CNT_CRC (i : Nat) : Nat := 0x1801030 + i * 0x100
def Reg.CHORD_CNT_REPLAY (i : Nat) : Nat := 0x1801038 + i * 0x100
def Reg.CHORD_CNT_RETRAIN (i : Nat) : Nat := 0x1801040 + i * 0x100
def Reg.CHORD_CNT_TX_FLITS (i : Nat) : Nat := 0x1801048 + i * 0x100
def Reg.CHORD_CNT_RX_FLITS (i : Nat) : Nat := 0x1801050 + i * 0x100
def Reg.HL_LINK_STAT : Nat := 0x10000
def Reg.HL_CRASH_CTL : Nat := 0x10100
def Reg.HL_CRASH (i : Nat) : Nat := 0x10200 + i * 0x8
def Reg.HL_CNT_RETRAIN : Nat := 0x11000
def Reg.HL_CNT_CPL_TIMEOUT : Nat := 0x11008
def Reg.HL_CNT_UR_CA_RX : Nat := 0x11010
def Reg.HL_CNT_POISON_RX : Nat := 0x11018
def Reg.HL_CNT_BAD_ACCESS : Nat := 0x11020
def Reg.HL_CNT_INBOUND_UR : Nat := 0x11028
def Reg.HL_CNT_MSIX : Nat := 0x11030
def Reg.HL_CNT_TX_BYTES : Nat := 0x11038
def Reg.HL_CNT_RX_BYTES : Nat := 0x11040
def Reg.PRB_CFG : Nat := 0x40000
def Reg.PRB_SEED : Nat := 0x40008
def Reg.PRB_STAT : Nat := 0x40010
def Reg.INT_GROVE_Q_LO : Nat := 0x40020
def Reg.INT_GROVE_Q_HI : Nat := 0x40028
def Reg.INT_LOG_PROD : Nat := 0x40030
def Reg.INT_LOG_A (i : Nat) : Nat := 0x40100 + i * 0x10
def Reg.INT_LOG_B (i : Nat) : Nat := 0x40108 + i * 0x10
def Reg.INT_CNT_PROBE_RUN : Nat := 0x40800
def Reg.INT_CNT_PROBE_PAIRS : Nat := 0x40808
def Reg.INT_CNT_PROBE_MISMATCH : Nat := 0x40810
def Reg.INT_CNT_PROBE_UNRESOLVED : Nat := 0x40818
def Reg.INT_CNT_PROBE_ABANDON : Nat := 0x40820
def Reg.INT_CNT_PROBE_EXPIRED : Nat := 0x40828
def Reg.INT_CNT_DIGEST : Nat := 0x40830
def Reg.INT_CNT_DIGEST_BYTES : Nat := 0x40838
def Reg.INT_CNT_DIGEST_MISMATCH : Nat := 0x40840
def Reg.INT_CNT_GROVE_ECC : Nat := 0x40848
def Reg.INT_CNT_QUAR_LATTICE : Nat := 0x40850
def Reg.INT_CNT_QUAR_GROVE : Nat := 0x40858
def Reg.OBS_FREEZE_STAT : Nat := 0x3000000
def Reg.OBS_FREEZE_TIME : Nat := 0x3000008
def Reg.OBS_TRACE_STAT : Nat := 0x3000100
def Reg.OBS_TRACE_NEXT : Nat := 0x3000108
def Reg.OBS_TRACE_FIRE : Nat := 0x3000110
def Reg.OBS_RFLOG_PROD : Nat := 0x3000200
def Reg.OBS_RFLOG_A (i : Nat) : Nat := 0x3000400 + i * 0x18
def Reg.OBS_RFLOG_B (i : Nat) : Nat := 0x3000408 + i * 0x18
def Reg.OBS_RFLOG_C (i : Nat) : Nat := 0x3000410 + i * 0x18
def Reg.EVT_SEL (i j : Nat) : Nat := 0x3010000 + i * 0x100 + j * 0x8
def Reg.EVT_CNT (i j : Nat) : Nat := 0x3010080 + i * 0x100 + j * 0x8
def Reg.OBS_CNT_SEL_REFUSED : Nat := 0x3000180
def Reg.OBS_CNT_TRACE_RECORDS : Nat := 0x3000188
def Reg.OBS_CNT_TRACE_DROP : Nat := 0x3000190
def Reg.OBS_CNT_DUMP_RECORDS : Nat := 0x3000198
def Reg.OBS_CNT_DUMP_DROP : Nat := 0x30001a0
def Reg.OBS_CNT_FREEZE : Nat := 0x30001a8
def Reg.PWR_CAPS : Nat := 0x3800000
def Reg.PWR_STAT : Nat := 0x3800008
def Reg.PWR_INPUT : Nat := 0x3800010
def Reg.PWR_CAP : Nat := 0x3800018
def Reg.PWR_DUTY (i : Nat) : Nat := 0x3800020 + i * 0x8
def Reg.PWR_PARK_LO : Nat := 0x3800030
def Reg.PWR_PARK_HI : Nat := 0x3800038
def Reg.PWR_STOP_CAUSE : Nat := 0x3800040
def Reg.THM_SENSOR (i : Nat) : Nat := 0x3800100 + i * 0x8
def Reg.PWR_EVENTS : Nat := 0x3800280
def Reg.CLK_STAT : Nat := 0x3800300
def Reg.PWR_CNT_RAMP_HOLD : Nat := 0x3800400
def Reg.PWR_CNT_DUTY_HOLD : Nat := 0x3800408
def Reg.PWR_CNT_BALLAST_MJ : Nat := 0x3800410
def Reg.PWR_CNT_ENERGY_J : Nat := 0x3800418
def Reg.PWR_CNT_PARK : Nat := 0x3800420
def Reg.PWR_CNT_CAP_ABOVE : Nat := 0x3800428
def Reg.SEC_BOOT_STAT : Nat := 0x3c00000
def Reg.SEC_BUILD_ID : Nat := 0x3c00008
def Reg.SEC_IMG_LIST : Nat := 0x3c00100
def Reg.SEC_IMG_LEN : Nat := 0x3c00108
def Reg.SEC_MBOX_CMD : Nat := 0x3c00200
def Reg.SEC_MBOX_ARG : Nat := 0x3c00208
def Reg.SEC_MBOX_DATA (i : Nat) : Nat := 0x3c00210 + i * 0x8
def Reg.SEC_MBOX_STAT : Nat := 0x3c00260
def Reg.SEC_FUSE_VENDOR (i : Nat) : Nat := 0x3c00300 + i * 0x8
def Reg.SEC_FUSE_OWNER (i : Nat) : Nat := 0x3c00320 + i * 0x8
def Reg.SEC_FUSE_ROLLBACK : Nat := 0x3c00340
def Reg.SEC_ID_STAT : Nat := 0x3c00400
def Reg.SEC_MEASURE (i : Nat) : Nat := 0x3c00500 + i * 0x8

/-- One register, or one array of registers, of the map: offset, index counts and strides, width in bits,
reset value, and the masks of its RW, RW1C, RWS and WO bits. Every other bit is RO or reserved. `counter` marks the counters of R514 and R515. -/
structure RegRow where
  off : Nat
  dims : List (Nat × Nat)
  width : Nat
  reset : Nat
  rw : Nat := 0
  rw1c : Nat := 0
  rws : Nat := 0
  wo : Nat := 0
  counter : Bool := false
  deriving DecidableEq, Repr

/-- The registers of chapter 00. -/
def regsGlb : List RegRow := [
  { off := Reg.GLB_PART, dims := [], width := 32, reset := 0x5120 },
  { off := Reg.GLB_UID, dims := [], width := 64, reset := 0x0 }]

/-- The registers of chapter 03. -/
def regsXch : List RegRow := [
  { off := Reg.XCH_CAPS, dims := [], width := 64, reset := 0x100010181000 },
  { off := Reg.XCH_CFG, dims := [], width := 32, reset := 0x1001000, rw := 0xfffffff },
  { off := Reg.XCH_DEADLINE_DEF, dims := [], width := 32, reset := 0x1e8480, rw := 0xffffffff },
  { off := Reg.XCH_HEDGE_CFG, dims := [], width := 32, reset := 0x40, rw := 0xffff },
  { off := Reg.XCH_DIR_BASE, dims := [], width := 64, reset := 0x0 },
  { off := Reg.XCH_CNT_LOOKUPS, dims := [], width := 64, reset := 0x0, counter := true },
  { off := Reg.XCH_CNT_INDICES, dims := [], width := 64, reset := 0x0, counter := true },
  { off := Reg.XCH_CNT_BATCHES, dims := [], width := 64, reset := 0x0, counter := true },
  { off := Reg.XCH_CNT_HEDGES, dims := [], width := 64, reset := 0x0, counter := true },
  { off := Reg.XCH_CNT_HEDGE_WINS, dims := [], width := 64, reset := 0x0, counter := true },
  { off := Reg.XCH_CNT_HEDGE_SUPPRESSED, dims := [], width := 64, reset := 0x0, counter := true },
  { off := Reg.XCH_CNT_DUP_DISCARD, dims := [], width := 64, reset := 0x0, counter := true },
  { off := Reg.XCH_CNT_LATE_DISCARD, dims := [], width := 64, reset := 0x0, counter := true },
  { off := Reg.XCH_CNT_MISSING, dims := [], width := 64, reset := 0x0, counter := true },
  { off := Reg.XCH_CNT_BAD_INDEX, dims := [], width := 64, reset := 0x0, counter := true },
  { off := Reg.XCH_CNT_SATURATE, dims := [], width := 64, reset := 0x0, counter := true },
  { off := Reg.XCH_CNT_OWNER_EXPIRED, dims := [], width := 64, reset := 0x0, counter := true },
  { off := Reg.XCH_CNT_ROW_FAULT, dims := [], width := 64, reset := 0x0, counter := true }]

/-- The registers of chapter 04. -/
def regsTbl : List RegRow := [
  { off := Reg.TBL_GRAFT_CFG, dims := [], width := 32, reset := 0x140400, rw := 0x11fffff },
  { off := Reg.TBL_GRAFT_CAP, dims := [], width := 64, reset := 0x4040008000 },
  { off := Reg.TBL_HOTLOG_BASE, dims := [], width := 64, reset := 0x0 },
  { off := Reg.TBL_HOTLOG_PROD, dims := [], width := 32, reset := 0x0 },
  { off := Reg.TBL_HOTLOG_CONS, dims := [], width := 32, reset := 0x0, rw := 0xfff },
  { off := Reg.TBL_CNT_UPD_ROWS, dims := [], width := 64, reset := 0x0, counter := true },
  { off := Reg.TBL_CNT_UPD_REFIT, dims := [], width := 64, reset := 0x0, counter := true },
  { off := Reg.TBL_CNT_UPD_SAT, dims := [], width := 64, reset := 0x0, counter := true },
  { off := Reg.TBL_CNT_UPD_EPOCH_GONE, dims := [], width := 64, reset := 0x0, counter := true },
  { off := Reg.TBL_CNT_EPOCH_NOTICE, dims := [], width := 64, reset := 0x0, counter := true },
  { off := Reg.TBL_CNT_LATE_COMMIT, dims := [], width := 64, reset := 0x0, counter := true },
  { off := Reg.TBL_CNT_INVALIDATE, dims := [], width := 64, reset := 0x0, counter := true },
  { off := Reg.TBL_CNT_STALE_FILL, dims := [], width := 64, reset := 0x0, counter := true },
  { off := Reg.TBL_CNT_FWD_LOOKUP, dims := [], width := 64, reset := 0x0, counter := true },
  { off := Reg.TBL_CNT_FWD_UPDATE, dims := [], width := 64, reset := 0x0, counter := true },
  { off := Reg.TBL_CNT_HOTLOG_DROP, dims := [], width := 64, reset := 0x0, counter := true }]

/-- The registers of chapter 05. -/
def regsMem : List RegRow := [
  { off := Reg.MEM_CAPS, dims := [], width := 64, reset := 0x2019201f2008 },
  { off := Reg.MEM_GROUP_OWNER 0, dims := [(16, 0x8)], width := 32, reset := 0x0 },
  { off := Reg.CAN_WAY_MODE, dims := [], width := 32, reset := 0x0, rw := 0x7fffffff },
  { off := Reg.MEM_SCRUB_CFG, dims := [], width := 32, reset := 0x118, rw := 0x1ff },
  { off := Reg.MEM_RED_CFG, dims := [], width := 32, reset := 0x3e8, rw := 0xffff },
  { off := Reg.MEM_TEST_CTL, dims := [], width := 32, reset := 0x0, rws := 0x1f },
  { off := Reg.MEM_TEST_STAT, dims := [], width := 32, reset := 0x0 },
  { off := Reg.MEM_PPR_REQ, dims := [], width := 64, reset := 0x0, rws := 0x3ffff00001fff, wo := 0x2000 },
  { off := Reg.MEM_PPR_STAT, dims := [], width := 32, reset := 0x0, rw1c := 0x7 },
  { off := Reg.MEM_1500_INSTR, dims := [], width := 32, reset := 0x0, wo := 0xffff },
  { off := Reg.MEM_1500_DATA, dims := [], width := 32, reset := 0x0, rws := 0xffffffff },
  { off := Reg.MEM_REPAIR_LOG 0, dims := [(64, 0x8)], width := 64, reset := 0x0 },
  { off := Reg.MEM_REPAIR_COUNT, dims := [], width := 32, reset := 0x0 },
  { off := Reg.MEM_CNT_CE, dims := [], width := 64, reset := 0x0, counter := true },
  { off := Reg.MEM_CNT_UE, dims := [], width := 64, reset := 0x0, counter := true },
  { off := Reg.MEM_CNT_POISON_READ, dims := [], width := 64, reset := 0x0, counter := true },
  { off := Reg.MEM_CNT_ODECC, dims := [], width := 64, reset := 0x0, counter := true },
  { off := Reg.MEM_CNT_RFM, dims := [], width := 64, reset := 0x0, counter := true },
  { off := Reg.MEM_CNT_REPAIR, dims := [], width := 64, reset := 0x0, counter := true },
  { off := Reg.MEM_CNT_RED_TIMEOUT, dims := [], width := 64, reset := 0x0, counter := true },
  { off := Reg.CAN_CNT_FILL_DROP, dims := [], width := 64, reset := 0x0, counter := true },
  { off := Reg.CAN_CNT_MODE_REFUSED, dims := [], width := 64, reset := 0x0, counter := true },
  { off := Reg.CAN_CNT_ECC_REFETCH, dims := [], width := 64, reset := 0x0, counter := true }]

/-- The registers of chapter 06. -/
def regsLat : List RegRow := [
  { off := Reg.LAT_STAT 0, dims := [(128, 0x10000)], width := 32, reset := 0x0 },
  { off := Reg.LAT_STRIKES 0, dims := [(128, 0x10000)], width := 64, reset := 0x0 },
  { off := Reg.LAT_INJECT 0, dims := [(128, 0x10000)], width := 32, reset := 0x0, rws := 0x7ff },
  { off := Reg.LAT_CNT_TILES 0, dims := [(128, 0x10000)], width := 64, reset := 0x0, counter := true },
  { off := Reg.LAT_CNT_BUSY 0, dims := [(128, 0x10000)], width := 64, reset := 0x0, counter := true },
  { off := Reg.LAT_CNT_RES_MISMATCH 0, dims := [(128, 0x10000)], width := 64, reset := 0x0, counter := true },
  { off := Reg.LAT_CNT_RES_RETRY_OK 0, dims := [(128, 0x10000)], width := 64, reset := 0x0, counter := true },
  { off := Reg.LAT_CNT_ACC_SAT 0, dims := [(128, 0x10000)], width := 64, reset := 0x0, counter := true },
  { off := Reg.LAT_CNT_OUT_SAT 0, dims := [(128, 0x10000)], width := 64, reset := 0x0, counter := true },
  { off := Reg.LAT_CNT_OUT_ESC 0, dims := [(128, 0x10000)], width := 64, reset := 0x0, counter := true },
  { off := Reg.LAT_CNT_NAN 0, dims := [(128, 0x10000)], width := 64, reset := 0x0, counter := true },
  { off := Reg.LAT_CNT_ESC_CLAMP 0, dims := [(128, 0x10000)], width := 64, reset := 0x0, counter := true },
  { off := Reg.LAT_CNT_ESC_STALL 0, dims := [(128, 0x10000)], width := 64, reset := 0x0, counter := true }]

/-- The registers of chapter 07. -/
def regsVec : List RegRow := [
  { off := Reg.VEC_STAT 0, dims := [(128, 0x10000)], width := 32, reset := 0x0 },
  { off := Reg.VEC_CNT_CHAINS 0, dims := [(128, 0x10000)], width := 64, reset := 0x0, counter := true },
  { off := Reg.VEC_CNT_BEATS 0, dims := [(128, 0x10000)], width := 64, reset := 0x0, counter := true },
  { off := Reg.VEC_CNT_BUSY 0, dims := [(128, 0x10000)], width := 64, reset := 0x0, counter := true },
  { off := Reg.VEC_CNT_OUT_SAT 0, dims := [(128, 0x10000)], width := 64, reset := 0x0, counter := true },
  { off := Reg.VEC_CNT_OUT_ESC 0, dims := [(128, 0x10000)], width := 64, reset := 0x0, counter := true },
  { off := Reg.VEC_CNT_NAN 0, dims := [(128, 0x10000)], width := 64, reset := 0x0, counter := true },
  { off := Reg.VEC_CNT_RED_NAN 0, dims := [(128, 0x10000)], width := 64, reset := 0x0, counter := true },
  { off := Reg.VEC_CNT_TOPK_STALL 0, dims := [(128, 0x10000)], width := 64, reset := 0x0, counter := true },
  { off := Reg.VEC_CNT_EXACT_SUM 0, dims := [(128, 0x10000)], width := 64, reset := 0x0, counter := true }]

/-- The registers of chapter 08. -/
def regsCore : List RegRow := [
  { off := Reg.CORE_STAT 0, dims := [(128, 0x10000)], width := 64, reset := 0x0 },
  { off := Reg.CORE_TRAP 0, dims := [(128, 0x10000)], width := 64, reset := 0x0, rw1c := 0x10000000 },
  { off := Reg.CORE_WDOG 0, dims := [(128, 0x10000)], width := 32, reset := 0x186a0, rw := 0xffffffff },
  { off := Reg.CORE_BAR_TIMEOUT 0, dims := [(128, 0x10000)], width := 32, reset := 0x2710, rw := 0xffffffff },
  { off := Reg.CORE_CNT_INSTR 0, dims := [(128, 0x10000)], width := 64, reset := 0x0, counter := true },
  { off := Reg.CORE_CNT_WAIT_TOKEN 0, dims := [(128, 0x10000)], width := 64, reset := 0x0, counter := true },
  { off := Reg.CORE_CNT_WAIT_BAR 0, dims := [(128, 0x10000)], width := 64, reset := 0x0, counter := true },
  { off := Reg.CORE_CNT_FULL_TILE 0, dims := [(128, 0x10000)], width := 64, reset := 0x0, counter := true },
  { off := Reg.CORE_CNT_FULL_CHAIN 0, dims := [(128, 0x10000)], width := 64, reset := 0x0, counter := true },
  { off := Reg.CORE_CNT_FULL_HELIX 0, dims := [(128, 0x10000)], width := 64, reset := 0x0, counter := true },
  { off := Reg.CORE_CNT_FULL_GDMA 0, dims := [(128, 0x10000)], width := 64, reset := 0x0, counter := true },
  { off := Reg.CORE_CNT_FAULT_WAIT 0, dims := [(128, 0x10000)], width := 64, reset := 0x0, counter := true },
  { off := Reg.CORE_CNT_TAG_FIRE 0, dims := [(128, 0x10000)], width := 64, reset := 0x0, counter := true },
  { off := Reg.CORE_CNT_AMO 0, dims := [(128, 0x10000)], width := 64, reset := 0x0, counter := true }]

/-- The registers of chapter 09. -/
def regsHlx : List RegRow := [
  { off := Reg.HLX_CH_STAT 0 0, dims := [(128, 0x10000), (8, 0x20)], width := 64, reset := 0x0 },
  { off := Reg.HLX_CH_RING 0 0, dims := [(128, 0x10000), (8, 0x20)], width := 64, reset := 0x0 },
  { off := Reg.HLX_CH_CREDIT 0 0, dims := [(128, 0x10000), (8, 0x20)], width := 32, reset := 0x0 },
  { off := Reg.HLX_FAULT 0, dims := [(128, 0x10000)], width := 64, reset := 0x0, rw1c := 0x8 },
  { off := Reg.HLX_FAULT_POS 0, dims := [(128, 0x10000)], width := 64, reset := 0x0 },
  { off := Reg.HLX_CNT_LATE_CANOPY 0, dims := [(128, 0x10000)], width := 64, reset := 0x0, counter := true },
  { off := Reg.HLX_CNT_LATE_HBM 0, dims := [(128, 0x10000)], width := 64, reset := 0x0, counter := true },
  { off := Reg.HLX_CNT_LATE_FABRIC 0, dims := [(128, 0x10000)], width := 64, reset := 0x0, counter := true },
  { off := Reg.HLX_CNT_LATE_SCALE 0, dims := [(128, 0x10000)], width := 64, reset := 0x0, counter := true },
  { off := Reg.HLX_CNT_FAULT_WAIT 0, dims := [(128, 0x10000)], width := 64, reset := 0x0, counter := true },
  { off := Reg.HLX_CNT_BARRIER_WAIT 0, dims := [(128, 0x10000)], width := 64, reset := 0x0, counter := true },
  { off := Reg.HLX_CNT_CREDIT_WAIT 0, dims := [(128, 0x10000)], width := 64, reset := 0x0, counter := true },
  { off := Reg.HLX_CNT_BYTES 0, dims := [(128, 0x10000)], width := 64, reset := 0x0, counter := true },
  { off := Reg.HLX_CNT_REQ 0, dims := [(128, 0x10000)], width := 64, reset := 0x0, counter := true },
  { off := Reg.HLX_CNT_REISSUE 0, dims := [(128, 0x10000)], width := 64, reset := 0x0, counter := true }]

/-- The registers of chapter 10. -/
def regsXlt : List RegRow := [
  { off := Reg.XLT_CAPS, dims := [], width := 64, reset := 0xf84002000400040 },
  { off := Reg.XLT_STAT, dims := [], width := 32, reset := 0x0, rw1c := 0x8 },
  { off := Reg.XLT_PRI_CFG, dims := [], width := 32, reset := 0x30a2820, rw := 0x3ffff3f },
  { off := Reg.XLT_PRI_OUT, dims := [], width := 32, reset := 0x0 },
  { off := Reg.XLT_SPAN_CTX, dims := [], width := 32, reset := 0x0, rw := 0x3fff },
  { off := Reg.XLT_SPAN_VA, dims := [], width := 64, reset := 0x0, rw := 0x1ffffffffffffff },
  { off := Reg.XLT_SPAN_DATA, dims := [], width := 64, reset := 0x0, rw := 0xffffffffffffffff },
  { off := Reg.XLT_SPAN_SRC, dims := [], width := 64, reset := 0x0, rw := 0xffffffffffffffff },
  { off := Reg.XLT_SPAN_GO, dims := [], width := 32, reset := 0x0, wo := 0x7 },
  { off := Reg.XLT_SPAN_STAT, dims := [], width := 32, reset := 0x0, rw1c := 0x2 },
  { off := Reg.XLT_CNT_UTLB_MISS, dims := [], width := 64, reset := 0x0, counter := true },
  { off := Reg.XLT_CNT_DTLB_MISS, dims := [], width := 64, reset := 0x0, counter := true },
  { off := Reg.XLT_CNT_WALK, dims := [], width := 64, reset := 0x0, counter := true },
  { off := Reg.XLT_CNT_ATC_MISS, dims := [], width := 64, reset := 0x0, counter := true },
  { off := Reg.XLT_CNT_ATS_INV, dims := [], width := 64, reset := 0x0, counter := true },
  { off := Reg.XLT_CNT_PRI_PAGES, dims := [], width := 64, reset := 0x0, counter := true },
  { off := Reg.XLT_CNT_PRI_GROUPS, dims := [], width := 64, reset := 0x0, counter := true },
  { off := Reg.XLT_CNT_COALESCED, dims := [], width := 64, reset := 0x0, counter := true },
  { off := Reg.XLT_CNT_PRI_FAIL, dims := [], width := 64, reset := 0x0, counter := true },
  { off := Reg.XLT_CNT_PRI_TIMEOUT, dims := [], width := 64, reset := 0x0, counter := true },
  { off := Reg.XLT_CNT_ABSENT_LOAD, dims := [], width := 64, reset := 0x0, counter := true },
  { off := Reg.XLT_CNT_GATHER_HOLD, dims := [], width := 64, reset := 0x0, counter := true },
  { off := Reg.XLT_CNT_BIAS_HOLD, dims := [], width := 64, reset := 0x0, counter := true },
  { off := Reg.XLT_CNT_CLFLUSH, dims := [], width := 64, reset := 0x0, counter := true },
  { off := Reg.XLT_CNT_UNTRANSLATED, dims := [], width := 64, reset := 0x0, counter := true },
  { off := Reg.XLT_CNT_REMOTE_REFUSED, dims := [], width := 64, reset := 0x0, counter := true }]

/-- The registers of chapter 11. -/
def regsDma : List RegRow := [
  { off := Reg.DMA_CAPS, dims := [], width := 32, reset := 0xc3f },
  { off := Reg.DMA_CH_STAT 0, dims := [(64, 0x40)], width := 32, reset := 0x0 },
  { off := Reg.DMA_CH_RING 0, dims := [(64, 0x40)], width := 64, reset := 0x0 },
  { off := Reg.DMA_CH_HEAD 0, dims := [(64, 0x40)], width := 32, reset := 0x0 },
  { off := Reg.DMA_CH_TAIL 0, dims := [(64, 0x40)], width := 32, reset := 0x0, rw := 0xffff },
  { off := Reg.DMA_CNT_DESC, dims := [], width := 64, reset := 0x0, counter := true },
  { off := Reg.DMA_CNT_BYTES, dims := [], width := 64, reset := 0x0, counter := true },
  { off := Reg.DMA_CNT_DESC_BAD, dims := [], width := 64, reset := 0x0, counter := true },
  { off := Reg.DMA_CNT_FAULT_WAIT, dims := [], width := 64, reset := 0x0, counter := true },
  { off := Reg.DMA_CNT_BARRIER_WAIT, dims := [], width := 64, reset := 0x0, counter := true },
  { off := Reg.DMA_CNT_CHAIN, dims := [], width := 64, reset := 0x0, counter := true },
  { off := Reg.DMA_CNT_CHAIN_REFUSED, dims := [], width := 64, reset := 0x0, counter := true },
  { off := Reg.GDMA_CTL 0, dims := [(128, 0x10000)], width := 32, reset := 0x0, rw := 0x1 },
  { off := Reg.GDMA_STAT 0, dims := [(128, 0x10000)], width := 32, reset := 0x0 },
  { off := Reg.GDMA_CNT_DESC 0, dims := [(128, 0x10000)], width := 64, reset := 0x0, counter := true },
  { off := Reg.GDMA_CNT_BYTES 0, dims := [(128, 0x10000)], width := 64, reset := 0x0, counter := true },
  { off := Reg.GDMA_CNT_DESC_BAD 0, dims := [(128, 0x10000)], width := 64, reset := 0x0, counter := true },
  { off := Reg.GDMA_CNT_FAULT_WAIT 0, dims := [(128, 0x10000)], width := 64, reset := 0x0, counter := true },
  { off := Reg.GDMA_CNT_CHAIN_REFUSED 0, dims := [(128, 0x10000)], width := 64, reset := 0x0, counter := true },
  { off := Reg.GDMA_CNT_DISABLE_REFUSED 0, dims := [(128, 0x10000)], width := 64, reset := 0x0, counter := true }]

/-- The registers of chapter 12. -/
def regsCrn : List RegRow := [
  { off := Reg.CRN_CAPS, dims := [], width := 64, reset := 0x400100004000109 },
  { off := Reg.CRN_STAT, dims := [], width := 32, reset := 0x0 },
  { off := Reg.CRN_RING_SEL, dims := [], width := 32, reset := 0x0, rw := 0x1ffff },
  { off := Reg.CRN_RING_VIEW, dims := [], width := 64, reset := 0x0 },
  { off := Reg.CRN_GRAPH_SPACE, dims := [], width := 64, reset := 0x1000000010000 },
  { off := Reg.CRN_UCL_BASE, dims := [], width := 64, reset := 0x0 },
  { off := Reg.CRN_UCL_STAT, dims := [], width := 32, reset := 0x0, rw1c := 0x10000 },
  { off := Reg.CRN_UCL_CONS, dims := [], width := 32, reset := 0x0 },
  { off := Reg.CRN_UCL_POP, dims := [], width := 32, reset := 0x0, wo := 0x1 },
  { off := Reg.CRN_UCL_WIN 0, dims := [(8, 0x8)], width := 64, reset := 0x0 },
  { off := Reg.CRN_UCL_CTX 0, dims := [(256, 0x8)], width := 64, reset := 0x0, rw1c := 0xffffffffffffffff },
  { off := Reg.CRN_CNT_PACKETS, dims := [], width := 64, reset := 0x0, counter := true },
  { off := Reg.CRN_CNT_BAD_PACKET, dims := [], width := 64, reset := 0x0, counter := true },
  { off := Reg.CRN_CNT_UNITS_DISCARDED, dims := [], width := 64, reset := 0x0, counter := true },
  { off := Reg.CRN_CNT_RECORDS, dims := [], width := 64, reset := 0x0, counter := true },
  { off := Reg.CRN_CNT_DIVERTED, dims := [], width := 64, reset := 0x0, counter := true },
  { off := Reg.CRN_CNT_UCL_DROP, dims := [], width := 64, reset := 0x0, counter := true },
  { off := Reg.CRN_CNT_CHAIN, dims := [], width := 64, reset := 0x0, counter := true },
  { off := Reg.CRN_CNT_CHAIN_REFUSED, dims := [], width := 64, reset := 0x0, counter := true },
  { off := Reg.CRN_CNT_GRAPH_LAUNCH, dims := [], width := 64, reset := 0x0, counter := true },
  { off := Reg.CRN_CNT_NODES, dims := [], width := 64, reset := 0x0, counter := true },
  { off := Reg.CRN_CNT_IND_READ, dims := [], width := 64, reset := 0x0, counter := true },
  { off := Reg.CRN_CNT_DB_IGNORED, dims := [], width := 64, reset := 0x0, counter := true },
  { off := Reg.CRN_CNT_FETCH_HOLD, dims := [], width := 64, reset := 0x0, counter := true }]

/-- The registers of chapter 13. -/
def regsCtx : List RegRow := [
  { off := Reg.CTX_CAPS, dims := [], width := 64, reset := 0x1001004000 },
  { off := Reg.CTX_RES_CFG, dims := [], width := 32, reset := 0x8fc, rw := 0x3fff },
  { off := Reg.CTX_SCHED_CFG, dims := [], width := 32, reset := 0x3e8, rw := 0xffff },
  { off := Reg.CTX_RES_STAT, dims := [], width := 32, reset := 0x0 },
  { off := Reg.CTX_ADMIN_QT, dims := [], width := 64, reset := 0x0, rw := 0x1ffffffffffffff },
  { off := Reg.CTX_ADMIN_CTL, dims := [], width := 32, reset := 0x0, rw := 0x1fffff },
  { off := Reg.CTX_SEL, dims := [], width := 32, reset := 0x0, rw := 0x3fff },
  { off := Reg.CTX_VIEW, dims := [], width := 64, reset := 0x0 },
  { off := Reg.CTX_PROGRESS, dims := [], width := 64, reset := 0x0 },
  { off := Reg.PART_CFG 0, dims := [(16, 0x20)], width := 64, reset := 0x0 },
  { off := Reg.PART_GROVES_LO 0, dims := [(16, 0x20)], width := 64, reset := 0x0 },
  { off := Reg.PART_GROVES_HI 0, dims := [(16, 0x20)], width := 64, reset := 0x0 },
  { off := Reg.PART_STAT 0, dims := [(16, 0x20)], width := 32, reset := 0x0 },
  { off := Reg.CTX_CNT_SWAP_IN, dims := [], width := 64, reset := 0x0, counter := true },
  { off := Reg.CTX_CNT_EVICT_IDLE, dims := [], width := 64, reset := 0x0, counter := true },
  { off := Reg.CTX_CNT_EVICT_BLOCKED, dims := [], width := 64, reset := 0x0, counter := true },
  { off := Reg.CTX_CNT_EVICT_SLICE, dims := [], width := 64, reset := 0x0, counter := true },
  { off := Reg.CTX_CNT_EVICT_OVERLAP, dims := [], width := 64, reset := 0x0, counter := true },
  { off := Reg.CTX_CNT_RESERVE_WAIT, dims := [], width := 64, reset := 0x0, counter := true },
  { off := Reg.CTX_CNT_PREEMPT_HARD, dims := [], width := 64, reset := 0x0, counter := true },
  { off := Reg.CTX_CNT_PREEMPT_SOFT, dims := [], width := 64, reset := 0x0, counter := true },
  { off := Reg.CTX_CNT_SOFT_ESCALATED, dims := [], width := 64, reset := 0x0, counter := true },
  { off := Reg.CTX_CNT_TEARDOWN, dims := [], width := 64, reset := 0x0, counter := true },
  { off := Reg.CTX_CNT_SAVE_ABANDONED, dims := [], width := 64, reset := 0x0, counter := true },
  { off := Reg.CTX_CNT_SAVE_BYTES, dims := [], width := 64, reset := 0x0, counter := true }]

/-- The registers of chapter 14. -/
def regsFab : List RegRow := [
  { off := Reg.FAB_CAPS, dims := [], width := 64, reset := 0x100ffff0610 },
  { off := Reg.FAB_STAT, dims := [], width := 64, reset := 0x0 },
  { off := Reg.FAB_DOMAIN, dims := [], width := 64, reset := 0x0 },
  { off := Reg.FAB_CFG, dims := [], width := 32, reset := 0x3e814, rw := 0xffffff },
  { off := Reg.FAB_MGR_CFG, dims := [], width := 32, reset := 0x300a0a, rw := 0xffff7f },
  { off := Reg.FAB_TIME, dims := [], width := 64, reset := 0x0 },
  { off := Reg.FAB_TIME_STAT, dims := [], width := 64, reset := 0x0 },
  { off := Reg.CHORD_CTL 0, dims := [(16, 0x100)], width := 32, reset := 0x1, rws := 0x6 },
  { off := Reg.CHORD_STAT 0, dims := [(16, 0x100)], width := 32, reset := 0x1 },
  { off := Reg.CHORD_DELAY 0, dims := [(16, 0x100)], width := 32, reset := 0x0 },
  { off := Reg.FAB_CNT_MSG_TX, dims := [], width := 64, reset := 0x0, counter := true },
  { off := Reg.FAB_CNT_MSG_RX, dims := [], width := 64, reset := 0x0, counter := true },
  { off := Reg.FAB_CNT_BAD_MSG, dims := [], width := 64, reset := 0x0, counter := true },
  { off := Reg.FAB_CNT_E2E_WAIT, dims := [], width := 64, reset := 0x0, counter := true },
  { off := Reg.FAB_CNT_E2E_TIMEOUT, dims := [], width := 64, reset := 0x0, counter := true },
  { off := Reg.FAB_CNT_LINK_LOST, dims := [], width := 64, reset := 0x0, counter := true },
  { off := Reg.FAB_CNT_STALE_TERM, dims := [], width := 64, reset := 0x0, counter := true },
  { off := Reg.FAB_CNT_SYNC_MISSED, dims := [], width := 64, reset := 0x0, counter := true },
  { off := Reg.FAB_CNT_BEACON_MISSED, dims := [], width := 64, reset := 0x0, counter := true },
  { off := Reg.CHORD_CNT_FEC_CORR 0, dims := [(16, 0x100)], width := 64, reset := 0x0, counter := true },
  { off := Reg.CHORD_CNT_FEC_UNCORR 0, dims := [(16, 0x100)], width := 64, reset := 0x0, counter := true },
  { off := Reg.CHORD_CNT_CRC 0, dims := [(16, 0x100)], width := 64, reset := 0x0, counter := true },
  { off := Reg.CHORD_CNT_REPLAY 0, dims := [(16, 0x100)], width := 64, reset := 0x0, counter := true },
  { off := Reg.CHORD_CNT_RETRAIN 0, dims := [(16, 0x100)], width := 64, reset := 0x0, counter := true },
  { off := Reg.CHORD_CNT_TX_FLITS 0, dims := [(16, 0x100)], width := 64, reset := 0x0, counter := true },
  { off := Reg.CHORD_CNT_RX_FLITS 0, dims := [(16, 0x100)], width := 64, reset := 0x0, counter := true }]

/-- The registers of chapter 15. -/
def regsHl : List RegRow := [
  { off := Reg.HL_LINK_STAT, dims := [], width := 64, reset := 0x0, rw1c := 0x1f0000 },
  { off := Reg.HL_CRASH_CTL, dims := [], width := 32, reset := 0x0, rw1c := 0x1 },
  { off := Reg.HL_CRASH 0, dims := [(32, 0x8)], width := 64, reset := 0x0 },
  { off := Reg.HL_CNT_RETRAIN, dims := [], width := 64, reset := 0x0, counter := true },
  { off := Reg.HL_CNT_CPL_TIMEOUT, dims := [], width := 64, reset := 0x0, counter := true },
  { off := Reg.HL_CNT_UR_CA_RX, dims := [], width := 64, reset := 0x0, counter := true },
  { off := Reg.HL_CNT_POISON_RX, dims := [], width := 64, reset := 0x0, counter := true },
  { off := Reg.HL_CNT_BAD_ACCESS, dims := [], width := 64, reset := 0x0, counter := true },
  { off := Reg.HL_CNT_INBOUND_UR, dims := [], width := 64, reset := 0x0, counter := true },
  { off := Reg.HL_CNT_MSIX, dims := [], width := 64, reset := 0x0, counter := true },
  { off := Reg.HL_CNT_TX_BYTES, dims := [], width := 64, reset := 0x0, counter := true },
  { off := Reg.HL_CNT_RX_BYTES, dims := [], width := 64, reset := 0x0, counter := true }]

/-- The registers of chapter 16. -/
def regsInt : List RegRow := [
  { off := Reg.PRB_CFG, dims := [], width := 32, reset := 0x64040001, rw := 0xffffff01 },
  { off := Reg.PRB_SEED, dims := [], width := 64, reset := 0x0, rw := 0xffffffffffffffff },
  { off := Reg.PRB_STAT, dims := [], width := 64, reset := 0x0 },
  { off := Reg.INT_GROVE_Q_LO, dims := [], width := 64, reset := 0x0 },
  { off := Reg.INT_GROVE_Q_HI, dims := [], width := 64, reset := 0x0 },
  { off := Reg.INT_LOG_PROD, dims := [], width := 32, reset := 0x0 },
  { off := Reg.INT_LOG_A 0, dims := [(64, 0x10)], width := 64, reset := 0x0 },
  { off := Reg.INT_LOG_B 0, dims := [(64, 0x10)], width := 64, reset := 0x0 },
  { off := Reg.INT_CNT_PROBE_RUN, dims := [], width := 64, reset := 0x0, counter := true },
  { off := Reg.INT_CNT_PROBE_PAIRS, dims := [], width := 64, reset := 0x0, counter := true },
  { off := Reg.INT_CNT_PROBE_MISMATCH, dims := [], width := 64, reset := 0x0, counter := true },
  { off := Reg.INT_CNT_PROBE_UNRESOLVED, dims := [], width := 64, reset := 0x0, counter := true },
  { off := Reg.INT_CNT_PROBE_ABANDON, dims := [], width := 64, reset := 0x0, counter := true },
  { off := Reg.INT_CNT_PROBE_EXPIRED, dims := [], width := 64, reset := 0x0, counter := true },
  { off := Reg.INT_CNT_DIGEST, dims := [], width := 64, reset := 0x0, counter := true },
  { off := Reg.INT_CNT_DIGEST_BYTES, dims := [], width := 64, reset := 0x0, counter := true },
  { off := Reg.INT_CNT_DIGEST_MISMATCH, dims := [], width := 64, reset := 0x0, counter := true },
  { off := Reg.INT_CNT_GROVE_ECC, dims := [], width := 64, reset := 0x0, counter := true },
  { off := Reg.INT_CNT_QUAR_LATTICE, dims := [], width := 64, reset := 0x0, counter := true },
  { off := Reg.INT_CNT_QUAR_GROVE, dims := [], width := 64, reset := 0x0, counter := true }]

/-- The registers of chapter 17. -/
def regsObs : List RegRow := [
  { off := Reg.OBS_FREEZE_STAT, dims := [], width := 64, reset := 0x0 },
  { off := Reg.OBS_FREEZE_TIME, dims := [], width := 64, reset := 0x0 },
  { off := Reg.OBS_TRACE_STAT, dims := [], width := 32, reset := 0x0 },
  { off := Reg.OBS_TRACE_NEXT, dims := [], width := 64, reset := 0x0 },
  { off := Reg.OBS_TRACE_FIRE, dims := [], width := 32, reset := 0x0, wo := 0x1 },
  { off := Reg.OBS_RFLOG_PROD, dims := [], width := 32, reset := 0x0 },
  { off := Reg.OBS_RFLOG_A 0, dims := [(64, 0x18)], width := 64, reset := 0x0 },
  { off := Reg.OBS_RFLOG_B 0, dims := [(64, 0x18)], width := 64, reset := 0x0 },
  { off := Reg.OBS_RFLOG_C 0, dims := [(64, 0x18)], width := 64, reset := 0x0 },
  { off := Reg.EVT_SEL 0 0, dims := [(141, 0x100), (8, 0x8)], width := 64, reset := 0x0, rw := 0x7fffffffffffff },
  { off := Reg.EVT_CNT 0 0, dims := [(141, 0x100), (8, 0x8)], width := 64, reset := 0x0, rw := 0xffffffffffffffff, counter := true },
  { off := Reg.OBS_CNT_SEL_REFUSED, dims := [], width := 64, reset := 0x0, counter := true },
  { off := Reg.OBS_CNT_TRACE_RECORDS, dims := [], width := 64, reset := 0x0, counter := true },
  { off := Reg.OBS_CNT_TRACE_DROP, dims := [], width := 64, reset := 0x0, counter := true },
  { off := Reg.OBS_CNT_DUMP_RECORDS, dims := [], width := 64, reset := 0x0, counter := true },
  { off := Reg.OBS_CNT_DUMP_DROP, dims := [], width := 64, reset := 0x0, counter := true },
  { off := Reg.OBS_CNT_FREEZE, dims := [], width := 64, reset := 0x0, counter := true }]

/-- The registers of chapter 18. -/
def regsPwr : List RegRow := [
  { off := Reg.PWR_CAPS, dims := [], width := 64, reset := 0x3c04309c4320 },
  { off := Reg.PWR_STAT, dims := [], width := 32, reset := 0x1 },
  { off := Reg.PWR_INPUT, dims := [], width := 64, reset := 0x0 },
  { off := Reg.PWR_CAP, dims := [], width := 64, reset := 0x39c4000000000 },
  { off := Reg.PWR_DUTY 0, dims := [(2, 0x8)], width := 32, reset := 0x404040 },
  { off := Reg.PWR_PARK_LO, dims := [], width := 64, reset := 0x0 },
  { off := Reg.PWR_PARK_HI, dims := [], width := 64, reset := 0x0 },
  { off := Reg.PWR_STOP_CAUSE, dims := [], width := 32, reset := 0x0 },
  { off := Reg.THM_SENSOR 0, dims := [(48, 0x8)], width := 32, reset := 0x0 },
  { off := Reg.PWR_EVENTS, dims := [], width := 32, reset := 0x0, rw1c := 0x7f },
  { off := Reg.CLK_STAT, dims := [], width := 32, reset := 0x3d },
  { off := Reg.PWR_CNT_RAMP_HOLD, dims := [], width := 64, reset := 0x0, counter := true },
  { off := Reg.PWR_CNT_DUTY_HOLD, dims := [], width := 64, reset := 0x0, counter := true },
  { off := Reg.PWR_CNT_BALLAST_MJ, dims := [], width := 64, reset := 0x0, counter := true },
  { off := Reg.PWR_CNT_ENERGY_J, dims := [], width := 64, reset := 0x0, counter := true },
  { off := Reg.PWR_CNT_PARK, dims := [], width := 64, reset := 0x0, counter := true },
  { off := Reg.PWR_CNT_CAP_ABOVE, dims := [], width := 64, reset := 0x0, counter := true }]

/-- The registers of chapter 19. -/
def regsSec : List RegRow := [
  { off := Reg.SEC_BOOT_STAT, dims := [], width := 64, reset := 0x0 },
  { off := Reg.SEC_BUILD_ID, dims := [], width := 64, reset := 0x0 },
  { off := Reg.SEC_IMG_LIST, dims := [], width := 64, reset := 0x0, rw := 0xfffffffffffff000 },
  { off := Reg.SEC_IMG_LEN, dims := [], width := 32, reset := 0x0, rw := 0x7ffffff },
  { off := Reg.SEC_MBOX_CMD, dims := [], width := 32, reset := 0x0, wo := 0xff },
  { off := Reg.SEC_MBOX_ARG, dims := [], width := 64, reset := 0x0, rw := 0xffffffffffffffff },
  { off := Reg.SEC_MBOX_DATA 0, dims := [(9, 0x8)], width := 64, reset := 0x0, rw := 0xffffffffffffffff },
  { off := Reg.SEC_MBOX_STAT, dims := [], width := 32, reset := 0x0, rw1c := 0x2 },
  { off := Reg.SEC_FUSE_VENDOR 0, dims := [(4, 0x8)], width := 64, reset := 0x0 },
  { off := Reg.SEC_FUSE_OWNER 0, dims := [(4, 0x8)], width := 64, reset := 0x0 },
  { off := Reg.SEC_FUSE_ROLLBACK, dims := [], width := 64, reset := 0x0 },
  { off := Reg.SEC_ID_STAT, dims := [], width := 64, reset := 0x100100000 },
  { off := Reg.SEC_MEASURE 0, dims := [(4, 0x8)], width := 64, reset := 0x0 }]

/-- Every register of BAR 0. -/
def regTable : List RegRow :=
  regsGlb ++ regsXch ++ regsTbl ++ regsMem ++ regsLat ++ regsVec ++ regsCore ++ regsHlx ++ regsXlt ++ regsDma ++ regsCrn ++ regsCtx ++ regsFab ++ regsHl ++ regsInt ++ regsObs ++ regsPwr ++ regsSec

/-- Whether an offset is an element of a register row. -/
def RegRow.holds (r : RegRow) (off : Nat) : Bool :=
  if off < r.off then false
  else
    let d := off - r.off
    match r.dims with
    | [] => d == 0
    | [(n, s)] => d % s == 0 && decide (d / s < n)
    | (n, s) :: (m, t) :: _ => decide (d / s < n) && d % s % t == 0 && decide (d % s / t < m)

/-- The register at a BAR 0 offset. -/
def regRow (off : Nat) : Option RegRow := regTable.find? fun r => r.holds off

/-- The reset value of the register at an offset; an unassigned offset reads zero (R6). -/
def regReset (off : Nat) : Nat := match regRow off with
  | some r => r.reset
  | none => 0

end Sys2Proof.Machine
end

