-- ==== Sys2Proof/Machine/Numbers.lean ====
section
/-!
DEFINITION. Narrow formats, shift scales, escapes, row slots and their conversions (chapter 02, R47 to R75),
and exact FP32 and BF16 arithmetic with round to nearest-even.
-/

namespace Sys2Proof.Machine

/-! ### Exact dyadic numbers and floating-point values -/

/-- The exact number `m × 2^e`. -/
structure Dyad where
  m : Int
  e : Int
  deriving DecidableEq, Repr

/-- `m × 2^k` for a shift that may be negative, the negative shift truncating; used where it is exact. -/
def shiftInt (m : Int) (k : Int) : Int :=
  if 0 ≤ k then m * ((2 ^ k.toNat : Nat) : Int) else m / ((2 ^ (-k).toNat : Nat) : Int)

def Dyad.ofInt (i : Int) : Dyad := ⟨i, 0⟩
def Dyad.zero : Dyad := ⟨0, 0⟩
def Dyad.neg (a : Dyad) : Dyad := ⟨-a.m, a.e⟩
def Dyad.abs (a : Dyad) : Dyad := ⟨a.m.natAbs, a.e⟩
def Dyad.mul (a b : Dyad) : Dyad := ⟨a.m * b.m, a.e + b.e⟩
/-- Exact sum, on the finer of the two exponents. -/
def Dyad.add (a b : Dyad) : Dyad :=
  let e := min a.e b.e
  ⟨shiftInt a.m (a.e - e) + shiftInt b.m (b.e - e), e⟩
def Dyad.sub (a b : Dyad) : Dyad := a.add b.neg
/-- Scaling by a power of two. -/
def Dyad.scale (a : Dyad) (k : Int) : Dyad := ⟨a.m, a.e + k⟩
/-- Strict comparison of values. -/
def Dyad.lt (a b : Dyad) : Bool := decide ((a.sub b).m < 0)
def Dyad.le (a b : Dyad) : Bool := decide ((a.sub b).m ≤ 0)
def Dyad.eqv (a b : Dyad) : Bool := decide ((a.sub b).m = 0)
/-- The greatest integer that is not above the value. -/
def Dyad.floor (a : Dyad) : Int := shiftInt a.m a.e
/-- Rounding to the nearest integer, ties to even. -/
def Dyad.rne (a : Dyad) : Int :=
  let f := a.floor
  let r2 := (a.sub (Dyad.ofInt f)).scale 1
  if r2.lt (Dyad.ofInt 1) then f
  else if (Dyad.ofInt 1).lt r2 then f + 1
  else if f % 2 = 0 then f else f + 1

/-- A floating-point datum: a NaN, an infinity, or a finite number with its sign kept apart
so that negative zero is a value. -/
inductive Fx where
  | nan
  | inf (neg : Bool)
  | fin (neg : Bool) (m : Nat) (e : Int)
  deriving DecidableEq, Repr

/-- The exact value of a finite datum. -/
def Fx.dyad : Fx → Dyad
  | .fin neg m e => ⟨if neg then -(m : Int) else m, e⟩
  | _ => Dyad.zero

/-- The datum of an exact number; zero is positive. -/
def Fx.ofDyad (d : Dyad) : Fx := .fin (decide (d.m < 0)) d.m.natAbs d.e

def Fx.isNan : Fx → Bool
  | .nan => true
  | _ => false

def Fx.isFin : Fx → Bool
  | .fin .. => true
  | _ => false

def Fx.neg? : Fx → Bool
  | .nan => false
  | .inf n => n
  | .fin n _ _ => n

def Fx.flip : Fx → Fx
  | .nan => .nan
  | .inf n => .inf (!n)
  | .fin n m e => .fin (!n) m e

def Fx.absv : Fx → Fx
  | .nan => .nan
  | .inf _ => .inf false
  | .fin _ m e => .fin false m e

/-- A binary floating-point format: exponent and mantissa widths. -/
structure FloatFmt where
  eb : Nat
  mb : Nat
  deriving DecidableEq, Repr

def fp32 : FloatFmt := ⟨8, 23⟩
def bf16 : FloatFmt := ⟨8, 7⟩

def FloatFmt.bias (f : FloatFmt) : Nat := 2 ^ (f.eb - 1) - 1
def FloatFmt.emax (f : FloatFmt) : Nat := 2 ^ f.eb - 1
/-- The quiet NaN with no payload and a positive sign. -/
def FloatFmt.qnan (f : FloatFmt) : Nat := f.emax * 2 ^ f.mb + 2 ^ (f.mb - 1)
def FloatFmt.infBits (f : FloatFmt) (neg : Bool) : Nat :=
  b2n neg * 2 ^ (f.eb + f.mb) + f.emax * 2 ^ f.mb

/-- The datum that a code of the format stands for. -/
def FloatFmt.decode (f : FloatFmt) (w : Nat) : Fx :=
  let neg := bit w (f.eb + f.mb)
  let ex := bits w (f.eb + f.mb - 1) f.mb
  let fr := bits w (f.mb - 1) 0
  if ex = f.emax then (if fr = 0 then .inf neg else .nan)
  else if ex = 0 then .fin neg fr (1 - (f.bias : Int) - f.mb)
  else .fin neg (2 ^ f.mb + fr) ((ex : Int) - f.bias - f.mb)

/-- The magnitude code of `m × 2^e`, rounded to nearest-even.
`sticky` says that the true value lies strictly above `m × 2^e` and below the next representable product. -/
def FloatFmt.roundMag (f : FloatFmt) (m : Nat) (e : Int) (sticky : Bool) : Nat :=
  if m = 0 then 0
  else
    let q0 : Int := 1 - (f.bias : Int) - f.mb
    let q : Int := max ((Nat.log2 m : Int) + e - f.mb) q0
    let sh : Int := q - e
    let mant : Nat :=
      if sh ≤ 0 then m <<< (-sh).toNat
      else
        let k := sh.toNat
        let hi := m >>> k
        let rem := m % 2 ^ k
        let half := 2 ^ (k - 1)
        if rem > half || (rem == half && (sticky || hi % 2 == 1)) then hi + 1 else hi
    let code := (q - q0).toNat * 2 ^ f.mb + mant
    min code (f.emax * 2 ^ f.mb)

/-- The code of a datum in the format, rounded to nearest-even; overflow gives infinity. -/
def FloatFmt.encode (f : FloatFmt) : Fx → Nat
  | .nan => f.qnan
  | .inf n => f.infBits n
  | .fin n m e => b2n n * 2 ^ (f.eb + f.mb) + f.roundMag m e false

/-- A datum rounded to the format. -/
def FloatFmt.round (f : FloatFmt) (x : Fx) : Fx := f.decode (f.encode x)

/-- Exact sum of two data before rounding.
A sum of zeros is negative only when both are; an exact cancellation gives positive zero. -/
def Fx.addExact : Fx → Fx → Fx
  | .nan, _ => .nan
  | _, .nan => .nan
  | .inf a, .inf b => if a = b then .inf a else .nan
  | .inf a, _ => .inf a
  | _, .inf b => .inf b
  | .fin na ma ea, .fin nb mb eb =>
    let d := (Fx.fin na ma ea).dyad.add (Fx.fin nb mb eb).dyad
    if d.m = 0 then .fin (na && nb) 0 0 else Fx.ofDyad d

def Fx.mulExact : Fx → Fx → Fx
  | .nan, _ => .nan
  | _, .nan => .nan
  | .inf a, .inf b => .inf (a != b)
  | .inf a, .fin nb mb _ => if mb = 0 then .nan else .inf (a != nb)
  | .fin na ma _, .inf b => if ma = 0 then .nan else .inf (na != b)
  | .fin na ma ea, .fin nb mb eb => .fin (na != nb) (ma * mb) (ea + eb)

def FloatFmt.add (f : FloatFmt) (a b : Fx) : Fx := f.round (a.addExact b)
def FloatFmt.sub (f : FloatFmt) (a b : Fx) : Fx := f.round (a.addExact b.flip)
def FloatFmt.mul (f : FloatFmt) (a b : Fx) : Fx := f.round (a.mulExact b)
/-- `a × b + c` with one rounding. -/
def FloatFmt.fma (f : FloatFmt) (a b c : Fx) : Fx := f.round ((a.mulExact b).addExact c)

/-- The quotient rounded to the format. -/
def FloatFmt.div (f : FloatFmt) : Fx → Fx → Fx
  | .nan, _ => .nan
  | _, .nan => .nan
  | .inf _, .inf _ => .nan
  | .inf a, .fin nb _ _ => .inf (a != nb)
  | .fin na _ _, .inf b => .fin (na != b) 0 0
  | .fin na ma ea, .fin nb mb eb =>
    if mb = 0 then (if ma = 0 then .nan else .inf (na != nb))
    else
      let k := f.mb + 4 + Nat.log2 mb
      let q := (ma <<< k) / mb
      let r := (ma <<< k) % mb
      f.decode (b2n (na != nb) * 2 ^ (f.eb + f.mb) + f.roundMag (2 * q + b2n (r != 0)) (ea - eb - k - 1) false)

/-- Integer square root by bisection of `n` bits. -/
def isqrt (n x : Nat) : Nat :=
  (List.range n).foldl (fun r i =>
    let c := r + 2 ^ (n - 1 - i)
    if c * c ≤ x then c else r) 0

/-- The square root rounded to the format; a negative operand gives NaN, negative zero stays. -/
def FloatFmt.sqrt (f : FloatFmt) : Fx → Fx
  | .nan => .nan
  | .inf n => if n then .nan else .inf false
  | .fin n m e =>
    if m = 0 then .fin n 0 0
    else if n then .nan
    else
      let k : Nat := 2 * (f.mb + 3)
      let odd := (e - k) % 2 ≠ 0
      let m' := if odd then m <<< (k + 1) else m <<< k
      let e' := if odd then e - k - 1 else e - k
      let r := isqrt (Nat.log2 m' / 2 + 1) m'
      f.decode (f.roundMag (2 * r + b2n (r * r != m')) (e' / 2 - 1) false)

/-- Strict comparison of data; false when either is NaN. -/
def Fx.lt : Fx → Fx → Bool
  | .nan, _ => false
  | _, .nan => false
  | .inf a, .inf b => a && !b
  | .inf a, _ => a
  | _, .inf b => !b
  | a, b => a.dyad.lt b.dyad

/-- The total order by sign and magnitude code used where equal zeros must be told apart: negative zero below zero. -/
def Fx.ltZ (a b : Fx) : Bool :=
  a.lt b || (a.isFin && b.isFin && a.dyad.eqv b.dyad && a.neg? && !b.neg?)

/-! ### Formats (R47 to R52) -/

/-- The narrow formats of R47. -/
inductive Fmt where
  | int4 | int4e | uint4 | uint4e | fp4 | fp4e | int2 | tern | terne | bin | int8 | int8e
  deriving DecidableEq, Repr

/-- R47: the format of a 4-bit code; reserved codes name none. -/
def Fmt.ofCode : Nat → Option Fmt
  | 0 => some .int4
  | 1 => some .int4e
  | 2 => some .uint4
  | 3 => some .uint4e
  | 4 => some .fp4
  | 5 => some .fp4e
  | 6 => some .int2
  | 7 => some .tern
  | 8 => some .terne
  | 9 => some .bin
  | 10 => some .int8
  | 11 => some .int8e
  | _ => none

/-- R47: width in bits. -/
def Fmt.width : Fmt → Nat
  | .int2 | .tern | .terne => 2
  | .bin => 1
  | .int8 | .int8e => 8
  | _ => 4

/-- R47: the escape code, if the format has one. -/
def Fmt.escape : Fmt → Option Nat
  | .int4e => some 0x8
  | .uint4e => some 0xF
  | .fp4e => some 0x8
  | .terne => some 0x2
  | .int8e => some 0x80
  | _ => none

/-- R47: permitted as a weight: every format. -/
def Fmt.forWeights : Fmt → Bool := fun _ => true
/-- R47: permitted as activations. -/
def Fmt.forActivations : Fmt → Bool
  | .int2 | .tern | .terne | .bin => false
  | _ => true
/-- R47: permitted for embedding rows. -/
def Fmt.forRows : Fmt → Bool
  | .bin | .int8 | .int8e => false
  | _ => true

def Fmt.isFp4 : Fmt → Bool
  | .fp4 | .fp4e => true
  | _ => false

/-- R50: FP4 magnitude codes counted in halves. -/
def fp4Mag (c : Nat) : Nat :=
  match c % 8 with
  | 0 => 0 | 1 => 1 | 2 => 2 | 3 => 3 | 4 => 4 | 5 => 6 | 6 => 8 | _ => 12

/-- R50 to R52: the integer k of a code in code units; an escape code counts zero. -/
def Fmt.k (f : Fmt) (c : Nat) : Int :=
  if f.escape = some (c % 2 ^ f.width) then 0
  else match f with
  | .int4 | .int4e => sext c 4
  | .uint4 | .uint4e => ((c % 16 : Nat) : Int)
  | .fp4 | .fp4e => if bit c 3 then -(fp4Mag c : Int) else fp4Mag c
  | .int2 => sext c 2
  | .tern | .terne => if c % 4 = 2 then 0 else sext c 2
  | .bin => if c % 2 = 1 then 1 else -1
  | .int8 | .int8e => sext c 8

/-- Least and greatest k of the format's codes. -/
def Fmt.kmin : Fmt → Int
  | .int4 => -8 | .int4e => -7 | .uint4 | .uint4e => 0 | .fp4 | .fp4e => -12
  | .int2 => -2 | .tern | .terne | .bin => -1 | .int8 => -128 | .int8e => -127
def Fmt.kmax : Fmt → Int
  | .int4 | .int4e => 7 | .uint4 => 15 | .uint4e => 14 | .fp4 | .fp4e => 12
  | .int2 | .tern | .terne | .bin => 1 | .int8 | .int8e => 127

/-- R73: largest magnitude of k taken for an accumulation bound. -/
def Fmt.boundMag : Fmt → Nat
  | .int4 | .int4e => 8 | .uint4 | .uint4e => 15 | .fp4 | .fp4e => 12
  | .int2 => 2 | .tern | .terne | .bin => 1 | .int8 | .int8e => 128

/-- R73: the bound on K of an operand pair. -/
def kBound (a b : Fmt) : Nat := (2 ^ 31 - 1) / (a.boundMag * b.boundMag)

/-- The code of a k on the format's grid. -/
def Fmt.codeOf (f : Fmt) (k : Int) : Nat :=
  match f with
  | .fp4 | .fp4e =>
    let a := k.natAbs
    let c := if a ≤ 4 then a else if a = 6 then 5 else if a = 8 then 6 else 7
    if k < 0 then c + 8 else c
  | .bin => if k = 1 then 1 else 0
  | _ => unsext k f.width

/-- R49: code of element `i` in a packed list of bytes. -/
def codeAt (f : Fmt) (l : List Byte) (i : Nat) : Nat :=
  let per := 8 / f.width
  let b := (l.getD (i * f.width / 8) 0).toNat
  bits b (f.width * (i % per) + f.width - 1) (f.width * (i % per))

/-- R49: codes packed into bytes, the last byte filled with zero bits. -/
def packCodes (w : Nat) (codes : List Nat) : List Byte :=
  let per := 8 / w
  (List.range ((codes.length + per - 1) / per)).map fun b =>
    BitVec.ofNat 8 ((List.range per).foldl (fun acc j => acc + codes.getD (b * per + j) 0 * 2 ^ (w * j)) 0)

/-- R53: exponent of the code unit of shift `s`. -/
def Fmt.unitExp (f : Fmt) (s : Int) : Int := if f.isFp4 then s - 1 else s

/-! ### Conversion (R68 to R72) -/

/-- R68: the points of the extended FP4 grid in halves, by magnitude. -/
def fp4Points : List Nat := [0, 1, 2, 3, 4, 6, 8, 12, 16]

/-- The greatest listed FP4 magnitude not above `a`, and the next one. -/
def fp4Around (a : Dyad) : Nat × Nat :=
  if (Dyad.ofInt 16).le a then (16, 20)
  else if (Dyad.ofInt 12).le a then (12, 16)
  else if (Dyad.ofInt 8).le a then (8, 12)
  else if (Dyad.ofInt 6).le a then (6, 8)
  else if (Dyad.ofInt 4).le a then (4, 6)
  else let f := a.floor.toNat; (f, f + 1)

/-- R68, R69: the neighbours `lo ≤ y < hi` of y on the extended grid; `lo = y` when y lies on it. -/
def Fmt.around (f : Fmt) (y : Dyad) : Int × Int :=
  if f.isFp4 then
    if y.m < 0 then
      let (a, b) := fp4Around y.abs
      if (Dyad.ofInt a).eqv y.abs then (-(a : Int), -(a : Int)) else (-(b : Int), -(a : Int))
    else let (a, b) := fp4Around y; ((a : Int), (b : Int))
  else (y.floor, y.floor + 1)

/-- Whether k lies in the format's range. -/
def Fmt.inRange (f : Fmt) (k : Int) : Bool := decide (f.kmin ≤ k) && decide (k ≤ f.kmax)

/-- R68: round to nearest-even on the extended grid. -/
def Fmt.rne (f : Fmt) (y : Dyad) : Int :=
  let (lo, hi) := f.around y
  if (Dyad.ofInt lo).eqv y then lo
  else
    let dl := y.sub (Dyad.ofInt lo)
    let dh := (Dyad.ofInt hi).sub y
    if dl.lt dh then lo
    else if dh.lt dl then hi
    else if f.inRange lo && f.inRange hi then (if f.codeOf lo % 2 = 0 then lo else hi)
    else if f.inRange lo then lo
    else if f.inRange hi then hi
    else lo

/-- R70: the end of the range nearest to k. -/
def Fmt.clampK (f : Fmt) (k : Int) : Int := if k < f.kmin then f.kmin else if f.kmax < k then f.kmax else k

/-- R69: stochastic rounding with the 16-bit draw `z`. -/
def Fmt.stochastic (f : Fmt) (y : Dyad) (z : Nat) : Int :=
  let (lo, hi) := f.around y
  if (Dyad.ofInt lo).eqv y then lo
  else
    let gapLog := Nat.log2 (hi - lo).toNat
    let t16 := ((y.sub (Dyad.ofInt lo)).scale (16 - gapLog)).floor.toNat
    if 65536 ≤ t16 + z then hi else lo

/-- R71: the mixing function of the counter-based generator. -/
def mix64 (x : Nat) : Nat :=
  let x := ((x ^^^ (x >>> 30)) * 0xBF58476D1CE4E5B9) % 2 ^ 64
  let x := ((x ^^^ (x >>> 27)) * 0x94D049BB133111EB) % 2 ^ 64
  x ^^^ (x >>> 31)

/-- R71: draw `n` of a source with seed input `sigma`. -/
def draw (sigma n : Nat) : Nat :=
  bits (mix64 ((sigma + (n + 1) * 0x9E3779B97F4A7C15) % 2 ^ 64)) 63 48

/-- The rounding modes of the 2-bit field before R68; the other values are reserved. -/
inductive RMode where
  | nearest
  | stochastic
  deriving DecidableEq, Repr

def RMode.ofCode : Nat → Option RMode
  | 0 => some .nearest
  | 1 => some .stochastic
  | _ => none

/-- What one conversion of R70 gives: the code, the BF16 side entry if escaped, and the events it counts. -/
structure Conv where
  code : Nat
  side : Option Nat := none
  nan : Bool := false
  sat : Bool := false
  deriving DecidableEq, Repr

/-- R70: conversion of `x` with shift `s`; `z` is the draw used in stochastic mode. -/
def convert (x : Fx) (f : Fmt) (s : Int) (mode : RMode) (z : Nat) : Conv :=
  match x with
  | .nan => { code := f.codeOf 0, nan := true }
  | .inf n =>
    match f.escape with
    | some c => { code := c, side := some (bf16.encode x) }
    | none => { code := f.codeOf (if n then f.kmin else f.kmax), sat := true }
  | .fin .. =>
    let y := x.dyad.scale (-(f.unitExp s))
    let r := f.rne y
    if !f.inRange r then
      match f.escape with
      | some c => { code := c, side := some (bf16.encode x) }
      | none => { code := f.codeOf (f.clampK r), sat := true }
    else
      match mode with
      | .nearest => { code := f.codeOf r }
      | .stochastic => { code := f.codeOf (f.clampK (f.stochastic y z)) }

/-! ### Scale entries and constant lines (R54 to R59) -/

/-- R55, R66: shift field of a scale entry or row metadata. -/
def entShift (w : Nat) : Int := sext w 7
/-- R55, R66: const field. -/
def entConst (w : Nat) : Bool := bit w 7
/-- R55, R66: const_mant field. -/
def entMant (w : Nat) : Int := sext (bits w 15 8) 8
/-- R55: tag and valid fields of a scale register entry. -/
def entTag (w : Nat) : Nat := bits w 23 16
def entValid (w : Nat) : Bool := bit w 24

/-- R57: the entry that a payload word writes with a block's tag. -/
def scaleEntry (payload tag : Nat) : Nat := payload % 2 ^ 16 + (tag % 256) * 2 ^ 16 + 2 ^ 24

/-- R58: value of a constant line. -/
def constValue (w : Nat) : Dyad := ⟨entMant w, entShift w⟩

/-- R59: the smallest shift of a list, rising from -64, whose rounded mantissa is at most 127. -/
def constShift (v : Dyad) : Option Int :=
  ((List.range 128).map fun (i : Nat) => (i : Int) - 64).find? fun s => decide (((v.abs.scale (-s)).rne) ≤ 127)

/-- R59: factors of two taken out of a mantissa while the shift stays at most 63. -/
def oddPart : Nat → Int → Int → Int × Int
  | 0, m, s => (m, s)
  | n + 1, m, s => if m ≠ 0 ∧ m % 2 = 0 ∧ s < 63 then oddPart n (m / 2) (s + 1) else (m, s)

/-- R59: mantissa and shift of a constant line of value `v`; none when no shift qualifies. -/
def encodeConst (v : Dyad) : Option (Int × Int) :=
  if v.m = 0 then some (0, 0)
  else match constShift v with
    | none => none
    | some s =>
      let a := (v.abs.scale (-s)).rne
      let m := if v.m < 0 then -a else a
      if m = 0 then some (0, 0) else some (oddPart 8 m s)

/-- R56: bytes of a scale block of `count` entries. -/
def scaleBlockBytes (count : Nat) : Nat := 8 + 8 * ((count + 3) / 4)
/-- R61: bytes of an escape group of `count` entries. -/
def escGroupBytes (count : Nat) : Nat := 8 + 8 * ((count + 1) / 2)

/-- R63: an escape value in the matrix path, as an integer count of 2^-8 code units; the flag says the value was replaced or limited. -/
def escRatio (v : Nat) (unitExp : Int) : Int × Bool :=
  let lim : Int := 32768 * 256
  match bf16.decode v with
  | .nan => (0, true)
  | .inf n => (if n then -lim else lim, true)
  | x =>
    let r := (x.dyad.scale (8 - unitExp)).rne
    let beyond := (Dyad.ofInt 32768).lt (x.dyad.scale (-unitExp)).abs
    if r < -lim then (-lim, beyond) else if lim < r then (lim, beyond) else (r, beyond)

/-! ### Row slots (R65 to R67) -/

/-- R65: bytes of codes of a row. -/
def rowCodeBytes (w d : Nat) : Nat := d * w / 8

/-- R65: slot size of a row, the smallest of 32, 64, 128 and 256 bytes that holds the codes and 12 bytes more. -/
def rowSlotBytes (w d : Nat) : Nat :=
  let c := rowCodeBytes w d + 12
  if c ≤ 32 then 32 else if c ≤ 64 then 64 else if c ≤ 128 then 128 else 256

/-- R65: escape capacity of a slot. -/
def rowEscCap (w d : Nat) : Nat := (rowSlotBytes w d - rowCodeBytes w d - 8) / 4

/-- R65: the supported row shapes. -/
def rowShapeOk (w d : Nat) : Bool :=
  (w == 4 || w == 2) && (d == 16 || d == 32 || d == 64 || d == 128 || d == 256)

/-- R11, R13: the fault codes. -/
inductive Flt where
  | xlate | perm | scaleSkew | escapeShort | residue | ecc | fabric | bus | watchdog | illegal | barrierTimeout
  deriving DecidableEq, Repr

/-- R13: value of a fault code. -/
def Flt.code : Flt → Nat
  | .xlate => 0x01 | .perm => 0x02 | .scaleSkew => 0x03 | .escapeShort => 0x04 | .residue => 0x05
  | .ecc => 0x06 | .fabric => 0x07 | .bus => 0x08 | .watchdog => 0x09 | .illegal => 0x0A | .barrierTimeout => 0x0B

/-- R13: the fault of a code. -/
def Flt.ofCode : Nat → Option Flt
  | 0x01 => some .xlate | 0x02 => some .perm | 0x03 => some .scaleSkew | 0x04 => some .escapeShort
  | 0x05 => some .residue | 0x06 => some .ecc | 0x07 => some .fabric | 0x08 => some .bus
  | 0x09 => some .watchdog | 0x0A => some .illegal | 0x0B => some .barrierTimeout
  | _ => none

/-- R66: metadata word of a slot. -/
def rowMeta (w d : Nat) (slot : List Byte) : Nat := leAt slot (rowCodeBytes w d) 8

/-- R60, R65: escape entry `j` of a slot. -/
def rowEsc (w d : Nat) (slot : List Byte) (j : Nat) : Nat := leAt slot (rowCodeBytes w d + 8 + 4 * j) 4

/-- R62, R67: the elements of a row from its codes and the escape entries left; positions count from `i`. -/
def decodeElems (f : Fmt) (unit : Int) : Nat → List Nat → List Nat → Except Flt (List Fx)
  | _, [], [] => .ok []
  | _, [], _ :: _ => .error .illegal
  | i, c :: cs, es =>
    if f.escape = some c then
      match es with
      | [] => .error .escapeShort
      | e :: es =>
        if bits e 31 16 = i then
          (decodeElems f unit (i + 1) cs es).map (bf16.decode (bits e 15 0) :: ·)
        else .error .illegal
    else (decodeElems f unit (i + 1) cs es).map (Fx.ofDyad ⟨f.k c, unit⟩ :: ·)

/-- R67: the elements of a row slot, or the fault of a malformed one. -/
def decodeRow (f : Fmt) (d : Nat) (slot : List Byte) : Except Flt (List Fx) :=
  let w := f.width
  let md := rowMeta w d slot
  let n := bits md 20 16
  let escs := (List.range n).map (rowEsc w d slot)
  if rowEscCap w d < n then .error .illegal
  else if escs.any (fun e => decide (d ≤ bits e 31 16)) then .error .illegal
  else if entConst md then
    if n ≠ 0 then .error .illegal else .ok (List.replicate d (Fx.ofDyad (constValue md)))
  else
    let codes := (List.range d).map (codeAt f slot)
    let k := (codes.filter fun c => f.escape = some c).length
    if n < k then .error .escapeShort
    else if k < n then .error .illegal
    else decodeElems f (f.unitExp (entShift md)) 0 codes escs

/-- R65 to R67: a slot from its codes, metadata word and escape entries. -/
def buildSlot (f : Fmt) (d : Nat) (codes : List Nat) (md : Nat) (escs : List Nat) : List Byte :=
  padTo (rowSlotBytes f.width d)
    (packCodes f.width codes ++ leBytes 8 md ++ (escs.map (leBytes 4)).flatten)

end Sys2Proof.Machine
end

