-- ==== Sys2Proof/Machine/State.lean ====
section
/-!
DEFINITION. The state of the block: every register, memory, queue, engine and mode that the spec gives it, as plain data,
the reasons a step can stop, and the state after reset.
-/

namespace Sys2Proof.Machine


/-! ### Shared shapes -/

/-- R43: the states of a function with a separate enable and disable. -/
inductive FnState where
  | disabled
  | enabled
  | draining
  | drainingDeferred
  deriving DecidableEq, Repr

/-- R43, R45: a function's state with the enables deferred (first one first) and the disables that wait for its shut-down. -/
structure Fn where
  state : FnState := .disabled
  deferred : List Cmd := []
  disables : List Cmd := []
  deriving DecidableEq, Repr

/-- Who waits for an access: the engine and the piece of work that R329 resumes. -/
inductive Work where
  | cmd (c : Cmd)
  | finish (c : Cmd)
  | fetch (ctx q : Nat)
  | shadow (ctx q : Nat)
  | record (ctx : Nat)
  | helix (grove ch pos : Nat)
  | core (grove : Nat)
  | bulk (ch : Nat)
  | gdma (grove : Nat)
  | load (ctx va : Nat)
  | dump (grove : Nat)
  | restore
  | mailbox
  | saved (ctx : Nat)
  deriving DecidableEq, Repr

/-- What an access waits for: a translation (R319, R323, R328), a page held by SET_BIAS (R338),
host data (R490), or the answer of a global access (R452). -/
inductive Need where
  | ats (pasid page : Nat) (write : Bool)
  | hostFault (pasid page : Nat) (write : Bool)
  | pri (pasid page : Nat) (write : Bool)
  | absent (ctx va : Nat)
  | load (ctx va : Nat)
  | bias (pasid page : Nat)
  | hostRead (pasid addr bytes : Nat)
  | gread (dev offset bytes : Nat)
  | gwrite (dev offset : Nat) (data : List Byte)
  | memop (dev : Nat) (m : MemopMsg)
  deriving DecidableEq, Repr

/-- An access that waits, with the tag of its request where it has one. -/
structure Waiting where
  work : Work
  need : Need
  tag : Nat := 0
  deriving DecidableEq, Repr

/-- An answer that has arrived for a piece of work and is not yet used. -/
structure Arrived where
  work : Work
  need : Need
  data : List Byte
  deriving DecidableEq, Repr

/-- The accesses in flight of every engine (R329), and what their answers left. -/
structure Io where
  waits : List Waiting := []
  arrived : List Arrived := []
  failed : List (Work × Flt) := []
  rounds : List (Work × Nat × Nat) := []
  nextTag : Nat := 0
  deriving DecidableEq, Repr

/-! ### Memory (chapter 05) and the free values' counter -/

/-- The part's own memory: HBM, the Canopy scratchpad and the grove stores at their local offsets (R21),
the poisoned sectors (R183), and the sectors that hold an error not yet met: 1 correctable, 2 uncorrectable. -/
structure Mem where
  bytes : List Host.Cell := []
  poison : List Nat := []
  latent : Sparse Nat := []
  deriving DecidableEq, Repr

/-! ### Translation (chapter 10) -/

/-- R313, R314: a span entry with its source word; `giant` marks a 1 GiB span. `va` is the device VA of its start. -/
structure Span where
  ctx : Nat
  giant : Bool
  va : Nat
  entry : Nat
  source : Nat
  deriving DecidableEq, Repr

/-- R312: a node of a span table: level 1 to 3 and the VA bits above the ones it is indexed by. -/
structure SpanNode where
  ctx : Nat
  level : Nat
  pre : Nat
  deriving DecidableEq, Repr

/-- R309, R319: an address translation cache entry: the page's host address, size, translated address and permissions. -/
structure AtcEnt where
  pasid : Nat
  page : Nat
  size : Nat
  target : Nat := 0
  read : Bool
  write : Bool
  deriving DecidableEq, Repr

/-- R309: a micro-TLB entry: a span of a context, or a host page. -/
inductive UtlbEnt where
  | span (ctx va : Nat)
  | page (e : AtcEnt)
  deriving DecidableEq, Repr

/-- R323: an outstanding page request and the group that holds it. -/
structure PageReq where
  pasid : Nat
  page : Nat
  write : Bool
  group : Nat
  deriving DecidableEq, Repr

/-- R324: a page request group; `index` is its PRG index once it has been sent, `full` says that it closed full. -/
structure PageGroup where
  id : Nat
  pasid : Nat
  limit : Nat
  index : Option Nat := none
  full : Bool := false
  deriving DecidableEq, Repr

/-- R335: a range of OWNED pages of a PASID, in pages of 4 KiB. -/
structure BiasRange where
  pasid : Nat
  first : Nat
  count : Nat
  deriving DecidableEq, Repr

/-- R338: a SET_BIAS in progress. -/
structure BiasOp where
  cmd : Cmd
  pasid : Nat
  first : Nat
  count : Nat
  owned : Bool
  flush : Bool
  begun : Bool
  deriving DecidableEq, Repr

/-- R320: an ATS invalidation whose completion is owed: its range (of every PASID if `all`) and the tags of the reads it waits for. -/
structure AtsInv where
  tag : Nat
  pasid : Nat
  addr : Nat
  size : Nat
  all : Bool := false
  reads : List Nat := []
  deriving DecidableEq, Repr

/-- A message to the host's translation agent: Translation Request (R319), page request group (R324),
Invalidate Completion (R320), CLFlush lines (R338). -/
inductive HostMsg where
  | translate (pasid page : Nat) (noWrite : Bool)
  | pageGroup (index : Nat) (pages : List (Nat × Bool))
  | invalidateDone (tag : Nat)
  | clFlush (pasid addr lines : Nat)
  deriving DecidableEq, Repr

/-- R316: a span write in progress: the value written to `XLT_SPAN_GO`, and the load that it waits for, if any. -/
structure SpanOp where
  go : Nat
  load : Option (Nat × Nat) := none
  deriving DecidableEq, Repr

/-- The translation unit and the fault gatherer. -/
structure Xlt where
  spans : List Span := []
  nodes : List SpanNode := []
  utlb : List (Nat × UtlbEnt) := []
  dtlb : List (Nat × Nat) := []
  atc : List AtcEnt := []
  reqs : List PageReq := []
  groups : List PageGroup := []
  nextGroup : Nat := 0
  loads : List (Nat × Nat) := []
  bias : List BiasRange := []
  biasOps : List BiasOp := []
  spanOp : Option SpanOp := none
  invs : List AtsInv := []
  sent : List HostMsg := []
  deriving DecidableEq, Repr

/-! ### Crown: rings, records and graphs (chapter 12) -/

/-- R370, R371: a command ring. -/
structure Ring where
  base : Nat := 0
  sizeLog : Nat := 0
  enable : Bool := false
  shadow : Nat := 0
  head : Nat := 0
  tail : Nat := 0
  deriving DecidableEq, Repr

/-- R370, R387 to R390: a completion ring; `phase` is the phase of its present pass,
`held` says that an interrupt holdoff runs and `owed` that a message is owed at its end. -/
structure CplRing where
  base : Nat := 0
  sizeLog : Nat := 0
  vector : Nat := 0
  holdoff : Nat := 0
  prod : Nat := 0
  head : Nat := 0
  phase : Bool := true
  held : Bool := false
  owed : Bool := false
  deriving DecidableEq, Repr

/-- A completion record that waits to be written, with whether it raises the vector (R390)
and whether it is only a vector without a record. -/
structure Pend where
  record : Record
  irq : Bool := false
  silent : Bool := false
  deriving DecidableEq, Repr

/-- A command that has ended and whose chain has not yet fired (R391). -/
structure Fin where
  cmd : Cmd
  status : Nat
  fault : Nat
  result : Nat
  second : Bool := false
  deriving DecidableEq, Repr

/-- R396: a node of a graph image: its packet's unit offset and predecessors. -/
structure GNode where
  off : Nat
  preds : List Nat
  deriving DecidableEq, Repr

/-- R395, R403: a generation of a stored graph, with the pages of graph space that it uses. -/
structure Gen where
  num : Nat
  seed : Nat
  nodes : List GNode
  packets : List Byte
  pages : List Nat
  deriving DecidableEq, Repr

/-- R398, R399, R405: a stored graph of a context. A slot is its node, its parameter and its present value. -/
structure Graph where
  id : Nat
  fn : Fn := {}
  cur : Nat := 0
  gens : List Gen := []
  slots : List (Nat × Nat × Nat) := []
  deriving DecidableEq, Repr

/-- R400 to R402: a running graph launch; `ended` lists each completed node with its status. -/
structure GLaunch where
  id : Nat
  cmd : Cmd
  graph : Nat
  gen : Nat
  step : Nat
  argBase : Nat
  started : List Nat := []
  ended : List (Nat × Nat) := []
  bad : Option (Nat × Nat × Nat) := none
  deriving DecidableEq, Repr

/-- A started command (R378) with the fabric time of its start. -/
structure Started where
  cmd : Cmd
  time : Nat
  deriving DecidableEq, Repr

/-- Crown's commands in progress, in start order; `fresh` are deferred enables that are carried out (R44)
with the enables that joined them, `packets` the manager packets whose indirect parameters are being read, with their senders. -/
structure Crn where
  started : List Started := []
  fresh : List (Cmd × List Cmd) := []
  finishing : List Fin := []
  launches : List GLaunch := []
  packets : List (Nat × List Byte) := []
  nextLaunch : Nat := 0
  nextPage : Nat := 0
  deriving DecidableEq, Repr

/-! ### Contexts, partitions and grove nodes (chapter 13) -/

/-- `CTX_VIEW.state`. -/
inductive CtxState where
  | none | out | swappingIn | resident | evicting | faulted | draining | drainingDeferred
  deriving DecidableEq, Repr

/-- A context. `records` are its completion records that wait (R332); `progress` is R431's time;
`pinMask` names logical Groves (R434); `pending` is the pending-fault word of R331; `teared` is the fault of its teardown. -/
structure Ctx where
  id : Nat
  state : CtxState := .none
  part : Nat := 0
  pasid : Nat := 0
  saveBase : Nat := 0
  saveLen : Nat := 0
  scratchFirst : Nat := 0
  scratchMib : Nat := 0
  rings : List Ring := []
  cpl : CplRing := {}
  records : List Pend := []
  pinned : Bool := false
  pinMask : Nat := 0
  pinCmds : List Cmd := []
  pending : Option Flt := none
  teared : Option Flt := none
  progress : Nat := 0
  waitSince : Option Nat := none
  reserveSlot : Bool := false
  deferred : List Cmd := []
  destroys : List Cmd := []
  graphs : List Graph := []
  deriving DecidableEq, Repr

/-- A partition (R413, R414). Sets are masks. -/
structure Part where
  exist : Bool := false
  groups : Nat := 0
  ways : Nat := 0
  groves : Nat := 0
  exact : Bool := false
  deriving DecidableEq, Repr

/-- R165, R414: a CTX_PARTITION that waits for its group scrubs. -/
structure PartOp where
  cmd : Cmd
  part : Nat
  next : Part
  scrub : List Nat
  total : Nat
  deriving DecidableEq, Repr

/-- The states of a grove node (R424 to R428). `armed` waits for a SYNC_START time. -/
inductive NodeState where
  | waiting
  | armed
  | running
  | softStop
  | hardStop
  | stopped
  | saved
  deriving DecidableEq, Repr

/-- R393, R424: a grove node. `groves` are Grove numbers in logical order; barrier fields under R269, R270 and R276. -/
structure Node where
  ctx : Nat
  cmd : Cmd
  cls : Nat
  image : Nat
  pblock : Nat
  count : Nat
  step : Nat
  seed : Nat
  groves : List Nat
  state : NodeState := .waiting
  since : Nat := 0
  held : Nat := 0
  ended : List Nat := []
  stopped : List Nat := []
  escalated : Bool := false
  arrived : List Nat := []
  barId : Nat := 0
  barGen : Nat := 0
  barAt : Nat := 0
  barFirst : Nat := 0
  work : List Nat := [0, 0, 0, 0]
  maxCycle : Nat := 0
  fault : Option Flt := none
  deriving DecidableEq, Repr

/-- Contexts, partitions, grove nodes, and the Groves whose save runs (R426). -/
structure Sched where
  ctxs : List Ctx := []
  parts : List Part := []
  partOps : List PartOp := []
  nodes : List Node := []
  saving : List Nat := []
  deriving DecidableEq, Repr

/-! ### The exchange engine (chapter 03) -/

/-- Where the indices of one bag part come from: the segment and the bag, and the numbers of the indices in block order (R90). -/
structure PartRef where
  seg : Nat
  bag : Nat
  nums : List Nat
  deriving DecidableEq, Repr

/-- What has been received for a bag: the responder, the number of its first index, the result bytes,
and whether they are a whole vector. -/
structure BagAns where
  responder : Nat
  order : Nat
  data : List Byte
  whole : Bool
  deriving DecidableEq, Repr

/-- A bag of a LOOKUP: its length, its answers and its indices found missing. -/
structure Bag where
  len : Nat
  answers : List BagAns := []
  deriving DecidableEq, Repr

/-- A segment of a LOOKUP (R86) with the stamp of R120. -/
structure LSeg where
  table : Nat
  epoch : Nat
  poolOp : Nat
  outFmt : Nat
  outKind : Nat
  outShift : Nat
  dim : Nat
  outOff : Nat
  bags : List Bag
  deriving DecidableEq, Repr

/-- A LOOKUP in progress. `start` is the context address, or the byte of the ring ID, of the output start; `missing` are the indices found missing, `outs` the output writes,
`maskFree` is the free value's counter for a mask of undefined bytes, and `written` says that the outputs have been issued. -/
structure Look where
  cmd : Cmd
  deadline : Nat := 0
  hedge : Nat := 0
  exact : Bool := false
  ring : Option Nat := none
  start : Nat := 0
  mask : Nat := 0
  total : Nat := 0
  segs : List LSeg := []
  missing : List Nat := []
  hedged : Nat := 0
  saturated : Nat := 0
  fault : Option Nat := none
  ending : Bool := false
  written : Bool := false
  waitsRing : Bool := false
  outs : List (Nat × List Byte) := []
  maskFree : Nat := 0
  deriving DecidableEq, Repr

/-- A batch on the requester (R94 to R99, R108). `primary` and `replica` are its owner pair, `dest` the device it went to.
`refs` are its bag parts and `state` tells of each 0 unanswered, 1 answered, 2 finalised as missing; `got` lists the parts that the
device has covered by fragments. A copy names its original and, part by part, the original's parts. -/
structure ReqBatch where
  id : Nat
  cmd : Cmd
  primary : Nat
  replica : Nat
  dest : Nat
  msg : BatchMsg
  refs : List PartRef
  state : List Nat := []
  got : List Nat := []
  due : Bool := false
  sent : Bool := false
  sentAt : Nat := 0
  hedged : Bool := false
  redirected : Bool := false
  copyOf : Option Nat := none
  partMap : List Nat := []
  deriving DecidableEq, Repr

/-- The result of one bag part at the owner: its bytes, its fault code if it met a row fault, and its saturated elements. -/
structure PartRes where
  data : List Byte
  fault : Option Nat := none
  saturated : Nat := 0
  deriving DecidableEq, Repr

/-- A batch that this device serves as owner: its arrival time, its results in order and the next one to send,
the rows it waits for and the rows fetched from a new owner (R154). -/
structure OwnBatch where
  msg : BatchMsg
  start : Nat
  results : List PartRes := []
  next : Nat := 0
  fetch : List RowRef := []
  rows : List (RowRef × List Byte) := []
  deriving DecidableEq, Repr

/-- The exchange engine. `window` holds, newest first, one entry per batch sent with the hedge copies sent since it (R110). -/
structure Xch where
  looks : List Look := []
  batches : List ReqBatch := []
  owned : List OwnBatch := []
  window : List Nat := []
  nextBatch : Nat := 1
  deriving DecidableEq, Repr

/-! ### Tables that change while serving (chapter 04) -/

/-- R118: state codes of a descriptor slot. -/
inductive SlotState where
  | empty | pending | current | previous | retiring
  deriving DecidableEq, Repr

/-- R129: a publication on the manager: the members that answered READY or REFUSE and the epochs they drained. -/
structure Publication where
  cmd : Option Cmd
  table : Nat
  epoch : Nat
  time : Nat
  reply : Nat
  ready : List Nat := []
  refused : List (Nat × Nat) := []
  committed : Bool := false
  drained : List (Nat × Nat × Bool) := []
  dropped : Bool := false
  deriving DecidableEq, Repr

/-- R134: a domain retirement on the manager, with the commands that it completes. -/
structure Retirement where
  cmds : List Cmd
  table : Nat
  time : Nat
  drained : List (Nat × Nat × Bool) := []
  deriving DecidableEq, Repr

/-- R129, R134: what a member owes: a commit that it holds for its time, a retire time, the epochs to drain for the manager and
for a local retirement, and the epochs to drop. -/
structure MemberWork where
  table : Nat
  commit : Option (Nat × Nat) := none
  retireAt : Option Nat := none
  drains : List Nat := []
  localDrains : List Nat := []
  drops : List Nat := []
  deriving DecidableEq, Repr

/-- R119, R134: the local disable of a table: commands that wait, and deferred loads (R43). -/
structure TableFn where
  table : Nat
  fn : Fn := {}
  deriving DecidableEq, Repr

/-- R139, R145: an update batch of an UPDATE_ROWS: its owner, the owner pair of its rows, and whether its counts are the command's. -/
structure UpdSent where
  dst : Nat
  pair : Nat × Nat
  msg : UpdMsg
  counts : Bool
  deriving DecidableEq, Repr

/-- R139, R145: an UPDATE_ROWS in progress: the batches sent and not acknowledged, those held for an ID that is RESTORING,
the counts of the counting owners, and the faults. -/
structure UpdOp where
  cmd : Cmd
  table : Nat
  epoch : Nat
  sent : List UpdSent := []
  held : List UpdSent := []
  applied : Nat := 0
  refits : Nat := 0
  sats : Nat := 0
  rowFault : Option Nat := none
  unreachable : Bool := false
  gone : Bool := false
  deriving DecidableEq, Repr

/-- R144, R154: an update batch served as owner whose acknowledgement waits for INV_ACK of (row, holder) pairs
and for rows that are held or forwarded. -/
structure UpdServe where
  src : Nat
  ack : UpdAckMsg
  inv : List (Nat × Nat) := []
  rows : List Nat := []
  deriving DecidableEq, Repr

/-- R154: an update of one row that a migration holds: sender, the batch reduced to the row, and the flits of credit withheld. -/
structure UpdHeld where
  src : Nat
  msg : UpdMsg
  flits : Nat := 0
  deriving DecidableEq, Repr

/-- R154: an update forwarded to the new owner: the batch ID used there, and the sender and batch that it belongs to. -/
structure UpdRelay where
  id : Nat
  src : Nat
  batch : Nat
  row : Nat
  deriving DecidableEq, Repr

/-- R151, R153: the overlay states of a row on a requester. -/
inductive OverlayState where
  | invalid
  | filling
  | fillStale
  | valid (slot : List Byte)
  | moved (owner : Nat)
  deriving DecidableEq, Repr

/-- An overlay entry with the time of its last REP_FILL (R151). -/
structure Overlay where
  row : RowRef
  state : OverlayState
  lastFill : Option Nat := none
  ackDue : Bool := false
  deriving DecidableEq, Repr

/-- R153, R154: migration states of a row on its parties. `new` is B, `old` is A, `replica` is R. -/
inductive MigState where
  | copying
  | forwarding
  | shadow
  | fwdReplica
  | receiving
  | owner (slot : List Byte)
  | gone
  deriving DecidableEq, Repr

/-- A row in migration on this device, with the updates it holds, and the devices whose answers it awaits:
the holders in COPYING (REP_ACK), the shard replica in FORWARDING (MIG_FWD_ACK). -/
structure Mig where
  row : RowRef
  state : MigState
  newOwner : Nat
  oldOwner : Nat
  replica : Nat
  held : List UpdHeld := []
  revoking : List Nat := []
  deriving DecidableEq, Repr

/-- R151, R152: the holders of a replicated row on its primary owner, and those that a REP_DROP is removing. -/
structure Holders where
  row : RowRef
  devs : List Nat
  dropping : List Nat := []
  deriving DecidableEq, Repr

/-- R148, R149, R153: a GRAFT_ROW in progress on the manager: the parties of a migration and the members that have acknowledged.
A migration taken over from a lost manager has no command. -/
structure GraftOp where
  cmd : Option Cmd
  op : Nat
  row : RowRef
  target : Nat
  oldOwner : Nat := 0xFFFF
  replica : Nat := 0xFFFF
  acks : List Nat := []
  copied : Bool := false
  deriving DecidableEq, Repr

/-- The table machinery of the part. `replicated` and `migrated` are the manager's own lists of what it has grafted;
`last` is the last outcome of each publication (R471): table, epoch, code. -/
structure Tbl where
  pubs : List Publication := []
  retires : List Retirement := []
  waitRetire : List Cmd := []
  work : List MemberWork := []
  fns : List TableFn := []
  upds : List UpdOp := []
  serves : List UpdServe := []
  relays : List UpdRelay := []
  nextUpd : Nat := 1
  overlay : List Overlay := []
  holders : List Holders := []
  migs : List Mig := []
  grafts : List GraftOp := []
  replicated : List (RowRef × Nat) := []
  migrated : List (RowRef × Nat) := []
  sketch : Sparse Nat := []
  last : List (Nat × Nat × Nat) := []
  deriving DecidableEq, Repr

/-! ### Xylem units, reduction groups, the Canopy and repair (chapter 05) -/

/-- Who asked for a memory-side operation: a core's AMO (with the register that takes the old value),
a DMA engine's descriptor, another device, or an engine's chain. -/
inductive MemWho where
  | core (grove : Nat) (rd : Option Nat)
  | dma (w : Work)
  | remote (dev tag : Nat)
  | chain (ctx : Nat)
  deriving DecidableEq, Repr

/-- R175, R179, R345: a memory-side operation on its way to its Xylem unit.
`elems` lists target offsets with operands: one, or the elements of one descriptor in one sector. -/
structure MemReq where
  who : MemWho
  ctx : Nat
  code : Nat
  exact : Bool := false
  part : Nat := 0
  group : Nat := 0
  contrib : Nat := 0
  expected : Nat := 0
  elems : List (Nat × List Byte)
  deriving DecidableEq, Repr

/-- R179: a reduction group at its Xylem unit with its staged contributions and the time of the first. -/
structure RedGroup where
  part : Nat
  group : Nat
  sector : Nat
  expected : Nat
  code : Nat
  start : Nat
  staged : List MemReq
  deriving DecidableEq, Repr

/-- R166: a Canopy line: its die, way, line number (offset divided by 256) and sector valid bits. -/
structure CanLine where
  die : Nat
  way : Nat
  line : Nat
  valid : Nat
  deriving DecidableEq, Repr

/-- R190: a Taproot repair in progress: the row and the sectors it holds. -/
structure Repair where
  stack : Nat
  channel : Nat
  pc : Nat
  bank : Nat
  row : Nat
  uncorrectable : Bool
  deriving DecidableEq, Repr

/-- Memory-side operations in flight here, those sent to other devices by tag, reduction groups, first contributions
that wait for staging, Canopy lines, the running repair, repairs that wait for it or for the end of raw test access,
the times of the corrected errors of rows within 24 hours, raw test access (R188), and the words shifted into the IEEE 1500 port. -/
structure Xyl where
  reqs : List MemReq := []
  remote : List (Nat × MemReq) := []
  groups : List RedGroup := []
  waiting : List MemReq := []
  lines : List CanLine := []
  repair : Option Repair := none
  repairs : List Repair := []
  rowErrors : List (Repair × Nat) := []
  maint : Bool := false
  granted : Bool := false
  ppr : Bool := false
  shiftIn : List Nat := []
  deriving DecidableEq, Repr


/-! ### DMA engines (chapter 11) -/

/-- R342: a descriptor that an engine holds: where it lies (a context address, or a grove store offset), its eight words,
the bytes done and the CRC state over them (R363), the scoreboard token it releases, whether its data has moved whole,
and its status and fault code once they are decided. -/
structure Desc where
  at_ : Nat
  words : List Nat
  started : Bool := false
  bytesDone : Nat := 0
  crc : Nat := 0
  token : Option Nat := none
  moved : Bool := false
  out : Option (Nat × Nat) := none
  deriving DecidableEq, Repr

/-- R354 to R359: a bulk channel; `ctx` is the context that it is bound to. -/
structure Bulk where
  fn : Fn := {}
  ctx : Option Nat := none
  base : Nat := 0
  ringLog : Nat := 0
  head : Nat := 0
  tail : Nat := 0
  held : Option Desc := none
  deriving DecidableEq, Repr

/-- R360 to R363: the grove DMA engine of a Grove. -/
structure Gdma where
  queue : List Desc := []
  waiting : Option Nat := none
  disabled : Bool := false
  deriving DecidableEq, Repr

/-- The DMA engines: bulk channels by number, grove engines by Grove. -/
structure Dma where
  bulk : Sparse Bulk := []
  gdma : Sparse Gdma := []
  deriving DecidableEq, Repr

/-! ### Groves (chapters 06 to 09) -/

/-- R262, R275: the engine that holds a token's work. -/
inductive Eng where
  | tile
  | chain
  | helix (ch : Nat)
  | gdma
  deriving DecidableEq, Repr

/-- R275: what a control core waits for. -/
inductive CoreWait where
  | none
  | tokens (mask : Nat)
  | barrier (id : Nat)
  | tag
  | held
  | ending
  deriving DecidableEq, Repr

/-- R198, R204, R221: an issued tile. `aPos` and `bPos` are the first stream bytes it reads on its channels.
`latched` holds 32 A, 32 B and 32 output scale entries; `bank` and `esc` hold 32 × 32 values, the escape sums in units of 2^-16;
`rowRes` and `colRes` hold the eight checksum residues of each Lattice; `retry` lists the Lattices whose blocks are retried;
`sample` is the entropy sample of a stochastic drain in Free mode (R72). -/
structure Tile where
  desc : List Nat
  at_ : Nat
  token : Nat
  started : Bool := false
  steps : Nat := 0
  aPos : Nat := 0
  bPos : Nat := 0
  latched : List Nat := []
  bank : List Int := []
  esc : List Int := []
  rowRes : List Nat := []
  colRes : List Nat := []
  checked : Bool := false
  retry : List Nat := []
  sample : Nat := 0
  deriving DecidableEq, Repr

/-- R228, R248: an issued chain. `fed` says that a tile has been issued to its drain (R232); `acc` holds the accumulators of
a summing pass over the whole chain (R246); `last` is the summary of the last row; `table` is its operand table (R230); `sample` is as for a tile (R72). -/
structure VChain where
  desc : List Nat
  at_ : Nat
  token : Nat
  rows : Nat := 0
  escs : Nat := 0
  fed : Bool := false
  beats : Nat := 0
  acc : List Nat := [0, 0, 0, 0]
  used : List Nat := []
  last : Nat × Nat := (0, 0)
  table : List Nat := []
  sample : Nat := 0
  deriving DecidableEq, Repr

/-- R240, R244: a slot of the reduction unit; entries are FP32 codes with their indices, in list order. -/
structure RedSlot where
  fn : Nat := 0
  k : Nat := 0
  count : Nat := 0
  value : Nat := 0
  index : Nat := 0
  entries : List (Nat × Nat) := []
  deriving DecidableEq, Repr

/-- R290, R301: a position in a stream program: pc, loop depth and counters, address and stride registers,
progress within the instruction, and P. -/
structure HPos where
  pc : Nat := 0
  depth : Nat := 0
  ctr : List Nat := [0, 0, 0, 0, 0, 0]
  addr : List Nat := [0, 0, 0, 0]
  stride : List Nat := List.replicate 32 0
  done : Nat := 0
  row : Nat := 0
  p : Nat := 0
  deriving DecidableEq, Repr

/-- R284, R301: a request in flight with the position at which it was issued. -/
structure HReq where
  pos : HPos
  addr : Nat
  bytes : Nat
  deriving DecidableEq, Repr

/-- R279 to R305: a Helix channel. `tail`, `head` and `cons` are T, H and C; `got` lists the ranges of an external producer's bytes
that have arrived beyond the tail; `opened` counts the data blocks whose scale block and escape group have been taken;
`codes` counts the codes passed to consumers; `escs` holds the present group's entries that are not yet consumed. -/
structure HChan where
  running : Bool := false
  ended : Bool := false
  parked : Bool := false
  halted : Option Flt := none
  stopping : Bool := false
  barw : Bool := false
  taking : Bool := false
  held : Bool := false
  prog : Nat := 0
  header : List Nat := []
  instrs : List Nat := []
  pos : HPos := {}
  reqs : List HReq := []
  tail : Nat := 0
  head : Nat := 0
  cons : Nat := 0
  accepted : Nat := 0
  got : List (Nat × Nat) := []
  opened : Nat := 0
  escs : List Nat := []
  escUsed : Nat := 0
  g0 : Nat := 0
  token : Option Nat := none
  faultVa : Nat := 0
  deriving DecidableEq, Repr

/-- R271, R532: a TAG copy in progress: dump slot, region, space in the buffer, and the fabric time of the TAG. -/
structure DumpCopy where
  slot : Nat
  tensor : Nat
  step : Nat
  off : Nat
  len : Nat
  space : Nat
  time : Nat
  deriving DecidableEq, Repr

/-- A Grove that holds a node: the control core (R252, R275), the Lattices' tiles, the scale register file (R55), the vector engine,
the Helix channels, and the grove store chunks that the node has written (R423). -/
structure Grove where
  ctx : Option Nat := none
  logical : Nat := 0
  image : Nat := 0
  code : List Nat := []
  x : Sparse W64 := []
  sm : Sparse W64 := []
  pc : Nat := 0
  redTag : Nat := 0
  cycle : Nat := 0
  barGen : Nat := 0
  tokens : List (Nat × Eng) := []
  wait : CoreWait := .none
  running : Bool := false
  since : Nat := 0
  elapsed : Nat := 0
  work : List Nat := [0, 0, 0, 0]
  tiles : List Tile := []
  scale : Sparse Nat := []
  chains : List VChain := []
  chainOn : Bool := false
  slots : List RedSlot := [{}, {}, {}, {}]
  chans : Sparse HChan := []
  chunks : List Nat := []
  dump : Option DumpCopy := none
  deriving DecidableEq, Repr

/-- R286, R287: a context-wide ring ID. `bound` names the Grove and channel bound to it, `base` the ID's byte at which the binding
starts, `next` the first byte of the ID not given to a producer, `held` the producer's bytes not yet written. -/
structure RingId where
  ctx : Nat
  id : Nat
  bound : Option (Nat × Nat) := none
  base : Nat := 0
  next : Nat := 0
  producer : Option Work := none
  held : List (Nat × List Byte) := []
  deriving DecidableEq, Repr

/-- R426: a saved Grove of a node, by context and logical Grove. `store` holds the chunks written, `gdma` the DMA engine's queue. -/
structure SavedGrove where
  ctx : Nat
  grove : Grove
  store : List Host.Cell := []
  gdma : Gdma := {}
  ended : Bool := false
  deriving DecidableEq, Repr

/-- The Groves by number, the ring IDs, saved and hosted logical Groves (R267), and the tiles that each Lattice
has drained without a mismatch since its last strike (R216), by 16 × Grove + Lattice; `eccAt` is one more than the fabric time
of a Grove's latest uncorrectable error (R509). -/
structure Gro where
  groves : Sparse Grove := []
  rings : List RingId := []
  saved : List SavedGrove := []
  drained : Sparse Nat := []
  eccAt : Sparse Nat := []
  deriving DecidableEq, Repr


/-! ### Chords and the fabric (chapter 14) -/

/-- R439 to R446: one Chord: its function (R46), link, neighbour, replay buffer (sequence number and bytes of each flit),
sequence numbers, the times of its replays within 1 ms, link credits held and owed per virtual channel, the message in progress on each channel,
and the flits that wait for credit or replay room: channel, head, tail, packet area. -/
structure Chord where
  fn : Fn := { state := .enabled }
  up : Bool := false
  retraining : Bool := false
  known : Bool := false
  isPart : Bool := false
  mismatch : Bool := false
  peerId : Nat := 0
  helloDue : Bool := true
  txSeq : Nat := 0
  txAcked : Nat := 0xFFF
  rxSeq : Nat := 0
  nak : Bool := false
  badRun : Nat := 0
  replays : List Nat := []
  replay : List (Nat × List Byte) := []
  credits : List Nat := [0, 0, 0, 0, 0, 0]
  owe : List Nat := [0, 0, 0, 0, 0, 0]
  partials : List (Nat × List Byte) := []
  txq : List (Nat × Bool × Bool × List Byte) := []
  deriving DecidableEq, Repr

/-- A member of the domain as the manager and deputy keep it (R460), and as FABRIC_STATUS reports it, with the time of its last KEEPALIVE. -/
structure Member where
  uid : Nat
  id : Nat
  reserve : Bool := false
  down : Bool := false
  restoring : Bool := false
  heardAt : Nat := 0
  joined : Bool := false
  deriving DecidableEq, Repr

/-- `FAB_STAT.role`. -/
inductive Role where
  | discovering | member | manager | deputy | reserve
  deriving DecidableEq, Repr

/-- A request whose response R450 times, the time of its sending and the plane it went out on. -/
structure Timed where
  tag : Nat
  dst : Nat
  body : Body
  time : Nat
  plane : Nat := 0
  deriving DecidableEq, Repr

/-- R469: work armed by SYNC_START: its time, and the next packet of the ring or the LAUNCH nodes of the same graph. -/
structure Armed where
  sync : Cmd
  target : Option Cmd := none
  nodes : List Nat := []
  time : Nat
  power : Nat := 0
  ballast : Bool := false
  deriving DecidableEq, Repr

/-- R473: a reserve switch-in on the manager, with its progress. -/
structure SwitchOp where
  cmd : Cmd
  failed : Nat
  reserve : Nat
  acks : List Nat := []
  recs : List RestoreRec := []
  begun : Bool := false
  sentRecs : Bool := false
  deriving DecidableEq, Repr

/-- The fabric port of the part. Time counts 1/256 ns; `frac` is its 32 fraction bits and `rate` the advance of one N-cycle
with 32 fraction bits (R465, R466). `credits` are end-to-end credits per (device, channel) against 4 initial flits (R446).
`cseqTx` and `cseqRx` are the CONTROL sequence numbers per device (R447). `standing` and `withdrawn` are a STAND and a WITHDRAW that wait for
an election (R459, R471); `heard` lists the UIDs heard with their candidate and reserve flags, `assigned` every UID with the ID it has held;
`count` is the member count that FAB_DOMAIN shows, `fresh` says that the present election is one of R464, and `reports` are the members'
state reports. `restoreOwe` lists the IDs for which RESTORE_ACK is owed; the reserve works through `restoreWork`, with the bytes of the
present record in `restoreBuf` and its number in `restoreAt` (R473). `regReads` are the register values received, by tag (R453). -/
structure Fab where
  chords : List (Nat × Chord) := []
  sent : List Msg := []
  waiting : List Msg := []
  inbox : List (List Byte) := []
  devId : Option Nat := none
  role : Role := .discovering
  term : Nat := 0
  topTerm : Nat := 0
  mgrId : Nat := 0
  mgrUid : Nat := 0
  depId : Nat := 0
  depUid : Nat := 0
  standing : Bool := false
  candidate : Bool := false
  withdrawn : Bool := false
  heard : List (Nat × Bool × Bool) := []
  members : List Member := []
  assigned : List (Nat × Nat) := []
  formed : Bool := false
  switched : Bool := false
  count : Nat := 0
  fresh : Bool := false
  reports : List (Nat × Option (List JoinEntry)) := []
  routes : List (Nat × Nat) := []
  credits : List (Nat × Nat × Nat) := []
  cseqTx : List (Nat × Nat) := []
  cseqRx : List (Nat × Nat) := []
  early : List (Nat × Nat) := []
  timed : List Timed := []
  nextTimed : Nat := 0
  now : Nat := 0
  frac : Nat := 0
  rate : Nat := 1157380660816
  stepped : Bool := false
  locked : Bool := false
  holdover : Bool := false
  goodRun : Nat := 0
  missRun : Nat := 0
  lastBeacon : Nat := 0
  estimates : List Int := []
  offset : Int := 0
  planes : Nat := 0
  mgrCopies : List MgrItem := []
  copyNext : Nat := 0
  unacked : List (Nat × MgrItem) := []
  armed : List Armed := []
  switchOps : List SwitchOp := []
  restoring : List Nat := []
  regReads : List (Nat × Nat) := []
  restoreOwe : List Nat := []
  restoreWork : List RestoreRec := []
  restoreLast : Bool := false
  restoreAt : Nat := 0
  restoreBuf : List Byte := []
  restoreFailed : List Nat := []
  deriving DecidableEq, Repr

/-! ### The host link (chapter 15) -/

/-- R485: an entry of the MSI-X table and its bit of the PBA. PCIe resets the Mask bit to 1. -/
structure MsixEnt where
  addr : Nat := 0
  data : Nat := 0
  masked : Bool := true
  pba : Bool := false
  deriving DecidableEq, Repr

/-- R334, R336: the form of a host access: an ordinary snooped request, one with No Snoop, or a CXL.cache request. -/
inductive HostForm where
  | snooped | noSnoop | rdCurr | itoMWr | woWrInv
  deriving DecidableEq, Repr

/-- A posted write to host memory: PASID, address, bytes, form and, with ATS, the translated address (R319). -/
structure HostWrite where
  pasid : Nat
  addr : Nat
  data : List Byte
  form : HostForm := .snooped
  phys : Option Nat := none
  deriving DecidableEq, Repr

/-- A host read that is outstanding: PASID, address, bytes, tag, form and translated address. -/
structure HostReq where
  pasid : Nat
  addr : Nat
  bytes : Nat
  tag : Nat
  form : HostForm := .snooped
  phys : Option Nat := none
  deriving DecidableEq, Repr

/-- R491, R492: a host-loss reset in progress: its cause and what it has dropped. `link` is word 9 of the crash record (R494). -/
structure Loss where
  cause : Nat
  fault : Nat := 0
  block : Nat := 0
  time : Nat
  dropped : Nat := 0
  droppedBytes : Nat := 0
  reads : Nat := 0
  diverted : Nat := 0
  outstanding : Nat := 0
  resident : Nat := 0
  link : Nat := 0
  deriving DecidableEq, Repr

/-- The host link: its state, the configuration that the host writes (R482), the MSI-X table, and what goes out on the link:
reads outstanding, posted writes not yet sent, posted writes sent, MSI-X messages sent. -/
structure Hl where
  up : Bool := false
  perstLow : Bool := true
  retrain : Bool := false
  ats : Bool := false
  pri : Bool := false
  cxlCache : Bool := false
  msixEnable : Bool := false
  msixMask : Bool := false
  config : Sparse Nat := []
  msix : List (Nat × MsixEnt) := []
  reads : List HostReq := []
  queued : List HostWrite := []
  posted : List HostWrite := []
  vectors : List Nat := []
  loss : Option Loss := none
  deriving DecidableEq, Repr


/-! ### Probe tiles (chapter 16) -/

/-- R508: a probe whose runs are compared: its index, its Groves, the signatures of the runs that have ended,
and the fabric time at which the first of them ended. -/
structure ProbePair where
  n : Nat
  a : Nat
  b : Nat
  c : Option Nat := none
  sigA : List Nat := []
  sigB : List Nat := []
  firstEnd : Option Nat := none
  deriving DecidableEq, Repr

/-- R506: a probe that runs on a Grove. -/
structure ProbeRun where
  grove : Nat
  n : Nat
  deriving DecidableEq, Repr

/-- R506, R508: the pairs that await runs, the runs in progress, and one more than the fabric time at which
each Grove's last probe run started. `next` is the index of the next probe. -/
structure Prb where
  next : Nat := 0
  pairs : List ProbePair := []
  runs : List ProbeRun := []
  last : Sparse Nat := []
  deriving DecidableEq, Repr

/-! ### Counters, trace and dumps (chapter 17) -/

/-- R524: a trace record: its four words. -/
structure TraceRec where
  w0 : Nat
  w1 : Nat
  w2 : Nat
  w3 : Nat
  deriving DecidableEq, Repr

/-- R522 to R528: the trace buffer. `trig` is the trigger record's slot once it has been written,
`loss` the run of drops not yet marked: count, first time, last time. -/
structure Trace where
  fn : Fn := {}
  base : Nat := 0
  length : Nat := 0
  cap : Nat := 0
  post : Nat := 0
  kind : Nat := 0
  typ : Nat := 0
  trigId : Nat := 0
  classes : Nat := 0
  reserve : Nat := 0
  limitMs : Nat := 0
  mask : Nat := 0
  value : Nat := 0
  fired : Bool := false
  trig : Option Nat := none
  next : Nat := 0
  wrapped : Bool := false
  queue : List TraceRec := []
  loss : Option (Nat × Nat × Nat) := none
  drops : Nat := 0
  accepted : Nat := 0
  written : Nat := 0
  armTime : Nat := 0
  trigTime : Nat := 0
  deriving DecidableEq, Repr

/-- R530: a dump slot of a context, armed by `cmd`. -/
structure DumpSlot where
  ctx : Nat
  slot : Nat
  cmd : Cmd
  tensor : Nat
  step : Nat
  buf : Nat
  length : Nat
  limitUs : Nat
  fired : Bool := false
  launch : Option Nat := none
  next : Nat := 64
  records : Nat := 0
  dropped : Nat := 0
  armTime : Nat := 0
  fireTime : Nat := 0
  deriving DecidableEq, Repr

/-- R518, R519: a freeze, thaw or trigger scheduled for a time. -/
structure CounterAct where
  cmd : Option Cmd
  op : Nat
  id : Nat
  time : Nat
  deriving DecidableEq, Repr

/-- Observability: the frozen view of the counters while frozen, scheduled actions, the trace and the dump slots. -/
structure Obs where
  frozen : Option (Sparse W64) := none
  acts : List CounterAct := []
  trace : Trace := {}
  dumps : List DumpSlot := []
  deriving DecidableEq, Repr


/-! ### Power, clocks and sideband (chapter 18) -/

/-- R541: the power states. -/
inductive PState where
  | off | standby | run | d3hot | stopped
  deriving DecidableEq, Repr

/-- R546: a pre-ramp of the ballast: the fabric time T of its SYNC_START, the step that it holds in mA, and whether the ramp has begun. -/
structure PreRamp where
  time : Nat
  step : Nat
  begun : Bool := false
  deriving DecidableEq, Repr

/-- The power machinery. `inrush` is the charging of R539, `ballast` the ballast current in mA, `grove` the converters' current at the
last sample, `capCmds` the POWER_CAP commands that wait for enforcement (R549, R550), `parked` the parked rows, the most recent first
(16 rows of 8 Groves), `hot` and `cool` one more than the fabric time since which each sensor has read 102 °C or more and each die below
97 °C (R554), `lastPark` and `lastUnpark` one more than the times of the last park and unpark. `mj` and `joule` are the ballast's energy below one mJ
and the input's below one J, in units of 10^-14 J. `taprootSeq` numbers
Taproot's next order (R41). `answers` are the sideband's answers to the BMC; none is a NACK. -/
structure Pwr where
  pstate : PState := .run
  inrush : Bool := false
  ballast : Nat := 0
  grove : Nat := 0
  preramps : List PreRamp := []
  capCmds : List Cmd := []
  parked : List Nat := []
  hot : Sparse Nat := []
  cool : Sparse Nat := []
  lastPark : Nat := 0
  lastUnpark : Nat := 0
  mj : Nat := 0
  joule : Nat := 0
  taprootSeq : Nat := 1
  smbAddr : Nat := 0
  answers : List (Option (List Byte)) := []
  deriving DecidableEq, Repr


/-! ### Start-up and security (chapter 19) -/

/-- R572: the boot stages. -/
inductive Stage where
  | rom | power | hbmTrain | waitImage | verify | start | ready | recovery | halted
  deriving DecidableEq, Repr

/-- R579: the manager's assembly: total length and the segments that have arrived. -/
structure Assembly where
  total : Nat
  segs : List (Nat × List Byte) := []
  deriving DecidableEq, Repr

/-- Start-up, the mailbox and the flash. `hostImage` and `mgrImage` are complete images that await verification; `image` is the image that is verified or runs, with its source. `loading` says that LOAD reads (R578), `loaded`
holds what it has read or none when the read failed. The flash holds the boot counter and the signature index in two copies (R584).
`doe` are the response objects of DOE mailbox 0. `flashFails` are the ATTEST commands in progress whose flash write will fail (R585),
`attests` those whose output is being written, with its bytes and result word. `granted` is the UID of the manager that holds the ROM's BULK credit
for one segment (R579). -/
structure Sec where
  stage : Stage := .rom
  loading : Bool := false
  loaded : Option (Option (List Byte)) := none
  assembly : Option Assembly := none
  hostImage : Option (List Byte) := none
  mgrImage : Option (List Byte) := none
  image : Option (Nat × List Byte) := none
  boots : Nat := 0
  indexA : Nat := 0
  indexB : Nat := 0
  doe : List (List Byte) := []
  flashFails : List Cmd := []
  attests : List (Cmd × List Byte × Nat) := []
  granted : Nat := 0
  deriving DecidableEq, Repr

/-! ### The whole state -/

/-- The part. `pending` holds the commands that wait, first in, first out.
`regs` lists each BAR 0 register whose contents differ from its reset value, by BAR 0 offset.
`free` counts the free values drawn so far; it is the model's own field. -/
structure State where
  pending : List Instr := []
  regs : Sparse W64 := []
  free : Nat := 0
  mem : Mem := {}
  io : Io := {}
  xlt : Xlt := {}
  crn : Crn := {}
  sched : Sched := {}
  fab : Fab := {}
  hl : Hl := {}
  xch : Xch := {}
  tbl : Tbl := {}
  obs : Obs := {}
  dma : Dma := {}
  xyl : Xyl := {}
  gro : Gro := {}
  prb : Prb := {}
  pwr : Pwr := {}
  sec : Sec := {}
  deriving DecidableEq, Repr

/-- Why the machine stops with a fault. -/
inductive Fault where
  /-- Reserved: no meaning of this model raises it, since the spec gives every command an effect. Safe. -/
  | none
  deriving DecidableEq, Repr

/-- Why a command is refused. -/
inductive Refusal where
  /-- Raised by an arm of `exec` whose command has no meaning yet. Safe. -/
  | notModelled (mnemonic : String)
  deriving DecidableEq, Repr

/-- The part right after reset: nothing listed that differs from its reset value. -/
def State.reset : State := {}

end Sys2Proof.Machine
end

