-- ==== Sys2Proof/Machine/Ops.lean ====
section
/-!
DEFINITION. The named operations over registers, counters, memory, time, interrupt vectors and the lists of the state.
Every meaning reads and writes these through here.
-/

namespace Sys2Proof.Machine

/-! ### Status codes (R11) -/

def stOk : Nat := 0x00
def stDeferred : Nat := 0x01
def stPartial : Nat := 0x02
def stCancelled : Nat := 0x03
def stConflict : Nat := 0x10
def stBadPacket : Nat := 0x11
def stNoResource : Nat := 0x12
def stEpochGone : Nat := 0x13
def stDescBad : Nat := 0x14
def stFault : Nat := 0x20
def stTornDown : Nat := 0x21
def stHostLost : Nat := 0x22
def stDeviceError : Nat := 0x3F

/-! ### Updates of the parts of the state -/

def State.setRegs (s : State) (x : Sparse W64) : State := { s with regs := x }
def State.setFree (s : State) (x : Nat) : State := { s with free := x }
def State.setMem (s : State) (x : Mem) : State := { s with mem := x }
def State.setIo (s : State) (x : Io) : State := { s with io := x }
def State.setXlt (s : State) (x : Xlt) : State := { s with xlt := x }
def State.setCrn (s : State) (x : Crn) : State := { s with crn := x }
def State.setSched (s : State) (x : Sched) : State := { s with sched := x }
def State.setFab (s : State) (x : Fab) : State := { s with fab := x }
def State.setHl (s : State) (x : Hl) : State := { s with hl := x }
def State.setXch (s : State) (x : Xch) : State := { s with xch := x }
def State.setTbl (s : State) (x : Tbl) : State := { s with tbl := x }
def State.setObs (s : State) (x : Obs) : State := { s with obs := x }
def State.setDma (s : State) (x : Dma) : State := { s with dma := x }
def State.setXyl (s : State) (x : Xyl) : State := { s with xyl := x }
def State.setGro (s : State) (x : Gro) : State := { s with gro := x }
def State.setPrb (s : State) (x : Prb) : State := { s with prb := x }
def State.setPwr (s : State) (x : Pwr) : State := { s with pwr := x }
def State.setSec (s : State) (x : Sec) : State := { s with sec := x }

/-! ### Free values -/

/-- The next free value's counter, and the state that has drawn it. -/
def drawFree (s : State) : Nat × State := (s.free, s.setFree (s.free + 1))

/-! ### Registers (R4 to R6) -/

/-- Stored contents of the register at a BAR 0 offset. -/
def regGet (s : State) (off : Nat) : Nat := (mget (BitVec.ofNat 64 (regReset off)) s.regs off).toNat

/-- Replaces the stored contents of a register. -/
def regPut (off v : Nat) (s : State) : State :=
  s.setRegs (mset (BitVec.ofNat 64 (regReset off)) s.regs off (BitVec.ofNat 64 v))

/-- Replaces bits `hi` to `lo` of a register. -/
def regField (off hi lo v : Nat) (s : State) : State := regPut off (setBits (regGet s off) hi lo v) s

/-- Sets bits of a register. -/
def regOr (off mask : Nat) (s : State) : State := regPut off (regGet s off ||| mask) s

/-- Adds to a 64-bit counter, modulo 2^64. -/
def countN (off n : Nat) (s : State) : State := if n = 0 then s else regPut off ((regGet s off + n) % 2 ^ 64) s

/-- Counts one event. -/
def count (off : Nat) (s : State) : State := countN off 1 s

/-! ### Fabric time (R465) -/

/-- Present fabric time in 1/256 ns. -/
def State.now (s : State) : Nat := s.fab.now

/-- R465: whether time `t` lies ahead of the present time. A time equal to the present has arrived. -/
def ahead (s : State) (t : Nat) : Bool :=
  let d := (t + 2 ^ 64 - s.now) % 2 ^ 64
  decide (0 < d) && decide (d < 2 ^ 63)

/-- The event that brings fabric time to `t` has come: time moves on to `t` if it lies ahead. -/
def reachTime (t : Nat) (s : State) : State :=
  if ahead s t then s.setFab { s.fab with now := t % 2 ^ 64 } else s

/-- Units of fabric time in a microsecond. -/
def usUnits : Nat := 256000

/-! ### Memory (R21, R49): bytes at local offsets -/

/-- R21: whether a local offset is populated. -/
def populated (a : Nat) : Bool :=
  decide (a < 0x8000000000) ||
  (decide (0x200000000000 ≤ a) && decide (a < 0x200080000000)) ||
  (decide (0x300000000000 ≤ a) && decide (a < 0x300020000000))

/-- Every byte of a range is populated. -/
def populatedRange (a n : Nat) : Bool := populated a && (n == 0 || populated (a + n - 1)) && decide ((a + n) / 2 ^ 44 = a / 2 ^ 44 ∨ n = 0)

/-- Start of the grove store of Grove `k` (R21). -/
def gsBase (k : Nat) : Nat := 0x300000000000 + k * 0x400000

/-- `n` bytes of memory; a byte that nothing has written reads zero. -/
def memRead (s : State) (a n : Nat) : List Byte := mgetMany (0 : Byte) s.mem.bytes a n

/-- A little-endian number of `n` bytes of memory. -/
def memNat (s : State) (a n : Nat) : Nat := ofLe (memRead s a n)

/-- The 64-byte sectors that a range touches. -/
def sectorsOf (a n : Nat) : List Nat := if n = 0 then [] else (List.range ((a + n - 1) / 64 - a / 64 + 1)).map (· + a / 64)

/-- Sectors that a write covers whole; their poison is cleared (R185). -/
def wholeSectors (a n : Nat) : List Nat := (sectorsOf a n).filter fun k => decide (a ≤ k * 64) && decide (k * 64 + 64 ≤ a + n)

/-- Writes bytes to memory; a sector that is written whole loses its poison and its latent error. -/
def memWrite (a : Nat) (l : List Byte) (s : State) : State :=
  let w := wholeSectors a l.length
  s.setMem { s.mem with
    bytes := msetMany 0 s.mem.bytes a l
    poison := s.mem.poison.filter fun k => !w.contains k
    latent := s.mem.latent.filter fun p => !w.contains p.1 }

/-- Writes a little-endian number of `n` bytes. -/
def memPut (a n v : Nat) (s : State) : State := memWrite a (leBytes n v) s

/-- Writes zero to a range: every listed byte of it is removed. -/
def memZero (a n : Nat) (s : State) : State :=
  s.setMem { s.mem with
    bytes := s.mem.bytes.filter fun c => decide (c.1 < a) || decide (a + n ≤ c.1)
    poison := s.mem.poison.filter fun k => decide (k * 64 < a) || decide (a + n < k * 64 + 64)
    latent := s.mem.latent.filter fun p => decide (p.1 * 64 < a) || decide (a + n < p.1 * 64 + 64) }

/-! ### Channels and rows (R159), and Taproot's repairs (R190, R192) -/

/-- R159: the channel of an HBM offset. -/
def channelOf (o : Nat) : Nat :=
  let q := o % 2 ^ 35
  16 * bits o 38 35 +
    (bits q 11 8 ^^^ bits q 15 12 ^^^ bits q 19 16 ^^^ bits q 23 20 ^^^ bits q 27 24 ^^^ bits q 31 28 ^^^ bits q 34 32)

/-- R159: the offset within its channel of an HBM offset. -/
def channelOffset (o : Nat) : Nat := bits o 34 12 * 256 + o % 256

/-- R21: an HBM offset. -/
def isHbm (o : Nat) : Bool := decide (o < 0x8000000000)

/-- R159: the DRAM row of a sector. -/
def rowPlace (k : Nat) (uncorrectable : Bool) : Repair :=
  let c := channelOf (k * 64)
  let w := channelOffset (k * 64)
  let p := Config.dramPlace w
  { stack := c / 32, channel := c % 32, pc := bits w 6 6, bank := bits p 23 18, row := bits p 17 0, uncorrectable := uncorrectable }

/-- Two repairs of one row. -/
def Repair.same (a b : Repair) : Bool := { a with uncorrectable := false } == { b with uncorrectable := false }

/-- R192: an entry of the repair log. -/
def repairLog (r : Repair) (kind : Nat) (s : State) : State :=
  let n := bits (regGet s Reg.MEM_REPAIR_COUNT) 6 0
  if 64 ≤ n then regOr Reg.MEM_REPAIR_COUNT (1 <<< 7) s
  else
    regField Reg.MEM_REPAIR_COUNT 6 0 (n + 1)
      (regPut (Reg.MEM_REPAIR_LOG n) (r.stack + r.channel * 2 ^ 3 + r.pc * 2 ^ 8 + r.bank * 2 ^ 9 + r.row * 2 ^ 15 + kind * 2 ^ 33 +
        b2n r.uncorrectable * 2 ^ 35) s)

/-- R188, R190: Taproot repairs a row, or waits for the running repair, or defers it while raw test access is requested. -/
def repairTrigger (r : Repair) (s : State) : State :=
  if (s.xyl.repair.toList ++ s.xyl.repairs).any (Repair.same r) then s
  else if s.xyl.maint then repairLog r 3 (s.setXyl { s.xyl with repairs := s.xyl.repairs ++ [r] })
  else match s.xyl.repair with
    | none => s.setXyl { s.xyl with repair := some r }
    | some _ => s.setXyl { s.xyl with repairs := s.xyl.repairs ++ [r] }

/-- R190: a corrected error of a row; the eighth within 24 hours has it repaired. -/
def noteCorrected (k : Nat) (s : State) : State :=
  let r := rowPlace k false
  let recent := s.xyl.rowErrors.filter fun e => decide ((s.now + 2 ^ 64 - e.2) % 2 ^ 64 ≤ 86400000000 * usUnits)
  let l := recent ++ [(r, s.now)]
  if 8 ≤ (l.filter fun e => e.1 == r).length then
    repairTrigger r (s.setXyl { s.xyl with rowErrors := l.filter fun e => e.1 != r })
  else s.setXyl { s.xyl with rowErrors := l }

/-- R190: errors met in sectors: corrected ones and uncorrectable ones. -/
def noteErrors (ce ue : List Nat) (s : State) : State :=
  ue.foldl (fun s k => if isHbm (k * 64) then repairTrigger (rowPlace k true) s else s)
    (ce.foldl (fun s k => if isHbm (k * 64) then noteCorrected k s else s) s)

/-- R183, R184: what a read of a range meets: its latent errors turn into corrections and poison;
each sector found poisoned counts. The flag says that a sector of the range is poisoned. -/
def meetErrors (a n : Nat) (s : State) : Bool × State :=
  let ks := sectorsOf a n
  let ce := (s.mem.latent.filter fun p => decide (p.2 = 1) && ks.contains p.1).map (·.1)
  let ue := (s.mem.latent.filter fun p => decide (2 ≤ p.2) && ks.contains p.1).map (·.1)
  let met := (ks.filter fun k => s.mem.poison.contains k).length
  let s := if ce.isEmpty && ue.isEmpty then s
    else noteErrors ce ue (s.setMem { s.mem with
      latent := s.mem.latent.filter fun p => !ks.contains p.1
      poison := ue.foldl (fun l k => keyInsert k l) s.mem.poison })
  let s := countN Reg.MEM_CNT_CE ce.length (countN Reg.MEM_CNT_UE ue.length s)
  let bad := ks.any fun k => s.mem.poison.contains k
  (bad, countN Reg.MEM_CNT_POISON_READ met s)

/-! ### Whether the part runs (R541, R542, R572, R492) -/

/-- R572: the firmware runs. -/
def isReady (s : State) : Bool := s.sec.stage == .ready

/-- R572, R492, R542: commands are accepted: the firmware runs, no host-loss reset is under way and the part is in RUN. -/
def accepting (s : State) : Bool := isReady s && s.hl.loss.isNone && s.pwr.pstate == .run

/-- R541: the part has its main power. -/
def powered (s : State) : Bool := s.pwr.pstate == .run || s.pwr.pstate == .d3hot

/-- R492: engines, Crown and the fabric port run: the part has its main power and no host-loss reset is under way. -/
def isOn (s : State) : Bool := powered s && s.hl.loss.isNone

/-- R492: an event of an engine, of Crown or of the fabric port has its effect only while they run. -/
def whileOn (f : State → State) (s : State) : Host.Outcome State Fault Refusal := .next (if isOn s then f s else s)

/-! ### Register accesses of the host (R5, R574, R594) -/

/-- R594: the SEAL fuse is blown. -/
def isSealed (s : State) : Bool := bit (regGet s Reg.GLB_PART) 24

/-- R574: a BAR 0 offset that the host link serves before READY. -/
def servedEarly (off : Nat) : Bool := decide (off < 0x100000) || decide (0x3800000 ≤ off)

/-- R541, R574: a host access to a BAR 0 offset is served. A part whose memory space is in D3hot (R542) serves none. -/
def hostServed (s : State) (off : Nat) : Bool :=
  s.hl.up && s.hl.loss.isNone && s.pwr.pstate == .run && (isReady s || servedEarly off)

/-- R574: a write of a doorbell page has its effect from READY on. -/
def whileDoorbell (f : State → State) (s : State) : Host.Outcome State Fault Refusal := .next (if hostServed s 0x100000 then f s else s)

/-- A host write of a register that has its effect only where the access is served. -/
def whileServed (off : Nat) (f : State → State) (s : State) : Host.Outcome State Fault Refusal := .next (if hostServed s off then f s else s)

/-- R4, R594: what a write of `v` leaves in a register: its writable bits from `v`, bits written as 1 cleared, the others kept. -/
def regWritten (s : State) (off v : Nat) : Nat :=
  match regRow off with
  | none => 0
  | some r =>
    let m := r.rw ||| (if isSealed s then 0 else r.rws)
    let old := regGet s off
    let kept := old &&& ((2 ^ 64 - 1) ^^^ (m ||| (v &&& r.rw1c)))
    kept ||| (v &&& m)

/-- A write of a register by its access kinds alone. -/
def regWrite (off v : Nat) (s : State) : State := if (regRow off).isNone then s else regPut off (regWritten s off v) s

/-! ### Interrupt vectors (R485 to R487) -/

def msixOf (s : State) (v : Nat) : MsixEnt := ((s.hl.msix.find? fun p => p.1 == v).map (·.2)).getD ({} : MsixEnt)

def setMsix (v : Nat) (e : MsixEnt) (s : State) : State :=
  s.setHl { s.hl with msix := (v, e) :: s.hl.msix.filter fun p => p.1 != v }

/-- R485: raises a vector: one message, or its PBA bit while it is masked, or nothing while MSI-X is disabled.
R574: no message is sent before READY. -/
def raiseVector (v : Nat) (s : State) : State :=
  if !s.hl.msixEnable || !isReady s then s
  else if s.hl.msixMask || (msixOf s v).masked then setMsix v { msixOf s v with pba := true } s
  else count Reg.HL_CNT_MSIX (s.setHl { s.hl with vectors := s.hl.vectors ++ [v] })

/-- R487: an event bit of the host link; vector 0 is raised when it goes from 0 to 1. -/
def hlEvent (b : Nat) (s : State) : State :=
  if bit (regGet s Reg.HL_LINK_STAT) (16 + b) then s
  else raiseVector 0 (regOr Reg.HL_LINK_STAT (1 <<< (16 + b)) s)

/-! ### Contexts and partitions -/

def ctxOf (s : State) (c : Nat) : Option Ctx := s.sched.ctxs.find? fun x => x.id == c

/-- The context of an identifier, or an absent one. -/
def getCtx (s : State) (c : Nat) : Ctx := (ctxOf s c).getD ({ id := c } : Ctx)

def updCtx (c : Nat) (f : Ctx → Ctx) (s : State) : State :=
  s.setSched { s.sched with ctxs := updFirst (fun x => x.id == c) f s.sched.ctxs }

def putCtx (x : Ctx) (s : State) : State :=
  s.setSched { s.sched with ctxs := (
    if s.sched.ctxs.any (fun y => y.id == x.id) then updFirst (fun y => y.id == x.id) (fun _ => x) s.sched.ctxs
    else s.sched.ctxs ++ [x]) }

/-- A context exists unless it has none of the states of `CTX_VIEW` beyond NONE. -/
def ctxExists (s : State) (c : Nat) : Bool :=
  match ctxOf s c with
  | some x => x.state != .none
  | none => false

def partOf (s : State) (p : Nat) : Part := s.sched.parts.getD p ({} : Part)

def setPart (p : Nat) (x : Part) (s : State) : State :=
  s.setSched { s.sched with parts :=
    ((s.sched.parts ++ List.replicate (p + 1 - s.sched.parts.length) ({} : Part)).set p x) }

/-- The partition of a context. -/
def ctxPart (s : State) (c : Nat) : Part := partOf s (getCtx s c).part

/-- R28: whether a context runs in Exact mode. -/
def ctxExact (s : State) (c : Nat) : Bool := (ctxPart s c).exact

/-- R393: the Groves of a partition in ascending Grove number. -/
def partGroves (p : Part) : List Nat := maskBits 128 p.groves

/-- R431: the context has made progress now. -/
def progress (c : Nat) (s : State) : State := updCtx c (fun x => { x with progress := s.now }) s

/-! ### Groves -/

/-- A Grove, or an empty one. -/
def groveOf (s : State) (k : Nat) : Grove := mget ({} : Grove) s.gro.groves k

def setGrove (k : Nat) (g : Grove) (s : State) : State := s.setGro { s.gro with groves := mset ({} : Grove) s.gro.groves k g }

def updGrove (k : Nat) (f : Grove → Grove) (s : State) : State := setGrove k (f (groveOf s k)) s

/-- The node of a context. -/
def nodeOf (s : State) (ctx : Nat) : Option Node := s.sched.nodes.find? fun n => n.ctx == ctx

def updNode (ctx : Nat) (f : Node → Node) (s : State) : State :=
  s.setSched { s.sched with nodes := updFirst (fun n => n.ctx == ctx) f s.sched.nodes }

/-- The node whose program a Grove runs. -/
def groveNode (s : State) (k : Nat) : Option Node :=
  match (groveOf s k).ctx with
  | some c => nodeOf s c
  | none => none

/-! ### Commands in progress -/

/-- Parameter `i` of a command as a number. -/
def par (c : Cmd) (i : Nat) : Nat := (c.params.getD i 0).toNat

/-- The queue class of a command's record (R387): its ring's, or that of the launch that holds it. -/
def cmdClass (s : State) (c : Cmd) : Nat :=
  match c.src with
  | .ring q => q
  | .node l _ =>
    match s.crn.launches.find? fun x => x.id == l with
    | some x => match x.cmd.src with
      | .ring q => q
      | _ => 7
    | none => 7
  | .mgr _ => 7

/-- Everything kept for a piece of work's accesses is let go. -/
def clearWork (w : Work) (s : State) : State :=
  s.setIo { s.io with
    waits := s.io.waits.filter fun x => x.work != w
    arrived := s.io.arrived.filter fun x => x.work != w
    failed := s.io.failed.filter fun x => x.1 != w
    rounds := s.io.rounds.filter fun x => x.1 != w }

end Sys2Proof.Machine
end

