-- ==== Sys2Proof/Machine/Trace.lean ====
section
/-!
DEFINITION. Event counters (R515, R516) and the trace buffer's writer (R522 to R528).
-/

namespace Sys2Proof.Machine

/-! ### Extended event counters -/

/-- R516: whether a selector's parameter names an event; `key` packs what the event carries:
for codes 0x12, 0x13 a mask to intersect, for the others the parameter fields that must agree. -/
def evtMatch (code param key : Nat) : Bool :=
  if code = 0x40 || code = 0x43 then bit param 16 || bits param 15 0 == key
  else if code = 0x41 || code = 0x42 || code = 0x51 then decide (param * 256 < key)
  else if code = 0x50 then
    (bit param 8 || bits param 7 0 == bits key 7 0) && (bit param 12 || bits param 11 9 == bits key 11 9)
  else if code = 0x60 then bit param 6 || bits param 5 0 == key
  else if code = 0x70 || code = 0x71 then bit param key
  else if code = 0x80 || code = 0x81 then
    (bit param 3 || bits param 2 0 == bits key 2 0) && (bit param 8 || bits param 7 4 == bits key 7 4)
  else if code = 0x90 || code = 0x91 then bit param 5 || bits param 4 0 == key
  else true

/-- R517: one selector against an event of a context. -/
def evtSelected (sel code key : Nat) (ctx : Option Nat) : Bool :=
  bits sel 7 0 == code && (!bit sel 54 || ctx == some (bits sel 53 40)) && evtMatch code (bits sel 39 8) key

/-- R515: counts `n` events of a unit in every counter that selects them.
For a threshold event `key` is the measured time in 1/256 ns. -/
def evt (u code key n : Nat) (ctx : Option Nat) (s : State) : State :=
  if s.regs.isEmpty then s
  else (List.range 8).foldl (fun s i =>
    if evtSelected (regGet s (Reg.EVT_SEL u i)) code key ctx then countN (Reg.EVT_CNT u i) n s else s) s

/-- R516: the events of each unit. -/
def evtListed (u code : Nat) : Bool :=
  if code ≤ 1 then true
  else if u < 128 then decide (0x10 ≤ code) && decide (code ≤ 0x15)
  else if u = 128 then decide (0x40 ≤ code) && decide (code ≤ 0x43)
  else if u = 129 then code == 0x50 || code == 0x51
  else if u = 130 then code == 0x60
  else if u = 131 then code == 0x70 || code == 0x71
  else if u = 132 then code == 0x80 || code == 0x81
  else decide (0x90 ≤ code) && decide (code ≤ 0x93)

/-! ### The trace writer -/

/-- R524: class of a record type; types 0xF0 to 0xF2 belong to none. -/
def traceClass (typ : Nat) : Option Nat :=
  match typ with
  | 0x01 | 0x02 => some 0
  | 0x03 | 0x04 => some 1
  | 0x05 | 0x06 => some 2
  | 0x07 | 0x08 => some 3
  | 0x09 | 0x0A => some 4
  | 0x0B => some 5
  | 0x0C | 0x0D => some 6
  | 0x0E => some 7
  | _ => none

def State.setTrace (s : State) (t : Trace) : State := s.setObs { s.obs with trace := t }

/-- Armed, or in its post phase. -/
def Trace.live (t : Trace) : Bool := t.fn.state != .disabled

/-- R524: word 1 of a record. -/
def traceWord1 (typ unit ctx a : Nat) : Nat := typ % 256 + (unit % 256) * 2 ^ 8 + (ctx % 2 ^ 14) * 2 ^ 16 + (a % 2 ^ 32) * 2 ^ 32

/-- R527: a LOSS record for a run of drops. -/
def lossRec (now : Nat) (l : Nat × Nat × Nat) : TraceRec := ⟨now, traceWord1 0xF1 0xFF 0 l.1, l.2.1, l.2.2⟩

/-- R527: records queued, the loss marker's own entry apart. -/
def Trace.occupied (t : Trace) : Nat := (t.queue.filter fun r => r.w0 % 256 != 0 || bits r.w1 7 0 != 0xF1).length

/-- R527: a record enters the queue below the limit, after the marker of a run of drops; else it is dropped. -/
def Trace.push (t : Trace) (now limit : Nat) (r : TraceRec) : Trace × Bool :=
  if t.occupied < limit then
    let q := match t.loss with
      | some l => t.queue ++ [lossRec now l, r]
      | none => t.queue ++ [r]
    ({ t with queue := q, loss := none }, true)
  else
    let l := match t.loss with
      | some (n, a, _) => (n + 1, a, r.w0)
      | none => (1, r.w0, r.w0)
    ({ t with loss := some l, drops := t.drops + 1 }, false)

/-- A record offered to the queue, its drop counted. -/
def tracePush (limit : Nat) (r : TraceRec) (s : State) : State :=
  let (t, ok) := s.obs.trace.push s.now limit r
  let s := s.setTrace t
  if ok then s else count Reg.OBS_CNT_TRACE_DROP s

/-- R526: an armed trace fires; its TRIGGER record may use every entry. -/
def traceFire (kind b : Nat) (s : State) : State :=
  let t := s.obs.trace
  if t.fn.state != .enabled || t.fired then s
  else
    tracePush 4096 ⟨s.now, traceWord1 0xF0 0xFF 0 kind, b, 0⟩
      (s.setTrace { t with fired := true, trigTime := s.now, accepted := 1 })

/-- R523: post capacity. -/
def Trace.quota (t : Trace) : Nat := t.cap * t.post / 256

/-- R523, R527: a record of the post phase. Markers of dropped records count among the Q; where one place is left for a marker and a record,
the marker takes it. -/
def tracePost (r : TraceRec) (s : State) : State :=
  let t := s.obs.trace
  if t.quota ≤ t.accepted then s
  else match t.loss with
    | none =>
      let s' := tracePush 4096 r s
      if s'.obs.trace.loss.isSome then s' else s'.setTrace { s'.obs.trace with accepted := t.accepted + 1 }
    | some (n, a, _) =>
      if t.quota ≤ t.accepted + 1 then
        count Reg.OBS_CNT_TRACE_DROP (s.setTrace { t with
          queue := t.queue ++ [lossRec s.now (n + 1, a, r.w0)], loss := none, drops := t.drops + 1, accepted := t.accepted + 1 })
      else
        let s' := tracePush 4096 r s
        if s'.obs.trace.loss.isSome then s' else s'.setTrace { s'.obs.trace with accepted := t.accepted + 2 }

/-- R524 to R527: a record of an event, if the trace is armed or in its post phase and its class is traced; it may fire the trace.
R528: a disarm ends the post phase, so that no record enters while the trace drains. -/
def emit (typ unit ctx a b c : Nat) (s : State) : State :=
  let t := s.obs.trace
  if t.fn.state != .enabled then s
  else match traceClass typ with
  | none => s
  | some cl =>
    if !bit t.classes cl then s
    else
      let r : TraceRec := ⟨s.now, traceWord1 typ unit ctx a, b, c⟩
      if t.fired then tracePost r s
      else
        let s := tracePush (4096 - t.reserve) r s
        if t.kind = 1 && typ == t.typ && (r.w1 &&& t.mask) == t.value then traceFire 1 typ s else s

/-- R523: one record stored in the next slot of the ring. -/
def traceStoreRec (r : TraceRec) (s : State) : State :=
  let t := s.obs.trace
  if t.cap = 0 then s
  else
    let trg := bits r.w1 7 0 == 0xF0
    let t' := { t with
      trig := if trg then some t.next else t.trig
      next := (t.next + 1) % t.cap
      wrapped := t.wrapped || t.next + 1 == t.cap
      written := if trg || t.trig.isSome then t.written + 1 else t.written }
    let at_ := t.base + 4096 + 32 * t.next
    count Reg.OBS_CNT_TRACE_RECORDS
      (memWrite at_ (leBytes 8 r.w0 ++ leBytes 8 r.w1 ++ leBytes 8 r.w2 ++ leBytes 8 r.w3) (s.setTrace t'))

/-- R527: the writer stores the oldest record of the queue. -/
def traceStore (s : State) : State :=
  match s.obs.trace.queue with
  | [] => s
  | r :: q => traceStoreRec r (s.setTrace { s.obs.trace with queue := q })

/-- The whole queue stored. -/
def traceFlush (s : State) : State :=
  let q := s.obs.trace.queue
  q.foldl (fun s r => traceStoreRec r s) (s.setTrace { s.obs.trace with queue := [] })

/-- R523: the header's words. -/
def traceHeader (ended : Bool) (s : State) : State :=
  let t := s.obs.trace
  let w0 := 1 + b2n t.trig.isSome * 256 + b2n ended * 512 + b2n t.wrapped * 1024
  let ws := [w0, t.cap, t.trig.getD 0, t.next, t.drops, t.armTime, t.trigTime, t.written]
  memWrite t.base ((ws.map (leBytes 8)).flatten ++ List.replicate (4096 - 64) 0) s

/-- R528: END and the header are written and device vector 9 is raised. The function state is the caller's. -/
def traceEnd (reason : Nat) (s : State) : State :=
  let s := traceFlush s
  let s := match s.obs.trace.loss with
    | some l => traceStoreRec (lossRec s.now l) (s.setTrace { s.obs.trace with loss := none })
    | none => s
  let n := s.obs.trace.written
  let s := traceStoreRec ⟨s.now, traceWord1 0xF2 0xFF 0 n, reason, 0⟩ s
  let s := s.setTrace { s.obs.trace with written := n }
  raiseVector 9 (traceHeader true s)

end Sys2Proof.Machine
end

