-- ==== Sys2Proof/Machine/Canopy.lean ====
section
/-!
DEFINITION. Device memory: channels (R159 to R161), groups and their owners (R162 to R164),
the Canopy's lines (R166 to R173), and checked reads and writes of local memory (R183 to R187).
-/

namespace Sys2Proof.Machine

/-! ### Groups and ways -/

/-- R21: an offset of the Canopy scratchpad window. -/
def isScratch (o : Nat) : Bool := decide (0x200000000000 ≤ o) && decide (o < 0x200080000000)

/-- R21: an offset of the grove stores. -/
def isGroveStore (o : Nat) : Bool := decide (0x300000000000 ≤ o) && decide (o < 0x300020000000)

/-- R162: group of an HBM offset. -/
def groupOf (o : Nat) : Nat := o >>> 35

/-- R162: the device area of a group: the top 128 MiB of its window. -/
def inDeviceArea (o : Nat) : Bool := isHbm o && decide (0x7F8000000 ≤ o % 2 ^ 35)

/-- R163: the partition that a group is assigned to. -/
def groupOwner (s : State) (g : Nat) : Option Nat :=
  (List.range 16).find? fun p => (partOf s p).exist && bit (partOf s p).groups g

/-- R163: an HBM offset in the shared pool, outside the device areas. -/
def inSharedPool (s : State) (o : Nat) : Bool := isHbm o && !inDeviceArea o && (groupOwner s (groupOf o)).isNone

/-- R317: a range that a global access may reach. -/
def sharedRange (s : State) (o n : Nat) : Bool := inSharedPool s o && (n == 0 || inSharedPool s (o + n - 1))

/-- R171: way of a scratchpad offset. -/
def scratchWay (o : Nat) : Nat := bits o 29 25

/-- R171: a context may access a scratchpad offset. -/
def scratchOk (s : State) (p : Part) (o : Nat) : Bool :=
  let w := scratchWay o
  w != 31 && bit (regGet s Reg.CAN_WAY_MODE) w && bit p.ways w

/-! ### Canopy lines -/

/-- R168: ways in cache mode that lie in no partition's mask. -/
def sharedWays (s : State) : List Nat :=
  (List.range 31).filter fun w => !bit (regGet s Reg.CAN_WAY_MODE) w && !(s.sched.parts.any fun p => p.exist && bit p.ways w)

/-- R169: the ways in which the line of an HBM offset may be allocated. -/
def allocWays (s : State) (o : Nat) : List Nat :=
  match (if inDeviceArea o then none else groupOwner s (groupOf o)) with
  | some p => (List.range 31).filter fun w => !bit (regGet s Reg.CAN_WAY_MODE) w && bit (partOf s p).ways w
  | none => sharedWays s

/-- R166: set of an HBM offset. -/
def canSet (o : Nat) : Nat := bits o 24 8 ^^^ bits o 38 25

def State.setLines (s : State) (l : List CanLine) : State := s.setXyl { s.xyl with lines := l }

/-- R169: the line of an HBM offset, present with its sector after a read. -/
def canFill (o : Nat) (s : State) : State :=
  let die := groupOf o / 8
  let line := o / 256
  let sec := 1 <<< (o / 64 % 4)
  if s.xyl.lines.any fun l => l.die == die && l.line == line then
    s.setLines (updFirst (fun l => l.die == die && l.line == line) (fun l => { l with valid := l.valid ||| sec }) s.xyl.lines)
  else
    let ws := allocWays s o
    let held := fun w => s.xyl.lines.any fun l => l.die == die && l.way == w && canSet (l.line * 256) == canSet o
    match ws.find? fun w => !held w with
    | some w => s.setLines (s.xyl.lines ++ [⟨die, w, line, sec⟩])
    | none =>
      if ws.isEmpty then s
      else
        let (n, s) := drawFree s
        let w := ws.getD (Config.victim n % ws.length) 0
        s.setLines ((s.xyl.lines.filter fun l => !(l.die == die && l.way == w && canSet (l.line * 256) == canSet o)) ++
          [⟨die, w, line, sec⟩])

/-- One sector read by an engine: the Canopy hit or miss is counted and the line filled. -/
def canRead1 (k : Nat) (s : State) : State :=
  let o := k * 64
  if !isHbm o then s
  else
    let u := 133 + channelOf o / 32
    let hit := s.xyl.lines.any fun l => l.line == o / 256 && bit l.valid (o / 64 % 4)
    if hit then evt u 0x92 0 1 none s
    else canFill o (evt u 0x93 0 1 none (evt u 0x90 (channelOf o % 32) 1 none s))

/-- R173: a Xylem unit invalidates the line of a sector that it modifies. -/
def canInvalidate (o : Nat) (s : State) : State :=
  if isHbm o then s.setLines (s.xyl.lines.filter fun l => l.line != o / 256) else s

/-- R165, R172: every line that satisfies a test is invalidated. -/
def canDrop (p : CanLine → Bool) (s : State) : State := s.setLines (s.xyl.lines.filter fun l => !p l)

/-! ### Checked reads and writes of local memory -/

/-- R184: an engine's read of local memory: the bytes, and whether a sector of them is poisoned. -/
def localRead (o n : Nat) (s : State) : (List Byte × Bool) × State :=
  let s := (sectorsOf o n).foldl (fun s k => canRead1 k s) s
  let (bad, s) := meetErrors o n s
  ((memRead s o n, bad), s)

/-- R185: the sectors that a write covers only in part. -/
def partSectors (a n : Nat) : List Nat := (sectorsOf a n).filter fun k => !(wholeSectors a n).contains k

/-- R185: what a write of part of a sector finds there: a correctable error is corrected, an uncorrectable one poisons. -/
def partCheck (k : Nat) (s : State) : State :=
  match (s.mem.latent.find? fun p => p.1 == k).map (·.2) with
  | none => s
  | some e =>
    let s := s.setMem { s.mem with
      latent := s.mem.latent.filter fun p => p.1 != k
      poison := if e = 1 then s.mem.poison else keyInsert k s.mem.poison }
    if e = 1 then noteErrors [k] [] (count Reg.MEM_CNT_CE s) else noteErrors [] [k] (count Reg.MEM_CNT_UE s)

/-- R185: an engine's write of local memory. -/
def localWrite (o : Nat) (l : List Byte) (s : State) : State :=
  let s := (partSectors o l.length).foldl (fun s k => partCheck k s) s
  let s := (sectorsOf o l.length).foldl (fun s k =>
    if isHbm (k * 64) then evt (133 + channelOf (k * 64) / 32) 0x91 (channelOf (k * 64) % 32) 1 none s else s) s
  memWrite o l s

end Sys2Proof.Machine
end

