-- ==== Sys2Proof/Machine/Crc.lean ====
section
/-!
DEFINITION. The two CRCs of R364, byte by byte, so that an engine can keep the state between chunks (R363).
-/

namespace Sys2Proof.Machine

/-- One bit of the reflected CRC-32C register. -/
def crc32cBit (c : Nat) : Nat := if c % 2 = 1 then (c >>> 1) ^^^ 0x82F63B78 else c >>> 1

/-- One byte into the reflected CRC-32C register; its polynomial 0x1EDC_6F41 reversed is 0x82F6_3B78. -/
def crc32cByte (c : Nat) (b : Byte) : Nat :=
  (List.range 8).foldl (fun c _ => crc32cBit c) (c ^^^ b.toNat)

/-- One bit of the CRC-64 register. -/
def crc64Bit (c : Nat) : Nat :=
  if bit c 63 then ((c <<< 1) % 2 ^ 64) ^^^ 0x42F0E1EBA9EA3693 else (c <<< 1) % 2 ^ 64

/-- One byte into the CRC-64 register. -/
def crc64Byte (c : Nat) (b : Byte) : Nat :=
  (List.range 8).foldl (fun c _ => crc64Bit c) (c ^^^ (b.toNat <<< 56))

/-- CRC-64 of R364 over bytes, from a register state. -/
def crc64From (c : Nat) (l : List Byte) : Nat := l.foldl crc64Byte c

/-- CRC-64 of R364 over bytes. -/
def crc64 (l : List Byte) : Nat := crc64From 0 l

/-- CRC-32C register over bytes, from a state. -/
def crc32cFrom (c : Nat) (l : List Byte) : Nat := l.foldl crc32cByte c

/-- CRC-32C of R364 over bytes. -/
def crc32c (l : List Byte) : Nat := crc32cFrom 0xFFFFFFFF l ^^^ 0xFFFFFFFF

/-- R342, R364: initial register of the CRC that a crc field selects (1 CRC-32C, 2 CRC-64). -/
def crcInit (sel : Nat) : Nat := if sel = 1 then 0xFFFFFFFF else 0

/-- The register after more bytes. -/
def crcStep (sel c : Nat) (l : List Byte) : Nat :=
  if sel = 1 then crc32cFrom c l else if sel = 2 then crc64From c l else c

/-- The result of a register. -/
def crcDone (sel c : Nat) : Nat := if sel = 1 then c ^^^ 0xFFFFFFFF else if sel = 2 then c else 0

/-- R364: bytes of a stored CRC. -/
def crcBytes (sel : Nat) : Nat := if sel = 1 then 4 else if sel = 2 then 8 else 0

end Sys2Proof.Machine
end

