-- ==== Sys2Proof/Machine/Net.lean ====
section
/-!
DEFINITION. Messages of the fabric: their types and layouts (R445, R451, R97, R98), end-to-end credit (R446),
the CONTROL order (R447), timed requests (R450), and the link layer's flits (R441 to R444).
-/

namespace Sys2Proof

open Sys2Proof.Machine

/-! ### Types and channels (R443, R451) -/

/-- R451: type, virtual channel and resp bit of a message. -/
def Body.info : Body → Nat × Nat × Bool
  | .hello .. => (0x01, 0, false)
  | .announce .. => (0x02, 0, false)
  | .claim .. => (0x03, 0, false)
  | .assign .. => (0x04, 0, false)
  | .joined .. => (0x05, 0, false)
  | .routeSet .. => (0x06, 0, false)
  | .keepalive .. => (0x07, 0, false)
  | .depart .. => (0x08, 0, false)
  | .deviceDown .. => (0x09, 0, false)
  | .chordEnable .. => (0x0A, 0, false)
  | .chordDisable .. => (0x0B, 0, false)
  | .cmd .. => (0x0C, 0, false)
  | .cmdCpl .. => (0x0D, 0, true)
  | .mgrState .. => (0x0E, 0, false)
  | .mgrStateAck .. => (0x0F, 0, true)
  | .restoreBegin .. => (0x10, 0, false)
  | .restoreAck .. => (0x11, 0, true)
  | .restoreRec .. => (0x12, 0, false)
  | .restoreDone .. => (0x13, 0, true)
  | .restoreEnd .. => (0x14, 0, false)
  | .credit .. => (0x15, 0, true)
  | .regWrite .. => (0x16, 0, false)
  | .regRead .. => (0x17, 0, false)
  | .regRsp .. => (0x18, 0, true)
  | .prepare .. => (0x20, 0, false)
  | .ready .. => (0x21, 0, true)
  | .refuse .. => (0x22, 0, true)
  | .commit .. => (0x23, 0, false)
  | .abort .. => (0x24, 0, false)
  | .retire .. => (0x25, 0, false)
  | .drained .. => (0x26, 0, true)
  | .drop .. => (0x27, 0, false)
  | .repAdd .. => (0x28, 0, false)
  | .repDrop .. => (0x29, 0, false)
  | .repGrant .. => (0x2A, 0, false)
  | .repRevoke .. => (0x2B, 0, false)
  | .migBegin .. => (0x2C, 0, false)
  | .migEnd .. => (0x2D, 0, false)
  | .migReady .. => (0x2E, 0, false)
  | .migFwd .. => (0x2F, 0, false)
  | .migFwdAck .. => (0x30, 0, true)
  | .migCopied .. => (0x31, 0, false)
  | .overlaySet .. => (0x32, 0, false)
  | .overlayAck .. => (0x33, 0, true)
  | .repAck .. => (0x34, 0, true)
  | .repDone .. => (0x35, 0, true)
  | .beacon .. => (0x40, 1, false)
  | .delayReq .. => (0x41, 1, false)
  | .delayRsp .. => (0x42, 1, true)
  | .syncTrigger .. => (0x43, 1, false)
  | .batch .. => (0x50, 2, false)
  | .cancel .. => (0x51, 2, false)
  | .repFill .. => (0x52, 2, false)
  | .rowFetch .. => (0x53, 2, false)
  | .gread .. => (0x54, 2, false)
  | .fragment .. => (0x60, 3, true)
  | .epochGone .. => (0x61, 3, true)
  | .fillData .. => (0x62, 3, true)
  | .rowData .. => (0x63, 3, true)
  | .grdata .. => (0x64, 3, true)
  | .updBatch .. => (0x70, 4, false)
  | .updAck .. => (0x71, 4, true)
  | .invalidate .. => (0x72, 4, false)
  | .invAck .. => (0x73, 4, true)
  | .memop .. => (0x74, 4, false)
  | .memopAck .. => (0x75, 4, true)
  | .gwrite .. => (0x80, 5, false)
  | .gwAck .. => (0x81, 5, true)
  | .migData .. => (0x82, 5, false)
  | .image .. => (0x83, 5, false)

/-- R450: the message has a response whose absence the fabric times. A BATCH is timed by its own deadline; the answers to RESTORE_BEGIN
and RESTORE_REC come when their work has ended (R473), and are not timed. -/
def Body.timed : Body → Bool
  | .regWrite .. | .regRead .. | .prepare .. | .repAdd .. | .repDrop .. | .repGrant .. | .repRevoke ..
  | .migFwd .. | .overlaySet .. | .repFill .. | .rowFetch .. | .gread .. | .updBatch .. | .invalidate .. | .memop ..
  | .gwrite .. | .cmd .. | .mgrState .. => true
  | _ => false

/-- R460: a message that members take from their manager alone. ASSIGN and BEACON carry their term. -/
def Body.fromManager : Body → Bool
  | .routeSet .. | .deviceDown .. | .chordEnable .. | .chordDisable .. | .cmd .. | .mgrState .. | .restoreBegin .. | .restoreRec ..
  | .restoreEnd .. | .prepare .. | .commit .. | .abort .. | .drop .. | .retire .. | .repAdd .. | .repDrop .. | .migBegin .. | .migEnd ..
  | .overlaySet .. | .syncTrigger .. => true
  | _ => false

/-- A message that stays on one link (R451): HELLO and the messages that measure its delay. -/
def Body.isLink : Body → Bool
  | .hello .. | .delayReq .. | .delayRsp .. => true
  | _ => false

/-- R575: a message type that the ROM handles before READY. -/
def Body.beforeReady (b : Body) : Bool :=
  b.info.1 ≤ 0x07 || b.info.1 == 0x15 || (0x40 ≤ b.info.1 && b.info.1 ≤ 0x42) || b.info.1 == 0x83

/-! ### Payload layouts -/

/-- The table prefix of the chapter-04 messages. -/
def prefixBytes (table epoch : Nat) (none : Bool) : List Byte :=
  leBytes 8 (table % 2 ^ 16 + (epoch % 2 ^ 16) * 2 ^ 16 + b2n none * 2 ^ 32)

def rowBytes (r : RowRef) : List Byte := prefixBytes r.table r.epoch false ++ leBytes 8 r.row

/-- An array padded with zero to a multiple of 8 bytes. -/
def pad8 (l : List Byte) : List Byte := l ++ List.replicate (roundUp l.length 8 - l.length) 0

/-- R97: a segment block. -/
def SegBlock.bytes (g : SegBlock) : List Byte :=
  leBytes 8 (g.table + g.epoch * 2 ^ 16 + g.poolOp * 2 ^ 32 + b2n g.onePerBag * 2 ^ 35 + g.outFmt * 2 ^ 36 +
    g.outKind * 2 ^ 40 + g.outShift * 2 ^ 42) ++
  leBytes 8 (g.parts.length + g.indices.length * 2 ^ 32) ++
  (if g.onePerBag then [] else pad8 (g.parts.map fun p => leBytes 4 (p.1 + b2n p.2 * 2 ^ 31)).flatten) ++
  (g.indices.map (leBytes 8)).flatten ++
  pad8 (g.weights.map (leBytes 2)).flatten

/-- R97: a batch message. -/
def BatchMsg.bytes (m : BatchMsg) : List Byte :=
  leBytes 8 (m.requester + m.id * 2 ^ 32) ++ leBytes 8 m.deadline ++
  leBytes 8 (m.segs.length + b2n m.hedge * 2 ^ 16 + b2n m.exact * 2 ^ 17 +
    ((m.segs.map fun g => g.indices.length).foldl (· + ·) 0) * 2 ^ 32) ++
  leBytes 8 0 ++ (m.segs.map SegBlock.bytes).flatten

/-- R98: a reply fragment. -/
def FragMsg.bytes (m : FragMsg) : List Byte :=
  leBytes 4 m.batch ++ leBytes 2 m.firstPart ++ leBytes 2 m.results.length ++ leBytes 2 m.responder ++
  leBytes 1 (b2n m.fault) ++ leBytes 1 m.faultCode ++ leBytes 2 (min m.saturated 0xFFFF) ++ leBytes 2 0 ++ m.results.flatten

/-- R387: a completion record. -/
def Record.bytes (r : Record) (phase : Bool) : List Byte :=
  leBytes 8 (r.seq % 2 ^ 32 + (r.ctx % 2 ^ 14) * 2 ^ 32 + r.status * 2 ^ 48 + r.fault * 2 ^ 56) ++
  leBytes 8 r.ftime ++ leBytes 8 r.result ++
  leBytes 8 (b2n phase + r.cls * 2 + r.opcode * 2 ^ 4 + b2n r.second * 2 ^ 12 + b2n r.chainRefused * 2 ^ 13)

def helloFlags (mgrCapable candidate reserve isSwitch : Bool) : Nat :=
  b2n mgrCapable + 2 * b2n candidate + 4 * b2n reserve + 8 * b2n isSwitch

def joinBytes (e : JoinEntry) : List Byte :=
  padTo 16 (leBytes 2 e.table ++ leBytes 1 e.slots ++ leBytes 2 e.pendEpoch ++ leBytes 5 e.row ++ leBytes 1 e.rowState)

def recBytes (r : RestoreRec) : List Byte :=
  leBytes 8 (r.kind + r.table * 2 ^ 16) ++ leBytes 8 r.w1 ++ leBytes 8 r.w2 ++ leBytes 8 r.w3

/-- Kind and record of a copy of manager state. The spec fixes the kind and the place of the record. -/
def MgrItem.bytes : MgrItem → Nat × List Byte
  | .assignment u d => (1, leBytes 8 u ++ leBytes 8 d)
  | .publication t e x => (2, prefixBytes t e false ++ leBytes 8 x)
  | .migBegun r t => (3, rowBytes r ++ leBytes 8 t)
  | .migEnded r => (4, rowBytes r)
  | .shardMap t => (5, leBytes 8 t)
  | .switchIn f r => (6, leBytes 2 f ++ leBytes 2 r)

/-- R451: the payload of a message. -/
def Body.payload : Body → List Byte
  | .hello m => leBytes 8 m.uid ++ leBytes 1 (helloFlags m.mgrCapable m.candidate m.reserve m.isSwitch) ++
      leBytes 1 m.chord ++ leBytes 2 m.dev ++ leBytes 4 m.term ++ leBytes 8 m.mgrUid
  | .announce uid mc ca re dev term => leBytes 8 uid ++ leBytes 1 (helloFlags mc ca re false) ++ leBytes 1 0 ++
      leBytes 2 dev ++ leBytes 4 term ++ leBytes 24 0
  | .claim m => leBytes 4 m.term ++ leBytes 4 m.members ++ leBytes 8 m.mgrUid ++ leBytes 8 m.depUid ++
      leBytes 2 m.mgrId ++ leBytes 2 m.depId
  | .assign uid dev re term n => leBytes 8 uid ++ leBytes 2 dev ++ leBytes 1 (b2n re) ++ leBytes 1 0 ++
      leBytes 4 term ++ leBytes 4 n
  | .joined uid dev rep => leBytes 8 uid ++ leBytes 2 dev ++ leBytes 6 0 ++
      (match rep with
       | some l => leBytes 4 l.length ++ (l.map joinBytes).flatten
       | none => leBytes 4 0xFFFFFFFF)
  | .routeSet rs => (rs.map fun p => leBytes 2 p.1 ++ leBytes 2 p.2).flatten
  | .keepalive t => leBytes 8 t
  | .depart r => leBytes 1 r
  | .deviceDown d => leBytes 2 d
  | .chordEnable m => leBytes 2 m
  | .chordDisable m => leBytes 2 m
  | .cmd p => p
  | .cmdCpl r => r.bytes false
  | .mgrState i n => leBytes 1 i.bytes.1 ++ leBytes 3 0 ++ leBytes 4 n ++ i.bytes.2
  | .mgrStateAck k n => leBytes 1 k ++ leBytes 3 0 ++ leBytes 4 n
  | .restoreBegin d => leBytes 2 d
  | .restoreAck d => leBytes 2 d
  | .restoreRec rs => (rs.map recBytes).flatten
  | .restoreDone f n => leBytes 4 f ++ leBytes 4 n
  | .restoreEnd d => leBytes 2 d
  | .credit .. => []
  | .regWrite o w t v => leBytes 4 o ++ leBytes 1 w ++ leBytes 3 0 ++ leBytes 4 t ++ leBytes 4 0 ++ leBytes 8 v
  | .regRead o w t => leBytes 4 o ++ leBytes 1 w ++ leBytes 3 0 ++ leBytes 4 t
  | .regRsp t st f v => leBytes 4 t ++ leBytes 1 st ++ leBytes 1 f ++ leBytes 2 0 ++ leBytes 8 v
  | .prepare t e x d => prefixBytes t e false ++ leBytes 8 x ++ d
  | .ready t e => prefixBytes t e false
  | .refuse t e r => prefixBytes t e false ++ leBytes 1 r
  | .commit t e x => prefixBytes t e false ++ leBytes 8 x
  | .abort t e => prefixBytes t e false
  | .drained t e n => prefixBytes t e n
  | .drop t e => prefixBytes t e false
  | .retire t x => prefixBytes t 0 false ++ leBytes 8 x
  | .repAdd r h => rowBytes r ++ leBytes 2 h
  | .repDrop r h => rowBytes r ++ leBytes 2 h
  | .repGrant r => rowBytes r
  | .repRevoke r => rowBytes r
  | .migBegin r b a c => rowBytes r ++ leBytes 2 b ++ leBytes 2 a ++ leBytes 2 c
  | .migEnd r b a c => rowBytes r ++ leBytes 2 b ++ leBytes 2 a ++ leBytes 2 c
  | .migReady r => rowBytes r
  | .migFwd r => rowBytes r
  | .migFwdAck r => rowBytes r
  | .migCopied r => rowBytes r
  | .overlaySet r b => rowBytes r ++ leBytes 2 b
  | .overlayAck r => rowBytes r
  | .repAck r => rowBytes r
  | .repDone r h => rowBytes r ++ leBytes 2 h
  | .beacon o c t => leBytes 8 o ++ leBytes 8 (unsext c 64) ++ leBytes 4 t
  | .delayReq t1 => leBytes 8 t1 ++ leBytes 16 0
  | .delayRsp t1 t2 t3 => leBytes 8 t1 ++ leBytes 8 t2 ++ leBytes 8 t3
  | .syncTrigger t i => leBytes 8 t ++ leBytes 4 i
  | .batch m => m.bytes
  | .cancel i => leBytes 4 i
  | .repFill r => rowBytes r
  | .rowFetch r t => rowBytes r ++ leBytes 4 t
  | .gread o n t => leBytes 8 o ++ leBytes 4 n ++ leBytes 4 t
  | .fragment m => m.bytes
  | .epochGone b r => leBytes 4 b ++ leBytes 2 r
  | .fillData r d => rowBytes r ++ d
  | .rowData r t d => rowBytes r ++ leBytes 4 t ++ leBytes 4 0 ++ d
  | .grdata t st f d => leBytes 4 t ++ leBytes 1 st ++ leBytes 1 f ++ leBytes 2 0 ++ d
  | .updBatch m => prefixBytes m.table m.epoch false ++ leBytes 4 m.id ++
      leBytes 1 (m.op + b2n m.refit * 4 + m.dfmt * 8 + m.rnd * 16) ++ leBytes 3 0 ++ leBytes 8 m.updateId ++
      leBytes 8 m.entropy ++ leBytes 4 m.rows.length ++ leBytes 4 0 ++ (m.rows.map (leBytes 8)).flatten ++ m.deltas
  | .updAck m => prefixBytes m.table m.epoch false ++ leBytes 4 m.id ++ leBytes 4 m.applied ++ leBytes 2 m.refits ++
      leBytes 2 m.saturations ++ leBytes 1 m.status ++ leBytes 1 m.fault
  | .invalidate r => rowBytes r
  | .invAck r => rowBytes r
  | .memop m => leBytes 8 m.offset ++ leBytes 2 (m.code + b2n m.exact * 64 + m.part * 256) ++ leBytes 2 m.group ++
      leBytes 2 m.contrib ++ leBytes 2 m.expected ++ leBytes 4 m.tag ++ leBytes 4 0 ++ m.operand
  | .memopAck t st f v => leBytes 4 t ++ leBytes 1 st ++ leBytes 1 f ++ leBytes 2 0 ++ leBytes 8 v
  | .gwrite o t d => leBytes 8 o ++ leBytes 4 d.length ++ leBytes 4 t ++ d
  | .gwAck t st f => leBytes 4 t ++ leBytes 1 st ++ leBytes 1 f
  | .migData r d => rowBytes r ++ d
  | .image p => p

/-- R445: flits of a message. -/
def Body.flits (b : Body) : Nat := (16 + b.payload.length + 239) / 240

/-- R445: the network header. -/
def netHeader (dst src plane cseq crVc crFlits : Nat) (pinned : Bool) (b : Body) : List Byte :=
  let (typ, vc, resp) := b.info
  leBytes 8 (dst + src * 2 ^ 16 + vc * 2 ^ 32 + b2n resp * 2 ^ 35 + plane * 2 ^ 36 + typ * 2 ^ 40 + b2n pinned * 2 ^ 48) ++
  leBytes 8 (b.payload.length + crVc * 2 ^ 24 + crFlits * 2 ^ 32 + cseq * 2 ^ 48)

/-- R448: the pinning key of a message, if its protocol sets one. -/
def Body.pinKey : Body → Option Nat
  | .updBatch m => some m.table
  | _ => none

end Sys2Proof

namespace Sys2Proof.Machine

/-! ### Membership -/

/-- The device ID as it appears in messages: 0xFFFF without one (R445). -/
def ownId (s : State) : Nat := s.fab.devId.getD 0xFFFF

def memberOf (s : State) (d : Nat) : Option Member := s.fab.members.find? fun m => m.id == d

/-- R462: an ID is DOWN. -/
def isDown (s : State) (d : Nat) : Bool := s.fab.members.any fun m => m.id == d && m.down

/-- R473: an ID is RESTORING. -/
def isRestoring (s : State) (d : Nat) : Bool :=
  s.fab.restoring.contains d || s.fab.members.any fun m => m.id == d && m.restoring

/-- R450: a destination that a message reaches: itself, or a member that is not DOWN.
The manager and the deputy know every member; another device knows those that it has been told are DOWN. -/
def reachable (s : State) (d : Nat) : Bool :=
  if s.fab.devId == some d then true
  else if s.fab.role == .manager then
    match memberOf s d with
    | some m => !m.down
    | none => false
  else s.fab.devId.isSome && d != 0xFFFF && !isDown s d

/-- The manager's live members other than itself. -/
def liveMembers (s : State) : List Nat :=
  (s.fab.members.filter fun m => !m.down && !m.reserve && s.fab.devId != some m.id).map (·.id)

/-! ### The link layer (R441 to R444) -/

def chordOf (s : State) (n : Nat) : Chord := ((s.fab.chords.find? fun p => p.1 == n).map (·.2)).getD ({} : Chord)

def setChord (n : Nat) (c : Chord) (s : State) : State :=
  s.setFab { s.fab with chords :=
    (s.fab.chords.filter fun p => decide (p.1 < n)) ++ (n, c) :: s.fab.chords.filter fun p => decide (n < p.1) }

/-- R440, R46: a Chord that carries messages. -/
def Chord.carries (c : Chord) : Bool := c.up && !c.mismatch && c.fn.state == .enabled && !c.retraining

/-- R441: the bytes of a flit. -/
def flitBytes (seq ack : Nat) (nak head tail : Bool) (vc : Nat) (idle : Bool) (crVc crCount : Nat) (area : List Byte) : List Byte :=
  let body := leBytes 8 (seq % 4096 + (ack % 4096) * 2 ^ 12 + b2n nak * 2 ^ 24 + b2n head * 2 ^ 25 + b2n tail * 2 ^ 26 +
    vc * 2 ^ 27 + b2n idle * 2 ^ 30 + crVc * 2 ^ 32 + crCount * 2 ^ 35) ++ padTo 240 area
  body ++ leBytes 8 (crc64 body)

/-- R441: the link credits that the next flit returns: the first channel owed and at most 255 of it. -/
def Chord.returns (c : Chord) : Nat × Nat :=
  match (List.range 6).find? fun v => decide (0 < c.owe.getD v 0) with
  | some v => (v, min 255 (c.owe.getD v 0))
  | none => (0, 0)

/-- Link credits that have gone out in a flit. -/
def Chord.returned (c : Chord) : Chord :=
  let r := c.returns
  { c with owe := c.owe.set r.1 (c.owe.getD r.1 0 - r.2) }

/-- R443, R442: the first waiting flit of a channel that holds a credit, while the replay buffer has room. -/
def chordPump1 (n : Nat) (c : Chord) : Chord × Option Nat :=
  match c.txq.find? fun f => decide (0 < c.credits.getD f.1 0) with
  | none => (c, none)
  | some f =>
    if 512 ≤ c.replay.length then (c, none)
    else
      let r := c.returns
      let d := c.returned
      ({ d with
        txq := c.txq.erase f
        credits := c.credits.set f.1 (c.credits.getD f.1 0 - 1)
        replay := c.replay ++ [(c.txSeq, flitBytes c.txSeq (c.rxSeq + 4095) c.nak f.2.1 f.2.2.1 f.1 false r.1 r.2 f.2.2.2)]
        txSeq := (c.txSeq + 1) % 4096 }, some (f.1 + n * 16))

/-- R443: flits of a Chord sent while credits and the replay buffer allow. -/
def chordPump : Nat → Nat → State → State
  | 0, _, s => s
  | k + 1, n, s =>
    if !(chordOf s n).up || (chordOf s n).retraining then s
    else match chordPump1 n (chordOf s n) with
    | (_, none) => s
    | (c, some key) =>
      chordPump k n (evt 132 0x80 key 1 none (count (Reg.CHORD_CNT_TX_FLITS n) (setChord n c s)))

/-- R448, R455: the Chords by which a destination is reached: every plane of a switched domain; in a direct domain those of its route,
or without one those of a neighbour, and for a broadcast all. -/
def routeChords (s : State) (dst : Nat) : List Nat :=
  let all := (s.fab.chords.filter fun p => p.2.carries).map (·.1)
  if s.fab.switched then all
  else match s.fab.routes.find? fun r => r.1 == dst with
    | some r => all.filter fun n => bit r.2 n
    | none => if dst = 0xFFFF then all else all.filter fun n => (chordOf s n).isPart && (chordOf s n).peerId == dst

/-- R448: the Chord of an unpinned message: the most link credits for its channel, ties by the arbiter. -/
def pickChord (dst vc : Nat) (s : State) : Option Nat :=
  let cs := routeChords s dst
  let held := fun n => (chordOf s n).credits.getD vc 0
  let best := (cs.map held).foldl max 0
  let ties := cs.filter fun n => held n == best
  if ties.isEmpty then none else ties[Config.choice s.free % ties.length]?

/-- R448: the plane of a pinned message: the first carrying plane from (src xor dst xor key) mod 16. -/
def pinnedChord (src dst key : Nat) (s : State) : Option Nat :=
  let p := (src ^^^ dst ^^^ key) % 16
  ((List.range 16).map fun i => (p + i) % 16).find? fun n => (routeChords s dst).contains n

/-- R444, R445: the packet areas of a message with their head and tail marks. -/
def packetAreas : Nat → Bool → List Byte → List (Bool × Bool × List Byte)
  | 0, _, _ => []
  | n + 1, head, l => (head, decide (l.length ≤ 240), l.take 240) ::
      (if l.length ≤ 240 then [] else packetAreas n false (l.drop 240))

/-- R448: the plane on which a message may leave now. A pinned message waits while its stream's messages on another plane
are neither answered nor failed. -/
def planeOf (m : Msg) (s : State) : Option Nat :=
  match m.body.pinKey with
  | none => pickChord m.dst m.body.info.2.1 s
  | some k =>
    match pinnedChord (ownId s) m.dst k s with
    | none => none
    | some n => if s.fab.timed.any fun t => t.dst == m.dst && t.body.pinKey == some k && t.plane != n then none else some n

/-- R445: the bytes of a message from this device, as it leaves on a plane with a CONTROL sequence number. -/
def msgBytes (s : State) (n cseq : Nat) (m : Msg) : List Byte :=
  let cr := match m.body with
    | .credit v f => (v, f)
    | _ => (0, 0)
  netHeader m.dst (ownId s) n cseq cr.1 cr.2 m.body.pinKey.isSome m.body ++ m.body.payload

/-- Flits of a message queue on a Chord. -/
def queueBytes (n vc : Nat) (bytes : List Byte) (s : State) : State :=
  let c := chordOf s n
  let areas := packetAreas (bytes.length / 240 + 1) true bytes
  chordPump areas.length n (setChord n { c with txq := c.txq ++ areas.map fun a => (vc, a.1, a.2.1, a.2.2) } s)

/-- A message goes onto Chords, under one CONTROL sequence number (R447). -/
def ontoChords (ns : List Nat) (m : Msg) (s : State) : State :=
  let vc := m.body.info.2.1
  let counts := vc = 0 && !m.body.isLink
  let cseq := if counts then ((s.fab.cseqTx.find? fun p => p.1 == m.dst).map (·.2)).getD 0 else 0
  let s := if counts then
    s.setFab { s.fab with cseqTx := (m.dst, (cseq + 1) % 65536) :: s.fab.cseqTx.filter fun p => p.1 != m.dst } else s
  ns.foldl (fun s n => queueBytes n vc (msgBytes s n cseq m) s) s

/-! ### Sending -/

/-- R446: a request on CONTROL, LOOKUP_REQ, UPDATE or BULK needs end-to-end credit; a broadcast needs none (R449). -/
def needsCredit (m : Msg) : Bool :=
  let (typ, vc, resp) := m.body.info
  !resp && m.dst != 0xFFFF && vc != 1 && vc != 3 && decide (3 < typ)

/-- R446: credit held for a destination and channel; every device grants 4 flits at first. -/
def creditOf (s : State) (dst vc : Nat) : Nat :=
  ((s.fab.credits.find? fun c => c.1 == dst && c.2.1 == vc).map (·.2.2)).getD 4

def setCredit (dst vc n : Nat) (s : State) : State :=
  s.setFab { s.fab with credits := (dst, vc, n) :: s.fab.credits.filter fun c => !(c.1 == dst && c.2.1 == vc) }

/-- A message leaves on a plane: it is counted, timed if it has a response, and put on a Chord. One to the part itself takes none (R22). -/
def sendNow (n : Nat) (m : Msg) (s : State) : State :=
  let s := s.setFab { s.fab with sent := s.fab.sent ++ [m] }
  let s := if s.fab.devId == some m.dst then s
    else ontoChords (if m.dst = 0xFFFF && !s.fab.switched then routeChords s m.dst else [n]) m (count Reg.FAB_CNT_MSG_TX s)
  if m.body.timed then
    s.setFab { s.fab with
      timed := s.fab.timed ++ [⟨s.fab.nextTimed, m.dst, m.body, s.now, n⟩]
      nextTimed := s.fab.nextTimed + 1 }
  else s

/-- A message leaves on one Chord, whatever its destination's route. -/
def sendOn (n dst : Nat) (b : Body) (s : State) : State :=
  ontoChords [n] ⟨dst, b⟩ (count Reg.FAB_CNT_MSG_TX (s.setFab { s.fab with sent := s.fab.sent ++ [⟨dst, b⟩] }))

/-- R446: a message that needs credit and must wait for it. -/
def creditShort (m : Msg) (s : State) : Bool := needsCredit m && creditOf s m.dst m.body.info.2.1 < m.body.flits

/-- R446, R447, R450: sends a message, or keeps it until its credit and a Chord are there, behind the messages of its channel and destination.
A message to an unreachable device is not sent. -/
def send (dst : Nat) (b : Body) (s : State) : State :=
  let m : Msg := ⟨dst, b⟩
  if dst != 0xFFFF && decide (3 < b.info.1) && !reachable s dst && b.info.1 != 4 then s
  else if s.fab.devId == some dst then sendNow 0 m s
  else
    let waits := (s.fab.waiting.any fun x => x.dst == dst && x.body.info.2.1 == b.info.2.1) || creditShort m s
    match if waits then none else planeOf m s with
    | none => s.setFab { s.fab with waiting := s.fab.waiting ++ [m] }
    | some n =>
      sendNow n m (if needsCredit m then setCredit dst b.info.2.1 (creditOf s dst b.info.2.1 - b.flits) s else s)

/-- A message to each of several devices. -/
def sendAll (dsts : List Nat) (b : Body) (s : State) : State := dsts.foldl (fun s d => send d b s) s

/-- R446: waiting requests whose credit has come leave in order. -/
def pumpWaiting (s : State) : State :=
  let w := s.fab.waiting
  w.foldl (fun s m => send m.dst m.body s) (s.setFab { s.fab with waiting := [] })

/-- R446: end-to-end credit arrives. -/
def grantCredit (src vc n : Nat) (s : State) : State :=
  if n = 0 then s else pumpWaiting (setCredit src vc (creditOf s src vc + n) s)

/-- R450: a response has its effect when the request that it answers is still awaited, whose timing ends. A later one is discarded. -/
def responded (p : Msg → Bool) (effect : State → State) (s : State) : State :=
  match s.fab.timed.find? fun t => p ⟨t.dst, t.body⟩ with
  | some t => pumpWaiting (effect (s.setFab { s.fab with timed := s.fab.timed.filter fun x => x.tag != t.tag }))
  | none => s

/-! ### Receiving -/

/-- R447: the verdict on a CONTROL sequence number. -/
inductive Order2 where
  | inOrder | stale | early
  deriving DecidableEq, Repr

/-- R447: a header against the next CONTROL sequence number expected of its source; the first one sets it.
Senders without an ID share 0xFFFF, and no order holds among them. -/
def ctlOrder (h : Hdr) (s : State) : Order2 :=
  if h.src = 0xFFFF then .inOrder
  else match s.fab.cseqRx.find? fun p => p.1 == h.src * 2 + b2n h.broadcast with
  | none => .inOrder
  | some (_, e) =>
    let back := (e + 65536 - h.cseq % 65536) % 65536
    if back = 0 then .inOrder else if back ≤ 32768 then .stale else .early

/-- R446: the flits of a consumed request are granted back to its sender. -/
def grantBack (h : Hdr) (b : Body) (s : State) : State :=
  let m : Msg := ⟨ownId s, b⟩
  if h.broadcast || !needsCredit m || s.fab.devId == some h.src then s
  else send h.src (.credit b.info.2.1 b.flits) s

/-- A message arrives: it is counted and the credit of its header is taken. -/
def arrive (h : Hdr) (s : State) : State :=
  grantCredit h.src h.crVc h.crFlits (count Reg.FAB_CNT_MSG_RX s)

/-- A message that FLIT assembled is taken out as it is delivered. -/
def inboxTake (h : Hdr) (b : Body) (s : State) : State :=
  let mine := fun (l : List Byte) => leAt l 2 2 == h.src && leAt l 5 1 == b.info.1 && l.drop 16 == b.payload
  match s.fab.inbox.find? mine with
  | some l => s.setFab { s.fab with inbox := s.fab.inbox.erase l }
  | none => s

/-- R457: a manager's message that does not come from the manager of the term held. -/
def staleManager (h : Hdr) (b : Body) (s : State) : Bool := b.fromManager && s.fab.mgrUid != 0 && h.src != s.fab.mgrId

/-- The delivery of a message: CONTROL messages in sequence (R447), then its effect, then its credit is returned (R446).
A message of the part to itself never enters the fabric (R22, R95). A part without power, or under a host-loss reset, serves none (R492);
before READY the ROM serves its own messages alone (R575). -/
def deliver (h : Hdr) (b : Body) (effect : State → State) (s : State) : State :=
  if !powered s || s.hl.loss.isSome then s
  else if s.fab.devId == some h.src then effect s
  else if !isReady s && !b.beforeReady then count Reg.FAB_CNT_BAD_MSG (inboxTake h b s)
  else if b.info.2.1 = 0 then
    match ctlOrder h s with
    | .stale => count Reg.FAB_CNT_BAD_MSG (inboxTake h b s)
    | .early => s.setFab { s.fab with early := if s.fab.early.contains (h.src, h.cseq) then s.fab.early else s.fab.early ++ [(h.src, h.cseq)] }
    | .inOrder =>
      let key := h.src * 2 + b2n h.broadcast
      let effect := if staleManager h b s then count Reg.FAB_CNT_STALE_TERM else effect
      let s := inboxTake h b s
      let s := s.setFab { s.fab with
        cseqRx := (key, (h.cseq + 1) % 65536) :: s.fab.cseqRx.filter fun p => p.1 != key
        early := s.fab.early.filter fun e => e != (h.src, h.cseq) }
      grantBack h b (effect (arrive h s))
  else
    let effect := if staleManager h b s then count Reg.FAB_CNT_STALE_TERM else effect
    grantBack h b (effect (arrive h (inboxTake h b s)))

/-- R446, R154: the same without the credit's return, for a receiver that withholds it. -/
def deliverHeld (h : Hdr) (b : Body) (effect : State → State) (s : State) : State :=
  if !powered s || s.hl.loss.isSome then s
  else if s.fab.devId == some h.src then effect s
  else if !isReady s then count Reg.FAB_CNT_BAD_MSG (inboxTake h b s)
  else effect (arrive h (inboxTake h b s))

end Sys2Proof.Machine
end

