-- ==== Sys2Proof/Machine/Access.lean ====
section
/-!
DEFINITION. Accesses by context address: KGA decoding (R20 to R25), translation (R309 to R322), host and global accesses,
and how a piece of work waits for an answer, fails or goes on (R329).
-/

namespace Sys2Proof.Machine

/-! ### Work that accesses memory -/

/-- Why an access does not complete now: it waits for an answer, or it has failed. -/
inductive Stop where
  | wait (n : Need) (s : State)
  | fail (f : Flt) (s : State)

/-- An access: it goes on with a value and a state, or it stops. -/
abbrev Acc (α : Type) : Type := StateT State (Except Stop) α

def accWait {α : Type} (n : Need) : Acc α := fun s => .error (.wait n s)
def accFail {α : Type} (f : Flt) : Acc α := fun s => .error (.fail f s)
def accDo (f : State → State) : Acc Unit := fun s => .ok ((), f s)
def accAsk {α : Type} (f : State → α) : Acc α := fun s => .ok (f s, s)
/-- Failure with a fault unless a test holds. -/
def accCheck (b : Bool) (f : Flt) : Acc Unit := if b then pure () else accFail f

/-- The first failure recorded for a piece of work while it waited, and the state without it. -/
def takeFailed (w : Work) (s : State) : Option (Flt × State) :=
  (s.io.failed.find? fun x => x.1 == w).map fun x => (x.2, s.setIo { s.io with failed := s.io.failed.erase x })

/-- An access whose failure is kept as a value. Where it would wait and a failure is recorded for its work, that wait has failed. -/
def accTry {α : Type} (w : Work) (a : Acc α) : Acc (Except Flt α) := fun s =>
  match a s with
  | .ok (x, s) => .ok (.ok x, s)
  | .error (.fail f s) => .ok (.error f, s)
  | .error (.wait n s) =>
    match takeFailed w s with
    | some (f, s) => .ok (.error f, s)
    | none => .error (.wait n s)

/-! ### KGAs (R20 to R24) -/

/-- What an address names in the end. -/
inductive Place where
  | host (pasid va : Nat)
  | loc (off : Nat)
  | glob (dev off : Nat)
  deriving DecidableEq, Repr

/-- R20, R21, R23, R24: the place that a KGA names, or the fault of reaching it. -/
def kgaPlace (k pasid : Nat) : Except Flt Place :=
  match k >>> 62 with
  | 0 => if bits k 61 46 ≠ 0 || !populated (bits k 45 0) then .error .xlate else .ok (.loc (bits k 45 0))
  | 1 => if bits k 61 46 = 0xFFFF || !populated (bits k 45 0) then .error .xlate else .ok (.glob (bits k 61 46) (bits k 45 0))
  | 2 => if bits k 61 56 ≠ 0 then .error .xlate else .ok (.host pasid (bits k 55 0))
  | _ => if bits k 45 26 ≠ 0 then .error .xlate else .error .perm

/-! ### Micro-TLBs (R309) -/

/-- The Grove of an engine with a micro-TLB. -/
def Work.grove? : Work → Option Nat
  | .helix g _ _ => some g
  | .core g => some g
  | .gdma g => some g
  | .dump g => some g
  | _ => none

/-- A victim leaves a full cache. -/
def evictOne {α : Type} (l : List α) (n : Nat) : List α := l.eraseIdx (Config.victim n % (max l.length 1))

/-- R309: an entry enters a Grove's micro-TLB of 64 entries. -/
def utlbFill (g : Nat) (e : UtlbEnt) (s : State) : State :=
  let own := s.xlt.utlb.filter fun x => x.1 == g
  let rest := s.xlt.utlb.filter fun x => x.1 != g
  if own.length < 64 then s.setXlt { s.xlt with utlb := rest ++ own ++ [(g, e)] }
  else
    let (n, s) := drawFree s
    s.setXlt { s.xlt with utlb := rest ++ evictOne own n ++ [(g, e)] }

/-- R309: a span enters the shared device TLB of 16,384 entries. -/
def dtlbFill (ctx va : Nat) (s : State) : State :=
  if s.xlt.dtlb.length < 16384 then s.setXlt { s.xlt with dtlb := s.xlt.dtlb ++ [(ctx, va)] }
  else
    let (n, s) := drawFree s
    s.setXlt { s.xlt with dtlb := evictOne s.xlt.dtlb n ++ [(ctx, va)] }

/-- R309, R319: a page enters the address translation cache of 8,192 entries. -/
def atcFill (e : AtcEnt) (s : State) : State :=
  let l := s.xlt.atc.filter fun x => !(x.pasid == e.pasid && x.page == e.page && x.size == e.size)
  if l.length < 8192 then s.setXlt { s.xlt with atc := l ++ [e] }
  else
    let (n, s) := drawFree s
    s.setXlt { s.xlt with atc := evictOne l n ++ [e] }

/-! ### Spans (R311 to R313) -/

def Span.size (p : Span) : Nat := if p.giant then 2 ^ 30 else 2 ^ 21

/-- The span that maps a device VA in a context's table. -/
def spanOf (s : State) (ctx dva : Nat) : Option Span :=
  s.xlt.spans.find? fun p => p.ctx == ctx && decide (p.va ≤ dva) && decide (dva < p.va + p.size)

/-- R309: the levels that a span lookup passes, their misses counted and their entries filled. -/
def spanLookup (w : Work) (p : Span) (s : State) : State :=
  let inU := match w.grove? with
    | some g => s.xlt.utlb.contains (g, .span p.ctx p.va)
    | none => false
  if inU then s
  else
    let s := match w.grove? with
      | some g => evt g 0x15 0 1 (some p.ctx) (count Reg.XLT_CNT_UTLB_MISS s)
      | none => s
    let s := if s.xlt.dtlb.contains (p.ctx, p.va) then s
      else dtlbFill p.ctx p.va (count Reg.XLT_CNT_WALK (count Reg.XLT_CNT_DTLB_MISS s))
    match w.grove? with
    | some g => utlbFill g (.span p.ctx p.va) s
    | none => s

/-- R311, R313, R322: the device route. -/
def xlateDev (w : Work) (ctx va : Nat) (write : Bool) : Acc Place := do
  accCheck (bits va 55 48 == 0) .xlate
  let dva := bits va 47 0
  match ← accAsk (spanOf · ctx dva) with
  | none => accFail .xlate
  | some p =>
    accDo (spanLookup w p)
    accCheck (if write then bit p.entry 3 else bit p.entry 2) .perm
    if bit p.entry 4 then accWait (.absent ctx p.va)
    else
      match kgaPlace (setBits p.entry 20 0 0 + (dva - p.va)) 0 with
      | .ok x => pure x
      | .error f => accFail f

/-! ### Host pages (R318 to R322) -/

def AtcEnt.hits (e : AtcEnt) (pasid va : Nat) (write : Bool) : Bool :=
  e.pasid == pasid && decide (e.page ≤ va) && decide (va < e.page + e.size) && (if write then e.write else e.read)

/-- The micro-TLB's copy of a host page. -/
def utlbPage (s : State) (g pasid va : Nat) (write : Bool) : Bool :=
  s.xlt.utlb.any fun x => x.1 == g && match x.2 with
    | .page e => e.hits pasid va write
    | .span .. => false

/-- R319, R321: the host route; an entry without the needed permission is a miss, so that a fresh request goes out. -/
def xlateHost (w : Work) (pasid va : Nat) (write : Bool) : Acc Place := fun s =>
  if !s.hl.ats then .ok (.host pasid va, s)
  else
    let inU := match w.grove? with
      | some g => utlbPage s g pasid va write
      | none => false
    if inU then .ok (.host pasid va, s)
    else
      let s := match w.grove? with
        | some g => evt g 0x15 0 1 none (count Reg.XLT_CNT_UTLB_MISS s)
        | none => s
      match s.xlt.atc.find? fun e => e.hits pasid va write with
      | some e =>
        let s := match w.grove? with
          | some g => utlbFill g (.page e) s
          | none => s
        .ok (.host pasid va, s)
      | none => .error (.wait (.ats pasid (va / 4096) write) s)

/-- R25: the place of a context address for a read or a write. -/
def xlate (w : Work) (ctx va : Nat) (write : Bool) : Acc Place := do
  accCheck (decide (va < 2 ^ 57)) .xlate
  if bit va 56 then xlateDev w ctx va write
  else do
    let pasid ← accAsk fun s => (getCtx s ctx).pasid
    xlateHost w pasid (bits va 55 0) write

/-! ### Host memory (R321, R334 to R338) -/

/-- R335: a page is OWNED. -/
def isOwned (s : State) (pasid page : Nat) : Bool :=
  s.xlt.bias.any fun b => b.pasid == pasid && decide (b.first ≤ page) && decide (page < b.first + b.count)

/-- R338: a SET_BIAS that has begun holds accesses to a page. -/
def biasHolds (s : State) (pasid page : Nat) : Bool :=
  s.xlt.biasOps.any fun b => b.begun && b.pasid == pasid && decide (b.first ≤ page) && decide (page < b.first + b.count)

/-- R334, R336: the form of a host access: its line form with CXL.cache, else whether it carries No Snoop. -/
def hostForm (s : State) (pasid page : Nat) (whole write : Bool) : HostForm :=
  if isOwned s pasid page then .noSnoop
  else if s.hl.cxlCache then (if write then (if whole then .itoMWr else .woWrInv) else .rdCurr)
  else .snooped

/-- R319: the translated address of a host address, from the address translation cache or a micro-TLB. -/
def hostPhys (s : State) (pasid va : Nat) : Option Nat :=
  if !s.hl.ats then none
  else
    let pages := s.xlt.atc ++ s.xlt.utlb.filterMap fun x => match x.2 with
      | .page e => some e
      | .span .. => none
    (pages.find? fun e => e.hits pasid va false || e.hits pasid va true).map fun e => e.target + (va - e.page)

/-- R490: a host read completes with the data that has arrived for this work. -/
def hostRead (w : Work) (pasid va n : Nat) : Acc (List Byte) := fun s =>
  if biasHolds s pasid (va / 4096) then .error (.wait (.bias pasid (va / 4096)) s)
  else
    match s.io.arrived.find? fun a => a.work == w && a.need == .hostRead pasid va n with
    | some a => .ok (padTo n a.data, s)
    | none => .error (.wait (.hostRead pasid va n) s)

/-- R334: a posted write in 64-byte lines under CXL.cache, else whole. -/
def hostSegments (s : State) (pasid va : Nat) (l : List Byte) : List HostWrite :=
  if isOwned s pasid (va / 4096) || !s.hl.cxlCache then [⟨pasid, va, l, hostForm s pasid (va / 4096) true true, hostPhys s pasid va⟩]
  else
    (sectorsOf va l.length).map fun k =>
      let a := max va (k * 64)
      let e := min (va + l.length) (k * 64 + 64)
      ⟨pasid, a, slice (a - va) (e - a) l, hostForm s pasid (va / 4096) (e - a == 64) true, hostPhys s pasid a⟩

/-- R489: posted writes go out on the link, or wait while it retrains or is down. -/
def postHost (ws : List HostWrite) (s : State) : State :=
  if s.hl.up && !s.hl.retrain then
    countN Reg.HL_CNT_TX_BYTES ((ws.map fun w => w.data.length).foldl (· + ·) 0) (s.setHl { s.hl with posted := s.hl.posted ++ ws })
  else s.setHl { s.hl with queued := s.hl.queued ++ ws }

def hostWrite (pasid va : Nat) (l : List Byte) : Acc Unit := fun s =>
  if biasHolds s pasid (va / 4096) then .error (.wait (.bias pasid (va / 4096)) s)
  else
    let s' := postHost (hostSegments s pasid va l) s
    .ok ((), if s.hl.ats then s' else count Reg.XLT_CNT_UNTRANSLATED s')

/-! ### Local and global memory -/

/-- R171, R184: a context's read of local memory. -/
def ctxLocalRead (ctx o n : Nat) : Acc (List Byte) := do
  accCheck (populatedRange o n) .xlate
  accCheck (← accAsk fun s => !isScratch o || scratchOk s (ctxPart s ctx) o) .perm
  let (l, bad) ← fun s => .ok (localRead o n s)
  accCheck (!bad) .ecc
  pure l

def ctxLocalWrite (ctx o : Nat) (l : List Byte) : Acc Unit := do
  accCheck (populatedRange o l.length) .xlate
  accCheck (← accAsk fun s => !isScratch o || scratchOk s (ctxPart s ctx) o) .perm
  accDo (localWrite o l)

/-- R22, R317, R452: a read of global space. -/
def globRead (w : Work) (dev o n : Nat) : Acc (List Byte) := fun s =>
  if s.fab.devId == some dev then
    if !sharedRange s o n then .error (.fail .perm (count Reg.XLT_CNT_REMOTE_REFUSED s))
    else
      let ((l, bad), s) := localRead o n s
      if bad then .error (.fail .ecc s) else .ok (l, s)
  else
    match s.io.arrived.find? fun a => a.work == w && a.need == .gread dev o n with
    | some a => .ok (padTo n a.data, s)
    | none => if reachable s dev then .error (.wait (.gread dev o n) s) else .error (.fail .fabric s)

/-- R22, R317, R350, R452: a write of global space, complete when its owner has acknowledged it. -/
def globWrite (w : Work) (dev o : Nat) (l : List Byte) : Acc Unit := fun s =>
  if s.fab.devId == some dev then
    if !sharedRange s o l.length then .error (.fail .perm (count Reg.XLT_CNT_REMOTE_REFUSED s))
    else .ok ((), localWrite o l s)
  else if s.io.arrived.any fun a => a.work == w && a.need == .gwrite dev o l then .ok ((), s)
  else if reachable s dev then .error (.wait (.gwrite dev o l) s)
  else .error (.fail .fabric s)

def placeRead (w : Work) (ctx n : Nat) : Place → Acc (List Byte)
  | .host p va => hostRead w p va n
  | .loc o => ctxLocalRead ctx o n
  | .glob d o => globRead w d o n

def placeWrite (w : Work) (ctx : Nat) (l : List Byte) : Place → Acc Unit
  | .host p va => hostWrite p va l
  | .loc o => ctxLocalWrite ctx o l
  | .glob d o => globWrite w d o l

/-! ### Context accesses -/

/-- A range cut at 4 KiB boundaries; `k` bounds the number of pieces. -/
def pagePieces : Nat → Nat → Nat → List (Nat × Nat)
  | 0, _, _ => []
  | k + 1, a, n =>
    if n = 0 then []
    else
      let m := min n (4096 - a % 4096)
      (a, m) :: pagePieces k (a + m) (n - m)

def pieces (a n : Nat) : List (Nat × Nat) := pagePieces (n / 4096 + 2) a n

/-- A read of a context address range. -/
def ctxRead (w : Work) (ctx va n : Nat) : Acc (List Byte) :=
  (pieces va n).foldlM (fun l p => do
    let x ← xlate w ctx p.1 false
    let d ← placeRead w ctx p.2 x
    pure (l ++ d)) []

/-- A write of a context address range. -/
def ctxWrite (w : Work) (ctx va : Nat) (l : List Byte) : Acc Unit :=
  (pieces va l.length).foldlM (fun (_ : Unit) p => do
    let x ← xlate w ctx p.1 true
    placeWrite w ctx (slice (p.1 - va) p.2 l) x) ()

/-- A little-endian number read from a context address. -/
def ctxReadNat (w : Work) (ctx va n : Nat) : Acc Nat := do
  let l ← ctxRead w ctx va n
  pure (ofLe l)

/-! ### Running work -/

/-- R332, R331: whether a need is a translation fault's. -/
def Need.isFault : Need → Bool
  | .hostRead .. | .gread .. | .gwrite .. | .memop .. | .bias .. => false
  | _ => true

/-- Whether the same need is already asked for by another waiter. -/
def needOpen (s : State) (n : Need) : Bool := s.io.waits.any fun x => x.need == n

/-- A piece of work waits; the request of its need goes out. -/
def addWait (w : Work) (n : Need) (s : State) : State :=
  let tag := s.io.nextTag
  let fresh := !needOpen s n
  let s := s.setIo { s.io with
    waits := (s.io.waits.filter fun x => x.work != w) ++ [⟨w, n, tag⟩]
    nextTag := tag + 1 }
  match n with
  | .ats p pg wr =>
    let s := count Reg.XLT_CNT_ATC_MISS s
    if fresh then s.setXlt { s.xlt with sent := s.xlt.sent ++ [.translate p pg (!wr)] } else s
  | .hostRead p a k =>
    let s := s.setHl { s.hl with reads := s.hl.reads ++ [⟨p, a, k, tag, hostForm s p (a / 4096) true false, hostPhys s p a⟩] }
    if s.hl.ats then s else count Reg.XLT_CNT_UNTRANSLATED s
  | .bias .. => count Reg.XLT_CNT_BIAS_HOLD s
  | .gread d o k => send d (.gread o k tag) s
  | .gwrite d o l => send d (.gwrite o tag l) s
  | .memop d m => send d (.memop { m with tag := tag }) s
  | _ => s

/-- Runs an access of a piece of work. Where it would wait and a failure is recorded for it, that wait has failed.
An access that must wait leaves the state as it was, with the wait entered. -/
def runAcc {α : Type} (w : Work) (a : Acc α) (ok : α → State → State) (bad : Flt → State → State) (s : State) : State :=
  match a s with
  | .ok (x, s') => ok x (clearWork w s')
  | .error (.fail f s') => bad f (clearWork w s')
  | .error (.wait n s') =>
    match takeFailed w s' with
    | some (f, _) => bad f (clearWork w s)
    | none => addWait w n s

/-- Whether a piece of work waits. -/
def isWaiting (s : State) (w : Work) : Bool := s.io.waits.any fun x => x.work == w

/-- The need that a piece of work waits for. -/
def needOf (s : State) (w : Work) : Option Need := (s.io.waits.find? fun x => x.work == w).map (·.need)

/-- The waits of a need end with data; the works that waited, in order. -/
def takeWaits (p : Waiting → Bool) (s : State) : List Waiting × State :=
  (s.io.waits.filter p, s.setIo { s.io with waits := s.io.waits.filter fun x => !p x })

/-- An answer is kept for a piece of work. -/
def keepArrived (x : Waiting) (l : List Byte) (s : State) : State :=
  s.setIo { s.io with arrived := s.io.arrived ++ [⟨x.work, x.need, l⟩] }

/-- A failure is recorded for a piece of work. -/
def recordFail (w : Work) (f : Flt) (s : State) : State :=
  s.setIo { s.io with failed := s.io.failed ++ [(w, f)] }

end Sys2Proof.Machine
end

