-- ==== Sys2Proof/Machine/Memops.lean ====
section
/-!
DEFINITION. Memory-side operations at the Xylem units: codes, effects, failures, reduction groups (R175 to R180).
-/

namespace Sys2Proof.Machine

/-! ### Codes (R175) -/

/-- R175: target width of an operation, bit [5] of its code aside; reserved codes have none. -/
def memopWidth (op : Nat) : Option Nat :=
  match op with
  | 0x00 | 0x02 | 0x03 | 0x04 | 0x05 | 0x06 | 0x0E | 0x10 | 0x11 | 0x12 | 0x13 => some 4
  | 0x01 | 0x07 | 0x08 | 0x09 | 0x0A | 0x0B | 0x0C | 0x0D => some 8
  | 0x18 | 0x19 | 0x1A | 0x1B => some 64
  | _ => none

/-- R175: the operation of a code. -/
def memopOp (code : Nat) : Nat := code % 32

/-- R175: SWAP_64, CAS_64 and CAS_32 always fetch. -/
def memopSwaps (op : Nat) : Bool := op == 0x0C || op == 0x0D || op == 0x0E

/-- R175: whether the old value returns to the requester. -/
def memopFetches (code : Nat) : Bool := bit code 5 || memopSwaps (memopOp code)

/-- R175: the vector operations. -/
def memopVector (op : Nat) : Bool := decide (0x18 ≤ op)

/-- R179: the float adds, which form groups in Exact mode. -/
def memopFloatAdd (op : Nat) : Bool := op == 0x10 || op == 0x11 || op == 0x18 || op == 0x19

/-- R175: bytes of the operand: CAS_64 takes 16, CAS_32 8, the vector operations 64, the others the target width. -/
def memopOperandBytes (op : Nat) : Nat :=
  if op = 0x0D then 16 else if op = 0x0E then 8 else (memopWidth op).getD 8

/-- R176: the fault of a code that no request may name. -/
def memopCodeBad (code : Nat) : Bool :=
  (memopWidth (memopOp code)).isNone || (memopVector (memopOp code) && bit code 5) || decide (64 ≤ code)

/-- R176: the failure of an operation on a local offset. -/
def memopFault (code off : Nat) (exact : Bool) : Option Flt :=
  if memopCodeBad code || off % ((memopWidth (memopOp code)).getD 1) ≠ 0 then some .illegal
  else if !isHbm off then some .perm
  else if exact && memopFetches code then some .illegal
  else none

/-! ### Effects (R175, R178) -/

/-- R178: the smaller of two data, negative zero below positive zero; a NaN prevails. -/
def fxMin (a b : Fx) : Fx := if a.isNan || b.isNan then .nan else if b.ltZ a then b else a
/-- R178: the larger of two data. -/
def fxMax (a b : Fx) : Fx := if a.isNan || b.isNan then .nan else if a.ltZ b then b else a

/-- A lane operation over floating-point codes. -/
def fxOp (f : FloatFmt) (g : Fx → Fx → Fx) (t a : Nat) : Nat := f.encode (g (f.decode t) (f.decode a))

/-- A lane operation applied to lanes of `w` bytes. -/
def lanes (w : Nat) (g : Nat → Nat → Nat) (t a : List Byte) : List Byte :=
  ((List.range (t.length / w)).map fun i => leBytes w (g (leAt t (w * i) w) (leAt a (w * i) w))).flatten

/-- R175: the new contents of a target from its old contents and the operand. -/
def memopApply (op : Nat) (t a : List Byte) : List Byte :=
  let x := ofLe t
  let y := ofLe (a.take t.length)
  let put := fun v => leBytes t.length v
  match op with
  | 0x00 => put (x + y)
  | 0x01 => put (x + y)
  | 0x02 => put (min (x + y) 0xFFFFFFFF)
  | 0x03 => put (if sext y 32 < sext x 32 then y else x)
  | 0x04 => put (if sext x 32 < sext y 32 then y else x)
  | 0x05 => put (min x y)
  | 0x06 => put (max x y)
  | 0x07 => put (if sext y 64 < sext x 64 then y else x)
  | 0x08 => put (if sext x 64 < sext y 64 then y else x)
  | 0x09 => put (x &&& y)
  | 0x0A => put (x ||| y)
  | 0x0B => put (x ^^^ y)
  | 0x0C => put y
  | 0x0D => put (if x = leAt a 0 8 then leAt a 8 8 else x)
  | 0x0E => put (if x = leAt a 0 4 then leAt a 4 4 else x)
  | 0x10 => put (fxOp fp32 fp32.add x y)
  | 0x11 => lanes 2 (fxOp bf16 bf16.add) t a
  | 0x12 => put (fxOp fp32 fxMin x y)
  | 0x13 => put (fxOp fp32 fxMax x y)
  | 0x18 => lanes 4 (fxOp fp32 fp32.add) t a
  | 0x19 => lanes 2 (fxOp bf16 bf16.add) t a
  | 0x1A => lanes 4 (fun t a => (t + a) % 2 ^ 32) t a
  | 0x1B => lanes 4 (fxOp fp32 fxMax) t a
  | _ => t

/-! ### Application at the Xylem unit (R173, R177, R184, R185) -/

/-- The elements of a request applied to memory in order; the first one's old value is the answer. -/
def memopElems (op : Nat) (elems : List (Nat × List Byte)) (s : State) : State :=
  elems.foldl (fun s e => memWrite e.1 (memopApply op (memRead s e.1 ((memopWidth op).getD 0)) e.2) s) s

/-- R177, R185: one read-modify-write of a sector, refused on a poisoned one; the Canopy line is invalidated (R173). -/
def memopRun (m : MemReq) (s : State) : Except Flt Nat × State :=
  let op := memopOp m.code
  let w := (memopWidth op).getD 0
  let o := (m.elems.map (·.1)).headD 0
  let (bad, s) := meetErrors (o / 64 * 64) 64 s
  let key := channelOf o % 32
  let s := evt (133 + channelOf o / 32) 0x90 key 1 none s
  if bad then (.error .ecc, s)
  else (.ok (memNat s o (min w 8)), evt (133 + channelOf o / 32) 0x91 key 1 none (canInvalidate o (memopElems op m.elems s)))

/-! ### Reduction groups (R179, R180) -/

/-- R179: staging entries that the groups of a Xylem unit have reserved. -/
def stagingUsed (s : State) (ch : Nat) : Nat :=
  ((s.xyl.groups.filter fun g => channelOf (g.sector * 64) == ch).map (·.expected)).foldl (· + ·) 0

/-- Insertion in ascending contrib order. -/
def stageIn (m : MemReq) : List MemReq → List MemReq
  | [] => [m]
  | x :: xs => if m.contrib < x.contrib then m :: x :: xs else x :: stageIn m xs

/-- The outcome of requests. -/
abbrev MemOut := List (MemReq × Except Flt Nat)

/-- R179: every contribution of a complete group, in ascending contrib order. -/
def groupRun (g : RedGroup) (s : State) : MemOut × State :=
  let s := s.setXyl { s.xyl with groups := s.xyl.groups.erase g }
  g.staged.foldl (fun (acc : MemOut × State) m =>
    let (r, s) := memopRun m acc.2
    (acc.1 ++ [(m, r)], s)) ([], s)

/-- The sector of a request. -/
def MemReq.sector (m : MemReq) : Nat := (m.elems.map (·.1)).headD 0 / 64

/-- R179: whether a request is the first contribution of its group. -/
def redGroupOf (s : State) (m : MemReq) : Option RedGroup :=
  s.xyl.groups.find? fun g => g.part == m.part && g.group == m.group && g.sector == m.sector

/-- R179, R180: an Exact-mode float add joins its group. -/
def memopStage (m : MemReq) (s : State) : MemOut × State :=
  if m.expected = 0 || 256 < m.expected then ([(m, .error .illegal)], s)
  else match redGroupOf s m with
  | some g =>
    if g.expected ≤ m.contrib || g.expected ≠ m.expected || g.code ≠ memopOp m.code ||
        g.staged.any (fun x => x.contrib == m.contrib) then ([(m, .error .illegal)], s)
    else
      let g' := { g with staged := stageIn m g.staged }
      let s' := s.setXyl { s.xyl with groups := updFirst (fun x => x == g) (fun _ => g') s.xyl.groups }
      if g'.staged.length = g.expected then groupRun g' s' else ([], s')
  | none =>
    if m.expected ≤ m.contrib then ([(m, .error .illegal)], s)
    else if 1024 < stagingUsed s (channelOf (m.sector * 64)) + m.expected then
      ([], s.setXyl { s.xyl with waiting := s.xyl.waiting ++ [m] })
    else
      let g : RedGroup := ⟨m.part, m.group, m.sector, m.expected, memopOp m.code, s.now, [m]⟩
      let s' := s.setXyl { s.xyl with groups := s.xyl.groups ++ [g] }
      if m.expected = 1 then groupRun g s' else ([], s')

/-- R175 to R180: a request reaches its Xylem unit. -/
def memopReach (m : MemReq) (s : State) : MemOut × State :=
  match m.elems.findSome? fun e => memopFault m.code e.1 m.exact with
  | some f => ([(m, .error f)], s)
  | none =>
    if m.exact && memopFloatAdd (memopOp m.code) then memopStage m s
    else
      let (r, s) := memopRun m s
      ([(m, r)], s)

/-- A request sets out for its Xylem unit. -/
def memopIssue (m : MemReq) (s : State) : State := s.setXyl { s.xyl with reqs := s.xyl.reqs ++ [m] }

/-- A request goes to another device (R452). -/
def memopRemote (dev : Nat) (m : MemReq) (s : State) : State :=
  let tag := s.io.nextTag
  let s := s.setIo { s.io with nextTag := tag + 1 }
  let e := m.elems.headD (0, [])
  let s := s.setXyl { s.xyl with remote := s.xyl.remote ++ [(tag, m)] }
  send dev (.memop { offset := e.1, code := m.code, exact := m.exact, part := m.part, group := m.group, contrib := m.contrib,
                     expected := m.expected, tag := tag, operand := e.2 }) s

/-- Whether an operation of a requester is still on its way. -/
def memopOpen (s : State) (p : MemReq → Bool) : Bool :=
  s.xyl.reqs.any p || (s.xyl.remote.any fun x => p x.2) || s.xyl.waiting.any p || s.xyl.groups.any fun g => g.staged.any p

end Sys2Proof.Machine
end

