-- ==== Sys2Proof/Machine/Desc.lean ====
section
/-!
DEFINITION. The DMA descriptor: its fields (R342), the malformed ones (R344 to R346), the byte transforms, and the status word (R347).
-/

namespace Sys2Proof.Machine

/-- Word `i` of a descriptor. -/
def Desc.word (d : Desc) (i : Nat) : Nat := d.words.getD i 0
def Desc.op (d : Desc) : Nat := bits (d.word 0) 3 0
def Desc.barrier (d : Desc) : Bool := bit (d.word 0) 4
def Desc.notify (d : Desc) : Bool := bit (d.word 0) 5
def Desc.crcSel (d : Desc) : Nat := bits (d.word 0) 7 6
def Desc.crcSide (d : Desc) : Bool := bit (d.word 0) 8
def Desc.crcStore (d : Desc) : Bool := bit (d.word 0) 9
def Desc.srcGs (d : Desc) : Bool := bit (d.word 0) 10
def Desc.dstGs (d : Desc) : Bool := bit (d.word 0) 11
def Desc.dstRing (d : Desc) : Bool := bit (d.word 0) 12
def Desc.chainCond (d : Desc) : Nat := bits (d.word 0) 14 13
def Desc.src (d : Desc) : Nat := d.word 1
def Desc.dst (d : Desc) : Nat := d.word 2
def Desc.length (d : Desc) : Nat := bits (d.word 3) 28 0
def Desc.params (d : Desc) : Nat := d.word 4
def Desc.chainAddr (d : Desc) : Nat := d.word 5
def Desc.tag (d : Desc) : Nat := bits (d.word 7) 63 32

/-- R345: fields of the MEMOP parameters. -/
def Desc.memCode (d : Desc) : Nat := bits d.params 5 0
def Desc.memGroup (d : Desc) : Nat := bits d.params 23 8
def Desc.memContrib (d : Desc) : Nat := bits d.params 39 24
def Desc.memExpected (d : Desc) : Nat := bits d.params 48 40

/-- R346: fields of the TRANSPOSE parameters. -/
def Desc.trW (d : Desc) : Nat := 2 ^ bits d.params 1 0
def Desc.trCode (d : Desc) : Nat := bits d.params 12 4
def Desc.trRec (d : Desc) : Nat := bits d.params 24 16

/-- R344: a MEMOP or TRANSPOSE constraint fails. -/
def Desc.paramsBad (d : Desc) : Bool :=
  if d.op = 2 then
    bit d.memCode 5 || (memopWidth d.memCode).isNone || memopSwaps d.memCode ||
      d.length % ((memopWidth d.memCode).getD 1) != 0 || bits d.params 7 6 != 0 || bits d.params 63 49 != 0
  else if d.op = 3 then
    d.trCode == 0 || decide (256 < d.trCode) || d.trCode % d.trW != 0 || decide (d.trRec < d.trCode) || decide (256 < d.trRec) ||
      d.length % (max d.trRec 1) != 0 || bits d.params 3 2 != 0 || bits d.params 15 13 != 0 || bits d.params 63 25 != 0
  else d.params != 0

/-- R343, R364: bytes of a stored CRC after the data. -/
def Desc.storeBytes (d : Desc) : Nat := if d.crcStore then crcBytes d.crcSel else 0

/-- R344: whether a descriptor is malformed; `grove` says that a grove DMA engine holds it. -/
def Desc.malformed (d : Desc) (grove : Bool) : Bool :=
  decide (3 < d.op) || d.crcSel == 3 || bits (d.word 0) 63 15 != 0 || bits (d.word 3) 63 29 != 0 ||
  d.length == 0 || decide (268435456 < d.length) ||
  (!grove && (d.srcGs || d.dstGs || d.dstRing)) ||
  (d.dstRing && (d.dstGs || d.crcStore || d.op == 2)) ||
  (d.srcGs && d.op != 1 && decide (0x400000 < d.src + d.length)) ||
  (d.dstGs && decide (0x400000 < d.dst + d.length + d.storeBytes)) ||
  (d.chainCond == 0 && d.chainAddr != 0) ||
  (d.chainCond != 0 && (d.chainAddr % 16 != 0 || !bit d.chainAddr 56)) ||
  (d.crcSel == 0 && (d.crcSide || d.crcStore)) ||
  (d.crcSel != 0 && ((d.op == 1 && !d.crcSide) || (d.op == 2 && d.crcSide))) ||
  bits (d.word 7) 31 18 != 0 ||
  d.paramsBad

/-- R346: packed codes of one record from its bit planes. -/
def transposeRec (w cb : Nat) (l : List Byte) : List Byte :=
  let g := 8 * cb / w
  let plane := cb / w
  let codes := (List.range g).map fun i =>
    (List.range w).foldl (fun c p => c + b2n (bit ((l.getD (p * plane + i / 8) 0).toNat) (i % 8)) * 2 ^ p) 0
  packCodes w codes ++ l.drop cb

/-- R346: every record of a run of bytes. -/
def transposeAll : Nat → Nat → Nat → Nat → List Byte → List Byte
  | 0, _, _, _, _ => []
  | n + 1, w, cb, rb, l => transposeRec w cb (l.take rb) ++ transposeAll n w cb rb (l.drop rb)

/-- R343: bytes that a chunk of source bytes becomes; for FILL the pattern from byte `i`. -/
def Desc.transform (d : Desc) (i n : Nat) (l : List Byte) : List Byte :=
  if d.op = 1 then (List.range n).map fun j => BitVec.ofNat 8 (d.src >>> (8 * ((i + j) % 8)))
  else if d.op = 3 then transposeAll (l.length / max d.trRec 1) d.trW d.trCode d.trRec l
  else l

/-- R347: the status word. -/
def Desc.statusWord (d : Desc) (status fault : Nat) (refused : Bool) : Nat :=
  status + fault * 2 ^ 8 + 2 ^ 16 + b2n refused * 2 ^ 17 + d.tag * 2 ^ 32

/-- A descriptor read from 64 bytes. -/
def descOf (at_ : Nat) (l : List Byte) (token : Option Nat) : Desc :=
  { at_ := at_, words := (List.range 8).map fun i => leAt l (8 * i) 8, token := token }

/-! ### The engines' queues -/

def bulkOf (s : State) (n : Nat) : Bulk := mget ({} : Bulk) s.dma.bulk n
def setBulk (n : Nat) (b : Bulk) (s : State) : State := s.setDma { s.dma with bulk := mset ({} : Bulk) s.dma.bulk n b }
def gdmaOf (s : State) (k : Nat) : Gdma := mget ({} : Gdma) s.dma.gdma k
def setGdma (k : Nat) (g : Gdma) (s : State) : State := s.setDma { s.dma with gdma := mset ({} : Gdma) s.dma.gdma k g }

/-- R354: entries of a channel's ring. -/
def Bulk.size (b : Bulk) : Nat := 16 * 2 ^ b.ringLog

/-- R356: descriptors given to a channel and not completed. -/
def Bulk.outstanding (b : Bulk) : Nat := (b.tail + b.size - b.head) % b.size

end Sys2Proof.Machine
end

