-- ==== Sys2Proof/Machine/Complete.lean ====
section
/-!
DEFINITION. The start and the end of a command: the state machine of enables and disables (R43 to R46), chain slots (R353, R392),
completion records (R387 to R390) and the undeliverable-completion log (R406, R407).
-/

namespace Sys2Proof.Machine

/-! ### Enables and disables (R43) -/

/-- What R43 makes of an enable. -/
inductive EnableAct where
  | carryOut | okNow | deferred
  deriving DecidableEq, Repr

/-- R43: an enable arrives. The function's state becomes ENABLED only when the enable has been carried out. -/
def fnEnable (fn : Fn) (c : Cmd) : Fn × EnableAct :=
  match fn.state with
  | .disabled => (fn, .carryOut)
  | .enabled => (fn, .okNow)
  | .draining => ({ fn with state := .drainingDeferred, deferred := [c] }, .deferred)
  | .drainingDeferred => ({ fn with deferred := fn.deferred ++ [c] }, .deferred)

/-- What R43 makes of a disable: nothing to do, a shut-down that starts, or one that it joins while deferred enables are cancelled. -/
inductive DisableAct where
  | okNow
  | start
  | joins (cancelled : List Cmd)
  deriving DecidableEq, Repr

/-- R43: a disable arrives. -/
def fnDisable (fn : Fn) (c : Cmd) : Fn × DisableAct :=
  match fn.state with
  | .disabled => (fn, .okNow)
  | .enabled => ({ fn with state := .draining, disables := [c] }, .start)
  | .draining => ({ fn with disables := fn.disables ++ [c] }, .joins [])
  | .drainingDeferred => ({ state := .draining, deferred := [], disables := fn.disables ++ [c] }, .joins fn.deferred)

/-! ### Started commands (R378, R380) -/

def isStarted (s : State) (c : Cmd) : Bool := s.crn.started.any fun x => x.cmd == c

/-- R517: the context that a command's events belong to; a manager packet belongs to none. -/
def eventCtx (c : Cmd) : Option Nat :=
  match c.src with
  | .mgr _ => none
  | _ => some c.ctx

/-- R378, R431: a command starts: it is listed, counted as an event, traced, and its context has made progress. -/
def startCmd (c : Cmd) (s : State) : State :=
  if isStarted s c then s
  else
    let cls := cmdClass s c
    let s := count Reg.CRN_CNT_PACKETS (s.setCrn { s.crn with started := s.crn.started ++ [⟨c, s.now⟩] })
    let s := evt 129 0x50 (c.opcode + cls * 512) 1 (eventCtx c) s
    progress c.ctx (emit 0x01 129 c.ctx c.seq (c.opcode + cls * 256) 0 s)

/-! ### The undeliverable-completion log (R406, R407) -/

def uclBase (s : State) : Nat := bits (regGet s Reg.CRN_UCL_BASE) 45 0
def uclProd (s : State) : Nat := bits (regGet s Reg.CRN_UCL_STAT) 15 0
def uclCons (s : State) : Nat := bits (regGet s Reg.CRN_UCL_CONS) 15 0

/-- R406, R407: a record is diverted for a reason; `va` is the ring entry it was to be written to. -/
def divert (r : Record) (reason va : Nat) (s : State) : State :=
  let s := regOr (Reg.CRN_UCL_CTX (r.ctx / 64)) (1 <<< (r.ctx % 64)) s
  if (uclProd s + 1) % 65536 = uclCons s then
    count Reg.CRN_CNT_UCL_DROP (raiseVector 4 (regOr Reg.CRN_UCL_STAT (1 <<< 16) s))
  else
    let entry := r.bytes false ++ leBytes 8 (reason + r.ctx * 2 ^ 32) ++ leBytes 8 (if reason = 3 then 0 else va) ++
      leBytes 8 s.now ++ leBytes 8 0
    let s := memWrite (uclBase s + 64 * uclProd s) entry s
    let s := regField Reg.CRN_UCL_STAT 15 0 ((uclProd s + 1) % 65536) s
    let s := match s.hl.loss with
      | some l => s.setHl { s.hl with loss := some { l with diverted := l.diverted + 1 } }
      | none => s
    raiseVector reason (count Reg.CRN_CNT_DIVERTED s)

/-! ### Records (R387 to R390) -/

/-- R332, R388: a record joins those that wait for its context's ring; without the context it is diverted with reason 3,
and during a host-loss reset with reason 2 (R492). -/
def pushRecord (p : Pend) (s : State) : State :=
  if s.hl.loss.isSome then (if p.silent then s else divert p.record 2 0 s)
  else match ctxOf s p.record.ctx with
  | some x =>
    if x.state == .none then (if p.silent then s else divert p.record 3 0 s)
    else updCtx x.id (fun x => { x with records := x.records ++ [p] }) s
  | none => if p.silent then s else divert p.record 3 0 s

/-- R387: the record of a command's end. -/
def recordOf (s : State) (f : Fin) (refused : Bool) : Record :=
  { seq := f.cmd.seq, ctx := f.cmd.ctx, status := f.status, fault := f.fault, ftime := s.now, result := f.result,
    cls := cmdClass s f.cmd, opcode := f.cmd.opcode, second := f.second, chainRefused := refused }

/-- R387, R390: a record that belongs to no command: a DMA notify or a ring-entry failure. -/
def plainRecord (s : State) (ctx seq status fault result opcode : Nat) : Pend :=
  { record := { seq := seq, ctx := ctx, status := status, fault := fault, ftime := s.now, result := result, cls := 7, opcode := opcode },
    irq := decide (0x10 ≤ status) }

/-- R390: a message of the context's vector, or one owed at the end of the holdoff. -/
def ctxVector (ctx : Nat) (s : State) : State :=
  let x := getCtx s ctx
  if x.cpl.held then updCtx ctx (fun x => { x with cpl := { x.cpl with owed := true } }) s
  else
    raiseVector x.cpl.vector
      (if x.cpl.holdoff = 0 then s else updCtx ctx (fun x => { x with cpl := { x.cpl with held := true } }) s)

/-! ### Chain slots (R353, R392) -/

/-- A context's node holds a Grove (R424). -/
def nodeHolds (s : State) (ctx k : Nat) : Bool :=
  s.sched.nodes.any fun n => n.ctx == ctx && n.state != .waiting && n.state != .saved && n.groves.contains k

/-- R353: ADVANCE. -/
def chainAdvance (ctx n cnt : Nat) (s : State) : Bool × State :=
  let b := bulkOf s n
  if b.fn.state != .enabled || b.ctx != some ctx || cnt = 0 || 65535 < cnt || b.size ≤ cnt + b.outstanding then (true, s)
  else (false, setBulk n { b with tail := (b.tail + cnt) % b.size } s)

/-- R353: POST; the posted descriptor is copied and takes no token. -/
def chainPost (ctx k o : Nat) (s : State) : Bool × State :=
  let g := gdmaOf s k
  let d := descOf o (memRead s (gsBase k + o) 64) none
  if !bit (ctxPart s ctx).groves k || 16 ≤ g.queue.length || g.disabled || !nodeHolds s ctx k || d.malformed true ||
      o % 64 ≠ 0 || 0x400000 < o + 64 then (true, s)
  else (false, setGdma k { g with queue := g.queue ++ [d] } s)

/-- R392: RING. -/
def chainRing (ctx q units : Nat) (s : State) : Bool × State :=
  let r := (getCtx s ctx).rings.getD q ({} : Ring)
  let size := 2 ^ r.sizeLog
  if 5 < q || !r.enable || units = 0 || size ≤ (r.tail + size - r.head) % size + units then (true, s)
  else (false, updCtx ctx (fun x => { x with rings := x.rings.set q { r with tail := (r.tail + units) % size } }) s)

/-- R392: ADD64 at a place: refused in host memory or where R176 fails. -/
def chainAdd (w : Work) (ctx v : Nat) (x : Place) : Acc Bool := do
  let m : MemReq := { who := .chain ctx, ctx := ctx, code := 1, elems := [] }
  match x with
  | .host .. => pure true
  | .loc o => fun s =>
    match memopFault 1 o false with
    | some _ => .ok (true, s)
    | none => match memopRun { m with elems := [(o, leBytes 8 v)] } s with
      | (.ok _, s) => .ok (false, s)
      | (.error _, s) => .ok (true, s)
  | .glob d o => fun s =>
    if (memopFault 1 o false).isSome then .ok (true, s)
    else if s.fab.devId == some d then
      if !sharedRange s o 8 then .ok (true, count Reg.XLT_CNT_REMOTE_REFUSED s)
      else match memopRun { m with elems := [(o, leBytes 8 v)] } s with
        | (.ok _, s) => .ok (false, s)
        | (.error _, s) => .ok (true, s)
    else
      let need : Need := .memop d { offset := o, code := 1, operand := leBytes 8 v }
      if s.io.arrived.any fun a => a.work == w && a.need == need then .ok (false, s)
      else if reachable s d then .error (.wait need s) else .ok (true, s)

/-- R353, R392: reads a chain slot and acts on it; the answer says whether the action was refused.
The flag of the pair says that an action was due. -/
def chainAcc (w : Work) (ctx addr : Nat) : Acc (Bool × Bool) := do
  if !bit addr 56 then pure (true, true)
  else
    let l ← ctxRead w ctx addr 16
    let w0 := leAt l 0 8
    let w1 := leAt l 8 8
    match bits w0 3 0 with
    | 0 => pure (false, false)
    | 1 => fun s => let r := chainAdvance ctx (bits w0 9 4) (bits w0 63 32) s; .ok ((true, r.1), r.2)
    | 2 => fun s => let r := chainPost ctx (bits w0 16 10) (bits w1 21 0) s; .ok ((true, r.1), r.2)
    | 4 => do
      ctxWrite w ctx (bits w0 57 4 * 8) (leBytes 8 w1)
      pure (true, false)
    | 5 => do
      let x ← xlate w ctx (bits w0 57 4 * 8) true
      let r ← chainAdd w ctx w1 x
      pure (true, r)
    | 6 => fun s => let r := chainRing ctx (bits w0 6 4) (bits w0 63 32) s; .ok ((true, r.1), r.2)
    | _ => pure (true, true)

/-- R373, R342: whether a chain condition matches a status. -/
def chainFires (cond status : Nat) : Bool :=
  match cond with
  | 0 => false
  | 1 => status == stOk
  | 2 => status != stOk
  | _ => true

/-- R391: counts of a chain action taken or refused. -/
def countChain (r : Bool × Bool) (s : State) : State :=
  if r.2 then count Reg.CRN_CNT_CHAIN_REFUSED s else if r.1 then count Reg.CRN_CNT_CHAIN s else s

/-! ### The end of a command of a ring or of the manager -/

/-- A command leaves the started ones; its end is counted as an event and traced (R516, R524). -/
def leaveStarted (f : Fin) (s : State) : State :=
  let t0 := ((s.crn.started.find? fun x => x.cmd == f.cmd).map (·.time)).getD s.now
  let s := s.setCrn { s.crn with
    started := s.crn.started.filter fun x => x.cmd != f.cmd
    finishing := s.crn.finishing.filter fun x => x.cmd != f.cmd }
  let s := if f.status = stBadPacket then count Reg.CRN_CNT_BAD_PACKET s else s
  let s := evt 129 0x51 ((s.now + 2 ^ 64 - t0) % 2 ^ 64) 1 (eventCtx f.cmd) s
  progress f.cmd.ctx (emit 0x02 129 f.cmd.ctx f.cmd.seq (f.status + f.fault * 256) f.result s)

/-- R381, R387, R390: the record of a ring's command goes to its context, that of a manager packet to the manager. -/
def endTop (f : Fin) (refused : Bool) (s : State) : State :=
  let r := recordOf s f refused
  let s := leaveStarted f s
  let silent := f.cmd.quiet && f.status == stOk
  match f.cmd.src with
  | .ring _ =>
    if silent && !f.cmd.irq then s
    else pushRecord { record := r, irq := f.cmd.irq || decide (0x10 ≤ f.status), silent := silent } s
  | .mgr d => if silent then s else send d (.cmdCpl r) s
  | .node .. => s

/-- R391: a command ends: its chain fires when its condition matches, then `endF` writes its end. -/
def runFinish (endF : Fin → Bool → State → State) (f : Fin) (s : State) : State :=
  if chainFires f.cmd.chainCond f.status then
    let s := s.setCrn { s.crn with finishing := (s.crn.finishing.filter fun x => x.cmd != f.cmd) ++ [f] }
    runAcc (.finish f.cmd) (chainAcc (.finish f.cmd) f.cmd.ctx f.cmd.chain)
      (fun r s => endF f r.2 (countChain r s)) (fun _ s => endF f true (countChain (true, true) s)) s
  else endF f false s

/-- The end of a command that no graph launch holds. -/
def finishTop (f : Fin) (s : State) : State := runFinish endTop f s

/-- A command that no graph launch holds completes. -/
def completeTop (c : Cmd) (status fault result : Nat) (s : State) : State := finishTop ⟨c, status, fault, result, false⟩ s

/-- R45: the second completion of a deferred enable. -/
def completeSecond (c : Cmd) (status fault result : Nat) (s : State) : State := finishTop ⟨c, status, fault, result, true⟩ s

/-- R43, R45: the outcome of an enable that is carried out: a fresh one gives it to every enable that joined. -/
def conclude (c : Cmd) (status fault result : Nat) (s : State) : State :=
  match s.crn.fresh.find? fun x => x.1 == c with
  | some (_, joined) =>
    let s := s.setCrn { s.crn with fresh := s.crn.fresh.filter fun x => x.1 != c }
    (c :: joined).foldl (fun s d => completeSecond d status fault result s) s
  | none => completeTop c status fault result s

/-- R43: the completions that a shut-down's end gives to its disables. -/
def concludeDisables (cs : List Cmd) (s : State) : State := cs.foldl (fun s d => completeTop d stOk 0 0 s) s

/-- R43: the second completions of deferred enables that a disable cancels. -/
def cancelDeferred (cs : List Cmd) (s : State) : State := cs.foldl (fun s d => completeSecond d stCancelled 0 0 s) s

/-- R44: deferred enables become one fresh enable: the first of them, with the others joined. -/
def beginFresh (cs : List Cmd) (s : State) : Option Cmd × State :=
  match cs with
  | [] => (none, s)
  | c :: joined => (some c, s.setCrn { s.crn with fresh := s.crn.fresh ++ [(c, joined)] })

end Sys2Proof.Machine
end

