-- ==== Sys2Proof/Machine/Graphs.lean ====
section
/-!
DEFINITION. Packets (R373 to R376, R382) and stored graphs (R395 to R399, R403 to R405).
-/

namespace Sys2Proof.Machine

/-! ### The opcode table (R382) -/

/-- R382: parameter count and permitted sources (ring, graph, manager) of an opcode. -/
def opInfo (op : Nat) : Option (Nat × Bool × Bool × Bool) :=
  match op with
  | 0x00 => some (0, true, true, true)
  | 0x01 => some (1, true, false, false)
  | 0x02 => some (2, true, true, false)
  | 0x03 => some (4, true, true, false)
  | 0x20 => some (3, true, false, false)
  | 0x21 => some (1, true, false, false)
  | 0x22 => some (3, true, false, false)
  | 0x40 => some (5, true, true, false)
  | 0x41 => some (2, true, false, false)
  | 0x42 => some (2, true, false, false)
  | 0x43 => some (2, true, false, false)
  | 0x44 => some (1, true, false, false)
  | 0x60 => some (5, true, true, false)
  | 0x61 => some (5, true, true, false)
  | 0x62 => some (3, true, false, false)
  | 0x63 => some (1, true, false, false)
  | 0x64 => some (3, true, false, false)
  | 0x65 => some (3, true, false, false)
  | 0x80 => some (2, true, true, false)
  | 0x81 => some (3, true, false, true)
  | 0x82 => some (3, true, false, false)
  | 0xA0 => some (6, true, false, true)
  | 0xA1 => some (2, true, false, true)
  | 0xA2 => some (4, true, true, false)
  | 0xA3 => some (4, true, true, false)
  | 0xC0 => some (5, true, false, true)
  | 0xC1 => some (1, true, false, true)
  | 0xC2 => some (3, true, false, true)
  | 0xC3 => some (4, true, false, true)
  | 0xE0 => some (1, true, false, true)
  | 0xE1 => some (4, true, false, true)
  | _ => none

/-- R373 to R376: where a packet was submitted. -/
inductive From where
  | ring
  | graph
  | manager (dev : Nat)
  deriving DecidableEq, Repr

/-- R382: whether a source may submit an opcode. -/
def From.may (f : From) (i : Nat × Bool × Bool × Bool) : Bool :=
  match f with
  | .ring => i.2.1
  | .graph => i.2.2.1
  | .manager _ => i.2.2.2

/-! ### The packet (R373, R374) -/

/-- Header fields of a packet's bytes. -/
def pkOpcode (l : List Byte) : Nat := leAt l 0 1
def pkFence (l : List Byte) : Bool := bit (leAt l 1 1) 0
def pkQuiet (l : List Byte) : Bool := bit (leAt l 1 1) 1
def pkIrq (l : List Byte) : Bool := bit (leAt l 1 1) 2
def pkCond (l : List Byte) : Nat := bits (leAt l 1 1) 4 3
def pkLength (l : List Byte) : Nat := leAt l 2 2
def pkSeq (l : List Byte) : Nat := leAt l 4 4
def pkIndirect (l : List Byte) : Nat := leAt l 8 2
/-- R376: a reserved header field is nonzero. -/
def pkReserved (l : List Byte) : Bool := bits (leAt l 1 1) 7 5 != 0 || leAt l 10 6 != 0

/-- R374: P′ of an opcode's parameter count. -/
def pkParams (p : Nat) (l : List Byte) : Nat := p + b2n (pkCond l != 0)

/-- R374: byte at which inline data starts. -/
def pkInline (p' : Nat) : Nat := roundUp (16 + 8 * p') 16

/-- Parameter `i` as stored in the packet. -/
def pkParam (l : List Byte) (i : Nat) : Nat := leAt l (16 + 8 * i) 8

/-- R376, R381, R397: an indirect parameter's stored address is permitted. -/
def indirectOk (f : From) (a : Nat) : Bool :=
  match f with
  | .ring => bit a 56 && a % 8 == 0
  | .graph => if bit a 63 then bits a 62 32 == 0 && a % 8 == 0 else bit a 56 && a % 8 == 0
  | .manager d => bits a 63 62 == 1 && bits a 61 46 == d && a % 8 == 0

/-- R376, R381: the checks of a packet, those of the command itself apart. -/
def packetOk (f : From) (l : List Byte) : Bool :=
  match opInfo (pkOpcode l) with
  | none => false
  | some i =>
    let p' := pkParams i.1 l
    f.may i && decide (pkInline p' ≤ 16 * pkLength l) && decide (16 * pkLength l ≤ pkInline p' + 4096) &&
    !pkReserved l && decide (pkIndirect l < 2 ^ p') &&
    ((List.range p').all fun j => !bit (pkIndirect l) j || indirectOk f (pkParam l j)) &&
    (match f with
     | .manager _ => pkCond l == 0
     | _ => true)

/-- The command of a packet, its parameters as stored. -/
def packetCmd (src : Src) (ctx : Nat) (l : List Byte) : Cmd :=
  let p := ((opInfo (pkOpcode l)).map (·.1)).getD 0
  let p' := pkParams p l
  { src := src, ctx := ctx, seq := pkSeq l, opcode := pkOpcode l, quiet := pkQuiet l, irq := pkIrq l, chainCond := pkCond l,
    chain := if pkCond l = 0 then 0 else pkParam l p,
    params := (List.range p).map fun i => BitVec.ofNat 64 (pkParam l i),
    data := (l.take (16 * pkLength l)).drop (pkInline p') }

/-- One indirect parameter read (R375, R381). -/
def indirectRead (w : Work) (f : From) (ctx a : Nat) : Acc Nat := do
  accDo (count Reg.CRN_CNT_IND_READ)
  match f with
  | .manager d => do
    let l ← globRead w d (bits a 45 0) 8
    pure (ofLe l)
  | _ => ctxReadNat w ctx a 8

/-- R375: the command with its indirect parameters read; `arg` is the launch's arg_base (R397).
None when an address relative to it is not a device address. -/
def readIndirect (w : Work) (f : From) (arg mask : Nat) (c : Cmd) : Acc (Option Cmd) :=
  (maskBits (c.params.length + 1) mask).foldlM (fun (r : Option Cmd) j => do
    match r with
    | none => pure none
    | some c =>
      let a := if j < c.params.length then par c j else c.chain
      let rel := f == .graph && bit a 63
      let a := if rel then arg + bits a 31 0 else a
      if rel && (arg == 0 || !bit a 56) then pure none
      else do
        let v ← indirectRead w f c.ctx a
        pure (some (if j < c.params.length then { c with params := c.params.set j (BitVec.ofNat 64 v) } else { c with chain := v })))
    (some c)

/-! ### Graph images (R395 to R398) -/

/-- A parsed graph image. -/
structure GImage where
  seed : Nat
  nodes : List GNode
  slots : List (Nat × Nat × Nat)
  packets : List Byte
  bytes : Nat
  deriving DecidableEq, Repr

/-- R395: fields of an image's header. -/
def giNodes (h : List Byte) : Nat := bits (leAt h 0 8) 12 0
def giSlots (h : List Byte) : Nat := bits (leAt h 0 8) 23 13
def giBytes (h : List Byte) : Nat := bits (leAt h 0 8) 63 32
/-- Bytes of an image. -/
def giSize (h : List Byte) : Nat := 64 + 32 * giNodes h + 16 * giSlots h + giBytes h

/-- R395: the checks of the header. -/
def giHeaderOk (h : List Byte) : Bool :=
  decide (1 ≤ giNodes h) && decide (giNodes h ≤ 4096) && decide (giSlots h ≤ 1024) && giBytes h % 16 == 0 &&
  decide (giBytes h ≤ 16777216) && bits (leAt h 0 8) 31 24 == 0 && leAt h 16 48 == 0

/-- R396: entry of node `n`, with whether it is well formed. -/
def giNode (l : List Byte) (n : Nat) : GNode × Bool :=
  let e := slice (64 + 32 * n) 32 l
  let w0 := leAt e 0 8
  let k := bits w0 27 24
  let preds := (List.range 8).map fun i => leAt e (8 + 2 * i) 2
  (⟨bits w0 23 0, preds.take k⟩,
    decide (k ≤ 8) && bits w0 63 28 == 0 && leAt e 24 8 == 0 && ((preds.take k).all fun p => decide (p < n)) &&
    ((preds.drop k).all fun p => p == 0))

/-- The bytes of a node's packet in a packet area. -/
def nodePacket (packets : List Byte) (n : GNode) : List Byte :=
  let l := packets.drop (16 * n.off)
  l.take (16 * max 1 (pkLength l))

/-- R397: a node's packet lies in the packet area and passes its checks. -/
def nodePacketOk (packets : List Byte) (n : GNode) : Bool :=
  let l := packets.drop (16 * n.off)
  decide (16 ≤ l.length) && decide (1 ≤ pkLength l) && decide (pkLength l ≤ 265) && decide (16 * pkLength l ≤ l.length) &&
  packetOk .graph l

/-- R398: P′ of a node's packet. -/
def nodeParams (packets : List Byte) (n : GNode) : Nat :=
  let l := nodePacket packets n
  pkParams (((opInfo (pkOpcode l)).map (·.1)).getD 0) l

/-- R398: a slot entry and whether it is well formed. -/
def giSlotOk (nodes : List GNode) (packets : List Byte) (w0 : Nat) : Bool :=
  match nodes[bits w0 11 0]? with
  | none => false
  | some n => bits w0 63 16 == 0 && decide (bits w0 15 12 < nodeParams packets n) &&
      !bit (pkIndirect (nodePacket packets n)) (bits w0 15 12)

/-- R395 to R399: an image parsed, or the first failing node (0xFFFF: the header or the slot table). -/
def parseImage (l : List Byte) : Except Nat GImage :=
  if !giHeaderOk l then .error 0xFFFF
  else
    let es := (List.range (giNodes l)).map (giNode l)
    let at_ := 64 + 32 * giNodes l
    let packets := slice (at_ + 16 * giSlots l) (giBytes l) l
    let nodes := es.map (·.1)
    match (List.range (giNodes l)).find? fun n =>
        !((es.map (·.2)).getD n false) || !nodePacketOk packets (nodes.getD n ⟨0, []⟩) with
    | some n => .error n
    | none =>
      let ss := (List.range (giSlots l)).map fun i => (leAt l (at_ + 16 * i) 8, leAt l (at_ + 16 * i + 8) 8)
      let keys := ss.map fun p => bits p.1 15 0
      if ss.all (fun p => giSlotOk nodes packets p.1) && decide keys.Nodup then
        .ok ⟨leAt l 8 8, nodes, ss.map fun p => (bits p.1 11 0, bits p.1 15 12, p.2), packets, giSize l⟩
      else .error 0xFFFF

/-! ### Graph space and generations (R399, R403, R405) -/

def graphOf (s : State) (ctx g : Nat) : Option Graph := (getCtx s ctx).graphs.find? fun x => x.id == g

/-- A graph of a context, put in place of the one with its ID. -/
def putGraph (ctx : Nat) (g : Graph) (s : State) : State :=
  updCtx ctx (fun x => { x with graphs := g :: x.graphs.filter fun y => y.id != g.id }) s

def dropGraph (ctx g : Nat) (s : State) : State := updCtx ctx (fun x => { x with graphs := x.graphs.filter fun y => y.id != g }) s

/-- Pages of graph space in use: every page that some generation holds. -/
def pagesUsed (s : State) : Nat :=
  ((s.sched.ctxs.flatMap fun x => x.graphs.flatMap fun g => g.gens.flatMap (·.pages)).eraseDups).length

/-- R399: pages of graph space that are not in use. -/
def freePages (s : State) : Nat := 65536 - pagesUsed s

/-- `n` fresh page numbers. -/
def newPages (n : Nat) (s : State) : List Nat × State :=
  ((List.range n).map (· + s.crn.nextPage), s.setCrn { s.crn with nextPage := s.crn.nextPage + n })

/-- R405: a generation that a running launch pins. -/
def genPinned (s : State) (ctx g num : Nat) : Bool :=
  s.crn.launches.any fun l => l.cmd.ctx == ctx && l.graph == g && l.gen == num

/-- R405: the generations of a graph that stay: the current one while the graph is ENABLED, and those pinned. -/
def liveGens (s : State) (ctx : Nat) (g : Graph) : List Gen :=
  g.gens.filter fun n => (n.num == g.cur && g.fn.state == .enabled) || genPinned s ctx g.id n.num

/-- R399: the whole image, header first. -/
def imageRead (w : Work) (ctx a : Nat) : Acc (List Byte) := do
  let h ← ctxRead w ctx a 64
  if giHeaderOk h then
    let l ← ctxRead w ctx (a + 64) (giSize h - 64)
    pure (h ++ l)
  else pure h

/-- R43: a graph whose enable failed is DISABLED again; it leaves the list. -/
def storeFail (c : Cmd) (g status fault result : Nat) (s : State) : State :=
  conclude c status fault result (dropGraph c.ctx g s)

/-- R399: STORE_GRAPH carried out with its image read. -/
def storeImage (c : Cmd) (g : Nat) (l : List Byte) (s : State) : State :=
  match parseImage l with
  | .error n => storeFail c g stBadPacket 0 n s
  | .ok im =>
    let n := (im.bytes + 4095) / 4096
    if freePages s < n then storeFail c g stNoResource 0 0 s
    else
      let (ps, s) := newPages n s
      conclude c stOk 0 (1 + n * 2 ^ 32)
        (putGraph c.ctx { id := g, fn := { state := .enabled }, cur := 1,
                          gens := [⟨1, im.seed, im.nodes, im.packets, ps⟩], slots := im.slots } s)

/-- R399: STORE_GRAPH carried out. A failed read is reported through `bad`. -/
def storeRun (bad : Cmd → Flt → State → State) (c : Cmd) (s : State) : State :=
  let g := bits (par c 0) 9 0
  if bits (par c 0) 63 10 ≠ 0 || par c 1 % 64 ≠ 0 then storeFail c g stBadPacket 0 0xFFFF s
  else
    runAcc (.cmd c) (imageRead (.cmd c) c.ctx (par c 1)) (storeImage c g) (fun f s => bad c f (dropGraph c.ctx g s)) s

/-- R405: generations that nothing holds are freed; a draining graph with none left finishes its shut-down (R43). -/
def freeGens (bad : Cmd → Flt → State → State) (ctx g : Nat) (s : State) : State :=
  match graphOf s ctx g with
  | none => s
  | some x =>
    let x := { x with gens := liveGens s ctx x }
    if x.fn.state == .enabled || x.fn.state == .disabled || !x.gens.isEmpty then putGraph ctx x s
    else
      let s := concludeDisables x.fn.disables (dropGraph ctx g s)
      match beginFresh x.fn.deferred s with
      | (none, s) => s
      | (some c, s) => storeRun bad c s

end Sys2Proof.Machine
end

