-- ==== Sys2Proof/Machine/Teardown.lean ====
section
/-!
DEFINITION. Teardown of a context (R418, R419) and the end of a command that raised a CONTAINED fault (R9, R10).
-/

namespace Sys2Proof.Machine

/-! ### Scrubs -/

/-- R171, R415: first byte and length of a context's scratch range. -/
def Ctx.scratchBase (x : Ctx) : Nat := 0x200000000000 + x.scratchFirst * 0x100000
def Ctx.scratchBytes (x : Ctx) : Nat := x.scratchMib * 0x100000

/-- R289: location and size of a channel's slot ring. -/
def HChan.word (c : HChan) (i : Nat) : Nat := c.header.getD i 0
def HChan.slots (c : HChan) : Nat := bits (c.word 0) 14 10
def HChan.slotBytes (c : HChan) : Nat := 64 * (bits (c.word 2) 14 0 + 1)
def HChan.ringBytes (c : HChan) : Nat := c.slots * c.slotBytes
def HChan.inCanopy (c : HChan) : Bool := bit (c.word 0) 9
/-- Local offset of the first byte of the ring. -/
def HChan.ringAt (c : HChan) (grove : Nat) : Nat :=
  if c.inCanopy then 0x200000000000 + bits (c.word 1) 30 0 else gsBase grove + bits (c.word 1) 30 0

/-- R506, R511: a probe run on a Grove is abandoned; its pair keeps waiting for it. -/
def probeAbandon (k : Nat) (s : State) : State :=
  if s.prb.runs.any fun r => r.grove == k then
    count Reg.INT_CNT_PROBE_ABANDON (s.setPrb { s.prb with runs := s.prb.runs.filter fun r => r.grove != k })
  else s

/-- R418: a Grove's stores, register files, banks, slots and rings are written to zero, and it is handed back. -/
def groveScrub (k : Nat) (s : State) : State :=
  let g := groveOf s k
  let s := g.chans.foldl (fun s p => if p.2.inCanopy then memZero (p.2.ringAt k) p.2.ringBytes s else s) s
  let s := setGdma k {} (setGrove k {} (memZero (gsBase k) 0x400000 (probeAbandon k s)))
  s.setXyl { s.xyl with reqs := s.xyl.reqs.filter fun m => match m.who with
    | .core j _ => j != k
    | .dma (.gdma j) => j != k
    | _ => true }

/-- Accesses of a Grove's engines are let go. -/
def groveClearWork (k : Nat) (s : State) : State :=
  s.setIo { s.io with
    waits := s.io.waits.filter fun x => x.work.grove? != some k
    arrived := s.io.arrived.filter fun x => x.work.grove? != some k
    failed := s.io.failed.filter fun x => x.1.grove? != some k
    rounds := s.io.rounds.filter fun x => x.1.grove? != some k }

/-- R331: the page requests of a saved Grove's engines stay with the context. -/
def keepPageWaits (ctx k : Nat) (s : State) : State :=
  s.setIo { s.io with waits := s.io.waits ++ (s.io.waits.filter fun x => x.work.grove? == some k && (match x.need with
    | .pri .. => true
    | _ => false)).map fun x => { x with work := .saved ctx } }

/-- R286, R293: ring IDs of a context lose their bindings to a Grove. -/
def unbindGrove (k : Nat) (s : State) : State :=
  s.setGro { s.gro with rings := s.gro.rings.map fun r => match r.bound with
    | some (j, _) => if j = k then { r with bound := none } else r
    | none => r }

/-! ### Outstanding work of a context -/

/-- Whether a piece of work belongs to a context and ends with it. -/
def Work.dies (ctx : Nat) : Work → Bool
  | .cmd c => c.ctx == ctx && (match c.src with | .mgr _ => false | _ => true)
  | .fetch c _ => c == ctx
  | .shadow c _ => c == ctx
  | .saved c => c == ctx
  | _ => false

/-- Whether a command belongs to a context and is ended by its teardown. -/
def cmdDies (ctx : Nat) (c : Cmd) : Bool :=
  c.ctx == ctx && (match c.src with | .mgr _ => false | _ => true)

/-- R359: deferred enables of the context leave a function; the function and the enables taken out. -/
def Fn.takeCtx (ctx : Nat) (fn : Fn) : Fn × List Cmd :=
  let rest := fn.deferred.filter fun c => !cmdDies ctx c
  ({ fn with
     deferred := rest
     state := if fn.state == .drainingDeferred && rest.isEmpty then .draining else fn.state
     disables := fn.disables.filter fun c => !cmdDies ctx c }, fn.deferred.filter (cmdDies ctx))

/-- R359: second completions with ST_TORN_DOWN. -/
def tornSecond (code : Nat) (cs : List Cmd) (s : State) : State :=
  cs.foldl (fun s c => completeSecond c stTornDown code 0 s) s

/-- R359: one bulk channel of the context stops: at once when it holds no descriptor, else at its boundary. -/
def tearBulk (ctx code n : Nat) (s : State) : State :=
  let b := bulkOf s n
  if b.ctx != some ctx || b.fn.state == .disabled then s
  else
    let (fn, cs) := b.fn.takeCtx ctx
    let s := if b.held.isNone then setBulk n {} (clearWork (.bulk n) s)
      else setBulk n { b with fn := { fn with state := .draining } } s
    tornSecond code cs s

/-- Deferred enables of tables, graphs and the trace that belong to the context (R43, R418). -/
def tearDeferred (ctx code : Nat) (s : State) : State :=
  let ts := s.tbl.fns.map fun t => (t, t.fn.takeCtx ctx)
  let s := s.setTbl { s.tbl with fns := ts.map fun p => { p.1 with fn := p.2.1 } }
  let s := tornSecond code (ts.flatMap fun p => p.2.2) s
  let (fn, cs) := s.obs.trace.fn.takeCtx ctx
  let s := tornSecond code cs (s.setTrace { s.obs.trace with fn := fn })
  let gs := (getCtx s ctx).graphs.map fun g => (g, g.fn.takeCtx ctx)
  let s := updCtx ctx (fun x => { x with graphs := gs.map fun p => { p.1 with fn := p.2.1 } }) s
  let s := tornSecond code (gs.flatMap fun p => p.2.2) s
  let xs := s.sched.ctxs.map fun x => (x, ({ state := .drainingDeferred, deferred := x.deferred, disables := x.destroys } : Fn).takeCtx ctx)
  let s := s.setSched { s.sched with ctxs := xs.map fun p =>
    { p.1 with
      deferred := p.2.1.deferred
      destroys := p.2.1.disables
      pinCmds := p.1.pinCmds.filter fun c => !cmdDies ctx c
      state := if p.1.state == .drainingDeferred && p.2.1.deferred.isEmpty then .draining else p.1.state } }
  tornSecond code (xs.flatMap fun p => p.2.2) s

/-- R418 step 2: the context's node is stopped without a save and its Groves are scrubbed. -/
def tearNode (ctx : Nat) (s : State) : State :=
  match nodeOf s ctx with
  | none => s
  | some n =>
    let ks := (n.groves.eraseDups).filter fun k => (groveOf s k).ctx == some ctx || s.sched.saving.contains k
    let s := if n.state == .softStop || n.state == .hardStop || ks.any (s.sched.saving.contains ·)
      then count Reg.CTX_CNT_SAVE_ABANDONED s else s
    let s := ks.foldl (fun s k => unbindGrove k (groveClearWork k (groveScrub k s))) s
    s.setSched { s.sched with
      nodes := s.sched.nodes.filter fun x => x.ctx != ctx
      saving := s.sched.saving.filter fun k => !ks.contains k }

/-- R418 step 4: every outstanding command of the context completes with ST_TORN_DOWN. -/
def tearCommands (ctx code : Nat) (s : State) : State :=
  let cs := (s.crn.started.map (·.cmd)).filter fun c => cmdDies ctx c && !(s.crn.finishing.any fun f => f.cmd == c)
  let s := s.setCrn { s.crn with
    launches := s.crn.launches.filter fun l => l.cmd.ctx != ctx
    fresh := s.crn.fresh.filter fun x => !cmdDies ctx x.1 }
  cs.foldl (fun s c => match c.src with
    | .ring _ => completeTop c stTornDown code 0 s
    | _ => leaveStarted ⟨c, stTornDown, code, 0, false⟩ s) s

/-- Engine work of the context's commands ends with them. -/
def tearEngines (ctx : Nat) (s : State) : State :=
  let s := s.setXch { s.xch with
    looks := s.xch.looks.filter fun l => !cmdDies ctx l.cmd
    batches := s.xch.batches.filter fun b => !cmdDies ctx b.cmd }
  let s := s.setTbl { s.tbl with
    upds := s.tbl.upds.filter fun u => !cmdDies ctx u.cmd
    waitRetire := s.tbl.waitRetire.filter fun c => !cmdDies ctx c }
  let s := s.setObs { s.obs with dumps := s.obs.dumps.filter fun d => d.ctx != ctx }
  let s := s.setFab { s.fab with armed := s.fab.armed.filter fun a => !cmdDies ctx a.sync }
  let s := s.setGro { s.gro with
    rings := s.gro.rings.filter fun r => r.ctx != ctx
    saved := s.gro.saved.filter fun g => g.ctx != ctx }
  s.setIo { s.io with
    waits := s.io.waits.filter fun x => !x.work.dies ctx
    arrived := s.io.arrived.filter fun x => !x.work.dies ctx
    failed := s.io.failed.filter fun x => !x.1.dies ctx
    rounds := s.io.rounds.filter fun x => !x.1.dies ctx }

/-- R434: a CTX_PIN that waits on a context which is torn down is refused. -/
def tearPins (ctx : Nat) (s : State) : State :=
  let cs := (getCtx s ctx).pinCmds
  cs.foldl (fun s c => completeTop c stNoResource 0 0 s) (updCtx ctx (fun x => { x with pinCmds := [] }) s)

/-- A context that a teardown can still reach. -/
def Ctx.tearable (x : Ctx) : Bool :=
  x.state == .out || x.state == .swappingIn || x.state == .resident || x.state == .evicting

/-- R418: the teardown of a context. `fault` caused it (none: CTX_DESTROY), and `state` is the context's state from now on. -/
def tear (ctx : Nat) (fault : Option Flt) (state : CtxState) (s : State) : State :=
  let x := getCtx s ctx
  let code := (fault.map Flt.code).getD 0
  let s := count Reg.CTX_CNT_TEARDOWN s
  let s := updCtx ctx (fun x => { x with state := state, teared := fault, pinned := false, pinMask := 0, reserveSlot := false }) s
  let s := tearNode ctx s
  let s := (List.range 64).foldl (fun s n => tearBulk ctx code n s) s
  let s := tearPins ctx (tearDeferred ctx code (tearEngines ctx (tearCommands ctx code s)))
  if x.state == .resident || x.state == .evicting || x.state == .swappingIn then memZero x.scratchBase x.scratchBytes s else s

/-- R419, R402: the record of the command that raised a fault; a graph node's goes to its launch. -/
def faultRecord (c : Cmd) (f : Flt) (result : Nat) (s : State) : State :=
  match c.src with
  | .node l n =>
    match s.crn.launches.find? fun x => x.id == l with
    | some g => completeTop g.cmd stFault f.code (n + g.gen * 2 ^ 32) (leaveStarted ⟨c, stFault, f.code, result, false⟩ s)
    | none => s
  | _ => conclude c stFault f.code result s

/-- R9, R419, R381: a command raised a CONTAINED fault. A manager packet tears no context down.
`block` is the block code of R500 and `addr` the faulting address. -/
def faultWith (block addr result : Nat) (c : Cmd) (f : Flt) (s : State) : State :=
  match c.src with
  | .mgr _ => conclude c stFault f.code result s
  | _ =>
    let s := emit 0x09 129 c.ctx f.code block addr s
    if (getCtx s c.ctx).tearable then tear c.ctx (some f) .faulted (faultRecord c f result s) else s

/-- The same with a result word of zero. -/
def faultAt (block addr : Nat) (c : Cmd) (f : Flt) (s : State) : State := faultWith block addr 0 c f s

/-- A command of Crown faults. -/
def faultCmd (c : Cmd) (f : Flt) (s : State) : State := faultAt 0x0B 0 c f s

/-- R273, R303: a fault in the work of a context's node; the node's command faults with it. -/
def faultNode (block addr ctx : Nat) (f : Flt) (s : State) : State :=
  match nodeOf s ctx with
  | some n => faultAt block addr n.cmd f s
  | none => if (getCtx s ctx).tearable then tear ctx (some f) .faulted (emit 0x09 129 ctx f.code block addr s) else s

end Sys2Proof.Machine
end

