-- ==== Sys2Proof/Machine/Dumps.lean ====
section
/-!
DEFINITION. Tensor dump buffers: their headers and records (R531, R532), the firing of a TAG (R271), and the close of a slot (R533).
-/

namespace Sys2Proof.Machine

/-- A write to a dump buffer; one that a fault or an absent span stops is lost. -/
def dumpPut (ctx va : Nat) (l : List Byte) (s : State) : State :=
  match ctxWrite (.dump 0) ctx va l s with
  | .ok ((), s) => s
  | .error _ => s

/-- R531: the buffer header. -/
def dumpHeader (d : DumpSlot) (closed : Bool) : List Byte :=
  words8 [0x01 + b2n d.fired * 2 ^ 8 + b2n closed * 2 ^ 9, d.tensor + d.step * 2 ^ 32, d.next, d.records % 2 ^ 32 + (d.dropped % 2 ^ 32) * 2 ^ 32,
    d.armTime, d.fireTime, 0, 0]

def sameSlot (d e : DumpSlot) : Bool := d.ctx == e.ctx && d.slot == e.slot

/-- A slot's new contents, in the part and in the buffer header. -/
def putDump (d : DumpSlot) (s : State) : State :=
  dumpPut d.ctx d.buf (dumpHeader d false) (s.setObs { s.obs with dumps := updFirst (sameSlot d) (fun _ => d) s.obs.dumps })

/-- R533: a slot closes; the ring command that armed it completes with the records written and dropped, or with bit 63 when none fired. -/
def closeDump (d : DumpSlot) (s : State) : State :=
  let s := s.setObs { s.obs with dumps := s.obs.dumps.filter fun x => !sameSlot d x }
  let s := dumpPut d.ctx d.buf (dumpHeader d true) s
  match d.cmd.src with
  | .ring _ => completeTop d.cmd stOk 0 (if d.fired then d.records % 2 ^ 32 + (d.dropped % 2 ^ 31) * 2 ^ 32 else 2 ^ 63) s
  | _ => s

/-- R532: bytes of a record. -/
def recordBytes (len : Nat) : Nat := 64 + 64 * ((len + 63) / 64)

/-- The launch that a Grove's node belongs to: its number for a graph, its sequence number and its node index (R531). -/
def dumpLaunch (s : State) (k : Nat) : Option Nat × Nat × Nat :=
  match groveNode s k with
  | some n => match n.cmd.src with
    | .node l i => (some l, ((s.crn.launches.find? fun x => x.id == l).map (·.cmd.seq)).getD n.cmd.seq, i)
    | _ => (none, n.cmd.seq, 0)
  | none => (none, 0, 0)

/-- R531: a record header. -/
def recordHeader (s : State) (k : Nat) (c : DumpCopy) (data : List Byte) (abandoned : Bool) : List Byte :=
  let g := groveOf s k
  let (_, seq, i) := dumpLaunch s k
  words8 [k + g.logical * 2 ^ 7 + (g.ctx.getD 0) * 2 ^ 14 + b2n abandoned * 2 ^ 63, c.tensor + c.step * 2 ^ 32, c.off + c.len * 2 ^ 32, c.time,
    seq % 2 ^ 32 + i * 2 ^ 32, crc64 data, recordBytes c.len, 0]

/-- R271: the armed slot that a TAG matches. -/
def dumpMatch (s : State) (ctx tensor step : Nat) : Option DumpSlot :=
  s.obs.dumps.find? fun d => d.ctx == ctx && d.tensor == tensor && d.step == step

/-- R532: a firing takes its space, or is dropped; the answer is the copy that runs. -/
def dumpFire (k : Nat) (d : DumpSlot) (off len : Nat) (s : State) : Option DumpCopy × State :=
  let (l, _, _) := dumpLaunch s k
  let d := if d.fired then d else { d with fired := true, launch := l, fireTime := s.now }
  if d.length < d.next + recordBytes len then
    (none, count Reg.OBS_CNT_DUMP_DROP (putDump { d with dropped := d.dropped + 1 } s))
  else
    (some { slot := d.slot, tensor := d.tensor, step := d.step, off := off, len := len, space := d.buf + d.next, time := s.now },
      putDump { d with next := d.next + recordBytes len } s)

/-- R274, R532: a copy in progress is abandoned; its space is kept and its header says so. -/
def abandonDump (k : Nat) (s : State) : State :=
  let g := groveOf s k
  match g.dump with
  | some c =>
    dumpPut (g.ctx.getD 0) c.space (recordHeader s k c (memRead s (gsBase k + c.off) c.len) true) (setGrove k { g with dump := none } s)
  | none => s

end Sys2Proof.Machine
end

