-- ==== Sys2Proof/Machine/Finish.lean ====
section
/-!
DEFINITION. The end of any command, of a ring, the manager or a graph node, and the end of a graph launch (R401, R402).
-/

namespace Sys2Proof.Machine

/-- Whether a status is a refusal (R11). -/
def isRefusal (st : Nat) : Bool := decide (0x10 ≤ st) && decide (st ≤ 0x1F)

/-- The stored generation that a launch runs. -/
def launchGen (s : State) (l : GLaunch) : Option Gen :=
  (graphOf s l.cmd.ctx l.graph).bind fun g => g.gens.find? fun n => n.num == l.gen

/-- R402: a launch is over when every node has completed, or one was refused and every started node has completed. -/
def GLaunch.over (l : GLaunch) (nodes : Nat) : Bool :=
  if l.bad.isSome then decide (l.started.length ≤ l.ended.length) else decide (nodes ≤ l.ended.length)

/-- R402: status, fault and result word of a launch that is over. -/
def GLaunch.outcome (l : GLaunch) : Nat × Nat × Nat :=
  match l.bad with
  | some (n, st, f) => (st, f, n + l.gen * 2 ^ 32)
  | none => (if l.ended.any fun p => p.2 == stPartial then stPartial else stOk, 0, l.gen + l.ended.length * 2 ^ 32)

/-- R533: an armed dump slot closes when the launch of its first firing completes; `launch` is none for a LAUNCH from a ring. -/
def closeDumps (ctx : Nat) (launch : Option Nat) (s : State) : State :=
  (s.obs.dumps.filter fun d => d.ctx == ctx && d.fired && d.launch == launch).foldl (fun s d => closeDump d s) s

/-- R402, R405: a launch that is over completes, and its generation is let go. -/
def launchCheck (id : Nat) (s : State) : State :=
  match s.crn.launches.find? fun x => x.id == id with
  | none => s
  | some l =>
    if !l.over (((launchGen s l).map (·.nodes.length)).getD 0) then s
    else
      let (st, f, r) := l.outcome
      let s := s.setCrn { s.crn with launches := s.crn.launches.filter fun x => x.id != id }
      freeGens faultCmd l.cmd.ctx l.graph (completeTop l.cmd st f r (closeDumps l.cmd.ctx (some id) s))

/-- R401, R402: a graph node ends, its chain fired. -/
def endNode (f : Fin) (l n : Nat) (s : State) : State :=
  let s := count Reg.CRN_CNT_NODES (leaveStarted f s)
  let s := s.setCrn { s.crn with launches := updFirst (fun x => x.id == l) (fun x =>
    { x with
      ended := x.ended ++ [(n, f.status)]
      bad := if x.bad.isNone && isRefusal f.status then some (n, f.status, f.fault) else x.bad }) s.crn.launches }
  launchCheck l s

/-- The end of a command whose chain has fired. -/
def endAny (f : Fin) (refused : Bool) (s : State) : State :=
  match f.cmd.src with
  | .node l n => endNode f l n s
  | _ => endTop f refused s

/-- R391: a started command ends with a status. A command that is not in progress has ended already. -/
def complete (c : Cmd) (status fault result : Nat) (s : State) : State :=
  if !isStarted s c || (s.crn.finishing.any fun f => f.cmd == c) then s
  else runFinish endAny ⟨c, status, fault, result, false⟩ s

/-- A command ends with ST_OK. -/
def completeOk (c : Cmd) (result : Nat) (s : State) : State := complete c stOk 0 result s

/-- A command ends with ST_BAD_PACKET. -/
def badPacket (c : Cmd) (result : Nat) (s : State) : State := complete c stBadPacket 0 result s

/-- R391: a chain that waited goes on. -/
def resumeFinish (c : Cmd) (s : State) : State :=
  match s.crn.finishing.find? fun f => f.cmd == c with
  | none => s
  | some f => runFinish endAny f s

end Sys2Proof.Machine
end

