-- ==== Sys2Proof/Machine/Loss.lean ====
section
/-!
DEFINITION. Host-loss and DEVICE resets (R9, R491 to R496): what stops, the crash record, and what survives.
-/

namespace Sys2Proof.Machine

/-! ### What survives a reset (R9, R492, R495) -/

/-- Registers that show fuses and flash: the part's identity, the fuse blocks, the identity key's state and the repair log. -/
def inFuses (off : Nat) : Bool :=
  decide (off < 0x10) || (decide (Reg.SEC_FUSE_VENDOR 0 ≤ off) && decide (off ≤ Reg.SEC_ID_STAT)) ||
  (decide (Reg.MEM_REPAIR_LOG 0 ≤ off) && decide (off ≤ Reg.MEM_REPAIR_COUNT))

/-- Registers in Taproot-retained SRAM: the crash record and `PWR_STOP_CAUSE`. -/
def inSram (off : Nat) : Bool :=
  off == Reg.HL_CRASH_CTL || (decide (Reg.HL_CRASH 0 ≤ off) && decide (off ≤ Reg.HL_CRASH 31)) || off == Reg.PWR_STOP_CAUSE

/-- The part with its persistent state alone; `sram` tells whether the retained SRAM keeps its power. Pins keep their levels,
and the sideband's answers have left the part. -/
def persistent (sram : Bool) (s : State) : State :=
  { pending := s.pending
    free := s.free
    regs := s.regs.filter fun p => inFuses p.1 || (sram && inSram p.1)
    hl := { perstLow := s.hl.perstLow }
    pwr := { smbAddr := s.pwr.smbAddr, answers := s.pwr.answers }
    sec := { boots := s.sec.boots, indexA := s.sec.indexA, indexB := s.sec.indexB } }

/-! ### The crash record (R494, R495) -/

/-- R494: word 2, the part's place in the domain. -/
def roleCode : Role → Nat
  | .discovering => 0
  | .member => 1
  | .manager => 2
  | .deputy => 3
  | .reserve => 4

/-- R494: word 0 of a record of a cause, after the record held before (R495). -/
def crashWord0 (s : State) (cause : Nat) : Nat :=
  let held := bit (regGet s Reg.HL_CRASH_CTL) 0
  let n := if held then min 0xFFFF (bits (regGet s (Reg.HL_CRASH 0)) 31 16 + 1) else 1
  1 + cause * 2 ^ 8 + b2n held * 2 ^ 12 + n * 2 ^ 16

/-- R494: the words of the record of a reset. -/
def crashWords (s : State) (l : Loss) : List Nat :=
  [crashWord0 s l.cause,
   if s.fab.formed then l.time else 0,
   ownId s + roleCode s.fab.role * 2 ^ 16 + b2n s.fab.locked * 2 ^ 19 + s.fab.term * 2 ^ 32,
   l.dropped % 2 ^ 32, l.droppedBytes % 2 ^ 64, l.reads % 2 ^ 32,
   l.outstanding % 2 ^ 16 + l.resident % 2 ^ 16 * 2 ^ 16,
   l.diverted % 2 ^ 32,
   l.fault + l.block * 2 ^ 8,
   l.link]

/-- R495: the record is written; the words not named are zero. -/
def crashWrite (l : Loss) (s : State) : State :=
  let ws := padZero 32 (crashWords s l)
  let s := (List.range 32).foldl (fun s i => regPut (Reg.HL_CRASH i) (ws.getD i 0) s) s
  regPut Reg.HL_CRASH_CTL 1 s
where
  padZero (n : Nat) (l : List Nat) : List Nat := l ++ List.replicate (n - l.length) 0

/-- R495: the record is cleared. -/
def crashClear (s : State) : State :=
  regPut Reg.HL_CRASH_CTL 0 ((List.range 32).foldl (fun s i => regPut (Reg.HL_CRASH i) 0 s) s)

/-! ### The start of a reset (R491, R492) -/

/-- R494: word 9, the link at the event. The LTSSM's state is a free value. -/
def linkWord (s : State) : Nat × State :=
  let (n, s) := drawFree s
  let st := regGet s Reg.HL_LINK_STAT
  ((Config.undef n).toNat % 64 + bits st 3 0 * 2 ^ 6 + bits st 8 4 * 2 ^ 10 + mget 0 s.hl.config 0x104 % 2 ^ 32 * 2 ^ 32, s)

/-- R461, R449: the device to which the part owes DEPART: its manager, or as manager its deputy. -/
def departTo (s : State) : Option Nat :=
  if s.fab.devId.isNone then none
  else if s.fab.role == .manager then (if s.fab.depUid = 0 then none else some s.fab.depId)
  else some s.fab.mgrId

/-- R461: DEPART goes out on every Chord that is up, one message in each, under one sequence number. -/
def sendDepart (reason : Nat) (s : State) : State :=
  match departTo s with
  | none => s
  | some d =>
    let m : Msg := ⟨d, .depart reason⟩
    ontoChords ((List.range 16).filter fun n => (chordOf s n).up) m (count Reg.FAB_CNT_MSG_TX (s.setFab { s.fab with sent := s.fab.sent ++ [m] }))

/-- R492: the host link at a cause: posted writes not yet sent are dropped, reads are abandoned, and the link of causes 1 to 3 is down. -/
def dropHost (cause : Nat) (s : State) : State :=
  let s := s.setHl { s.hl with queued := [], reads := [], up := if cause ≤ 3 then false else s.hl.up, retrain := false }
  if cause ≤ 3 then regField Reg.HL_LINK_STAT 11 0 0 s else s

/-- R492 step 3: manager packets complete with ST_HOST_LOST. -/
def loseMgrPackets (s : State) : State :=
  ((s.crn.started.map (·.cmd)).filter fun c => match c.src with
    | .mgr _ => true
    | _ => false).foldl (fun s c => completeTop c stHostLost 0 0 s) s

/-- R492 step 3, R406: the records that wait are diverted with reason 2. -/
def divertWaiting (s : State) : State :=
  s.sched.ctxs.foldl (fun s x =>
    (x.records.filter fun p => !p.silent).foldl (fun s p => divert p.record 2 0 s)
      (updCtx x.id (fun x => { x with records := [] }) s)) s

/-- R491: a host-loss reset starts, unless one is under way (R496). `cs` are the commands in which a DEVICE error was met:
they complete with ST_DEVICE_ERROR. -/
def hostLoss (cause fault block : Nat) (cs : List Cmd) (s : State) : State :=
  if !isOn s || s.sec.stage == .rom || s.sec.stage == .halted then s
  else
    let (w, s) := linkWord s
    let l : Loss :=
      { cause := cause, fault := fault, block := block, time := s.now, dropped := s.hl.queued.length,
        droppedBytes := (s.hl.queued.map fun x => x.data.length).foldl (· + ·) 0, reads := s.hl.reads.length,
        outstanding := s.crn.started.length,
        resident := (s.sched.ctxs.filter fun x => x.id != 0 && (x.state == .resident || x.state == .evicting || x.state == .swappingIn)).length, link := w }
    let s := dropHost cause s
    let s := sendDepart (if cause = 5 then 2 else 1) (s.setHl { s.hl with loss := some l })
    let s := divertWaiting (loseMgrPackets s)
    cs.foldl (fun s c => complete c stDeviceError 0 0 s) s

/-- R9: a DEVICE error of a block, met in commands. -/
def deviceError (f : Flt) (block : Nat) (cs : List Cmd) (s : State) : State := hostLoss 5 f.code block cs s

/-- R187: Crown firmware, the exchange engine or Taproot reads the device area: an uncorrectable error there is a DEVICE error. -/
def firmRead (block : Nat) (cs : List Cmd) (a n : Nat) (s : State) : List Byte × State :=
  let (bad, s) := meetErrors a n s
  (memRead s a n, if bad then deviceError .ecc block cs s else s)

/-! ### The end of a reset (R492 steps 4 to 6) -/

/-- R572: the code of a boot stage. -/
def stageCode : Stage → Nat
  | .rom => 0
  | .power => 1
  | .hbmTrain => 2
  | .waitImage => 3
  | .verify => 4
  | .start => 5
  | .ready => 6
  | .recovery => 7
  | .halted => 8

/-- R572: the part enters a boot stage. -/
def putStage (st : Stage) (s : State) : State := regField Reg.SEC_BOOT_STAT 3 0 (stageCode st) (s.setSec { s.sec with stage := st })

/-- R541, R573 step 3: with the converters up and the root PLL locked, the part trains once PERST_N is high. -/
def startTraining (s : State) : State :=
  if s.sec.stage == .power && s.pwr.pstate == .run && !s.hl.perstLow && bit (regGet s Reg.CLK_STAT) 0 then putStage .hbmTrain s else s

/-- R492: the record is written, everything but the persistent state is reset, and start-up goes on at step 3 (R573). -/
def hostLossDone (s : State) : State :=
  match s.hl.loss with
  | none => s
  | some l =>
    startTraining (putStage .power (persistent true (crashWrite l s)))

def execHostLossResetDone (s : State) : Host.Outcome State Fault Refusal := .next (hostLossDone s)

/-! ### Its events (R491) -/

def linkDown (s : State) : State := if s.hl.up then hostLoss 1 0 0 [] s else s

/-- PERST_N falls. -/
def perstAssert (s : State) : State :=
  if s.hl.perstLow then s else hostLoss 2 0 0 [] (s.setHl { s.hl with perstLow := true })

def hotReset (s : State) : State := if s.hl.up then hostLoss 3 0 0 [] s else s
def flr (s : State) : State := if s.hl.up then hostLoss 4 0 0 [] s else s

def execLinkDown (s : State) : Host.Outcome State Fault Refusal := .next (linkDown s)
def execPerstNAssert (s : State) : Host.Outcome State Fault Refusal := .next (perstAssert s)
def execHotReset (s : State) : Host.Outcome State Fault Refusal := .next (hotReset s)
def execFlr (s : State) : Host.Outcome State Fault Refusal := .next (flr s)

end Sys2Proof.Machine
end

