-- ==== Sys2Proof/Machine/Flags.lean ====
section
/-!
DEFINITION. The conditions of the control core's branches (R255, R260) and its comparisons (R256).
The core has no flag register: a condition is a function of the values compared.
-/

namespace Sys2Proof.Machine

/-- R255: the branch conditions. -/
inductive Cond where
  | eq | ne | lt | ge | ltu | geu
  deriving DecidableEq, Repr

/-- R255: whether a branch is taken, for x[rs1] and x[rs2]. -/
def Cond.holds : Cond → W64 → W64 → Bool
  | .eq, a, b => a == b
  | .ne, a, b => a != b
  | .lt, a, b => a.slt b
  | .ge, a, b => !a.slt b
  | .ltu, a, b => a.ult b
  | .geu, a, b => !a.ult b

/-- R226: the order of FP32 comparisons, in which −0 lies below +0. -/
def f32Lt (a b : Nat) : Bool := (fp32.decode a).ltZ (fp32.decode b)

/-- R226: equality of two FP32 codes that are no NaN; −0 and +0 differ. -/
def f32Eq (a b : Nat) : Bool :=
  !(fp32.decode a).isNan && !(fp32.decode b).isNan && !f32Lt a b && !f32Lt b a

/-- R260: a condition of BSUM on ordered values, from less-than and equality. -/
def sumOrdered (cond : Nat) (lt eq : Bool) : Bool :=
  match cond with
  | 0 => eq
  | 1 => !eq
  | 2 => lt
  | 3 => lt || eq
  | 4 => !lt && !eq
  | 5 => !lt
  | _ => false

/-- R260: BSUM's condition on the val part, an FP32 compare: with a NaN only NE and UNORD hold. -/
def sumVal (cond a b : Nat) : Bool :=
  if (fp32.decode a).isNan || (fp32.decode b).isNan then cond == 1 || cond == 6
  else sumOrdered cond (f32Lt a b) (f32Eq a b)

/-- R260: BSUM's condition on the aux part, an unsigned compare; UNORD never holds. -/
def sumAux (cond a b : Nat) : Bool := sumOrdered cond (decide (a < b)) (a == b)

end Sys2Proof.Machine
end

