-- ==== Sys2Proof/Machine/Operands.lean ====
section
/-!
DEFINITION. Operands of the control core: instruction fields (R254), scalar and summary registers (R252),
immediates, and the ALU functions (R256).
-/

namespace Sys2Proof.Machine

/-! ### Fields of an instruction word (R254) -/

def fOp (w : Nat) : Nat := bits w 31 26
def fRd (w : Nat) : Nat := bits w 25 21
def fRs1 (w : Nat) : Nat := bits w 20 16
def fRs2 (w : Nat) : Nat := bits w 15 11
def fFunc (w : Nat) : Nat := bits w 10 0
/-- Zero-extended imm16. -/
def fImm (w : Nat) : Nat := bits w 15 0
/-- Sign-extended imm16 as a 64-bit word. -/
def fSimm (w : Nat) : W64 := BitVec.ofInt 64 (sext (fImm w) 16)
/-- X format: token and channel. -/
def fToken (w : Nat) : Nat := bits w 20 17
def fChan (w : Nat) : Nat := bits w 16 14
/-- S format: summary register, part, condition. -/
def fSreg (w : Nat) : Nat := bits w 25 22
def fPart (w : Nat) : Bool := bit w 21
def fCond (w : Nat) : Nat := bits w 15 13

/-! ### Registers (R252) -/

/-- R252: a scalar register; x0 reads zero. -/
def Grove.xr (g : Grove) (i : Nat) : W64 := if i = 0 then 0 else mget 0 g.x i

/-- R252: a write of a scalar register; one of x0 is ignored. -/
def Grove.setX (g : Grove) (i : Nat) (v : W64) : Grove := if i = 0 then g else { g with x := mset 0 g.x i v }

/-- R252: a summary register. -/
def Grove.sumReg (g : Grove) (i : Nat) : W64 := mget 0 g.sm i

/-- R245: the reduction unit's write of a summary register: val in the low half, aux in the high half. -/
def Grove.setSum (g : Grove) (i val aux : Nat) : Grove :=
  { g with sm := mset 0 g.sm i (BitVec.ofNat 64 (val % 2 ^ 32 + (aux % 2 ^ 32) * 2 ^ 32)) }

/-! ### Branch targets (R254) -/

/-- R254: a target `k` instructions from the branch, modulo 2^64. -/
def branchTo (pc : Nat) (k : Int) : Nat := unsext ((pc : Int) + 4 * k) 64

/-! ### ALU (R256) -/

/-- A word with an FP32 code in its low half. -/
def ofF32 (c : Nat) : W64 := BitVec.ofNat 64 (c % 2 ^ 32)

/-- The FP32 datum in a word's low half. -/
def f32Of (w : W64) : Fx := fp32.decode (w.toNat % 2 ^ 32)

/-- R256: FP32 truncated to a signed 64-bit integer; it saturates, and a NaN gives 0. -/
def f2i : Fx → W64
  | .nan => 0
  | .inf n => if n then BitVec.ofNat 64 (2 ^ 63) else BitVec.ofNat 64 (2 ^ 63 - 1)
  | .fin n m e =>
    let a := (Dyad.mk m e).floor
    let v := if n then -a else a
    if v < -(2 ^ 63 : Int) then BitVec.ofNat 64 (2 ^ 63)
    else if (2 ^ 63 : Int) - 1 < v then BitVec.ofNat 64 (2 ^ 63 - 1)
    else BitVec.ofInt 64 v

/-- R256: the ALU functions; reserved codes have none. -/
def aluFn (func : Nat) (a b : W64) : Option W64 :=
  let sh := b.toNat % 64
  let one := fun (c : Bool) => if c then (1 : W64) else 0
  match func with
  | 0x000 => some (a + b)
  | 0x001 => some (a - b)
  | 0x002 => some (a &&& b)
  | 0x003 => some (a ||| b)
  | 0x004 => some (a ^^^ b)
  | 0x005 => some (a <<< sh)
  | 0x006 => some (a >>> sh)
  | 0x007 => some (a.sshiftRight sh)
  | 0x008 => some (one (a.slt b))
  | 0x009 => some (one (a.ult b))
  | 0x00A => some (if b.slt a then b else a)
  | 0x00B => some (if a.slt b then b else a)
  | 0x00C => some (if b.ult a then b else a)
  | 0x00D => some (if a.ult b then b else a)
  | 0x010 => some (a * b)
  | 0x011 => some (BitVec.ofNat 64 (a.toNat * b.toNat / 2 ^ 64))
  | 0x012 => some (if b = 0 then BitVec.allOnes 64 else BitVec.ofNat 64 (a.toNat / b.toNat))
  | 0x013 => some (if b = 0 then a else BitVec.ofNat 64 (a.toNat % b.toNat))
  | 0x020 => some (ofF32 (fp32.encode (fp32.add (f32Of a) (f32Of b))))
  | 0x021 => some (ofF32 (fp32.encode (fp32.mul (f32Of a) (f32Of b))))
  | 0x022 => some (one (f32Lt (a.toNat % 2 ^ 32) (b.toNat % 2 ^ 32)))
  | 0x023 => some (ofF32 (fp32.encode (Fx.ofDyad (Dyad.ofInt a.toInt))))
  | 0x024 => some (f2i (f32Of a))
  | _ => none

/-- R255: SHI's shift; kind 3 and a nonzero bit above the kind are reserved. -/
def shiFn (imm : Nat) (a : W64) : Option W64 :=
  let n := imm % 64
  if imm / 256 ≠ 0 then none
  else match bits imm 7 6 with
  | 0 => some (a <<< n)
  | 1 => some (a >>> n)
  | 2 => some (a.sshiftRight n)
  | _ => none

end Sys2Proof.Machine
end

