-- ==== Sys2Proof/Machine/Lanes.lean ====
section
/-!
DEFINITION. Lane arithmetic of the vector engine on FP32 codes (R226), its element-wise operations (R237) with the results that
the spec bounds in units in the last place, the lane tree and the summing passes (R246), and the row operations (R238, R239).
-/

namespace Sys2Proof.Machine

/-! ### FP32 codes (R226) -/

def f32Nan : Nat := 0x7FC00000
def f32Inf (neg : Bool) : Nat := 0x7F800000 + b2n neg * 2 ^ 31
def f32Sign (neg : Bool) (mag : Nat) : Nat := mag + b2n neg * 2 ^ 31
def f32Add (a b : Nat) : Nat := fp32.encode ((fp32.decode a).addExact (fp32.decode b))
def f32Sub (a b : Nat) : Nat := fp32.encode ((fp32.decode a).addExact (fp32.decode b).flip)
def f32Mul (a b : Nat) : Nat := fp32.encode ((fp32.decode a).mulExact (fp32.decode b))
def f32Div (a b : Nat) : Nat := fp32.encode (fp32.div (fp32.decode a) (fp32.decode b))
def f32Fma (a b c : Nat) : Nat := fp32.encode (((fp32.decode a).mulExact (fp32.decode b)).addExact (fp32.decode c))
def f32OfInt (i : Int) : Nat := fp32.encode (Fx.ofDyad (Dyad.ofInt i))
def f32IsNan (a : Nat) : Bool := (fp32.decode a).isNan
/-- R226: every NaN is the canonical one. -/
def f32Canon (a : Nat) : Nat := if f32IsNan a then f32Nan else a
/-- R226: a NaN operand makes the result NaN; −0 lies below +0. -/
def f32Max (a b : Nat) : Nat := if f32IsNan a || f32IsNan b then f32Nan else if f32Lt a b then b else a
def f32Min (a b : Nat) : Nat := if f32IsNan a || f32IsNan b then f32Nan else if f32Lt b a then b else a
/-- An FP32 code rounded to BF16, as an FP32 code. -/
def f32ToBf (a : Nat) : Nat := bf16.encode (fp32.decode a) * 2 ^ 16
/-- The FP32 code of a BF16 code. -/
def f32OfBf (b : Nat) : Nat := f32Canon (b % 2 ^ 16 * 2 ^ 16)

/-! ### Results bounded in units in the last place (R237) -/

/-- Code of the greatest FP32 magnitude that does not exceed `d`; infinity beyond the range. -/
def floorMag (d : Dyad) : Nat :=
  if d.m ≤ 0 then 0
  else
    let q := max ((Nat.log2 d.m.toNat : Int) + d.e - 23) (-149)
    min ((q + 149).toNat * 2 ^ 23 + (shiftInt d.m (d.e - q)).toNat) 0x7F800000

/-- Code of the least FP32 magnitude that is not below `d`. -/
def ceilMag (d : Dyad) : Nat :=
  let c := floorMag d
  if (fp32.decode c).dyad.lt d then min (c + 1) 0x7F800000 else c

/-- R237: a magnitude within `n` units in the last place of `d`, the same for the same operation and operand codes (R227).
`d` is known within 2^-60 of its value and 2^-153. -/
def ulpPick (n op a b : Nat) (d : Dyad) : Nat :=
  let u := Dyad.add ⟨n, (max (floorMag d / 2 ^ 23) 1 : Nat) - 150⟩ (Dyad.add ⟨d.m, d.e - 60⟩ ⟨1, -153⟩)
  let lo := ceilMag (d.sub u)
  let hi := floorMag (d.add u)
  lo + Config.ulp op a b % (hi - lo + 1)

/-! ### Elementary functions in units of 2^-160 -/

/-- A dyad in units of 2^-160, rounded down. -/
def toFx (d : Dyad) : Int := shiftInt d.m (d.e + 160)

def fxOne : Nat := 2 ^ 160

/-- ⌊ln 2 × 2^160⌋. -/
def fxLn2 : Nat := 1013035739299659071135698605846798551586536899366

/-- e^r for r from 0 to ln 2, by its power series. -/
def fxExp (r : Nat) : Nat :=
  ((List.range 48).foldl (fun (p : Nat × Nat) i => (p.1 + p.2 * r / fxOne / (i + 1), p.2 * r / fxOne / (i + 1))) (fxOne, fxOne)).1

/-- e^x; beyond ±256 a value that every FP32 result bound treats alike. -/
def expDyad (x : Int) : Dyad :=
  if 256 * (fxOne : Int) < x then ⟨1, 300⟩
  else if x < -(256 * (fxOne : Int)) then ⟨1, -360⟩
  else
    let n := x / (fxLn2 : Int)
    ⟨fxExp (x - n * fxLn2).toNat, n - 160⟩

/-- ln of m × 2^e for m > 0, by the series of the inverse hyperbolic tangent. -/
def fxLn (m : Nat) (e : Int) : Int :=
  let l := Nat.log2 m
  let y0 : Nat := (m <<< 160) >>> l
  let big := decide (y0 * 5 > fxOne * 7)
  let y : Int := if big then y0 / 2 else y0
  let n : Int := l + e + if big then 1 else 0
  let t := (y - fxOne) * fxOne / (y + fxOne)
  let t2 := t * t / fxOne
  let sum := ((List.range 40).foldl (fun (p : Int × Int) k => (p.1 + p.2 / (2 * k + 1 : Nat), p.2 * t2 / fxOne)) (0, t)).1
  n * fxLn2 + 2 * sum

/-- 1 ÷ √(m × 2^e) for m > 0. -/
def rsqrtDyad (m : Nat) (e : Int) : Dyad :=
  let odd := e % 2 ≠ 0
  let m' := if odd then 2 * m else m
  let e' := if odd then e - 1 else e
  ⟨isqrt 121 (2 ^ 240 / m'), -120 - e' / 2⟩

/-- 1 ÷ (1 + e^−x). -/
def sigDyad (x : Int) : Dyad :=
  if 0 ≤ x then ⟨fxOne * fxOne / (fxOne + (toFx (expDyad (-x))).toNat), -160⟩
  else
    let u := expDyad x
    ⟨u.m * fxOne / (fxOne + toFx u), u.e⟩

/-- tanh of a magnitude. -/
def tanhDyad (d : Dyad) : Dyad :=
  if d.lt ⟨1, -20⟩ then
    let t := (d.mul ⟨3, 0⟩).sub (d.mul (d.mul d))
    ⟨t.m * 2 ^ 80 / 3, t.e - 80⟩
  else
    let u := toFx (expDyad (-2 * toFx (if Dyad.lt ⟨64, 0⟩ d then ⟨64, 0⟩ else d)))
    ⟨(fxOne - u) * fxOne / (fxOne + u), -160⟩

/-- Twice GELU's inner argument: 2 × 0.7978846 × (x + 0.044715 x³), for x held within ±64. -/
def geluArg (d : Dyad) : Int :=
  let x := toFx (if Dyad.lt ⟨64, 0⟩ d.abs then ⟨if d.m < 0 then -64 else 64, 0⟩ else d)
  2 * 7978846 * (x * 1000000 + 44715 * (x * x * x / fxOne / fxOne)) / 10000000000000

/-- The result of SILU and GELU at −∞, which the spec does not state: a free value. -/
def freeAtMinusInf (op x : Nat) : Nat := f32Canon (Config.ulp op x 0 % 2 ^ 32)

def laneGelu (x : Nat) : Nat :=
  match fp32.decode x with
  | .nan => f32Nan
  | .inf n => if n then freeAtMinusInf 0x05 x else x
  | .fin n m e => f32Sign n (ulpPick 2 0x05 x 0 ((Dyad.mk m e).mul (sigDyad (geluArg (Fx.fin n m e).dyad))))

def laneSilu (x : Nat) : Nat :=
  match fp32.decode x with
  | .nan => f32Nan
  | .inf n => if n then freeAtMinusInf 0x06 x else x
  | .fin n m e => f32Sign n (ulpPick 2 0x06 x 0 ((Dyad.mk m e).mul (sigDyad (toFx (Fx.fin n m e).dyad))))

def laneSigmoid (x : Nat) : Nat :=
  match fp32.decode x with
  | .nan => f32Nan
  | .inf n => if n then 0 else 0x3F800000
  | .fin n m e => ulpPick 2 0x07 x 0 (sigDyad (toFx (Fx.fin n m e).dyad))

def laneTanh (x : Nat) : Nat :=
  match fp32.decode x with
  | .nan => f32Nan
  | .inf n => f32Sign n 0x3F800000
  | .fin n m e => f32Sign n (ulpPick 2 0x08 x 0 (tanhDyad ⟨m, e⟩))

def laneExp (x : Nat) : Nat :=
  match fp32.decode x with
  | .nan => f32Nan
  | .inf n => if n then 0 else x
  | .fin n m e => ulpPick 2 0x09 x 0 (expDyad (toFx (Fx.fin n m e).dyad))

def laneExp2 (x : Nat) : Nat :=
  match fp32.decode x with
  | .nan => f32Nan
  | .inf n => if n then 0 else x
  | .fin n m e =>
    let d := (Fx.fin n m e).dyad
    let i := max (min d.floor 300) (-300)
    if (Dyad.ofInt d.floor).eqv d then fp32.roundMag 1 i false
    else ulpPick 1 0x0A x 0 ⟨fxExp ((toFx (d.sub (Dyad.ofInt d.floor))).toNat * fxLn2 / fxOne), i - 160⟩

def laneLog (x : Nat) : Nat :=
  match fp32.decode x with
  | .nan => f32Nan
  | .inf n => if n then f32Nan else x
  | .fin n m e =>
    if m = 0 then f32Inf true
    else if n then f32Nan
    else let v := fxLn m e; f32Sign (decide (v < 0)) (ulpPick 2 0x0B x 0 ⟨v.natAbs, -160⟩)

def laneRcp (x : Nat) : Nat :=
  match fp32.decode x with
  | .nan => f32Nan
  | .inf n => f32Sign n 0
  | .fin n m e => if m = 0 then f32Inf n else f32Sign n (ulpPick 1 0x0C x 0 ⟨(2 ^ 200 / m : Nat), -200 - e⟩)

def laneRsqrt (x : Nat) : Nat :=
  match fp32.decode x with
  | .nan => f32Nan
  | .inf n => if n then f32Nan else 0
  | .fin n m e =>
    if m = 0 then f32Inf n
    else if n then f32Nan
    else ulpPick 1 0x0E x 0 (rsqrtDyad m e)

/-! ### The element-wise operations (R237) -/

/-- What an operation takes as an operand: nothing, a value, a scalar, or a mask bit. -/
inductive OpUse where
  | none | value | scalar | mask
  deriving DecidableEq, Repr

/-- R237: the operands of an operation; reserved codes have none. -/
def opUses : Nat → Option (OpUse × OpUse)
  | 0x01 | 0x02 | 0x03 | 0x05 | 0x06 | 0x07 | 0x08 | 0x09 | 0x0A | 0x0B | 0x0C | 0x0D | 0x0E | 0x0F | 0x19
  | 0x20 | 0x21 | 0x22 | 0x24 | 0x26 | 0x28 => some (.none, .none)
  | 0x04 | 0x10 | 0x11 | 0x12 | 0x13 | 0x14 | 0x15 => some (.value, .none)
  | 0x16 | 0x17 => some (.value, .value)
  | 0x18 => some (.mask, .value)
  | 0x23 | 0x25 => some (.scalar, .none)
  | _ => none

/-- R237: y for x, b and c; `past` says that a CAUSAL_FILL position lies beyond its limit, `param` is SCALE2's. -/
def laneOp (op : Nat) (param : Int) (past : Bool) (x b c : Nat) : Nat :=
  match op with
  | 0x01 => f32Canon (fp32.encode (fp32.decode x).flip)
  | 0x02 => f32Canon (fp32.encode (fp32.decode x).absv)
  | 0x03 => f32Max x 0
  | 0x04 => if f32IsNan x then f32Nan else if f32Lt x 0 then f32Mul x b else x
  | 0x05 => laneGelu x
  | 0x06 => laneSilu x
  | 0x07 => laneSigmoid x
  | 0x08 => laneTanh x
  | 0x09 => laneExp x
  | 0x0A => laneExp2 x
  | 0x0B => laneLog x
  | 0x0C => laneRcp x
  | 0x0D => fp32.encode (fp32.sqrt (fp32.decode x))
  | 0x0E => laneRsqrt x
  | 0x0F => match fp32.decode x with
    | .fin n m e => fp32.encode (.fin n m (e + param))
    | y => fp32.encode y
  | 0x10 => f32Add x b
  | 0x11 => f32Sub x b
  | 0x12 => f32Sub b x
  | 0x13 => f32Mul x b
  | 0x14 => f32Min x b
  | 0x15 => f32Max x b
  | 0x16 => f32Fma x b c
  | 0x17 => f32Min (f32Max x b) c
  | 0x18 => if b ≠ 0 then c else x
  | 0x19 => if past then f32Inf true else x
  | 0x28 => f32ToBf x
  | _ => x

/-! ### Summing passes (R246) -/

/-- One level of the lane tree: neighbours are added; a lane whose neighbour is masked passes on. -/
def pairUp : List Nat → List Nat
  | a :: b :: l => f32Add a b :: pairUp l
  | l => l

/-- R246: the partial of one beat: seven levels, or eight with bf16_calc. -/
def lanePartial (bf : Bool) (l : List Nat) : Nat :=
  ((List.range (if bf then 8 else 7)).foldl (fun l _ => pairUp l) l).headD 0

/-- R225: elements of a beat. -/
def beatLen (bf : Bool) : Nat := if bf then 256 else 128

/-- R225: the beats of a row. -/
def beatsOf (bf : Bool) (l : List Nat) : List (List Nat) :=
  (List.range ((l.length + beatLen bf - 1) / beatLen bf)).map fun i => slice (i * beatLen bf) (beatLen bf) l

/-- R29: a choice among `n` that Free mode leaves to timing. -/
def choose (n : Nat) (s : State) : Nat × State :=
  let (i, s) := drawFree s
  (Config.choice i % max n 1, s)

/-- R246: in Free mode each partial goes to an accumulator; the accumulators start from +0. -/
def freePartials : List Nat → List Nat → List Nat → State → (List Nat × List Nat) × State
  | [], acc, used, s => ((acc, used), s)
  | p :: ps, acc, used, s =>
    let (i, s) := choose 4 s
    freePartials ps (acc.set i (f32Add (acc.getD i 0) p)) (keyInsert i used) s

/-- R246: the accumulators used are added in the order in which they went idle. -/
def freeTotal (acc : List Nat) : Nat → List Nat → Option Nat → State → Nat × State
  | 0, _, t, s => (t.getD 0, s)
  | n + 1, used, t, s =>
    if used.isEmpty then (t.getD 0, s)
    else
      let (j, s) := choose used.length s
      let v := acc.getD (used.getD j 0) 0
      freeTotal acc n (used.eraseIdx j) (some (match t with | some x => f32Add x v | none => v)) s

/-- R246: the sum of a row's elements. -/
def sumPass (exact bf : Bool) (l : List Nat) (s : State) : Nat × State :=
  let ps := (beatsOf bf l).map (lanePartial bf)
  if exact then (ps.foldl f32Add 0, s)
  else
    let ((acc, used), s) := freePartials ps [0, 0, 0, 0] [] s
    freeTotal acc 4 used none s

/-! ### Row operations (R237 to R239) -/

/-- R237: the row operations. -/
def isRowOp (op : Nat) : Bool := decide (0x20 ≤ op) && decide (op ≤ 0x26)

/-- R247: summing passes of a row operation. -/
def sumPasses (op : Nat) : Nat :=
  match op with
  | 0x21 | 0x22 | 0x23 | 0x24 | 0x26 => 1
  | 0x25 => 2
  | _ => 0

/-- x × rsqrt(q), within 2 units in the last place. -/
def timesRsqrt (op x q : Nat) : Nat :=
  match fp32.decode q with
  | .nan => f32Nan
  | .inf n => if n then f32Nan else f32Mul x 0
  | .fin nq mq eq =>
    if mq = 0 then f32Mul x (f32Inf nq)
    else if nq then f32Nan
    else match fp32.decode x with
      | .nan => f32Nan
      | .inf n => f32Inf n
      | .fin n m e => f32Sign n (ulpPick 2 op x q ((Dyad.mk m e).mul (rsqrtDyad mq eq)))

/-- e^d ÷ Σ within 3 units in the last place; −∞ gives +0. -/
def softmaxElem (d sum : Nat) : Nat :=
  match fp32.decode d, fp32.decode sum with
  | .inf true, .nan => f32Nan
  | .inf true, _ => 0
  | .fin n m e, .fin _ ms es =>
    let u := expDyad (toFx (Fx.fin n m e).dyad)
    ulpPick 3 0x24 d sum ⟨u.m * 2 ^ 40 / (max ms 1 : Nat), u.e - 40 - es⟩
  | _, _ => f32Nan

/-- d − ln Σ within 3 units in the last place; −∞ stays. -/
def logSoftmaxElem (d sum : Nat) : Nat :=
  match fp32.decode d, fp32.decode sum with
  | .inf true, .nan => f32Nan
  | .inf true, _ => f32Inf true
  | .fin n m e, .fin _ ms es =>
    let v := toFx (Fx.fin n m e).dyad - fxLn (max ms 1) es
    f32Sign (decide (v < 0)) (ulpPick 3 0x26 d sum ⟨v.natAbs, -160⟩)
  | _, _ => f32Nan

/-- R238, R239: a row operation on the elements of a row, with the scalar b. -/
def rowOp (exact bf : Bool) (op b : Nat) (l : List Nat) (s : State) : List Nat × State :=
  let sum := sumPass exact bf
  let n := f32OfInt l.length
  let m := l.tail.foldl f32Max (l.headD 0)
  if l.any f32IsNan then (l.map fun _ => f32Nan, s)
  else match op with
  | 0x20 => (l.map fun x => f32Sub x m, s)
  | 0x21 => let (t, s) := sum l s; (l.map fun x => f32Div x t, s)
  | 0x22 => let (t, s) := sum l s; (l.map fun x => f32Sub x (f32Div t n), s)
  | 0x23 => let (t, s) := sum (l.map fun x => f32Mul x x) s; (l.map fun x => timesRsqrt op x (f32Add (f32Div t n) b), s)
  | 0x25 =>
    let (t, s) := sum l s
    let d := l.map fun x => f32Sub x (f32Div t n)
    let (v, s) := sum (d.map fun x => f32Mul x x) s
    (d.map fun x => timesRsqrt op x (f32Add (f32Div v n) b), s)
  | 0x24 | 0x26 =>
    if m = f32Inf true then (l.map fun _ => if op = 0x24 then 0 else f32Inf true, s)
    else
      let d := l.map fun x => f32Sub x m
      let (t, s) := sum (d.map laneExp) s
      (d.map fun x => if op = 0x24 then softmaxElem x t else logSoftmaxElem x t, s)
  | _ => (l, s)

end Sys2Proof.Machine
end

