-- ==== Sys2Proof/Machine/Orders.lean ====
section
/-!
DEFINITION. Orders of the three masters that reach the order point in one window (R37 to R42, R595).
-/

namespace Sys2Proof.Machine

/-- R595: whether two orders contradict. -/
def contradicts (a b : OrderKind) : Bool :=
  match a, b with
  | .create c, .destroy d => c == d
  | .destroy c, .create d => c == d
  | .destroy c, .pin d _ _ => c == d
  | .pin c _ _, .destroy d => c == d
  | .pin c on g, .pin d on' g' => c == d && (on != on' || g != g')
  | .partition p set ex gr w k, .partition p' set' ex' gr' w' k' =>
    if p == p' then set != set' || (set && (ex != ex' || gr != gr' || w != w' || k != k'))
    else set && set' && (gr &&& gr' != 0 || w &&& w' != 0 || k &&& k' != 0)
  | .park g, .pin _ on g' => on && g &&& g' != 0
  | .pin _ on g', .park g => on && g &&& g' != 0
  | .park g, .unpark g' => g &&& g' != 0
  | .unpark g, .park g' => g &&& g' != 0
  | .powerCap n v, .powerCap m v' => n == m && v != v'
  | .chord m on, .chord m' on' => on != on' && m &&& m' != 0
  | _, _ => false

/-- R39: a power or thermal order of Taproot. -/
def orderThermal (o : Order) : Bool :=
  o.master == .taproot && (match o.kind with
    | .park _ | .unpark _ | .powerCap .. => true
    | _ => false)

/-- R37: the master that owns the resource of an order. -/
def orderOwner : OrderKind → Master
  | .chord .. => .manager
  | .powerCap .. | .park _ | .unpark _ => .taproot
  | _ => .host

/-- R39: rank of a master in the list Taproot, manager, host. -/
def masterRank : Master → Nat
  | .taproot => 0
  | .manager => 1
  | .host => 2

/-- R39: order `r` takes effect over the contradictory order `o`. -/
def beats (r o : Order) : Bool :=
  if r.master == o.master then false
  else if orderThermal r then true
  else if orderThermal o then false
  else if r.master == orderOwner o.kind then true
  else if o.master == orderOwner o.kind then false
  else decide (masterRank r.master < masterRank o.master)

/-- R38, R39: the order of the same window that an order loses to, if any. -/
def losesTo (o : Order) (rivals : List Order) : Option Order :=
  rivals.find? fun r => contradicts r.kind o.kind && beats r o

/-- R40: the result word that names the winner. -/
def winnerWord (w : Order) : Nat :=
  w.seq % 2 ^ 32 +
  (match w.master with
   | .host => (w.ctx % 2 ^ 14) * 2 ^ 34
   | .manager => 2 ^ 32 + (w.dev % 2 ^ 16) * 2 ^ 48
   | .taproot => 2 * 2 ^ 32)

/-- The order that a command is. -/
def cmdOrder (c : Cmd) (k : OrderKind) : Order :=
  match c.src with
  | .mgr d => { master := .manager, seq := c.seq, dev := d, kind := k }
  | _ => { master := .host, seq := c.seq, ctx := c.ctx, kind := k }

/-- R38 to R40: a command that is an order takes effect unless a contradictory order of its window wins. -/
def ordered (c : Cmd) (k : OrderKind) (rivals : List Order) (effect : State → State) (s : State) : State :=
  match losesTo (cmdOrder c k) rivals with
  | some w => complete c stConflict 0 (winnerWord w) s
  | none => effect s

end Sys2Proof.Machine
end

