-- ==== Sys2Proof/Machine/Tables.lean ====
section
/-!
DEFINITION. Table descriptors (R76, R77), the table directory and its slots (R117 to R119), the member's side of drains and drops
(R129, R134), LOAD_TABLE and local RETIRE_TABLE (R123, R124, R134, R135).
-/

namespace Sys2Proof.Machine

/-! ### Table descriptors (R76) -/

def tdWord (d : List Byte) (i : Nat) : Nat := leAt d (8 * i) 8
def tdTable (d : List Byte) : Nat := bits (tdWord d 0) 15 0
def tdFmt (d : List Byte) : Option Fmt := (Fmt.ofCode (bits (tdWord d 0) 19 16)).bind fun f => if f.forRows then some f else none
def tdDim (d : List Byte) : Nat := 16 * 2 ^ bits (tdWord d 0) 22 20
def tdMode (d : List Byte) : Nat := bits (tdWord d 0) 25 24
def tdComposed (d : List Byte) : Bool := bit (tdWord d 0) 25
def tdMul (d : List Byte) : Bool := bit (tdWord d 0) 26
def tdExact (d : List Byte) : Bool := bit (tdWord d 0) 27
def tdEpoch (d : List Byte) : Nat := bits (tdWord d 0) 47 32
def tdPartner (d : List Byte) : Nat := bits (tdWord d 0) 63 48
def tdRows (d : List Byte) : Nat := bits (tdWord d 1) 39 0
def tdShift (d : List Byte) : Nat := bits (tdWord d 1) 45 40
def tdQr (d : List Byte) : Nat := bits (tdWord d 2) 31 0
def tdShards (d : List Byte) : Nat := bits (tdWord d 2) 47 32 + 1
def tdSaltA (d : List Byte) : Nat := tdWord d 3
def tdSaltB (d : List Byte) : Nat := tdWord d 4
def tdMap (d : List Byte) : Nat := tdWord d 5
def tdPlace (d : List Byte) : Nat := tdWord d 6

/-- The row format of an installed descriptor. -/
def tdFormat (d : List Byte) : Fmt := (tdFmt d).getD .int4

/-- R65: slot size of the table's rows. -/
def tdSlot (d : List Byte) : Nat := rowSlotBytes (tdFormat d).width (tdDim d)

/-! ### The directory (R117, R118) -/

def SlotState.code : SlotState → Nat
  | .empty => 0
  | .pending => 1
  | .current => 2
  | .previous => 3
  | .retiring => 4

def SlotState.ofCode : Nat → SlotState
  | 1 => .pending
  | 2 => .current
  | 3 => .previous
  | 4 => .retiring
  | _ => .empty

/-- R121: the states in which an owner serves lookups. -/
def SlotState.serves : SlotState → Bool
  | .current | .previous | .retiring => true
  | _ => false

/-- R117: local offset of a table's directory entry. -/
def dirAt (s : State) (t : Nat) : Nat := bits (regGet s Reg.XCH_DIR_BASE) 45 0 + 256 * t
def dirWord (s : State) (t i : Nat) : Nat := memNat s (dirAt s t + 8 * i) 8
def setDirWord (t i v : Nat) (s : State) : State := memPut (dirAt s t + 8 * i) 8 v s

def slotSt (s : State) (t i : Nat) : SlotState := SlotState.ofCode (bits (dirWord s t 0) (3 * i + 2) (3 * i))
def slotDesc (s : State) (t i : Nat) : List Byte := memRead s (dirAt s t + 64 + 64 * i) 64

/-- A slot's state changes; `cur` names the CURRENT slot. -/
def setSlot (t i : Nat) (st : SlotState) (s : State) : State :=
  let w := setBits (dirWord s t 0) (3 * i + 2) (3 * i) st.code
  setDirWord t 0 (if st = .current then setBits w 6 6 i else w) s

def setSlotDesc (t i : Nat) (d : List Byte) (s : State) : State := memWrite (dirAt s t + 64 + 64 * i) (padTo 64 d) s

/-- The first slot of a table that satisfies a test of its state and descriptor. -/
def findSlot (s : State) (t : Nat) (p : SlotState → List Byte → Bool) : Option Nat :=
  [0, 1].find? fun i => p (slotSt s t i) (slotDesc s t i)

def currentSlot (s : State) (t : Nat) : Option Nat := findSlot s t fun st _ => st == .current
/-- The descriptor of a table's CURRENT version. -/
def currentDesc (s : State) (t : Nat) : Option (List Byte) := (currentSlot s t).map (slotDesc s t)

/-- R121: the slot in which a table's epoch is held in a state that satisfies a test. -/
def heldSlot (s : State) (t e : Nat) (p : SlotState → Bool) : Option Nat := findSlot s t fun st d => p st && tdEpoch d == e
def heldDesc (s : State) (t e : Nat) (p : SlotState → Bool) : Option (List Byte) := (heldSlot s t e p).map (slotDesc s t)

/-- Epochs of the slots in states that satisfy a test. -/
def slotEpochs (s : State) (t : Nat) (p : SlotState → Bool) : List Nat :=
  ([0, 1].filter fun i => p (slotSt s t i)).map fun i => tdEpoch (slotDesc s t i)

/-- R117: table rounding seed. -/
def rndSeed (s : State) (t : Nat) : Nat := dirWord s t 1

/-- R187: the exchange engine or Crown firmware reads a directory entry for commands. -/
def dirRead (cs : List Cmd) (t : Nat) (s : State) : State := (firmRead 0x0F cs (dirAt s t) 256 s).2

/-! ### R77: the checks of an installation -/

/-- R76, R77: reserved fields, and fields that are zero outside their mode. -/
def descFieldsBad (d : List Byte) : Bool :=
  bit (tdWord d 0) 23 || bits (tdWord d 0) 31 28 != 0 || bits (tdWord d 1) 63 46 != 0 || bits (tdWord d 2) 63 48 != 0 ||
  tdWord d 7 != 0 || (!tdComposed d && (tdMul d || tdPartner d != 0)) || (tdMode d != 2 && tdQr d != 0)

/-- R77: the partner of a composed table does not fit. -/
def partnerBad (s : State) (d : List Byte) : Bool :=
  tdComposed d && match currentDesc s (tdPartner d) with
    | none => true
    | some p => tdComposed p || tdDim p != tdDim d || (tdMode d == 2 && (decide (tdQr d < 2) || decide (tdRows p < tdQr d)))

/-- R77: a descriptor is refused. -/
def descBad (s : State) (d : List Byte) : Bool :=
  (tdFmt d).isNone || decide (4 < bits (tdWord d 0) 22 20) || tdRows d == 0 || decide (tdShift d < 10) || decide (39 < tdShift d) ||
  decide (tdShards d < (tdRows d + 2 ^ tdShift d - 1) / 2 ^ tdShift d) || descFieldsBad d || partnerBad s d

/-! ### Shards and placement (R78, R81, R82) -/

/-- R78: primary and partner row of an index; `none` where the index is not valid. `np` is the partner's row count. -/
def rowOf (d : List Byte) (np i : Nat) : Option (Nat × Nat) :=
  let n := tdRows d
  let ha := ((i ^^^ tdSaltA d) * 0x9E3779B97F4A7C15) % 2 ^ 64
  let hb := ((i ^^^ tdSaltB d) * 0xD6E8FEB86659FD93) % 2 ^ 64
  match tdMode d with
  | 0 => if i < n then some (i, 0) else none
  | 1 => some (ha * n / 2 ^ 64, 0)
  | 2 => if i < n * tdQr d then some (i / max (tdQr d) 1, i % max (tdQr d) 1) else none
  | _ => some (ha * n / 2 ^ 64, hb * np / 2 ^ 64)

/-- Row count of a table's partner. -/
def partnerRows (s : State) (d : List Byte) : Nat := ((currentDesc s (tdPartner d)).map tdRows).getD 0

/-- R81: the shard map entry of a row: primary and replica owner. -/
def ownersOf (s : State) (d : List Byte) (row : Nat) : Nat × Nat :=
  let e := memNat s (tdMap d + 8 * (row / 2 ^ tdShift d)) 8
  (bits e 15 0, bits e 31 16)

/-- R76, R82: local offset of a row's slot, if this device holds its shard. -/
def rowSlotAt (s : State) (d : List Byte) (row : Nat) : Option Nat :=
  if tdPlace d = 0 then none
  else
    let e := memNat s (tdPlace d + 8 * (row / 2 ^ tdShift d)) 8
    if e = 2 ^ 64 - 1 then none else some (e + row % 2 ^ tdShift d * tdSlot d)

/-! ### The table function (R43, R119) -/

def tableFn (s : State) (t : Nat) : Fn :=
  let x := ((s.tbl.fns.find? fun x => x.table == t).map (·.fn)).getD ({} : Fn)
  let st := fun c => (findSlot s t fun a _ => a == c).isSome
  { x with state := if st .retiring then (if x.deferred.isEmpty then .draining else .drainingDeferred)
                    else if st .current || st .previous then .enabled else .disabled }

def setTableFn (t : Nat) (fn : Fn) (s : State) : State :=
  s.setTbl { s.tbl with fns := (s.tbl.fns.filter fun x => x.table != t) ++
    (if fn.deferred.isEmpty && fn.disables.isEmpty then [] else [⟨t, fn⟩]) }

/-! ### LOAD_TABLE (R123, R124) -/

/-- R124: the version is installed in slot 0 as CURRENT. -/
def installTable (t seed time : Nat) (d : List Byte) (s : State) : State :=
  setSlot t 0 .current (setSlotDesc t 0 d (setDirWord t 2 time (setDirWord t 1 seed s)))

/-- R124: a table that is DISABLED is loaded with its descriptor read. -/
def loadWith (c : Cmd) (d : List Byte) (s : State) : State :=
  let t := bits (par c 0) 15 0
  let time := ((s.crn.started.find? fun x => x.cmd == c).map (·.time)).getD s.now
  if tdTable d != t || descBad s d then conclude c stBadPacket 0 0 s
  else conclude c stOk 0 0 (installTable t (par c 2) time d s)

/-- R124: LOAD_TABLE carried out. -/
def loadRun (c : Cmd) (s : State) : State :=
  runAcc (.cmd c) (ctxRead (.cmd c) c.ctx (par c 1) 64) (loadWith c) (faultCmd c) s

/-- R123, R124, R43: LOAD_TABLE. -/
def loadTable (c : Cmd) (s : State) : State :=
  let t := bits (par c 0) 15 0
  if s.crn.fresh.any fun x => x.1 == c then loadRun c s
  else
    let s := dirRead [c] t (startCmd c s)
    if s.hl.loss.isSome then s
    else if bits (par c 0) 63 16 ≠ 0 then badPacket c 0 s
    else if (findSlot s t fun st _ => st == .pending).isSome then complete c stNoResource 0 0 s
    else
      match fnEnable (tableFn s t) c with
      | (_, .carryOut) => loadRun c s
      | (_, .okNow) => completeOk c 0 s
      | (fn, .deferred) => complete c stDeferred 0 0 (setTableFn t fn s)

def execLoadTable (c : Cmd) (s : State) : Host.Outcome State Fault Refusal := whileOn (loadTable c) s

/-! ### Drains and drops of a member (R129, R134) -/

def workOf (s : State) (t : Nat) : MemberWork := (s.tbl.work.find? fun w => w.table == t).getD ({ table := t } : MemberWork)

def setWork (w : MemberWork) (s : State) : State :=
  s.setTbl { s.tbl with work := (s.tbl.work.filter fun x => x.table != w.table) ++
    (if w = ({ table := w.table } : MemberWork) then [] else [w]) }

/-- R129 step 6: a LOOKUP or UPDATE_ROWS that this device started with a stamp is outstanding. -/
def stampedWork (s : State) (t e : Nat) : Bool :=
  (s.xch.looks.any fun l => !l.waitsRing && l.segs.any fun g => g.table == t && g.epoch == e) ||
  s.tbl.upds.any fun u => u.table == t && u.epoch == e

/-- R129 step 8: owner work on batches stamped with an epoch. -/
def ownerWork (s : State) (t e : Nat) : Bool :=
  (s.xch.owned.any fun o => o.msg.segs.any fun g => g.table == t && g.epoch == e) ||
  s.tbl.serves.any fun u => u.ack.table == t && u.ack.epoch == e

/-- R150: the Graft entries of a version are freed. -/
def freeGraft (t e : Nat) (s : State) : State :=
  let other := fun (r : RowRef) => !(r.table == t && r.epoch == e)
  s.setTbl { s.tbl with
    overlay := s.tbl.overlay.filter fun x => other x.row
    holders := s.tbl.holders.filter fun x => other x.row
    migs := s.tbl.migs.filter fun x => other x.row
    replicated := s.tbl.replicated.filter fun x => other x.1
    migrated := s.tbl.migrated.filter fun x => other x.1 }

/-- R43, R44: the table's shut-down has ended. -/
def settleTable (t : Nat) (s : State) : State :=
  let fn := tableFn s t
  if fn.state != .disabled then s
  else
    let s := concludeDisables fn.disables (setTableFn t {} s)
    match beginFresh fn.deferred s with
    | (some c, s) => loadRun c s
    | (none, s) => s

/-- R118, R150: a slot becomes EMPTY. -/
def emptySlot (t i : Nat) (s : State) : State :=
  let e := tdEpoch (slotDesc s t i)
  settleTable t (freeGraft t e (setSlot t i .empty s))

/-- R129 step 8: the end of the owner's work on an epoch that is to be dropped empties its slot. -/
def epochDropped (t e : Nat) (s : State) : State :=
  let w := workOf s t
  if !w.drops.contains e || ownerWork s t e then s
  else
    let s := setWork { w with drops := w.drops.filter fun x => x != e } s
    match heldSlot s t e fun st => st == .previous || st == .retiring with
    | some i => emptySlot t i s
    | none => s

/-- R129 step 6, R134: DRAINED goes to the manager once no work of the stamp is outstanding; the drain of a local retirement ends. -/
def drainDone (t e : Nat) (s : State) : State :=
  let w := workOf s t
  if stampedWork s t e then s
  else
    let s := if w.drains.contains e then
        send s.fab.mgrId (.drained t e false) (setWork { w with drains := w.drains.filter fun x => x != e } s)
      else s
    let w := workOf s t
    if w.localDrains.contains e then
      setWork { w with localDrains := w.localDrains.filter fun x => x != e, drops := w.drops ++ [e] } s
    else s

def execMemberDrainDone (table epoch : Nat) (s : State) : Host.Outcome State Fault Refusal := whileOn (drainDone table epoch) s

/-! ### Local RETIRE_TABLE (R134, R135) -/

/-- R118, R134: every version in service goes to RETIRING. -/
def toRetiring (t : Nat) (s : State) : State :=
  [0, 1].foldl (fun s i => if slotSt s t i == .current || slotSt s t i == .previous then setSlot t i .retiring s else s) s

/-- R134 with domain = 0. -/
def retireLocal (c : Cmd) (s : State) : State :=
  let t := bits (par c 0) 15 0
  match fnDisable (tableFn s t) c with
  | (_, .okNow) => completeOk c 0 s
  | (fn, .start) =>
    let s := toRetiring t (setTableFn t fn s)
    let w := workOf s t
    setWork { w with localDrains := (w.localDrains ++ slotEpochs s t fun st => st == .retiring).eraseDups } s
  | (fn, .joins cs) => cancelDeferred cs (setTableFn t fn s)

end Sys2Proof.Machine
end

