-- ==== Sys2Proof/Machine/Publish.lean ====
section
/-!
DEFINITION. Publication of a table version and domain retirement, on the manager and on a member (R125 to R136),
and the copies that the manager sends its deputy first (R460).
-/

namespace Sys2Proof.Machine

/-! ### The manager and its deputy (R460) -/

def isManager (s : State) : Bool := s.fab.role == .manager

/-- The members of the domain, the manager included. -/
def domainMembers (s : State) : List Nat := (s.fab.members.filter fun m => !m.reserve).map (·.id)

/-- The deputy that must acknowledge a copy: one that has joined and is not DOWN. -/
def liveDeputy (s : State) : Option Nat :=
  if isManager s && s.fab.depUid != 0 && ((memberOf s s.fab.depId).any fun m => m.joined && !m.down) then some s.fab.depId else none

/-- R460: an item of state goes to the deputy; the manager acts on it at once only when it has none. -/
def mgrCopy (item : MgrItem) (act : State → State) (s : State) : State :=
  match liveDeputy s with
  | none => act s
  | some d =>
    send d (.mgrState item s.fab.copyNext) (s.setFab { s.fab with
      copyNext := (s.fab.copyNext + 1) % 2 ^ 32
      unacked := s.fab.unacked ++ [(s.fab.copyNext, item)] })

/-! ### PUBLISH_TABLE on the manager (R126 to R129, R131, R132) -/

def pubOf (s : State) (t : Nat) : Option Publication := s.tbl.pubs.find? fun p => p.table == t

def setPub (p : Publication) (s : State) : State :=
  s.setTbl { s.tbl with pubs := updFirst (fun x => x.table == p.table) (fun _ => p) s.tbl.pubs }

/-- R471: codes of the last outcome of a publication: 1 committed, 2 aborted. -/
def pubEnd (p : Publication) (code status result : Nat) (s : State) : State :=
  let s := s.setTbl { s.tbl with
    pubs := s.tbl.pubs.filter fun x => x.table != p.table
    last := (p.table, p.epoch, code) :: s.tbl.last.filter fun x => x.1 != p.table }
  match p.cmd with
  | some c => complete c status 0 result s
  | none => s

/-- R129 step 3: the manager sends COMMIT to every member. -/
def sendCommit (t e x : Nat) (s : State) : State := sendAll (domainMembers s) (.commit t e x) s

/-- R129 step 3, R132: the publication is aborted. -/
def pubAbort (p : Publication) (dev reason : Nat) (s : State) : State :=
  pubEnd p 2 (if reason = 1 then stBadPacket else stNoResource) (dev + reason * 2 ^ 16) (sendAll (domainMembers s) (.abort p.table p.epoch) s)

/-- R127: fields of a member record. -/
def recDev (l : List Byte) : Nat := leAt l 0 2
def recDesc (l : List Byte) : List Byte := slice 16 64 l

/-- R128: the member records do not fit. -/
def recordsBad (s : State) (t e : Nat) (rs : List (List Byte)) : Bool :=
  let ms := domainMembers s
  rs.length != ms.length || !ms.all (fun m => (rs.filter fun r => recDev r == m).length == 1) ||
  rs.any fun r => tdTable (recDesc r) != t || tdEpoch (recDesc r) != e

/-- R128: the manager's own CURRENT version does not precede the new epoch. -/
def pubEpochBad (s : State) (t e : Nat) : Bool :=
  match currentDesc s t with
  | some d => (tdEpoch d + 1) % 65536 != e
  | none => false

/-- R128, R129 step 1: PUBLISH_TABLE with its records read. -/
def publishWith (c : Cmd) (l : List Byte) (s : State) : State :=
  let t := bits (par c 0) 15 0
  let e := bits (par c 0) 31 16
  let lead := bits (par c 0) 63 32
  let rs := (List.range (bits (par c 2) 31 0)).map fun i => slice (80 * i) 80 l
  if recordsBad s t e rs || pubEpochBad s t e then badPacket c 0 s
  else if (pubOf s t).isSome then complete c stNoResource 0 (0xFFFF + 5 * 2 ^ 16) s
  else
    let x := (s.now + lead * usUnits) % 2 ^ 64
    let p : Publication :=
      { cmd := some c, table := t, epoch := e, time := x, reply := (x + 2 ^ 64 - lead * usUnits / 2) % 2 ^ 64 }
    rs.foldl (fun s r => send (recDev r) (.prepare t e x (recDesc r)) s) (s.setTbl { s.tbl with pubs := s.tbl.pubs ++ [p] })

/-- R126: PUBLISH_TABLE. -/
def publishTable (c : Cmd) (s : State) : State :=
  let s := startCmd c s
  let lead := bits (par c 0) 63 32
  let n := bits (par c 2) 31 0
  if !isManager s || bits (par c 2) 63 32 ≠ 0 || lead < 100 || 1000000 < lead || n != (domainMembers s).length then badPacket c 0 s
  else if s.tbl.pubs.any fun p => p.cmd == some c then s
  else
    let s := dirRead [c] (bits (par c 0) 15 0) s
    if s.hl.loss.isSome then s
    else runAcc (.cmd c) (ctxRead (.cmd c) c.ctx (par c 1) (80 * n)) (publishWith c) (faultCmd c) s

def execPublishTable (c : Cmd) (s : State) : Host.Outcome State Fault Refusal := whileOn (publishTable c) s

/-- R129 step 3, R131, R460: READY from every member decides the publication. -/
def pubDecide (p : Publication) (s : State) : State :=
  if p.committed || !(domainMembers s).all fun m => p.ready.contains m then s
  else mgrCopy (.publication p.table p.epoch p.time) (sendCommit p.table p.epoch p.time) (setPub { p with committed := true } s)

def readyArrives (h : Hdr) (t e : Nat) (s : State) : State :=
  match pubOf s t with
  | none => s
  | some p =>
    if p.epoch != e || p.ready.contains h.src then s
    else
      let p := { p with ready := p.ready ++ [h.src] }
      pubDecide p (setPub p s)

def refuseArrives (h : Hdr) (t e reason : Nat) (s : State) : State :=
  match pubOf s t with
  | none => s
  | some p => if p.epoch != e || p.committed then s else pubAbort p h.src reason s

def execReady (h : Hdr) (table epoch : Nat) (s : State) : Host.Outcome State Fault Refusal :=
  .next (deliver h (.ready table epoch) (responded (fun m => m.dst == h.src && (match m.body with
    | .prepare t e .. => t == table && e == epoch
    | _ => false)) (readyArrives h table epoch)) s)

def execRefuse (h : Hdr) (table epoch reason : Nat) (s : State) : Host.Outcome State Fault Refusal :=
  .next (deliver h (.refuse table epoch reason) (responded (fun m => m.dst == h.src && (match m.body with
    | .prepare t e .. => t == table && e == epoch
    | _ => false)) (refuseArrives h table epoch reason)) s)

/-- R129 step 3: T − lead_us ÷ 2 comes with a reply still missing. -/
def replyDeadline (t : Nat) (s : State) : State :=
  match pubOf s t with
  | none => s
  | some p => if p.committed then s else pubAbort p 0xFFFF 4 (reachTime p.reply s)

def execPublishReplyDeadline (table : Nat) (s : State) : Host.Outcome State Fault Refusal := whileOn (replyDeadline table) s

/-! ### The end of a publication and of a domain retirement (R129 steps 7 to 9, R134) -/

/-- R461: a member has drained, or is DOWN and counts as drained. -/
def drainedBy (s : State) (l : List (Nat × Nat × Bool)) (m : Nat) : Bool := (l.any fun d => d.1 == m) || isDown s m

/-- The manager's own slots hold nothing of an epoch that is to be dropped. -/
def ownDropped (s : State) (t : Nat) (l : List (Nat × Nat × Bool)) : Bool :=
  l.all fun d => d.1 != ownId s || d.2.2 || (heldSlot s t d.2.1 fun st => st == .previous || st == .retiring).isNone

/-- R129 steps 7 and 9: after every DRAINED the DROPs go out; after the manager's own drop PUBLISH_TABLE completes. -/
def pubCheck (t : Nat) (s : State) : State :=
  match pubOf s t with
  | none => s
  | some p =>
    if !p.committed || !(domainMembers s).all (drainedBy s p.drained) then s
    else
      let s := if p.dropped then s
        else (p.drained.filter fun d => !d.2.2).foldl (fun s d => send d.1 (.drop t d.2.1) s) (setPub { p with dropped := true } s)
      if ownDropped s t p.drained then pubEnd p 1 stOk p.time s else s

/-- R134: a domain retirement is over when every member has drained and this device holds nothing of the table. -/
def retireCheck (t : Nat) (s : State) : State :=
  match s.tbl.retires.find? fun r => r.table == t with
  | none => s
  | some r =>
    if (domainMembers s).all (drainedBy s r.drained) && (findSlot s t fun st _ => st.serves).isNone then
      r.cmds.foldl (fun s c => completeOk c 0 s) (s.setTbl { s.tbl with retires := s.tbl.retires.filter fun x => x.table != t })
    else s

/-- The end of something that publications and retirements of a table wait for. -/
def tableCheck (t : Nat) (s : State) : State := retireCheck t (pubCheck t s)

def drainedArrives (h : Hdr) (t e : Nat) (none : Bool) (s : State) : State :=
  let add := fun (l : List (Nat × Nat × Bool)) => if l.contains (h.src, e, none) then l else l ++ [(h.src, e, none)]
  let s := match pubOf s t with
    | some p => if p.committed && !p.dropped then setPub { p with drained := add p.drained } s else s
    | Option.none => s
  let s := if s.tbl.retires.any fun r => r.table == t then
      let s := s.setTbl { s.tbl with retires := updFirst (fun r => r.table == t) (fun r => { r with drained := add r.drained }) s.tbl.retires }
      if none then s else send h.src (.drop t e) s
    else s
  tableCheck t s

def execDrained (h : Hdr) (table epoch : Nat) (none : Bool) (s : State) : Host.Outcome State Fault Refusal :=
  .next (deliver h (.drained table epoch none) (drainedArrives h table epoch none) s)

/-! ### The member's side (R129 steps 2, 4, 5, 6 and 8) -/

/-- R129 step 2: the reason to refuse a PREPARE, in the order of its checks. -/
def prepareReason (s : State) (t e : Nat) (d : List Byte) : Option Nat :=
  if tdTable d != t || tdEpoch d != e || descBad s d then some 1
  else if (findSlot s t fun st _ => st == .empty).isNone || (findSlot s t fun st _ => st == .previous || st == .retiring).isSome then some 2
  else if s.tbl.migs.any fun m => m.row.table == t && (m.state == .copying || m.state == .forwarding) then some 3
  else none

def prepareArrives (h : Hdr) (t e : Nat) (d : List Byte) (s : State) : State :=
  let s := dirRead [] t s
  if s.hl.loss.isSome then s
  else match findSlot s t fun st _ => st == .pending with
  | some i =>
    if tdEpoch (slotDesc s t i) != e then send h.src (.refuse t e 5) s
    else if slotDesc s t i == padTo 64 d then send h.src (.ready t e) s
    else send h.src (.refuse t e 1) s
  | none =>
    match prepareReason s t e d with
    | some r => send h.src (.refuse t e r) s
    | none =>
      let i := (findSlot s t fun st _ => st == .empty).getD 0
      let s := setSlot t i .pending (setSlotDesc t i d s)
      send h.src (.ready t e) (setDirWord t 0 (setBits (dirWord s t 0) 47 32 e) s)

def execPrepare (h : Hdr) (table epoch time : Nat) (desc : List Byte) (s : State) : Host.Outcome State Fault Refusal :=
  .next (deliver h (.prepare table epoch time desc) (prepareArrives h table epoch desc) s)

/-- R129 step 6: after a flip the former epoch is to be drained; without one DRAINED goes out at once. -/
def oweDrain (t e : Nat) (s : State) : State :=
  match slotEpochs s t fun st => st == .previous with
  | f :: _ =>
    let w := workOf s t
    setWork { w with drains := if w.drains.contains f then w.drains else w.drains ++ [f] } s
  | [] => send s.fab.mgrId (.drained t e true) s

/-- R129 step 4: the PENDING slot of an epoch becomes CURRENT. -/
def flipTable (t e : Nat) (s : State) : State :=
  match findSlot s t fun st d => st == .pending && tdEpoch d == e with
  | none => s
  | some i =>
    let s := match currentSlot s t with
      | some j => setSlot t j .previous s
      | none => s
    let s := setDirWord t 2 s.now (setSlot t i .current s)
    oweDrain t e (setWork { workOf s t with commit := none } s)

/-- R129 step 4, R130, R133: COMMIT; one sent again for a version that has flipped makes the member report its drain again. -/
def commitArrives (t e x : Nat) (s : State) : State :=
  if (findSlot s t fun st d => st == .pending && tdEpoch d == e).isSome then
    if ahead s x then setWork { workOf s t with commit := some (e, x) } s
    else
      let s := if s.now % 2 ^ 64 == x % 2 ^ 64 then s else count Reg.TBL_CNT_LATE_COMMIT s
      flipTable t e s
  else if (findSlot s t fun st d => st == .current && tdEpoch d == e).isSome then oweDrain t e s
  else s

def execCommit (h : Hdr) (table epoch time : Nat) (s : State) : Host.Outcome State Fault Refusal :=
  .next (deliver h (.commit table epoch time) (commitArrives table epoch time) s)

def commitTime (t : Nat) (s : State) : State :=
  match (workOf s t).commit with
  | some (e, x) => flipTable t e (reachTime x s)
  | none => s

def execCommitTimeReached (table : Nat) (s : State) : Host.Outcome State Fault Refusal := whileOn (commitTime table) s

/-- R129 step 5. -/
def abortArrives (t e : Nat) (s : State) : State :=
  match findSlot s t fun st d => st == .pending && tdEpoch d == e with
  | some i => setWork { workOf s t with commit := none } (setSlot t i .empty s)
  | none => s

def execAbort (h : Hdr) (table epoch : Nat) (s : State) : Host.Outcome State Fault Refusal :=
  .next (deliver h (.abort table epoch) (abortArrives table epoch) s)

/-- R129 step 8: a slot that holds the epoch as PREVIOUS or RETIRING is to be dropped. -/
def dropArrives (t e : Nat) (s : State) : State :=
  if (heldSlot s t e fun st => st == .previous || st == .retiring).isNone then s
  else
    let w := workOf s t
    setWork { w with drops := if w.drops.contains e then w.drops else w.drops ++ [e] } s

def execDrop (h : Hdr) (table epoch : Nat) (s : State) : Host.Outcome State Fault Refusal :=
  .next (deliver h (.drop table epoch) (dropArrives table epoch) s)

def epochWorkEnd (t e : Nat) (s : State) : State := tableCheck t (epochDropped t e s)

def execOwnerEpochWorkEnd (table epoch : Nat) (s : State) : Host.Outcome State Fault Refusal := whileOn (epochWorkEnd table epoch) s

/-! ### Domain retirement (R134, R136) -/

/-- R134: the manager sends RETIRE with a retire time 100 µs ahead. -/
def retireDomain (c : Cmd) (s : State) : State :=
  let t := bits (par c 0) 15 0
  let fn := tableFn s t
  let s := cancelDeferred fn.deferred (setTableFn t { fn with deferred := [] } s)
  if s.tbl.retires.any fun r => r.table == t then
    s.setTbl { s.tbl with retires := updFirst (fun r => r.table == t) (fun r => { r with cmds := r.cmds ++ [c] }) s.tbl.retires }
  else
    let x := (s.now + 100 * usUnits) % 2 ^ 64
    sendAll (domainMembers s) (.retire t x) (s.setTbl { s.tbl with retires := s.tbl.retires ++ [{ cmds := [c], table := t, time := x }] })

/-- R134, R136: RETIRE_TABLE. -/
def retireTable (c : Cmd) (s : State) : State :=
  let s := startCmd c s
  let t := bits (par c 0) 15 0
  if bits (par c 0) 63 17 ≠ 0 then badPacket c 0 s
  else if !bit (par c 0) 16 then
    let s := dirRead [c] t s
    if s.hl.loss.isSome then s else retireLocal c s
  else if !isManager s then badPacket c 0 s
  else if s.tbl.waitRetire.contains c || (s.tbl.retires.any fun r => r.cmds.contains c) then s
  else if (pubOf s t).isSome then s.setTbl { s.tbl with waitRetire := s.tbl.waitRetire ++ [c] }
  else retireDomain c s

def execRetireTable (c : Cmd) (s : State) : Host.Outcome State Fault Refusal := whileOn (retireTable c) s

/-- R136: the publication has completed. -/
def retireAfter (c : Cmd) (s : State) : State :=
  if !s.tbl.waitRetire.contains c || (pubOf s (bits (par c 0) 15 0)).isSome then s
  else retireDomain c (s.setTbl { s.tbl with waitRetire := s.tbl.waitRetire.filter fun x => x != c })

def execRetireAfterPublish (c : Cmd) (s : State) : Host.Outcome State Fault Refusal := whileOn (retireAfter c) s

def execRetire (h : Hdr) (table time : Nat) (s : State) : Host.Outcome State Fault Refusal :=
  .next (deliver h (.retire table time) (fun s => setWork { workOf s table with retireAt := some time } s) s)

/-- R134: the retire time: each version goes to RETIRING, and each RETIRING epoch is to be drained. -/
def retireNow (t : Nat) (s : State) : State :=
  let s := toRetiring t s
  let w := { workOf s t with retireAt := none }
  match slotEpochs s t fun st => st == .retiring with
  | [] => send s.fab.mgrId (.drained t 0 true) (setWork w s)
  | es => setWork { w with drains := (w.drains ++ es).eraseDups } s

def retireTime (t : Nat) (s : State) : State :=
  match (workOf s t).retireAt with
  | some x => retireNow t (reachTime x s)
  | none => s

def execRetireTimeReached (table : Nat) (s : State) : Host.Outcome State Fault Refusal := whileOn (retireTime table) s

/-! ### Takeover and the loss of a member (R133, R461) -/

/-- A member has gone DOWN: what waits for its drains goes on. -/
def tablesDown (s : State) : State :=
  ((s.tbl.pubs.map (·.table)) ++ s.tbl.retires.map (·.table)).foldl (fun s t => tableCheck t s) s

/-- Tables with a nonzero directory entry. -/
def listedTables (s : State) : List Nat :=
  let b := dirAt s 0
  (s.mem.bytes.filterMap fun c => if b ≤ c.1 ∧ c.1 < b + 256 * 65536 then some ((c.1 - b) / 256) else none).eraseDups

/-- R133: the new manager sends COMMIT again for what was copied to it, and ABORT for a version that it holds PENDING otherwise. -/
def tablesTakeover (s : State) : State :=
  let copied := s.fab.mgrCopies.filterMap fun i => match i with
    | .publication t e x => some (t, e, x)
    | _ => none
  let s := copied.foldl (fun s p =>
    sendCommit p.1 p.2.1 p.2.2 (s.setTbl { s.tbl with pubs := (s.tbl.pubs.filter fun x => x.table != p.1) ++
      [{ cmd := none, table := p.1, epoch := p.2.1, time := p.2.2, reply := p.2.2, committed := true }] })) s
  (listedTables s).foldl (fun s t =>
    match findSlot s t fun st _ => st == .pending with
    | some i =>
      let e := tdEpoch (slotDesc s t i)
      if copied.any fun p => p.1 == t && p.2.1 == e then s
      else
        let p : Publication := { cmd := none, table := t, epoch := e, time := s.now, reply := s.now }
        pubAbort p 0xFFFF 4 s
    | none => s) s

end Sys2Proof.Machine
end

