-- ==== Sys2Proof/Machine/Pool.lean ====
section
/-!
DEFINITION. Pooling (R80, R101 to R104, R181), the hot-row sketch (R146, R147), row faults and their log (R92, R100, R534),
and the owner's side of lookup batches (R98, R100, R105, R106, R121, R122, R154).
-/

namespace Sys2Proof.Machine

/-! ### Pooling arithmetic (R101 to R104, R181) -/

def vecZip (f : Fx → Fx → Fx) (a b : List Fx) : List Fx := List.zipWith f a b

/-- The vector of zeros. -/
def vecZero (d : Nat) : List Fx := List.replicate d (.fin false 0 0)

/-- R29, R101: an FP32 sum in Free mode: any two partial sums are added next. -/
def sumFree : Nat → List (List Fx) → State → List Fx × State
  | 0, l, s => (l.headD [], s)
  | n + 1, l, s =>
    match l with
    | [] => ([], s)
    | [x] => (x, s)
    | _ =>
      let (i, s) := choose l.length s
      let rest := l.eraseIdx i
      let (j, s) := choose rest.length s
      sumFree n (vecZip fp32.add (l.getD i []) (rest.getD j []) :: rest.eraseIdx j) s

/-- R181: exact sums with one rounding at the end. -/
def sumExact (d : Nat) (l : List (List Fx)) : List Fx := (l.foldl (vecZip Fx.addExact) (vecZero d)).map fp32.round

/-- What pooling gives: the elements, the count of present rows, and whether there was none. -/
structure Pooled where
  vals : List Fx
  count : Nat
  none : Bool
  deriving DecidableEq, Repr

/-- R101, R102, R178: the pooling of present rows, with a weight for each; MEAN is divided later. -/
def poolRows (op : Nat) (exact : Bool) (d : Nat) (rows : List (List Fx)) (ws : List Fx) (s : State) : Pooled × State :=
  let n := rows.length
  if n = 0 then (⟨vecZero d, 0, true⟩, s)
  else if op = 2 then (⟨(rows.drop 1).foldl (vecZip fxMax) (rows.headD []), n, false⟩, s)
  else
    let rows := if op = 3 then List.zipWith (fun r w => r.map (fp32.mul w)) rows ws else rows
    if exact then (⟨sumExact d rows, n, false⟩, s)
    else
      let (v, s) := sumFree n rows s
      (⟨v, n, false⟩, s)

/-- R101, R102: MEAN divides by the count. -/
def poolFinish (op : Nat) (p : Pooled) : List Fx :=
  if op = 1 && p.count != 0 then p.vals.map fun x => fp32.div x (.fin false p.count 0) else p.vals

/-- R87: bytes of an output vector. -/
def vecBytes (outKind outFmt d : Nat) : Nat :=
  match outKind with
  | 0 => d * ((Fmt.ofCode outFmt).getD .int4).width / 8
  | 1 => 2 * d
  | _ => 4 * d

/-- R104: a result in the segment's output kind, and its saturated elements. -/
def outVector (outKind outFmt outShift : Nat) (v : List Fx) : List Byte × Nat :=
  match outKind with
  | 0 =>
    let f := (Fmt.ofCode outFmt).getD .int4
    let cs := v.map fun x => convert x f (sext outShift 7) .nearest 0
    (packCodes f.width (cs.map (·.code)), (cs.filter (·.sat)).length)
  | 1 => ((v.map fun x => leBytes 2 (bf16.encode x)).flatten, 0)
  | _ => ((v.map fun x => leBytes 4 (fp32.encode x)).flatten, 0)

/-- R103: bytes of a partial. -/
def partialSize (op d : Nat) : Nat := 4 * d + (if op = 1 || op = 2 then 8 else 0)

/-- R102, R103: a partial. -/
def partialBytes (op : Nat) (p : Pooled) : List Byte :=
  (p.vals.map fun x => leBytes 4 (fp32.encode x)).flatten ++
  (if op = 1 then leBytes 8 p.count else if op = 2 then leBytes 8 (if p.none then 2 ^ 31 else 0) else [])

/-- R103: the reading of a partial. -/
def readPartial (op d : Nat) (l : List Byte) : Pooled :=
  let w := leAt l (4 * d) 4
  { vals := (List.range d).map fun i => fp32.decode (leAt l (4 * i) 4)
    count := if op = 1 then w else 1
    none := op == 2 && bit w 31 }

/-! ### The sketch and the hot-row log (R146, R147) -/

def sketchIndex (t row d : Nat) : Nat :=
  bits ((((t * 2 ^ 40 + row) ^^^ (d * 0x5851F42D4C957F2D) % 2 ^ 64) * 0x9E3779B97F4A7C15) % 2 ^ 64) 63 53

/-- Key of a sketch counter of a Xylem unit. -/
def sketchKey (ch t row d : Nat) : Nat := ch * 8192 + d * 2048 + sketchIndex t row d

def sketchEstimate (s : State) (ch t row : Nat) : Nat :=
  ((List.range 4).map fun d => mget 0 s.tbl.sketch (sketchKey ch t row d)).foldl min (2 ^ 32 - 1)

/-- R147: an entry of the hot-row log, dropped when the log is full. -/
def hotLog (ch t e row est : Nat) (s : State) : State :=
  let p := bits (regGet s Reg.TBL_HOTLOG_PROD) 11 0
  if (p + 1) % 4096 = bits (regGet s Reg.TBL_HOTLOG_CONS) 11 0 then count Reg.TBL_CNT_HOTLOG_DROP s
  else
    let s := memWrite (bits (regGet s Reg.TBL_HOTLOG_BASE) 45 0 + 16 * p)
      (leBytes 8 (t + e * 2 ^ 16 + row % 2 ^ 32 * 2 ^ 32) ++ leBytes 8 (row / 2 ^ 32 + ch % 32 * 2 ^ 8 + ch / 32 * 2 ^ 16 + est * 2 ^ 32)) s
    regPut Reg.TBL_HOTLOG_PROD ((p + 1) % 4096) s

/-- R146, R147: a row read that a Xylem unit serves is counted for a watched table. -/
def sketchCount (ch t e row : Nat) (s : State) : State :=
  let cfg := regGet s Reg.TBL_GRAFT_CFG
  if !bit cfg 24 || !bit (dirWord s t 0) 7 then s
  else
    let old := sketchEstimate s ch t row
    let s := (List.range 4).foldl (fun s d =>
      let k := sketchKey ch t row d
      s.setTbl { s.tbl with sketch := mset 0 s.tbl.sketch k (min (2 ^ 32 - 1) (mget 0 s.tbl.sketch k + 1)) }) s
    let est := sketchEstimate s ch t row
    if old < bits cfg 15 0 && bits cfg 15 0 ≤ est then hotLog ch t e row est s else s

/-- R146: every counter is halved. -/
def sketchDecay (s : State) : State :=
  s.setTbl { s.tbl with sketch := (s.tbl.sketch.map fun p => (p.1, p.2 / 2)).filter fun p => p.2 != 0 }

def execSketchDecay (s : State) : Host.Outcome State Fault Refusal := whileOn sketchDecay s

/-! ### Reading rows (R67, R78, R80, R100, R143, R184) -/

/-- R534: a row fault is counted and logged. -/
def rowFault (t row requester code : Nat) (update : Bool) (s : State) : State :=
  let p := regGet s Reg.OBS_RFLOG_PROD
  let i := p % 64
  let s := regPut (Reg.OBS_RFLOG_A i) (t + requester * 2 ^ 16 + code * 2 ^ 32 + b2n update * 2 ^ 40) s
  let s := regPut (Reg.OBS_RFLOG_C i) s.now (regPut (Reg.OBS_RFLOG_B i) (row % 2 ^ 40) s)
  count Reg.XCH_CNT_ROW_FAULT (regPut Reg.OBS_RFLOG_PROD ((p + 1) % 65536) s)

/-- R516: a Xylem unit reads or writes the sectors of a slot. -/
def slotEvents (code a n : Nat) (s : State) : State :=
  (sectorsOf a n).foldl (fun s k => evt (133 + channelOf (k * 64) / 32) code (channelOf (k * 64) % 32) 1 none s) s

/-- A Xylem unit reads a row's slot. -/
def slotRead (d : List Byte) (row : Nat) (s : State) : Except Flt (Nat × List Byte) × State :=
  match rowSlotAt s d row with
  | none => (.error .illegal, s)
  | some a =>
    if !populatedRange a (tdSlot d) then (.error .illegal, s)
    else
      let s := slotEvents 0x90 a (tdSlot d) s
      let (bad, s) := meetErrors a (tdSlot d) s
      let s := sketchCount (channelOf a) (tdTable d) (tdEpoch d) row s
      (if bad then .error .ecc else .ok (a, memRead s a (tdSlot d)), s)

/-- The elements of a row of this device's own copy. -/
def rowRead (d : List Byte) (row : Nat) (s : State) : Except Flt (List Fx) × State :=
  let (r, s) := slotRead d row s
  (r.bind fun x => decodeRow (tdFormat d) (tdDim d) x.2, s)

def migOf (s : State) (r : RowRef) : Option Mig := s.tbl.migs.find? fun m => m.row == r

/-- R100, R154: the elements of a row as owner; `got` are rows fetched from their new owner. -/
def ownRow (got : List (RowRef × List Byte)) (d : List Byte) (row : Nat) (s : State) : Except Flt (List Fx) × State :=
  let r : RowRef := ⟨tdTable d, tdEpoch d, row⟩
  match (migOf s r).map Mig.state with
  | some (MigState.owner l) => (decodeRow (tdFormat d) (tdDim d) l, s)
  | some .forwarding | some .fwdReplica =>
    (match got.find? fun x => x.1 == r with
     | some x => decodeRow (tdFormat d) (tdDim d) x.2
     | none => .error .illegal, s)
  | some .receiving | some .gone => (.error .illegal, s)
  | _ => rowRead d row s

/-- R80, R83, R100: the value of an index, or the faulty table, row and code. -/
def indexValue (got : List (RowRef × List Byte)) (d : List Byte) (rows : Nat × Nat) (s : State) :
    Except (Nat × Nat × Flt) (List Fx) × State :=
  if tdComposed d && (currentDesc s (tdPartner d)).isNone then (.error (tdTable d, rows.1, .illegal), s)
  else
    let (x, s) := ownRow got d rows.1 s
    match x with
    | .error f => (.error (tdTable d, rows.1, f), s)
    | .ok x =>
      if !tdComposed d then (.ok x, s)
      else
        let p := (currentDesc s (tdPartner d)).getD []
        let (y, s) := rowRead p rows.2 s
        match y with
        | .error f => (.error (tdPartner d, rows.2, f), s)
        | .ok y => (.ok (vecZip (if tdMul d then fp32.mul else fp32.add) x y), s)

/-- The values of the valid indices of a bag part with their weights, and the faults met. -/
def partValues (got : List (RowRef × List Byte)) (d : List Byte) : List (Nat × Nat) → State →
    (List (List Fx × Fx) × List (Nat × Nat × Flt)) × State
  | [], s => (([], []), s)
  | (i, w) :: rest, s =>
    match rowOf d (partnerRows s d) i with
    | none => partValues got d rest s
    | some rows =>
      let (v, s) := indexValue got d rows s
      let ((vs, fs), s) := partValues got d rest s
      match v with
      | .ok x => (((x, bf16.decode w) :: vs, fs), s)
      | .error f => ((vs, f :: fs), s)

/-! ### The owner's results (R98, R104) -/

/-- Bytes whose values the spec leaves undefined. -/
def freeBytes (n : Nat) (s : State) : List Byte × State :=
  let (k, s) := drawFree s
  ((List.range n).map fun i => BitVec.ofNat 8 (Config.undef (k + i)).toNat, (s.setFree (s.free + n)))

/-- R98, R104: the result of a bag part, with row faults counted and logged for its requester. -/
def poolPart (m : BatchMsg) (got : List (RowRef × List Byte)) (g : SegBlock) (d : List Byte) (split : Bool) (idx : List (Nat × Nat))
    (s : State) : PartRes × State :=
  let ((vs, fs), s) := partValues got d idx s
  match fs with
  | [] =>
    let (p, s) := poolRows g.poolOp m.exact (tdDim d) (vs.map (·.1)) (vs.map (·.2)) s
    if split then ({ data := partialBytes g.poolOp p }, s)
    else
      let (l, n) := outVector g.outKind g.outFmt g.outShift (poolFinish g.poolOp p)
      ({ data := l, saturated := n }, s)
  | f :: _ =>
    let s := fs.foldl (fun s f => rowFault f.1 f.2.1 m.requester f.2.2.code false s) s
    let (l, s) := freeBytes (if split then partialSize g.poolOp (tdDim d) else vecBytes g.outKind g.outFmt (tdDim d)) s
    ({ data := l, fault := some f.2.2.code }, s)

/-- R97: the bag parts of a segment block with their indices and weights. -/
def segParts (g : SegBlock) : List (Bool × List (Nat × Nat)) :=
  let ps := if g.onePerBag then g.indices.map fun _ => (1, false) else g.parts
  let xs := (List.range g.indices.length).map fun i => (g.indices.getD i 0, g.weights.getD i 0)
  (ps.foldl (fun (acc : List (Bool × List (Nat × Nat)) × List (Nat × Nat)) p =>
    (acc.1 ++ [(p.2, acc.2.take p.1)], acc.2.drop p.1)) ([], xs)).1

/-- The results of every bag part of a batch. -/
def poolBatch (o : OwnBatch) (s : State) : List PartRes × State :=
  o.msg.segs.foldl (fun (acc : List PartRes × State) g =>
    match heldDesc acc.2 g.table g.epoch SlotState.serves with
    | none => acc
    | some d =>
      (segParts g).foldl (fun (acc : List PartRes × State) p =>
        let (r, s) := poolPart o.msg o.rows g d p.1 p.2 acc.2
        (acc.1 ++ [r], s)) acc) ([], s)

/-! ### Lookup batches as owner (R105, R106, R121, R122, R154) -/

/-- R188, R542: the part serves no lookups or updates as owner. -/
def ownerClosed (s : State) : Bool := s.xyl.maint || s.pwr.pstate == .d3hot

/-- The rows that a batch names on this device. -/
def batchRows (s : State) (m : BatchMsg) : List RowRef :=
  (m.segs.flatMap fun g => match heldDesc s g.table g.epoch SlotState.serves with
    | none => []
    | some d => g.indices.filterMap fun i => (rowOf d (partnerRows s d) i).map fun r => (⟨g.table, g.epoch, r.1⟩ : RowRef)).eraseDups

/-- R121, R154: a batch that is answered with an EPOCH_GONE notice. -/
def batchGone (s : State) (m : BatchMsg) : Bool :=
  ownerClosed s || (m.segs.any fun g => (heldSlot s g.table g.epoch SlotState.serves).isNone) ||
  (!s.tbl.migs.isEmpty && (batchRows s m).any fun r => (migOf s r).map (·.state) == some .gone)

/-- R105: the deadline of a batch has come. -/
def batchLate (s : State) (m : BatchMsg) : Bool := !ahead s m.deadline

def ownedOf (s : State) (requester id : Nat) : Option OwnBatch :=
  s.xch.owned.find? fun o => o.msg.requester == requester && o.msg.id == id

def dropOwned (requester id : Nat) (s : State) : State :=
  s.setXch { s.xch with owned := s.xch.owned.filter fun o => !(o.msg.requester == requester && o.msg.id == id) }

/-- A batch whose rows are all at hand is pooled. -/
def ownerPool (o : OwnBatch) (s : State) : State :=
  if !o.fetch.isEmpty then s.setXch { s.xch with owned := s.xch.owned ++ [o] }
  else
    let (rs, s) := poolBatch o s
    s.setXch { s.xch with owned := s.xch.owned ++ [{ o with results := rs }] }

/-- R154: the rows of a batch that are fetched from their new owner. -/
def fetchRows (s : State) (m : BatchMsg) : List (RowRef × Nat) :=
  if s.tbl.migs.isEmpty then []
  else (batchRows s m).filterMap fun r => match migOf s r with
    | some g => if g.state == .forwarding || g.state == .fwdReplica then some (r, g.newOwner) else none
    | none => none

/-- R105, R121, R154: a lookup batch arrives. -/
def batchArrives (m : BatchMsg) (s : State) : State :=
  if batchLate s m then count Reg.XCH_CNT_OWNER_EXPIRED s
  else
    let s := (m.segs.map (·.table)).eraseDups.foldl (fun s t => dirRead [] t s) s
    if s.hl.loss.isSome then s
    else if batchGone s m then send m.requester (.epochGone m.id (ownId s)) (count Reg.TBL_CNT_EPOCH_NOTICE s)
    else
      let fs := fetchRows s m
      let s := fs.foldl (fun s f => send f.2 (.rowFetch f.1 m.id) (count Reg.TBL_CNT_FWD_LOOKUP s)) s
      ownerPool { msg := m, start := s.now, fetch := fs.map (·.1) } (dropOwned m.requester m.id s)

def execBatch (h : Hdr) (m : BatchMsg) (s : State) : Host.Outcome State Fault Refusal := .next (deliver h (.batch m) (batchArrives m) s)

/-- R154: a fetched row arrives for the batches that wait for it. -/
def rowDataArrives (r : RowRef) (l : List Byte) (s : State) : State :=
  let ws := s.xch.owned.filter fun o => o.fetch.contains r
  ws.foldl (fun s o =>
    ownerPool { o with fetch := o.fetch.filter fun x => x != r, rows := o.rows ++ [(r, l)] } (dropOwned o.msg.requester o.msg.id s)) s

def execRowData (h : Hdr) (r : RowRef) (tag : Nat) (slot : List Byte) (s : State) : Host.Outcome State Fault Refusal :=
  .next (deliver h (.rowData r tag slot) (responded (fun m => m.dst == h.src && (match m.body with
    | .rowFetch q _ => q == r
    | _ => false)) (rowDataArrives r slot)) s)

/-- R98: the next results of one fault state, at most `n` of them and of one message (R445). -/
def fragTake (f : Option Nat) : Nat → Nat → List PartRes → List PartRes
  | 0, _, _ => []
  | _, _, [] => []
  | n + 1, room, r :: rs => if r.fault == f && r.data.length ≤ room then r :: fragTake f n (room - r.data.length) rs else []

/-- R98, R105: the owner sends a fragment of its next results. -/
def fragReady (requester id n : Nat) (s : State) : State :=
  match ownedOf s requester id with
  | none => s
  | some o =>
    if batchLate s o.msg then count Reg.XCH_CNT_OWNER_EXPIRED (dropOwned requester id s)
    else
      match o.results.drop o.next with
      | [] => s
      | r :: _ =>
        let rs := fragTake r.fault (min n 65535) (2 ^ 20 - 16) (o.results.drop o.next)
        if rs.isEmpty then s
        else
          let f : FragMsg :=
            { batch := id, firstPart := o.next, responder := ownId s, fault := r.fault.isSome, faultCode := r.fault.getD 0,
              saturated := min 0xFFFF ((rs.map (·.saturated)).foldl (· + ·) 0), results := rs.map (·.data) }
          let s := send requester (.fragment f) s
          if o.results.length ≤ o.next + rs.length then
            evt 128 0x42 ((s.now + 2 ^ 64 - o.start) % 2 ^ 64) 1 none (dropOwned requester id s)
          else s.setXch { s.xch with owned := s.xch.owned.map fun x =>
            if x.msg.requester == requester && x.msg.id == id then { x with next := x.next + rs.length } else x }

def execOwnerFragmentReady (requester id count : Nat) (s : State) : Host.Outcome State Fault Refusal :=
  whileOn (fragReady requester id count) s

/-- R105: the deadline of a batch in service. -/
def ownerDeadline (requester id : Nat) (s : State) : State :=
  match ownedOf s requester id with
  | none => s
  | some o => count Reg.XCH_CNT_OWNER_EXPIRED (dropOwned requester id (reachTime o.msg.deadline s))

def execOwnerBatchDeadline (requester id : Nat) (s : State) : Host.Outcome State Fault Refusal := whileOn (ownerDeadline requester id) s

/-- R106: a cancelled batch is stopped. -/
def execCancel (h : Hdr) (id : Nat) (s : State) : Host.Outcome State Fault Refusal :=
  .next (deliver h (.cancel id) (dropOwned h.src id) s)

end Sys2Proof.Machine
end

