-- ==== Sys2Proof/Machine/Arming.lean ====
section
/-!
DEFINITION. Arming and ending the trace buffer (R43, R522, R523, R528).
-/

namespace Sys2Proof.Machine

/-- R522: a TRACE_ARM with arm set breaks a limit of its parameters. A buffer that left its group would meet a device area. -/
def traceBad (s : State) (c : Cmd) : Bool :=
  let p0 := par c 0
  let base := par c 1
  let len := par c 2
  let p3 := par c 3
  bits p0 2 1 == 3 || bits p0 7 3 != 0 || bits p0 31 16 != 0 || bits p0 63 62 != 0 ||
  decide (2 ^ 46 ≤ base) || base % 0x200000 != 0 || decide (2 ^ 33 ≤ len) || len % 0x200000 != 0 || len == 0 || decide (2 ^ 32 < len) ||
  bits p3 15 8 != 0 || bits p3 63 52 != 0 || bits p3 23 16 == 0 || decide (bits p3 35 24 < 16) || decide (2048 < bits p3 35 24) ||
  !sharedRange s base len || groupOf base != groupOf (base + len - 1) ||
  decide ((len - 4096) / 32 * bits p3 23 16 / 256 < bits p3 35 24)

/-- R523: the trace that an arm begins. -/
def traceArmed (s : State) (c : Cmd) : Trace :=
  let p0 := par c 0
  let p3 := par c 3
  { fn := { state := .enabled }, base := par c 1, length := par c 2, cap := (par c 2 - 4096) / 32, post := bits p3 23 16, kind := bits p0 2 1,
    typ := bits p0 15 8, trigId := bits p0 61 32, classes := bits p3 7 0, reserve := bits p3 35 24, limitMs := bits p3 51 36,
    mask := par c 4, value := par c 5, armTime := s.now }

/-- R522, R523: an arm is carried out: the trace begins anew and its header is written. -/
def traceArmRun (c : Cmd) (s : State) : State :=
  if traceBad s c then conclude c stBadPacket 0 0 s
  else conclude c stOk 0 0 (traceHeader false (s.setTrace (traceArmed s c)))

/-- R528, R43: the trace ends for a reason; its disables complete and a deferred arm is carried out. -/
def traceClose (reason : Nat) (s : State) : State :=
  let s := traceEnd reason s
  let fn := s.obs.trace.fn
  let s := concludeDisables fn.disables (s.setTrace { s.obs.trace with fn := {} })
  match beginFresh fn.deferred s with
  | (some c, s) => traceArmRun c s
  | (none, s) => s

end Sys2Proof.Machine
end

