-- ==== Sys2Proof/Machine/Crown.lean ====
section
/-!
DEFINITION. Crown's commands: doorbells, packet fetch, control commands, completion records, LAUNCH, graphs,
the undeliverable-completion log and manager packets (chapter 12).
-/

namespace Sys2Proof.Machine

/-! ### Doorbells (R372) -/

/-- R372, R419: the command ring of a live context that a doorbell names. -/
def ringOf (s : State) (ctx q : Nat) : Option Ring :=
  match ctxOf s ctx with
  | none => none
  | some x =>
    if x.state == .none || x.state == .faulted then none
    else match x.rings[q]? with
      | some r => if r.enable then some r else none
      | none => none

def setRing (ctx q : Nat) (r : Ring) (s : State) : State := updCtx ctx (fun x => { x with rings := x.rings.set q r }) s

/-- R372: a write of `DB_TAIL[q]`. R574: before READY it is ignored. -/
def dbTail (ctx q value : Nat) (s : State) : State :=
  if !isReady s then s else match ringOf s ctx q with
  | none => count Reg.CRN_CNT_DB_IGNORED s
  | some r => setRing ctx q { r with tail := value % 2 ^ 20 % 2 ^ r.sizeLog } s

/-- R372: a write of `DB_CPL_HEAD`. R574: before READY it is ignored. -/
def dbCplHead (ctx value : Nat) (s : State) : State :=
  if !isReady s then s
  else if !ctxExists s ctx then count Reg.CRN_CNT_DB_IGNORED s
  else updCtx ctx (fun x => { x with cpl := { x.cpl with head := value % 2 ^ 20 % 2 ^ x.cpl.sizeLog } }) s

def execDbTail (ctx q value : Nat) (s : State) : Host.Outcome State Fault Refusal := whileDoorbell (dbTail ctx q value) s
def execDbCplHead (ctx value : Nat) (s : State) : Host.Outcome State Fault Refusal := whileDoorbell (dbCplHead ctx value) s

/-! ### Ring fetch (R371, R377 to R380, R597) -/

/-- Outstanding commands of one ring. -/
def ringOutstanding (s : State) (ctx q : Nat) : List Cmd :=
  (s.crn.started.map (·.cmd)).filter fun c => c.ctx == ctx && c.src == .ring q

/-- R386, R384, R287, R136, R469: a command that cannot start, or that holds its ring until it completes, or a SYNC_START that has
yet to take the packet behind it. -/
def ringHeld (s : State) (ctx q : Nat) : Bool :=
  (ringOutstanding s ctx q).any fun c =>
    c.opcode == 0x01 || (c.opcode == 0x80 && !(s.fab.armed.any fun a => a.sync == c)) || c.opcode == 0x03 || (s.xch.looks.any fun l => l.cmd == c && l.waitsRing) || s.tbl.waitRetire.contains c

/-- R380, R332, R378: Crown may fetch from a ring: the context is resident, within its limits, and the ring is not empty or held. -/
def ringOpen (s : State) (ctx q : Nat) : Bool :=
  match ringOf s ctx q with
  | none => false
  | some r =>
    let x := getCtx s ctx
    accepting s && x.state == .resident && r.head != r.tail && !ringHeld s ctx q && decide (x.records.length ≤ 65) &&
    decide (s.crn.started.length < 4096) && decide ((s.crn.started.filter fun c => c.cmd.ctx == ctx).length < 256)

/-- A packet header read from a ring. -/
def headerRead (w : Work) (ctx : Nat) (r : Ring) : Acc (List Byte) := ctxRead w ctx (r.base + 16 * r.head) 16

/-- R373: the fence bit holds a command behind its ring's earlier ones. -/
def fenceHolds (s : State) (ctx q : Nat) (h : List Byte) : Bool := pkFence h && !(ringOutstanding s ctx q).isEmpty

/-- R378: the next command of a ring can start, as far as its header can be read now. -/
def canStart (s : State) (ctx q : Nat) : Bool :=
  ringOpen s ctx q &&
  match ringOf s ctx q with
  | none => false
  | some r =>
    match headerRead (.fetch ctx q) ctx r s with
    | .ok (h, _) => !fenceHolds s ctx q h
    | .error _ => false

/-- R378: some ring of a higher class has a command that can start. -/
def higherReady (s : State) (q : Nat) : Bool :=
  s.sched.ctxs.any fun x => (List.range q).any fun p => canStart s x.id p

/-- What a fetch came to. -/
inductive Fetched where
  | holds
  | undelimited (seq opcode units : Nat)
  | bad (c : Cmd) (head : Nat)
  | indirect (c : Cmd) (head : Nat) (f : Flt)
  | start (c : Cmd) (head : Nat)
  | ringFault (shadow : Bool) (f : Flt) (header : Option Nat)

/-- R371, R375 to R377, R597: the fetch of the packet at a ring's head. -/
def fetchAcc (ctx q : Nat) (r : Ring) : Acc Fetched := do
  let w : Work := .fetch ctx q
  let size := 2 ^ r.sizeLog
  match ← accTry w (headerRead w ctx r) with
  | .error f => pure (.ringFault false f none)
  | .ok h => do
    let n := pkLength h
    let left := (r.tail + size - r.head) % size
    if n == 0 || decide (265 < n) || decide (size < r.head + n) || decide (left < n) then
      pure (.undelimited (pkSeq h) (pkOpcode h) left)
    else if ← accAsk (fenceHolds · ctx q h) then pure .holds
    else do
      match ← accTry w (ctxRead w ctx (r.base + 16 * r.head) (16 * n)) with
      | .error f => pure (.ringFault false f (some (leAt h 0 8)))
      | .ok l => do
        let head := (r.head + n) % size
        match ← accTry w (if r.shadow == 0 then pure () else ctxWrite w ctx r.shadow (leBytes 8 head)) with
        | .error f => pure (.ringFault true f (some (leAt h 0 8)))
        | .ok _ => do
          let c := packetCmd (.ring q) ctx l
          if !packetOk .ring l then pure (.bad c head)
          else match ← accTry w (readIndirect w .ring 0 (pkIndirect l) c) with
            | .error f => pure (.indirect c head f)
            | .ok none => pure (.bad c head)
            | .ok (some c) => pure (.start c head)

/-- R597: a ring fetch or a head_shadow write has failed. -/
def ringFetchFault (ctx q : Nat) (shadow : Bool) (f : Flt) (header : Option Nat) (s : State) : State :=
  match ringOf s ctx q with
  | none => s
  | some r =>
    let seq := match header with
      | some h => bits h 63 32
      | none => 0xFFFFFFFF
    let op := match header with
      | some h => bits h 7 0
      | none => 0
    let rec_ : Record := { seq := seq, ctx := ctx, status := stFault, fault := f.code, ftime := s.now,
                           result := r.head + b2n shadow * 2 ^ 20, cls := q, opcode := op }
    let s := pushRecord { record := rec_, irq := true } s
    if (getCtx s ctx).tearable then tear ctx (some f) .faulted (emit 0x09 129 ctx f.code 0x0B 0 s) else s

/-- R377: a packet that cannot be delimited. -/
def discardUnits (ctx q seq opcode units : Nat) (r : Ring) (s : State) : State :=
  let rec_ : Record := { seq := seq, ctx := ctx, status := stBadPacket, fault := 0, ftime := s.now, result := units, cls := q, opcode := opcode }
  pushRecord { record := rec_, irq := true }
    (count Reg.CRN_CNT_BAD_PACKET (countN Reg.CRN_CNT_UNITS_DISCARDED units (setRing ctx q { r with head := r.tail } s)))

/-- The head moves past a packet. -/
def moveHead (ctx q head : Nat) (s : State) : State :=
  updCtx ctx (fun x => { x with rings := x.rings.set q { x.rings.getD q ({} : Ring) with head := head } }) s

/-- R378: Crown fetches the packet at a ring's head and starts its command. -/
def packetFetch (ctx q : Nat) (s : State) : State :=
  match ringOf s ctx q with
  | none => s
  | some r =>
    if !ringOpen s ctx q || higherReady s q then s
    else
      runAcc (.fetch ctx q) (fetchAcc ctx q r) (fun out s => match out with
        | .holds => s
        | .undelimited seq op n => discardUnits ctx q seq op n r s
        | .bad c head => badPacket c 0 (startCmd c (moveHead ctx q head s))
        | .indirect c head f => faultCmd c f (startCmd c (moveHead ctx q head s))
        | .start c head => startCmd c (moveHead ctx q head s)
        | .ringFault sh f h => ringFetchFault ctx q sh f h s)
        (fun f s => ringFetchFault ctx q false f none s) s

def execPacketFetch (ctx q : Nat) (s : State) : Host.Outcome State Fault Refusal := whileOn (packetFetch ctx q) s

/-- R597: the codes that a ring fetch can fail with; another code names no event. -/
def ringFetchEvent (ctx q : Nat) (shadow : Bool) (fault : Nat) (header : Option W64) (s : State) : State :=
  match Flt.ofCode fault with
  | some f => if f == .xlate || f == .perm || f == .bus then ringFetchFault ctx q shadow f (header.map BitVec.toNat) s else s
  | none => s

def execRingFetchFault (ctx q : Nat) (shadow : Bool) (fault : Nat) (header : Option W64) (s : State) :
    Host.Outcome State Fault Refusal := whileOn (ringFetchEvent ctx q shadow fault header) s

/-! ### Control commands (R383 to R386) -/

/-- R383: NOP completes. -/
def nop (c : Cmd) (s : State) : State := completeOk c 0 (startCmd c s)
def execNop (c : Cmd) (s : State) : Host.Outcome State Fault Refusal := whileOn (nop c) s

/-- Commands that started before a command. -/
def startedBefore (s : State) (c : Cmd) : List Cmd := (s.crn.started.map (·.cmd)).takeWhile fun d => d != c

/-- R384: the earlier commands of a FENCE's scope that have not completed. -/
def fenceWaits (s : State) (c : Cmd) : List Cmd :=
  (startedBefore s c).filter fun d => d.ctx == c.ctx && (match d.src with
    | .ring q => par c 0 == 1 || c.src == .ring q
    | _ => false)

/-- R384: FENCE. It starts, and completes once nothing of its scope is left. -/
def fence (c : Cmd) (s : State) : State :=
  let s := startCmd c s
  if 1 < par c 0 then badPacket c 0 s
  else if (fenceWaits s c).isEmpty then completeOk c 0 s else s

def execFence (c : Cmd) (s : State) : Host.Outcome State Fault Refusal := whileOn (fence c) s

/-- R385: WRITE_INLINE. -/
def writeInline (c : Cmd) (s : State) : State :=
  let s := startCmd c s
  let n := par c 1
  if n = 0 || 4096 < n || c.data.length < n then badPacket c 0 s
  else runAcc (.cmd c) (ctxWrite (.cmd c) c.ctx (par c 0) (c.data.take n)) (fun _ s => completeOk c 0 s) (faultCmd c) s

def execWriteInline (c : Cmd) (s : State) : Host.Outcome State Fault Refusal := whileOn (writeInline c) s

/-- R386: the comparison of WAIT_VALUE. -/
def waitHolds (cond word value mask : Nat) : Bool :=
  let a := word &&& mask
  let b := value &&& mask
  match cond with
  | 0 => a == b
  | 1 => a != b
  | 2 => decide (b ≤ a)
  | 3 => decide (a < b)
  | 4 => decide (sext b 64 ≤ sext a 64)
  | _ => decide (sext a 64 < sext b 64)

/-- R386: one reading of WAIT_VALUE's word. -/
def waitRead (c : Cmd) (s : State) : State :=
  runAcc (.cmd c) (ctxReadNat (.cmd c) c.ctx (par c 0) 8)
    (fun w s => if waitHolds (bits (par c 3) 2 0) w (par c 1) (par c 2) then completeOk c w s else s) (faultCmd c) s

/-- R386: WAIT_VALUE. -/
def waitValue (c : Cmd) (s : State) : State :=
  let s := startCmd c s
  if !bit (par c 0) 56 || par c 0 % 8 ≠ 0 || 5 < bits (par c 3) 2 0 || bits (par c 3) 31 3 ≠ 0 then badPacket c 0 s
  else waitRead c s

/-- R386: a pending WAIT_VALUE rereads its word. -/
def waitValuePoll (c : Cmd) (s : State) : State := if isStarted s c && c.opcode == 3 then waitRead c s else s

/-- R386: a WAIT_VALUE's limit passes. -/
def waitValueTimeout (c : Cmd) (s : State) : State :=
  match s.crn.started.find? fun x => x.cmd == c with
  | some x =>
    if c.opcode ≠ 3 || bits (par c 3) 63 32 = 0 then s
    else faultCmd c .watchdog (clearWork (.cmd c) (reachTime ((x.time + bits (par c 3) 63 32 * usUnits) % 2 ^ 64) s))
  | none => s

def execWaitValue (c : Cmd) (s : State) : Host.Outcome State Fault Refusal := whileOn (waitValue c) s
def execWaitValuePoll (c : Cmd) (s : State) : Host.Outcome State Fault Refusal := whileOn (waitValuePoll c) s
def execWaitValueTimeout (c : Cmd) (s : State) : Host.Outcome State Fault Refusal := whileOn (waitValueTimeout c) s

/-! ### Completion records (R387 to R390) -/

/-- R389: the completion ring is full. -/
def CplRing.full (r : CplRing) : Bool := (r.prod + 1) % 2 ^ r.sizeLog == r.head

/-- The first waiting record of a context is done with. -/
def popRecord (ctx : Nat) (s : State) : State := updCtx ctx (fun x => { x with records := x.records.drop 1 }) s

/-- R388: the producer moves on; the phase turns at the end of a pass. -/
def advanceProd (ctx : Nat) (s : State) : State :=
  updCtx ctx (fun x => { x with cpl := { x.cpl with
    prod := (x.cpl.prod + 1) % 2 ^ x.cpl.sizeLog
    phase := if x.cpl.prod + 1 = 2 ^ x.cpl.sizeLog then !x.cpl.phase else x.cpl.phase } }) s

/-- R388 to R390, R332, R406: the next record of a context is written, or diverted. -/
def recordWrite (ctx : Nat) (s : State) : State :=
  if !ctxExists s ctx then s
  else
    let x := getCtx s ctx
    match x.records with
    | [] => s
    | p :: _ =>
      let va := x.cpl.base + 32 * x.cpl.prod
      if p.silent then ctxVector ctx (popRecord ctx s)
      else if x.cpl.full then s
      else if !bit x.cpl.base 56 && !s.hl.up then divert p.record 2 va (popRecord ctx s)
      else
        runAcc (.record ctx) (ctxWrite (.record ctx) ctx va (p.record.bytes x.cpl.phase))
          (fun _ s =>
            let s := count Reg.CRN_CNT_RECORDS (advanceProd ctx (popRecord ctx s))
            if p.irq then ctxVector ctx s else s)
          (fun _ s => divert p.record 1 va (popRecord ctx s)) s

def execCompletionRecordWrite (ctx : Nat) (s : State) : Host.Outcome State Fault Refusal := whileOn (recordWrite ctx) s

/-- R390: the holdoff ends; one message covers the records that needed it, and begins the next holdoff. -/
def holdoffExpire (ctx : Nat) (s : State) : State :=
  let x := getCtx s ctx
  if !x.cpl.held then s
  else
    let s := updCtx ctx (fun x => { x with cpl := { x.cpl with held := false, owed := false } }) s
    if x.cpl.owed then ctxVector ctx s else s

def execIrqHoldoffExpire (ctx : Nat) (s : State) : Host.Outcome State Fault Refusal := whileOn (holdoffExpire ctx) s

/-! ### LAUNCH (R393, R394) -/

/-- R393: fields of LAUNCH. -/
def launchCount (c : Cmd) : Nat := bits (par c 2) 13 0 + 1
def launchFirst (c : Cmd) : Nat := bits (par c 2) 20 14
def launchGroves (c : Cmd) : Nat := bits (par c 2) 27 21 + 1

/-- R394: LAUNCH is refused. -/
def launchBad (s : State) (c : Cmd) : Bool :=
  c.ctx == 0 || bits (par c 2) 63 28 != 0 || bits (par c 3) 63 32 != 0 || !bit (par c 0) 56 || par c 0 % 64 != 0 ||
  decide ((partGroves (ctxPart s c.ctx)).length < launchFirst c + launchGroves c)

/-- R393, R424: LAUNCH makes its node ready. -/
def launch (c : Cmd) (s : State) : State :=
  let s := startCmd c s
  if launchBad s c then badPacket c 0 s
  else if s.sched.nodes.any fun n => n.cmd == c then s
  else
    let n : Node := { ctx := c.ctx, cmd := c, cls := cmdClass s c, image := par c 0, pblock := par c 1, count := launchCount c,
                      step := par c 3, seed := par c 4, groves := [], since := s.now }
    s.setSched { s.sched with nodes := s.sched.nodes ++ [n] }

def execLaunch (c : Cmd) (s : State) : Host.Outcome State Fault Refusal := whileOn (launch c) s

/-! ### Graphs (R399 to R405) -/

/-- R399, R43: STORE_GRAPH. -/
def storeGraph (c : Cmd) (s : State) : State :=
  let s := startCmd c s
  if c.ctx = 0 then badPacket c 0 s
  else match graphOf s c.ctx (bits (par c 0) 9 0) with
  | none => storeRun faultCmd c s
  | some g =>
    match fnEnable g.fn c with
    | (_, .okNow) => completeOk c 0 s
    | (fn, .deferred) => complete c stDeferred 0 0 (putGraph c.ctx { g with fn := fn } s)
    | (_, .carryOut) => storeRun faultCmd c s

def execStoreGraph (c : Cmd) (s : State) : Host.Outcome State Fault Refusal := whileOn (storeGraph c) s

/-- R405, R43: RETIRE_GRAPH. -/
def retireGraph (c : Cmd) (s : State) : State :=
  let s := startCmd c s
  if c.ctx = 0 || bits (par c 0) 63 10 ≠ 0 then badPacket c 0 s
  else match graphOf s c.ctx (par c 0) with
  | none => completeOk c 0 s
  | some g =>
    match fnDisable g.fn c with
    | (_, .okNow) => completeOk c 0 s
    | (fn, .start) => freeGens faultCmd c.ctx g.id (putGraph c.ctx { g with fn := fn } s)
    | (fn, .joins cs) => cancelDeferred cs (putGraph c.ctx { g with fn := fn } s)

def execRetireGraph (c : Cmd) (s : State) : Host.Outcome State Fault Refusal := whileOn (retireGraph c) s

/-- R400: the graph that a command may launch or patch. -/
def enabledGraph (s : State) (c : Cmd) : Option Graph :=
  match graphOf s c.ctx (bits (par c 0) 9 0) with
  | some g => if g.fn.state == .enabled then some g else none
  | none => none

/-- R400: LAUNCH_GRAPH. -/
def launchGraph (c : Cmd) (s : State) : State :=
  let fresh := !isStarted s c
  let s := startCmd c s
  if !fresh && s.crn.launches.any fun l => l.cmd == c then s
  else
    let s := count Reg.CRN_CNT_GRAPH_LAUNCH s
    if c.ctx = 0 || bits (par c 0) 31 10 ≠ 0 || (par c 1 ≠ 0 && !bit (par c 1) 56) then badPacket c 0 s
    else match enabledGraph s c with
    | none => badPacket c 0 s
    | some g =>
      s.setCrn { s.crn with
        launches := s.crn.launches ++ [{ id := s.crn.nextLaunch, cmd := c, graph := g.id, gen := g.cur, step := bits (par c 0) 63 32, argBase := par c 1 }]
        nextLaunch := s.crn.nextLaunch + 1 }

def execLaunchGraph (c : Cmd) (s : State) : Host.Outcome State Fault Refusal := whileOn (launchGraph c) s

/-- R397, R398: a node's command with its slots applied, and the number of slots read. -/
def nodeCmd (l : GLaunch) (g : Graph) (gen : Gen) (n : Nat) (node : GNode) : Cmd × Nat :=
  let c := packetCmd (.node l.id n) l.cmd.ctx (nodePacket gen.packets node)
  let c := { c with quiet := false, irq := false }
  let slots := g.slots.filter fun x => x.1 == n
  (slots.foldl (fun c x => if x.2.1 < c.params.length then { c with params := c.params.set x.2.1 (BitVec.ofNat 64 x.2.2) }
                           else { c with chain := x.2.2 }) c, slots.length)

/-- R397: LAUNCH takes the launch's step and the graph's seed. -/
def nodeLaunchParams (l : GLaunch) (gen : Gen) (c : Cmd) : Cmd :=
  if c.opcode = 0x40 then { c with params := (c.params.set 3 (BitVec.ofNat 64 l.step)).set 4 (BitVec.ofNat 64 gen.seed) } else c

/-- R469: a node of a launch that a SYNC_START of the same graph has armed. -/
def nodeArmed (s : State) (l n : Nat) : Bool :=
  s.fab.armed.any fun a => a.nodes.contains n && (match a.sync.src with
    | .node m _ => m == l
    | _ => false)

/-- R469: a launch of a graph that a SYNC_START of its ring has armed. -/
def launchArmed (s : State) (l : GLaunch) : Bool := s.fab.armed.any fun a => a.target == some l.cmd

/-- R469: the command of a grove node that is armed for a SYNC_START time. -/
def cmdArmed (s : State) (c : Cmd) : Bool :=
  (s.fab.armed.any fun a => a.target == some c) ||
  (match c.src with
   | .node l n => nodeArmed s l n || (s.crn.launches.any fun x => x.id == l && launchArmed s x)
   | _ => false)

/-- R401: a node may start: its predecessors have completed and no node of the launch has been refused. -/
def nodeReady (s : State) (l : GLaunch) (n : Nat) (node : GNode) : Bool :=
  l.bad.isNone && !l.started.contains n && ((node.preds.all fun p => l.ended.any fun e => e.1 == p) || nodeArmed s l.id n) &&
  decide (s.crn.started.length < 4096) && decide ((s.crn.started.filter fun c => c.cmd.ctx == l.cmd.ctx).length < 256)

/-- R401: a graph node starts. -/
def graphNodeStart (launch n : Nat) (s : State) : State :=
  match s.crn.launches.find? fun x => x.id == launch with
  | none => s
  | some l =>
    match graphOf s l.cmd.ctx l.graph, launchGen s l with
    | some g, some gen =>
      match gen.nodes[n]? with
      | none => s
      | some node =>
        if !nodeReady s l n node || (launchArmed s l && pkOpcode (nodePacket gen.packets node) != 0x40) then s
        else
          let (c, k) := nodeCmd l g gen n node
          let begin_ := fun (c : Cmd) (s : State) =>
            startCmd c (countN Reg.CRN_CNT_IND_READ k (s.setCrn { s.crn with
              launches := updFirst (fun x => x.id == launch) (fun x => { x with started := x.started ++ [n] }) s.crn.launches }))
          runAcc (.cmd c) (readIndirect (.cmd c) .graph l.argBase (pkIndirect (nodePacket gen.packets node)) c)
            (fun r s => match r with
              | none => badPacket c 0 (begin_ c s)
              | some c => begin_ (nodeLaunchParams l gen c) s)
            (fun f s => faultCmd c f (begin_ c s)) s
    | _, _ => s

def execGraphNodeStart (launch n : Nat) (s : State) : Host.Outcome State Fault Refusal := whileOn (graphNodeStart launch n) s

/-- R403: the extent in bytes of a node's packet in a packet area. -/
def nodeExtent (packets : List Byte) (n : GNode) : Nat × Nat :=
  (16 * n.off, 16 * n.off + 16 * max 1 (pkLength (packets.drop (16 * n.off))))

/-- R403: whether a node's packet is touched by bytes `a` to `b - 1`. -/
def nodeTouched (packets : List Byte) (a b : Nat) (n : GNode) : Bool :=
  let e := nodeExtent packets n
  decide (a < e.2) && decide (e.1 < b)

/-- R403: a COPY patch. -/
def patchCopy (c : Cmd) (g : Graph) (gen : Gen) (offset count : Nat) (s : State) : State :=
  if count = 0 || 4096 < count || c.data.length < count || gen.packets.length < offset + count then badPacket c 0 s
  else
    let packets := gen.packets.take offset ++ c.data.take count ++ gen.packets.drop (offset + count)
    match (List.range gen.nodes.length).find? fun n =>
        let node := gen.nodes.getD n ⟨0, []⟩
        (nodeTouched gen.packets offset (offset + count) node || nodeTouched packets offset (offset + count) node) &&
        !nodePacketOk packets node with
    | some n => badPacket c n s
    | none =>
      let area := 64 + 32 * gen.nodes.length + 16 * g.slots.length + offset
      let first := area / 4096
      let k := (area + count - 1) / 4096 - first + 1
      if freePages s < k then complete c stNoResource 0 0 s
      else
        let (ps, s) := newPages k s
        let num := (gen.num + 1) % 2 ^ 32
        let new : Gen := { gen with num := num, packets := packets, pages := gen.pages.take first ++ ps ++ gen.pages.drop (first + k) }
        completeOk c num (freeGens faultCmd c.ctx g.id (putGraph c.ctx { g with cur := num, gens := g.gens ++ [new] } s))

/-- R403, R404: a SLOT patch, applied whole. -/
def patchSlots (c : Cmd) (g : Graph) (count : Nat) (s : State) : State :=
  let es := (List.range count).map fun i => (bits (leAt c.data (16 * i) 8) 9 0, leAt c.data (16 * i + 8) 8)
  if count = 0 || 256 < count || c.data.length < 16 * count || es.any (fun e => decide (g.slots.length ≤ e.1)) then badPacket c 0 s
  else
    let slots := es.foldl (fun l e => match l[e.1]? with
      | some x => l.set e.1 (x.1, x.2.1, e.2)
      | none => l) g.slots
    completeOk c g.cur (putGraph c.ctx { g with slots := slots } s)

/-- R403: PATCH_GRAPH. -/
def patchGraph (c : Cmd) (s : State) : State :=
  let s := startCmd c s
  if c.ctx = 0 || bits (par c 0) 31 11 ≠ 0 || bits (par c 1) 63 13 ≠ 0 then badPacket c 0 s
  else match enabledGraph s c with
  | none => badPacket c 0 s
  | some g =>
    match g.gens.find? fun n => n.num == g.cur with
    | none => badPacket c 0 s
    | some gen =>
      if bit (par c 0) 10 then patchSlots c g (par c 1) s
      else patchCopy c g gen (bits (par c 0) 63 32) (par c 1) s

def execPatchGraph (c : Cmd) (s : State) : Host.Outcome State Fault Refusal := whileOn (patchGraph c) s

/-! ### The log's consumer (R407) -/

/-- R407: a write of `CRN_UCL_POP`. -/
def uclPop (value : Nat) (s : State) : State :=
  if bit value 0 && uclProd s != uclCons s then regField Reg.CRN_UCL_CONS 15 0 ((uclCons s + 1) % 65536) s else s

def execUclPop (value : Nat) (s : State) : Host.Outcome State Fault Refusal := whileServed Reg.CRN_UCL_POP (uclPop value) s

/-! ### Manager packets (R381) -/

/-- R381: a manager packet's command, its record going back to the sender. -/
def managerPacket (dev : Nat) (l : List Byte) (s : State) : State :=
  let c := packetCmd (.mgr dev) 0 l
  let n := pkLength l
  if n = 0 || 265 < n || l.length < 16 * n then
    complete c stBadPacket 0 ((l.length + 15) / 16) (startCmd c s)
  else if !packetOk (.manager dev) l then badPacket c 0 (startCmd c s)
  else
    let done := fun (s : State) => s.setCrn { s.crn with packets := s.crn.packets.filter fun p => p != (dev, l) }
    let s := done s
    runAcc (.cmd c) (readIndirect (.cmd c) (.manager dev) 0 (pkIndirect l) c)
      (fun r s => match r with
        | some c => startCmd c (done s)
        | none => badPacket c 0 (startCmd c (done s)))
      (fun f s => faultCmd c f (startCmd c (done s))) (s.setCrn { s.crn with packets := s.crn.packets ++ [(dev, l)] })

/-- R381, R451: a member's Crown receives a manager packet. -/
def cmdArrive (h : Hdr) (payload : List Byte) (s : State) : State :=
  deliver h (.cmd payload) (fun s =>
    if payload.length < 16 then count Reg.FAB_CNT_BAD_MSG s else managerPacket h.src payload s) s

/-- R492 step 3: while a host-loss reset is under way, a manager packet completes with ST_HOST_LOST. -/
def cmdLost (h : Hdr) (payload : List Byte) (s : State) : State :=
  if !powered s || payload.length < 16 then s
  else
    let c := packetCmd (.mgr h.src) 0 payload
    completeTop c stHostLost 0 0 (startCmd c (inboxTake h (.cmd payload) s))

def execCmd (h : Hdr) (payload : List Byte) (s : State) : Host.Outcome State Fault Refusal :=
  if s.hl.loss.isSome then .next (cmdLost h payload s) else whileOn (cmdArrive h payload) s

/-- R381: the record of a manager packet ends the timing of its CMD. -/
def cmdCplArrive (h : Hdr) (r : Record) (s : State) : State :=
  deliver h (.cmdCpl r) (responded (fun m => m.dst == h.src && (match m.body with
    | .cmd p => pkSeq p == r.seq
    | _ => false)) id) s

def execCmdCpl (h : Hdr) (r : Record) (s : State) : Host.Outcome State Fault Refusal := whileOn (cmdCplArrive h r) s

end Sys2Proof.Machine
end

