-- ==== Sys2Proof/Machine/Save.lean ====
section
/-!
DEFINITION. The records of a save area: control core (R275), barrier (R276), Lattices (R221), vector engine (R248), Helix (R305),
grove DMA (R363), Grove slot (R422) and context record (R421).
-/

namespace Sys2Proof.Machine

/-! ### Control core and barrier (R275, R276) -/

/-- R275: engine code of a token. -/
def engCode : Eng → Nat
  | .tile => 0
  | .chain => 1
  | .helix _ => 2
  | .gdma => 3

/-- Mask of a Grove's pending tokens. -/
def Grove.tokenMask (g : Grove) : Nat := maskOf (g.tokens.map (·.1))

/-- R275: wait kind and its detail. -/
def CoreWait.words : CoreWait → Nat × Nat
  | .none => (0, 0)
  | .tokens m => (1, m)
  | .barrier i => (2, i)
  | .tag => (3, 0)
  | .held => (4, 0)
  | .ending => (5, 0)

/-- R253, R259: microseconds that a Grove has run in its node. -/
def Grove.ranUs (g : Grove) (now : Nat) : Nat :=
  (g.elapsed + if g.running then (now + 2 ^ 64 - g.since) % 2 ^ 64 else 0) / usUnits

/-- R275: the control-core record. -/
def coreRecord (g : Grove) (now : Nat) : List Byte :=
  let w := g.wait.words
  words8 ((List.range 31).map fun i => (mget 0 g.x (i + 1)).toNat) ++ leBytes 8 g.pc ++
  words8 ((List.range 16).map fun i => (mget 0 g.sm i).toNat) ++ leBytes 8 g.redTag ++ leBytes 8 g.cycle ++
  leBytes 8 (g.tokenMask + (g.tokens.map fun t => engCode t.2 * 2 ^ (16 + 2 * t.1)).foldl (· + ·) 0) ++
  leBytes 8 (w.1 + w.2 * 2 ^ 8 + g.barGen * 2 ^ 32) ++ words8 g.work ++ leBytes 8 g.image ++ leBytes 8 (g.ranUs now) ++
  List.replicate 48 0

/-- R276: the barrier record. -/
def barrierRecord (n : Node) : List Byte :=
  leBytes 16 (maskOf n.arrived) ++ leBytes 16 0 ++ leBytes 8 (n.barId + n.barGen * 2 ^ 32) ++ leBytes 24 0

/-! ### Lattices (R221) -/

/-- Value (i, j) of a tile's block of Lattice `l`. -/
def blockAt (b : List Int) (l i j : Nat) : Int := b.getD ((8 * (l / 4) + i) * 32 + 8 * (l % 4) + j) 0

/-- The 64 values of a Lattice's block, row by row. -/
def block (b : List Int) (l : Nat) : List Int := (List.range 64).map fun p => blockAt b l (p / 8) (p % 8)

/-- R221: the record of a Lattice's bank. -/
def latticeRecord (t : Tile) (bank strikes l : Nat) : List Byte :=
  let r := l / 4
  let c := l % 4
  let ent := fun i => leBytes 2 (t.latched.getD i 0)
  padTo 2048 (
    leBytes 16 (t.steps + b2n (t.retry.contains l) * 2 ^ 18 + l * 2 ^ 19 + bank * 2 ^ 23 + strikes * 2 ^ 24) ++ words8 t.desc ++
    ((List.range 8).map fun i => ent (8 * r + i)).flatten ++ ((List.range 8).map fun i => ent (32 + 8 * c + i)).flatten ++
    ((List.range 8).map fun i => ent (64 + 8 * c + i)).flatten ++
    leBytes 16 (((List.range 8).map fun i => (t.rowRes.getD (8 * l + i) 0) * 2 ^ (4 * i) + (t.colRes.getD (8 * l + i) 0) * 2 ^ (32 + 4 * i)).foldl (· + ·) 0) ++
    ((block t.bank l).map fun v => leBytes 8 (unsext v 64)).flatten ++ ((block t.esc l).map fun v => leBytes 10 (unsext v 80)).flatten)

/-- Tiles whose banks hold unfinished work. -/
def Grove.openTiles (g : Grove) : List Tile := g.tiles.filter fun t => t.started

/-- R221: the Lattice records of a Grove, one for each Lattice and open tile. -/
def latticeRecords (g : Grove) (strikes : Nat) : List (List Byte) :=
  ((List.range g.openTiles.length).map fun b =>
    (List.range 16).map fun l => latticeRecord (g.openTiles.getD b { desc := [], at_ := 0, token := 0 }) b (bits strikes (4 * l + 3) (4 * l)) l).flatten

/-! ### Vector engine (R248), Helix (R305), grove DMA (R363) -/

/-- R244: a slot image. -/
def slotImage (r : RedSlot) : List Byte :=
  leBytes 8 (r.fn + r.k * 2 ^ 3 + r.entries.length * 2 ^ 16 + (r.count % 2 ^ 32) * 2 ^ 32) ++
  leBytes 8 (r.value + r.index * 2 ^ 32) ++
  padTo 512 ((r.entries.map fun e => leBytes 8 (e.1 + e.2 * 2 ^ 32)).flatten)

/-- R248: the vector engine record. -/
def vectorRecord (g : Grove) : List Byte :=
  let run := if g.chainOn then g.chains.head? else none
  let queued := if g.chainOn then g.chains.drop 1 else g.chains
  let offs := (List.range queued.length).map fun i => ((queued.map (·.at_)).getD i 0) * 2 ^ (64 + 22 * i)
  padTo 128 (words8 ((run.map (·.desc)).getD [])) ++
  leBytes 64 (((run.map (·.rows)).getD 0) + ((run.map (·.escs)).getD 0) * 2 ^ 16 + b2n run.isSome * 2 ^ 32 + queued.length * 2 ^ 33 + offs.foldl (· + ·) 0) ++
  (g.slots.map slotImage).flatten

/-- R284, R304: the oldest request of a channel that has not arrived: the channel's resume point. -/
def HChan.resume (c : HChan) : HPos :=
  match c.reqs with
  | [] => c.pos
  | r :: rs => (rs.foldl (fun (m : HReq) x => if x.pos.p < m.pos.p then x else m) r).pos

/-- R304: a channel stops for a save: requests that have not arrived are abandoned. -/
def HChan.stop (c : HChan) : HChan := { c with pos := c.resume, reqs := [], ended := c.ended && c.reqs.isEmpty }

/-- R305: the stream-position record of a channel. -/
def helixRecord (c : HChan) (id : Nat) : List Byte :=
  let p := c.pos
  leBytes 8 (p.pc + p.depth * 2 ^ 6 + b2n (c.halted.isSome || c.parked) * 2 ^ 9 + b2n c.ended * 2 ^ 10 + b2n c.running * 2 ^ 11 +
    b2n (bit (c.header.getD 0 0) 8) * 2 ^ 12 + c.prog * 2 ^ 16) ++
  ((List.range 6).map fun i => leBytes 4 (p.ctr.getD i 0)).flatten ++ words8 ((List.range 4).map fun i => p.addr.getD i 0) ++
  leBytes 8 (p.done + p.row * 2 ^ 32) ++ leBytes 8 p.p ++ leBytes 8 (c.head + c.tail * 2 ^ 32) ++ leBytes 8 c.cons ++
  leBytes 8 ((c.opened + 255) % 256 + c.escUsed * 2 ^ 16) ++ leBytes 8 (c.g0 + id * 2 ^ 32) ++ leBytes 8 c.faultVa ++
  leBytes 8 ((c.accepted - c.tail) % 2 ^ 32 + ((c.halted.map Flt.code).getD 0) * 2 ^ 32) ++
  words8 ((List.range 32).map fun i => p.stride.getD i 0) ++ padTo 64 (words8 c.header) ++ padTo 512 (words8 c.instrs)

/-- R363: the grove DMA record. -/
def gdmaRecord (q : List Desc) (wait : Bool) : List Byte :=
  let h := q.head?
  leBytes 8 (q.length + b2n ((h.map (·.started)).getD false) * 2 ^ 5 + b2n wait * 2 ^ 6 + ((h.map (·.bytesDone)).getD 0) * 2 ^ 32) ++
  leBytes 8 ((h.map (·.crc)).getD 0) ++
  leBytes 8 (((List.range q.length).map fun i => (((q[i]?).bind (·.token)).getD 0) * 2 ^ (4 * i)).foldl (· + ·) 0) ++
  leBytes 40 0 ++ padTo 1024 ((q.map fun d => words8 d.words).flatten)

/-! ### The Grove slot and the context record (R421, R422) -/

/-- R420: local offset of the Grove slot of a logical Grove. -/
def slotAt (x : Ctx) (j : Nat) : Nat := x.saveBase + 0x10000 + j * 0x420000

/-- R422: the header of a Grove slot. -/
def slotHeader (g : Grove) (k : Nat) (ended hard : Bool) : List Byte :=
  let queued := g.tiles.filter fun t => !t.started
  padTo 256 (
    leBytes 8 (k + b2n (!ended) * 2 ^ 7 + b2n hard * 2 ^ 8 + (16 * g.openTiles.length) * 2 ^ 9) ++ leBytes 8 (maskOf g.chunks) ++
    leBytes 8 (queued.length + ((List.range queued.length).map fun i => ((queued.map (·.token)).getD i 0) * 2 ^ (4 + 4 * i)).foldl (· + ·) 0) ++
    (queued.map fun t => leBytes 4 t.at_).flatten)

/-- R422, R426 step 7: the records of a Grove at slot offset 0x40_0000. -/
def slotRecords (g : Grove) (k now : Nat) (q : List Desc) (wait ended hard : Bool) : List Byte :=
  if ended then padTo 256 (leBytes 8 k)
  else
    slotHeader g k ended hard ++ coreRecord g now ++ gdmaRecord q wait ++ vectorRecord g ++
    ((List.range 8).map fun c => let ch := mget ({} : HChan) g.chans c; helixRecord ch (bits (ch.header.getD 2 0) 47 32)).flatten

/-- R422: the scale register file as it is saved. -/
def scaleImage (g : Grove) : List Byte := ((List.range 4096).map fun i => leBytes 4 (mget 0 g.scale i)).flatten

/-- R421: the context record of a context with its saved node. -/
def contextRecord (x : Ctx) (exact : Bool) (n : Option Node) (first gen idx seq : Nat) : List Byte :=
  let kind := match n with
    | some n => if n.state == .softStop then 1 else 2
    | none => 0
  leBytes 8 (x.id + x.part * 2 ^ 14 + x.pasid * 2 ^ 18 + b2n exact * 2 ^ 38) ++
  leBytes 8 (kind + b2n n.isSome * 4 + ((n.map (·.cls)).getD 0) * 8) ++ leBytes 8 seq ++ leBytes 8 (idx + gen * 2 ^ 32) ++
  leBytes 8 (first + ((n.map fun n => n.groves.length - 1).getD 0) * 2 ^ 7) ++
  leBytes 8 (match x.pending with | some f => f.code + 2 ^ 8 | none => 0) ++ leBytes 8 x.progress ++ leBytes 8 0 ++
  (match n with | some n => barrierRecord n ++ words8 n.work | none => List.replicate 96 0)

/-- R420: bytes of a save area for a partition of `n` Groves. -/
def saveRequired (n scratchMib : Nat) : Nat := roundUp (roundUp (0x10000 + n * 0x420000) 0x200000 + scratchMib * 0x100000) 0x200000

/-- R420: offset of the scratch image in a save area. -/
def scratchImageAt (n : Nat) : Nat := roundUp (0x10000 + n * 0x420000) 0x200000

/-- Bytes written to a save area. -/
def saveWrite (at_ : Nat) (l : List Byte) (s : State) : State := memWrite at_ l (countN Reg.CTX_CNT_SAVE_BYTES l.length s)

end Sys2Proof.Machine
end

