-- ==== Sys2Proof/Machine/Contexts.lean ====
section
/-!
DEFINITION. Partitions, contexts, residency and pre-emption (chapter 13).
-/

namespace Sys2Proof.Machine

/-! ### Shared questions -/

/-- R412: sources that may create, destroy and partition. -/
def fromAdmin (c : Cmd) : Bool :=
  match c.src with
  | .mgr _ => true
  | _ => c.ctx == 0

/-- Bit of a mask held in two registers, low half first. -/
def regBit128 (s : State) (lo hi k : Nat) : Bool := if k < 64 then bit (regGet s lo) k else bit (regGet s hi) (k - 64)

/-- R509: a quarantined Grove. -/
def isQuarantined (s : State) (k : Nat) : Bool := regBit128 s Reg.INT_GROVE_Q_LO Reg.INT_GROVE_Q_HI k
/-- R554, R542: a parked Grove: in D3HOT every Grove is. -/
def isParked (s : State) (k : Nat) : Bool := s.pwr.pstate == .d3hot || regBit128 s Reg.PWR_PARK_LO Reg.PWR_PARK_HI k

/-- R429: contexts that occupy residency slots; the administrative context takes none. -/
def residents (s : State) : List Ctx :=
  s.sched.ctxs.filter fun x => x.id != 0 && (x.state == .resident || x.state == .evicting || x.state == .swappingIn)

def resLimit (s : State) : Nat := bits (regGet s Reg.CTX_RES_CFG) 8 0
def resReserve (s : State) : Nat := bits (regGet s Reg.CTX_RES_CFG) 13 9
/-- R425: the slice in units of fabric time. -/
def sliceUnits (s : State) : Nat := bits (regGet s Reg.CTX_SCHED_CFG) 15 0 * usUnits

/-- R434: Grove numbers of a mask over a partition's Groves. -/
def pinGroves (p : Part) (mask : Nat) : List Nat := (maskBits 128 mask).filterMap fun j => (partGroves p)[j]?

/-- R434: a Grove reserved for another context. -/
def reservedForOther (s : State) (ctx k : Nat) : Bool :=
  s.sched.ctxs.any fun x => x.id != ctx && x.pinned && (pinGroves (partOf s x.part) x.pinMask).contains k

/-! ### Nodes on Groves (R267, R424, R425) -/

/-- R267: the host of logical Grove `j` in a list of Groves: the first one from `j` on, wrapping, that is not quarantined. -/
def hostOf (s : State) (gs : List Nat) (j : Nat) : Option Nat :=
  (gs.drop j ++ gs.take j).find? fun k => !isQuarantined s k

/-- R267, R393: the Groves of a node in logical order: in Exact mode each with its host, in Free mode those not quarantined. -/
def nodeGroves (s : State) (n : Node) : List Nat :=
  let p := ctxPart s n.ctx
  let gs := slice (launchFirst n.cmd) (launchGroves n.cmd) (partGroves p)
  if p.exact then (List.range gs.length).filterMap (hostOf s gs) else gs.filter fun k => !isQuarantined s k

/-- R267: the Groves of a launch, in ascending Grove number, quarantined ones included. -/
def launchSlice (s : State) (n : Node) : List Nat :=
  slice (launchFirst n.cmd) (launchGroves n.cmd) (partGroves (ctxPart s n.ctx))

/-- R267: the logical Groves that Grove `k` runs in turn: its own first, then those it hosts, rising. -/
def turnsOf (s : State) (n : Node) (gs : List Nat) (k : Nat) : List Nat :=
  let js := (List.range gs.length).filter fun j => gs[j]? == some k
  let own := js.filter fun j => (launchSlice s n)[j]? == some k
  own ++ js.filter fun j => !own.contains j

/-- R267: the logical Grove whose turn it is on Grove `k`. -/
def turnNow (s : State) (n : Node) (gs : List Nat) (k : Nat) : Option Nat :=
  let js := turnsOf s n gs k
  match js.find? fun j => !n.arrived.contains j && !n.ended.contains j with
  | some j => some j
  | none => js.head?

/-- A node that occupies its Groves. -/
def Node.onGroves (n : Node) : Bool := n.state != .waiting && n.state != .saved

/-- R424, R437, R434: a Grove that a node of a context can take. -/
def groveFree (s : State) (ctx k : Nat) : Bool :=
  (groveOf s k).ctx.isNone && !s.sched.saving.contains k && !isParked s k && !reservedForOther s ctx k &&
  !(s.sched.nodes.any fun n => n.onGroves && n.groves.contains k)

/-- R425: the first node of each context that waits for Groves. -/
def waitingNodes (s : State) : List Node :=
  s.sched.ctxs.filterMap fun x =>
    match nodeOf s x.id with
    | some n => if (n.state == .waiting || n.state == .saved) && x.state == .resident then some n else none
    | none => none

/-- R425: order of service: class, then longest wait, then context ID. -/
def servedBefore (s : State) (a b : Node) : Bool :=
  let wa := (s.now + 2 ^ 64 - a.since) % 2 ^ 64
  let wb := (s.now + 2 ^ 64 - b.since) % 2 ^ 64
  decide (a.cls < b.cls) || (a.cls == b.cls && (decide (wb < wa) || (wa == wb && decide (a.ctx < b.ctx))))

/-- R425: another waiting node wants some of the same Groves first. -/
def overtaken (s : State) (n : Node) (gs : List Nat) : Bool :=
  (waitingNodes s).any fun m => m.ctx != n.ctx && servedBefore s m n && (nodeGroves s m).any fun k => gs.contains k

/-- R424: a node may take its Groves now. -/
def canTake (s : State) (n : Node) (gs : List Nat) : Bool :=
  !gs.isEmpty && (gs.all fun k => groveFree s n.ctx k) && !overtaken s n gs

/-- The launch, node index and generation that a node's command belongs to (R421, R524). -/
def nodeIdent (s : State) (c : Cmd) : Nat × Nat × Nat :=
  match c.src with
  | .node l n => match s.crn.launches.find? fun x => x.id == l with
    | some g => (g.cmd.seq, n, g.gen)
    | none => (c.seq, n, 0)
  | _ => (c.seq, 0, 0)

/-! ### Pre-emption (R425 to R427) -/

/-- R428: a node's Groves stop at once, outside their tiles: every core stops at an instruction boundary. -/
def stopCores (n : Node) (s : State) : State :=
  n.groves.eraseDups.foldl (fun s k =>
    updGrove k (fun g => { g with running := false, elapsed := g.elapsed + if g.running then (s.now + 2 ^ 64 - g.since) % 2 ^ 64 else 0 }) s) s

/-- R425, R426: an order to pre-empt a node. A hard order also governs what a soft one has not stopped. -/
def preempt (ctx : Nat) (hard : Bool) (s : State) : State :=
  match nodeOf s ctx with
  | none => s
  | some n =>
    if n.state == .running || n.state == .armed then
      let s := stopCores n s
      let s := updNode ctx (fun n => { n with state := if hard then .hardStop else .softStop, held := s.now }) s
      count (if hard then Reg.CTX_CNT_PREEMPT_HARD else Reg.CTX_CNT_PREEMPT_SOFT) s
    else if n.state == .softStop && hard then
      count Reg.CTX_CNT_PREEMPT_HARD (updNode ctx (fun n => { n with state := .hardStop }) s)
    else s

/-- R425: a node on Groves that its own context's pin reserves is never pre-empted. -/
def Node.sheltered (n : Node) (s : State) : Bool :=
  let x := getCtx s n.ctx
  x.pinned && n.groves.any fun k => (pinGroves (partOf s x.part) x.pinMask).contains k

/-- R425: running nodes that hold some of a list of Groves. -/
def holders (s : State) (ctx : Nat) (gs : List Nat) : List Node :=
  s.sched.nodes.filter fun m => m.ctx != ctx && m.onGroves && m.groves.any fun k => gs.contains k

/-- R425: hard pre-emption of lower-class runners by a node of CONTROL or LATENCY. -/
def preemptFor (n : Node) (gs : List Nat) (s : State) : State :=
  if 1 < n.cls then s
  else ((holders s n.ctx gs).filter fun m => decide (2 ≤ m.cls) && !m.sheltered s).foldl (fun s m => preempt m.ctx true s) s

/-! ### Program load (R251, R253, R423) -/

/-- R253: a logical Grove at the start of its node. -/
def freshGrove (s : State) (n : Node) (count j : Nat) (code : List Nat) (running : Bool) : Grove :=
  { ctx := some n.ctx, logical := j, image := n.image, code := code,
    x := mset 0 (mset 0 (mset 0 (mset 0 [] 10 (BitVec.ofNat 64 n.pblock)) 11 (BitVec.ofNat 64 j)) 12 (BitVec.ofNat 64 count)) 13
      (BitVec.ofNat 64 n.step),
    running := running, since := s.now }

/-- R251, R267, R423: program load: the Groves' stores read zero, each Grove runs its own logical Grove, and hosted ones wait their turn. -/
def loadNode (n : Node) (gs : List Nat) (code : List Nat) (s : State) : State :=
  let armed := cmdArmed s n.cmd
  let s := (List.range gs.length).foldl (fun s j =>
    let k := gs.getD j 0
    let g := freshGrove s n gs.length j code (!armed)
    if turnNow s n gs k == some j then setGdma k { gdmaOf s k with queue := [], waiting := none } (setGrove k g (memZero (gsBase k) 0x400000 s))
    else s.setGro { s.gro with saved := s.gro.saved ++ [{ ctx := n.ctx, grove := { g with running := false } }] }) s
  let s := updNode n.ctx (fun m => { m with state := if armed then .armed else .running, groves := gs, held := s.now }) s
  let (_, idx, gen) := nodeIdent s n.cmd
  progress n.ctx (emit 0x03 129 n.ctx idx gen (launchFirst n.cmd + (gs.length - 1) * 2 ^ 7) s)

/-- R424: a ready node takes its Groves and its program is loaded, or it pre-empts for them. -/
def nodeStart (ctx : Nat) (s : State) : State :=
  match nodeOf s ctx with
  | none => s
  | some n =>
    if !accepting s || n.state != .waiting || (getCtx s ctx).state != .resident then s
    else
      let gs := nodeGroves s n
      if !canTake s n gs.eraseDups then preemptFor n gs s
      else
        runAcc (.cmd n.cmd) (ctxRead (.cmd n.cmd) ctx n.image (4 * n.count))
          (fun l s => loadNode n gs ((List.range n.count).map fun i => leAt l (4 * i) 4) s)
          (faultCmd n.cmd) s

def execNodeStart (ctx : Nat) (s : State) : Host.Outcome State Fault Refusal := whileOn (nodeStart ctx) s

/-- R425: both have held their slice: the runner is soft-pre-empted. -/
def sliceExpire (waiter runner : Nat) (s : State) : State :=
  match nodeOf s waiter, nodeOf s runner with
  | some w, some r =>
    if (w.state != .waiting && w.state != .saved) || r.state != .running || r.cls < w.cls || r.sheltered s ||
        !((holders s waiter (nodeGroves s w)).any fun m => m.ctx == runner) then s
    else
      let s := reachTime ((r.held + sliceUnits s) % 2 ^ 64) (reachTime ((w.since + sliceUnits s) % 2 ^ 64) s)
      preempt runner false s
  | _, _ => s

def execSliceExpire (waiter runner : Nat) (s : State) : Host.Outcome State Fault Refusal := whileOn (sliceExpire waiter runner) s

/-- R427: a Grove that has a tile running. -/
def atTileBoundary (s : State) (k : Nat) : Bool := (groveOf s k).openTiles.isEmpty

/-- R427: 19 µs after a soft order a Grove has not reached a tile boundary; its pre-emption becomes hard. -/
def softEscalate (ctx grove : Nat) (s : State) : State :=
  match nodeOf s ctx with
  | none => s
  | some n =>
    if n.state != .softStop || !n.groves.contains grove || atTileBoundary s grove || n.stopped.contains grove then s
    else
      let s := reachTime ((n.held + 19 * usUnits) % 2 ^ 64) s
      let s := if n.escalated then s else count Reg.CTX_CNT_SOFT_ESCALATED s
      updNode ctx (fun n => { n with escalated := true, stopped := n.stopped ++ [grove] }) s

def execSoftEscalate (ctx grove : Nat) (s : State) : Host.Outcome State Fault Refusal := whileOn (softEscalate ctx grove) s

/-- R426, R274: a Grove can be saved now: no AMO of its core is on its way here, and a soft stop has reached a tile boundary. -/
def canSave (s : State) (n : Node) (k : Nat) : Bool :=
  (n.state == .hardStop || n.stopped.contains k || atTileBoundary s k) &&
  !(s.xyl.reqs.any fun m => match m.who with
    | .core j _ => j == k
    | .dma (.gdma j) => j == k
    | _ => false)

/-- R304, R274: a Grove's engines as they are saved. -/
def Grove.stopped (g : Grove) : Grove :=
  { g with chans := g.chans.map fun p => (p.1, p.2.stop), running := false }

/-- R426 step 7: one Grove writes its records. Its store is still to be saved. -/
def saveGrove (x : Ctx) (n : Node) (k : Nat) (s : State) : State :=
  let hard := n.state == .hardStop || n.stopped.contains k
  let s := abandonDump k (if hard then probeAbandon k s else s)
  let g := (groveOf s k).stopped
  let ended := n.ended.contains g.logical
  let at_ := slotAt x g.logical + 0x400000
  let d := gdmaOf s k
  let s := saveWrite at_ (slotRecords g k s.now d.queue d.waiting.isSome ended hard) s
  let lr := if ended then [] else latticeRecords g (regGet s (Reg.LAT_STRIKES k))
  let s := (List.range lr.length).foldl (fun s i => saveWrite (at_ + 0x7000 + 2048 * i) (lr.getD i []) s) s
  let store := s.mem.bytes.filter fun c => decide (gsBase k ≤ c.1) && decide (c.1 < gsBase k + 0x400000)
  let s := s.setGro { s.gro with saved := s.gro.saved ++ [{ ctx := n.ctx, grove := g, store := store.map fun c => (c.1 - gsBase k, c.2), gdma := d, ended := ended }] }
  let s := groveClearWork k (unbindGrove k (keepPageWaits n.ctx k s))
  let s := setGdma k { d with queue := [], waiting := none } (setGrove k {} s)
  s.setSched { s.sched with saving := s.sched.saving ++ [k] }

/-- R434: a pin is complete: its context is resident and no other context's node holds a reserved Grove. -/
def pinSettle (ctx : Nat) (s : State) : State :=
  let x := getCtx s ctx
  let gs := pinGroves (partOf s x.part) x.pinMask
  if x.pinCmds.isEmpty || (x.pinned && (x.state != .resident || !(holders s ctx gs).isEmpty)) then s
  else x.pinCmds.foldl (fun s c => completeOk c 0 s) (updCtx ctx (fun x => { x with pinCmds := [] }) s)

/-- Every pin that can complete now does. -/
def pinSettleAll (s : State) : State := (s.sched.ctxs.map (·.id)).foldl (fun s c => pinSettle c s) s

/-- R421: the context record is written. -/
def saveContext (x : Ctx) (s : State) : State :=
  let n : Option Node := match nodeOf s x.id with
    | some m => if m.onGroves || m.state == .saved then some m else none
    | none => none
  let (seq, idx, gen) := match n with
    | some m => nodeIdent s m.cmd
    | none => (0, 0, 0)
  saveWrite x.saveBase (contextRecord x (partOf s x.part).exact n ((n.map fun m => launchFirst m.cmd).getD 0) gen idx seq) s

/-- R426: every Grove of a pre-empted node has written its records; the node is stopped. -/
def preemptStopped (ctx : Nat) (s : State) : State :=
  match nodeOf s ctx with
  | none => s
  | some n =>
    let ks := n.groves.eraseDups
    if (n.state != .softStop && n.state != .hardStop) || !(ks.all fun k => canSave s n k) then s
    else
      let x := getCtx s ctx
      let (seq, _, _) := nodeIdent s n.cmd
      let kind := if n.escalated then 3 else if n.state == .softStop then 1 else 2
      let s := saveContext x (ks.foldl (fun s k => saveGrove x n k s) s)
      let s := emit 0x05 129 ctx kind seq ((s.now + 2 ^ 64 - n.held) % 2 ^ 64 / 256) s
      pinSettleAll (updNode ctx (fun n => { n with state := .saved, since := s.now, stopped := [], escalated := false }) s)

def execPreemptStopped (ctx : Nat) (s : State) : Host.Outcome State Fault Refusal := whileOn (preemptStopped ctx) s

/-- R426: a Grove's written chunks and scale register file are saved. -/
def groveSaveDone (k : Nat) (s : State) : State :=
  if !s.sched.saving.contains k then s
  else
    let done := s.setSched { s.sched with saving := s.sched.saving.filter fun j => j != k }
    match (s.gro.saved.filter fun g => !g.ended).find? fun g => (nodeOf s g.ctx).any fun n => n.groves[g.grove.logical]? == some k with
    | none => done
    | some g =>
      let x := getCtx s g.ctx
      let at_ := slotAt x g.grove.logical
      let s := g.grove.chunks.foldl (fun s c =>
        saveWrite (at_ + c * 0x10000) (mgetMany (0 : Byte) g.store (c * 0x10000) 0x10000) s) done
      saveWrite (at_ + 0x403000) (scaleImage g.grove) s

def execGroveSaveDone (grove : Nat) (s : State) : Host.Outcome State Fault Refusal := whileOn (groveSaveDone grove) s

/-- A saved Grove put back on a Grove. -/
def restoreGrove (k : Nat) (g : SavedGrove) (s : State) : State :=
  let s := setGrove k { g.grove with
      chans := g.grove.chans.map fun p => (p.1, { p.2 with stopping := false, parked := false, faultVa := 0 })
      running := !g.ended, since := s.now } (memZero (gsBase k) 0x400000 s)
  let s := setGdma k g.gdma s
  let s := s.setMem { s.mem with bytes := g.store.foldl (fun m c => mset 0 m (gsBase k + c.1) c.2) s.mem.bytes }
  s.setGro { s.gro with
    saved := s.gro.saved.erase g
    rings := s.gro.rings.map fun r =>
      match g.grove.chans.find? fun p => r.ctx == g.ctx && p.2.running && bit (p.2.header.getD 0 0) 8 &&
          bits (p.2.header.getD 2 0) 47 32 == r.id with
      | some p => { r with bound := some (k, p.1) }
      | none => r }

/-- R436: a sector of the save area that the restore reads is poisoned. -/
def savePoisoned (s : State) (x : Ctx) : Bool :=
  s.mem.poison.any fun p => decide (x.saveBase ≤ p * 64) && decide (p * 64 < x.saveBase + x.saveLen)

/-- R428: a saved node's Groves are free and its state is restored. -/
def nodeRestore (ctx : Nat) (s : State) : State :=
  match nodeOf s ctx with
  | none => s
  | some n =>
    let x := getCtx s ctx
    let gs := nodeGroves s n
    if n.state != .saved || x.state != .resident || cmdArmed s n.cmd then s
    else if !canTake s n gs.eraseDups then preemptFor n gs s
    else if savePoisoned s x then faultNode 0x01 0 ctx .ecc s
    else
      let s := (List.range gs.length).foldl (fun s j =>
        let k := gs.getD j 0
        match s.gro.saved.find? fun g => g.ctx == ctx && g.grove.logical == j with
        | some g => if turnNow s n gs k == some j then restoreGrove k g s else s
        | none => s) s
      progress ctx (updNode ctx (fun n => { n with state := .running, groves := gs, held := s.now }) s)

def execNodeRestore (ctx : Nat) (s : State) : Host.Outcome State Fault Refusal := whileOn (nodeRestore ctx) s

/-! ### Run states and residency (R429 to R433) -/

/-- `CTX_VIEW.run`. -/
inductive RunState where
  | idle | ready | running | blocked
  deriving DecidableEq, Repr

/-- R430: a node that waits for Groves held by nodes of the same or a higher class. -/
def nodeBlocked (s : State) (n : Node) : Bool :=
  (n.state == .waiting || n.state == .saved) && (holders s n.ctx (nodeGroves s n)).any fun m => decide (m.cls ≤ n.cls)

/-- R430: a piece of work that waits on a translation fault. -/
def faultWaits (s : State) (p : Work → Bool) : Bool := s.io.waits.any fun w => p w.work && w.need.isFault

/-- R430: an outstanding command is held by one of the listed causes. -/
def cmdBlocked (s : State) (c : Cmd) : Bool :=
  c.opcode == 0x03 || c.opcode == 0x01 || faultWaits s (fun w => w == .cmd c || w == .finish c) ||
  (s.xch.looks.any fun l => l.cmd == c && l.waitsRing) ||
  (s.sched.nodes.any fun n => n.cmd == c && nodeBlocked s n) ||
  (c.opcode == 0x41 && s.crn.launches.any fun l => l.cmd == c && (match graphOf s c.ctx l.graph, launchGen s l with
    | some _, some gen => (List.range gen.nodes.length).all fun n => !nodeReady s l n (gen.nodes.getD n ⟨0, []⟩)
    | _, _ => false))

/-- R430: the command at a ring's head is held. -/
def headBlocked (s : State) (ctx q : Nat) : Bool :=
  ringHeld s ctx q || faultWaits s (fun w => w == .fetch ctx q) || decide (65 < (getCtx s ctx).records.length) ||
  (match ringOf s ctx q with
   | some r => match headerRead (.fetch ctx q) ctx r s with
     | .ok (h, _) => fenceHolds s ctx q h
     | .error _ => false
   | none => false)

/-- Rings of a context that hold units. -/
def busyRings (s : State) (ctx : Nat) : List Nat :=
  (List.range 6).filter fun q => match ringOf s ctx q with
    | some r => r.head != r.tail
    | none => false

/-- R430: the run state of a context. -/
def runState (s : State) (ctx : Nat) : RunState :=
  let cs := (s.crn.started.map (·.cmd)).filter fun c => cmdDies ctx c
  let qs := busyRings s ctx
  let ns := s.sched.nodes.filter fun n => n.ctx == ctx
  if ns.any Node.onGroves then .running
  else if cs.isEmpty && qs.isEmpty && ns.isEmpty then .idle
  else if (cs.all (cmdBlocked s)) && (qs.all (headBlocked s ctx)) then .blocked
  else .ready

/-- R430: an OUT context is runnable: a ring's command can start, a saved node waits, or a pin asks for it. -/
def runnable (s : State) (ctx : Nat) : Bool :=
  let x := getCtx s ctx
  x.state == .out &&
  (((busyRings s ctx).any fun q => !headBlocked s ctx q) || (s.sched.nodes.any fun n => n.ctx == ctx && n.state == .saved) ||
    !x.pinCmds.isEmpty)

/-- R430: highest class of a context's pending work. -/
def pendingClass (s : State) (ctx : Nat) : Nat :=
  let ns := (s.sched.nodes.filter fun n => n.ctx == ctx).map (·.cls)
  let cs := ((s.crn.started.map (·.cmd)).filter fun c => cmdDies ctx c).map (cmdClass s)
  (busyRings s ctx ++ ns ++ cs).foldl min 7

/-- R432 rule 1: scratch ranges overlap. -/
def scratchOverlap (x y : Ctx) : Bool :=
  x.scratchMib != 0 && y.scratchMib != 0 && decide (x.scratchFirst < y.scratchFirst + y.scratchMib) &&
  decide (y.scratchFirst < x.scratchFirst + x.scratchMib)

/-- R432: among candidates, the earliest progress time, then the lower context ID. -/
def earliest (s : State) (l : List Ctx) : Option Ctx :=
  l.foldl (fun (b : Option Ctx) x => match b with
    | none => some x
    | some y =>
      let ax := (s.now + 2 ^ 64 - x.progress) % 2 ^ 64
      let ay := (s.now + 2 ^ 64 - y.progress) % 2 ^ 64
      if ay < ax || (ax == ay && decide (x.id < y.id)) then some x else b) none

/-- R432: candidates of a rule for a runnable context. -/
def candidates (s : State) (x : Ctx) (rule : Nat) : List Ctx :=
  let rs := s.sched.ctxs.filter fun y => y.id != 0 && y.state == .resident && !y.pinned
  match rule with
  | 1 => rs.filter fun y => scratchOverlap x y
  | 2 => rs.filter fun y => runState s y.id == .idle
  | 3 => if rs.all fun y => runState s y.id == .blocked || runState s y.id == .idle then
      rs.filter fun y => runState s y.id == .blocked else []
  | _ => rs.filter fun y => (runState s y.id == .ready || runState s y.id == .running) && decide (pendingClass s x.id ≤ pendingClass s y.id)

/-- R432: the counter of a rule. -/
def ruleCounter : Nat → Nat
  | 1 => Reg.CTX_CNT_EVICT_OVERLAP
  | 2 => Reg.CTX_CNT_EVICT_IDLE
  | 3 => Reg.CTX_CNT_EVICT_BLOCKED
  | _ => Reg.CTX_CNT_EVICT_SLICE

/-- R432, R433: the first of a list of rules that yields a candidate evicts it. -/
def evictBy (x : Ctx) (rules : List Nat) (s : State) : Option State :=
  (rules.findSome? fun r => (earliest s (candidates s x r)).map fun v => (r, v)).map fun p =>
    let s := count (ruleCounter p.1) s
    let s := updCtx p.2.id (fun y => { y with state := .evicting }) s
    emit 0x06 129 p.2.id 2 p.1 0 (preempt p.2.id false s)

/-- R429: the swap-in of a context begins. -/
def beginSwapIn (ctx : Nat) (reserve : Bool) (s : State) : State :=
  updCtx ctx (fun x => { x with state := .swappingIn, waitSince := none, reserveSlot := reserve }) s

/-- A runnable context waits for a slot; its wait is timed from here. -/
def waitSlot (ctx : Nat) (s : State) : State :=
  updCtx ctx (fun x => { x with waitSince := some (x.waitSince.getD s.now) }) s

/-- R432 rule 1: the context's scratch range meets that of a pinned resident context. -/
def pinnedOverlap (s : State) (x : Ctx) : Bool := s.sched.ctxs.any fun y => y.state == .resident && y.pinned && scratchOverlap x y

/-- R429, R432: a runnable context takes a slot, with an eviction when `limit` contexts are resident. -/
def swapInBy (rules : List Nat) (ctx : Nat) (s : State) : State :=
  let x := getCtx s ctx
  let n := (residents s).length
  if pinnedOverlap s x then waitSlot ctx s
  else if n < resLimit s then
    match evictBy x [1] s with
    | some s' => beginSwapIn ctx false s'
    | none => beginSwapIn ctx false s
  else if resLimit s + resReserve s ≤ n then
    if x.waitSince.isSome then s else count Reg.CTX_CNT_RESERVE_WAIT (waitSlot ctx s)
  else match evictBy x rules s with
    | some s' => beginSwapIn ctx true s'
    | none => waitSlot ctx s

def swapIn (ctx : Nat) (s : State) : State := if accepting s && runnable s ctx then swapInBy [1, 2, 3] ctx s else s

def execSwapIn (ctx : Nat) (s : State) : Host.Outcome State Fault Refusal := whileOn (swapIn ctx) s

/-- R432 rule 4: a runnable context has waited its slice. -/
def residencySliceExpire (ctx : Nat) (s : State) : State :=
  match (getCtx s ctx).waitSince with
  | some t => if runnable s ctx then swapInBy [1, 2, 3, 4] ctx (reachTime ((t + sliceUnits s) % 2 ^ 64) s) else s
  | none => s

def execResidencySliceExpire (ctx : Nat) (s : State) : Host.Outcome State Fault Refusal := whileOn (residencySliceExpire ctx) s

/-- R433: the context's Groves have stopped and been saved. -/
def groveQuiet (s : State) (ctx : Nat) : Bool :=
  !(s.sched.nodes.any fun n => n.ctx == ctx && n.onGroves) &&
  !(s.sched.nodes.any fun n => n.ctx == ctx && n.groves.any fun k => s.sched.saving.contains k)

/-- R420: local offset of a context's scratch image. -/
def scratchImage (s : State) (x : Ctx) : Nat := x.saveBase + scratchImageAt (partGroves (partOf s x.part)).length

/-- R433: the eviction ends: the scratch range is saved and the slot is free. -/
def evictionDone (ctx : Nat) (s : State) : State :=
  let x := getCtx s ctx
  if x.state != .evicting || !groveQuiet s ctx then s
  else
    let s := if x.scratchMib = 0 then s else saveWrite (scratchImage s x) (memRead s x.scratchBase x.scratchBytes) s
    let s := saveContext x s
    (updCtx ctx (fun x => { x with state := .out, reserveSlot := false, progress := x.progress }) s)

def execEvictionDone (ctx : Nat) (s : State) : Host.Outcome State Fault Refusal := whileOn (evictionDone ctx) s

/-- R433, R331, R436: the swap-in ends. -/
def swapInDone (ctx : Nat) (s : State) : State :=
  let x := getCtx s ctx
  if x.state != .swappingIn || (s.sched.ctxs.any fun y => y.id != ctx && y.state == .evicting && scratchOverlap x y) then s
  else if savePoisoned s x then faultNode 0x01 0 ctx .ecc s
  else match x.pending with
    | some f => faultNode 0x00 0 ctx f s
    | none =>
      let s := if x.scratchMib = 0 then s else memWrite x.scratchBase (memRead s (scratchImage s x) x.scratchBytes) s
      let s := updCtx ctx (fun x => { x with state := .resident, reserveSlot := false }) (count Reg.CTX_CNT_SWAP_IN s)
      pinSettle ctx (emit 0x06 129 ctx 1 0 0 s)

def execSwapInDone (ctx : Nat) (s : State) : Host.Outcome State Fault Refusal := whileOn (swapInDone ctx) s

/-! ### CTX_PIN (R434) -/

/-- R434: CTX_PIN, once it has taken effect in its window. -/
def ctxPinRun (c : Cmd) (s : State) : State :=
  let id := bits (par c 0) 13 0
  let on := bit (par c 0) 14
  let mask := par c 1 + par c 2 * 2 ^ 64
  let x := getCtx s id
  let p := partOf s x.part
  if bits (par c 0) 63 15 ≠ 0 || id = 0 || !ctxExists s id || !(fromAdmin c || c.ctx == id) ||
      decide (2 ^ (partGroves p).length ≤ mask) then badPacket c 0 s
  else if x.state == .faulted || x.state == .draining || x.state == .drainingDeferred then complete c stNoResource 0 0 s
  else if on && (decide (resLimit s ≤ (s.sched.ctxs.filter fun y => y.pinned && y.id != id).length + 1) ||
      (pinGroves p mask).any (reservedForOther s id)) then complete c stNoResource 0 0 s
  else if !on then completeOk c 0 (updCtx id (fun x => { x with pinned := false, pinMask := 0 }) s)
  else
    let s := updCtx id (fun x => { x with pinned := true, pinMask := mask, pinCmds := x.pinCmds ++ [c] }) s
    let s := (holders s id (pinGroves p mask)).foldl (fun s m => preempt m.ctx false s) s
    pinSettle id s

/-- R434, R595: the order that a CTX_PIN is: it acts on each Grove that its mask reserves or releases. -/
def pinOrder (s : State) (c : Cmd) : OrderKind :=
  let x := getCtx s (bits (par c 0) 13 0)
  let p := partOf s x.part
  .pin x.id (bit (par c 0) 14) (maskOf (pinGroves p (par c 1 + par c 2 * 2 ^ 64)) ||| maskOf (pinGroves p x.pinMask))

/-- R434: CTX_PIN. A pin that already waits is not repeated. -/
def ctxPin (c : Cmd) (rivals : List Order) (s : State) : State :=
  if s.sched.ctxs.any fun x => x.pinCmds.contains c then s
  else
    let s := startCmd c s
    ordered c (pinOrder s c) rivals (ctxPinRun c) s

def execCtxPin (c : Cmd) (rivals : List Order) (s : State) : Host.Outcome State Fault Refusal := whileOn (ctxPin c rivals) s

/-! ### Partitions (R413, R414, R165, R172) -/

/-- R172: ways that join or leave a mask lose their lines and are written to zero on both dies. -/
def clearWays (mask : Nat) (s : State) : State :=
  let s := canDrop (fun l => bit mask l.way) s
  (maskBits 31 mask).foldl (fun s w => memZero (0x200040000000 + w * 0x2000000) 0x2000000 (memZero (0x200000000000 + w * 0x2000000) 0x2000000 s)) s

/-- R414: a resource that another partition holds: that partition. -/
def heldByOther (s : State) (p : Nat) (q : Part) : Option Nat :=
  (List.range 16).find? fun j => j != p && (partOf s j).exist &&
    ((partOf s j).groups &&& q.groups != 0 || (partOf s j).ways &&& q.ways != 0 || (partOf s j).groves &&& q.groves != 0)

/-- R529: a trace buffer that lies in a group which changes hands ends. -/
def endTraceIn (mask : Nat) (s : State) : State :=
  let t := s.obs.trace
  if !t.live || !isHbm t.base || !((List.range 16).any fun g => bit mask g && decide (groupOf t.base ≤ g) && decide (g ≤ groupOf (t.base + t.length - 1))) then s
  else traceClose 4 s

/-- R414: the new assignment takes effect. -/
def partApply (op : PartOp) (s : State) : State :=
  let old := partOf s op.part
  let s := setPart op.part op.next (clearWays (old.ways ^^^ op.next.ways) s)
  completeOk op.cmd op.total s

/-- R163: `MEM_GROUP_OWNER` follows the assignment in reads; a scrub that is left is kept here. -/
def groupScrubDone (s : State) : State :=
  match s.sched.partOps with
  | [] => s
  | op :: rest =>
    match op.scrub with
    | [] => s
    | g :: gs =>
      let s := canDrop (fun l => groupOf (l.line * 256) == g && !inDeviceArea (l.line * 256)) (memZero (g * 2 ^ 35) 0x7F8000000 s)
      if gs.isEmpty then partApply { op with scrub := [] } (s.setSched { s.sched with partOps := rest })
      else s.setSched { s.sched with partOps := { op with scrub := gs } :: rest }

def execGroupScrubDone (s : State) : Host.Outcome State Fault Refusal := whileOn (groupScrubDone) s

/-- R413: the partition that a CTX_PARTITION asks for. -/
def partAsked (c : Cmd) : Part :=
  if bit (par c 0) 4 then {}
  else { exist := true, groups := bits (par c 1) 15 0, ways := bits (par c 1) 47 16, groves := par c 2 + par c 3 * 2 ^ 64, exact := bit (par c 0) 5 }

/-- R414: CTX_PARTITION, once it has taken effect in its window. -/
def ctxPartitionRun (c : Cmd) (s : State) : State :=
  let p := bits (par c 0) 3 0
  let del := bit (par c 0) 4
  let q := partAsked c
  if !fromAdmin c || bits (par c 0) 63 6 ≠ 0 ||
      (!del && (bits (par c 1) 63 48 ≠ 0 || bit q.ways 31 || q.groups == 0 || q.groves == 0)) then badPacket c 0 s
  else match heldByOther s p q with
  | some j => complete c stNoResource 0 (j + 1 * 2 ^ 4) s
  | none =>
    if s.sched.ctxs.any fun x => x.part == p && x.id != 0 && x.state != .none then complete c stNoResource 0 (2 * 2 ^ 4) s
    else if del && !(partOf s p).exist then completeOk c 0 s
    else
      let old := partOf s p
      let leave := maskBits 16 (old.groups &&& (0xFFFF ^^^ q.groups))
      let s := endTraceIn (old.groups ^^^ q.groups) s
      let op : PartOp := ⟨c, p, q, leave, leave.length⟩
      if leave.isEmpty then partApply op s else s.setSched { s.sched with partOps := s.sched.partOps ++ [op] }

/-- R414: CTX_PARTITION. While one waits for its scrubs, a further one on the same partition waits behind it. -/
def ctxPartition (c : Cmd) (rivals : List Order) (s : State) : State :=
  let s := startCmd c s
  let p := bits (par c 0) 3 0
  if s.sched.partOps.any fun o => o.part == p then s
  else
    let q := partAsked c
    ordered c (.partition p q.exist q.exact q.groups q.ways q.groves) rivals (ctxPartitionRun c) s

def execCtxPartition (c : Cmd) (rivals : List Order) (s : State) : Host.Outcome State Fault Refusal := whileOn (ctxPartition c rivals) s

/-! ### Creating contexts (R370, R415, R416) -/

/-- R370: a command ring of a queue table, if its fields are permitted. -/
def tableRing (l : List Byte) (q : Nat) : Option Ring :=
  let w0 := leAt l (32 * q) 8
  let w1 := leAt l (32 * q + 8) 8
  let w2 := leAt l (32 * q + 16) 8
  if leAt l (32 * q + 24) 8 ≠ 0 then none
  else if !bit w1 5 then (if w0 = 0 && w1 = 0 && w2 = 0 then some {} else none)
  else if w0 ≥ 2 ^ 57 || w0 % 4096 ≠ 0 || w1 ≥ 64 || bits w1 4 0 < 8 || 20 < bits w1 4 0 || w2 ≥ 2 ^ 57 || w2 % 8 ≠ 0 then none
  else some { base := w0, sizeLog := bits w1 4 0, enable := true, shadow := w2 }

/-- R370: the completion ring of a queue table. -/
def tableCpl (l : List Byte) : Option CplRing :=
  let w0 := leAt l 192 8
  let w1 := leAt l 200 8
  let v := bits w1 26 16
  if w0 ≥ 2 ^ 57 || w0 % 4096 ≠ 0 || bits w1 4 0 < 4 || 20 < bits w1 4 0 || !bit w1 5 || bits w1 15 6 ≠ 0 || v < 16 ||
      bits w1 31 27 ≠ 0 || bits w1 63 40 ≠ 0 || leAt l 208 16 ≠ 0 || leAt l 224 32 ≠ 0 then none
  else some { base := w0, sizeLog := bits w1 4 0, vector := v, holdoff := bits w1 39 32 }

/-- R370: a queue table. -/
def queueTable (l : List Byte) : Option (List Ring × CplRing) :=
  match tableRing l 0, tableRing l 1, tableRing l 2, tableRing l 3, tableRing l 4, tableRing l 5, tableCpl l with
  | some a, some b, some c, some d, some e, some f, some g => some ([a, b, c, d, e, f], g)
  | _, _, _, _, _, _, _ => none

/-- A read of host memory under a PASID (R416). -/
def pasidRead (w : Work) (pasid va n : Nat) : Acc (List Byte) := do
  let x ← xlateHost w pasid va false
  placeRead w 0 n x

/-- R415, R416: the save area of a CTX_CREATE is allowed. DEDUCED (one that is not aligned is answered as one that does not fit). -/
def saveAreaOk (p : Part) (base len need : Nat) : Bool :=
  decide (base % 0x200000 = 0) && decide (len % 0x200000 = 0) && decide (need ≤ len) && isHbm base && bit p.groups (groupOf base) && groupOf base == groupOf (base + len - 1) &&
  !inDeviceArea (base + len - 1)

/-- R416: the scratch range of a CTX_CREATE is allowed. -/
def scratchRangeOk (s : State) (p : Part) (first mib : Nat) : Bool :=
  decide (first + mib ≤ 2048) && ((List.range mib).all fun i => scratchOk s p (0x200000000000 + (first + i) * 0x100000))

/-- R415: the context that a CTX_CREATE asks for. -/
def ctxAsked (c : Cmd) : Ctx :=
  { id := bits (par c 0) 13 0, state := .out, part := bits (par c 0) 17 14, pasid := bits (par c 0) 37 18, saveBase := par c 2,
    saveLen := par c 3, scratchFirst := bits (par c 4) 15 0, scratchMib := bits (par c 4) 31 16 }

/-- R416: a CTX_CREATE whose queue table has been read, or whose read has failed. -/
def createWith (c : Cmd) (r : Except Flt (List Byte)) (s : State) : State :=
  let x := ctxAsked c
  let p := partOf s x.part
  let need := saveRequired (partGroves p).length x.scratchMib
  let table := match r with
    | .ok l => queueTable l
    | .error _ => none
  if (match r with | .ok _ => table.isNone | .error _ => false) then conclude c stBadPacket 0 0 s
  else if !saveAreaOk p x.saveBase x.saveLen need then conclude c stBadPacket 0 need s
  else if !scratchRangeOk s p x.scratchFirst x.scratchMib then conclude c stBadPacket 0 0 s
  else match r, table with
    | .ok _, some (rings, cpl) =>
      if 32768 ≤ s.xlt.nodes.length then conclude c stNoResource 0 0 s
      else
        let s := s.setXlt { s.xlt with nodes := s.xlt.nodes ++ [⟨x.id, 1, 0⟩] }
        conclude c stOk 0 need (putCtx { x with rings := rings, cpl := cpl, progress := s.now } s)
    | .error f, _ => conclude c stFault f.code 0 s
    | _, _ => s

/-- R416: CTX_CREATE carried out. A fault on the queue table tears no context down. -/
def createRun (c : Cmd) (s : State) : State :=
  let x := ctxAsked c
  if bits (par c 0) 63 38 ≠ 0 || bits (par c 2) 63 46 ≠ 0 || bits (par c 3) 63 46 ≠ 0 || bits (par c 4) 63 32 ≠ 0 || x.id = 0 ||
      !(partOf s x.part).exist || bit (par c 1) 56 || 2 ^ 57 ≤ par c 1 || par c 1 % 256 ≠ 0 then conclude c stBadPacket 0 0 s
  else
    runAcc (.cmd c) (accTry (.cmd c) (pasidRead (.cmd c) x.pasid (bits (par c 1) 55 0) 256)) (createWith c)
      (fun f s => conclude c stFault f.code 0 s) s

/-- R415, R416, R419, R43, R188: CTX_CREATE, once it has taken effect in its window. -/
def ctxCreateRun (c : Cmd) (s : State) : State :=
  let id := bits (par c 0) 13 0
  if !fromAdmin c || id = 0 then badPacket c 0 s
  else if s.xyl.maint then complete c stNoResource 0 0 s
  else match (getCtx s id).state with
  | .none => createRun c s
  | .faulted => complete c stNoResource 0 5 s
  | .draining | .drainingDeferred =>
    complete c stDeferred 0 0 (updCtx id (fun x => { x with state := .drainingDeferred, deferred := x.deferred ++ [c] }) s)
  | _ => completeOk c 0 s

def ctxCreate (c : Cmd) (rivals : List Order) (s : State) : State :=
  ordered c (.create (bits (par c 0) 13 0)) rivals (ctxCreateRun c) (startCmd c s)

def execCtxCreate (c : Cmd) (rivals : List Order) (s : State) : Host.Outcome State Fault Refusal := whileOn (ctxCreate c rivals) s

/-! ### Destroying contexts (R417 to R419) -/

/-- R43, R417, R419: a disable of a context. `c` is the CTX_DESTROY, none for the administrative context's register. -/
def destroyRun (id : Nat) (c : Option Cmd) (s : State) : State :=
  let add := fun (s : State) => updCtx id (fun x => { x with destroys := x.destroys ++ c.toList }) s
  match (getCtx s id).state with
  | .none => match c with
    | some c => completeOk c 0 s
    | none => s
  | .faulted => add (updCtx id (fun x => { x with state := .draining }) s)
  | .draining => add s
  | .drainingDeferred =>
    let cs := (getCtx s id).deferred
    cancelDeferred cs (add (updCtx id (fun x => { x with state := .draining, deferred := [] }) s))
  | _ => add (tear id none .draining s)

/-- R412, R417: CTX_DESTROY, once it has taken effect in its window. -/
def ctxDestroyRun (c : Cmd) (s : State) : State :=
  let id := bits (par c 0) 13 0
  if !fromAdmin c || id = 0 || bits (par c 0) 63 14 ≠ 0 then badPacket c 0 s
  else if (getCtx s id).destroys.contains c then s
  else destroyRun id (some c) s

def ctxDestroy (c : Cmd) (rivals : List Order) (s : State) : State :=
  ordered c (.destroy (bits (par c 0) 13 0)) rivals (ctxDestroyRun c) (startCmd c s)

def execCtxDestroy (c : Cmd) (rivals : List Order) (s : State) : Host.Outcome State Fault Refusal := whileOn (ctxDestroy c rivals) s

/-! ### The administrative context (R411) -/

/-- R411: the work key of the administrative queue table's read. -/
def adminWork : Work := .shadow 0 7

/-- R411: the administrative context comes to exist, or `CTX_ADMIN_CTL.error` is set. -/
def adminWith (r : Except Flt (List Byte)) (s : State) : State :=
  let ctl := regGet s Reg.CTX_ADMIN_CTL
  let table := match r with
    | .ok l => queueTable l
    | .error _ => none
  match table with
  | some (rings, cpl) =>
    if (rings.any fun r => r.enable && (bit r.base 56 || bit r.shadow 56)) || bit cpl.base 56 then regField Reg.CTX_ADMIN_CTL 22 22 1 s
    else
      regField Reg.CTX_ADMIN_CTL 22 21 1
        (putCtx { id := 0, state := .resident, pasid := bits ctl 19 0, rings := rings, cpl := cpl, progress := s.now } s)
  | none => regField Reg.CTX_ADMIN_CTL 22 22 1 s

/-- R411: the queue table is read at `CTX_ADMIN_QT`. -/
def adminRead (s : State) : State :=
  let qt := regGet s Reg.CTX_ADMIN_QT
  let pasid := bits (regGet s Reg.CTX_ADMIN_CTL) 19 0
  if bit qt 56 || qt % 256 ≠ 0 then regField Reg.CTX_ADMIN_CTL 22 22 1 s
  else runAcc adminWork (accTry adminWork (pasidRead adminWork pasid (bits qt 55 0) 256)) adminWith (fun f s => adminWith (.error f) s) s

/-- R411: a write of `CTX_ADMIN_CTL` with go set. R43 governs while the context exists. -/
def adminCreate (pasid : Nat) (s : State) : State :=
  match (getCtx s 0).state with
  | .none => adminRead (regPut Reg.CTX_ADMIN_CTL (pasid % 2 ^ 20 + 2 ^ 20) s)
  | .draining => updCtx 0 (fun x => { x with state := .drainingDeferred }) (regPut Reg.CTX_ADMIN_CTL (pasid % 2 ^ 20 + 3 * 2 ^ 20) s)
  | _ => s

def execAdminCreate (pasid : Nat) (s : State) : Host.Outcome State Fault Refusal := whileServed Reg.CTX_ADMIN_CTL (adminCreate pasid) s

/-- R411: a write of `CTX_ADMIN_CTL` with go clear. -/
def adminDestroy (pasid : Nat) (s : State) : State :=
  let s := regField Reg.CTX_ADMIN_CTL 20 0 (pasid % 2 ^ 20) s
  if (getCtx s 0).state == .none then s else destroyRun 0 none s

def execAdminDestroy (pasid : Nat) (s : State) : Host.Outcome State Fault Refusal := whileServed Reg.CTX_ADMIN_CTL (adminDestroy pasid) s

/-! ### The end of a teardown (R417) -/

/-- R417: what the context's translation and page bias leave behind. -/
def freeCtxMemory (x : Ctx) (s : State) : State :=
  let last := !(s.sched.ctxs.any fun y => y.id != x.id && y.pasid == x.pasid && y.state != .none)
  s.setXlt { s.xlt with
    spans := s.xlt.spans.filter fun p => p.ctx != x.id
    nodes := s.xlt.nodes.filter fun n => n.ctx != x.id
    dtlb := s.xlt.dtlb.filter fun p => p.1 != x.id
    utlb := s.xlt.utlb.filter fun p => match p.2 with
      | .span c _ => c != x.id
      | .page _ => true
    loads := s.xlt.loads.filter fun p => p.1 != x.id
    bias := if last then s.xlt.bias.filter fun b => b.pasid != x.pasid else s.xlt.bias }

/-- R417: a teardown has finished: no bulk channel is bound to the context and none of its chains waits. -/
def tearFinished (s : State) (ctx : Nat) : Bool :=
  !((List.range 64).any fun n => (bulkOf s n).ctx == some ctx) && !(s.crn.finishing.any fun f => cmdDies ctx f.cmd)

/-- R417, R43: the steps after the teardown; the function is DISABLED, and a deferred create is carried out. -/
def contextTeardownEnd (ctx : Nat) (s : State) : State :=
  let x := getCtx s ctx
  if (x.state != .draining && x.state != .drainingDeferred) || !tearFinished s ctx then s
  else
    let va := x.cpl.base + 32 * x.cpl.prod
    let s := clearWork (.record ctx) s
    let s := s.setSched { s.sched with ctxs := s.sched.ctxs.filter fun y => y.id != ctx }
    let s := freeCtxMemory x s
    let s := x.records.foldl (fun s p => if p.silent then s else divert p.record 3 va s) s
    let s := concludeDisables x.destroys s
    if ctx = 0 then
      let s := regField Reg.CTX_ADMIN_CTL 21 21 0 s
      if x.state == .drainingDeferred then adminRead s else s
    else match beginFresh x.deferred s with
      | (none, s) => s
      | (some c, s) => createRun c s

def execContextTeardownEnd (ctx : Nat) (s : State) : Host.Outcome State Fault Refusal := whileOn (contextTeardownEnd ctx) s

end Sys2Proof.Machine
end

