-- ==== Sys2Proof/Machine/Integrity.lean ====
section
/-!
DEFINITION. The integrity log (R510), strikes and quarantine of Lattices (R215, R216), and quarantine of Groves (R509).
-/

namespace Sys2Proof.Machine

/-- R510: an entry of the integrity log; it replaces the oldest. -/
def intLog (kind grove lattice fault block detail : Nat) (s : State) : State :=
  let p := bits (regGet s Reg.INT_LOG_PROD) 15 0
  let i := p % 64
  regPut Reg.INT_LOG_PROD ((p + 1) % 2 ^ 16)
    (regPut (Reg.INT_LOG_B i) s.now
      (regPut (Reg.INT_LOG_A i)
        (kind + grove * 2 ^ 4 + lattice * 2 ^ 11 + fault * 2 ^ 15 + block * 2 ^ 23 + (detail % 2 ^ 32) * 2 ^ 32) s))

/-- R509, R510: a Grove is quarantined until the next device reset. -/
def groveQuarantine (k block : Nat) (s : State) : State :=
  if isQuarantined s k then s
  else
    let s := if k < 64 then regOr Reg.INT_GROVE_Q_LO (1 <<< k) s else regOr Reg.INT_GROVE_Q_HI (1 <<< (k - 64)) s
    raiseVector 7 (intLog 6 k 0 0 block 0 (count Reg.INT_CNT_QUAR_GROVE s))

/-- R216: the quarantined Lattices of a Grove. -/
def latQuarantined (s : State) (k L : Nat) : Bool := bit (regGet s (Reg.LAT_STAT k)) L

/-- R215: the stand-in of a Lattice: the next one, wrapping from 15 to 0, that is not quarantined. -/
def standIn (s : State) (k L : Nat) : Option Nat :=
  ((List.range 15).map fun d => (L + 1 + d) % 16).find? fun l => !latQuarantined s k l

/-- R216: the Lattice that computes the block of Lattice `L`. -/
def latFor (s : State) (k L : Nat) : Nat := if latQuarantined s k L then (standIn s k L).getD L else L

/-- R215, R216, R510: a Lattice is quarantined; a second one of its Grove quarantines the Grove. -/
def latQuarantine (k L : Nat) (s : State) : State :=
  if latQuarantined s k L then s
  else
    let s := regOr (Reg.LAT_STAT k) (1 <<< L) s
    let q := maskBits 16 (bits (regGet s (Reg.LAT_STAT k)) 15 0)
    let si := (standIn s k (q.headD L)).getD 0
    let s := regField (Reg.LAT_STAT k) 20 16 (1 + si * 2) s
    let s := raiseVector 7 (intLog 5 k L 0 0x05 0 (count Reg.INT_CNT_QUAR_LATTICE s))
    if 2 ≤ q.length then groveQuarantine k 0x05 s else s

def strikesOf (s : State) (k L : Nat) : Nat := bits (regGet s (Reg.LAT_STRIKES k)) (4 * L + 3) (4 * L)
def setDrained (k L n : Nat) (s : State) : State := s.setGro { s.gro with drained := mset 0 s.gro.drained (16 * k + L) n }
def drainedOf (s : State) (k L : Nat) : Nat := mget 0 s.gro.drained (16 * k + L)

/-- R215, R216: one strike; at two strikes the Lattice is quarantined. -/
def latStrike (k L : Nat) (s : State) : State :=
  let n := min 2 (strikesOf s k L + 1)
  let s := setDrained k L 0 (regField (Reg.LAT_STRIKES k) (4 * L + 3) (4 * L) n s)
  if 2 ≤ n then latQuarantine k L s else s

/-- R216: a Lattice has drained a tile without a mismatch. -/
def latDrained (k L : Nat) (s : State) : State := setDrained k L (drainedOf s k L + 1) s

/-- R216: 2^24 tiles without a mismatch clear a strike. -/
def strikeClear (k lattice : Nat) (s : State) : State :=
  let n := strikesOf s k lattice
  if drainedOf s k lattice < 2 ^ 24 || n = 0 || 16 ≤ lattice then s
  else setDrained k lattice 0 (regField (Reg.LAT_STRIKES k) (4 * lattice + 3) (4 * lattice) (n - 1) s)

def execStrikeClear (k lattice : Nat) (s : State) : Host.Outcome State Fault Refusal := whileOn (strikeClear k lattice) s

/-- Fabric time of 24 hours. -/
def dayUnits : Nat := 86400000000 * usUnits

/-- R499, R509, R510: an uncorrectable ECC error strikes a structure of a Grove; two within 24 hours quarantine it. -/
def groveEcc (k block : Nat) (s : State) : State :=
  let old := mget 0 s.gro.eccAt k
  let s := intLog 7 k 0 Flt.ecc.code block ((groveOf s k).ctx.getD 0) (count Reg.INT_CNT_GROVE_ECC s)
  let s := s.setGro { s.gro with eccAt := mset 0 s.gro.eccAt k (s.now + 1) }
  if old ≠ 0 ∧ (s.now + 1 + 2 ^ 64 - old) % 2 ^ 64 ≤ dayUnits then groveQuarantine k block s else s

/-- R499: the structures of a Grove that ECC protects. -/
def isGroveStructure (block : Nat) : Bool := block == 0x03 || block == 0x04 || block == 0x06

/-- LAT_INJECT's fields: lattice in [3:0], bit in [9:4], arm in [10]; a bit above 37 and a sealed part ignore the write of it. -/
def injectArm (k value : Nat) (s : State) : State :=
  if isSealed s then s
  else
    let old := regGet s (Reg.LAT_INJECT k)
    let b := if 37 < bits value 9 4 then bits old 9 4 else bits value 9 4
    regPut (Reg.LAT_INJECT k) (bits value 3 0 + b * 2 ^ 4 + bits value 10 10 * 2 ^ 10) s

def execLatInjectArm (k value : Nat) (s : State) : Host.Outcome State Fault Refusal := whileServed (Reg.LAT_INJECT k) (injectArm k value) s

end Sys2Proof.Machine
end

