-- ==== Sys2Proof/Machine/Translation.lean ====
section
/-!
DEFINITION. The span window, address translation services, the fault gatherer, absent spans and page bias (chapter 10).
A function that ends waits answers with the pieces of work that go on.
-/

namespace Sys2Proof.Machine

/-! ### The span window (R315, R316) -/

/-- R312: the node of a span table that holds the entries of a level below a VA. -/
def spanNodeAt (ctx level dva : Nat) : SpanNode := ⟨ctx, level, dva / 2 ^ (if level = 3 then 30 else if level = 2 then 39 else 48)⟩

/-- R315: the nodes that a span needs and that do not exist yet. -/
def newSpanNodes (s : State) (ctx dva : Nat) (giant : Bool) : List SpanNode :=
  (spanNodeAt ctx 2 dva :: (if giant then [] else [spanNodeAt ctx 3 dva])).filter fun n => !s.xlt.nodes.contains n

/-- R315 result 2 for a target in local space. -/
def localTargetBad (s : State) (x : Ctx) (o : Nat) (giant : Bool) : Bool :=
  let p := partOf s x.part
  if isHbm o then
    inDeviceArea o || (match groupOwner s (groupOf o) with
      | some q => q != x.part
      | none => false)
  else if giant then true
  else if isScratch o then scratchWay o == 31 || !bit p.ways (scratchWay o)
  else !bit p.groves ((o - 0x300000000000) / 0x400000)

/-- R315: the result code of installing a valid entry. -/
def installCheck (s : State) (ctx dva entry src : Nat) (giant : Bool) : Nat :=
  let x := getCtx s ctx
  let k := setBits entry 20 0 0
  let o := bits k 45 0
  let space := k >>> 62
  if 2 ≤ space || !populated o || (space == 0 && bits k 61 46 != 0) || (isHbm o && inDeviceArea o) ||
      (giant && (bits k 29 21 != 0 || !isHbm o)) || (space == 0 && localTargetBad s x o giant) ||
      (bit entry 4 && (space != 0 || src >>> 62 == 3)) then 2
  else if 32768 < s.xlt.nodes.length + (newSpanNodes s ctx dva giant).length then 3
  else if s.xlt.spans.any fun p => p.ctx == ctx && (if giant then !p.giant && decide (p.va / 2 ^ 30 = dva / 2 ^ 30)
      else p.giant && decide (p.va / 2 ^ 30 = dva / 2 ^ 30)) then 5
  else 0

/-- R315: the result code of a span write, in the order of its table. -/
def spanCheck (s : State) (ctx va entry src : Nat) (giant : Bool) : Nat :=
  let dva := bits va 47 0
  if !bit va 56 || bits va 55 48 != 0 || dva % (if giant then 2 ^ 30 else 2 ^ 21) != 0 || bits entry 20 5 != 0 ||
      (bit entry 0 && !bit entry 1) then 1
  else if !ctxExists s ctx || !s.xlt.nodes.contains ⟨ctx, 1, 0⟩ then 4
  else if bit entry 0 then installCheck s ctx dva entry src giant
  else 0

/-- The mapping of a size at a device VA. -/
def Span.isAt (p : Span) (ctx dva : Nat) (giant : Bool) : Bool := p.ctx == ctx && p.va == dva && p.giant == giant

/-- R316: a span's entry leaves the shared device TLB and every micro-TLB. -/
def dropSpanEntries (ctx dva : Nat) (s : State) : State :=
  s.setXlt { s.xlt with
    dtlb := s.xlt.dtlb.filter fun p => p != (ctx, dva)
    utlb := s.xlt.utlb.filter fun p => p.2 != .span ctx dva }

/-- R315: a span is installed, with the nodes that it needs; a 1 GiB span frees an empty level-3 node in its place. -/
def spanInstall (ctx dva entry src : Nat) (giant : Bool) (s : State) : State :=
  let keep := s.xlt.nodes.filter fun n => !giant || n != spanNodeAt ctx 3 dva
  s.setXlt { s.xlt with
    nodes := keep ++ newSpanNodes s ctx dva giant
    spans := (s.xlt.spans.filter fun p => !p.isAt ctx dva giant) ++ [⟨ctx, giant, dva, entry, src⟩] }

/-- R315: the entry and source word that map the window's VA come into the window. -/
def spanFetch (s : State) : State :=
  let ctx := bits (regGet s Reg.XLT_SPAN_CTX) 13 0
  let va := regGet s Reg.XLT_SPAN_VA
  match spanOf s ctx (bits va 47 0) with
  | some p => regField Reg.XLT_SPAN_STAT 6 6 (b2n p.giant) (regPut Reg.XLT_SPAN_DATA p.entry (regPut Reg.XLT_SPAN_SRC p.source s))
  | none => regField Reg.XLT_SPAN_STAT 6 6 0 (regPut Reg.XLT_SPAN_DATA 0 (regPut Reg.XLT_SPAN_SRC 0 s))

/-- The window's status after an operation: busy, done and the result. -/
def spanStatus (busy done : Bool) (result : Nat) (s : State) : State :=
  regField Reg.XLT_SPAN_STAT 5 0 (b2n busy + 2 * b2n done + 4 * result) s

/-- R315, R316: the write of the window's entry is performed; done rises at once unless it replaces a valid entry. -/
def spanPerform (go : Nat) (s : State) : State :=
  let ctx := bits (regGet s Reg.XLT_SPAN_CTX) 13 0
  let dva := bits (regGet s Reg.XLT_SPAN_VA) 47 0
  let entry := regGet s Reg.XLT_SPAN_DATA
  let giant := bit go 2
  let old := s.xlt.spans.any fun p => p.isAt ctx dva giant
  let s := dropSpanEntries ctx dva s
  let s := if bit entry 0 then spanInstall ctx dva entry (regGet s Reg.XLT_SPAN_SRC) giant s
    else s.setXlt { s.xlt with spans := s.xlt.spans.filter fun p => !p.isAt ctx dva giant }
  let s := if bit go 1 then spanFetch s else s
  if old then spanStatus true false 0 (s.setXlt { s.xlt with spanOp := some { go := go } })
  else spanStatus false true 0 (s.setXlt { s.xlt with spanOp := none })

/-- R315, R316: a write of `XLT_SPAN_GO` with write set. -/
def spanWrite (value : Nat) (s : State) : State :=
  if s.xlt.spanOp.isSome || !bit value 0 then s
  else
    let ctx := bits (regGet s Reg.XLT_SPAN_CTX) 13 0
    let va := regGet s Reg.XLT_SPAN_VA
    let s := regField Reg.XLT_SPAN_STAT 6 6 0 s
    let r := spanCheck s ctx va (regGet s Reg.XLT_SPAN_DATA) (regGet s Reg.XLT_SPAN_SRC) (bit value 2)
    if r ≠ 0 then spanStatus false true r (if bit value 1 then spanFetch s else s)
    else if s.xlt.loads.contains (ctx, bits va 47 0) then
      spanStatus true false 0 (s.setXlt { s.xlt with spanOp := some { go := value, load := some (ctx, bits va 47 0) } })
    else spanPerform value s

/-- R315: a write of `XLT_SPAN_GO` with read set and write clear. -/
def spanRead (value : Nat) (s : State) : State :=
  if s.xlt.spanOp.isSome || bit value 0 || !bit value 1 then s
  else
    let ctx := bits (regGet s Reg.XLT_SPAN_CTX) 13 0
    let va := regGet s Reg.XLT_SPAN_VA
    if !bit va 56 || bits va 55 48 != 0 then spanStatus false true 1 s
    else if !ctxExists s ctx || !s.xlt.nodes.contains ⟨ctx, 1, 0⟩ then spanStatus false true 4 s
    else spanStatus false true 0 (spanFetch s)

/-- R316: the accesses translated with a replaced entry have been accepted. -/
def spanWriteDone (s : State) : State :=
  match s.xlt.spanOp with
  | some op => if op.load.isSome then s else spanStatus false true 0 (s.setXlt { s.xlt with spanOp := none })
  | none => s

def execSpanWrite (value : Nat) (s : State) : Host.Outcome State Fault Refusal := whileServed Reg.XLT_SPAN_GO (spanWrite value) s
def execSpanRead (value : Nat) (s : State) : Host.Outcome State Fault Refusal := whileServed Reg.XLT_SPAN_GO (spanRead value) s
def execSpanWriteDone (s : State) : Host.Outcome State Fault Refusal := whileOn (spanWriteDone) s

/-! ### Waits that end -/

/-- The works of waits that end, without a repeat. -/
def worksOf (l : List Waiting) : List Work := (l.map (·.work)).eraseDups

/-- R326, R331: a fault cannot be resolved: the failure is recorded for each waiter, and for a saved engine in its context. -/
def failWaiters (f : Flt) (l : List Waiting) (s : State) : State :=
  l.foldl (fun s x => match x.work with
    | .saved c => updCtx c (fun y => if y.pending.isNone && y.state != .resident then { y with pending := some f } else y) s
    | w => recordFail w f s) s

/-! ### ATS (R319 to R322) -/

/-- R322, R326: the failure of a host fault: FLT_PERM when a translation exists without the needed permission. -/
def hostFailure (s : State) (pasid page : Nat) : Flt :=
  if s.xlt.atc.any fun e => e.hits pasid (page * 4096) false || e.hits pasid (page * 4096) true then .perm else .xlate

/-- R319, R322: a Translation Completion. Waiters whose permission is granted go on, the others meet a host fault. -/
def atsCompletion (pasid page size target : Nat) (read write : Bool) (s : State) : List Work × State :=
  let mine := fun (x : Waiting) => match x.need with
    | .ats p pg _ => p == pasid && pg == page
    | _ => false
  let granted := fun (x : Waiting) => match x.need with
    | .ats _ _ wr => if wr then write else read
    | _ => false
  if !s.io.waits.any mine then ([], s)
  else
    let n := max 4096 size
    let s := if read || write then
      atcFill { pasid := pasid, page := page * 4096 / n * n, size := n, target := target, read := read, write := write } s else s
    let (ok, s) := takeWaits (fun x => mine x && granted x) s
    (worksOf ok, s.setIo { s.io with waits := s.io.waits.map fun x =>
      match x.need with
      | .ats p pg wr => if p == pasid && pg == page then { x with need := .hostFault pasid page wr } else x
      | _ => x })

/-- R320: ranges that overlap. -/
def overlaps (a n b m : Nat) : Bool := decide (a < b + m) && decide (b < a + n)

/-- R320 step 1: the matching entries go, and the reads translated with them are noted. -/
def atsInvalidate (tag pasid addr size : Nat) (all : Bool) (s : State) : State :=
  let hit := fun (p a n : Nat) => (all || p == pasid) && overlaps addr size a n
  s.setXlt { s.xlt with
    atc := s.xlt.atc.filter fun e => !hit e.pasid e.page e.size
    utlb := s.xlt.utlb.filter fun x => match x.2 with
      | .page e => !hit e.pasid e.page e.size
      | .span .. => true
    invs := s.xlt.invs ++ [{ tag := tag, pasid := pasid, addr := addr, size := size, all := all,
                             reads := (s.hl.reads.filter fun r => hit r.pasid r.addr r.bytes).map (·.tag) }] }

def execAtsInvalidate (tag pasid addr size : Nat) (global : Bool) (s : State) : Host.Outcome State Fault Refusal :=
  whileOn (atsInvalidate tag pasid addr size global) s

/-- R320 steps 2 to 4: no read that it waits for is outstanding, every write has been sent, and the completion goes out. -/
def atsInvalidateComplete (tag : Nat) (s : State) : State :=
  match s.xlt.invs.find? fun v => v.tag == tag with
  | none => s
  | some v =>
    if (s.hl.reads.any fun r => v.reads.contains r.tag) ||
        (s.hl.queued.any fun w => (v.all || w.pasid == v.pasid) && overlaps v.addr v.size w.addr w.data.length) then s
    else count Reg.XLT_CNT_ATS_INV (s.setXlt { s.xlt with
      invs := s.xlt.invs.filter fun v => v.tag != tag
      sent := s.xlt.sent ++ [.invalidateDone tag] })

def execAtsInvalidateComplete (tag : Nat) (s : State) : Host.Outcome State Fault Refusal := whileOn (atsInvalidateComplete tag) s

/-! ### The fault gatherer (R323 to R327) -/

def priRounds (s : State) : Nat := bits (regGet s Reg.XLT_PRI_CFG) 25 24
def priGroupMax (s : State) : Nat := bits (regGet s Reg.XLT_PRI_CFG) 5 0

/-- R326: rounds that a piece of work has had on a page. -/
def roundsOf (s : State) (w : Work) (page : Nat) : Nat := ((s.io.rounds.find? fun x => x.1 == w && x.2.1 == page).map (·.2.2)).getD 0

/-- R326: a Success answer to a waiter's request on a page. -/
def addRound (w : Work) (page : Nat) (s : State) : State :=
  s.setIo { s.io with rounds := (s.io.rounds.filter fun x => !(x.1 == w && x.2.1 == page)) ++ [(w, page, roundsOf s w page + 1)] }

/-- R321, R325, R326: a waiter fails without a page request. -/
def failsAtOnce (s : State) (w : Work) (page : Nat) : Bool :=
  !s.hl.pri || bit (regGet s Reg.XLT_STAT) 3 || decide (priRounds s ≤ roundsOf s w page)

/-- R324: the group of an index or identifier, and its requests. -/
def groupReqs (s : State) (id : Nat) : List PageReq := s.xlt.reqs.filter fun r => r.group == id

/-- The context that a piece of work belongs to (R517). -/
def workCtx (s : State) : Work → Option Nat
  | .cmd c => eventCtx c
  | .finish c => eventCtx c
  | .fetch c _ => some c
  | .shadow c _ => some c
  | .record c => some c
  | .helix g _ _ => (groveOf s g).ctx
  | .core g => (groveOf s g).ctx
  | .gdma g => (groveOf s g).ctx
  | .dump g => (groveOf s g).ctx
  | .bulk n => (bulkOf s n).ctx
  | .load c _ => some c
  | .saved c => some c
  | _ => none

/-- R516: translation faults of a kind that are handled. -/
def countFaults (kind : Nat) (l : List Waiting) (s : State) : State :=
  l.foldl (fun s x => evt 131 0x70 kind 1 (workCtx s x.work) s) s

/-- R324: a group closes and is sent with a PRG index of the pool; without a free index it stays open. -/
def closeGroup (id : Nat) (full : Bool) (s : State) : State :=
  match s.xlt.groups.find? fun g => g.id == id && g.index.isNone with
  | none => s
  | some _ =>
    let used := s.xlt.groups.filterMap (·.index)
    let free := (List.range 512).filter fun i => !used.contains i
    if free.isEmpty then s
    else
      let (n, s) := drawFree s
      let index := free.getD (Config.choice n % free.length) 0
      let rs := groupReqs s id
      let s := s.setXlt { s.xlt with
        groups := s.xlt.groups.map fun g => if g.id == id then { g with index := some index, full := full } else g
        sent := s.xlt.sent ++ [.pageGroup index (rs.map fun r => (r.page, r.write))] }
      evt 131 0x71 (if full then 0 else 1) 1 none (count Reg.XLT_CNT_PRI_GROUPS (countN Reg.XLT_CNT_PRI_PAGES rs.length s))

/-- R323: waiters of a need take another need. -/
def changeNeed (a b : Need) (s : State) : State :=
  s.setIo { s.io with waits := s.io.waits.map fun x => if x.need == a then { x with need := b } else x }

/-- R324: a new request joins its PASID's open group, or opens one. -/
def openRequest (pasid page : Nat) (write : Bool) (s : State) : State :=
  match s.xlt.groups.find? fun g => g.pasid == pasid && g.index.isNone with
  | some g =>
    let s := s.setXlt { s.xlt with reqs := s.xlt.reqs ++ [⟨pasid, page, write, g.id⟩] }
    if g.limit ≤ (groupReqs s g.id).length then closeGroup g.id true s else s
  | none =>
    let id := s.xlt.nextGroup
    let s := s.setXlt { s.xlt with
      reqs := s.xlt.reqs ++ [⟨pasid, page, write, id⟩]
      groups := s.xlt.groups ++ [{ id := id, pasid := pasid, limit := priGroupMax s }]
      nextGroup := id + 1 }
    if priGroupMax s ≤ 1 then closeGroup id true s else s

/-- R327: the gatherer has no space for a new request or for more waiters. -/
def gathererFull (s : State) (pasid waiters : Nat) : Bool :=
  let open_ := s.xlt.groups.filter fun g => g.index.isNone
  decide (1024 ≤ s.xlt.reqs.length) ||
  decide (16384 < (s.io.waits.filter fun x => match x.need with | .pri .. => true | _ => false).length + waiters) ||
  (decide (64 ≤ open_.length) && !open_.any fun g => g.pasid == pasid)

/-- R323: the request that a fault joins: its own triple, or for a write a read request whose group is still open. -/
def joinable (s : State) (pasid page : Nat) (write : Bool) : Option PageReq :=
  s.xlt.reqs.find? fun r => r.pasid == pasid && r.page == page &&
    (r.write == write || (write && s.xlt.groups.any fun g => g.id == r.group && g.index.isNone))

/-- R322, R323: a host fault reaches the gatherer. The waiters that fail at once go on to their failure. -/
def hostFault (pasid page : Nat) (write : Bool) (s : State) : List Work × State :=
  let mine := fun (x : Waiting) => x.need == .hostFault pasid page write
  let s := countFaults 0 (s.io.waits.filter mine) s
  let (bad, s) := takeWaits (fun x => mine x && failsAtOnce s x.work page) s
  let s := failWaiters (hostFailure s pasid page) bad s
  let n := (s.io.waits.filter mine).length
  if n = 0 then (worksOf bad, s)
  else
    match joinable s pasid page write with
    | some r =>
      let s := changeNeed (.hostFault pasid page write) (.pri pasid page write) (countN Reg.XLT_CNT_COALESCED n s)
      (worksOf bad, if r.write == write then s
        else changeNeed (.pri pasid page false) (.pri pasid page true) (s.setXlt { s.xlt with
          reqs := updFirst (fun q => q == r) (fun q => { q with write := true }) s.xlt.reqs }))
    | none =>
      if gathererFull s pasid n then (worksOf bad, s)
      else (worksOf bad, openRequest pasid page write
        (changeNeed (.hostFault pasid page write) (.pri pasid page write) (countN Reg.XLT_CNT_COALESCED (n - 1) s)))

/-- R324: the window of a PASID's open group elapses. -/
def priGroupWindow (pasid : Nat) (s : State) : State :=
  match s.xlt.groups.find? fun g => g.pasid == pasid && g.index.isNone with
  | some g => closeGroup g.id false s
  | none => s

def execPriGroupWindow (pasid : Nat) (s : State) : Host.Outcome State Fault Refusal := whileOn (priGroupWindow pasid) s

/-- R325: a group ends: its requests go, and its waiters are taken. -/
def endGroup (g : PageGroup) (s : State) : List Waiting × State :=
  let rs := groupReqs s g.id
  let (ws, s) := takeWaits (fun x => rs.any fun r => x.need == .pri r.pasid r.page r.write) s
  (ws, s.setXlt { s.xlt with
    reqs := s.xlt.reqs.filter fun r => r.group != g.id
    groups := s.xlt.groups.filter fun h => h.id != g.id })

/-- The page of a page request's waiter. -/
def Need.page : Need → Nat
  | .pri _ p _ => p
  | _ => 0

/-- R325, R331: the answer to a page request group. Response code 0 is Success, 1 Invalid Request, any other Response Failure. -/
def prgResponse (index code : Nat) (s : State) : List Work × State :=
  match s.xlt.groups.find? fun g => g.index == some index with
  | none => ([], s)
  | some g =>
    let n := (groupReqs s g.id).length
    let s := emit 0x0A 131 0 index g.pasid (n + b2n g.full * 2 ^ 8 + code % 256 * 2 ^ 16) s
    let (ws, s) := endGroup g s
    if code = 0 then
      let ws := ws.filter fun x => match x.work with | .saved _ => false | _ => true
      (worksOf ws, ws.foldl (fun s x => addRound x.work x.need.page s) s)
    else
      let s := countN Reg.XLT_CNT_PRI_FAIL n (if code = 1 then s else regOr Reg.XLT_STAT 8 s)
      (worksOf ws, failWaiters .xlate ws s)

/-- R325: no response within the timeout. -/
def priTimeout (index : Nat) (s : State) : List Work × State :=
  match s.xlt.groups.find? fun g => g.index == some index with
  | none => ([], s)
  | some g =>
    let (ws, s) := endGroup g s
    (worksOf ws, failWaiters .xlate ws (count Reg.XLT_CNT_PRI_TIMEOUT s))

/-! ### Absent spans (R328) -/

/-- R328: a fault on an absent span starts its load or joins it. -/
def absentSpanFault (ctx va : Nat) (s : State) : State :=
  if !s.io.waits.any fun x => x.need == .absent ctx va then s
  else
    let s := changeNeed (.absent ctx va) (.load ctx va) (countFaults 1 (s.io.waits.filter fun x => x.need == .absent ctx va) s)
    if s.xlt.loads.contains (ctx, va) then s
    else count Reg.XLT_CNT_ABSENT_LOAD (s.setXlt { s.xlt with loads := s.xlt.loads ++ [(ctx, va)] })

def execAbsentSpanFault (ctx va : Nat) (s : State) : Host.Outcome State Fault Refusal := whileOn (absentSpanFault ctx va) s

/-- A range of memory copied to another place, with the cache lines of the target dropped. -/
def memCopy (src dst n : Nat) (s : State) : State :=
  let l := (s.mem.bytes.filter fun c => decide (src ≤ c.1) && decide (c.1 < src + n)).map fun c => (c.1 - src + dst, c.2)
  let s := memZero dst n s
  let lo := s.mem.bytes.filter fun c => decide (c.1 < dst)
  let hi := s.mem.bytes.filter fun c => decide (dst + n ≤ c.1)
  canDrop (fun x => decide (dst ≤ x.line * 256) && decide (x.line * 256 < dst + n)) (s.setMem { s.mem with bytes := lo ++ l ++ hi })

/-- R328 step 1: the span's image comes to its target: from local memory, or the bytes that the host or the peer gave. -/
def loadSpan (p : Span) (data : List Byte) (s : State) : State :=
  let dst := bits p.entry 45 21 * 2 ^ 21
  if p.source >>> 62 = 0 then memCopy (bits p.source 45 0) dst p.size s
  else
    canDrop (fun x => decide (dst ≤ x.line * 256) && decide (x.line * 256 < dst + p.size))
      (memWrite dst (data.take p.size) (memZero dst p.size s))

/-- R328: a source that cannot be read: an unpopulated local range, or a poisoned sector. -/
def sourceBad (s : State) (p : Span) : Bool :=
  let o := bits p.source 45 0
  p.source >>> 62 == 0 && (bits p.source 61 46 != 0 || !populatedRange o p.size ||
    s.mem.poison.any fun k => decide (o ≤ k * 64) && decide (k * 64 < o + p.size))

/-- R328, R316: a load ends; a span write that waits for it is performed. -/
def absentLoadDone (ctx va : Nat) (ok : Bool) (data : List Byte) (s : State) : List Work × State :=
  if !s.xlt.loads.contains (ctx, va) then ([], s)
  else
    let span := s.xlt.spans.find? fun p => p.ctx == ctx && p.va == va && bit p.entry 4
    let good := ok && (match span with
      | some p => !sourceBad s p
      | none => false)
    let s := s.setXlt { s.xlt with loads := s.xlt.loads.filter fun p => p != (ctx, va) }
    let s := match span with
      | some p => if good then
          let s := loadSpan p data s
          dropSpanEntries ctx va (s.setXlt { s.xlt with
            spans := updFirst (fun q => q == p) (fun q => { q with entry := setBits q.entry 4 4 0 }) s.xlt.spans })
        else s
      | none => s
    let (ws, s) := takeWaits (fun x => x.need == .load ctx va) s
    let s := if good then s else failWaiters .xlate ws s
    (worksOf ws, match s.xlt.spanOp with
      | some op => if op.load == some (ctx, va) then spanPerform op.go s else s
      | none => s)

/-! ### Page bias (R335 to R339) -/

/-- R335: bias ranges with a range taken out. -/
def biasCut (first n : Nat) (l : List BiasRange) (pasid : Nat) : List BiasRange :=
  l.flatMap fun b =>
    if b.pasid != pasid || !overlaps b.first b.count first n then [b]
    else
      (if b.first < first then [{ b with count := first - b.first }] else []) ++
      (if first + n < b.first + b.count then [⟨pasid, first + n, b.first + b.count - (first + n)⟩] else [])

/-- R335: bias ranges with a range of OWNED pages added; adjacent ranges of the PASID merge. -/
def biasAdd (pasid first n : Nat) (l : List BiasRange) : List BiasRange :=
  let l := biasCut first n l pasid
  let touch := l.filter fun b => b.pasid == pasid && (b.first + b.count == first || b.first == first + n)
  let lo := touch.foldl (fun a b => min a b.first) first
  let hi := touch.foldl (fun a b => max a (b.first + b.count)) (first + n)
  (l.filter fun b => !touch.contains b) ++ [⟨pasid, lo, hi - lo⟩]

/-- R339: a refused SET_BIAS. -/
def biasBad (s : State) (c : Cmd) : Bool :=
  bits (par c 0) 63 2 != 0 || par c 1 % 4096 != 0 || decide (2 ^ 56 ≤ par c 1) || par c 2 == 0 || par c 2 % 4096 != 0 ||
  decide (2 ^ 56 < par c 1 + par c 2) || (bit (par c 0) 0 && bit (par c 0) 1 && !s.hl.cxlCache)

/-- R338: the operation of a SET_BIAS. -/
def biasOpOf (s : State) (c : Cmd) : BiasOp :=
  { cmd := c, pasid := (getCtx s c.ctx).pasid, first := par c 1 / 4096, count := par c 2 / 4096,
    owned := bit (par c 0) 0, flush := bit (par c 0) 0 && bit (par c 0) 1, begun := true }

def BiasOp.meets (a b : BiasOp) : Bool := a.pasid == b.pasid && overlaps a.first a.count b.first b.count

/-- The bias table after an operation. -/
def BiasOp.table (b : BiasOp) (l : List BiasRange) : List BiasRange :=
  if b.owned then biasAdd b.pasid b.first b.count l else biasCut b.first b.count l b.pasid

/-- R337 to R339: SET_BIAS begins; an overlapping later one waits for the earlier. -/
def setBias (c : Cmd) (s : State) : State :=
  let s := startCmd c s
  if s.xlt.biasOps.any fun b => b.cmd == c then s
  else if biasBad s c then badPacket c 0 s
  else
    let b := biasOpOf s c
    if 65536 < (b.table s.xlt.bias).length then complete c stNoResource 0 0 s
    else s.setXlt { s.xlt with biasOps := s.xlt.biasOps ++ [{ b with begun := !s.xlt.biasOps.any (·.meets b) }] }

def execSetBias (c : Cmd) (s : State) : Host.Outcome State Fault Refusal := whileOn (setBias c) s

/-- R338 step 2: earlier accesses of a range that have not completed. -/
def biasBusy (s : State) (b : BiasOp) : Bool :=
  (s.hl.reads.any fun r => r.pasid == b.pasid && overlaps (b.first * 4096) (b.count * 4096) r.addr r.bytes) ||
  (s.hl.queued.any fun w => w.pasid == b.pasid && overlaps (b.first * 4096) (b.count * 4096) w.addr w.data.length)

/-- The next overlapping operations begin. -/
def biasBegin (l : List BiasOp) : List BiasOp :=
  l.foldl (fun done b => done ++ [if done.any (·.meets b) then b else { b with begun := true }]) []

/-- R338, R339: the drain and the flush of a SET_BIAS end; the held accesses go on. -/
def setBiasDone (c : Cmd) (ok : Bool) (s : State) : List Work × State :=
  match s.xlt.biasOps.find? fun b => b.cmd == c with
  | none => ([], s)
  | some b =>
    if !b.begun || biasBusy s b then ([], s)
    else
      let full := decide (65536 < (b.table s.xlt.bias).length)
      let lines := if b.flush then b.count * 64 else 0
      let s := countN Reg.XLT_CNT_CLFLUSH lines (s.setXlt { s.xlt with
        sent := if lines = 0 then s.xlt.sent else s.xlt.sent ++ [.clFlush b.pasid (b.first * 4096) lines]
        bias := if ok && !full then b.table s.xlt.bias else s.xlt.bias
        biasOps := biasBegin (s.xlt.biasOps.filter fun x => x.cmd != c) })
      let (ws, s) := takeWaits (fun x => match x.need with
        | .bias p pg => p == b.pasid && decide (b.first ≤ pg) && decide (pg < b.first + b.count)
        | _ => false) s
      (worksOf ws, if !ok then faultCmd c .bus s else if full then complete c stNoResource 0 0 s else completeOk c 0 s)

end Sys2Proof.Machine
end

