-- ==== Sys2Proof/Machine/Stream.lean ====
section
/-!
DEFINITION. Helix channels as their consumers see them: slot rings and their positions (R279 to R285), ring IDs (R286, R287),
data blocks with their scale blocks and escape groups (R294 to R297), and the faults that a Grove's engines report (R273, R303).
-/

namespace Sys2Proof.Machine

/-! ### Faults of a Grove (R273, R303) -/

/-- R273: the first trap of a Grove is recorded: the instruction that its core is at. -/
def recordTrap (k : Nat) (f : Flt) (s : State) : State :=
  let g := groveOf s k
  if bit (regGet s (Reg.CORE_TRAP k)) 28 then s
  else regPut (Reg.CORE_TRAP k) (g.pc / 4 % 2 ^ 14 + fOp (g.code.getD (g.pc / 4) 0) * 2 ^ 14 + f.code * 2 ^ 20 + 2 ^ 28) s

/-- R273: a fault of a Grove's core or engines, found by the block of a code; the context is torn down.
An uncorrectable error in a structure of the Grove is logged (R510). -/
def groveFault (block addr k : Nat) (f : Flt) (s : State) : State :=
  match (groveOf s k).ctx with
  | some c =>
    let s := if f = .ecc && isGroveStructure block then groveEcc k block s else s
    faultNode block addr c f (recordTrap k f s)
  | none => s

/-! ### Channels -/

def chanOf (s : State) (k ch : Nat) : HChan := mget ({} : HChan) (groveOf s k).chans ch
def setChan (k ch : Nat) (c : HChan) (s : State) : State :=
  updGrove k (fun g => { g with chans := mset ({} : HChan) g.chans ch c }) s

/-- R289: fields of the header. -/
def HChan.kind (c : HChan) : Nat := bits (c.word 0) 1 0
def HChan.fmtCode (c : HChan) : Nat := bits (c.word 0) 5 2
def HChan.dtype (c : HChan) : Nat := bits (c.word 0) 7 6
def HChan.ext (c : HChan) : Bool := bit (c.word 0) 8
def HChan.fixed (c : HChan) : Bool := bit (c.word 0) 15
def HChan.ahead (c : HChan) : Nat := bits (c.word 0) 18 16 + 1
def HChan.scaleChan (c : HChan) : Option Nat := if bit (c.word 0) 22 then some (bits (c.word 0) 21 19) else none
def HChan.escChan (c : HChan) : Option Nat := if bit (c.word 0) 26 then some (bits (c.word 0) 25 23) else none
def HChan.instrCount (c : HChan) : Nat := bits (c.word 0) 38 32
def HChan.blockCodes (c : HChan) : Nat := 32 * (bits (c.word 0) 49 39 + 1)
def HChan.ringId (c : HChan) : Nat := bits (c.word 2) 47 32
def HChan.lineSlice (c : HChan) : Nat := bits (c.word 3) 7 0
def HChan.lineCount (c : HChan) : Nat := bits (c.word 3) 13 8
def HChan.lineScale (c : HChan) : Nat := bits (c.word 3) 25 14

/-- R284: the producer's credit. -/
def HChan.credit (c : HChan) : Nat := c.ringBytes + c.head * c.slotBytes - c.pos.p

/-- R284, R285: the stream byte up to which the producer may write or issue. -/
def HChan.window (c : HChan) : Nat :=
  let w := c.ringBytes + c.head * c.slotBytes
  if c.fixed then min w ((c.head + 1 + c.ahead) * c.slotBytes) else w

/-- R283: stream bytes that consumers may read. -/
def HChan.readable (c : HChan) : Nat := c.tail * c.slotBytes

/-- R293: the program has ended and its last transfer has arrived. -/
def HChan.finished (c : HChan) : Bool := c.ended && c.token.isNone

/-! ### Grove store and rings -/

/-- R423: the chunks that a range of a Grove's store touches are written. -/
def markChunks (k off n : Nat) (s : State) : State :=
  if n = 0 then s
  else
    let cs := (List.range ((off + n - 1) / 0x10000 - off / 0x10000 + 1)).map (· + off / 0x10000)
    updGrove k (fun g => { g with chunks := cs.foldl (fun l c => keyInsert c l) g.chunks }) s

/-- A write of a Grove's store. -/
def gsWrite (k off : Nat) (l : List Byte) (s : State) : State := markChunks k off l.length (localWrite (gsBase k + off) l s)

/-- R184: a read of a Grove's store, with whether it met a poisoned sector. -/
def gsRead (k off n : Nat) (s : State) : (List Byte × Bool) × State := localRead (gsBase k + off) n s

/-- Bytes of a Grove's store as they stand. -/
def gsPeek (s : State) (k off n : Nat) : List Byte := memRead s (gsBase k + off) n

/-- R281: bytes of a ring piece that does not pass the ring's end. -/
def ringPut1 (k : Nat) (c : HChan) (o : Nat) (l : List Byte) (s : State) : State :=
  let s := memWrite (c.ringAt k + o) l s
  if c.inCanopy then s else markChunks k (bits (c.word 1) 30 0 + o) l.length s

/-- R282: stream bytes from position `p` are written to a ring. -/
def ringPut (k : Nat) (c : HChan) (p : Nat) (l : List Byte) (s : State) : State :=
  let o := p % max c.ringBytes 1
  let a := min l.length (c.ringBytes - o)
  let s := ringPut1 k c o (l.take a) s
  if a < l.length then ringPut1 k c 0 (l.drop a) s else s

/-- R282: stream bytes from position `p` of a ring. -/
def ringGet (s : State) (k : Nat) (c : HChan) (p n : Nat) : List Byte :=
  let o := p % max c.ringBytes 1
  let a := min n (c.ringBytes - o)
  memRead s (c.ringAt k + o) a ++ memRead s (c.ringAt k) (n - a)

/-- The end of the run of arrived ranges that starts at `p`. -/
def gotEnd : Nat → List (Nat × Nat) → Nat → Nat
  | 0, _, p => p
  | n + 1, l, p =>
    match l.find? fun r => decide (r.1 ≤ p) && decide (p < r.1 + r.2) with
    | some r => gotEnd n l (r.1 + r.2)
    | none => p

/-- R282: the stream byte below which every byte has arrived. -/
def HChan.arrivedTo (c : HChan) : Nat :=
  if c.ext then gotEnd (c.got.length + 1) c.got (c.tail * c.slotBytes)
  else c.reqs.foldl (fun m r => min m r.pos.p) c.pos.p

/-- R282: the tail advances over whole slots in order. -/
def HChan.advanceTail (c : HChan) : HChan :=
  let t := max c.tail (c.arrivedTo / max c.slotBytes 1)
  { c with tail := t, got := c.got.filter fun r => decide (t * c.slotBytes < r.1 + r.2) }

/-! ### Head (R282, R201) -/

/-- R201: the first stream byte that a tile holds of a channel until its residue check has passed. -/
def Tile.holds (t : Tile) (ch : Nat) : List Nat :=
  let w := t.desc.getD 0 0
  if !t.started || t.checked then []
  else (if bit w 8 && bits w 12 10 == ch then [t.aPos] else []) ++ (if bit w 9 && bits w 15 13 == ch then [t.bPos] else [])

/-- R282, R293: the head releases the slots that every reader has finished with; a finished channel whose head meets its tail is idle. -/
def releaseHead (k ch : Nat) (s : State) : State :=
  let g := groveOf s k
  let c := chanOf s k ch
  let limit := (g.tiles.flatMap fun t => t.holds ch).foldl min c.cons
  let h := max c.head (limit / max c.slotBytes 1)
  setChan k ch { c with head := h, running := c.running && !(c.finished && h == c.tail) } s

/-- Consumers have read `n` more bytes; at the end of a finished program the position moves to the slot boundary. -/
def consume (k ch n : Nat) (s : State) : State :=
  let c := chanOf s k ch
  let p := c.cons + n
  releaseHead k ch (setChan k ch { c with cons := if c.finished && p == c.pos.p then roundUp p (max c.slotBytes 1) else p } s)

/-! ### Ring IDs (R286, R287) -/

def ringIdOf (s : State) (ctx id : Nat) : RingId := (s.gro.rings.find? fun r => r.ctx == ctx && r.id == id).getD { ctx := ctx, id := id }
def setRingId (r : RingId) (s : State) : State :=
  s.setGro { s.gro with rings := (s.gro.rings.filter fun x => !(x.ctx == r.ctx && x.id == r.id)) ++ [r] }

/-- R287: a piece of work may be the producer of a ring ID. -/
def ringIdFree (s : State) (ctx id : Nat) (w : Work) : Bool :=
  match (ringIdOf s ctx id).producer with
  | some v => v == w
  | none => true

/-- R287: a piece of work becomes the producer of a ring ID. -/
def ringClaim (ctx id : Nat) (w : Work) (s : State) : State := setRingId { ringIdOf s ctx id with producer := some w } s

/-- R286: a producer gives bytes at a position of the ID; they are held until they may be written. -/
def ringGive (ctx id off : Nat) (l : List Byte) (s : State) : State :=
  let r := ringIdOf s ctx id
  if l.isEmpty then s
  else setRingId { r with held := r.held ++ [(off, l)], next := max r.next (off + l.length) } s

/-- R286, R293: a binding ends; the bytes that remain go to the next one. -/
def ringUnbind (ctx id : Nat) (s : State) : State :=
  let r := ringIdOf s ctx id
  setRingId { r with bound := none, base := (r.held.map (·.1)).foldl min r.next } s

/-- R286: what a producer may write now of a held piece: the bytes below the accepted slots and the window of the bound channel. -/
def extAllowed (c : HChan) (base off len : Nat) : Nat :=
  let lim := base + min c.window (c.accepted * c.slotBytes)
  if off < base then 0 else min len (lim - off)

/-- R88: the last piece that a LOOKUP holds reaches to the end of its slot of `n` bytes, with zeros. -/
def ringFill (n : Nat) (r : RingId) : RingId :=
  match r.producer, r.held with
  | some (.cmd _), [(off, l)] =>
    let e := r.base + roundUp (off + l.length - r.base) n
    if n = 0 || e ≤ off + l.length then r
    else { r with held := [(off, padTo (e - off) l)], next := max r.next e }
  | _, _ => r

/-- R286: a held piece is written to its bound ring as far as the windows allow. -/
def extWrite (ctx id j : Nat) (s : State) : State :=
  let r := ringIdOf s ctx id
  let r := match r.bound with
    | some (k, ch) => ringFill (chanOf s k ch).slotBytes r
    | none => r
  match r.bound, r.held[j]? with
  | some (k, ch), some (off, l) =>
    let c := chanOf s k ch
    let n := extAllowed c r.base off l.length
    if n = 0 || !c.running || !(groveOf s k).running then s
    else
      let p := off - r.base
      let s := ringPut k c p (l.take n) s
      let held := if n < l.length then r.held.set j (off + n, l.drop n) else r.held.eraseIdx j
      let s := setRingId { r with held := held } s
      let c := { c with got := c.got ++ [(p, n)], pos := { c.pos with p := max c.pos.p (p + n) } }
      countN (Reg.HLX_CNT_BYTES k) n (setChan k ch c.advanceTail s)
  | _, _ => s

/-! ### Data blocks (R294 to R297) -/

/-- What feeding a consumer comes to: it goes on, it stalls, or Helix finds a fault with the tag found. -/
inductive Feed (α : Type) where
  | ok (a : α) (s : State)
  | late
  | bad (f : Flt) (pos tag ctr : Nat)

/-- R295: the next `n` bytes of a partner's ring, if they have arrived. -/
def partnerBytes (s : State) (k p n : Nat) : Option (List Byte) :=
  let c := chanOf s k p
  if c.readable < c.cons + n then none else some (ringGet s k c c.cons n)

/-- R295, R57, R64, R296: the scale block of data block `b`; `pos` is the consumer's stream byte. -/
def openScale (k p b pos : Nat) (s : State) : Feed Unit :=
  match partnerBytes s k p 8 with
  | none => .late
  | some h =>
    let w := ofLe h
    let tag := bits w 7 0
    let first := bits w 27 16
    let n := bits w 44 32
    match partnerBytes s k p (scaleBlockBytes n) with
    | none => .late
    | some l =>
      if tag ≠ b % 256 then .bad .scaleSkew pos tag (b % 256)
      else if 4096 < first + n then .bad .illegal pos 0 (b % 256)
      else
        let es := (List.range n).map fun i => scaleEntry (leAt l (8 + 2 * i) 2) tag
        .ok () (consume k p (scaleBlockBytes n) (updGrove k (fun g => { g with scale := msetMany 0 g.scale first es }) s))

/-- R295, R61, R64: the escape group of data block `b` of a channel. -/
def openEsc (k ch p b pos : Nat) (s : State) : Feed Unit :=
  match partnerBytes s k p 8 with
  | none => .late
  | some h =>
    let w := ofLe h
    let n := bits w 48 32
    match partnerBytes s k p (escGroupBytes n) with
    | none => .late
    | some l =>
      if bits w 7 0 ≠ b % 256 then .bad .scaleSkew pos (bits w 7 0) (b % 256)
      else
        let s := consume k p (escGroupBytes n) s
        .ok () (setChan k ch { chanOf s k ch with escs := (List.range n).map fun i => leAt l (8 + 4 * i) 4, escUsed := 0 } s)

/-- R295: data block `b` is opened: its scale block first, then its escape group. -/
def openBlock (k ch b pos : Nat) (s : State) : Feed Unit :=
  let c := chanOf s k ch
  let mark := fun (s : State) => setChan k ch { chanOf s k ch with opened := b + 1 } s
  let esc := fun (s : State) => match c.escChan with
    | none => Feed.ok () (mark s)
    | some p => match openEsc k ch p b pos s with
      | .ok _ s => .ok () (mark s)
      | .late => .late
      | .bad f a t n => .bad f a t n
  match c.scaleChan with
  | none => esc s
  | some p => match openScale k p b pos s with
    | .ok _ s => esc s
    | .late => .late
    | .bad f a t n => .bad f a t n

/-- R297: whether the line of a code is constant. -/
def lineConst (g : Grove) (c : HChan) (q : Nat) : Bool :=
  entConst (mget 0 g.scale (c.lineScale + q / max c.lineSlice 1 % max c.lineCount 1))

/-- R62, R297: codes of one block, from code `q`, with the entries left; the values matched and the entries still left. -/
def matchEsc (f : Fmt) (line : Nat → Bool) (blk : Nat) : Nat → List Nat → List Nat → Except (Flt × Nat) (List (Nat × Option Nat) × List Nat)
  | _, [], es => .ok ([], es)
  | q, c :: cs, es =>
    if f.escape = some c then
      if line q then (matchEsc f line blk (q + 1) cs es).map fun r => ((c, none) :: r.1, r.2)
      else match es with
        | [] => .error (.escapeShort, q)
        | e :: es =>
          if bits e 31 16 ≠ q % blk then .error (.illegal, q)
          else (matchEsc f line blk (q + 1) cs es).map fun r => ((c, some (bits e 15 0)) :: r.1, r.2)
    else (matchEsc f line blk (q + 1) cs es).map fun r => ((c, none) :: r.1, r.2)

/-- R294 to R297: `n` bytes of codes of a narrow data channel from its consumer position; `fuel` bounds the blocks that they touch. -/
def feedNarrow (f : Fmt) (k ch : Nat) : Nat → Nat → State → Feed (List (Nat × Option Nat))
  | 0, _, s => .ok [] s
  | fuel + 1, n, s =>
    if n = 0 then .ok [] s
    else
      let c := chanOf s k ch
      let q := c.cons * 8 / f.width
      let blk := c.blockCodes
      let b := q / blk
      let opened := if c.opened ≤ b then openBlock k ch b c.cons s else .ok () s
      match opened with
      | .late => .late
      | .bad e a t i => .bad e a t i
      | .ok _ s =>
        let c := chanOf s k ch
        let m := min n (((b + 1) * blk * f.width) / 8 - c.cons)
        let l := ringGet s k c c.cons m
        let codes := (List.range (m * 8 / f.width)).map (codeAt f l)
        match (if c.escChan.isSome then matchEsc f (lineConst (groveOf s k) c) blk q codes c.escs
            else .ok (codes.map fun x => (x, none), [])) with
        | .error (e, at_) => .bad e (at_ * f.width / 8) 0 (b % 256)
        | .ok (vs, rest) =>
          let ends := (q + codes.length) % blk == 0 || (c.finished && c.cons + m == c.pos.p)
          if ends && !rest.isEmpty then .bad .illegal (c.cons + m - 1) 0 (b % 256)
          else
            let s := setChan k ch { c with escs := rest, escUsed := c.escUsed + (c.escs.length - rest.length) } s
            let s := evt k 0x14 0 ((vs.filter fun v => v.2.isSome).length) (groveOf s k).ctx s
            match feedNarrow f k ch fuel (n - m) (consume k ch m s) with
            | .ok more s => .ok (vs ++ more) s
            | .late => .late
            | .bad e a t i => .bad e a t i

/-- R280, R283: `n` bytes of a data channel's codes; the consumer stalls unless every byte has arrived. -/
def feedCodes (f : Fmt) (k ch n : Nat) (s : State) : Feed (List (Nat × Option Nat)) :=
  let c := chanOf s k ch
  if c.readable < c.cons + n || (c.finished && c.pos.p < c.cons + n) then .late else feedNarrow f k ch (n + 1) n s

/-- R280, R283: `n` bytes of a data channel that holds BF16 or 32-bit values. -/
def feedBytes (k ch n : Nat) (s : State) : Feed (List Byte) :=
  let c := chanOf s k ch
  if c.readable < c.cons + n || (c.finished && c.pos.p < c.cons + n) then .late
  else .ok (ringGet s k c c.cons n) (consume k ch n s)

/-- R303: a contained fault of Helix: the first of a Grove is recorded, and the context is torn down. -/
def helixFault (k ch : Nat) (f : Flt) (pos tag ctr : Nat) (s : State) : State :=
  let s := if bit (regGet s (Reg.HLX_FAULT k)) 3 then s
    else regPut (Reg.HLX_FAULT_POS k) pos
      (regPut (Reg.HLX_FAULT k) (ch + 8 + f.code * 2 ^ 4 + (tag % 256) * 2 ^ 12 + (ctr % 256) * 2 ^ 20) s)
  groveFault 0x08 0 k f (setChan k ch { chanOf s k ch with halted := some f } s)

end Sys2Proof.Machine
end

