-- ==== Sys2Proof/Machine/Exchange.lean ====
section
/-!
DEFINITION. LOOKUP on the requesting device (R84 to R99, R107 to R113, R120, R122, R287, R462): the block's checks, bucketing
by owner pair, batches and their limits, hedges, fragments, merging, the mask, the output and the completion.
-/

namespace Sys2Proof.Machine

/-! ### The lookup block (R84 to R89) -/

/-- R86: fields of a segment descriptor of 32 bytes. -/
def sgTable (d : List Byte) : Nat := leAt d 0 2
def sgOp (d : List Byte) : Nat := bits (leAt d 0 8) 18 16
def sgOne (d : List Byte) : Bool := bit (leAt d 0 8) 19
def sgFmt (d : List Byte) : Nat := bits (leAt d 0 8) 23 20
def sgKind (d : List Byte) : Nat := bits (leAt d 0 8) 25 24
def sgShift (d : List Byte) : Nat := bits (leAt d 0 8) 32 26
def sgIdx32 (d : List Byte) : Bool := bit (leAt d 0 8) 33
def sgBags (d : List Byte) : Nat := leAt d 8 4
def sgCount (d : List Byte) : Nat := leAt d 12 4
def sgLenOff (d : List Byte) : Nat := leAt d 16 4
def sgIdxOff (d : List Byte) : Nat := leAt d 20 4
def sgWtOff (d : List Byte) : Nat := leAt d 24 4
def sgOut (d : List Byte) : Nat := leAt d 28 4

/-- A segment read from the block: its descriptor, bag lengths, indices and weights. -/
structure SegIn where
  desc : List Byte
  lens : List Nat
  idx : List Nat
  wts : List Nat
  deriving DecidableEq, Repr

/-- R84: parameters of LOOKUP. -/
def lkInline (c : Cmd) : Bool := bit (par c 0) 0
def lkRing (c : Cmd) : Option Nat := if bit (par c 0) 1 then some (bits (par c 0) 17 2) else none
def lkDeadline (s : State) (c : Cmd) : Nat :=
  let n := bits (par c 1) 31 0
  if n = 0 then bits (regGet s Reg.XCH_DEADLINE_DEF) 31 0 else n
def lkHedge (c : Cmd) : Nat := bits (par c 1) 63 32

/-- R84, R89: the parameters are malformed. -/
def lkParamsBad (s : State) (c : Cmd) : Bool :=
  bits (par c 0) 63 18 != 0 || (!bit (par c 0) 1 && bits (par c 0) 17 2 != 0) ||
  decide (lkDeadline s c < 1000) || decide (1000000000 < lkDeadline s c) || (lkHedge c != 0 && decide (lkHedge c < 500))

/-- R89: a piece of the block: of the inline data, none where it passes their end, or of memory. -/
def lkGet (c : Cmd) (off n : Nat) : Acc (Option (List Byte)) :=
  if lkInline c then pure (if off + n ≤ c.data.length then some (slice off n c.data) else none)
  else do
    let l ← ctxRead (.cmd c) c.ctx (par c 2 + off) n
    pure (some l)

/-- R87: bytes from one vector of a segment to the next. -/
def sgStride (s : State) (d : List Byte) : Nat :=
  roundUp (vecBytes (sgKind d) (sgFmt d) (((currentDesc s (sgTable d)).map tdDim).getD 0)) 32

/-- R89: a segment descriptor is refused. -/
def sgBad (s : State) (d : List Byte) : Bool :=
  bits (leAt d 0 8) 63 34 != 0 || decide (3 < sgOp d) || sgKind d == 3 ||
  (sgKind d == 0 && !(sgFmt d == 0 || sgFmt d == 2 || sgFmt d == 4 || sgFmt d == 10)) ||
  (currentDesc s (sgTable d)).isNone || (sgOne d && sgBags d != sgCount d)

/-- R89: two output ranges overlap. -/
def sgOverlaps (s : State) : List (List Byte) → Bool
  | [] => false
  | d :: ds => (ds.any fun e => overlaps (sgOut d) (sgBags d * sgStride s d) (sgOut e) (sgBags e * sgStride s e)) || sgOverlaps s ds

/-- R86: the arrays of one segment. -/
def segRead (c : Cmd) (d : List Byte) : Acc (Option SegIn) := do
  let w := if sgIdx32 d then 4 else 8
  match ← (if sgOne d then pure (some []) else lkGet c (sgLenOff d) (2 * sgBags d)) with
  | none => pure none
  | some lb =>
    let lens := if sgOne d then List.replicate (sgBags d) 1 else (List.range (sgBags d)).map fun i => leAt lb (2 * i) 2
    match ← lkGet c (sgIdxOff d) (w * sgCount d) with
    | none => pure none
    | some ib =>
      match ← (if sgOp d = 3 then lkGet c (sgWtOff d) (2 * sgCount d) else pure (some [])) with
      | none => pure none
      | some wb =>
        if lens.foldl (· + ·) 0 ≠ sgCount d then pure none
        else pure (some
          { desc := d, lens := lens, idx := (List.range (sgCount d)).map fun i => leAt ib (w * i) w,
            wts := if sgOp d = 3 then (List.range (sgCount d)).map fun i => leAt wb (2 * i) 2 else [] })

/-- R85, R89: the whole block, or none where it is malformed. -/
def blockRead (c : Cmd) : Acc (Option (List SegIn)) := do
  match ← lkGet c 0 16 with
  | none => pure none
  | some h =>
    let n := leAt h 0 2
    let total := leAt h 8 4
    if bits (leAt h 0 8) 63 16 != 0 || bits (leAt h 8 8) 63 32 != 0 || n == 0 || decide (4096 < n) || decide (2 ^ 24 < total) then pure none
    else
      match ← lkGet c 16 (32 * n) with
      | none => pure none
      | some l =>
        let ds := (List.range n).map fun i => slice (32 * i) 32 l
        let bad ← accAsk fun s => (ds.any (sgBad s)) || sgOverlaps s ds
        if bad || (ds.map sgCount).foldl (· + ·) 0 != total then pure none
        else ds.foldlM (fun (r : Option (List SegIn)) d => do
          match r with
          | none => pure none
          | some l => match ← segRead c d with
            | none => pure none
            | some g => pure (some (l ++ [g]))) (some [])

/-! ### Batches in flight (R97, R99) -/

def lookOf (s : State) (c : Cmd) : Option Look := s.xch.looks.find? fun l => l.cmd == c
def setLook (l : Look) (s : State) : State := s.setXch { s.xch with looks := updFirst (fun x => x.cmd == l.cmd) (fun _ => l) s.xch.looks }
def dropLook (c : Cmd) (s : State) : State := s.setXch { s.xch with looks := s.xch.looks.filter fun l => l.cmd != c }

def batchOf (s : State) (id : Nat) : Option ReqBatch := s.xch.batches.find? fun b => b.id == id
def updBatchOf (id : Nat) (f : ReqBatch → ReqBatch) (s : State) : State :=
  s.setXch { s.xch with batches := updFirst (fun b => b.id == id) f s.xch.batches }

/-- The original batch of a batch, and its number there of a part. -/
def origOf (s : State) (b : ReqBatch) : ReqBatch :=
  match b.copyOf with
  | some o => (batchOf s o).getD b
  | none => b
def ReqBatch.origPart (b : ReqBatch) (j : Nat) : Nat := if b.copyOf.isSome then b.partMap.getD j 0 else j

/-- Unanswered parts of a batch. -/
def openParts (s : State) (b : ReqBatch) : List Nat :=
  (List.range b.refs.length).filter fun j => (origOf s b).state.getD (b.origPart j) 2 == 0

/-- R99: batches sent that still have unanswered parts. -/
def outstanding (s : State) : List ReqBatch := s.xch.batches.filter fun b => b.sent && !(openParts s b).isEmpty

/-- R97: a fresh batch ID. -/
def freshBatch (s : State) : Nat × State := (s.xch.nextBatch, s.setXch { s.xch with nextBatch := (s.xch.nextBatch + 1) % 2 ^ 32 })

/-- R462: an ID that serves as owner. -/
def servesAsOwner (s : State) (d : Nat) : Bool := !isDown s d && !isRestoring s d

/-- Parts of a batch are finalised as missing. -/
def missParts (o : Nat) (ps : List Nat) (s : State) : State :=
  let miss := fun (b : ReqBatch) (j : Nat) => if b.state.getD j 0 == 0 && ps.contains j then 2 else b.state.getD j 0
  updBatchOf o (fun b => { b with state := (List.range b.state.length).map (miss b) }) s

/-- The indices that a list of parts holds. -/
def msgIndices (m : BatchMsg) : Nat := (m.segs.map fun g => g.indices.length).foldl (· + ·) 0

/-- R97, R516, R524: a batch goes to a device. -/
def shipBatch (id : Nat) (s : State) : State :=
  match batchOf s id with
  | none => s
  | some b =>
    let s := updBatchOf id (fun b => { b with sent := true, sentAt := s.now }) s
    let s := evt 128 0x40 b.dest 1 (eventCtx b.cmd) s
    let s := emit 0x07 128 b.cmd.ctx id (b.dest + b2n b.msg.hedge * 2 ^ 16) (msgIndices b.msg) s
    send b.dest (.batch b.msg) s

/-- R94, R462: a due batch is sent; one whose owner is DOWN or RESTORING goes to its replica or is missing. -/
def sendBatch (id : Nat) (s : State) : State :=
  match batchOf s id with
  | none => s
  | some b =>
    let s := count Reg.XCH_CNT_BATCHES (s.setXch { s.xch with window := (0 :: s.xch.window).take 1024 })
    if servesAsOwner s b.primary then shipBatch id s
    else if b.replica != 0xFFFF && servesAsOwner s b.replica then
      shipBatch id (updBatchOf id (fun b => { b with dest := b.replica, redirected := true }) s)
    else missParts id (List.range b.refs.length) (updBatchOf id (fun b => { b with sent := true, sentAt := s.now, redirected := true }) s)

/-- R99: the first due batch leaves unless a limit holds it. -/
def pumpBatches : Nat → State → State
  | 0, s => s
  | n + 1, s =>
    match s.xch.batches.find? fun b => b.due && !b.sent && !(openParts s b).isEmpty with
    | none => s
    | some b =>
      let out := outstanding s
      if 4096 ≤ out.length || 16 ≤ (out.filter fun x => x.copyOf.isNone && x.primary == b.primary && x.replica == b.replica).length then s
      else pumpBatches n (sendBatch b.id s)

def lookPump (s : State) : State := pumpBatches s.xch.batches.length s

/-! ### Overlay acknowledgements (R153 step 8) -/

/-- A lookup batch holds a row. -/
def batchHolds (s : State) (m : BatchMsg) (r : RowRef) : Bool :=
  m.segs.any fun g => g.table == r.table && g.epoch == r.epoch &&
    match heldDesc s r.table r.epoch SlotState.serves with
    | some d => g.indices.any fun i => (rowOf d (partnerRows s d) i).map (·.1) == some r.row
    | none => false

/-- R153 step 8: a batch that this device sent to the row's old owners and that holds the row has not finished. -/
def rowInFlight (s : State) (r : RowRef) : Bool :=
  let ab := match heldDesc s r.table r.epoch SlotState.serves with
    | some d => ownersOf s d r.row
    | none => (0xFFFF, 0xFFFF)
  let old := fun d => d == ab.1 || d == ab.2
  ((outstanding s).any fun b => old b.dest && batchHolds s b.msg r) ||
  s.tbl.upds.any fun u => u.table == r.table && u.epoch == r.epoch && u.sent.any fun p => old p.dst && p.msg.rows.contains r.row

/-- R153 step 8: OVERLAY_ACK goes out for each row whose batches have finished. -/
def overlayAcks (s : State) : State :=
  (s.tbl.overlay.filter fun x => x.ackDue && !rowInFlight s x.row).foldl (fun s x =>
    send s.fab.mgrId (.overlayAck x.row) (s.setTbl { s.tbl with
      overlay := updFirst (fun y => y.row == x.row) (fun y => { y with ackDue := false }) s.tbl.overlay })) s

/-! ### Merging and output (R87, R88, R90, R102 to R104, R113) -/

def insertAns (a : BagAns) : List BagAns → List BagAns
  | [] => [a]
  | b :: bs => if a.responder < b.responder || (a.responder == b.responder && a.order ≤ b.order) then a :: b :: bs else b :: insertAns a bs

/-- R104, R113: the vector of a bag and the elements that its conversion saturates. -/
def bagVector (exact : Bool) (g : LSeg) (b : Bag) (s : State) : (List Byte × Nat) × State :=
  match b.answers.find? fun a => a.whole with
  | some a => ((a.data, 0), s)
  | none =>
    let ps := ((b.answers.foldr insertAns []).map fun a => readPartial g.poolOp g.dim a.data).filter fun p => !p.none
    let n := (ps.map (·.count)).foldl (· + ·) 0
    let (v, s) := if ps.isEmpty then (vecZero g.dim, s)
      else if g.poolOp = 2 then (((ps.drop 1).map (·.vals)).foldl (vecZip fxMax) ((ps.map (·.vals)).headD []), s)
      else if exact then (((ps.drop 1).map (·.vals)).foldl (vecZip fp32.add) ((ps.map (·.vals)).headD []), s)
      else sumFree ps.length (ps.map (·.vals)) s
    (outVector g.outKind g.outFmt g.outShift (poolFinish g.poolOp ⟨v, n, false⟩), s)

/-- R87: stride of a stamped segment. -/
def LSeg.stride (g : LSeg) : Nat := roundUp (vecBytes g.outKind g.outFmt g.dim) 32

/-- The vectors of a LOOKUP with their offsets from the output start, and the elements saturated here. -/
def lookVectors (l : Look) (s : State) : (List (Nat × List Byte) × Nat) × State :=
  l.segs.foldl (fun (acc : (List (Nat × List Byte) × Nat) × State) g =>
    (List.range g.bags.length).foldl (fun (acc : (List (Nat × List Byte) × Nat) × State) b =>
      let (v, s) := bagVector l.exact g (g.bags.getD b ⟨0, []⟩) acc.2
      ((acc.1.1 ++ [(g.outOff + b * g.stride, v.1)], acc.1.2 + v.2), s)) acc) (([], 0), s)

/-- R88: the stream bytes of a ring output: its vectors with zeros between them. -/
def ringImage (l : Look) (outs : List (Nat × List Byte)) : List Byte :=
  let n := l.segs.foldl (fun m g => max m (g.outOff + g.bags.length * g.stride)) 0
  outs.foldl (fun im o => im.take o.1 ++ o.2 ++ im.drop (o.1 + o.2.length)) (List.replicate n 0)

/-- R92: an output that holds undefined bytes. -/
def undefOuts : List (Nat × List Byte) → State → List (Nat × List Byte) × State
  | [], s => ([], s)
  | o :: os, s =>
    let (l, s) := freeBytes o.2.length s
    let (r, s) := undefOuts os s
    ((o.1, l) :: r, s)

/-- R90: the mask's bytes. -/
def maskBytes (total : Nat) (ns : List Nat) : List Byte := leBytes ((total + 63) / 64 * 8) (maskOf ns)

/-- R90, R93: every output vector is written and then the mask. -/
def outputAcc (l : Look) (mask : List Byte) : Acc Unit := do
  if l.ring.isNone then
    l.outs.foldlM (fun (_ : Unit) o => ctxWrite (.cmd l.cmd) l.cmd.ctx (l.start + o.1) o.2) ()
  if l.mask ≠ 0 then ctxWrite (.cmd l.cmd) l.cmd.ctx l.mask mask

/-- R287: a LOOKUP lets its ring ID go. -/
def releaseRing (l : Look) (s : State) : State :=
  match l.ring with
  | some r => setRingId { ringIdOf s l.cmd.ctx r with producer := none } s
  | none => s

/-- The mask that a LOOKUP writes: with ST_FAULT its bytes are undefined (R92). -/
def lookMask (l : Look) : List Byte :=
  if l.fault.isSome then (List.range ((l.total + 63) / 64 * 8)).map fun i => BitVec.ofNat 8 (Config.undef (l.maskFree + i)).toNat
  else maskBytes l.total l.missing

/-- R91, R93, R330: the output writes are issued, and wait where a page fault holds them. -/
def lookWrite (c : Cmd) (s : State) : State :=
  match lookOf s c with
  | none => s
  | some l =>
    if !l.ending || l.written then s
    else runAcc (.cmd c) (outputAcc l (lookMask l)) (fun _ s => setLook { l with written := true } s)
      (fun f s => faultAt 0x0A 0 c f (dropLook c (releaseRing l s))) s

/-- R90, R92, R111: every bag part has ended: the outputs are made and written. -/
def lookFinish (c : Cmd) (s : State) : State :=
  match lookOf s c with
  | none => s
  | some l =>
    if l.ending then s
    else
      let bs := s.xch.batches.filter fun b => b.cmd == c && b.copyOf.isNone
      let miss := bs.flatMap fun b => ((List.range b.refs.length).filter fun j => b.state.getD j 0 == 2).flatMap fun j =>
        (b.refs[j]?.map fun r => r.nums.map fun n => (r.seg, n)).getD []
      let ((outs, sat), s) := lookVectors l s
      let (outs, s) := if l.fault.isSome then undefOuts outs s else (outs, s)
      let free := s.free
      let s := if l.fault.isSome then (s.setFree (s.free + (l.total + 63) / 64 * 8)) else s
      let s := if l.fault.isSome then s else
        miss.foldl (fun s m => evt 128 0x43 ((l.segs[m.1]?.map (·.table)).getD 0) 1 (eventCtx c) s)
          (countN Reg.XCH_CNT_MISSING miss.length s)
      let l := { l with
        ending := true
        missing := if l.fault.isSome then [] else miss.map (·.2)
        saturated := l.saturated + sat
        outs := outs
        maskFree := free }
      let s := match l.ring with
        | some r => ringGive c.ctx r l.start (ringImage l outs) s
        | none => s
      lookWrite c (setLook l s)

/-! ### The end of bag parts (R109, R111, R112) -/

/-- R92, R109: a cancel message for a batch that its holder has not covered whole. -/
def cancelBatch (b : ReqBatch) (s : State) : State :=
  if b.sent && decide (b.got.length < b.refs.length) then send b.dest (.cancel b.id) s else s

/-- A batch and its copies. -/
def holdersOf (s : State) (o : Nat) : List ReqBatch := s.xch.batches.filter fun b => b.id == o || b.copyOf == some o

/-- R524: the record of a batch's end. -/
def batchEndRecord (o : ReqBatch) (responder : Nat) (gone : Bool) (s : State) : State :=
  emit 0x08 128 o.cmd.ctx o.id (responder + b2n gone * 2 ^ 16 + b2n (o.state.contains 2) * 2 ^ 17)
    (((s.now + 2 ^ 64 - o.sentAt) % 2 ^ 64) / 256) s

/-- R109, R111: parts of an original batch have ended; with the last one the batch ends, and with the last batch the LOOKUP's output is written. -/
def partsEnded (o responder : Nat) (gone : Bool) (s : State) : State :=
  match batchOf s o with
  | none => s
  | some b =>
    if b.state.contains 0 then s
    else
      let s := batchEndRecord b responder gone s
      let s := if b.hedged && !b.state.contains 2 then (holdersOf s o).foldl (fun s h => cancelBatch h s) s else s
      let s := overlayAcks (lookPump s)
      if s.xch.batches.any fun x => x.cmd == b.cmd && x.copyOf.isNone && x.state.contains 0 then s else lookFinish b.cmd s

/-- R92: a winning row fault ends the LOOKUP at once. -/
def lookFault (c : Cmd) (code : Nat) (s : State) : State :=
  match lookOf s c with
  | none => s
  | some l =>
    if l.ending then s
    else
      let s := (s.xch.batches.filter fun b => b.cmd == c && !(openParts s b).isEmpty).foldl (fun s b => cancelBatch b s) s
      let s := s.setXch { s.xch with batches := s.xch.batches.map fun b =>
        if b.cmd == c then { b with state := b.state.map fun x => if x == 0 then 2 else x } else b }
      lookFinish c (lookPump (setLook { l with fault := some code } s))

/-! ### Bucketing (R79, R94 to R96, R113) -/

/-- Where an index goes: an owner pair, or a local Graft replica of its row. -/
inductive Dest where
  | pair (primary replica : Nat)
  | local_ (slot : List Byte)
  deriving DecidableEq, Repr

/-- A bucketed index: its number, segment, bag, value and weight, the rows it names and where it goes. -/
structure Entry where
  num : Nat
  seg : Nat
  bag : Nat
  index : Nat
  weight : Nat
  rows : Nat × Nat
  dest : Dest
  deriving DecidableEq, Repr

def overlayOf (s : State) (r : RowRef) : Option Overlay := s.tbl.overlay.find? fun x => x.row == r

/-- R94, R151, R153: where the index of a row goes. -/
def destOf (s : State) (d : List Byte) (row : Nat) : Dest :=
  match (overlayOf s ⟨tdTable d, tdEpoch d, row⟩).map Overlay.state with
  | some (OverlayState.valid l) => .local_ l
  | some (OverlayState.moved b) => .pair b 0xFFFF
  | _ => let p := ownersOf s d row; .pair p.1 p.2

/-- R151: a lookup that touches an INVALID entry sends a REP_FILL, at most one per 16 µs. -/
def repFill (d : List Byte) (row : Nat) (s : State) : State :=
  let r : RowRef := ⟨tdTable d, tdEpoch d, row⟩
  match overlayOf s r with
  | some x =>
    let late := match x.lastFill with
      | some t => decide (16 * usUnits ≤ (s.now + 2 ^ 64 - t) % 2 ^ 64)
      | none => true
    if x.state == .invalid && late then
      send (ownersOf s d row).1 (.repFill r) (s.setTbl { s.tbl with
        overlay := updFirst (fun y => y.row == r) (fun y => { y with state := .filling, lastFill := some s.now }) s.tbl.overlay })
    else s
  | none => s

/-- The bag of each index of a segment. -/
def bagNumbers (lens : List Nat) : List Nat := ((List.range lens.length).map fun b => List.replicate (lens.getD b 0) b).flatten

/-- R78, R79: the valid indices of a segment, numbered from `n0`. -/
def segEntries (s : State) (si n0 : Nat) (g : SegIn) (d : List Byte) : List Entry :=
  let bs := bagNumbers g.lens
  (List.range g.idx.length).filterMap fun i =>
    let x := g.idx.getD i 0
    (rowOf d (partnerRows s d) x).map fun r =>
      { num := n0 + i, seg := si, bag := bs.getD i 0, index := x, weight := g.wts.getD i 0, rows := r, dest := destOf s d r.1 }

/-- R94, R113: entries of one owner pair cut at every batch_max indices. -/
def cutBatches : Nat → Nat → List Entry → List (List Entry)
  | 0, _, _ => []
  | n + 1, k, l => if l.isEmpty then [] else l.take k :: cutBatches n k (l.drop k)

/-- R96: the bag parts of a batch: runs of one bag. -/
def bagRuns : List Entry → List (List Entry)
  | [] => []
  | e :: es =>
    match bagRuns es with
    | (f :: r) :: rest => if e.seg == f.seg && e.bag == f.bag then (e :: f :: r) :: rest else [e] :: (f :: r) :: rest
    | other => [e] :: other

/-- R97: segment blocks of a batch from its bag parts, in order. -/
def segBlocks (segs : List LSeg) (ones : List Bool) (l : List (List Entry)) : List SegBlock :=
  ((l.map fun p => (p.headD ⟨0, 0, 0, 0, 0, (0, 0), .pair 0 0⟩).seg).eraseDups).map fun si =>
    let ps := l.filter fun p => (p.headD ⟨0, 0, 0, 0, 0, (0, 0), .pair 0 0⟩).seg == si
    let g := segs.getD si ⟨0, 0, 0, 0, 0, 0, 0, 0, []⟩
    { table := g.table, epoch := g.epoch, poolOp := g.poolOp, onePerBag := ones.getD si false, outFmt := g.outFmt, outKind := g.outKind,
      outShift := g.outShift,
      parts := ps.map fun p => (p.length, decide (p.length < (g.bags.getD (p.headD ⟨0, 0, 0, 0, 0, (0, 0), .pair 0 0⟩).bag ⟨0, []⟩).len)),
      indices := ps.flatten.map (·.index), weights := if g.poolOp = 3 then ps.flatten.map (·.weight) else [] }

/-- R94, R97: a batch of a LOOKUP is formed. It is due when it is full, or when no free window applies to it. -/
def formBatch (l : Look) (ones : List Bool) (p : Nat × Nat) (es : List Entry) (s : State) : State :=
  let (id, s) := freshBatch s
  let cfg := regGet s Reg.XCH_CFG
  let rs := bagRuns es
  let m : BatchMsg := { requester := ownId s, id := id, deadline := l.deadline, exact := l.exact, segs := segBlocks l.segs ones rs }
  let b : ReqBatch :=
    { id := id, cmd := l.cmd, primary := p.1, replica := p.2, dest := p.1, msg := m,
      refs := rs.map fun r => ⟨(r.headD ⟨0, 0, 0, 0, 0, (0, 0), .pair 0 0⟩).seg, (r.headD ⟨0, 0, 0, 0, 0, (0, 0), .pair 0 0⟩).bag, r.map (·.num)⟩,
      state := rs.map fun _ => 0, due := l.exact || bits cfg 27 16 == 0 || decide (bits cfg 15 0 ≤ es.length) }
  s.setXch { s.xch with batches := s.xch.batches ++ [b] }

/-- An answer is kept for a bag of a LOOKUP. -/
def Look.answer (l : Look) (seg bag : Nat) (a : BagAns) : Look :=
  { l with segs := (List.range l.segs.length).map fun i =>
      let g := l.segs.getD i ⟨0, 0, 0, 0, 0, 0, 0, 0, []⟩
      if i = seg then { g with bags := (List.range g.bags.length).map fun j =>
        let b := g.bags.getD j ⟨0, []⟩
        if j = bag then { b with answers := b.answers ++ [a] } else b } else g }

/-- R96, R151: the part of a bag that lies in local Graft replicas is pooled here. -/
def localPart (c : Cmd) (ds : List (List Byte)) (es : List Entry) (s : State) : State :=
  match es, lookOf s c with
  | e :: _, some l =>
    let g := l.segs.getD e.seg ⟨0, 0, 0, 0, 0, 0, 0, 0, []⟩
    let d := ds.getD e.seg []
    let slots := es.map fun e => ((⟨tdTable d, tdEpoch d, e.rows.1⟩ : RowRef), match e.dest with | .local_ l => l | .pair .. => [])
    let (vs, s) := es.foldl (fun (acc : List (Except Flt (List Fx)) × State) e =>
      let x := decodeRow (tdFormat d) (tdDim d) (((slots.find? fun p => p.1.row == e.rows.1).map (·.2)).getD [])
      if !tdComposed d then (acc.1 ++ [x], acc.2)
      else match currentDesc acc.2 (tdPartner d) with
        | none => (acc.1 ++ [.error .illegal], acc.2)
        | some p =>
          let (y, s) := rowRead p e.rows.2 acc.2
          (acc.1 ++ [x.bind fun x => y.map fun y => vecZip (if tdMul d then fp32.mul else fp32.add) x y], s)) ([], s)
    match vs.findSome? fun v => match v with | .error f => some f | .ok _ => none with
    | some f => lookFault c f.code s
    | none =>
      let rows := vs.filterMap fun v => v.toOption
      let (p, s) := poolRows g.poolOp l.exact g.dim rows (es.map fun e => bf16.decode e.weight) s
      let split := decide (es.length < (g.bags.getD e.bag ⟨0, []⟩).len)
      let (data, n) := if split then (partialBytes g.poolOp p, 0) else outVector g.outKind g.outFmt g.outShift (poolFinish g.poolOp p)
      setLook { l.answer e.seg e.bag ⟨ownId s, e.num, data, !split⟩ with saturated := l.saturated + n } s
  | _, _ => s

/-- R94 to R96: the indices of a LOOKUP are bucketed and its batches formed. -/
def bucket (c : Cmd) (gs : List SegIn) (ds : List (List Byte)) (s : State) : State :=
  match lookOf s c with
  | none => s
  | some l =>
    let n0s := gs.foldl (fun (acc : List Nat × Nat) g => (acc.1 ++ [acc.2], acc.2 + g.idx.length)) ([], 0)
    let es := (List.range gs.length).flatMap fun i => segEntries s i (n0s.1.getD i 0) (gs.getD i ⟨[], [], [], []⟩) (ds.getD i [])
    let s := countN Reg.XCH_CNT_BAD_INDEX (l.total - es.length) (countN Reg.XCH_CNT_INDICES es.length s)
    let s := if s.tbl.overlay.isEmpty then s else es.foldl (fun s e => repFill (ds.getD e.seg []) e.rows.1 s) s
    let pairs := (es.filterMap fun e => match e.dest with | .pair p r => some (p, r) | .local_ _ => none).eraseDups
    let ones := gs.map fun g => sgOne g.desc
    let k := bits (regGet s Reg.XCH_CFG) 15 0
    let s := pairs.foldl (fun s p =>
      let mine := es.filter fun e => e.dest == .pair p.1 p.2
      (cutBatches mine.length k mine).foldl (fun s b => formBatch l ones p b s) s) s
    let loc := bagRuns (es.filter fun e => match e.dest with | .local_ _ => true | .pair .. => false)
    loc.foldl (fun s r => localPart c ds r s) s

/-! ### LOOKUP (R84, R89, R91, R120, R287) -/

/-- R120: the LOOKUP starts: its epochs are stamped, its deadline is fixed and its indices are bucketed. -/
def lookStart (c : Cmd) (gs : List SegIn) (s : State) : State :=
  let ds := gs.map fun g => (currentDesc s (sgTable g.desc)).getD []
  let segs := (List.range gs.length).map fun i =>
    let g := gs.getD i ⟨[], [], [], []⟩
    let d := ds.getD i []
    ({ table := sgTable g.desc, epoch := tdEpoch d, poolOp := sgOp g.desc, outFmt := sgFmt g.desc, outKind := sgKind g.desc,
       outShift := sgShift g.desc, dim := tdDim d, outOff := sgOut g.desc, bags := g.lens.map fun n => ⟨n, []⟩ } : LSeg)
  let l : Look :=
    { cmd := c, deadline := (s.now + lkDeadline s c * 256) % 2 ^ 64, hedge := lkHedge c, exact := ctxExact s c.ctx, ring := lkRing c,
      start := match lkRing c with | some r => (ringIdOf s c.ctx r).next | none => par c 3,
      mask := par c 4, total := (gs.map fun g => g.idx.length).foldl (· + ·) 0, segs := segs }
  let s := match lkRing c with | some r => ringClaim c.ctx r (.cmd c) s | none => s
  let s := count Reg.XCH_CNT_LOOKUPS (s.setXch { s.xch with looks := s.xch.looks ++ [l] })
  let s := lookPump (bucket c gs ds s)
  if s.xch.batches.any fun b => b.cmd == c && b.state.contains 0 then s else lookFinish c s

/-- R89, R287: LOOKUP with its block read. -/
def lookWith (c : Cmd) (r : Option (List SegIn)) (s : State) : State :=
  match r with
  | none => badPacket c 0 s
  | some gs =>
    let s := (gs.map fun g => sgTable g.desc).eraseDups.foldl (fun s t => dirRead [c] t s) s
    if s.hl.loss.isSome then s
    else
      let free := match lkRing c with | some r => ringIdFree s c.ctx r (.cmd c) | none => true
      if free then lookStart c gs s else s.setXch { s.xch with looks := s.xch.looks ++ [{ cmd := c, waitsRing := true }] }

/-- R84: LOOKUP. -/
def lookup (c : Cmd) (s : State) : State :=
  let s := startCmd c s
  if (lookOf s c).isSome then lookWrite c s
  else if lkParamsBad s c then badPacket c 0 s
  else runAcc (.cmd c) (blockRead c) (lookWith c) (faultAt 0x0A 0 c) s

def execLookup (c : Cmd) (s : State) : Host.Outcome State Fault Refusal := whileOn (lookup c) s

/-- R287: the ring ID that a LOOKUP waits for is free. -/
def lookRingStart (c : Cmd) (s : State) : State :=
  match lookOf s c, lkRing c with
  | some l, some r => if l.waitsRing && ringIdFree s c.ctx r (.cmd c) then lookup c (dropLook c s) else s
  | _, _ => s

def execLookupRingStart (c : Cmd) (s : State) : Host.Outcome State Fault Refusal := whileOn (lookRingStart c) s

/-- R94: the free window of a batch has elapsed. -/
def freeWindow (id : Nat) (s : State) : State :=
  match batchOf s id with
  | none => s
  | some b =>
    if b.due then s
    else
      let s := lookPump (updBatchOf id (fun b => { b with due := true }) s)
      match batchOf s id with
      | some b => if b.state.contains 0 then s else partsEnded id (ownId s) false s
      | none => s

def execBatchFreeWindowExpire (id : Nat) (s : State) : Host.Outcome State Fault Refusal := whileOn (freeWindow id) s

/-! ### Fragments (R98, R107, R109, R122) -/

/-- R109: one bag part of a fragment: counts of parts won and of parts already answered. -/
def fragPart (h : ReqBatch) (m : FragMsg) (i : Nat) (acc : (Nat × Nat) × State) : (Nat × Nat) × State :=
  let s := acc.2
  let j := m.firstPart + i
  let o := origOf s h
  let p := h.origPart j
  match h.refs[j]? with
  | none => acc
  | some r =>
    let s := updBatchOf h.id (fun b => { b with got := if b.got.contains j then b.got else b.got ++ [j] }) s
    if o.state.getD p 2 == 1 then ((acc.1.1, acc.1.2 + 1), s)
    else if o.state.getD p 2 == 2 then (acc.1, s)
    else
      let s := updBatchOf o.id (fun b => { b with state := b.state.set p 1 }) s
      let s := match lookOf s h.cmd with
        | some l =>
          let g := l.segs.getD r.seg ⟨0, 0, 0, 0, 0, 0, 0, 0, []⟩
          let whole := decide ((g.bags.getD r.bag ⟨0, []⟩).len ≤ r.nums.length)
          let n := if whole then vecBytes g.outKind g.outFmt g.dim else partialSize g.poolOp g.dim
          if m.fault then s
          else setLook (l.answer r.seg r.bag ⟨m.responder, r.nums.headD 0, padTo n (m.results.getD i []), whole⟩) s
        | none => s
      ((acc.1.1 + 1, acc.1.2), s)

/-- R91, R92, R98, R107, R109: a fragment reaches the requester. -/
def fragArrives (m : FragMsg) (s : State) : State :=
  match batchOf s m.batch with
  | none => count Reg.XCH_CNT_LATE_DISCARD s
  | some h =>
    if batchLate s h.msg then count Reg.XCH_CNT_LATE_DISCARD s
    else
      let ((won, dup), s) := (List.range m.results.length).foldl (fun acc i => fragPart h m i acc) ((0, 0), s)
      if won = 0 then (if dup = 0 then s else count Reg.XCH_CNT_DUP_DISCARD s)
      else
        let s := if h.msg.hedge then countN Reg.XCH_CNT_HEDGE_WINS won s else s
        let s := evt 128 0x41 ((s.now + 2 ^ 64 - h.sentAt) % 2 ^ 64) won (eventCtx h.cmd) s
        let s := match lookOf s h.cmd with
          | some l => setLook { l with saturated := l.saturated + m.saturated } s
          | none => s
        let s := if m.fault then lookFault h.cmd (if m.faultCode = 0 then Flt.illegal.code else m.faultCode) s else s
        partsEnded (origOf s h).id m.responder false s

def execFragment (h : Hdr) (m : FragMsg) (s : State) : Host.Outcome State Fault Refusal :=
  .next (deliver h (.fragment m) (fragArrives m) s)

/-- R122: an EPOCH_GONE notice finalises every unanswered part of its batch as missing. -/
def goneArrives (id responder : Nat) (s : State) : State :=
  match batchOf s id with
  | none => s
  | some b =>
    if batchLate s b.msg then s
    else
      let o := origOf s b
      if !o.state.contains 0 then s
      else
        let s := missParts o.id ((List.range b.refs.length).map b.origPart) (updBatchOf o.id (fun x => { x with redirected := true }) s)
        partsEnded o.id responder true s

def execEpochGone (h : Hdr) (id responder : Nat) (s : State) : Host.Outcome State Fault Refusal :=
  .next (deliver h (.epochGone id responder) (goneArrives id responder) s)

/-! ### Hedges (R108, R110, R462) -/

/-- R97, R108: the segment blocks of a batch reduced to some of its bag parts. -/
def reduceSegs : Nat → List Nat → List SegBlock → List SegBlock
  | _, _, [] => []
  | n0, ps, g :: gs =>
    let parts := segParts g
    let keep := (List.range parts.length).filter fun j => ps.contains (n0 + j)
    let xs := keep.flatMap fun j => (parts.getD j (false, [])).2
    (if keep.isEmpty then [] else [{ g with
      parts := keep.map fun j => ((parts.getD j (false, [])).2.length, (parts.getD j (false, [])).1)
      indices := xs.map (·.1)
      weights := if g.weights.isEmpty then [] else xs.map (·.2) }]) ++ reduceSegs (n0 + parts.length) ps gs

/-- R108, R462: a copy of a batch's unanswered parts goes to a device as a batch of its own. -/
def copyBatch (b : ReqBatch) (dest : Nat) (hedge : Bool) (s : State) : State :=
  let (id, s) := freshBatch s
  let ps := (List.range b.refs.length).filter fun j => b.state.getD j 0 == 0
  let m := { b.msg with id := id, hedge := hedge, segs := reduceSegs 0 ps b.msg.segs }
  let x : ReqBatch :=
    { id := id, cmd := b.cmd, primary := b.primary, replica := b.replica, dest := dest, msg := m,
      refs := ps.filterMap fun j => b.refs[j]?, due := true, copyOf := some b.id, partMap := ps }
  shipBatch id (s.setXch { s.xch with batches := s.xch.batches ++ [x] })

/-- R110: the hedge copies sent during the last 1,024 batches. -/
def hedgesSent (s : State) : Nat := s.xch.window.foldl (· + ·) 0

/-- R108, R110: the hedge delay of a batch has passed. -/
def hedgeDelay (id : Nat) (s : State) : State :=
  match batchOf s id with
  | none => s
  | some b =>
    match lookOf s b.cmd with
    | none => s
    | some l =>
      let s := reachTime ((b.sentAt + l.hedge * 256) % 2 ^ 64) s
      if !b.sent || b.copyOf.isSome || l.hedge = 0 || l.exact || b.hedged || b.redirected || b.replica = 0xFFFF ||
          !servesAsOwner s b.replica || !b.state.contains 0 then s
      else if bits (regGet s Reg.XCH_HEDGE_CFG) 15 0 ≤ hedgesSent s then count Reg.XCH_CNT_HEDGE_SUPPRESSED s
      else
        let w := match s.xch.window with
          | x :: xs => (x + 1) :: xs
          | [] => []
        let s := count Reg.XCH_CNT_HEDGES (s.setXch { s.xch with window := w })
        let s := setLook { l with hedged := l.hedged + 1 } (updBatchOf id (fun b => { b with hedged := true }) s)
        copyBatch b b.replica true s

def execHedgeDelayExpire (id : Nat) (s : State) : Host.Outcome State Fault Refusal := whileOn (hedgeDelay id) s

/-- R462: a device goes DOWN or begins RESTORING: its unanswered batches go to their replica, or their parts are missing. -/
def lookDown (dev : Nat) (s : State) : State :=
  let hit := s.xch.batches.filter fun b => b.copyOf.isNone && b.state.contains 0 && (b.primary == dev || b.replica == dev)
  hit.foldl (fun s b =>
    if b.replica == dev then
      let s := updBatchOf b.id (fun x => { x with replica := 0xFFFF }) s
      if b.sent && b.redirected then partsEnded b.id dev false (missParts b.id (List.range b.refs.length) s) else s
    else if !b.sent || b.redirected then s
    else
      let s := updBatchOf b.id (fun x => { x with redirected := true }) s
      if b.replica != 0xFFFF && servesAsOwner s b.replica then
        if (holdersOf s b.id).any fun x => x.dest == b.replica then s else copyBatch b b.replica false s
      else partsEnded b.id dev false (missParts b.id (List.range b.refs.length) s)) s

/-! ### The deadline and the completion (R91, R93, R111) -/

/-- R111: the deadline of a LOOKUP: unanswered parts are missing, and its batches are forgotten. -/
def lookDeadline (c : Cmd) (s : State) : State :=
  let mine := s.xch.batches.filter fun b => b.cmd == c
  let s := match lookOf s c, mine with
    | some l, _ => if l.waitsRing then s else reachTime l.deadline s
    | none, b :: _ => reachTime b.msg.deadline s
    | none, [] => s
  let ended := mine.filter fun b => b.copyOf.isNone && b.state.contains 0
  let close := fun (b : ReqBatch) => if b.cmd == c then { b with state := b.state.map fun x => if x == 0 then 2 else x } else b
  let s := s.setXch { s.xch with batches := s.xch.batches.map close }
  let s := ended.foldl (fun s b => batchEndRecord { b with state := [2] } b.dest false s) s
  let s := match lookOf s c with
    | some l => if l.waitsRing then s else lookFinish c s
    | none => s
  overlayAcks (lookPump (s.setXch { s.xch with batches := s.xch.batches.filter fun b => b.cmd != c }))

def execLookupDeadline (c : Cmd) (s : State) : Host.Outcome State Fault Refusal := whileOn (lookDeadline c) s

/-- R91: the result word. -/
def lookResult (l : Look) : Nat := l.missing.length + min l.hedged 0xFFFF * 2 ^ 32 + min l.saturated 0xFFFF * 2 ^ 48

/-- R91, R93, R287: the outputs have arrived and the LOOKUP completes. -/
def lookDone (c : Cmd) (s : State) : State :=
  match lookOf s c with
  | none => s
  | some l =>
    let held := match l.ring with
      | some r => !(ringIdOf s c.ctx r).held.isEmpty
      | none => false
    if !l.written || held then s
    else
      let s := dropLook c (releaseRing l s)
      match l.fault.bind Flt.ofCode with
      | some f => faultAt 0x0A 0 c f s
      | none =>
        complete c (if l.missing.isEmpty then stOk else stPartial) 0 (lookResult l) (countN Reg.XCH_CNT_SATURATE l.saturated s)

def execLookupOutputWritten (c : Cmd) (s : State) : Host.Outcome State Fault Refusal := whileOn (lookDone c) s

end Sys2Proof.Machine
end

