-- ==== Sys2Proof/Machine/Updates.lean ====
section
/-!
DEFINITION. UPDATE_ROWS on the requester and on the owner (R137 to R145), and INVALIDATE (R144, R151).
-/

namespace Sys2Proof.Machine

/-! ### Updates of the lists -/

def updUpds (c : Cmd) (f : UpdOp → UpdOp) (s : State) : State :=
  s.setTbl { s.tbl with upds := updWhere (fun u => u.cmd == c) f s.tbl.upds }
def updMigs (r : RowRef) (f : Mig → Mig) (s : State) : State :=
  s.setTbl { s.tbl with migs := updWhere (fun x => x.row == r) f s.tbl.migs }

/-! ### The requester (R137 to R139) -/

def updInline (c : Cmd) : Bool := bit (par c 0) 33
def updWidth (c : Cmd) : Nat := if bit (par c 0) 37 then 4 else 2

/-- R137, R138: reserved values of the parameters. -/
def updParamsBad (c : Cmd) : Bool :=
  bits (par c 0) 63 40 != 0 || bit (par c 0) 35 || bit (par c 0) 39 || bits (par c 1) 63 32 != 0 || bits (par c 2) 63 48 != 0 ||
  par c 1 == 0 || decide (65536 < par c 1)

/-- R139: the descriptor that buckets the rows: the stamped epoch's where it is held, else the CURRENT one. -/
def updDesc (s : State) (t e : Nat) : Option (List Byte) :=
  match heldDesc s t e fun st => st != .empty with
  | some d => if (currentSlot s t).isSome then some d else none
  | none => currentDesc s t

/-- R137: the rows and the deltas, or none where the inline data is too short. -/
def updRead (c : Cmd) (d : List Byte) : Acc (Option (List Nat × List Byte)) := do
  let n := par c 1
  let k := n * tdDim d * updWidth c
  let rows := fun l => (List.range n).map fun i => leAt l (8 * i) 8
  if updInline c then pure (if c.data.length < 8 * n + k then none else some (rows c.data, slice (8 * n) k c.data))
  else do
    let a ← ctxRead (.cmd c) c.ctx (par c 3) (8 * n)
    let b ← ctxRead (.cmd c) c.ctx (par c 4) k
    pure (some (rows a, b))

/-- R139, R145: the devices that a row's update goes to and whether each counts; none when no owner is live. -/
def updDests (s : State) (p : Nat × Nat) : List (Nat × Bool) :=
  let live := [p.1, p.2].filter fun d => d != 0xFFFF && !isDown s d
  match live with
  | [] => []
  | d :: ds => (d, true) :: (ds.filter fun x => x != d).map fun x => (x, false)

/-- R139: the owner pair of a row under the overlay. -/
def updPair (s : State) (d : List Byte) (e row : Nat) : Nat × Nat :=
  match (overlayOf s ⟨tdTable d, e, row⟩).map Overlay.state with
  | some (OverlayState.moved b) => (b, 0xFFFF)
  | _ => ownersOf s d row

/-- Rows cut so that a batch fits a message (R445). -/
def cutRows : Nat → Nat → List Nat → List (List Nat)
  | 0, _, _ => []
  | k + 1, n, l => if l.length ≤ n then [l] else l.take n :: cutRows k n (l.drop n)

/-- R139, R473: an update batch is sent, or held while its owner pair holds an ID that is RESTORING. -/
def updShip (c : Cmd) (b : UpdSent) (s : State) : State :=
  let wait := isRestoring s b.pair.1 || isRestoring s b.pair.2
  let s := updUpds c (fun u => if wait then { u with held := u.held ++ [b] } else { u with sent := u.sent ++ [b] }) s
  if wait then s else send b.dst (.updBatch b.msg) s

/-- R139: the batches of one owner pair and device. -/
def updBatches (c : Cmd) (m : UpdMsg) (d : List Byte) (rows : List Nat) (pairs : List (Nat × Nat)) (deltas : List Byte)
    (p : Nat × Nat) (s : State) : State :=
  let k := tdDim d * updWidth c
  let mine := (List.range rows.length).filter fun i => pairs.getD i (0, 0) == p
  match updDests s p with
  | [] => updUpds c (fun u => { u with unreachable := true }) s
  | ds =>
    ds.foldl (fun s x =>
      (cutRows mine.length ((2 ^ 20 - 40) / (8 + k)) mine).foldl (fun s is =>
        let m := { m with
          id := s.tbl.nextUpd
          rows := is.map fun i => rows.getD i 0
          deltas := (is.map fun i => slice (i * k) k deltas).flatten }
        updShip c { dst := x.1, pair := p, msg := m, counts := x.2 }
          (s.setTbl { s.tbl with nextUpd := (s.tbl.nextUpd + 1) % 2 ^ 32 })) s) s

/-- R145: the completion of an UPDATE_ROWS once every batch has been answered or has failed. -/
def updFinish (c : Cmd) (s : State) : State :=
  match s.tbl.upds.find? fun u => u.cmd == c with
  | none => s
  | some u =>
    if !u.sent.isEmpty || !u.held.isEmpty then s
    else
      let r := u.applied + min 0xFFFF u.refits * 2 ^ 32 + min 0xFFFF u.sats * 2 ^ 48
      let s := s.setTbl { s.tbl with upds := s.tbl.upds.filter fun x => x.cmd != c }
      match u.rowFault.bind Flt.ofCode with
      | some f => faultWith 0x0A 0 r c f s
      | none =>
        if u.unreachable then faultWith 0x0A 0 r c .fabric s
        else complete c (if u.gone then stEpochGone else stOk) 0 r s

/-- R138 to R140: UPDATE_ROWS with its rows and deltas read. -/
def updWith (c : Cmd) (e : Nat) (d : List Byte) (r : Option (List Nat × List Byte)) (s : State) : State :=
  match r with
  | none => badPacket c 0 s
  | some (rows, deltas) =>
    if rows.any fun x => decide (tdRows d ≤ x) then badPacket c 0 s
    else
      let (n, s) := drawFree s
      let m : UpdMsg :=
        { table := tdTable d, epoch := e, id := 0, op := bits (par c 0) 35 34, refit := bit (par c 0) 36, dfmt := bits (par c 0) 37 37,
          rnd := bits (par c 0) 39 38, updateId := bits (par c 2) 47 0, entropy := if tdExact d then 0 else (Config.entropy n).toNat,
          rows := [], deltas := [] }
      let pairs := rows.map (updPair s d e)
      let s := s.setTbl { s.tbl with upds := s.tbl.upds ++ [{ cmd := c, table := tdTable d, epoch := e }] }
      updFinish c (pairs.eraseDups.foldl (fun s p => updBatches c m d rows pairs deltas p s) s)

/-- R137: UPDATE_ROWS. -/
def updateRows (c : Cmd) (s : State) : State :=
  let s := startCmd c s
  let t := bits (par c 0) 15 0
  if s.tbl.upds.any fun u => u.cmd == c then s
  else if updParamsBad c then badPacket c 0 s
  else
    let s := dirRead [c] t s
    if s.hl.loss.isSome then s
    else
      let e := if bit (par c 0) 32 then ((currentDesc s t).map tdEpoch).getD 0 else bits (par c 0) 31 16
      match updDesc s t e with
      | none => badPacket c 0 s
      | some d => runAcc (.cmd c) (updRead c d) (updWith c e d) (faultAt 0x0A 0 c) s

def execUpdateRows (c : Cmd) (s : State) : Host.Outcome State Fault Refusal := whileOn (updateRows c) s

/-- The UPDATE_ROWS that waits for a batch of an owner. -/
def updOpOf (s : State) (dev id : Nat) : Option UpdOp := s.tbl.upds.find? fun u => u.sent.any fun b => b.dst == dev && b.msg.id == id

/-- R473: an update batch that was sent to an owner pair which holds an ID is unanswered. -/
def updsOpen (s : State) (d : Nat) : Bool := s.tbl.upds.any fun u => u.sent.any fun b => b.pair.1 == d || b.pair.2 == d

/-- R473: RESTORE_ACK goes to the manager once every earlier batch for the ID has been answered or has failed. -/
def restoreAcks (s : State) : State :=
  (s.fab.restoreOwe.filter fun d => !updsOpen s d).foldl (fun s d =>
    send s.fab.mgrId (.restoreAck d) (s.setFab { s.fab with restoreOwe := s.fab.restoreOwe.filter fun x => x != d })) s

/-- An UPDATE_ROWS has a batch less to wait for. -/
def updEnded (u : UpdOp) (dev id : Nat) (s : State) : State :=
  let u := { u with sent := u.sent.filter fun b => !(b.dst == dev && b.msg.id == id) }
  restoreAcks (overlayAcks (updFinish u.cmd (updUpds u.cmd (fun _ => u) s)))

/-- R145, R154: UPD_ACK: one of a forwarded update is relayed; one of this device's own batch is entered in its command. -/
def ackOwn (src : Nat) (m : UpdAckMsg) (s : State) : State :=
  match updOpOf s src m.id with
  | none => s
  | some u =>
    let counts := u.sent.any fun b => b.dst == src && b.msg.id == m.id && b.counts
    let u := { u with
      applied := if counts then u.applied + m.applied else u.applied
      refits := if counts then u.refits + m.refits else u.refits
      sats := if counts then u.sats + m.saturations else u.sats
      gone := u.gone || m.status == 1
      rowFault := if u.rowFault.isNone && m.status == 2 then some m.fault else u.rowFault }
    updEnded u src m.id s

/-- R145, R450, R462: an owner does not answer a batch. -/
def updLost (dst id : Nat) (s : State) : State :=
  match updOpOf s dst id with
  | none => s
  | some u => updEnded { u with unreachable := true } dst id s

/-- R473 step 5: held batches go out once their ID serves as owner again; those of an ID that is DOWN are not sent,
and the other owner of the pair then counts. -/
def updRelease (s : State) : State :=
  let s := s.tbl.upds.foldl (fun s u =>
    let s := updUpds u.cmd (fun x => { x with held := [] }) s
    u.held.foldl (fun s b =>
      let twin := u.held.any fun x => x.pair == b.pair && x.dst != b.dst && x.msg.rows == b.msg.rows && !isDown s x.dst
      if !isDown s b.dst then
        let lone := u.held.any fun x => x.pair == b.pair && x.dst != b.dst && x.counts && isDown s x.dst
        updShip u.cmd { b with counts := b.counts || lone } s
      else if twin then s
      else updUpds u.cmd (fun x => { x with unreachable := true }) s) s) s
  (s.tbl.upds.map (·.cmd)).foldl (fun s c => updFinish c s) s

/-! ### A row's update (R59, R68 to R72, R141) -/

/-- R141: fit: the smallest shift that brings every element into range; none when it fails. -/
def fitShift (f : Fmt) (y : List Fx) : Option Int :=
  let kmax : Int := if f == .uint4 || f == .uint4e then 15 else f.kmax
  let ds := (y.filter fun x => x != .nan)
  if ds.any fun x => match x with | .inf _ => true | _ => false then none
  else ((List.range 128).map fun (i : Nat) => (i : Int) - 64).find? fun s =>
    ds.all fun x => (x.dyad.scale (-(f.unitExp s))).abs.le (Dyad.ofInt kmax)

/-- R70: the conversion of every element, with the draws of R72. -/
def rowConvert (f : Fmt) (mode : RMode) (sigma n0 : Nat) (sh : Int) (y : List Fx) : List Conv :=
  (List.range y.length).map fun j => convert (y.getD j .nan) f sh mode (draw sigma (n0 + j))

/-- R62: escape entries of converted elements. -/
def rowEscapes (cs : List Conv) : List Nat :=
  (List.range cs.length).filterMap fun j => ((cs[j]?).bind (·.side)).map fun v => v + j * 2 ^ 16

/-- The result of a row's update: its slot, whether its shift was refitted, and its saturated elements. -/
structure RowUpd where
  slot : List Byte
  refit : Bool := false
  sats : Nat := 0
  deriving DecidableEq, Repr

/-- R141: a row from converted elements, unless the escapes exceed the slot's capacity. -/
def rowBuild (f : Fmt) (d md : Nat) (sh : Int) (refit : Bool) (cs : List Conv) : Option RowUpd :=
  let es := rowEscapes cs
  if rowEscCap f.width d < es.length then none
  else some
    { slot := buildSlot f d (cs.map (·.code)) (unsext sh 7 + es.length * 2 ^ 16 + bits md 63 21 * 2 ^ 21) es, refit := refit,
      sats := (cs.filter (·.sat)).length }

/-- R141: every element is the same finite number. -/
def allSame (y : List Fx) : Option Dyad :=
  match y with
  | .fin n m e :: _ => if y.all fun x => match x with | .fin .. => x.dyad.eqv (Fx.fin n m e).dyad | _ => false then some (Fx.fin n m e).dyad else none
  | _ => none

/-- R141: a refitted row. -/
def rowRefit (f : Fmt) (mode : RMode) (sigma n0 d md : Nat) (y : List Fx) : Except Flt RowUpd :=
  match fitShift f y with
  | none => .error .illegal
  | some sh => match rowBuild f d md sh true (rowConvert f mode sigma n0 sh y) with
    | some r => .ok r
    | none => .error .illegal

/-- R141, R142: update_row of a slot. -/
def updateRow (f : Fmt) (d : Nat) (op : Nat) (refit : Bool) (mode : RMode) (sigma n0 : Nat) (delta : List Fx) (slot : List Byte) :
    Except Flt RowUpd :=
  match decodeRow f d slot with
  | .error e => .error e
  | .ok x =>
    let md := rowMeta f.width d slot
    let y := if op = 1 then delta else vecZip fp32.add x delta
    match allSame y with
    | some v => match encodeConst v with
      | none => .error .illegal
      | some (m, sh) =>
        .ok { slot := buildSlot f d (List.replicate d 0) (unsext sh 7 + 2 ^ 7 + unsext m 8 * 2 ^ 8 + bits md 63 21 * 2 ^ 21) [] }
    | none =>
      if refit || entConst md then rowRefit f mode sigma n0 d md y
      else match rowBuild f d md (entShift md) false (rowConvert f mode sigma n0 (entShift md) y) with
        | some r => .ok r
        | none => rowRefit f mode sigma n0 d md y

/-! ### The owner (R121, R141 to R144, R154) -/

/-- Element `j` of row `i` of a batch's deltas. -/
def updDelta (m : UpdMsg) (d i : Nat) : List Fx :=
  let w := if m.dfmt = 1 then 4 else 2
  (List.range d).map fun j => (if m.dfmt = 1 then fp32 else bf16).decode (leAt m.deltas ((i * d + j) * w) w)

/-- R72, R140: the seed input of a batch. -/
def updSigma (s : State) (desc : List Byte) (m : UpdMsg) : Nat :=
  let x := rndSeed s m.table ^^^ (m.epoch * 2 ^ 48) ^^^ m.updateId
  if tdExact desc then x else x ^^^ m.entropy

/-- Row `i` of a batch applied to a slot's bytes. -/
def updApply (s : State) (desc : List Byte) (m : UpdMsg) (i : Nat) (slot : List Byte) : Except Flt RowUpd :=
  let d := tdDim desc
  updateRow (tdFormat desc) d m.op m.refit ((RMode.ofCode m.rnd).getD .nearest) (updSigma s desc m) (m.rows.getD i 0 * d)
    (updDelta m d i) slot

/-- R143, R144, R151: the slot is written and the row's replica holders are told; the holders to wait for. -/
def updHolders (r : RowRef) (s : State) : List (Nat × Nat) × State :=
  match s.tbl.holders.find? fun h => h.row == r with
  | none => ([], s)
  | some h =>
    let ds := h.devs.filter fun d => !isDown s d
    (ds.map fun d => (r.row, d), ds.foldl (fun s d => send d (.invalidate r) (count Reg.TBL_CNT_INVALIDATE s)) s)

/-- The row is updated where it lies: in a migration area, or in this device's slot. -/
def updLocal (desc : List Byte) (m : UpdMsg) (i : Nat) (s : State) : Except Flt RowUpd × State :=
  let r : RowRef := ⟨m.table, m.epoch, m.rows.getD i 0⟩
  match (migOf s r).map Mig.state with
  | some (MigState.owner l) =>
    match updApply s desc m i l with
    | .ok u => (.ok u, updMigs r (fun x => { x with state := .owner u.slot }) s)
    | .error e => (.error e, s)
  | some .receiving => (.error .illegal, s)
  | _ =>
    match rowSlotAt s desc r.row with
    | none => (.error .illegal, s)
    | some a =>
      if !populatedRange a (tdSlot desc) then (.error .illegal, s)
      else
        let (bad, s) := meetErrors a (tdSlot desc) (slotEvents 0x90 a (tdSlot desc) s)
        let s := sketchCount (channelOf a) m.table m.epoch r.row s
        if bad then (.error .ecc, s)
        else match updApply s desc m i (memRead s a (tdSlot desc)) with
          | .ok u => (.ok u, slotEvents 0x91 a (tdSlot desc) (canInvalidate a (memWrite a u.slot s)))
          | .error e => (.error e, s)

/-- R142, R144: one row of a batch is applied and its outcome entered in the acknowledgement. -/
def updRow (desc : List Byte) (m : UpdMsg) (i : Nat) (v : UpdServe) (s : State) : UpdServe × State :=
  let (r, s) := updLocal desc m i s
  match r with
  | .error f =>
    let a := v.ack
    let s := rowFault m.table (m.rows.getD i 0) v.src f.code true s
    ({ v with ack := { a with status := 2, fault := if a.status = 2 then a.fault else f.code } }, s)
  | .ok u =>
    let s := count Reg.TBL_CNT_UPD_ROWS (countN Reg.TBL_CNT_UPD_SAT u.sats (if u.refit then count Reg.TBL_CNT_UPD_REFIT s else s))
    let (inv, s) := updHolders ⟨m.table, m.epoch, m.rows.getD i 0⟩ s
    let a := v.ack
    ({ v with
       ack := { a with applied := a.applied + 1, refits := min 0xFFFF (a.refits + b2n u.refit), saturations := min 0xFFFF (a.saturations + u.sats) }
       inv := v.inv ++ inv }, s)

/-- A batch of row `i` of another alone. -/
def updOne (m : UpdMsg) (i d : Nat) : UpdMsg :=
  let w := (if m.dfmt = 1 then 4 else 2) * d
  { m with rows := [m.rows.getD i 0], deltas := slice (i * w) w m.deltas }

/-- R154: an update of a row is forwarded to its new owner. -/
def updForward (src batch : Nat) (m : UpdMsg) (b : Nat) (s : State) : State :=
  let id := s.tbl.nextUpd
  let s := s.setTbl { s.tbl with
    nextUpd := (id + 1) % 2 ^ 32
    relays := s.tbl.relays ++ [{ id := id, src := src, batch := batch, row := m.rows.headD 0 }] }
  send b (.updBatch { m with id := id }) (count Reg.TBL_CNT_FWD_UPDATE s)

/-- R154: row `i` of a batch under the row's migration state on this device. -/
def updRowAt (desc : List Byte) (m : UpdMsg) (i : Nat) (v : UpdServe) (s : State) : UpdServe × State :=
  let r : RowRef := ⟨m.table, m.epoch, m.rows.getD i 0⟩
  match migOf s r with
  | none => updRow desc m i v s
  | some g =>
    let one := updOne m i (tdDim desc)
    match g.state with
    | .copying =>
      ({ v with rows := v.rows ++ [r.row] }, updMigs r (fun x => { x with held := x.held ++ [{ src := v.src, msg := one }] }) s)
    | .forwarding =>
      ({ v with rows := v.rows ++ [r.row] },
       if g.held.isEmpty then updForward v.src m.id one g.newOwner s
       else updMigs r (fun x => { x with held := x.held ++ [{ src := v.src, msg := one }] }) s)
    | .shadow | .fwdReplica => ({ v with ack := { v.ack with applied := v.ack.applied + 1 } }, s)
    | _ => updRow desc m i v s

/-- R144: the acknowledgement goes out once no INV_ACK and no held or forwarded row is outstanding. -/
def updServed (v : UpdServe) (s : State) : State :=
  if v.inv.isEmpty && v.rows.isEmpty then send v.src (.updAck v.ack) s
  else s.setTbl { s.tbl with serves := s.tbl.serves ++ [v] }

/-- Served batches that now have nothing to wait for are acknowledged. -/
def updServeAll (f : UpdServe → UpdServe) (s : State) : State :=
  let vs := s.tbl.serves.map f
  vs.foldl (fun s v => updServed v s) (s.setTbl { s.tbl with serves := [] })

/-- R121, R154: a batch that is refused with status epoch-gone. -/
def updGone (s : State) (m : UpdMsg) : Bool :=
  ownerClosed s || (heldSlot s m.table m.epoch fun st => st == .current).isNone ||
  (!s.tbl.migs.isEmpty && m.rows.any fun x => (migOf s ⟨m.table, m.epoch, x⟩).map (·.state) == some .gone)

/-- R121, R143: an update batch arrives. -/
def updArrives (src : Nat) (m : UpdMsg) (s : State) : State :=
  let s := dirRead [] m.table s
  if s.hl.loss.isSome then s
  else
    let v : UpdServe := { src := src, ack := { table := m.table, epoch := m.epoch, id := m.id, applied := 0 } }
    if updGone s m then send src (.updAck { v.ack with status := 1 }) (count Reg.TBL_CNT_UPD_EPOCH_GONE s)
    else match heldDesc s m.table m.epoch fun st => st == .current with
      | none => s
      | some d =>
        let (v, s) := (List.range m.rows.length).foldl (fun (acc : UpdServe × State) i => updRowAt d m i acc.1 acc.2) (v, s)
        updServed v s

/-- R154: a row that holds 64 updates in COPYING: the credit of the batch is withheld. -/
def updWithholds (s : State) (m : UpdMsg) : Option RowRef :=
  (m.rows.map fun x => (⟨m.table, m.epoch, x⟩ : RowRef)).find? fun r => match migOf s r with
    | some g => g.state == .copying && decide (64 ≤ g.held.length)
    | none => false

/-- The flits of a batch whose credit is withheld, kept with the last update that its row holds. -/
def updOwe (r : RowRef) (n : Nat) (s : State) : State :=
  updMigs r (fun g => { g with held := updLast (fun u => { u with flits := u.flits + n }) g.held }) s
where
  updLast (f : UpdHeld → UpdHeld) (l : List UpdHeld) : List UpdHeld := l.dropLast ++ (l.drop (l.length - 1)).map f

def updBatch (h : Hdr) (m : UpdMsg) (s : State) : State :=
  match updWithholds s m with
  | none => deliver h (.updBatch m) (updArrives h.src m) s
  | some r => deliverHeld h (.updBatch m) (fun s => updOwe r (Body.updBatch m).flits (updArrives h.src m s)) s

def execUpdBatch (h : Hdr) (m : UpdMsg) (s : State) : Host.Outcome State Fault Refusal := .next (updBatch h m s)

/-- R154: the outcome of one row that was held or forwarded joins its batch's acknowledgement, with holders to wait for. -/
def joinAck (src batch row : Nat) (a : UpdAckMsg) (inv : List (Nat × Nat)) (s : State) : State :=
  updServeAll (fun v =>
    if v.src == src && v.ack.id == batch && v.rows.contains row then
      let o := v.ack
      { v with
        rows := v.rows.erase row
        inv := v.inv ++ inv
        ack := { o with
          applied := o.applied + a.applied
          refits := min 0xFFFF (o.refits + a.refits)
          saturations := min 0xFFFF (o.saturations + a.saturations)
          status := if o.status = 0 then a.status else o.status
          fault := if o.status = 0 then a.fault else o.fault } }
    else v) s

/-- R145, R154: UPD_ACK arrives. -/
def ackArrives (src : Nat) (m : UpdAckMsg) (s : State) : State :=
  match s.tbl.relays.find? fun r => r.id == m.id with
  | some r =>
    if (updOpOf s src m.id).isSome then ackOwn src m s
    else joinAck r.src r.batch r.row m [] (s.setTbl { s.tbl with relays := s.tbl.relays.filter fun x => x.id != m.id })
  | none => ackOwn src m s

def execUpdAck (h : Hdr) (m : UpdAckMsg) (s : State) : Host.Outcome State Fault Refusal :=
  .next (deliver h (.updAck m) (responded (fun x => x.dst == h.src && (match x.body with
    | .updBatch b => b.id == m.id
    | _ => false)) (ackArrives h.src m)) s)

/-! ### INVALIDATE (R144, R151) -/

/-- R151: INVALIDATE at a holder. -/
def invalidateArrives (src : Nat) (r : RowRef) (s : State) : State :=
  let next := fun (x : Overlay) => match x.state with
    | .filling => { x with state := .fillStale }
    | .valid _ => { x with state := .invalid }
    | _ => x
  send src (.invAck r) (s.setTbl { s.tbl with overlay := updWhere (fun x => x.row == r) next s.tbl.overlay })

def execInvalidate (h : Hdr) (r : RowRef) (s : State) : Host.Outcome State Fault Refusal :=
  .next (deliver h (.invalidate r) (invalidateArrives h.src r) s)

/-- R144: a holder has answered the first INVALIDATE of the row that it owes. -/
def invAcked (dev : Nat) (r : RowRef) (s : State) : State :=
  let l := updFirst (fun v => v.ack.table == r.table && v.ack.epoch == r.epoch && v.inv.contains (r.row, dev))
    (fun v => { v with inv := v.inv.erase (r.row, dev) }) s.tbl.serves
  updServeAll id (s.setTbl { s.tbl with serves := l })

/-- R152, R461: a holder that is DOWN counts as having answered. -/
def holderLost (dev : Nat) (s : State) : State := updServeAll (fun v => { v with inv := v.inv.filter fun x => x.2 != dev }) s

def execInvAck (h : Hdr) (r : RowRef) (s : State) : Host.Outcome State Fault Refusal :=
  .next (deliver h (.invAck r) (responded (fun x => x.dst == h.src && x.body == .invalidate r) (invAcked h.src r)) s)

end Sys2Proof.Machine
end

