-- ==== Sys2Proof/Machine/Graft.lean ====
section
/-!
DEFINITION. Graft: GRAFT_ROW on the manager (R148 to R150), read-only replicas (R151, R152) and the migration of a row (R153 to R155).
-/

namespace Sys2Proof.Machine

/-! ### The lists -/

def updOverlay (r : RowRef) (f : Overlay → Overlay) (s : State) : State :=
  s.setTbl { s.tbl with overlay := updWhere (fun x => x.row == r) f s.tbl.overlay }
def setOverlay (x : Overlay) (s : State) : State :=
  s.setTbl { s.tbl with overlay := (s.tbl.overlay.filter fun y => y.row != x.row) ++ [x] }
def setHolders (h : Holders) (s : State) : State :=
  s.setTbl { s.tbl with holders := (s.tbl.holders.filter fun x => x.row != h.row) ++ (if h.devs.isEmpty && h.dropping.isEmpty then [] else [h]) }
def holdersRow (s : State) (r : RowRef) : Holders := (s.tbl.holders.find? fun h => h.row == r).getD { row := r, devs := [] }
def setMig (m : Mig) (s : State) : State := s.setTbl { s.tbl with migs := (s.tbl.migs.filter fun x => x.row != m.row) ++ [m] }
def dropMig (r : RowRef) (s : State) : State := s.setTbl { s.tbl with migs := s.tbl.migs.filter fun x => x.row != r }
def graftOf (s : State) (r : RowRef) (p : GraftOp → Bool) : Option GraftOp := s.tbl.grafts.find? fun g => g.row == r && p g
def setGraft (g : GraftOp) (s : State) : State :=
  s.setTbl { s.tbl with grafts := updFirst (fun x => x.row == g.row && x.op == g.op && x.target == g.target) (fun _ => g) s.tbl.grafts }

/-- A GRAFT_ROW ends. -/
def graftEnd (g : GraftOp) (act : Cmd → State → State) (s : State) : State :=
  let s := s.setTbl { s.tbl with grafts := s.tbl.grafts.filter fun x => x != g }
  match g.cmd with
  | some c => act c s
  | none => s

/-! ### Migration on the manager (R153, R155) -/

/-- R153 step 1: MIG_BEGIN goes to the parties, after the deputy has its copy. -/
def migStart (g : GraftOp) (s : State) : State :=
  sendAll ([g.oldOwner, g.replica, g.target].filter fun d => d != 0xFFFF) (.migBegin g.row g.target g.oldOwner g.replica) s

/-- R153 step 9: MIG_END, and the migration completes. -/
def migFinish (g : GraftOp) (s : State) : State :=
  let s := sendAll ([g.oldOwner, g.replica, g.target].filter fun d => d != 0xFFFF) (.migEnd g.row g.target g.oldOwner g.replica) s
  graftEnd g (completeOk · 0) (s.setTbl { s.tbl with migrated := s.tbl.migrated ++ [(g.row, g.target)] })

/-- R153 step 9, R461: every member has acknowledged its overlay entry, or is DOWN. -/
def migCheck (r : RowRef) (s : State) : State :=
  match graftOf s r fun g => g.op == 4 && g.copied with
  | none => s
  | some g =>
    if (domainMembers s).all fun m => g.acks.contains m || isDown s m then mgrCopy (.migEnded r) (migFinish g) s else s

/-- R153 step 7. -/
def migSpread (g : GraftOp) (s : State) : State :=
  migCheck g.row (sendAll (domainMembers s) (.overlaySet g.row g.target) (setGraft { g with copied := true } s))

/-! ### GRAFT_ROW (R148, R149) -/

/-- R149: what GRAFT_ROW finds wrong with its row and target. -/
def graftBad (s : State) (d : List Byte) (op target : Nat) (r : RowRef) : Bool :=
  let held := s.tbl.replicated.contains (r, target) || (s.tbl.grafts.any fun g => g.row == r && g.op == 2 && g.target == target)
  let p := ownersOf s d r.row
  decide (tdRows d ≤ r.row) || !(domainMembers s).contains target ||
  (op == 2 && (held || p.1 == target || p.2 == target)) ||
  (op == 3 && !s.tbl.replicated.contains (r, target)) ||
  (op == 4 && (p.1 == target || p.2 == target || s.tbl.migrated.contains (r, target)))

/-- R149: a limit, or a migration of the row, stands in the way. -/
def graftBusy (s : State) (op target : Nat) (r : RowRef) : Bool :=
  let cap := regGet s Reg.TBL_GRAFT_CAP
  let moved := s.tbl.migrated.any fun p => p.1 == r
  (s.tbl.grafts.any fun g => g.row == r && g.op == 4) || (op == 4 && (moved || s.tbl.grafts.any fun g => g.row == r)) ||
  (op == 2 && (moved || decide (bits cap 39 32 ≤ (s.tbl.replicated.filter fun p => p.1 == r).length) ||
    decide (bits cap 15 0 ≤ (s.tbl.replicated.filter fun p => p.2 == target).length))) ||
  (op == 4 && decide (bits cap 31 16 ≤ (s.tbl.migrated.filter fun p => p.2 == target).length))

/-- R152, R153: the operation on a row starts. -/
def graftStart (c : Cmd) (d : List Byte) (op target : Nat) (r : RowRef) (s : State) : State :=
  let p := ownersOf s d r.row
  let lost := fun x => x != 0xFFFF && !reachable s x
  let g : GraftOp := { cmd := some c, op := op, row := r, target := target, oldOwner := p.1, replica := p.2 }
  if lost p.1 || (op == 4 && (lost p.2 || lost target)) then faultCmd c .fabric s
  else
    let s := s.setTbl { s.tbl with grafts := s.tbl.grafts ++ [g] }
    match op with
    | 2 => send p.1 (.repAdd r target) s
    | 3 => send p.1 (.repDrop r target) s
    | _ => mgrCopy (.migBegun r target) (migStart g) (s.setTbl { s.tbl with replicated := s.tbl.replicated.filter fun x => x.1 != r })

/-- R148, R149: GRAFT_ROW. -/
def graftRow (c : Cmd) (s : State) : State :=
  let s := startCmd c s
  let op := bits (par c 0) 3 0
  let t := bits (par c 0) 31 16
  let e := bits (par c 0) 47 32
  let r : RowRef := ⟨t, e, bits (par c 1) 39 0⟩
  let target := bits (par c 2) 15 0
  if !isManager s || 4 < op || bits (par c 0) 15 4 ≠ 0 || bits (par c 0) 63 48 ≠ 0 then badPacket c 0 s
  else if s.tbl.grafts.any fun g => g.cmd == some c then s
  else
    let s := dirRead [c] t s
    if s.hl.loss.isSome then s
    else match currentDesc s t with
      | none => complete c stEpochGone 0 0 s
      | some d =>
        if 2 ≤ op && graftBad s d op target r then badPacket c 0 s
        else if tdEpoch d != e then complete c stEpochGone 0 0 s
        else if op ≤ 1 then completeOk c 0 (setDirWord t 0 (setBits (dirWord s t 0) 7 7 (1 - op)) s)
        else if graftBusy s op target r then complete c stNoResource 0 0 s
        else graftStart c d op target r s

def execGraftRow (c : Cmd) (s : State) : Host.Outcome State Fault Refusal := whileOn (graftRow c) s

/-! ### Replicas (R151, R152) -/

/-- R152: the holder of a row has answered: it is registered, or let go. -/
def repDoneTo (r : RowRef) (holder : Nat) (s : State) : State := send s.fab.mgrId (.repDone r holder) s

def execRepAdd (h : Hdr) (r : RowRef) (holder : Nat) (s : State) : Host.Outcome State Fault Refusal :=
  .next (deliver h (.repAdd r holder) (fun s =>
    let x := holdersRow s r
    let s := setHolders { x with devs := if x.devs.contains holder then x.devs else x.devs ++ [holder] } s
    if isDown s holder then repDoneTo r holder s else send holder (.repGrant r) s) s)

/-- R152: a holder leaves the list. -/
def unregister (r : RowRef) (holder : Nat) (s : State) : State :=
  let x := holdersRow s r
  setHolders { x with devs := x.devs.filter fun d => d != holder, dropping := x.dropping.filter fun d => d != holder } s

def repDropArrives (r : RowRef) (holder : Nat) (s : State) : State :=
  let x := holdersRow s r
  if !x.devs.contains holder || isDown s holder then repDoneTo r holder (unregister r holder s)
  else send holder (.repRevoke r) (setHolders { x with dropping := if x.dropping.contains holder then x.dropping else x.dropping ++ [holder] } s)

def execRepDrop (h : Hdr) (r : RowRef) (holder : Nat) (s : State) : Host.Outcome State Fault Refusal :=
  .next (deliver h (.repDrop r holder) (repDropArrives r holder) s)

def repGrantArrives (src : Nat) (r : RowRef) (s : State) : State :=
  send src (.repAck r) (if (overlayOf s r).isSome then s else setOverlay { row := r, state := .invalid } s)

def execRepGrant (h : Hdr) (r : RowRef) (s : State) : Host.Outcome State Fault Refusal :=
  .next (deliver h (.repGrant r) (repGrantArrives h.src r) s)

def repRevokeArrives (src : Nat) (r : RowRef) (s : State) : State :=
  let keep := fun (x : Overlay) => x.row != r || (match x.state with
    | .moved _ => true
    | _ => false)
  send src (.repAck r) (s.setTbl { s.tbl with overlay := s.tbl.overlay.filter keep })

def execRepRevoke (h : Hdr) (r : RowRef) (s : State) : Host.Outcome State Fault Refusal :=
  .next (deliver h (.repRevoke r) (repRevokeArrives h.src r) s)

/-- R153 step 2: the old owner reads the slot and sends it once every holder has answered. -/
def migSend (r : RowRef) (s : State) : State :=
  match migOf s r with
  | none => s
  | some m =>
    if m.state != .copying || !m.revoking.isEmpty then s
    else match heldDesc s r.table r.epoch SlotState.serves with
      | none => s
      | some d =>
        let (x, s) := slotRead d r.row s
        match x with
        | .ok (_, l) => send m.newOwner (.migData r l) s
        | .error _ => s

/-- R152, R153: REP_ACK, or a holder that is DOWN and counts as having answered. -/
def repAcked (dev : Nat) (r : RowRef) (s : State) : State :=
  if (migOf s r).any fun m => m.state == .copying && m.revoking.contains dev then
    migSend r (updMigs r (fun m => { m with revoking := m.revoking.filter fun d => d != dev }) (unregister r dev s))
  else if (holdersRow s r).dropping.contains dev then repDoneTo r dev (unregister r dev s)
  else if (holdersRow s r).devs.contains dev then repDoneTo r dev s
  else s

def execRepAck (h : Hdr) (r : RowRef) (s : State) : Host.Outcome State Fault Refusal :=
  .next (deliver h (.repAck r) (responded (fun x => x.dst == h.src && (x.body == .repGrant r || x.body == .repRevoke r)) (repAcked h.src r)) s)

/-- R149, R152: REP_DONE reaches the manager. -/
def repDoneArrives (r : RowRef) (holder : Nat) (s : State) : State :=
  match graftOf s r fun g => (g.op == 2 || g.op == 3) && g.target == holder with
  | none => s
  | some g =>
    let l := s.tbl.replicated.filter fun x => x != (r, holder)
    graftEnd g (completeOk · 0) (s.setTbl { s.tbl with replicated := if g.op == 2 then l ++ [(r, holder)] else l })

def execRepDone (h : Hdr) (r : RowRef) (holder : Nat) (s : State) : Host.Outcome State Fault Refusal :=
  .next (deliver h (.repDone r holder) (responded (fun x => x.dst == h.src && (x.body == .repAdd r holder || x.body == .repDrop r holder)) (repDoneArrives r holder)) s)

/-- R151: the owner reads a replicated row for its holder. -/
def repFillArrives (src : Nat) (r : RowRef) (s : State) : State :=
  if !(holdersRow s r).devs.contains src || (migOf s r).isSome || ownerClosed s then s
  else match heldDesc s r.table r.epoch SlotState.serves with
    | none => s
    | some d =>
      let (x, s) := slotRead d r.row s
      match x with
      | .ok (_, l) => send src (.fillData r l) s
      | .error _ => s

def execRepFill (h : Hdr) (r : RowRef) (s : State) : Host.Outcome State Fault Refusal :=
  .next (deliver h (.repFill r) (repFillArrives h.src r) s)

/-- R151: FILL_DATA at the holder. -/
def fillArrives (r : RowRef) (l : List Byte) (s : State) : State :=
  match (overlayOf s r).map Overlay.state with
  | some .filling => updOverlay r (fun x => { x with state := .valid l }) s
  | some .fillStale => count Reg.TBL_CNT_STALE_FILL (updOverlay r (fun x => { x with state := .invalid }) s)
  | _ => s

def execFillData (h : Hdr) (r : RowRef) (slot : List Byte) (s : State) : Host.Outcome State Fault Refusal :=
  .next (deliver h (.fillData r slot) (responded (fun x => x.dst == h.src && x.body == .repFill r) (fillArrives r slot)) s)

/-- R450: a REP_FILL has failed, and another may follow. -/
def fillLost (r : RowRef) (s : State) : State :=
  let back := fun (x : Overlay) => match x.state with
    | .filling | .fillStale => { x with state := .invalid }
    | _ => x
  updOverlay r back s

/-! ### Migration on its parties (R153, R154) -/

/-- R153 step 1, on a party. MIG_BEGIN sent again, by a new manager, to a party that has entered its state changes nothing;
an old owner that has finished step 6 reports it again. -/
def migBegins (r : RowRef) (b a c : Nat) (s : State) : State :=
  let m : Mig := { row := r, state := .receiving, newOwner := b, oldOwner := a, replica := c }
  if (migOf s r).isSome then
    if (migOf s r).any fun m => m.state == .forwarding && m.revoking.isEmpty then send s.fab.mgrId (.migCopied r) s else s
  else if ownId s = a then
    let ds := (holdersRow s r).devs
    let live := ds.filter fun d => !isDown s d
    let s := (ds.filter fun d => isDown s d).foldl (fun s d => unregister r d s) (setMig { m with state := .copying, revoking := live } s)
    migSend r (sendAll live (.repRevoke r) s)
  else if ownId s = c then setMig { m with state := .shadow } s
  else if ownId s = b then setMig m s
  else s

def execMigBegin (h : Hdr) (r : RowRef) (newOwner oldOwner replica : Nat) (s : State) : Host.Outcome State Fault Refusal :=
  .next (deliver h (.migBegin r newOwner oldOwner replica) (migBegins r newOwner oldOwner replica) s)

/-- R153 step 3. -/
def migStores (r : RowRef) (l : List Byte) (s : State) : State :=
  match migOf s r with
  | some m => if m.state != .receiving then s else send m.oldOwner (.migReady r) (updMigs r (fun m => { m with state := .owner l }) s)
  | none => s

def execMigData (h : Hdr) (r : RowRef) (slot : List Byte) (s : State) : Host.Outcome State Fault Refusal :=
  .next (deliver h (.migData r slot) (migStores r slot) s)

/-- R446, R154: credit that was withheld goes back to its sender. -/
def giveOwed (u : UpdHeld) (s : State) : State := if u.flits = 0 then s else send u.src (.credit 4 u.flits) s

/-- R153 step 6: held updates are forwarded in arrival order, and the manager is told. -/
def migForward (r : RowRef) (s : State) : State :=
  match migOf s r with
  | none => s
  | some m =>
    let s := updMigs r (fun m => { m with held := [] }) s
    let s := m.held.foldl (fun s u => giveOwed u (updForward u.src u.msg.id u.msg m.newOwner s)) s
    send s.fab.mgrId (.migCopied r) s

/-- R153 step 4; without a shard replica step 6 follows at once. -/
def migReadyArrives (r : RowRef) (s : State) : State :=
  match migOf s r with
  | none => s
  | some m =>
    if m.state != .copying then s
    else
      let alone := m.replica = 0xFFFF || isDown s m.replica
      let s := updMigs r (fun m => { m with state := .forwarding, revoking := if alone then [] else [m.replica] }) s
      if alone then migForward r s else send m.replica (.migFwd r) s

def execMigReady (h : Hdr) (r : RowRef) (s : State) : Host.Outcome State Fault Refusal :=
  .next (deliver h (.migReady r) (migReadyArrives r) s)

/-- R153 step 5. -/
def migFwdArrives (src : Nat) (r : RowRef) (s : State) : State :=
  send src (.migFwdAck r) (updMigs r (fun m => if m.state == .shadow then { m with state := .fwdReplica } else m) s)

def execMigFwd (h : Hdr) (r : RowRef) (s : State) : Host.Outcome State Fault Refusal :=
  .next (deliver h (.migFwd r) (migFwdArrives h.src r) s)

/-- R153 step 6: the shard replica has answered, or is DOWN. -/
def fwdAcked (r : RowRef) (s : State) : State :=
  if (migOf s r).any fun m => m.state == .forwarding && !m.revoking.isEmpty then migForward r (updMigs r (fun m => { m with revoking := [] }) s) else s

def execMigFwdAck (h : Hdr) (r : RowRef) (s : State) : Host.Outcome State Fault Refusal :=
  .next (deliver h (.migFwdAck r) (responded (fun x => x.dst == h.src && x.body == .migFwd r) (fun s =>
    fwdAcked r s)) s)

/-- R153 step 7: MIG_COPIED reaches the manager. -/
def migCopiedArrives (r : RowRef) (s : State) : State :=
  match graftOf s r fun g => g.op == 4 && !g.copied with
  | some g => migSpread g s
  | none => s

def execMigCopied (h : Hdr) (r : RowRef) (s : State) : Host.Outcome State Fault Refusal :=
  .next (deliver h (.migCopied r) (migCopiedArrives r) s)

/-- R153 step 8. -/
def overlaySetArrives (r : RowRef) (b : Nat) (s : State) : State := overlayAcks (setOverlay { row := r, state := .moved b, ackDue := true } s)

def execOverlaySet (h : Hdr) (r : RowRef) (newOwner : Nat) (s : State) : Host.Outcome State Fault Refusal :=
  .next (deliver h (.overlaySet r newOwner) (overlaySetArrives r newOwner) s)

def overlayAckArrives (src : Nat) (r : RowRef) (s : State) : State :=
  match graftOf s r fun g => g.op == 4 && g.copied with
  | some g => migCheck r (setGraft { g with acks := if g.acks.contains src then g.acks else g.acks ++ [src] } s)
  | none => s

def execOverlayAck (h : Hdr) (r : RowRef) (s : State) : Host.Outcome State Fault Refusal :=
  .next (deliver h (.overlayAck r) (responded (fun x => x.dst == h.src && (match x.body with
    | .overlaySet q _ => q == r
    | _ => false)) (overlayAckArrives h.src r)) s)

/-- R153 step 9, on the old owner and the shard replica. -/
def migEnds (r : RowRef) (s : State) : State :=
  updMigs r (fun m => match m.state with
    | .owner _ | .receiving => m
    | _ => { m with state := .gone }) s

def execMigEnd (h : Hdr) (r : RowRef) (newOwner oldOwner replica : Nat) (s : State) : Host.Outcome State Fault Refusal :=
  .next (deliver h (.migEnd r newOwner oldOwner replica) (migEnds r) s)

/-- R154: the new owner answers ROW_FETCH. -/
def rowFetchArrives (src : Nat) (r : RowRef) (tag : Nat) (s : State) : State :=
  match (migOf s r).map Mig.state with
  | some (MigState.owner l) => if ownerClosed s then s else send src (.rowData r tag l) s
  | _ => s

def execRowFetch (h : Hdr) (r : RowRef) (tag : Nat) (s : State) : Host.Outcome State Fault Refusal :=
  .next (deliver h (.rowFetch r tag) (rowFetchArrives h.src r tag) s)

/-! ### Abandonment (R155) -/

/-- R155: the old owner applies an update that it held. -/
def applyHeld (r : RowRef) (u : UpdHeld) (s : State) : State :=
  let v : UpdServe := { src := u.src, ack := { table := r.table, epoch := r.epoch, id := u.msg.id, applied := 0 } }
  let (v, s) := match heldDesc s r.table r.epoch fun st => st == .current with
    | some d => updRow d u.msg 0 v s
    | none => ({ v with ack := { v.ack with status := 1 } }, s)
  giveOwed u (joinAck u.src u.msg.id r.row v.ack v.inv s)

/-- R155: the migration of a row is abandoned: its parties go back to their normal state, and GRAFT_ROW fails. -/
def migAbandon (r : RowRef) (s : State) : State :=
  let s := match migOf s r with
    | some m =>
      if m.state == .copying || m.state == .shadow || m.state == .receiving then m.held.foldl (fun s u => applyHeld r u s) (dropMig r s) else s
    | none => s
  match graftOf s r fun g => g.op == 4 && !g.copied with
  | some g => graftEnd g (fun c s => faultCmd c .fabric s) (mgrCopy (.migEnded r) id s)
  | none => s

def execMigrationAbandon (r : RowRef) (s : State) : Host.Outcome State Fault Refusal := whileOn (migAbandon r) s

/-! ### The loss of a device, and takeover (R152, R155, R461, R463) -/

/-- R152: REP_ADD or REP_DROP has failed. -/
def repLost (r : RowRef) (holder : Nat) (s : State) : State :=
  match graftOf s r fun g => (g.op == 2 || g.op == 3) && g.target == holder with
  | some g => graftEnd g (fun c s => faultCmd c .fabric s) s
  | none => s

/-- A device has gone DOWN. -/
def graftDown (dev : Nat) (s : State) : State :=
  let s := s.tbl.holders.foldl (fun s h => if h.devs.contains dev || h.dropping.contains dev then repAcked dev h.row s else s) s
  let s := holderLost dev s
  let s := (s.tbl.migs.filter fun m => m.state == .forwarding && m.revoking.contains dev).foldl (fun s m => fwdAcked m.row s) s
  s.tbl.grafts.foldl (fun s g =>
    if g.op = 4 then (if !g.copied && (g.target == dev || g.oldOwner == dev) then migAbandon g.row s else migCheck g.row s)
    else if g.oldOwner == dev then repLost g.row g.target s
    else s) s

/-- R463, R153: the new manager goes on with the migrations that were copied to it. -/
def graftTakeover (s : State) : State :=
  let ended := fun (r : RowRef) => s.fab.mgrCopies.any fun i => i == .migEnded r
  s.fab.mgrCopies.foldl (fun s i => match i with
    | .migBegun r b =>
      if ended r || (graftOf s r fun g => g.op == 4).isSome then s
      else
        let p := ((heldDesc s r.table r.epoch SlotState.serves).map fun d => ownersOf s d r.row).getD (0xFFFF, 0xFFFF)
        let g : GraftOp := { cmd := none, op := 4, row := r, target := b, oldOwner := p.1, replica := p.2 }
        migStart g (s.setTbl { s.tbl with grafts := s.tbl.grafts ++ [g] })
    | _ => s) s

end Sys2Proof.Machine
end

