-- ==== Sys2Proof/Machine/Helix.lean ====
section
/-!
DEFINITION. Stream programs of the Helix unit: the checks of HSTART (R281, R285, R288 to R292), the instructions of R291,
requests, arrivals and halts (R284, R301, R302), external producers (R286) and the end of a program (R293).
-/

namespace Sys2Proof.Machine

/-! ### Programs (R288 to R292) -/

def hOp (w : Nat) : Nat := bits w 7 0
def hA (w : Nat) : Nat := bits w 9 8

/-- R291: bits of an instruction that its row does not name, and values that it does not permit. -/
def hInstrOk (ext : Bool) (w : Nat) : Bool :=
  match hOp w with
  | 0x01 => bits w 31 8 == 0 && bits w 63 32 != 0
  | 0x02 => bits w 63 8 == 0
  | 0x03 => bits w 23 13 == 0
  | 0x04 => bits w 63 32 == 0 && bits w 31 10 % 8 == 0
  | 0x05 => bits w 15 10 == 0
  | 0x08 => bits w 11 10 == 0 && bits w 63 32 == 0 && !ext
  | 0x09 => bits w 63 42 == 0 && !ext
  | 0x0A => bits w 63 46 == 0 && !ext
  | 0x0B => bits w 11 8 == 0 && bits w 63 32 == 0
  | 0x0C => bits w 63 32 == 0 && bits w 31 8 != 0 && ext
  | 0x10 => bits w 63 40 == 0
  | 0x3F => bits w 63 8 == 0
  | _ => false

/-- R292: loops balanced, at most six deep; `d` is the depth reached. -/
def hLoopsOk : Nat → List Nat → Bool
  | d, [] => d == 0
  | d, w :: ws =>
    if hOp w = 0x01 then decide (d < 6) && hLoopsOk (d + 1) ws
    else if hOp w = 0x02 then decide (0 < d) && hLoopsOk (d - 1) ws
    else hLoopsOk d ws

/-- R292: HEND stands last, and nowhere else. -/
def hEndOk : List Nat → Bool
  | [] => false
  | [w] => hOp w == 0x3F
  | w :: ws => hOp w != 0x3F && hEndOk ws

/-- R289, R292: reserved bits of the header. -/
def hHeaderReserved (c : HChan) : Bool :=
  bits (c.word 0) 31 27 != 0 || bits (c.word 0) 63 50 != 0 || bits (c.word 1) 63 31 != 0 || bits (c.word 1) 5 0 != 0 ||
  bits (c.word 2) 31 15 != 0 || bits (c.word 2) 63 48 != 0 || bits (c.word 3) 63 26 != 0 ||
  ((List.range 4).any fun i => c.word (4 + i) != 0)

/-- R292: fields of the header that disagree. -/
def hHeaderBad (c : HChan) : Bool :=
  let fmt := Fmt.ofCode c.fmtCode
  let narrow := c.kind == 0 && c.dtype == 0
  hHeaderReserved c || c.kind == 3 || c.dtype == 3 ||
  (narrow && fmt.isNone) || (c.dtype != 0 && c.fmtCode != 0) ||
  ((c.scaleChan.isSome || c.escChan.isSome) && !narrow) ||
  (narrow && ((fmt.bind Fmt.escape).isSome != c.escChan.isSome)) ||
  (c.escChan.isSome && (c.lineSlice == 0 || c.lineCount == 0 || decide (32 < c.lineCount) || decide (4096 < c.lineScale + c.lineCount))) ||
  (c.kind != 0 && (c.fmtCode != 0 || c.dtype != 0 || bits (c.word 0) 21 19 != 0 || c.scaleChan.isSome || c.escChan.isSome)) ||
  (c.escChan.isNone && c.word 3 != 0) || (!c.fixed && c.ahead != 1) || (!c.ext && c.ringId != 0) ||
  decide (c.slots < 3) || decide (16 < c.slots) || (c.fixed && decide (c.slots ≤ c.ahead))

/-- R292: a pairing names the channel itself, a running channel of the wrong kind, or one that another running data channel has. -/
def hPairBad (g : Grove) (ch : Nat) (c : HChan) : Bool :=
  let others := (g.chans.filter fun p => p.1 != ch && p.2.running)
  let bad := fun (kind : Nat) (p : Option Nat) => match p with
    | none => false
    | some d => d == ch || (others.any fun o => o.1 == d && o.2.kind != kind) ||
        others.any fun o => o.2.scaleChan == some d || o.2.escChan == some d
  bad 1 c.scaleChan || bad 2 c.escChan ||
  others.any fun o => (o.2.scaleChan == some ch && c.kind != 1) || (o.2.escChan == some ch && c.kind != 2)

/-- R281: rings of one Grove that overlap. -/
def ringsOverlap (k : Nat) (a b : HChan) : Bool := overlaps (a.ringAt k) a.ringBytes (b.ringAt k) b.ringBytes

/-- R197: bytes of one row or column slice of a step for a format, with the step's elements. -/
def sliceElems (a b : Fmt) : Nat :=
  if a.width = 1 ∧ b.width = 1 then 128 else if a.width ≤ 2 ∧ b.width ≤ 2 then 64 else 32

/-- R195, R197: elements of a step of a tile, and the bytes of a row's or column's slice. -/
def tileElems (d : List Nat) : Nat :=
  match Fmt.ofCode (bits (d.getD 0 0) 3 0), Fmt.ofCode (bits (d.getD 0 0) 7 4) with
  | some a, some b => sliceElems a b
  | _, _ => 32

/-- R199, R280: a tile that reads a channel fits the channel's format and ring. -/
def tileFits (c : HChan) (ch : Nat) (d : List Nat) : Bool :=
  let w := d.getD 0 0
  let one := fun (srcBit : Bool) (chan fmt : Nat) =>
    !srcBit || chan != ch ||
      (c.kind == 0 && c.dtype == 0 && c.fmtCode == fmt &&
        decide (bits w 43 28 * 32 * (tileElems d * (((Fmt.ofCode fmt).map Fmt.width).getD 0) / 8) ≤ c.ringBytes))
  one (bit w 8) (bits w 12 10) (bits w 3 0) && one (bit w 9) (bits w 15 13) (bits w 7 4)

/-- R280: a chain that reads a channel fits its type and format. -/
def chainFits (c : HChan) (ch : Nat) (d : List Nat) : Bool :=
  let w := d.getD 0 0
  bits w 1 0 != 2 || bits w 4 2 != ch ||
    (c.kind == 0 && (match bits w 6 5 with
      | 0 => c.dtype == 0 && c.fmtCode == bits w 10 7
      | 1 => c.dtype == 1
      | _ => c.dtype == 2))

/-- R264, R281, R292: the fault of an HSTART of a program with header and instructions read. -/
def hstartBad (s : State) (k ch off : Nat) (c : HChan) : Option Flt :=
  let g := groveOf s k
  let ctx := g.ctx.getD 0
  let bytes := 64 + 8 * c.instrCount
  if off % 64 ≠ 0 || 0x400000 < off + bytes || c.instrCount = 0 || 64 < c.instrCount || hHeaderBad c ||
      !c.instrs.all (hInstrOk c.ext) || !hLoopsOk 0 c.instrs || !hEndOk c.instrs || hPairBad g ch c then some .illegal
  else if !c.inCanopy && 0x400000 < bits (c.word 1) 30 0 + c.ringBytes then some .illegal
  else if c.inCanopy && (0x80000000 < bits (c.word 1) 30 0 + c.ringBytes || !scratchOk s (ctxPart s ctx) (c.ringAt k) ||
      !scratchOk s (ctxPart s ctx) (c.ringAt k + c.ringBytes - 1)) then some .perm
  else if g.chans.any fun p => p.1 != ch && p.2.running && ringsOverlap k c p.2 then some .illegal
  else if c.ext && (ringIdOf s ctx c.ringId).bound.isSome then some .illegal
  else if !(g.tiles.all fun t => tileFits c ch t.desc) || !(g.chains.all fun v => chainFits c ch v.desc) then some .illegal
  else none

/-- R288: the channel that an HSTART sets up from the grove store. -/
def hstartChan (s : State) (k off : Nat) (token : Nat) : HChan :=
  let words := fun (a n : Nat) => (List.range n).map fun i => ofLe (gsPeek s k (a + 8 * i) 8)
  let h := words off 8
  let c : HChan := { running := true, prog := off, header := h, token := some token, g0 := (groveOf s k).barGen }
  { c with instrs := words (off + 64) (min c.instrCount 127) }

/-- R279, R286: the channel starts; an external channel binds its ring ID. -/
def hstartRun (k ch : Nat) (c : HChan) (s : State) : State :=
  let ctx := (groveOf s k).ctx.getD 0
  let s := setChan k ch c s
  if c.ext then setRingId { ringIdOf s ctx c.ringId with bound := some (k, ch) } s else s

/-! ### Running instructions -/

/-- R304, R427: a Grove's engines work on: its node runs, or a soft stop waits for its open tile. -/
def engineOn (s : State) (k : Nat) : Bool :=
  match groveNode s k with
  | some n => s.hl.loss.isNone && (n.state == .running || n.state == .armed ||
      (n.state == .softStop && !n.stopped.contains k && !atTileBoundary s k))
  | none => false

/-- A channel that runs its program and is not stopped. -/
def HChan.live (c : HChan) : Bool := c.running && !c.ended && !c.stopping && !c.parked && c.halted.isNone

/-- One instruction of a channel: it acts when the instruction at pc has the opcode. -/
def hRun (op k ch : Nat) (f : HChan → Nat → State → State) (s : State) : State :=
  let c := chanOf s k ch
  match c.instrs[c.pos.pc]? with
  | some w => if engineOn s k && c.live && hOp w == op then f c w s else s
  | none => s

/-- A channel whose position has changed. -/
def hMove (k ch : Nat) (c : HChan) (p : HPos) (s : State) : State := setChan k ch { c with pos := p } s

/-- R290: the current address of an address register. -/
def HPos.address (p : HPos) (a : Nat) : Nat :=
  ((List.range p.depth).foldl (fun x l => x + p.stride.getD (8 * a + l) 0 * p.ctr.getD l 0) (p.addr.getD a 0)) % 2 ^ 64

/-- R291: the LOOP that an ENDL closes: the nearest one before it that is not closed. -/
def loopBefore : Nat → List (Nat × Nat) → Nat
  | _, [] => 0
  | n, (i, w) :: l =>
    if hOp w = 0x02 then loopBefore (n + 1) l
    else if hOp w = 0x01 then (if n = 0 then i else loopBefore (n - 1) l)
    else loopBefore n l

/-- R291: LOOP. -/
def hLoop (k ch : Nat) (s : State) : State :=
  hRun 0x01 k ch (fun c _ s => hMove k ch c { c.pos with pc := c.pos.pc + 1, depth := c.pos.depth + 1, ctr := c.pos.ctr.set c.pos.depth 0 } s) s

/-- R291: ENDL. -/
def hEndl (k ch : Nat) (s : State) : State :=
  hRun 0x02 k ch (fun c _ s =>
    let p := c.pos
    let i := loopBefore 0 (((List.range p.pc).map fun i => (i, c.instrs.getD i 0)).reverse)
    let v := p.ctr.getD (p.depth - 1) 0 + 1
    if v < bits (c.instrs.getD i 0) 63 32 then hMove k ch c { p with pc := i + 1, ctr := p.ctr.set (p.depth - 1) v } s
    else hMove k ch c { p with pc := p.pc + 1, depth := p.depth - 1, ctr := p.ctr.set (p.depth - 1) 0 } s) s

/-- R291: STRIDE. -/
def hStride (k ch : Nat) (s : State) : State :=
  hRun 0x03 k ch (fun c w s =>
    hMove k ch c { c.pos with pc := c.pos.pc + 1, stride := c.pos.stride.set (8 * hA w + bits w 12 10) (unsext (sext (bits w 63 24) 40) 64) } s) s

/-- R291: LDA reads the grove store when the instruction runs. -/
def hLda (k ch : Nat) (s : State) : State :=
  hRun 0x04 k ch (fun c w s =>
    let ((l, bad), s) := gsRead k (bits w 31 10) 8 s
    if bad then groveFault 0x03 (gsBase k + bits w 31 10) k .ecc s
    else hMove k ch c { c.pos with pc := c.pos.pc + 1, addr := c.pos.addr.set (hA w) (ofLe l) } s) s

/-- R291: ADDA. -/
def hAdda (k ch : Nat) (s : State) : State :=
  hRun 0x05 k ch (fun c w s =>
    let v := (c.pos.addr.getD (hA w) 0 + unsext (sext (bits w 63 16) 48) 64) % 2 ^ 64
    hMove k ch c { c.pos with pc := c.pos.pc + 1, addr := c.pos.addr.set (hA w) v } s) s

/-- R284, R285: the next request of a run of rows, while credit lasts: `rows` rows of `len` bytes, row `r` at `base r`.
At the end the program goes on to the next instruction. -/
def issueRows (rows len : Nat) (base : Nat → Nat) : Nat → HChan → HChan
  | 0, c => c
  | fuel + 1, c =>
    let p := c.pos
    if rows ≤ p.row then { c with held := false, pos := { p with pc := p.pc + 1, row := 0, done := 0 } }
    else
      let a := (base p.row + p.done) % 2 ^ 64
      let n := min (len - p.done) (min (256 - a % 256) (c.slotBytes - p.p % max c.slotBytes 1))
      if c.window < p.p + n then { c with held := true }
      else
        let p' := if p.done + n = len then { p with row := p.row + 1, done := 0, p := p.p + n } else { p with done := p.done + n, p := p.p + n }
        issueRows rows len base fuel { c with reqs := c.reqs ++ [⟨p, a, n⟩], pos := p' }

/-- A channel after it has issued requests. -/
def putIssued (k ch : Nat) (old new : HChan) (s : State) : State :=
  countN (Reg.HLX_CNT_REQ k) (new.reqs.length - old.reqs.length) (setChan k ch new s)

/-- R291: READ. -/
def hRead (k ch : Nat) (s : State) : State :=
  hRun 0x08 k ch (fun c w s =>
    let n := bits w 31 12 + 1
    putIssued k ch c (issueRows 1 n (fun _ => c.pos.address (hA w)) (n + 2) c) s) s

/-- R291: READ2. -/
def hRead2 (k ch : Nat) (s : State) : State :=
  hRun 0x09 k ch (fun c w s =>
    let rows := bits w 21 10 + 1
    let n := bits w 41 22 + 1
    putIssued k ch c (issueRows rows n (fun r => c.pos.address (hA w) + r * c.pos.stride.getD (8 * hA w + 6) 0) (rows * n + 2) c) s) s

/-- R291: GATHER: for each index in order, the index is read and its element's requests are issued while credit lasts. -/
def gatherLoop (k ch : Nat) : Nat → State → State
  | 0, s => s
  | fuel + 1, s =>
    hRun 0x0A k ch (fun c w s =>
      let p := c.pos
      let len := bits w 45 26 + 1
      let isz := if bit w 12 then 8 else 4
      if bits w 25 13 + 1 ≤ p.row then hMove k ch c { p with pc := p.pc + 1, row := 0, done := 0 } s
      else
        let work : Work := .helix k ch p.p
        runAcc work (ctxReadNat work ((groveOf s k).ctx.getD 0) ((p.address (bits w 11 10) + isz * p.row) % 2 ^ 64) isz)
          (fun x s =>
            let c := chanOf s k ch
            let at_ := (c.pos.address (hA w) + x * c.pos.stride.getD (8 * hA w + 7) 0) % 2 ^ 64
            let c' := issueRows (p.row + 1) len (fun _ => at_) (len + 1) c
            if c'.held then putIssued k ch c c' s
            else gatherLoop k ch fuel (putIssued k ch c { c' with pos := { c'.pos with pc := p.pc, row := p.row + 1, done := 0 } } s))
          (fun f s => helixFault k ch f p.p 0 0 s) s) s

def hGather (k ch : Nat) (s : State) : State := gatherLoop k ch 8194 s

/-- R291: ZERO appends zero bytes while credit lasts. -/
def hZero (k ch : Nat) (s : State) : State :=
  hRun 0x0B k ch (fun c w s =>
    let n := min (bits w 31 12 + 1 - c.pos.done) (c.window - c.pos.p)
    let s := countN (Reg.HLX_CNT_BYTES k) n (ringPut k c c.pos.p (List.replicate n 0) s)
    let p := { c.pos with p := c.pos.p + n, done := c.pos.done + n }
    let c := if p.done = bits w 31 12 + 1 then { c with held := false, pos := { p with pc := p.pc + 1, done := 0 } }
      else { c with held := true, pos := p }
    setChan k ch c.advanceTail s) s

/-- R286: TAKE accepts slots that lie within the windows. -/
def hTake (k ch : Nat) (s : State) : State :=
  hRun 0x0C k ch (fun c w s =>
    let n := min (bits w 31 8 - c.pos.done) (c.window / max c.slotBytes 1 - c.accepted)
    let c := { c with accepted := c.accepted + n }
    if c.pos.done + n = bits w 31 8 then setChan k ch { c with taking := false, pos := { c.pos with pc := c.pos.pc + 1, done := 0 } } s
    else setChan k ch { c with taking := true, pos := { c.pos with done := c.pos.done + n } } s) s

/-- R298: BARW waits for the barrier generation. -/
def hBarw (k ch : Nat) (s : State) : State :=
  hRun 0x10 k ch (fun c w s =>
    if ((groveOf s k).barGen + 2 ^ 32 - c.g0) % 2 ^ 32 < bits w 39 8 then setChan k ch { c with barw := true } s
    else setChan k ch { c with barw := false, pos := { c.pos with pc := c.pos.pc + 1 } } s) s

/-- R293: HEND ends the program; its last transfers may still be on their way. -/
def hHend (k ch : Nat) (s : State) : State := hRun 0x3F k ch (fun c _ s => setChan k ch { c with ended := true } s) s

def execLoop (k ch : Nat) (s : State) : Host.Outcome State Fault Refusal := whileOn (hLoop k ch) s
def execEndl (k ch : Nat) (s : State) : Host.Outcome State Fault Refusal := whileOn (hEndl k ch) s
def execStride (k ch : Nat) (s : State) : Host.Outcome State Fault Refusal := whileOn (hStride k ch) s
def execLda (k ch : Nat) (s : State) : Host.Outcome State Fault Refusal := whileOn (hLda k ch) s
def execAdda (k ch : Nat) (s : State) : Host.Outcome State Fault Refusal := whileOn (hAdda k ch) s
def execRead (k ch : Nat) (s : State) : Host.Outcome State Fault Refusal := whileOn (hRead k ch) s
def execRead2 (k ch : Nat) (s : State) : Host.Outcome State Fault Refusal := whileOn (hRead2 k ch) s
def execGather (k ch : Nat) (s : State) : Host.Outcome State Fault Refusal := whileOn (hGather k ch) s
def execZero (k ch : Nat) (s : State) : Host.Outcome State Fault Refusal := whileOn (hZero k ch) s
def execTake (k ch : Nat) (s : State) : Host.Outcome State Fault Refusal := whileOn (hTake k ch) s
def execBarw (k ch : Nat) (s : State) : Host.Outcome State Fault Refusal := whileOn (hBarw k ch) s
def execHend (k ch : Nat) (s : State) : Host.Outcome State Fault Refusal := whileOn (hHend k ch) s

/-! ### Requests (R282, R301, R302) -/

/-- Waits of a channel's requests on translation faults. -/
def chanFaults (s : State) (k ch : Nat) : List Waiting :=
  s.io.waits.filter fun x => x.need.isFault && (match x.work with
    | .helix g c _ => g == k && c == ch
    | _ => false)

/-- R282: the data of a request comes into the ring. -/
def requestArrived (k ch : Nat) (r : HReq) (l : List Byte) (s : State) : State :=
  let c := chanOf s k ch
  let s := countN (Reg.HLX_CNT_BYTES k) l.length (ringPut k c r.pos.p l s)
  setChan k ch ({ c with reqs := c.reqs.erase r } : HChan).advanceTail s

/-- R282: the access of a request; a failure ends the context. -/
def requestRun (k ch : Nat) (r : HReq) (s : State) : State :=
  let w : Work := .helix k ch r.pos.p
  runAcc w (ctxRead w ((groveOf s k).ctx.getD 0) r.addr r.bytes) (fun l s => requestArrived k ch r l s)
    (fun f s => helixFault k ch f (chanOf s k ch).resume.p 0 0 s) s

/-- R282: data of a channel's `j`-th outstanding request arrives. -/
def requestArrive (k ch j : Nat) (s : State) : State :=
  let c := chanOf s k ch
  match c.reqs[j]? with
  | some r => if c.running && !c.parked && c.halted.isNone && !isWaiting s (.helix k ch r.pos.p) then requestRun k ch r s else s
  | none => s

def execHelixRequestArrive (k ch j : Nat) (s : State) : Host.Outcome State Fault Refusal := whileOn (requestArrive k ch j) s

/-- R302: a request has met a translation fault: the channel stops issuing and, once its other requests have arrived or faulted,
halts at its resume point. -/
def faultHalt (k ch : Nat) (s : State) : State :=
  let c := chanOf s k ch
  let fs := chanFaults s k ch
  match fs with
  | [] => s
  | _ :: _ =>
    if !c.running || c.halted.isSome then s
    else
      let waiting := fun (r : HReq) => fs.any fun x => x.work == .helix k ch r.pos.p
      let va := ((c.reqs.filter waiting).map fun r => r.addr).headD (c.pos.address 0)
      setChan k ch { c with stopping := true, parked := c.reqs.all waiting, faultVa := va } s

def execHelixFaultHalt (k ch : Nat) (s : State) : Host.Outcome State Fault Refusal := whileOn (faultHalt k ch) s

/-- R301, R302: every fault of a stopped channel is resolved: it resumes from its resume point. -/
def chanResume (k ch : Nat) (s : State) : State :=
  let c := chanOf s k ch
  let s := s.setIo { s.io with
    waits := s.io.waits.filter fun x => match x.work with
      | .helix g d _ => !(g == k && d == ch)
      | _ => true
    arrived := s.io.arrived.filter fun x => match x.work with
      | .helix g d _ => !(g == k && d == ch)
      | _ => true }
  countN (Reg.HLX_CNT_REISSUE k) (c.pos.p - c.resume.p)
    (setChan k ch { c.stop with stopping := false, parked := false, faultVa := 0 } s)

/-- R329: an answer has come for a channel's access at stream position `p`. -/
def helixGoOn (k ch p : Nat) (s : State) : State :=
  let c := chanOf s k ch
  if s.io.failed.any fun x => x.1 == .helix k ch p then
    match c.reqs.find? fun r => r.pos.p == p with
    | some r => requestRun k ch r s
    | none => gatherLoop k ch 1 (setChan k ch { c with stopping := false, parked := false } s)
  else if c.stopping then (if (chanFaults s k ch).isEmpty then chanResume k ch s else s)
  else match c.reqs.find? fun r => r.pos.p == p with
    | some r => requestRun k ch r s
    | none => hGather k ch s

/-! ### External producers and the end (R286, R293) -/

def execExtProducerWrite (ctx ring j : Nat) (s : State) : Host.Outcome State Fault Refusal := whileOn (extWrite ctx ring j) s

/-- A token of a Grove is released (R262). -/
def releaseToken (k : Nat) (t : Option Nat) (s : State) : State :=
  match t with
  | some t => updGrove k (fun g => { g with tokens := g.tokens.filter fun x => x.1 != t }) s
  | none => s

/-- R293: the program has ended and every transfer has arrived: the last slot is filled, the token is released, the ring ID unbound. -/
def programEnd (k ch : Nat) (s : State) : State :=
  let c := chanOf s k ch
  if !c.running || !c.ended || c.token.isNone || !c.reqs.isEmpty || (c.ext && c.tail < c.accepted) || c.halted.isSome then s
  else
    let e := c.pos.p
    let top := roundUp e (max c.slotBytes 1)
    let w := ((Fmt.ofCode c.fmtCode).map Fmt.width).getD 8
    let s := ringPut k c e (List.replicate (top - e) 0) s
    let s := setChan k ch { c with tail := top / max c.slotBytes 1, token := none, taking := false, held := false, got := [] } s
    let s := releaseToken k c.token s
    let s := if c.ext then ringUnbind ((groveOf s k).ctx.getD 0) c.ringId s else s
    if c.escChan.isSome && c.cons == e && !c.escs.isEmpty then
      helixFault k ch .illegal (e - 1) 0 (e * 8 / w / c.blockCodes % 256) s
    else consume k ch 0 s

def execHelixProgramEnd (k ch : Nat) (s : State) : Host.Outcome State Fault Refusal := whileOn (programEnd k ch) s

end Sys2Proof.Machine
end

