-- ==== Sys2Proof/Machine/Dma.lean ====
section
/-!
DEFINITION. The bulk and grove DMA engines: channels (R354 to R359), transfers (R343 to R348), completion (R347 to R353),
and the disable of a grove engine (R362).
-/

namespace Sys2Proof.Machine

/-! ### Engines -/

/-- A DMA engine: that of a bulk channel, or that of a Grove. -/
inductive DmaEng where
  | bulk (n : Nat)
  | grove (k : Nat)
  deriving DecidableEq, Repr

def DmaEng.work : DmaEng → Work
  | .bulk n => .bulk n
  | .grove k => .gdma k

/-- The context that an engine acts for. -/
def DmaEng.ctx (s : State) : DmaEng → Nat
  | .bulk n => (bulkOf s n).ctx.getD 0
  | .grove k => (groveOf s k).ctx.getD 0

/-- The descriptor that an engine holds. -/
def DmaEng.desc (s : State) : DmaEng → Option Desc
  | .bulk n => (bulkOf s n).held
  | .grove k => match (gdmaOf s k).queue with
    | d :: _ => if d.started then some d else none
    | [] => none

def DmaEng.put (d : Desc) (s : State) : DmaEng → State
  | .bulk n => setBulk n { bulkOf s n with held := some d } s
  | .grove k => setGdma k { gdmaOf s k with queue := d :: (gdmaOf s k).queue.drop 1 } s

/-- The Grove of a grove engine. -/
def DmaEng.groveNum : DmaEng → Nat
  | .bulk _ => 0
  | .grove k => k

/-- Bytes written are counted. -/
def DmaEng.countBytes (n : Nat) (s : State) : DmaEng → State
  | .bulk ch => evt 130 0x60 ch n (bulkOf s ch).ctx (countN Reg.DMA_CNT_BYTES n s)
  | .grove k => countN (Reg.GDMA_CNT_BYTES k) n s

/-! ### Moving bytes (R343, R345, R346, R364) -/

/-- R184: a read of a Grove's store by an engine. -/
def gsReadAcc (k off n : Nat) : Acc (List Byte) := do
  let (l, bad) ← fun s => .ok (gsRead k off n s)
  accCheck (!bad) .ecc
  pure l

/-- Source bytes of a descriptor. -/
def dmaSource (e : DmaEng) (ctx : Nat) (d : Desc) (i n : Nat) : Acc (List Byte) :=
  if d.op = 1 then pure []
  else if d.srcGs then gsReadAcc e.groveNum (d.src + i) n
  else ctxRead e.work ctx (d.src + i) n

/-- Destination bytes of a descriptor, `i` bytes from its start. -/
def dmaStore (e : DmaEng) (ctx : Nat) (d : Desc) (i : Nat) (l : List Byte) : Acc Unit :=
  if d.dstRing then accDo fun s => ringGive ctx (d.dst % 2 ^ 16) (ringIdOf s ctx (d.dst % 2 ^ 16)).next l s
  else if d.dstGs then accDo (gsWrite e.groveNum (d.dst + i) l)
  else ctxWrite e.work ctx (d.dst + i) l

/-- R345: the elements of one destination sector become one operation, or one for each element on another device.
The answer is a failure of R176 found at once. -/
def dmaMemop (e : DmaEng) (ctx : Nat) (d : Desc) (i : Nat) (l : List Byte) : Acc (Option Flt) := do
  let x ← if d.dstGs then pure (Place.loc (gsBase e.groveNum + d.dst + i)) else xlate e.work ctx (d.dst + i) true
  let w := (memopWidth d.memCode).getD 1
  let ex ← accAsk (ctxExact · ctx)
  let part ← accAsk fun s => (getCtx s ctx).part
  let elem := fun (o j : Nat) => (o + j * w, slice (j * w) w l)
  let base : MemReq := { who := .dma e.work, ctx := ctx, code := d.memCode, exact := ex, part := part, group := d.memGroup,
                         contrib := d.memContrib, expected := d.memExpected, elems := [] }
  let req := fun (es : List (Nat × List Byte)) => { base with elems := es }
  match x with
  | .host .. => pure (some .perm)
  | .loc o => do
    accDo (memopIssue (req ((List.range (l.length / w)).map (elem o))))
    pure none
  | .glob dev o =>
    fun s =>
    if s.fab.devId == some dev then
      if sharedRange s o l.length then .ok (none, memopIssue (req ((List.range (l.length / w)).map (elem o))) s)
      else .error (.fail .perm (count Reg.XLT_CNT_REMOTE_REFUSED s))
    else if !reachable s dev then .error (.fail .fabric s)
    else .ok (none, (List.range (l.length / w)).foldl (fun s j => memopRemote dev (req [elem o j]) s) s)

/-- R348: bytes of the next request of a transfer: within one page of each side, one sector of a device source,
one record, or one destination sector of operations. -/
def Desc.chunk (d : Desc) : Nat :=
  let left := d.length - d.bytesDone
  let page := fun (a : Nat) => 4096 - (a + d.bytesDone) % 4096
  if d.op = 3 then d.trRec
  else if d.op = 2 then min left (max ((memopWidth d.memCode).getD 1) (64 - (d.dst + d.bytesDone) % 64))
  else
    let dst := if d.dstRing then left else page d.dst
    let src := if d.op = 1 then left else if d.srcGs || bit d.src 56 then 64 - (d.src + d.bytesDone) % 64 else page d.src
    min left (min dst src)

/-- One request of a transfer; the descriptor afterwards, and the bytes written. -/
def dmaChunk (e : DmaEng) (ctx : Nat) (d : Desc) : Acc (Desc × Nat) := do
  let i := d.bytesDone
  let n := d.chunk
  let src ← dmaSource e ctx d i n
  let out := d.transform i n src
  let crc := crcStep d.crcSel d.crc (if d.crcSide then out else src)
  if d.op = 2 then do
    let r ← dmaMemop e ctx d i src
    pure (match r with
      | some f => ({ d with out := some (stFault, f.code) }, 0)
      | none => ({ d with bytesDone := i + n, crc := crc }, n))
  else do
    dmaStore e ctx d i out
    pure ({ d with bytesDone := i + n, crc := crc }, n)

/-! ### Completion (R347 to R353) -/

/-- R347: the engine's write of a word of its descriptor. -/
def dmaWordWrite (e : DmaEng) (ctx : Nat) (d : Desc) (i v : Nat) : Acc Unit :=
  match e with
  | .bulk _ => ctxWrite e.work ctx (d.at_ + 8 * i) (leBytes 8 v)
  | .grove k => accDo (gsWrite k (d.at_ + 8 * i) (leBytes 8 v))

/-- R364: the CRC of a descriptor that moved whole. -/
def Desc.crcValue (d : Desc) : Nat := if d.crcSel = 0 then d.word 6 else crcDone d.crcSel d.crc

/-- R347, R353: CRC and status are written, the chain slot is acted on, and a refused chain is marked in the status.
The answers: the failure of the write-back, and whether a chain action was due and refused. -/
def dmaEndAcc (e : DmaEng) (ctx : Nat) (d : Desc) (st fl : Nat) : Acc (Option Flt × Bool × Bool) := do
  let r ← accTry e.work (do
    if st == stOk && d.crcSel != 0 then dmaWordWrite e ctx d 6 d.crcValue
    dmaWordWrite e ctx d 7 (d.statusWord st fl false))
  let bad := match r with
    | .error f => some f
    | .ok _ => none
  if !chainFires d.chainCond st then pure (bad, false, false)
  else
    match ← accTry e.work (chainAcc e.work ctx d.chainAddr) with
    | .ok (due, false) => pure (bad, due, false)
    | _ => do
      if bad.isNone then
        let _ ← accTry e.work (dmaWordWrite e ctx d 7 (d.statusWord st fl true))
      pure (bad, true, true)

/-- Counts of a completed descriptor. -/
def DmaEng.countEnd (st : Nat) (due refused : Bool) (s : State) : DmaEng → State
  | .bulk _ =>
    let s := count Reg.DMA_CNT_DESC s
    let s := if st = stDescBad then count Reg.DMA_CNT_DESC_BAD s else s
    if refused then count Reg.DMA_CNT_CHAIN_REFUSED s else if due then count Reg.DMA_CNT_CHAIN s else s
  | .grove k =>
    let s := count (Reg.GDMA_CNT_DESC k) s
    let s := if st = stDescBad then count (Reg.GDMA_CNT_DESC_BAD k) s else s
    if refused then count (Reg.GDMA_CNT_CHAIN_REFUSED k) s else s

/-- R354: the enable of a channel is carried out. -/
def bulkEnable (c : Cmd) (s : State) : State :=
  conclude c stOk 0 0 (setBulk (bits (par c 0) 5 0)
    { fn := { state := .enabled }, ctx := some c.ctx, base := par c 1, ringLog := bits (par c 0) 9 6, tail := bits (par c 2) 15 0 } s)

/-- R358, R43: a channel has stopped. -/
def bulkStopped (n : Nat) (s : State) : State :=
  let b := bulkOf s n
  let s := concludeDisables b.fn.disables (setBulk n {} s)
  match beginFresh b.fn.deferred s with
  | (some c, s) => bulkEnable c s
  | (none, s) => s

/-- R356, R358: a channel is done with the entry at its head; a stop that waited for the boundary is carried out. -/
def bulkNext (n : Nat) (s : State) : State :=
  let b := bulkOf s n
  let s := setBulk n { b with held := none, head := (b.head + 1) % b.size } s
  if b.fn.state == .draining || b.fn.state == .drainingDeferred then bulkStopped n s else s

/-- R352, R361: a grove engine is done with its head descriptor: the token is released and a ring ID has no producer. -/
def groveNext (k : Nat) (d : Desc) (s : State) : State :=
  let ctx := (groveOf s k).ctx.getD 0
  let s := setGdma k { gdmaOf s k with queue := (gdmaOf s k).queue.drop 1 } s
  let s := if d.dstRing then setRingId { ringIdOf s ctx (d.dst % 2 ^ 16) with producer := none } s else s
  releaseToken k d.token s

/-- A CONTAINED fault of a context that no command raised. -/
def ctxFault (block addr ctx : Nat) (f : Flt) (s : State) : State :=
  if (getCtx s ctx).tearable then tear ctx (some f) .faulted (emit 0x09 129 ctx f.code block addr s) else s

/-- R349: the notify record. -/
def dmaNotify (ctx : Nat) (d : Desc) (st fl : Nat) (s : State) : State :=
  if d.notify then pushRecord (plainRecord s ctx d.tag st fl (if st == stOk then d.crcValue else d.word 6) 0x20) s else s

/-- R345 to R359: a descriptor's end, its write-back and chain done. -/
def dmaEnded (e : DmaEng) (ctx : Nat) (d : Desc) (st fl : Nat) (r : Option Flt × Bool × Bool) (s : State) : State :=
  let s := dmaNotify ctx d st fl (DmaEng.countEnd st r.2.1 r.2.2 s e)
  let s := match e, r.1 with
    | .bulk n, some f =>
      pushRecord (plainRecord s ctx 0xFFFFFFFF stDescBad f.code ((bulkOf s n).head + n * 2 ^ 16 + 2 ^ 32) 0x20) s
    | _, _ => s
  let s := match e with
    | .bulk n => bulkNext n s
    | .grove k => groveNext k d s
  if st = stFault then
    match Flt.ofCode fl, e with
    | some f, .grove k => groveFault 0x00 0 k f s
    | some f, .bulk _ => ctxFault 0x00 0 ctx f s
    | none, _ => s
  else s

/-- Whether the operations or ring bytes of a descriptor are still on their way. -/
def dmaPending (s : State) (e : DmaEng) (ctx : Nat) (d : Desc) : Bool :=
  memopOpen s (fun m => m.who == .dma e.work) || (d.dstRing && !(ringIdOf s ctx (d.dst % 2 ^ 16)).held.isEmpty)

/-- The end of a descriptor whose status is decided. -/
def dmaEnd (e : DmaEng) (d : Desc) (s : State) : State :=
  let ctx := e.ctx s
  let (st, fl) := d.out.getD (stOk, 0)
  if dmaPending s e ctx d then s
  else runAcc e.work (dmaEndAcc e ctx d st fl) (dmaEnded e ctx d st fl) (fun f => dmaEnded e ctx d st fl (some f, false, false)) s

/-- R343, R364: the CRC that follows the data. -/
def dmaCrcStore (e : DmaEng) (ctx : Nat) (d : Desc) : Acc Unit :=
  if d.crcStore then dmaStore e ctx d d.length (leBytes (crcBytes d.crcSel) (crcDone d.crcSel d.crc)) else pure ()

/-- R343, R348: the transfer goes on request by request to its end, or until it waits. -/
def dmaMove (e : DmaEng) : Nat → State → State
  | 0, s => s
  | fuel + 1, s =>
    match e.desc s with
    | none => s
    | some d =>
      let ctx := e.ctx s
      let fail := fun (f : Flt) (s : State) =>
        let d := { d with out := some (stDescBad, f.code) }
        dmaEnd e d (DmaEng.put d s e)
      if d.out.isSome || d.moved then dmaEnd e d s
      else if d.length ≤ d.bytesDone then
        runAcc e.work (dmaCrcStore e ctx d) (fun _ s =>
          let d := { d with moved := true }
          dmaEnd e d (DmaEng.put d (DmaEng.countBytes d.storeBytes s e) e)) fail s
      else
        runAcc e.work (dmaChunk e ctx d) (fun r s => dmaMove e fuel (DmaEng.put r.1 (DmaEng.countBytes r.2 s e) e)) fail s

/-- A descriptor's transfer and its end. -/
def dmaRun (e : DmaEng) (s : State) : State := dmaMove e (2 ^ 28 + 2) s

/-! ### Bulk channels (R354 to R359) -/

/-- R355: DMA_SUBMIT is refused whole. -/
def submitBad (c : Cmd) : Bool :=
  bits (par c 0) 5 0 == 63 || decide (12 < bits (par c 0) 9 6) || bits (par c 0) 63 10 != 0 || par c 1 % 64 != 0 ||
  decide (2 ^ 57 ≤ par c 1) || bits (par c 2) 63 16 != 0 || decide (16 * 2 ^ bits (par c 0) 9 6 ≤ par c 2)

/-- R354, R355: DMA_SUBMIT. -/
def dmaSubmit (c : Cmd) (s : State) : State :=
  let s := startCmd c s
  let n := bits (par c 0) 5 0
  let b := bulkOf s n
  if submitBad c then badPacket c 0 s
  else if b.fn.state != .disabled && b.ctx != some c.ctx then complete c stNoResource 0 0 s
  else match fnEnable b.fn c with
    | (_, .carryOut) => bulkEnable c s
    | (_, .okNow) => completeOk c 0 s
    | (fn, .deferred) => complete c stDeferred 0 0 (setBulk n { b with fn := fn } s)

/-- R358: DMA_STOP. -/
def dmaStop (c : Cmd) (s : State) : State :=
  let s := startCmd c s
  let n := bits (par c 0) 5 0
  let b := bulkOf s n
  if bits (par c 0) 63 6 ≠ 0 then badPacket c 0 s
  else if b.fn.state != .disabled && b.ctx != some c.ctx then complete c stNoResource 0 0 s
  else match fnDisable b.fn c with
    | (_, .okNow) => completeOk c 0 s
    | (fn, .start) =>
      let s := setBulk n { b with fn := fn } s
      if b.held.isNone && !isWaiting s (.bulk n) then bulkStopped n s else s
    | (fn, .joins cs) => cancelDeferred cs (setBulk n { b with fn := fn } s)

/-- R356: a host write of a channel's tail. -/
def dmaTailWrite (n value : Nat) (s : State) : State :=
  let b := bulkOf s n
  if b.fn.state != .enabled then s else setBulk n { b with tail := value % 2 ^ 16 % b.size } s

/-- R357: a ring entry whose fetch fails. -/
def bulkFetchFailed (n : Nat) (f : Flt) (s : State) : State :=
  let b := bulkOf s n
  bulkNext n (pushRecord (plainRecord s (b.ctx.getD 0) 0xFFFFFFFF stDescBad f.code (b.head + n * 2 ^ 16) 0x20) s)

/-- R344, R356: a channel fetches the entry at its head and starts it. -/
def bulkStart (n : Nat) (s : State) : State :=
  let b := bulkOf s n
  if !accepting s || b.fn.state == .disabled || b.held.isSome || b.head == b.tail ||
      (b.fn.state != .enabled && !isWaiting s (.bulk n)) then s
  else
    let at_ := b.base + 64 * b.head
    runAcc (.bulk n) (ctxRead (.bulk n) (b.ctx.getD 0) at_ 64)
      (fun l s =>
        let d := descOf at_ l none
        let d := { d with started := true, crc := crcInit d.crcSel, out := if d.malformed false then some (stDescBad, Flt.illegal.code) else none }
        setBulk n { b with held := some d } s)
      (bulkFetchFailed n) s

/-- R351: the held descriptor's transfer ends. -/
def bulkComplete (n : Nat) (s : State) : State := if (bulkOf s n).held.isSome then dmaRun (.bulk n) s else s

def execDmaSubmit (c : Cmd) (s : State) : Host.Outcome State Fault Refusal := whileOn (dmaSubmit c) s
def execDmaStop (c : Cmd) (s : State) : Host.Outcome State Fault Refusal := whileOn (dmaStop c) s
def execDmaChTailWrite (n value : Nat) (s : State) : Host.Outcome State Fault Refusal := whileServed (Reg.DMA_CH_TAIL n) (dmaTailWrite n value) s
def execBulkDescStart (n : Nat) (s : State) : Host.Outcome State Fault Refusal := whileOn (bulkStart n) s
def execBulkDescComplete (n : Nat) (s : State) : Host.Outcome State Fault Refusal := whileOn (bulkComplete n) s

/-! ### Grove engines (R360 to R363) -/

/-- R360, R361: a grove engine starts its head descriptor; for a ring it must be the ID's producer. -/
def groveStart (k : Nat) (s : State) : State :=
  let g := gdmaOf s k
  match g.queue with
  | [] => s
  | d :: rest =>
    let ctx := (groveOf s k).ctx.getD 0
    let id := d.dst % 2 ^ 16
    if g.disabled || d.started || !engineOn s k || (d.dstRing && !ringIdFree s ctx id (.gdma k)) then s
    else
      let s := if d.dstRing then ringClaim ctx id (.gdma k) s else s
      setGdma k { g with queue := { d with started := true, crc := crcInit d.crcSel } :: rest } s

/-- R352: the running descriptor of a grove engine ends. -/
def groveComplete (k : Nat) (s : State) : State := if engineOn s k && !(gdmaOf s k).disabled then dmaRun (.grove k) s else s

/-- R362: a host write that sets the disable bit. The engine's byte count is undefined until the next enable. -/
def gdmaDisable (k : Nat) (s : State) : State :=
  if (groveOf s k).ctx.isSome || s.sched.saving.contains k then count (Reg.GDMA_CNT_DISABLE_REFUSED k) s
  else
    let (n, s) := drawFree s
    regPut (Reg.GDMA_CNT_BYTES k) (Config.undef n).toNat
      (regField (Reg.GDMA_CTL k) 0 0 1 (clearWork (.gdma k) (setGdma k { disabled := true } s)))

/-- R362: a write that clears it: the engine is enabled with an empty queue. -/
def gdmaEnable (k : Nat) (s : State) : State :=
  if (gdmaOf s k).disabled then regField (Reg.GDMA_CTL k) 0 0 0 (setGdma k {} s) else s

def execGroveDescStart (k : Nat) (s : State) : Host.Outcome State Fault Refusal := whileOn (groveStart k) s
def execGroveDescComplete (k : Nat) (s : State) : Host.Outcome State Fault Refusal := whileOn (groveComplete k) s
def execGdmaDisable (k : Nat) (s : State) : Host.Outcome State Fault Refusal := whileServed (Reg.GDMA_CTL k) (gdmaDisable k) s
def execGdmaEnable (k : Nat) (s : State) : Host.Outcome State Fault Refusal := whileServed (Reg.GDMA_CTL k) (gdmaEnable k) s

/-- R345, R348: the outcome of one of a descriptor's operations: a failure decides the descriptor's status. -/
def dmaMemopResult (w : Work) (remote : Bool) (r : Except Flt Nat) (s : State) : State :=
  let e := match w with
    | .bulk n => some (DmaEng.bulk n)
    | .gdma k => some (DmaEng.grove k)
    | _ => none
  match e, r with
  | some e, .error f =>
    match e.desc s with
    | some d =>
      let st := if f == .ecc || f == .fabric || f == .bus || (remote && f == .perm) then stDescBad else stFault
      if d.out.isSome then s else DmaEng.put { d with out := some (st, f.code) } s e
    | none => s
  | _, _ => s

end Sys2Proof.Machine
end

