-- ==== Sys2Proof/Machine/Vector.lean ====
section
/-!
DEFINITION. The vector engine and the reduction unit: chain descriptors and their checks (R228 to R233, R240, R241),
reading and writing rows (R234 to R236), the reduction unit's slots (R242 to R245), and running a chain (R231, R232, R248).
-/

namespace Sys2Proof.Machine

/-! ### The descriptor (R228 to R230, R240) -/

def VChain.w (c : VChain) (i : Nat) : Nat := c.desc.getD i 0
def VChain.src (c : VChain) : Nat := bits (c.w 0) 1 0
def VChain.srcChan (c : VChain) : Nat := bits (c.w 0) 4 2
def VChain.srcType (c : VChain) : Nat := bits (c.w 0) 6 5
def VChain.srcFmt (c : VChain) : Option Fmt := if c.srcType = 0 then Fmt.ofCode (bits (c.w 0) 10 7) else none
def VChain.bf (c : VChain) : Bool := bit (c.w 0) 31
def VChain.len (c : VChain) : Nat := bits (c.w 0) 43 32 + 1
def VChain.count (c : VChain) : Nat := bits (c.w 0) 59 44 + 1
def VChain.stageCount (c : VChain) : Nat := bits (c.w 0) 63 60
def VChain.srcAddr (c : VChain) : Nat := bits (c.w 1) 21 0
def VChain.srcStride (c : VChain) : Nat := bits (c.w 1) 47 32
def VChain.sink (c : VChain) : Nat := bits (c.w 2) 1 0
/-- The chain writes the grove store. -/
def VChain.stores (c : VChain) : Bool := c.sink != 1
def VChain.dstType (c : VChain) : Nat := bits (c.w 2) 3 2
def VChain.dstFmt (c : VChain) : Option Fmt := if c.stores && c.dstType == 0 then Fmt.ofCode (bits (c.w 2) 7 4) else none
def VChain.dstAddr (c : VChain) : Nat := bits (c.w 2) 53 32
def VChain.dstStride (c : VChain) : Nat := bits (c.w 3) 15 0
def VChain.escAddr (c : VChain) : Nat := bits (c.w 3) 37 16
def VChain.outBlock (c : VChain) : Nat := bits (c.w 3) 45 38
def VChain.tensor (c : VChain) : Nat := bits (c.w 4) 31 0
def VChain.width (c : VChain) : Nat := bits (c.w 4) 63 32
def VChain.row0 (c : VChain) : Nat := bits (c.w 5) 31 0
def VChain.col0 (c : VChain) : Nat := bits (c.w 5) 63 32
def VChain.opTable (c : VChain) : Nat := bits (c.w 6) 21 0
def VChain.redFn (c : VChain) : Nat := bits (c.w 7) 2 0
def VChain.perRow (c : VChain) : Bool := bit (c.w 7) 3
def VChain.slot (c : VChain) : Nat := bits (c.w 7) 5 4
def VChain.clear (c : VChain) : Bool := bit (c.w 7) 6
def VChain.exports (c : VChain) : Bool := bit (c.w 7) 7
def VChain.merge (c : VChain) : Bool := bit (c.w 7) 8
def VChain.k (c : VChain) : Nat := bits (c.w 7) 15 9
def VChain.sumReg (c : VChain) : Nat := bits (c.w 7) 19 16
def VChain.sumEn (c : VChain) : Bool := bit (c.w 7) 20
def VChain.thrIndex (c : VChain) : Nat := bits (c.w 7) 24 21
def VChain.redAddr (c : VChain) : Nat := bits (c.w 7) 53 32
/-- The slot's state is used. -/
def VChain.usesSlot (c : VChain) : Bool := c.redFn != 0 && !c.perRow

/-- R228: stage word `i`. -/
def VChain.stage (c : VChain) (i : Nat) : Nat := bits (c.w (8 + i / 2)) (32 * (i % 2) + 31) (32 * (i % 2))
def VChain.stages (c : VChain) : List Nat := (List.range (min c.stageCount 8)).map c.stage
/-- R229: fields of a stage word. -/
def stOp (w : Nat) : Nat := bits w 5 0
def stB (w : Nat) : Nat := bits w 9 6
def stC (w : Nat) : Nat := bits w 13 10
def stParam (w : Nat) : Int := sext (bits w 21 14) 8

/-- R230: fields of an operand table entry. -/
def enKind (e : Nat) : Nat := bits e 1 0
def enType (e : Nat) : Nat := bits e 3 2
def enAddr (e : Nat) : Nat := bits e 25 4
def enStride (e : Nat) : Nat := bits e 47 32

/-- Bytes of `n` values of a type code, narrow ones of format `f`. -/
def rowBytes (ty : Nat) (f : Option Fmt) (n : Nat) : Nat :=
  match ty with
  | 0 => (n * ((f.map Fmt.width).getD 8) + 7) / 8
  | 1 => 2 * n
  | _ => 4 * n

def VChain.srcBytes (c : VChain) : Nat := rowBytes c.srcType c.srcFmt c.len
def VChain.dstBytes (c : VChain) : Nat := rowBytes c.dstType c.dstFmt c.len

/-- R242: bytes of a per-row result. -/
def VChain.redBytes (c : VChain) : Nat :=
  match c.redFn with
  | 4 | 5 => 8
  | 6 => 8 * c.k
  | _ => 4

/-- End of the grove store. -/
def gsEnd : Nat := 0x400000

/-- The operand table is read. -/
def VChain.usesTable (c : VChain) : Bool :=
  c.redFn == 7 || c.stages.any fun w => (opUses (stOp w)).any fun u => u.1 != .none

/-! ### The checks at issue (R229 to R233, R240, R241) -/

/-- R228, R229: reserved bits and values. -/
def chainReserved (c : VChain) : Bool :=
  bits (c.w 1) 31 22 != 0 || bits (c.w 1) 63 48 != 0 || bits (c.w 2) 31 30 != 0 || bits (c.w 2) 63 54 != 0 || bits (c.w 3) 63 46 != 0 ||
  bits (c.w 6) 63 22 != 0 || bits (c.w 7) 31 25 != 0 || bits (c.w 7) 63 54 != 0 || ((List.range 4).any fun i => c.w (12 + i) != 0) ||
  c.src == 3 || c.sink == 3 || c.dstType == 3 || (RMode.ofCode (bits (c.w 2) 29 28)).isNone || decide (8 < c.stageCount) ||
  c.stages.any fun w => bits w 31 22 != 0 || (opUses (stOp w)).isNone

/-- R230: bytes of `n` values of an entry's etype. -/
def entryBytes (e n : Nat) : Nat :=
  match enType e with
  | 0 => 2 * n
  | 1 => 4 * n
  | _ => (n + 7) / 8

/-- R230, R237: an operand index is usable as its operation uses it. -/
def entryOk (c : VChain) (i : Nat) (u : OpUse) : Bool :=
  let e := c.table.getD i 0
  let size := entryBytes e (if enKind e = 2 then c.count else c.len)
  let rows := if enKind e = 3 then (c.count - 1) * enStride e else 0
  if u = .none then i == 0
  else if enKind e = 0 then u != .mask && bits e 31 2 == 0
  else
    u != .scalar && enType e != 3 && ((enType e == 2) == (u == .mask)) && bits e 31 26 == 0 &&
      bits e 63 (if enKind e = 3 then 48 else 32) == 0 && decide (enAddr e + rows + size ≤ gsEnd)

/-- R229, R230: the operands of the stages. -/
def operandsOk (c : VChain) : Bool :=
  c.stages.all fun w => match opUses (stOp w) with
    | some (b, d) => entryOk c (stB w) b && entryOk c (stC w) d
    | none => false

/-- R233: source and destination fields that disagree with their types. -/
def chainTypesBad (c : VChain) : Bool :=
  (c.srcType == 0 && !(c.srcFmt.any Fmt.forActivations)) ||
  (c.srcType != 0 && bits (c.w 0) 30 7 != 0) ||
  (c.stores && c.dstType == 0 && !(c.dstFmt.any Fmt.forActivations)) ||
  (c.stores && c.dstType != 0 && bits (c.w 2) 27 4 != 0) ||
  ((c.srcFmt.bind Fmt.escape).isSome && c.src != 2) ||
  (c.sink == 1 && (c.stageCount != 0 || ((List.range 8).any fun i => c.stage i != 0) || bits (c.w 2) 63 2 != 0 || c.w 3 != 0)) ||
  (c.src == 1 && c.srcType != 2)

/-- R233: a grove store or scale entry range passes its end, or an escape group's positions do not fit. -/
def chainRangesBad (c : VChain) : Bool :=
  let esc := (c.dstFmt.bind Fmt.escape).isSome
  (c.src == 0 && !c.merge && decide (gsEnd < c.srcAddr + (c.count - 1) * c.srcStride + c.srcBytes)) ||
  (c.stores && decide (gsEnd < c.dstAddr + (c.count - 1) * c.dstStride + c.dstBytes)) ||
  (esc && (decide (65536 < c.len * c.count) || decide (gsEnd < c.escAddr + escGroupBytes (c.len * c.count)))) ||
  (c.srcType == 0 && bit (c.w 0) 18 && decide (4096 < bits (c.w 0) 30 19 + c.len)) ||
  (c.dstFmt.isSome && bit (c.w 2) 15 && decide (4096 < bits (c.w 2) 27 16 + c.len)) ||
  (c.usesTable && decide (gsEnd < c.opTable + 128))

/-- R241: what a slot will hold when the chains issued before have run. -/
def slotAhead (g : Grove) (slot : Nat) : Nat × Nat :=
  g.chains.foldl (fun x c => if c.usesSlot && c.slot == slot then (c.redFn, c.k) else x)
    (let r := g.slots.getD slot {}; (r.fn, r.k))

/-- R240, R241: the reduction word; `heads` are the first words of the images to merge. -/
def chainRedBad (g : Grove) (c : VChain) (heads : List Nat) : Bool :=
  let ahead := slotAhead g c.slot
  if c.redFn = 0 then c.w 7 != 0 || c.sink != 0
  else
    c.sink == 0 || (c.perRow && c.exports) ||
    (c.merge && (c.stageCount != 0 || c.sink != 1 || bits (c.w 0) 1 0 != 0 || bits (c.w 0) 31 5 != 0 || c.len != 1 ||
      (c.count != 1 && (decide (c.srcStride < 528) || c.srcStride % 8 != 0)) ||
      decide (gsEnd < c.srcAddr + (c.count - 1) * c.srcStride + 528) ||
      heads.any fun h => bits h 2 0 != c.redFn || bits h 9 3 != c.k)) ||
    (c.redFn == 6 && (c.k == 0 || decide (64 < c.k))) ||
    (c.usesSlot && !c.clear && ahead.1 != 0 && ahead != (c.redFn, c.k)) ||
    (c.redFn == 7 && (enKind (c.table.getD c.thrIndex 0) != 0 || bits (c.table.getD c.thrIndex 0) 31 2 != 0)) ||
    (c.perRow && decide (gsEnd < c.redAddr + c.count * c.redBytes)) || (c.exports && decide (gsEnd < c.redAddr + 528))

/-- R280: a chain that reads a running channel fits it; an idle channel is checked at its HSTART. -/
def chainChanBad (g : Grove) (c : VChain) : Bool :=
  g.chans.any fun p => p.2.running && !chainFits p.2 p.1 c.desc

/-- R228: the chain at a grove store offset. -/
def chainAt (k off token : Nat) (s : State) : VChain :=
  let words := fun (a n : Nat) => (List.range n).map fun i => ofLe (gsPeek s k (a + 8 * i) 8)
  let c : VChain := { desc := words off 16, at_ := off, token := token }
  if c.usesTable && decide (c.opTable + 128 ≤ gsEnd) then { c with table := words c.opTable 16 } else c

/-- R233, R241, R264: the chain raises FLT_ILLEGAL at issue. -/
def chainBad (s : State) (k : Nat) (c : VChain) : Bool :=
  let g := groveOf s k
  let heads := if c.merge then (List.range c.count).map fun r => ofLe (gsPeek s k (c.srcAddr + r * c.srcStride) 8) else []
  c.at_ % 64 != 0 || decide (gsEnd < c.at_ + 128) || chainReserved c || chainTypesBad c || chainRangesBad c || !operandsOk c ||
    chainRedBad g c heads || chainChanBad g c

/-! ### The reduction unit (R242 to R244) -/

/-- R242: `a` comes before `b` in the order of a function: by value, then by index. -/
def redBefore (least : Bool) (a b : Nat × Nat) : Bool :=
  if least then f32Lt a.1 b.1 || (!f32Lt b.1 a.1 && decide (a.2 < b.2))
  else f32Lt b.1 a.1 || (!f32Lt a.1 b.1 && decide (a.2 < b.2))

/-- R244: an entry takes its place in a TOPK list of at most `k` entries. -/
def topInsert (e : Nat × Nat) : List (Nat × Nat) → List (Nat × Nat)
  | [] => [e]
  | x :: l => if redBefore false e x then e :: x :: l else x :: topInsert e l

/-- R243: a slot or row result before its first element; the index of an extreme that nothing has reached is a free value. -/
def redInit (fn k free : Nat) : RedSlot :=
  { fn := fn, k := k,
    value := (match fn with | 2 | 4 => f32Inf true | 3 | 5 => f32Inf false | _ => 0),
    index := if fn = 4 ∨ fn = 5 then (Config.undef free).toNat % 2 ^ 32 else 0 }

/-- R242, R243: one element that is no NaN. -/
def redElem (thr : Nat) (r : RedSlot) (e : Nat × Nat) : RedSlot :=
  let n := (r.count + 1) % 2 ^ 32
  match r.fn with
  | 2 | 3 | 4 | 5 =>
    if r.count = 0 || redBefore (r.fn % 2 == 1) e (r.value, r.index) then
      { r with count := n, value := e.1, index := if r.fn = 4 ∨ r.fn = 5 then e.2 else 0 }
    else { r with count := n }
  | 6 => { r with count := n, entries := (topInsert e r.entries).take r.k }
  | 7 => { r with count := n, value := if f32Lt thr e.1 then (r.value + 1) % 2 ^ 32 else r.value }
  | _ => r

/-- R244: elements of a beat that can enter the list, from the threshold at the beat. -/
def topEntering (r : RedSlot) (l : List (Nat × Nat)) : Nat :=
  (l.filter fun e => match r.entries[r.k - 1]? with
    | some x => redBefore false e x
    | none => true).length

/-- R243, R244: one beat; the answers: the slot, NaN elements skipped, G-cycles held. -/
def redBeat (thr : Nat) (r : RedSlot) (l : List (Nat × Nat)) : RedSlot × Nat × Nat :=
  let good := l.filter fun e => !f32IsNan e.1
  (good.foldl (redElem thr) r, l.length - good.length, if r.fn = 6 then (topEntering r good + 7) / 8 - 1 else 0)

/-- R244: an image is merged into a slot. -/
def redMerge (r : RedSlot) (img : List Byte) : RedSlot :=
  let h := leAt img 0 8
  let v := leAt img 8 4
  let n := (r.count + bits h 63 32) % 2 ^ 32
  let e := (v, leAt img 12 4)
  match r.fn with
  | 1 => { r with count := n, value := f32Add r.value v }
  | 7 => { r with count := n, value := (r.value + v) % 2 ^ 32 }
  | 6 =>
    let es := (List.range (min (bits h 22 16) 64)).map fun i => (leAt img (16 + 8 * i) 4, leAt img (20 + 8 * i) 4)
    { r with count := n, entries := (es.foldl (fun l e => topInsert e l) r.entries).take r.k }
  | _ =>
    if bits h 63 32 = 0 then r
    else if r.count = 0 || redBefore (r.fn % 2 == 1) e (r.value, r.index) then { r with count := n, value := e.1, index := e.2 }
    else { r with count := n }

/-- R242: val and aux. -/
def redSummary (r : RedSlot) : Nat × Nat :=
  match r.fn with
  | 4 | 5 => (r.value, r.index)
  | 6 => ((r.entries[r.k - 1]?.map (·.1)).getD (f32Inf true), r.entries.length)
  | 7 => (r.value, 0)
  | _ => (r.value, r.count)

/-- `n` bytes whose value the spec leaves open. -/
def undefBytes (free n : Nat) : List Byte := (List.range n).map fun i => BitVec.ofNat 8 (Config.undef (free + i)).toNat

/-- R242: the per-row result; the entries that a row does not fill are free values. -/
def redResult (r : RedSlot) (free : Nat) : List Byte :=
  match r.fn with
  | 4 | 5 => leBytes 4 r.value ++ leBytes 4 r.index
  | 6 => (r.entries.map fun e => leBytes 4 e.1 ++ leBytes 4 e.2).flatten ++ undefBytes free (8 * (r.k - r.entries.length))
  | _ => leBytes 4 r.value

/-! ### Rows in (R234) -/

/-- The chain that the engine holds in front. -/
def frontChain (s : State) (k : Nat) : Option VChain := (groveOf s k).chains.head?

def setFront (k : Nat) (c : VChain) (s : State) : State := updGrove k (fun g => { g with chains := c :: g.chains.drop 1 }) s

/-- The value of a scale entry of a Grove. -/
def scaleOf (s : State) (k i : Nat) : Nat := mget 0 (groveOf s k).scale i

/-- R58, R234, R596: an element from its code and the escape value that came with it. -/
def narrowIn (s : State) (k : Nat) (c : VChain) (f : Fmt) (j : Nat) (x : Nat × Option Nat) : Except Flt Nat :=
  let mode := bit (c.w 0) 18
  let e := scaleOf s k (bits (c.w 0) 30 19 + j)
  let shift := if mode then entShift e else sext (bits (c.w 0) 17 11) 7
  if mode && !entValid e then .error .illegal
  else if mode && entConst e then (if x.2.isSome then .error .illegal else .ok (fp32.encode (Fx.ofDyad (constValue e))))
  else match x.2 with
    | some v => .ok (f32OfBf v)
    | none => if f.escape = some x.1 then .error .illegal else .ok (fp32.encode (Fx.ofDyad ⟨f.k x.1, f.unitExp shift⟩))

def accExcept {α : Type} (r : Except Flt α) : Acc α :=
  match r with
  | .ok a => pure a
  | .error f => accFail f

/-- The narrow elements of a row. -/
def narrowRow (k : Nat) (c : VChain) (f : Fmt) (l : List (Nat × Option Nat)) : Acc (List Nat) := fun s =>
  accExcept ((List.range c.len).mapM fun j => narrowIn s k c f j (l.getD j (0, none))) s

/-- R234: the wide elements of a row. -/
def wideRow (c : VChain) (l : List Byte) : List Nat :=
  (List.range c.len).map fun j => match c.srcType with
    | 1 => f32OfBf (leAt l (2 * j) 2)
    | 2 => f32Canon (leAt l (4 * j) 4)
    | _ => f32OfInt (sext (leAt l (4 * j) 4) 32)

/-- R225, R226: values enter the lanes; with bf16_calc as BF16. -/
def enter (c : VChain) (l : List Nat) : List Nat := if c.bf then l.map f32ToBf else l

/-! ### Stages (R230, R237, R238) -/

/-- R230: the values of an operand for the elements of row `r`. -/
def operandRow (k : Nat) (c : VChain) (r i : Nat) : Acc (List Nat) := do
  let e := c.table.getD i 0
  let base := enAddr e + if enKind e = 3 then r * enStride e else 0
  let elem := fun (l : List Byte) (j : Nat) => match enType e with
    | 0 => f32OfBf (leAt l (2 * j) 2)
    | 1 => f32Canon (leAt l (4 * j) 4)
    | _ => bits (leAt l (j / 8) 1) (j % 8) (j % 8)
  match enKind e with
  | 0 => pure (List.replicate c.len (f32Canon (bits e 63 32)))
  | 2 =>
    let (off, n, j) := match enType e with
      | 0 => (2 * r, 2, 0)
      | 1 => (4 * r, 4, 0)
      | _ => (r / 8, 1, r % 8)
    let l ← gsReadAcc k (base + off) n
    pure (List.replicate c.len (elem l j))
  | _ =>
    let l ← gsReadAcc k base (entryBytes e c.len)
    pure ((List.range c.len).map (elem l))

/-- R226, R237: one stage on the elements of row `r`. -/
def stageRow (k : Nat) (c : VChain) (exact : Bool) (r w : Nat) (l : List Nat) : Acc (List Nat) := do
  let u := (opUses (stOp w)).getD (.none, .none)
  let b ← if u.1 = .none then pure [] else operandRow k c r (stB w)
  let d ← if u.2 = .none then pure [] else operandRow k c r (stC w)
  let out ← if isRowOp (stOp w) then (fun s => .ok (rowOp exact c.bf (stOp w) (b.headD 0) l s) : Acc (List Nat))
    else pure ((List.range l.length).map fun (j : Nat) =>
      laneOp (stOp w) (stParam w) (decide ((c.row0 : Int) + (r : Int) + stParam w < (c.col0 : Int) + (j : Int))) (l.getD j 0) (b.getD j 0) (d.getD j 0))
  pure (enter c out)

/-- Every stage in order. -/
def stagesRow (k : Nat) (c : VChain) (exact : Bool) (r : Nat) : List Nat → List Nat → Acc (List Nat)
  | [], l => pure l
  | w :: ws, l => do stagesRow k c exact r ws (← stageRow k c exact r w l)

/-! ### Rows out (R235, R236) -/

/-- R72: seed input of a stochastic output of a node's work. -/
def roundSigma (s : State) (k tensor sample : Nat) : Nat :=
  match groveNode s k with
  | some n => ((n.seed ^^^ (tensor % 2 ^ 32 * 2 ^ 32)) ^^^ n.step) ^^^ sample
  | none => sample

/-- R235: conversions of a row's elements. -/
def narrowOut (s : State) (k : Nat) (c : VChain) (f : Fmt) (r : Nat) (l : List Nat) : Except Flt (List Conv) :=
  let sigma := roundSigma s k c.tensor c.sample
  let mode := (RMode.ofCode (bits (c.w 2) 29 28)).getD .nearest
  (List.range l.length).mapM fun j =>
    let e := scaleOf s k (bits (c.w 2) 27 16 + j)
    if bit (c.w 2) 15 && !entValid e then .error .illegal
    else
      let shift := if bit (c.w 2) 15 then entShift e else sext (bits (c.w 2) 14 8) 7
      .ok (convert (fp32.decode (l.getD j 0)) f shift mode (draw sigma ((c.row0 + r) * c.width + c.col0 + j)))

/-- R236: the escape entries of a row, from entry `n` on. -/
def escEntries (at_ n : Nat) : List (Nat × Nat) → List (Nat × List Byte)
  | [] => []
  | (pos, v) :: l => (at_ + 8 + 4 * n, leBytes 4 (v % 2 ^ 16 + pos * 2 ^ 16)) :: escEntries at_ (n + 1) l

/-- R235, R236: the output of row `r`; the answer is the number of escape entries captured. -/
def outputRow (k : Nat) (c : VChain) (r : Nat) (l : List Nat) : Acc Nat := do
  let base := c.dstAddr + r * c.dstStride
  match c.dstType, c.dstFmt with
  | 0, some f =>
    let cs ← fun s => accExcept (narrowOut s k c f r l) s
    let sides := (List.range cs.length).filterMap fun j => ((cs[j]?).bind (·.side)).map fun v => (r * c.len + j, v)
    accDo fun s => (escEntries c.escAddr c.escs sides).foldl (fun s p => gsWrite k p.1 p.2 s) s
    accDo (gsWrite k base (packCodes f.width (cs.map (·.code))))
    accDo (countN (Reg.VEC_CNT_OUT_SAT k) (cs.filter (·.sat)).length)
    accDo (countN (Reg.VEC_CNT_NAN k) (cs.filter (·.nan)).length)
    accDo (countN (Reg.VEC_CNT_OUT_ESC k) sides.length)
    pure sides.length
  | 1, _ =>
    let big := fun (x : Nat) => (fp32.decode x).isFin && !(bf16.round (fp32.decode x)).isFin
    accDo (countN (Reg.VEC_CNT_OUT_SAT k) (l.filter big).length)
    accDo (gsWrite k base ((l.map fun x => leBytes 2 (bf16.encode (fp32.decode x))).flatten))
    pure 0
  | _, _ =>
    accDo (gsWrite k base ((l.map (leBytes 4)).flatten))
    pure 0

/-! ### The reduction unit on a row (R242 to R246) -/

/-- R242: the elements of a row with their indices. -/
def indexed (c : VChain) (r : Nat) (l : List Nat) : List (Nat × Nat) :=
  let i0 := if c.perRow then c.col0 else (c.row0 + r) * c.width + c.col0
  (List.range l.length).map fun j => (l.getD j 0, (i0 + j) % 2 ^ 32)

def cutBeats {α : Type} (n : Nat) (l : List α) : List (List α) :=
  (List.range ((l.length + n - 1) / n)).map fun i => slice (i * n) n l

/-- R243, R244: the beats of a row go into a slot. -/
def redRow (k : Nat) (c : VChain) (r : Nat) (l : List Nat) (slot : RedSlot) (s : State) : RedSlot × State :=
  let thr := f32Canon (bits (c.table.getD c.thrIndex 0) 63 32)
  let (x, nans, held) := (cutBeats (beatLen c.bf) (indexed c r l)).foldl
    (fun (a : RedSlot × Nat × Nat) b => let y := redBeat thr a.1 b; (y.1, a.2.1 + y.2.1, a.2.2 + y.2.2)) (slot, 0, 0)
  (x, countN (Reg.VEC_CNT_RED_NAN k) nans (countN (Reg.VEC_CNT_TOPK_STALL k) held s))

/-- R245, R246: a row of a reduction with a result of its own. -/
def redPerRow (k : Nat) (exact : Bool) (c : VChain) (r : Nat) (l : List Nat) (s : State) : State :=
  let (n, s) := drawFree s
  let r0 := redInit c.redFn c.k n
  let (x, s) := if c.redFn = 1 then
      let (t, s) := sumPass exact c.bf l s
      ({ r0 with value := t, count := l.length }, s)
    else redRow k c r l r0 s
  let out := redResult x s.free
  gsWrite k (c.redAddr + r * c.redBytes) out (setFront k { c with last := redSummary x } (s.setFree (s.free + 8 * c.k)))

/-- R242, R246: a row of a reduction that runs in a slot. In Free mode a SUM's partials stay in the accumulators until the chain ends. -/
def redSlotRow (k : Nat) (exact : Bool) (c : VChain) (r : Nat) (l : List Nat) (s : State) : State :=
  let put := fun (x : RedSlot) (s : State) => updGrove k (fun g => { g with slots := g.slots.set c.slot x }) s
  let x := (groveOf s k).slots.getD c.slot {}
  if c.redFn = 1 then
    let ps := (beatsOf c.bf l).map (lanePartial c.bf)
    let n := (x.count + l.length) % 2 ^ 32
    if exact then put { x with value := ps.foldl f32Add x.value, count := n } s
    else
      let ((acc, used), s) := freePartials ps c.acc c.used s
      put { x with count := n } (setFront k { c with acc := acc, used := used } s)
  else
    let (x, s) := redRow k c r l x s
    put x s

/-- R242 to R246: a row in the reduction unit. -/
def reduceRow (k : Nat) (exact : Bool) (c : VChain) (r : Nat) (l : List Nat) (s : State) : State :=
  if c.redFn = 0 then s else if c.perRow then redPerRow k exact c r l s else redSlotRow k exact c r l s

/-! ### Running a chain (R231, R248) -/

/-- R28, R72: the context of a Grove runs in Exact mode. -/
def groveExact (s : State) (k : Nat) : Bool := ctxExact s ((groveOf s k).ctx.getD 0)

/-- R247: lane cycles that Exact mode adds to a row. -/
def exactCycles (c : VChain) (beats : Nat) : Nat :=
  let stages := if 1 < beats then ((c.stages.map fun w => sumPasses (stOp w)).foldl (· + ·) 0) else 0
  let red := if c.redFn = 1 && !c.merge && decide (1 < (if c.perRow then beats else beats * c.count)) then 1 else 0
  3 * beats * (stages + red)

/-- R235, R237, R242: one row of elements goes through the front chain of a Grove. -/
def chainRow (k : Nat) (xs : List Nat) : Acc Unit := fun s =>
  match frontChain s k with
  | none => .ok ((), s)
  | some c =>
    let r := c.rows
    let exact := groveExact s k
    let beats := (c.len + beatLen c.bf - 1) / beatLen c.bf
    (do
      let l ← stagesRow k c exact r c.stages (enter c xs)
      let n ← if c.stores then outputRow k c r l else pure 0
      let c := { c with rows := r + 1, escs := c.escs + n, beats := c.beats + beats }
      accDo fun s => reduceRow k exact c r l (setFront k c s)
      accDo fun s => evt k 0x11 0 beats (groveOf s k).ctx (countN (Reg.VEC_CNT_BEATS k) beats s)
      accDo (countN (Reg.VEC_CNT_EXACT_SUM k) (if exact then exactCycles c beats else 0))) s

/-- R244: the images of a merge chain in ascending order. -/
def mergeRow (k : Nat) (c : VChain) : Acc Unit := do
  let img ← gsReadAcc k (c.srcAddr + c.rows * c.srcStride) 528
  accDo fun s =>
    let c := { c with rows := c.rows + 1 }
    if c.perRow then
      let x := redMerge (redInit c.redFn c.k s.free) img
      let out := redResult x (s.free + 1)
      gsWrite k (c.redAddr + (c.rows - 1) * c.redBytes) out
        (setFront k { c with last := redSummary x } (s.setFree (s.free + 1 + 8 * c.k)))
    else
      setFront k c (updGrove k (fun g => { g with slots := g.slots.set c.slot (redMerge (g.slots.getD c.slot {}) img) }) s)

/-- R233, R273: a fault that a running chain meets. -/
def chainFault (k : Nat) (f : Flt) (s : State) : State :=
  if f = .ecc then groveFault 0x03 0 k f s else groveFault 0x07 0 k f s

/-- A row's access and its fault. -/
def runChain (k : Nat) (a : Acc Unit) (s : State) : Bool × State :=
  match a s with
  | .ok ((), s) => (true, s)
  | .error (.fail f s) => (false, chainFault k f s)
  | .error (.wait _ s) => (false, s)

/-- R234: the next row of a chain that reads a Helix channel, when its bytes have come; the flag says that the row has passed. -/
def helixRow (k : Nat) (c : VChain) (s : State) : Bool × State :=
  match c.srcFmt with
  | some f =>
    match feedCodes f k c.srcChan c.srcBytes s with
    | .late => (false, s)
    | .bad e a t n => (false, helixFault k c.srcChan e a t n s)
    | .ok l s => runChain k (do chainRow k (← narrowRow k c f l)) s
  | none =>
    match feedBytes k c.srcChan c.srcBytes s with
    | .late => (false, s)
    | .bad e a t n => (false, helixFault k c.srcChan e a t n s)
    | .ok l s => runChain k (chainRow k (wideRow c l)) s

/-- R234: the next row of a chain that reads the grove store. -/
def storeRow (k : Nat) (c : VChain) : Acc Unit := do
  let l ← gsReadAcc k (c.srcAddr + c.rows * c.srcStride) c.srcBytes
  match c.srcFmt with
  | some f => chainRow k (← narrowRow k c f ((List.range c.len).map fun j => (codeAt f l j, none)))
  | none => chainRow k (wideRow c l)

/-- The rows that the running chain's source can supply; a Lattice drain brings its own (R232). -/
def chainRows (k : Nat) : Nat → State → State
  | 0, s => s
  | n + 1, s =>
    match frontChain s k with
    | none => s
    | some c =>
      if !(groveOf s k).chainOn || c.count ≤ c.rows || c.src = 1 then s
      else
        let (ok, s) := if c.merge then runChain k (mergeRow k c) s
          else if c.src = 2 then helixRow k c s
          else runChain k (storeRow k c) s
        if ok then chainRows k n s else s

/-- R231, R246: the oldest issued chain starts: its slot is cleared or set up, and a Free-mode sample is taken for its draws. -/
def chainStart (k : Nat) (s : State) : State :=
  match frontChain s k with
  | none => s
  | some c =>
    if (groveOf s k).chainOn || !engineOn s k then s
    else
      let stoch := c.dstFmt.isSome && bits (c.w 2) 29 28 == 1 && !groveExact s k
      let sample := if stoch then (Config.entropy s.free).toNat else 0
      let s := setFront k { c with sample := sample } (s.setFree (s.free + 1))
      updGrove k (fun g =>
        { g with
          chainOn := true
          slots := if c.usesSlot && (c.clear || (g.slots.getD c.slot {}).fn == 0) then g.slots.set c.slot (redInit c.redFn c.k s.free)
            else g.slots }) (s.setFree (s.free + 1))

def execChainStart (k : Nat) (s : State) : Host.Outcome State Fault Refusal := whileOn (chainStart k) s

/-- R236: the header of the escape group, after an entry count that is odd four bytes of zero. -/
def chainEscHeader (k : Nat) (c : VChain) (s : State) : State :=
  if (c.dstFmt.bind Fmt.escape).isNone then s
  else
    let s := if c.escs % 2 = 1 then gsWrite k (c.escAddr + 8 + 4 * c.escs) (leBytes 4 0) s else s
    gsWrite k c.escAddr (leBytes 8 (c.outBlock + c.escs * 2 ^ 32)) s

/-- R246: the accumulators of a Free-mode SUM join the slot at the end of the chain. -/
def chainSumEnd (k : Nat) (c : VChain) (s : State) : State :=
  if c.usesSlot && c.redFn == 1 && !c.used.isEmpty then
    let (t, s) := freeTotal c.acc 4 c.used none s
    updGrove k (fun g => { g with slots := updSlot g.slots c.slot t }) s
  else s
where
  updSlot (l : List RedSlot) (i t : Nat) : List RedSlot := let x := l.getD i {}; l.set i { x with value := f32Add x.value t }

/-- R236, R244, R245: header, slot image and summary register are written, then the token is released. -/
def chainFinish (k : Nat) (c : VChain) (s : State) : State :=
  let s := chainSumEnd k c (chainEscHeader k c s)
  let x := (groveOf s k).slots.getD c.slot {}
  let s := if c.exports then gsWrite k c.redAddr (slotImage x) s else s
  let sum := if c.perRow then c.last else redSummary x
  let s := updGrove k (fun g => { (if c.sumEn then g.setSum c.sumReg sum.1 sum.2 else g) with chains := g.chains.drop 1, chainOn := false }) s
  count (Reg.VEC_CNT_CHAINS k) (releaseToken k (some c.token) s)

/-- R231, R236: the running chain takes what its source supplies, and completes when its last row has passed. -/
def chainComplete (k : Nat) (s : State) : State :=
  match frontChain s k with
  | none => s
  | some c =>
    if !(groveOf s k).chainOn || !engineOn s k then s
    else
      let s := chainRows k (c.count + 1) s
      match frontChain s k with
      | some c => if (groveOf s k).chainOn && c.count ≤ c.rows then chainFinish k c s else s
      | none => s

def execChainComplete (k : Nat) (s : State) : Host.Outcome State Fault Refusal := whileOn (chainComplete k) s

end Sys2Proof.Machine
end

