-- ==== Sys2Proof/Machine/Lattice.lean ====
section
/-!
DEFINITION. The Lattices of a Grove: tile descriptors and their checks (R198, R199, R232), steps (R195 to R208), the residue check,
retries and strikes (R213 to R216), and the narrowing unit (R217 to R220).
-/

namespace Sys2Proof.Machine

/-! ### The descriptor (R198) -/

def Tile.w (t : Tile) (i : Nat) : Nat := t.desc.getD i 0
def Tile.m (t : Tile) : Nat := bits (t.w 0) 21 16
def Tile.n (t : Tile) : Nat := bits (t.w 0) 27 22
def Tile.kSteps (t : Tile) : Nat := bits (t.w 0) 43 28
def Tile.kLast (t : Tile) : Nat := bits (t.w 0) 51 44
def Tile.outKind (t : Tile) : Nat := bits (t.w 3) 1 0
def Tile.outFmt (t : Tile) : Option Fmt := if t.outKind = 0 then Fmt.ofCode (bits (t.w 3) 5 2) else none
def Tile.oscale (t : Tile) : Bool := bit (t.w 3) 8
def Tile.outScale (t : Tile) : Nat := bits (t.w 3) 27 16
def Tile.biasEn (t : Tile) : Bool := bit (t.w 3) 28
def Tile.outAddr (t : Tile) : Nat := bits (t.w 3) 53 32
def Tile.outStride (t : Tile) : Nat := bits (t.w 4) 15 0
def Tile.biasAddr (t : Tile) : Nat := bits (t.w 4) 37 16
def Tile.escAddr (t : Tile) : Nat := bits (t.w 4) 59 38
def Tile.tensor (t : Tile) : Nat := bits (t.w 5) 31 0
def Tile.row0 (t : Tile) : Nat := bits (t.w 6) 31 0
def Tile.col0 (t : Tile) : Nat := bits (t.w 6) 63 32
def Tile.width (t : Tile) : Nat := bits (t.w 7) 31 0
def Tile.outBlock (t : Tile) : Nat := bits (t.w 7) 39 32

/-- One operand of a tile: A's rows or B's columns. -/
structure TSide where
  fmt : Fmt
  streamed : Bool
  chan : Nat
  addr : Nat
  stride : Nat
  count : Nat
  scale : Nat
  deriving DecidableEq, Repr

/-- R198: operand A, or B. -/
def Tile.side (t : Tile) (b : Bool) : TSide :=
  let w0 := t.w 0
  if b then
    { fmt := (Fmt.ofCode (bits w0 7 4)).getD .int4, streamed := bit w0 9, chan := bits w0 15 13, addr := bits (t.w 1) 53 32,
      stride := bits (t.w 2) 31 16, count := t.n, scale := bits (t.w 2) 55 44 }
  else
    { fmt := (Fmt.ofCode (bits w0 3 0)).getD .int4, streamed := bit w0 8, chan := bits w0 12 10, addr := bits (t.w 1) 21 0,
      stride := bits (t.w 2) 15 0, count := t.m, scale := bits (t.w 2) 43 32 }

/-- R195, R202: elements of a slice. -/
def Tile.elems (t : Tile) : Nat := tileElems t.desc

/-- R197: bytes of a slice of an operand. -/
def Tile.sliceBytes (t : Tile) (d : TSide) : Nat := t.elems * d.fmt.width / 8

/-- Bytes of an output row. -/
def Tile.rowBytes (t : Tile) : Nat :=
  match t.outKind with
  | 0 => (t.n * ((t.outFmt.map Fmt.width).getD 8) + 7) / 8
  | 1 => 2 * t.n
  | _ => 4 * t.n

/-! ### The checks at issue (R199, R232) -/

def tileReserved (t : Tile) : Bool :=
  bits (t.w 0) 63 52 != 0 || bits (t.w 1) 31 22 != 0 || bits (t.w 1) 63 54 != 0 || bits (t.w 2) 63 56 != 0 ||
  bits (t.w 3) 31 29 != 0 || bits (t.w 3) 63 54 != 0 || bits (t.w 4) 63 60 != 0 || bits (t.w 5) 63 32 != 0 || bits (t.w 7) 63 40 != 0 ||
  (Fmt.ofCode (bits (t.w 0) 3 0)).isNone || (Fmt.ofCode (bits (t.w 0) 7 4)).isNone || (RMode.ofCode (bits (t.w 3) 7 6)).isNone

/-- R199: counts that are zero or exceed their range. -/
def tileCountsBad (t : Tile) : Bool :=
  t.m == 0 || decide (32 < t.m) || t.n == 0 || decide (32 < t.n) || t.kSteps == 0 || t.kLast == 0 || decide (t.elems < t.kLast)

/-- R199: an operand's format, range, stride and scale entries. -/
def sideBad (t : Tile) (d : TSide) : Bool :=
  decide (4096 < d.scale + d.count) ||
  (!d.streamed && (d.fmt.escape.isSome || decide (d.stride < t.kSteps * t.sliceBytes d) ||
    decide (gsEnd < d.addr + (d.count - 1) * d.stride + t.kSteps * t.sliceBytes d)))

/-- R199: output, bias and escape group ranges, the narrow format and the output scale entries. -/
def tileOutBad (t : Tile) : Bool :=
  (t.outKind == 0 && !(t.outFmt.any Fmt.forActivations)) ||
  (t.outKind != 3 && decide (gsEnd < t.outAddr + (t.m - 1) * t.outStride + t.rowBytes)) ||
  (t.outKind == 0 && t.oscale && decide (4096 < t.outScale + t.n)) ||
  (t.biasEn && decide (gsEnd < t.biasAddr + 2 * t.n)) ||
  ((t.outFmt.bind Fmt.escape).isSome && decide (gsEnd < t.escAddr + escGroupBytes (t.m * t.n)))

/-- R232: the chain that takes a tile's drain: the oldest that waits for one. -/
def drainChain (g : Grove) : Option VChain := g.chains.find? fun c => c.src == 1 && !c.fed

/-- R232: the chain agrees with the tile. -/
def drainFits (t : Tile) (c : VChain) : Bool := c.len == t.n && c.count == t.m

def tileAt (k off token : Nat) (s : State) : Tile :=
  { desc := (List.range 8).map (fun i => ofLe (gsPeek s k (off + 8 * i) 8)), at_ := off, token := token }

/-- R199, R232, R264: the tile raises FLT_ILLEGAL at issue. -/
def tileBad (s : State) (k : Nat) (t : Tile) : Bool :=
  let g := groveOf s k
  decide (gsEnd < t.at_ + 64) || tileReserved t || tileCountsBad t || sideBad t (t.side false) || sideBad t (t.side true) ||
    tileOutBad t || (g.chans.any fun p => p.2.running && !tileFits p.2 p.1 t.desc) ||
    (t.outKind == 3 && !((drainChain g).any (drainFits t)))

/-- R232, R263, R506: a tile joins the queue; a drain's chain is taken, and a probe on the Grove is abandoned. -/
def tileIssue (k : Nat) (t : Tile) (s : State) : State :=
  updGrove k (fun g =>
    { g with
      tiles := g.tiles ++ [t]
      chains := if t.outKind = 3 then updFirst (fun c => c.src == 1 && !c.fed) (fun c => { c with fed := true }) g.chains else g.chains }) (probeAbandon k s)

/-! ### Elements (R58, R63, R208) -/

/-- An element in a Lattice: its k, and the ratio of an escaped one in units of 2^-8. -/
abbrev LElem := Int × Option Int

/-- R196, R208: an element of a line with latched entry `e`; `masked` positions count zero. The flag says that R63 replaced or limited a value. -/
def latElem (f : Fmt) (e : Nat) (masked : Bool) (x : Nat × Option Nat) : Except Flt (LElem × Bool) :=
  if masked then .ok ((0, none), false)
  else if entConst e then (if x.2.isSome then .error .illegal else .ok ((entMant e, none), false))
  else match x.2 with
    | some v =>
      let r := escRatio v (f.unitExp (entShift e))
      .ok ((0, some r.1), r.2)
    | none => if f.escape = some x.1 then .error .illegal else .ok ((f.k x.1, none), false)

/-- A slice of a line. -/
def latSlice (f : Fmt) (e used : Nat) (l : List (Nat × Option Nat)) : Except Flt (List LElem × Nat) :=
  ((List.range l.length).mapM fun j => latElem f e (decide (used ≤ j)) (l.getD j (0, none))).map fun r =>
    (r.map (·.1), (r.filter (·.2)).length)

/-- R196: the dot product of two slices, escaped elements counting zero. -/
def dotK (a b : List LElem) : Int := (List.zip a b).foldl (fun s p => s + p.1.1 * p.2.1) 0

/-- R206: the escape products of two slices, in units of 2^-16. -/
def dotEsc (a b : List LElem) : Int :=
  (List.zip a b).foldl (fun s p =>
    if p.1.2.isNone && p.2.2.isNone then s else s + (p.1.2.getD (p.1.1 * 256)) * (p.2.2.getD (p.2.1 * 256))) 0

/-- R213: sums of the k values of a Lattice's eight lines at each position. -/
def lineSums (ls : List (List LElem)) (len r : Nat) : List LElem :=
  (List.range len).map fun e => (((slice (8 * r) 8 ls).map fun l => (l.getD e (0, none)).1).foldl (· + ·) 0, none)

/-- A residue from 0 to 14. -/
def mod15 (x : Int) : Nat := (x % 15).toNat

/-- R195, R204, R206, R213: a step's lines A and B go into the banks, escape sums and residues of a tile. -/
def tileAccumulate (t : Tile) (a b : List (List LElem)) : Tile :=
  let m := a.length
  let n := b.length
  let len := t.elems
  let cell := fun (f : List LElem → List LElem → Int) (old : List Int) => (List.range 1024).map fun p =>
    if p / 32 < m ∧ p % 32 < n then old.getD p 0 + f (a.getD (p / 32) []) (b.getD (p % 32) []) else 0
  let rowSums := (List.range 4).map (lineSums a len)
  let colSums := (List.range 4).map (lineSums b len)
  { t with
    steps := t.steps + 1
    bank := cell dotK t.bank
    esc := cell dotEsc t.esc
    rowRes := (List.range 128).map fun p =>
      mod15 (t.rowRes.getD p 0 + dotK (a.getD (8 * (p / 8 / 4) + p % 8) []) (colSums.getD (p / 8 % 4) []))
    colRes := (List.range 128).map fun p =>
      mod15 (t.colRes.getD p 0 + dotK (rowSums.getD (p / 8 / 4) []) (b.getD (8 * (p / 8 % 4) + p % 8) [])) }

/-! ### Steps (R195 to R212) -/

/-- What a step's operand comes to. -/
inductive Got (α : Type) where
  | ok (a : α) (s : State)
  | late
  | stop (s : State)

/-- A list cut into cutInto of `n`. -/
def cutInto {α : Type} (n count : Nat) (l : List α) : List (List α) := (List.range count).map fun i => slice (i * n) n l

/-- R197: the slices of a step of an operand, masked lines left out. -/
def sideRead (k : Nat) (t : Tile) (d : TSide) (s : State) : Got (List (List (Nat × Option Nat))) :=
  let nb := t.sliceBytes d
  if d.streamed then
    match feedCodes d.fmt k d.chan (32 * nb) s with
    | .late => .late
    | .bad f a tag n => .stop (helixFault k d.chan f a tag n s)
    | .ok l s => .ok (cutInto t.elems d.count l) s
  else
    match ((List.range d.count).mapM fun i => gsReadAcc k (d.addr + i * d.stride + t.steps * nb) nb : Acc (List (List Byte))) s with
    | .ok (ls, s) => .ok (ls.map fun l => (List.range t.elems).map fun e => (codeAt d.fmt l e, none)) s
    | .error (.fail f s) => .stop (groveFault 0x03 0 k f s)
    | .error (.wait _ s) => .stop s

/-- R200: the entries that a tile latches at its first step. -/
def tileLatch (s : State) (k : Nat) (t : Tile) : Except Flt (List Nat) :=
  let group : Nat → Nat → Except Flt (List Nat) := fun first n => (List.range 32).mapM fun i =>
    if n ≤ i then Except.ok 0
    else
      let e := scaleOf s k (first + i)
      if entValid e then Except.ok (e % 2 ^ 16) else Except.error Flt.illegal
  do
    let a ← group (t.side false).scale t.m
    let b ← group (t.side true).scale t.n
    let o ← group t.outScale (if t.outKind = 0 && t.oscale then t.n else 0)
    pure (a ++ b ++ o)

/-- R207: G-cycles for which the escape unit of the busiest Lattice holds a step. -/
def escHold (a b : List (List LElem)) : Nat :=
  let per := fun (ls : List (List LElem)) (r : Nat) => (((slice (8 * r) 8 ls).map fun l => (l.filter fun e => e.2.isSome).length).foldl (· + ·) 0)
  let worst := ((List.range 16).map fun L => 8 * (per a (L / 4) + per b (L % 4))).foldl max 0
  if 16 < worst then (worst + 15) / 16 else 0

/-- The tile with number `i` of a Grove's queue replaced. -/
def setTile (k i : Nat) (t : Tile) (s : State) : State := updGrove k (fun g => { g with tiles := g.tiles.set i t }) s

/-- R212: the tile that steps next: the first whose reads are not done, when one of the two banks is free for it. -/
def nextTile (g : Grove) : Option (Nat × Tile) :=
  match g.tiles with
  | t :: u :: _ => if t.steps < t.kSteps then some (0, t) else if u.steps < u.kSteps then some (1, u) else none
  | [t] => if t.steps < t.kSteps then some (0, t) else none
  | [] => none

/-- R427: under a soft stop no tile starts. -/
def mayStart (s : State) (k : Nat) (t : Tile) : Bool :=
  t.started || (groveNode s k).any fun n => n.state == .running || n.state == .armed

/-- R196 to R213: the slices of a step are used. -/
def tileUse (k i : Nat) (t : Tile) (a b : List (List (Nat × Option Nat))) (s : State) : State :=
  let lat := if t.steps = 0 then tileLatch s k t else .ok t.latched
  let used := if t.steps + 1 = t.kSteps then t.kLast else t.elems
  let lines := fun (d : TSide) (lat : List Nat) (base : Nat) (ls : List (List (Nat × Option Nat))) =>
    (List.range ls.length).mapM fun r => latSlice d.fmt (lat.getD (base + r) 0) used (ls.getD r [])
  let all : Except Flt (List Nat × List (List LElem × Nat) × List (List LElem × Nat)) := do
    let lat ← lat
    let a ← lines (t.side false) lat 0 a
    let b ← lines (t.side true) lat 32 b
    pure (lat, a, b)
  match all with
  | .error f => groveFault 0x05 0 k f s
  | .ok (lat, a, b) =>
    let clamps := ((a ++ b).map (·.2)).foldl (· + ·) 0
    let a := a.map (·.1)
    let b := b.map (·.1)
    let s := countN (Reg.LAT_CNT_ESC_CLAMP k) clamps (countN (Reg.LAT_CNT_ESC_STALL k) (escHold a b) s)
    evt k 0x10 0 1 (groveOf s k).ctx (setTile k i (tileAccumulate { t with latched := lat } a b) s)

/-- R197, R211: one step of the tile that is next, when its operands have come. -/
def tileStep (k : Nat) (s : State) : State :=
  match nextTile (groveOf s k) with
  | none => s
  | some (i, t) =>
    if !engineOn s k || !mayStart s k t then s
    else
      let pos := fun (d : TSide) => (chanOf s k d.chan).cons
      let t := if t.started then t else { t with started := true, aPos := pos (t.side false), bPos := pos (t.side true) }
      match sideRead k t (t.side false) (setTile k i t s) with
      | .late => s
      | .stop s' => s'
      | .ok a s1 =>
        match sideRead k t (t.side true) s1 with
        | .late => s
        | .stop s' => s'
        | .ok b s2 => tileUse k i t a b s2

def execTileStep (k : Nat) (s : State) : Host.Outcome State Fault Refusal := whileOn (tileStep k) s

/-! ### The residue check (R213 to R216) -/

/-- R208: the Lattices whose blocks a tile uses. -/
def Tile.active (t : Tile) : List Nat := (List.range 16).filter fun L => decide (8 * (L / 4) < t.m) && decide (8 * (L % 4) < t.n)

/-- A bank value with one bit inverted. -/
def flipBit (v : Int) (b : Nat) : Int := sext (unsext v 38 ^^^ 2 ^ b) 38

/-- R214: the check of a block of a bank against its residues. -/
def blockOk (t : Tile) (L : Nat) (blk : List Int) : Bool :=
  let v := fun (i j : Nat) => blk.getD (8 * i + j) 0
  ((List.range 8).all fun j => mod15 (((List.range 8).map fun i => v i j).foldl (· + ·) 0) == t.colRes.getD (8 * L + j) 0) &&
  ((List.range 8).all fun i => mod15 (((List.range 8).map fun j => v i j).foldl (· + ·) 0) == t.rowRes.getD (8 * L + i) 0)

/-- LAT_INJECT: the Lattice whose next drained tile is corrupted, and the bit, while armed. -/
def injection (s : State) (k : Nat) : Option (Nat × Nat) :=
  let r := regGet s (Reg.LAT_INJECT k)
  if bit r 10 && !isSealed s then some (bits r 3 0, bits r 9 4) else none

/-- The block that a Lattice drains first: its own, then that of the quarantined one for which it stands in (R216). -/
def firstBlock (s : State) (k P : Nat) (t : Tile) : Option Nat :=
  if latQuarantined s k P then none
  else if t.active.contains P then some P
  else t.active.find? fun L => latQuarantined s k L && latFor s k L == P

/-- A block as it is drained by Lattice `P`, and the state after an injection that it meets. -/
def drainBlock (k L : Nat) (hit : Option Nat) (t : Tile) (s : State) : List Int × State :=
  let blk := block t.bank L
  match hit with
  | some b => (blk.set 0 (flipBit (blk.getD 0 0) b), regField (Reg.LAT_INJECT k) 10 10 0 s)
  | none => (blk, s)

/-- R214: the checks of a tile's blocks; the failing Lattices. -/
def checkBlocks (k : Nat) (t : Tile) (hit : Option (Nat × Nat)) : List Nat → State → List Nat × State
  | [], s => ([], s)
  | L :: ls, s =>
    let h := match hit with
      | some (l, b) => if l = L then some b else none
      | none => none
    let (blk, s) := drainBlock k L h t s
    let P := latFor s k L
    if blockOk t L blk then checkBlocks k t hit ls (latDrained k P s)
    else
      let (r, s) := checkBlocks k t hit ls (count (Reg.LAT_CNT_RES_MISMATCH k) s)
      (P :: r, s)

/-- R214: the residue check of a tile whose steps are done. -/
def tileCheck (k : Nat) (t : Tile) (s : State) : Tile × State :=
  let hit := match injection s k with
    | some (P, b) => (firstBlock s k P t).map fun L => (L, b)
    | none => none
  let (bad, s) := checkBlocks k t hit t.active s
  ({ t with checked := bad.isEmpty, retry := bad }, s)

/-- R215: the retry of the block of a failing Lattice on its stand-in, in ascending order of the Lattices (R223). -/
def tileRetry (k lattice : Nat) (s : State) : State :=
  match (groveOf s k).tiles with
  | [] => s
  | t :: _ =>
    if !engineOn s k || !t.retry.contains lattice || t.retry.any (fun l => decide (l < lattice)) then s
    else
      let P := (standIn s k lattice).getD lattice
      let hit := match injection s k with
        | some (l, b) => if l = P then some b else none
        | none => none
      let L := if t.active.contains lattice then lattice else (t.active.find? fun l => latFor s k l == lattice).getD lattice
      let (blk, s) := drainBlock k L hit t s
      if blockOk t L blk then
        let rest := t.retry.filter fun l => l != lattice
        let s := setTile k 0 { t with retry := rest, checked := rest.isEmpty } (count (Reg.LAT_CNT_RES_RETRY_OK k) (latDrained k P s))
        latStrike k lattice (intLog 1 k lattice 0 0x05 0 s)
      else
        let s := count (Reg.LAT_CNT_RES_MISMATCH k) s
        let s := latStrike k P (latQuarantine k lattice s)
        groveFault 0x05 0 k .residue (intLog 2 k lattice Flt.residue.code 0x05 ((groveOf s k).ctx.getD 0) s)

def execTileRetry (k lattice : Nat) (s : State) : Host.Outcome State Fault Refusal := whileOn (tileRetry k lattice) s

/-! ### The narrowing unit (R205, R217 to R220) -/

/-- R205: a bank value at drain, and whether it was saturated. -/
def saturate32 (v : Int) : Int × Bool :=
  if v < -(2 ^ 31 : Int) then (-(2 ^ 31 : Int), true) else if (2 ^ 31 : Int) - 1 < v then ((2 ^ 31 : Int) - 1, true) else (v, false)

/-- R217: log₂ of a line's code unit. -/
def lineExp (f : Fmt) (e : Nat) : Int := if entConst e then entShift e else f.unitExp (entShift e)

/-- R217: the exact value of output (i, j), before its conversion. -/
def drainValue (t : Tile) (bias : List Nat) (i j : Nat) : Fx :=
  let sum := (saturate32 (t.bank.getD (32 * i + j) 0)).1 * 65536 + t.esc.getD (32 * i + j) 0
  let e := lineExp (t.side false).fmt (t.latched.getD i 0) + lineExp (t.side true).fmt (t.latched.getD (32 + j) 0)
  let x := Fx.ofDyad ⟨sum, e - 16⟩
  if t.biasEn then x.addExact (bf16.decode (bias.getD j 0)) else x

/-- R217, R219: the narrow conversions of an output row. -/
def drainNarrow (s : State) (k : Nat) (t : Tile) (f : Fmt) (bias : List Nat) (i : Nat) : List Conv :=
  let sigma := roundSigma s k t.tensor t.sample
  let mode := (RMode.ofCode (bits (t.w 3) 7 6)).getD .nearest
  (List.range t.n).map fun j =>
    let shift := if t.oscale then entShift (t.latched.getD (64 + j) 0) else sext (bits (t.w 3) 15 9) 7
    convert (drainValue t bias i j) f shift mode (draw sigma ((t.row0 + i) * t.width + t.col0 + j))

/-- R218: a value beyond the range of a float format. -/
def floatOver (f : FloatFmt) (x : Fx) : Bool := x.isFin && !(f.round x).isFin

/-- R220: a tile with narrow output. -/
def writeNarrow (k : Nat) (t : Tile) (f : Fmt) (bias : List Nat) (s : State) : State :=
  let rows := (List.range t.m).map (drainNarrow s k t f bias)
  let cs := rows.flatten
  let sides := (List.range cs.length).filterMap fun p => ((cs[p]?).bind (·.side)).map fun v => (p, v)
  let s := (List.range t.m).foldl (fun s i => gsWrite k (t.outAddr + i * t.outStride) (packCodes f.width ((rows.getD i []).map (·.code))) s) s
  let s := if f.escape.isSome then
      gsWrite k t.escAddr (padTo (escGroupBytes sides.length) (leBytes 8 (t.outBlock + sides.length * 2 ^ 32) ++
        (sides.map fun p => leBytes 4 (p.2 % 2 ^ 16 + p.1 * 2 ^ 16)).flatten)) s
    else s
  countN (Reg.LAT_CNT_OUT_SAT k) (cs.filter (·.sat)).length
    (countN (Reg.LAT_CNT_NAN k) (cs.filter (·.nan)).length (countN (Reg.LAT_CNT_OUT_ESC k) sides.length s))

/-- R217, R218: the values of a tile with float output, row by row. -/
def drainRows (t : Tile) (bias : List Nat) : List (List Fx) :=
  (List.range t.m).map fun i => (List.range t.n).map fun j => drainValue t bias i j

/-- R218, R220: a tile with BF16 or FP32 output. -/
def writeFloat (k : Nat) (t : Tile) (f : FloatFmt) (bytes : Nat) (bias : List Nat) (s : State) : State :=
  let rows := drainRows t bias
  let s := (List.range t.m).foldl (fun s i =>
    gsWrite k (t.outAddr + i * t.outStride) (((rows.getD i []).map fun x => leBytes bytes (f.encode x)).flatten) s) s
  countN (Reg.LAT_CNT_OUT_SAT k) (rows.flatten.filter (floatOver f)).length s

/-- R232: the rows of a drain enter the chain one by one. -/
def feedChain (k : Nat) : List (List Nat) → State → Bool × State
  | [], s => (true, s)
  | r :: rs, s =>
    match runChain k (chainRow k r) s with
    | (true, s) => feedChain k rs s
    | (false, s) => (false, s)

/-- R210, R262: a tile is done: it leaves the queue, its token and slots are released. -/
def tileDone (k : Nat) (t : Tile) (s : State) : State :=
  let sat := ((t.bank.map saturate32).filter (·.2)).length
  let s := updGrove k (fun g => { g with tiles := g.tiles.drop 1 }) s
  countN (Reg.LAT_CNT_ACC_SAT k) sat (count (Reg.LAT_CNT_TILES k) (releaseToken k (some t.token) s))

/-- R201: the slots that a tile held are released. -/
def tileSlots (k : Nat) (t : Tile) (s : State) : State :=
  let one := fun (d : TSide) (s : State) => if d.streamed then releaseHead k d.chan s else s
  one (t.side false) (one (t.side true) s)

/-- R217 to R220, R232: a checked tile is narrowed and written, or drains into its chain when that runs. -/
def tileWrite (k : Nat) (t : Tile) (s : State) : State :=
  let biasAcc : Acc (List Byte) := if t.biasEn then gsReadAcc k t.biasAddr (2 * t.n) else pure []
  match biasAcc s with
  | .error (.fail f s) => groveFault 0x03 0 k f s
  | .error (.wait _ s) => s
  | .ok (l, s1) =>
    let bias := (List.range t.n).map fun j => leAt l (2 * j) 2
    match t.outKind, t.outFmt with
    | 0, some f =>
      let stoch := bits (t.w 3) 7 6 == 1 && !groveExact s1 k
      let t := if stoch then { t with sample := (Config.entropy s1.free).toNat } else t
      tileDone k t (writeNarrow k t f bias (s1.setFree (s1.free + 1)))
    | 1, _ => tileDone k t (writeFloat k t bf16 2 bias s1)
    | 2, _ => tileDone k t (writeFloat k t fp32 4 bias s1)
    | _, _ =>
      match frontChain s1 k with
      | some c =>
        if c.src = 1 && c.fed && (groveOf s1 k).chainOn then
          let rows := drainRows t bias
          match feedChain k (rows.map fun r => r.map fp32.encode) (countN (Reg.LAT_CNT_OUT_SAT k) (rows.flatten.filter (floatOver fp32)).length s1) with
          | (true, s) => tileDone k t s
          | (false, s) => s
        else s
      | none => s

/-- R210, R214: the oldest tile drains once its steps are done: it is checked, and when every block has passed it is written. -/
def tileWriteback (k : Nat) (s : State) : State :=
  match (groveOf s k).tiles with
  | [] => s
  | t :: _ =>
    if !engineOn s k || !t.started || t.steps < t.kSteps || !t.retry.isEmpty then s
    else
      let (t, s) := if t.checked then (t, s) else tileCheck k t s
      let s := setTile k 0 t s
      if t.checked then tileWrite k t (tileSlots k t s) else s

def execTileWriteback (k : Nat) (s : State) : Host.Outcome State Fault Refusal := whileOn (tileWriteback k) s

end Sys2Proof.Machine
end

