-- ==== Sys2Proof/Machine/GroveCore.lean ====
section
/-!
DEFINITION. The grove control core: fetch and format checks (R251 to R255, R273), its instructions (R255 to R266, R271),
barriers and the end of a program (R269, R270, R272), hosted logical Groves (R267), holds and resumption (R262, R263, R265),
and the watchdog.
-/

namespace Sys2Proof.Machine

/-! ### Fetch and formats -/

/-- The core of a Grove executes: its node runs and the core is not stopped. -/
def coreOn (s : State) (k : Nat) : Bool := (groveOf s k).running && (groveNode s k).any fun n => n.state == .running

/-- R273: a trap of the core; the context is torn down. -/
def coreTrap (k : Nat) (f : Flt) (s : State) : State := groveFault 0x06 0 k f s

/-- R254, R255: a reserved opcode, or a nonzero bit that the format does not name. -/
def formatOk (w : Nat) : Bool :=
  match fOp w with
  | 0x00 | 0x01 | 0x02 | 0x03 | 0x04 | 0x05 | 0x07 | 0x08 | 0x09 | 0x0A | 0x0B
  | 0x10 | 0x11 | 0x12 | 0x13 | 0x14 | 0x15 | 0x16 | 0x17 => true
  | 0x06 => fRs1 w == 0
  | 0x0C => bits w 10 6 == 0 || memopOp (bits w 5 0) == 0x0D || memopOp (bits w 5 0) == 0x0E
  | 0x18 => fCond w != 7
  | 0x19 => fRs1 w == 0 && fRs2 w == 0 && bits w 10 4 == 0
  | 0x1A => bits w 15 12 == 0
  | 0x1B => bits w 15 12 == 0 && fRd w == 0
  | 0x30 | 0x31 | 0x33 => bits w 16 0 == 0
  | 0x32 => bits w 13 0 == 0
  | 0x34 => bits w 25 16 == 0
  | 0x35 => fRs1 w == 0 && fRs2 w == 0 && fFunc w == 0
  | 0x38 => bits w 10 4 == 0
  | 0x39 | 0x3C | 0x3F => fFunc w == 0
  | 0x3A => bits w 10 2 == 0
  | _ => false

/-- The registers that an instruction reads. -/
def readsOf (w : Nat) : List Nat :=
  match fOp w with
  | 0x00 => [fRs1 w, fRs2 w]
  | 0x01 | 0x02 | 0x03 | 0x04 | 0x05 | 0x07 | 0x08 | 0x09 | 0x17 | 0x1B | 0x3A => [fRs1 w]
  | 0x0A | 0x0B => [fRs1 w, fRd w]
  | 0x0C => [fRs1 w, fRs2 w, bits w 10 6]
  | 0x10 | 0x11 | 0x12 | 0x13 | 0x14 | 0x15 => [fRd w, fRs1 w]
  | 0x18 => [fRs1 w]
  | 0x30 | 0x31 | 0x32 | 0x33 => [fRd w]
  | 0x3C => [fRs1 w, fRs2 w, fRd w]
  | _ => []

/-- R258: an AMO of a core that is not complete. -/
def amoOpen (s : State) (k : Nat) : Bool :=
  memopOpen s fun m => match m.who with
    | .core j _ => j == k
    | _ => false

/-- R258: the instruction reads the destination of an outstanding fetch. -/
def awaitsFetch (s : State) (k w : Nat) : Bool :=
  memopOpen s fun m => match m.who with
    | .core j (some r) => j == k && (readsOf w).contains r
    | _ => false

/-- The meaning of an instruction: Grove, its state, the word. -/
abbrev CoreFn := Nat → Grove → Nat → State → State

/-- An instruction completes and the next one follows. -/
def coreNext (k : Nat) (g : Grove) (s : State) : State :=
  count (Reg.CORE_CNT_INSTR k) (setGrove k { g with pc := g.pc + 4, wait := .none } s)

/-- An instruction completes and the core jumps. -/
def coreJump (k : Nat) (g : Grove) (pc : Nat) (s : State) : State :=
  count (Reg.CORE_CNT_INSTR k) (setGrove k { g with pc := pc, wait := .none } s)

/-- The core is held at its instruction. -/
def coreHold (k : Nat) (w : CoreWait) (s : State) : State := updGrove k (fun g => { g with wait := w }) s

/-- The instruction at the program counter, executed by `f`; a fetch beyond the image, a reserved opcode or a reserved field traps. -/
def coreFetch (k : Nat) (f : Nat → CoreFn) (s : State) : State :=
  let g := groveOf s k
  match g.code[g.pc / 4]? with
  | none => coreTrap k .illegal s
  | some w => if !formatOk w then coreTrap k .illegal s else if awaitsFetch s k w then coreHold k .held s else f (fOp w) k g w s

/-- A command row of one opcode: it acts when the core executes and the instruction at its program counter has that opcode. -/
def coreRow (op k : Nat) (f : CoreFn) (s : State) : State :=
  if !coreOn s k || (groveOf s k).wait != .none then s
  else coreFetch k (fun o => if o = op then f else fun _ _ _ s => s) s

/-! ### Arithmetic, immediates and branches (R255, R256, R260) -/

def coreAlu : CoreFn := fun k g w s =>
  match aluFn (fFunc w) (g.xr (fRs1 w)) (g.xr (fRs2 w)) with
  | some v => coreNext k (g.setX (fRd w) v) s
  | none => coreTrap k .illegal s

/-- A result for rd. -/
def coreSet (f : Grove → Nat → W64) : CoreFn := fun k g w s => coreNext k (g.setX (fRd w) (f g w)) s

def coreAddi : CoreFn := coreSet fun g w => g.xr (fRs1 w) + fSimm w
def coreAndi : CoreFn := coreSet fun g w => g.xr (fRs1 w) &&& BitVec.ofNat 64 (fImm w)
def coreOri : CoreFn := coreSet fun g w => g.xr (fRs1 w) ||| BitVec.ofNat 64 (fImm w)
def coreXori : CoreFn := coreSet fun g w => g.xr (fRs1 w) ^^^ BitVec.ofNat 64 (fImm w)
def coreLui : CoreFn := coreSet fun _ w => fSimm w <<< 16
def coreSlti : CoreFn := coreSet fun g w => if (g.xr (fRs1 w)).slt (fSimm w) then 1 else 0
def coreMvs : CoreFn := coreSet fun g w => g.sumReg (bits w 3 0)
def coreToks : CoreFn := coreSet fun g _ => BitVec.ofNat 64 g.tokenMask

def coreShi : CoreFn := fun k g w s =>
  match shiFn (fImm w) (g.xr (fRs1 w)) with
  | some v => coreNext k (g.setX (fRd w) v) s
  | none => coreTrap k .illegal s

/-- R254, R255: a branch. -/
def coreBranch (c : Cond) : CoreFn := fun k g w s =>
  if c.holds (g.xr (fRd w)) (g.xr (fRs1 w)) then coreJump k g (branchTo g.pc (sext (bits w 15 0) 16)) s else coreNext k g s

def coreJal : CoreFn := fun k g w s =>
  coreJump k (g.setX 1 (BitVec.ofNat 64 (g.pc + 4))) (branchTo g.pc (sext (bits w 25 0) 26)) s

/-- R254, R273: a target that is no multiple of 4 traps. -/
def coreJalr : CoreFn := fun k g w s =>
  let t := (g.xr (fRs1 w) + fSimm w).toNat
  if t % 4 ≠ 0 then coreTrap k .illegal s else coreJump k (g.setX (fRd w) (BitVec.ofNat 64 (g.pc + 4))) t s

/-- R260: the summary on the left, as it stands (R261). -/
def coreBsum : CoreFn := fun k g w s =>
  let v := (g.sumReg (fSreg w)).toNat
  let x := (g.xr (fRs1 w)).toNat % 2 ^ 32
  let taken := if fPart w then sumAux (fCond w) (bits v 63 32) x else sumVal (fCond w) (bits v 31 0) x
  if taken then coreJump k g (branchTo g.pc (sext (bits w 12 0) 13)) s else coreNext k g s

/-! ### Grove store (R257) -/

/-- R257: an access that is misaligned or leaves the grove store traps. -/
def storeAt (g : Grove) (w n : Nat) : Option Nat :=
  let a := (g.xr (fRs1 w) + fSimm w).toNat
  if a % n ≠ 0 || gsEnd < a + n then none else some a

def coreLoad (n : Nat) : CoreFn := fun k g w s =>
  match storeAt g w n with
  | none => coreTrap k .illegal s
  | some a =>
    let ((l, bad), s) := gsRead k a n s
    if bad then groveFault 0x03 (gsBase k + a) k .ecc s else coreNext k ((groveOf s k).setX (fRd w) (BitVec.ofNat 64 (ofLe l))) s

def coreStore (n : Nat) : CoreFn := fun k g w s =>
  match storeAt g w n with
  | none => coreTrap k .illegal s
  | some a =>
    let s := gsWrite k a (leBytes n (g.xr (fRd w)).toNat) s
    coreNext k (groveOf s k) s

/-! ### AMO (R258) -/

/-- R258, R179: the request of an AMO; the register that takes the old value, for a fetch. -/
def amoReq (s : State) (k : Nat) (g : Grove) (w : Nat) : MemReq :=
  let code := bits w 5 0
  let op := memopOp code
  let b := (g.xr (fRs2 w)).toNat
  let c := (g.xr (bits w 10 6)).toNat
  let data := if op = 0x0D then leBytes 8 b ++ leBytes 8 c else if op = 0x0E then leBytes 4 b ++ leBytes 4 c else leBytes (memopOperandBytes op) b
  let ctx := g.ctx.getD 0
  { who := .core k (if memopFetches code then some (fRd w) else none), ctx := ctx, code := code, exact := ctxExact s ctx, part := (getCtx s ctx).part,
    group := bits g.redTag 15 0, contrib := bits g.redTag 31 16, expected := bits g.redTag 40 32, elems := [(0, data)] }

/-- R176, R258: the operation sets out for its Xylem unit, here or on another device. -/
def amoAcc (k : Nat) (m : MemReq) (va : Nat) : Acc Unit := do
  let x ← xlate (.core k) m.ctx va true
  let at_ := fun (o : Nat) => { m with elems := m.elems.map fun e => (o, e.2) }
  match x with
  | .host .. => accFail .perm
  | .loc o =>
    match memopFault m.code o m.exact with
    | some f => accFail f
    | none => accDo (memopIssue (at_ o))
  | .glob dev o => do
    match memopFault m.code o m.exact with
    | some f => accFail f
    | none => pure ()
    if ← accAsk fun s => s.fab.devId == some dev then
      if ← accAsk fun s => sharedRange s o ((memopWidth (memopOp m.code)).getD 8) then accDo (memopIssue (at_ o))
      else fun s => .error (.fail .perm (count Reg.XLT_CNT_REMOTE_REFUSED s))
    else if ← accAsk fun s => reachable s dev then accDo (memopRemote dev (at_ o))
    else accFail .fabric

def coreAmo : CoreFn := fun k g w s =>
  let code := bits w 5 0
  if memopCodeBad code || memopVector (memopOp code) then coreTrap k .illegal s
  else
    let s := runAcc (.core k) (amoAcc k (amoReq s k g w) (g.xr (fRs1 w)).toNat)
      (fun _ s => count (Reg.CORE_CNT_AMO k) (coreNext k (groveOf s k) s)) (coreTrap k) s
    if isWaiting s (.core k) then coreHold k .held s else s

/-! ### Control-state registers (R259) -/

/-- R259: a CSR's value. The cycle CSR moves on by a free number of cycles, since the model keeps no G-cycles. -/
def csrRead (s : State) (k : Nat) (g : Grove) (i : Nat) : Option (W64 × Grove) :=
  let n := groveNode s k
  match i with
  | 0x000 => some (BitVec.ofNat 64 g.logical, g)
  | 0x001 => some (BitVec.ofNat 64 ((n.map (·.groves.length)).getD 0), g)
  | 0x002 => some (BitVec.ofNat 64 ((n.map (·.step)).getD 0), g)
  | 0x003 => let c := (g.cycle + (Config.undef s.free).toNat) % 2 ^ 64; some (BitVec.ofNat 64 c, { g with cycle := c })
  | 0x004 => some (BitVec.ofNat 64 s.now, g)
  | 0x005 => some (BitVec.ofNat 64 g.redTag, g)
  | 0x006 => some (BitVec.ofNat 64 (b2n (groveExact s k)), g)
  | 0x007 => some (BitVec.ofNat 64 (g.ctx.getD 0), g)
  | 0x008 => some (BitVec.ofNat 64 g.barGen, g)
  | _ => none

def coreCsrr : CoreFn := fun k g w s =>
  match csrRead s k g (bits w 11 0) with
  | some (v, g) => coreNext k (g.setX (fRd w) v) (s.setFree (s.free + 1))
  | none => coreTrap k .illegal s

/-- R259: only red_tag is written. -/
def coreCsrw : CoreFn := fun k g w s =>
  if bits w 11 0 = 0x005 then coreNext k { g with redTag := (g.xr (fRs1 w)).toNat % 2 ^ 41 } s else coreTrap k .illegal s

/-! ### Issue to the engines (R262 to R264) -/

/-- R262: a token is pending. -/
def Grove.tokenPending (g : Grove) (t : Nat) : Bool := g.tokens.any fun x => x.1 == t

/-- R184: words of the grove store that an issue reads; a poisoned one traps. -/
def issueRead (k off n : Nat) (ok : State → State) (s : State) : State :=
  if gsEnd < off + n then ok s
  else
    let ((_, bad), s) := gsRead k off n s
    if bad then groveFault 0x03 (gsBase k + off) k .ecc s else ok s

/-- R262: work is issued under a token. -/
def coreIssued (k t : Nat) (e : Eng) (s : State) : State :=
  let g := groveOf s k
  coreNext k { g with tokens := g.tokens ++ [(t, e)] } s

/-- R262, R263: an X-format instruction: it waits for its token, then for a place in its engine. -/
def coreIssue (full : Grove → Bool) (f : Nat → Nat → Nat → State → State) : CoreFn := fun k g w s =>
  if g.tokenPending (fToken w) || full g then coreHold k .held s else f k (g.xr (fRd w)).toNat (fToken w) s

def coreLtile : CoreFn := coreIssue (fun g => decide (8 ≤ (g.tiles.filter fun t => !t.started).length)) fun k off t s =>
  issueRead k off 64 (fun s =>
    let x := tileAt k off t s
    if tileBad s k x then coreTrap k .illegal s else coreIssued k t .tile (tileIssue k x s)) s

def coreVchain : CoreFn := coreIssue (fun g => decide (4 ≤ g.chains.length)) fun k off t s =>
  issueRead k off 128 (fun s =>
    let c := chainAt k off t s
    if chainBad s k c then coreTrap k .illegal s
    else coreIssued k t .chain (updGrove k (fun g => { g with chains := g.chains ++ [c] }) s)) s

def coreHstart : CoreFn := fun k g w s =>
  coreIssue (fun g => (mget ({} : HChan) g.chans (fChan w)).running) (fun k off t s =>
    issueRead k off 64 (fun s =>
      let c := hstartChan s k off t
      match hstartBad s k (fChan w) off c with
      | some f => coreTrap k f s
      | none => coreIssued k t (.helix (fChan w)) (hstartRun k (fChan w) c s)) s) k g w s

def coreGdma : CoreFn := fun k g w s =>
  coreIssue (fun _ => decide (16 ≤ (gdmaOf s k).queue.length)) (fun k off t s =>
    issueRead k off 64 (fun s =>
      let d := descOf off (gsPeek s k off 64) (some t)
      if off % 64 ≠ 0 || gsEnd < off + 64 || d.malformed true then coreTrap k .illegal s
      else coreIssued k t .gdma (setGdma k { gdmaOf s k with queue := (gdmaOf s k).queue ++ [d] } s)) s) k g w s

/-! ### Waits (R265) and work counters (R266) -/

def coreWait : CoreFn := fun k g w s =>
  if g.tokenMask &&& bits w 15 0 = 0 then coreNext k g s else coreHold k (.tokens (bits w 15 0)) s

def coreFence : CoreFn := fun k g _ s => if amoOpen s k then coreHold k .held s else coreNext k g s

/-- R266: in Exact mode each Grove counts its own draws; in Free mode the node's Groves share the counters. -/
def coreWork : CoreFn := fun k g w s =>
  let c := bits w 1 0
  let limit := (g.xr (fRs1 w)).toNat
  let all := BitVec.allOnes 64
  let give := fun (v : Nat) => if v < limit then BitVec.ofNat 64 v else all
  match groveNode s k with
  | none => s
  | some n =>
    if groveExact s k then
      let v := g.logical + g.work.getD c 0 * n.groves.length
      let g := if v < limit then { g with work := g.work.set c (g.work.getD c 0 + 1) } else g
      coreNext k (g.setX (fRd w) (give v)) s
    else
      let v := n.work.getD c 0
      coreNext k (g.setX (fRd w) (give v)) (updNode n.ctx (fun n => { n with work := n.work.set c ((v + 1) % 2 ^ 64) }) s)

/-! ### TAG (R271) -/

/-- R271: a region outside the grove store traps; an armed dump that matches fires. -/
def coreTag : CoreFn := fun k g w s =>
  let r := (g.xr (fRd w)).toNat
  let off := bits r 21 0
  let len := bits r 54 32
  let tensor := (g.xr (fRs1 w)).toNat % 2 ^ 32
  let step := (g.xr (fRs2 w)).toNat % 2 ^ 32
  let ctx := g.ctx.getD 0
  if len = 0 || gsEnd < off + len then coreTrap k .illegal s
  else match dumpMatch s ctx tensor step with
  | none => coreNext k g (emit 0x0C k ctx tensor step 0 s)
  | some d =>
    let s := count (Reg.CORE_CNT_TAG_FIRE k) (emit 0x0C k ctx tensor step 1 s)
    match dumpFire k d off len s with
    | (none, s) => coreNext k (groveOf s k) s
    | (some c, s) => updGrove k (fun g => { g with dump := some c, wait := .tag }) s

/-- R532: the copy of a TAG arrives: data, then the record header; the TAG completes. -/
def tagCopyDone (k : Nat) (s : State) : State :=
  let g := groveOf s k
  match g.dump with
  | none => s
  | some c =>
    if !engineOn s k then s
    else
      let ctx := g.ctx.getD 0
      let ((l, bad), s) := gsRead k c.off c.len s
      if bad then groveFault 0x03 (gsBase k + c.off) k .ecc s
      else
        runAcc (.dump k) (do
            ctxWrite (.dump k) ctx (c.space + 64) (padTo (64 * ((c.len + 63) / 64)) l)
            ctxWrite (.dump k) ctx c.space (recordHeader s k c l false))
          (fun _ s =>
            let s := match s.obs.dumps.find? fun d => d.ctx == ctx && d.slot == c.slot with
              | some d => putDump { d with records := d.records + 1 } s
              | none => s
            coreNext k { groveOf s k with dump := none } s)
          (fun f s => groveFault 0x00 c.space k f s) s

def execTagCopyDone (k : Nat) (s : State) : Host.Outcome State Fault Refusal := whileOn (tagCopyDone k) s

/-! ### Hosted logical Groves (R267) -/

/-- R267: a logical Grove leaves its host Grove, saved as for soft pre-emption. -/
def turnOut (n : Node) (k : Nat) (ended : Bool) (s : State) : State :=
  let x := getCtx s n.ctx
  let g := (groveOf s k).stopped
  let d := gdmaOf s k
  let s := saveWrite (slotAt x g.logical + 0x400000) (slotRecords g k s.now d.queue d.waiting.isSome ended false) s
  let store := s.mem.bytes.filter fun c => decide (gsBase k ≤ c.1) && decide (c.1 < gsBase k + 0x400000)
  let s := s.setGro { s.gro with saved := s.gro.saved ++ [{ ctx := n.ctx, grove := g, store := store.map (fun c => (c.1 - gsBase k, c.2)), gdma := d, ended := ended }] }
  groveClearWork k (unbindGrove k s)

/-- R267: the Grove goes on to the logical Grove whose turn it is. The time of a hosted turn does not count toward a barrier's timeout. -/
def turnNext (ctx k : Nat) (s : State) : State :=
  match nodeOf s ctx with
  | none => s
  | some n =>
    let g := groveOf s k
    match turnNow s n n.groves k with
    | none => s
    | some j =>
      if j = g.logical then s
      else match s.gro.saved.find? fun v => v.ctx == ctx && v.grove.logical == j with
      | none => s
      | some v =>
        let hosted := (launchSlice s n)[g.logical]? != some k
        let s := if hosted && !n.arrived.isEmpty then updNode ctx (fun n => { n with barAt := n.barAt + (s.now + 2 ^ 64 - g.since) % 2 ^ 64 }) s else s
        restoreGrove k v (turnOut n k (n.ended.contains g.logical) s)

/-! ### Barriers (R269, R270) -/

/-- R269: the Grove may arrive: its tokens are released, but for channels at BARW, and its AMOs have completed. -/
def mayArrive (s : State) (k : Nat) : Bool :=
  let g := groveOf s k
  (g.tokens.all fun t => match t.2 with
    | .helix ch => (chanOf s k ch).barw
    | _ => false) && !amoOpen s k

/-- A Grove of a complete generation goes on. -/
def Grove.pass (g : Grove) : Grove := { g with pc := g.pc + 4, wait := .none, barGen := (g.barGen + 1) % 2 ^ 32 }

/-- R269: the generation is complete: bar_gen advances on each Grove, and a host Grove goes back to its own logical Grove. -/
def barrierDone (n : Node) (s : State) : State :=
  let ks := n.groves.eraseDups
  let s := emit 0x0D 129 n.ctx n.barId n.barGen 0 s
  let s := ks.foldl (fun s k => updGrove k Grove.pass s) s
  let s := n.groves.foldl (fun s k => count (Reg.CORE_CNT_INSTR k) s) s
  let s := s.setGro { s.gro with saved := s.gro.saved.map fun v => if v.ctx == n.ctx then { v with grove := v.grove.pass } else v }
  let s := updNode n.ctx (fun n => { n with arrived := [], barGen := (n.barGen + 1) % 2 ^ 32 }) s
  ks.foldl (fun s k => turnNext n.ctx k s) (progress n.ctx s)

/-- R269, R270: an arrival at a barrier. -/
def coreBar : CoreFn := fun k g w s =>
  let id := bits w 3 0
  match groveNode s k with
  | none => s
  | some n =>
    if !mayArrive s k then coreHold k (.barrier id) s
    else if !n.ended.isEmpty || (!n.arrived.isEmpty && n.barId != id) then coreTrap k .illegal s
    else
      let n := if n.arrived.isEmpty then { n with barId := id, barAt := s.now, barFirst := k } else n
      let n := { n with arrived := n.arrived ++ [g.logical] }
      let s := coreHold k (.barrier id) (updNode n.ctx (fun _ => n) s)
      if n.arrived.length = n.groves.length then barrierDone n s else turnNext n.ctx k s

/-- R270: a generation is not complete in the first arriver's time. -/
def barrierTimeout (ctx : Nat) (s : State) : State :=
  match nodeOf s ctx with
  | none => s
  | some n =>
    if n.arrived.isEmpty || n.state != .running then s
    else
      let t := bits (regGet s (Reg.CORE_BAR_TIMEOUT n.barFirst)) 31 0 * usUnits
      groveFault 0x06 0 n.barFirst .barrierTimeout (reachTime ((n.barAt + t) % 2 ^ 64) s)

def execBarrierTimeout (ctx : Nat) (s : State) : Host.Outcome State Fault Refusal := whileOn (barrierTimeout ctx) s

/-! ### The end of a program (R272, R394) -/

/-- R394, R424, R533: every Grove has ended: the node completes and hands its Groves back. -/
def nodeComplete (n : Node) (s : State) : State :=
  let ks := n.groves.eraseDups
  let s := ks.foldl (fun s k => setGdma k {} (groveClearWork k (unbindGrove k (setGrove k {} s)))) s
  let s := s.setSched { s.sched with nodes := s.sched.nodes.filter fun m => m.ctx != n.ctx || m.cmd != n.cmd }
  let s := s.setGro { s.gro with saved := s.gro.saved.filter fun v => v.ctx != n.ctx }
  let (_, idx, gen) := nodeIdent s n.cmd
  let s := emit 0x04 129 n.ctx idx gen stOk s
  let s := match n.cmd.src with
    | .node .. => s
    | _ => closeDumps n.ctx none s
  pinSettleAll (completeOk n.cmd n.maxCycle (progress n.ctx s))

/-- R270, R272: END. -/
def coreEnd : CoreFn := fun k g _ s =>
  match groveNode s k with
  | none => s
  | some n =>
    if !n.arrived.isEmpty || (g.tokens.any fun t => match t.2 with | .helix ch => (chanOf s k ch).barw | _ => false) then coreTrap k .illegal s
    else if !g.tokens.isEmpty || amoOpen s k then coreHold k .ending s
    else
      let cycle := (g.cycle + (Config.undef s.free).toNat) % 2 ^ 64
      let s := count (Reg.CORE_CNT_INSTR k) (setGrove k { g with running := false, wait := .none, cycle := cycle } (s.setFree (s.free + 1)))
      let n := { n with ended := n.ended ++ [g.logical], maxCycle := max n.maxCycle cycle }
      let s := updNode n.ctx (fun _ => n) s
      if n.ended.length = n.groves.length then nodeComplete n s else turnNext n.ctx k s

/-! ### Commands -/

/-- The instruction of an opcode. -/
def coreInstr (op : Nat) : CoreFn :=
  match op with
  | 0x00 => coreAlu | 0x01 => coreAddi | 0x02 => coreAndi | 0x03 => coreOri | 0x04 => coreXori | 0x05 => coreShi | 0x06 => coreLui
  | 0x07 => coreSlti | 0x08 => coreLoad 8 | 0x09 => coreLoad 4 | 0x0A => coreStore 8 | 0x0B => coreStore 4 | 0x0C => coreAmo
  | 0x10 => coreBranch .eq | 0x11 => coreBranch .ne | 0x12 => coreBranch .lt | 0x13 => coreBranch .ge | 0x14 => coreBranch .ltu
  | 0x15 => coreBranch .geu | 0x16 => coreJal | 0x17 => coreJalr | 0x18 => coreBsum | 0x19 => coreMvs | 0x1A => coreCsrr | 0x1B => coreCsrw
  | 0x30 => coreLtile | 0x31 => coreVchain | 0x32 => coreHstart | 0x33 => coreGdma | 0x34 => coreWait | 0x35 => coreToks
  | 0x38 => coreBar | 0x39 => coreFence | 0x3A => coreWork | 0x3C => coreTag | 0x3F => coreEnd
  | _ => fun _ _ _ s => s

/-- R265, R274: the held instruction is executed again. -/
def coreAgain (k : Nat) (s : State) : State := coreFetch k coreInstr (coreHold k .none s)

/-- R262, R263, R265, R269: a held core goes on when its condition is met. -/
def coreResume (k : Nat) (s : State) : State :=
  let g := groveOf s k
  if !coreOn s k then s
  else match g.wait with
  | .none => s
  | .held => if isWaiting s (.core k) then s else coreAgain k s
  | .tag => if g.dump.isSome then s else coreAgain k s
  | .barrier _ => if (groveNode s k).any fun n => n.arrived.contains g.logical then s else coreAgain k s
  | _ => coreAgain k s

/-- R273: the Grove's time in its node reaches the watchdog's limit. -/
def coreWatchdog (k : Nat) (s : State) : State :=
  let g := groveOf s k
  let limit := bits (regGet s (Reg.CORE_WDOG k)) 31 0 * usUnits
  if !coreOn s k || limit = 0 then s
  else coreTrap k .watchdog (reachTime ((g.since + (limit - g.elapsed)) % 2 ^ 64) s)

def execCoreResume (k : Nat) (s : State) : Host.Outcome State Fault Refusal := whileOn (coreResume k) s
def execCoreWatchdog (k : Nat) (s : State) : Host.Outcome State Fault Refusal := whileOn (coreWatchdog k) s

def execAlu (k : Nat) (s : State) : Host.Outcome State Fault Refusal := whileOn (coreRow 0x00 k coreAlu) s
def execAddi (k : Nat) (s : State) : Host.Outcome State Fault Refusal := whileOn (coreRow 0x01 k coreAddi) s
def execAndi (k : Nat) (s : State) : Host.Outcome State Fault Refusal := whileOn (coreRow 0x02 k coreAndi) s
def execOri (k : Nat) (s : State) : Host.Outcome State Fault Refusal := whileOn (coreRow 0x03 k coreOri) s
def execXori (k : Nat) (s : State) : Host.Outcome State Fault Refusal := whileOn (coreRow 0x04 k coreXori) s
def execShi (k : Nat) (s : State) : Host.Outcome State Fault Refusal := whileOn (coreRow 0x05 k coreShi) s
def execLui (k : Nat) (s : State) : Host.Outcome State Fault Refusal := whileOn (coreRow 0x06 k coreLui) s
def execSlti (k : Nat) (s : State) : Host.Outcome State Fault Refusal := whileOn (coreRow 0x07 k coreSlti) s
def execLd (k : Nat) (s : State) : Host.Outcome State Fault Refusal := whileOn (coreRow 0x08 k (coreLoad 8)) s
def execLw (k : Nat) (s : State) : Host.Outcome State Fault Refusal := whileOn (coreRow 0x09 k (coreLoad 4)) s
def execSd (k : Nat) (s : State) : Host.Outcome State Fault Refusal := whileOn (coreRow 0x0A k (coreStore 8)) s
def execSw (k : Nat) (s : State) : Host.Outcome State Fault Refusal := whileOn (coreRow 0x0B k (coreStore 4)) s
def execAmo (k : Nat) (s : State) : Host.Outcome State Fault Refusal := whileOn (coreRow 0x0C k coreAmo) s
def execBeq (k : Nat) (s : State) : Host.Outcome State Fault Refusal := whileOn (coreRow 0x10 k (coreBranch .eq)) s
def execBne (k : Nat) (s : State) : Host.Outcome State Fault Refusal := whileOn (coreRow 0x11 k (coreBranch .ne)) s
def execBlt (k : Nat) (s : State) : Host.Outcome State Fault Refusal := whileOn (coreRow 0x12 k (coreBranch .lt)) s
def execBge (k : Nat) (s : State) : Host.Outcome State Fault Refusal := whileOn (coreRow 0x13 k (coreBranch .ge)) s
def execBltu (k : Nat) (s : State) : Host.Outcome State Fault Refusal := whileOn (coreRow 0x14 k (coreBranch .ltu)) s
def execBgeu (k : Nat) (s : State) : Host.Outcome State Fault Refusal := whileOn (coreRow 0x15 k (coreBranch .geu)) s
def execJal (k : Nat) (s : State) : Host.Outcome State Fault Refusal := whileOn (coreRow 0x16 k coreJal) s
def execJalr (k : Nat) (s : State) : Host.Outcome State Fault Refusal := whileOn (coreRow 0x17 k coreJalr) s
def execBsum (k : Nat) (s : State) : Host.Outcome State Fault Refusal := whileOn (coreRow 0x18 k coreBsum) s
def execMvs (k : Nat) (s : State) : Host.Outcome State Fault Refusal := whileOn (coreRow 0x19 k coreMvs) s
def execCsrr (k : Nat) (s : State) : Host.Outcome State Fault Refusal := whileOn (coreRow 0x1A k coreCsrr) s
def execCsrw (k : Nat) (s : State) : Host.Outcome State Fault Refusal := whileOn (coreRow 0x1B k coreCsrw) s
def execLtile (k : Nat) (s : State) : Host.Outcome State Fault Refusal := whileOn (coreRow 0x30 k coreLtile) s
def execVchain (k : Nat) (s : State) : Host.Outcome State Fault Refusal := whileOn (coreRow 0x31 k coreVchain) s
def execHstart (k : Nat) (s : State) : Host.Outcome State Fault Refusal := whileOn (coreRow 0x32 k coreHstart) s
def execGdma (k : Nat) (s : State) : Host.Outcome State Fault Refusal := whileOn (coreRow 0x33 k coreGdma) s
def execWait (k : Nat) (s : State) : Host.Outcome State Fault Refusal := whileOn (coreRow 0x34 k coreWait) s
def execToks (k : Nat) (s : State) : Host.Outcome State Fault Refusal := whileOn (coreRow 0x35 k coreToks) s
def execBar (k : Nat) (s : State) : Host.Outcome State Fault Refusal := whileOn (coreRow 0x38 k coreBar) s
def execCoreFence (k : Nat) (s : State) : Host.Outcome State Fault Refusal := whileOn (coreRow 0x39 k coreFence) s
def execWork (k : Nat) (s : State) : Host.Outcome State Fault Refusal := whileOn (coreRow 0x3A k coreWork) s
def execTag (k : Nat) (s : State) : Host.Outcome State Fault Refusal := whileOn (coreRow 0x3C k coreTag) s
def execEndProg (k : Nat) (s : State) : Host.Outcome State Fault Refusal := whileOn (coreRow 0x3F k coreEnd) s

end Sys2Proof.Machine
end

