-- ==== Sys2Proof/Machine/Xylem.lean ====
section
/-!
DEFINITION. Memory-side operations at their Xylem units and their outcomes (R175 to R180), the patrol scrub (R186), the mode of Canopy
ways (R172), raw test access and post-package repair (R188, R189), and Taproot's own repairs (R190 to R192).
-/

namespace Sys2Proof.Machine

/-! ### Outcomes (R176, R177, R258, R345, R452) -/

/-- R452: status and fault of a response, and the old value. -/
def outStatus (r : Except Flt Nat) : Nat × Nat × Nat :=
  match r with
  | .ok v => (0, 0, v)
  | .error f => (stFault, f.code, 0)

/-- The outcome of an operation reaches its requester. `remote` says that another device applied it. -/
def memopOutcome (remote : Bool) (m : MemReq) (r : Except Flt Nat) (s : State) : State :=
  match m.who with
  | .core k rd =>
    match r, rd with
    | .ok v, some d => setGrove k ((groveOf s k).setX d (BitVec.ofNat 64 v)) s
    | .ok _, none => s
    | .error f, _ => groveFault (if f == .ecc then 0x01 else 0x06) ((m.elems.map (·.1)).headD 0) k f s
  | .dma w => dmaMemopResult w remote r s
  | .remote dev tag =>
    let (st, f, v) := outStatus r
    send dev (.memopAck tag st f (if memopFetches m.code then v else 0)) s
  | .chain _ => s

def memopOutcomes (l : MemOut) (s : State) : State := l.foldl (fun s x => memopOutcome false x.1 x.2 s) s

/-- R177: operation `j` of those on their way reaches its Xylem unit. -/
def memopApplied (j : Nat) (s : State) : State :=
  match s.xyl.reqs[j]? with
  | none => s
  | some m =>
    let (l, s) := memopReach m (s.setXyl { s.xyl with reqs := s.xyl.reqs.eraseIdx j })
    memopOutcomes l s

def execXylemMemopApply (j : Nat) (s : State) : Host.Outcome State Fault Refusal := whileOn (memopApplied j) s

/-- R179: staging entries have become free: first contributions that waited reserve them, and the others of their group join. -/
def stagingReserve (channel : Nat) (s : State) : State :=
  let w := s.xyl.waiting.filter fun m => channelOf (m.sector * 64) == channel
  let s := s.setXyl { s.xyl with waiting := s.xyl.waiting.filter fun m => channelOf (m.sector * 64) != channel }
  w.foldl (fun s m =>
    let (l, s) := memopStage m s
    memopOutcomes l s) s

def execRedStagingReserve (channel : Nat) (s : State) : Host.Outcome State Fault Refusal := whileOn (stagingReserve channel) s

/-- R180: an incomplete group is discarded at its timeout. -/
def groupTimeout (part group sector : Nat) (s : State) : State :=
  match s.xyl.groups.find? fun g => g.part == part && g.group == group && g.sector == sector with
  | none => s
  | some g =>
    let s := reachTime ((g.start + bits (regGet s Reg.MEM_RED_CFG) 15 0 * usUnits) % 2 ^ 64) s
    let s := count Reg.MEM_CNT_RED_TIMEOUT (s.setXyl { s.xyl with groups := s.xyl.groups.erase g })
    memopOutcomes (g.staged.map fun m => (m, .error .watchdog)) s

def execRedGroupTimeout (part group sector : Nat) (s : State) : Host.Outcome State Fault Refusal := whileOn (groupTimeout part group sector) s

/-! ### Patrol scrub (R184, R186) -/

/-- R186: a sector is read and checked. `err` is what the check finds beside what the model holds: 0 nothing, 1 a single-bit error,
2 an uncorrectable one, 3 a corrected report of the on-die ECC. -/
def patrolScrub (sector err : Nat) (s : State) : State :=
  if !bit (regGet s Reg.MEM_SCRUB_CFG) 8 || !isHbm (sector * 64) then s
  else
    let s := if err = 1 ∨ err = 2 then s.setMem { s.mem with latent := mset 0 s.mem.latent sector err } else s
    let s := if err = 3 then count Reg.MEM_CNT_ODECC s else s
    let fixed := mget 0 s.mem.latent sector != 0
    let s := (meetErrors (sector * 64) 64 s).2
    if fixed then canInvalidate (sector * 64) s else s

def execPatrolScrub (sector err : Nat) (s : State) : Host.Outcome State Fault Refusal := whileOn (patrolScrub sector err) s

/-! ### Way modes (R172) -/

/-- R172: a context exists in a partition whose mask holds the way. -/
def wayInUse (s : State) (w : Nat) : Bool :=
  s.sched.ctxs.any fun x => x.state != .none && (partOf s x.part).exist && bit (partOf s x.part).ways w

/-- R172: a way begins a new use: its lines are invalidated and its scratchpad is written to zero on both dies. -/
def wayClear (w : Nat) (s : State) : State :=
  [0, 1].foldl (fun s d => memZero (0x200000000000 + d * 0x40000000 + w * 0x2000000) 0x2000000 s) (canDrop (fun l => l.way == w) s)

def wayModeWrite (value : Nat) (s : State) : State :=
  let old := regGet s Reg.CAN_WAY_MODE
  ((List.range 31).filter fun w => bit value w != bit old w).foldl (fun s w =>
    if wayInUse s w then count Reg.CAN_CNT_MODE_REFUSED s
    else regField Reg.CAN_WAY_MODE w w (bits value w w) (wayClear w s)) s

def execCanWayModeWrite (value : Nat) (s : State) : Host.Outcome State Fault Refusal := whileServed Reg.CAN_WAY_MODE (wayModeWrite value) s

/-! ### Raw test access (R188, R189) -/

/-- R190: repairs that wait begin while none runs and no raw test access is requested. -/
def repairNext (s : State) : State :=
  if s.xyl.maint || s.xyl.repair.isSome then s
  else match s.xyl.repairs with
    | [] => s
    | r :: rest => s.setXyl { s.xyl with repair := some r, repairs := rest }

def setGranted (g : Bool) (s : State) : State := regField Reg.MEM_TEST_STAT 0 0 (b2n g) (s.setXyl { s.xyl with granted := g })

/-- R188: a write of `MEM_TEST_CTL`. -/
def testCtlWrite (value : Nat) (s : State) : State :=
  if isSealed s then s
  else if bit value 0 then
    if !s.xyl.maint && s.sched.ctxs.any fun x => x.state != .none then s
    else
      let moved := bits value 3 1 != bits (regGet s Reg.MEM_TEST_CTL) 3 1
      let s := regWrite Reg.MEM_TEST_CTL value (s.setXyl { s.xyl with maint := true })
      if moved then setGranted false s else s
  else repairNext (setGranted false (regWrite Reg.MEM_TEST_CTL value (s.setXyl { s.xyl with maint := false })))

def execMaintRequest (value : Nat) (s : State) : Host.Outcome State Fault Refusal := whileServed Reg.MEM_TEST_CTL (testCtlWrite value) s
def execMaintRelease (value : Nat) (s : State) : Host.Outcome State Fault Refusal := whileServed Reg.MEM_TEST_CTL (testCtlWrite value) s

/-- R188: traffic to the stack has stopped, and no repair of Taproot runs. -/
def maintGrant (s : State) : State := if s.xyl.maint && s.xyl.repair.isNone then setGranted true s else s

def execMaintGrant (s : State) : Host.Outcome State Fault Refusal := whileOn maintGrant s

/-- R188, R189: raw test access is open. -/
def testOpen (s : State) : Bool := s.xyl.maint && s.xyl.granted && !isSealed s

/-- R188: a write of `MEM_PPR_REQ`; `go` starts the repair. -/
def pprGo (value : Nat) (s : State) : State :=
  let s := regWrite Reg.MEM_PPR_REQ (setBits value 13 13 0) s
  if bit value 13 && testOpen s && !s.xyl.ppr then regField Reg.MEM_TEST_STAT 1 1 1 (s.setXyl { s.xyl with ppr := true }) else s

def execPprGo (value : Nat) (s : State) : Host.Outcome State Fault Refusal := whileServed Reg.MEM_PPR_REQ (pprGo value) s

/-- R188: a sector whose contents become undefined. -/
def undefSector (k : Nat) (s : State) : State :=
  memWrite (k * 64) ((List.range 64).map fun i => BitVec.ofNat 8 (Config.undef (s.free + i)).toNat) (s.setFree (s.free + 64))

/-- R188: the repair ends: 0 done, 1 failed, 2 no resource. The contents of a repaired row are undefined. -/
def pprDone (status : Nat) (s : State) : State :=
  if !s.xyl.ppr || 2 < status then s
  else
    let r := regGet s Reg.MEM_PPR_REQ
    let c := bits (regGet s Reg.MEM_TEST_CTL) 3 1 * 32 + bits r 4 0
    let s := regOr Reg.MEM_PPR_STAT (1 <<< status) (regField Reg.MEM_TEST_STAT 1 1 0 (s.setXyl { s.xyl with ppr := false }))
    if status = 0 then (Config.rowSectors c (bits r 5 5) (bits r 11 6) (bits r 49 32)).foldl (fun s k => undefSector k s) s else s

def execPprDone (status : Nat) (s : State) : Host.Outcome State Fault Refusal := whileOn (pprDone status) s

/-- R188, R189: the IEEE 1500 window is connected. -/
def tapOpen (s : State) : Bool := testOpen s && bit (regGet s Reg.MEM_TEST_CTL) 4

/-- R188: an instruction is shifted in, with the length of the data register that follows. -/
def instrWrite (value : Nat) (s : State) : State := if tapOpen s then s.setXyl { s.xyl with shiftIn := [value % 2 ^ 16] } else s

def execMem1500InstrWrite (value : Nat) (s : State) : Host.Outcome State Fault Refusal := whileServed Reg.MEM_1500_INSTR (instrWrite value) s

/-- R188: a word is shifted in. -/
def tapDataWrite (value : Nat) (s : State) : State :=
  if tapOpen s then regWrite Reg.MEM_1500_DATA value (s.setXyl { s.xyl with shiftIn := s.xyl.shiftIn ++ [value % 2 ^ 32] }) else s

def execMem1500DataWrite (value : Nat) (s : State) : Host.Outcome State Fault Refusal := whileServed Reg.MEM_1500_DATA (tapDataWrite value) s

/-- R188: a read returns the word shifted out, which JEDEC's instruction decides: a free value, left in the register. -/
def tapDataRead (s : State) : State :=
  if tapOpen s then
    let (n, s) := drawFree s
    regPut Reg.MEM_1500_DATA ((Config.undef n).toNat % 2 ^ 32) s
  else s

def execMem1500DataRead (s : State) : Host.Outcome State Fault Refusal := whileServed Reg.MEM_1500_DATA tapDataRead s

/-! ### Taproot's repairs (R190) -/

/-- R190: the row's sectors are read into the buffer, corrected, and written back with their poison. -/
def repairSectors (r : Repair) (s : State) : State :=
  (s.mem.latent.filter fun p => isHbm (p.1 * 64) && Repair.same r (rowPlace p.1 false)).foldl (fun s p =>
    let s := s.setMem { s.mem with
      latent := s.mem.latent.filter fun q => q.1 != p.1
      poison := if p.2 = 1 then s.mem.poison else keyInsert p.1 s.mem.poison }
    canInvalidate (p.1 * 64) (count (if p.2 = 1 then Reg.MEM_CNT_CE else Reg.MEM_CNT_UE) s)) s

/-- R190, R191, R192: the repair ends; `soft` is false for a row that the bank has no spare for. -/
def repairDone (soft : Bool) (s : State) : State :=
  match s.xyl.repair with
  | none => s
  | some r =>
    let s := repairLog r (if soft then 0 else 2) (repairSectors r (s.setXyl { s.xyl with repair := none }))
    repairNext (if soft then count Reg.MEM_CNT_REPAIR s else s)

def execTaprootRepairDone (soft : Bool) (s : State) : Host.Outcome State Fault Refusal := whileOn (repairDone soft) s

end Sys2Proof.Machine
end

