-- ==== Sys2Proof/Machine/Links.lean ====
section
/-!
DEFINITION. The link layer of the Chords: training, flits, replay and retraining (R439 to R444), HELLO (R440, R456),
the failure of a message end to end (R450), and the enabling and draining of Chords (R43, R46).
-/

namespace Sys2Proof.Machine

/-! ### The device's own fields -/

def ownUid (s : State) : Nat := regGet s Reg.GLB_UID
def mgrCapable (s : State) : Bool := bit (regGet s Reg.GLB_PART) 25
def isReserve (s : State) : Bool := bit (regGet s Reg.GLB_PART) 26

/-- R456: the HELLO of a Chord. -/
def helloOf (s : State) (n : Nat) : HelloMsg :=
  { uid := ownUid s, mgrCapable := mgrCapable s, candidate := s.fab.candidate, reserve := isReserve s, chord := n, dev := ownId s,
    term := s.fab.term, mgrUid := s.fab.mgrUid }

def sendHello (n : Nat) (s : State) : State := sendOn n 0xFFFF (.hello (helloOf s n)) s

def upChords (s : State) : List Nat := (List.range 16).filter fun n => (chordOf s n).up

/-- R456: a field of HELLO has changed. -/
def helloAll (s : State) : State := (upChords s).foldl (fun s n => sendHello n s) s

/-- A change after which HELLO is sent again if one of its fields differs. -/
def withHello (f : State → State) (s : State) : State :=
  let t := f s
  if helloOf s 0 == helloOf t 0 then t else helloAll t

/-! ### Failure end to end (R450) -/

/-- R112, R145, R152, R348, R452: what the sending engine does when a request has failed. -/
def bodyLost (dst : Nat) (b : Body) (s : State) : State :=
  match b with
  | .updBatch m =>
    match s.tbl.relays.find? fun r => r.id == m.id with
    | some r =>
      let s := s.setTbl { s.tbl with
        relays := s.tbl.relays.filter fun x => x.id != m.id
        serves := s.tbl.serves.filter fun v => !(v.src == r.src && v.ack.id == r.batch) }
      updLost dst m.id s
    | none => updLost dst m.id s
  | .invalidate r => s.setTbl { s.tbl with serves := s.tbl.serves.filter fun v => !v.inv.contains (r.row, dst) }
  | .repFill r => fillLost r s
  | .repAdd r h => repLost r h s
  | .repDrop r h => repLost r h s
  | .memop m =>
    match s.xyl.remote.find? fun x => x.1 == m.tag with
    | some x => memopOutcome true x.2 (.error .fabric) (s.setXyl { s.xyl with remote := s.xyl.remote.filter fun y => y.1 != m.tag })
    | none => waitLost m.tag s
  | .gread _ _ t => waitLost t s
  | .gwrite _ t _ => waitLost t s
  | _ => s
where
  /-- An access that waits for an answer of the fabric has failed; its work finds FLT_FABRIC when it goes on. -/
  waitLost (tag : Nat) (s : State) : State :=
    let (ws, s) := takeWaits (fun w => w.tag == tag && (match w.need with
      | .gread .. | .gwrite .. | .memop .. => true
      | _ => false)) s
    ws.foldl (fun s w => recordFail w.work .fabric s) s

/-- A timed request has failed. -/
def timedLost (t : Timed) (s : State) : State :=
  pumpWaiting (bodyLost t.dst t.body (s.setFab { s.fab with timed := s.fab.timed.filter fun x => x.tag != t.tag }))

/-- R450: messages that wait for a destination fail when it is DOWN. -/
def waitingLost (dev : Nat) (s : State) : State :=
  let ms := s.fab.waiting.filter fun m => m.dst == dev
  ms.foldl (fun s m => bodyLost m.dst m.body s) (s.setFab { s.fab with waiting := s.fab.waiting.filter fun m => m.dst != dev })

/-! ### Training and retraining (R439, R442) -/

/-- R443: the receive buffers that a Chord grants when it comes up, by virtual channel. -/
def linkBuffers : List Nat := [64, 16, 256, 512, 256, 512]

/-- R561, R562: the SerDes PLL of a Chord is locked. -/
def serdesLocked (s : State) (n : Nat) : Bool := bit (regGet s Reg.CLK_STAT) (2 + n / 4)

/-- R439, R442: a Chord's training or retraining ends. -/
def chordTrained (n : Nat) (ok : Bool) (s : State) : State :=
  let c := chordOf s n
  if 16 ≤ n || s.hl.perstLow || c.fn.state == .disabled || !serdesLocked s n || (c.up && !c.retraining) then s
  else if c.retraining then
    if ok then pumpWaiting (chordPump 512 n (setChord n { c with retraining := false, badRun := 0, replays := [] } s)) else s
  else
    let s := count (Reg.CHORD_CNT_RETRAIN n) s
    if !ok then s
    else
      let d : Chord := { fn := c.fn, up := true, credits := linkBuffers, txq := c.txq }
      pumpWaiting (chordPump 512 n (setChord n d s))

def execChordTrainDone (n : Nat) (ok : Bool) (s : State) : Host.Outcome State Fault Refusal := whileOn (chordTrained n ok) s

/-- R442: a Chord retrains. -/
def chordRetrain (n : Nat) (s : State) : State :=
  count (Reg.CHORD_CNT_RETRAIN n) (setChord n { chordOf s n with retraining := true, badRun := 0, replays := [] } s)

/-- The packet area of a flit. -/
def flitArea (b : List Byte) : List Byte := slice 8 240 b
def flitHead (b : List Byte) : Bool := bit (leAt b 0 8) 25
def flitTail (b : List Byte) : Bool := bit (leAt b 0 8) 26

/-- A timed request whose first flit is `b`. -/
def timedOf (s : State) (n : Nat) (b : List Byte) : Option Timed :=
  let a := flitArea b
  s.fab.timed.find? fun t => t.plane == n && t.dst == leAt a 0 2 && t.body.info.1 == leAt a 5 1 &&
    t.body.payload.take 224 == (a.drop 16).take (min 224 t.body.payload.length)

/-- R442: a Chord goes down: the messages in its replay buffer and those in progress on its channels are lost. A message that
has not begun stays queued. -/
def chordFail (n : Nat) (s : State) : State :=
  let c := chordOf s n
  if !c.up then s
  else
    let begun := (List.range 6).filter fun v => match c.txq.find? fun f => f.1 == v with
      | some f => !f.2.1
      | none => false
    let lost := (c.replay.filter fun f => flitTail f.2).length + begun.length
    let failed := (c.replay.filter fun f => flitHead f.2).filterMap fun f => timedOf s n f.2
    let d : Chord := { fn := c.fn, txq := begun.foldl (fun q v => cut v q) c.txq }
    failed.foldl (fun s t => timedLost t s) (countN Reg.FAB_CNT_LINK_LOST lost (setChord n d s))
where
  /-- The rest of the message in progress on a channel leaves the queue. -/
  cut (v : Nat) : List (Nat × Bool × Bool × List Byte) → List (Nat × Bool × Bool × List Byte)
    | [] => []
    | f :: fs => if f.1 != v then f :: cut v fs else if f.2.1 then f :: fs else if f.2.2.1 then fs else cut v fs

/-- R442: a retrain has not completed within 10 ms. -/
def retrainTimeout (n : Nat) (s : State) : State := if (chordOf s n).retraining then chordFail n s else s

/-! ### Reception (R442 to R445, R447, R451, R455) -/

/-- R451: channel and shortest payload of each message type. -/
def msgShape (typ : Nat) : Option (Nat × Nat) :=
  (shapes.find? fun x => x.1 == typ).map (·.2)
where
  shapes : List (Nat × Nat × Nat) :=
    [(0x01, 0, 24), (0x02, 0, 40), (0x03, 0, 28), (0x04, 0, 20), (0x05, 0, 20), (0x06, 0, 0), (0x07, 0, 8), (0x08, 0, 1),
     (0x09, 0, 2), (0x0A, 0, 2), (0x0B, 0, 2), (0x0C, 0, 16), (0x0D, 0, 32), (0x0E, 0, 8), (0x0F, 0, 8), (0x10, 0, 2),
     (0x11, 0, 2), (0x12, 0, 0), (0x13, 0, 8), (0x14, 0, 2), (0x15, 0, 0), (0x16, 0, 24), (0x17, 0, 12), (0x18, 0, 16)] ++
    [(0x20, 0, 80), (0x21, 0, 8), (0x22, 0, 9), (0x23, 0, 16), (0x24, 0, 8), (0x25, 0, 16), (0x26, 0, 8), (0x27, 0, 8),
     (0x28, 0, 18), (0x29, 0, 18), (0x2A, 0, 16), (0x2B, 0, 16), (0x2C, 0, 22), (0x2D, 0, 22), (0x2E, 0, 16), (0x2F, 0, 16),
     (0x30, 0, 16), (0x31, 0, 16), (0x32, 0, 18), (0x33, 0, 16), (0x34, 0, 16), (0x35, 0, 18)] ++
    [(0x40, 1, 20), (0x41, 1, 24), (0x42, 1, 24), (0x43, 1, 12), (0x50, 2, 32), (0x51, 2, 4), (0x52, 2, 16), (0x53, 2, 20),
     (0x54, 2, 16), (0x60, 3, 16), (0x61, 3, 6), (0x62, 3, 16), (0x63, 3, 24), (0x64, 3, 8), (0x70, 4, 40), (0x71, 4, 22),
     (0x72, 4, 16), (0x73, 4, 16), (0x74, 4, 32), (0x75, 4, 16), (0x80, 5, 16), (0x81, 5, 6), (0x82, 5, 16), (0x83, 5, 8)]

/-- R451: a message that arrived on a channel with a reserved type, a wrong channel or a short payload. -/
def msgBad (vc : Nat) (l : List Byte) : Bool :=
  let n := bits (leAt l 8 8) 20 0
  decide (l.length < 16 + n) || bits (leAt l 0 8) 34 32 != vc ||
  match msgShape (leAt l 5 1) with
  | some (v, k) => v != vc || decide (n < k)
  | none => true

/-- R455: a message in transit leaves by this part's own route table, on the Chord with the most link credits. -/
def forward (n dst vc : Nat) (l : List Byte) (s : State) : State :=
  let cs := (routeChords s dst).filter fun m => m != n
  if dst = 0xFFFF then cs.foldl (fun s m => queueBytes m vc l s) s
  else
    let best := (cs.map fun m => (chordOf s m).credits.getD vc 0).foldl max 0
    match cs.find? fun m => (chordOf s m).credits.getD vc 0 == best with
    | some m => queueBytes m vc l s
    | none => s

/-- R451, R454, R455: a whole message has arrived on a Chord: it is kept for its delivery, forwarded, or discarded. -/
def msgIn (n vc : Nat) (l : List Byte) (s : State) : State :=
  if msgBad vc l then count Reg.FAB_CNT_BAD_MSG s
  else
    let l := l.take (16 + bits (leAt l 8 8) 20 0)
    let dst := leAt l 0 2
    let link := [0x01, 0x41, 0x42].contains (leAt l 5 1)
    let keep := fun (s : State) => s.setFab { s.fab with inbox := s.fab.inbox ++ [l] }
    if link || dst == ownId s then keep s
    else if dst = 0xFFFF then (if s.fab.switched then keep s else forward n dst vc l (keep s))
    else if s.fab.switched then count Reg.FAB_CNT_BAD_MSG s
    else forward n dst vc l s

/-- R442: flits up to an acknowledged sequence number leave the replay buffer. -/
def Chord.acked (a : Nat) (c : Chord) : Chord :=
  if c.replay.any fun f => f.1 == a then { c with replay := (c.replay.dropWhile fun f => f.1 != a).drop 1, txAcked := a } else c

/-- R442: a flit that fails its check; the same one failing 8 times in a row makes the Chord retrain. -/
def flitBad (n : Nat) (s : State) : State :=
  let c := chordOf s n
  let s := count (Reg.CHORD_CNT_CRC n) (setChord n { c with nak := true, badRun := c.badRun + 1 } s)
  if 8 ≤ c.badRun + 1 then chordRetrain n s else s

/-- R442: a nak: the flits after ack are sent again; 32 replays within 1 ms make the Chord retrain. -/
def flitReplay (n : Nat) (s : State) : State :=
  let c := chordOf s n
  let recent := c.replays.filter fun t => decide ((s.now + 2 ^ 64 - t) % 2 ^ 64 ≤ 1000 * usUnits)
  let s := count (Reg.CHORD_CNT_REPLAY n) (countN (Reg.CHORD_CNT_TX_FLITS n) c.replay.length s)
  let s := setChord n { c with replays := recent ++ [s.now] } s
  if 32 ≤ recent.length + 1 then chordRetrain n s else s

/-- R443: link credits returned by a flit. -/
def Chord.granted (w : Nat) (c : Chord) : Chord :=
  let v := bits w 34 32
  { c with credits := if v < 6 then c.credits.set v (c.credits.getD v 0 + bits w 42 35) else c.credits }

/-- R444: the packet area of a flit in sequence joins the message in progress on its channel. -/
def areaIn (n w : Nat) (area : List Byte) (s : State) : State :=
  let c := chordOf s n
  let vc := bits w 29 27
  let rest := c.partials.filter fun p => p.1 != vc
  match if bit w 25 then some area else (c.partials.find? fun p => p.1 == vc).map fun p => p.2 ++ area with
  | none => s
  | some l =>
    if bit w 26 then msgIn n vc l (setChord n { c with partials := rest } s)
    else setChord n { c with partials := rest ++ [(vc, l)] } s

/-- R441 to R445: a flit arrives on a Chord. A flit that is out of sequence is discarded up to the replay; what it acknowledges is still taken. -/
def flitIn (n : Nat) (bytes : List Byte) (s : State) : State :=
  let c := chordOf s n
  if 16 ≤ n || !c.up || c.retraining || bytes.length ≠ 256 then s
  else if leAt bytes 248 8 ≠ crc64 (bytes.take 248) then flitBad n s
  else
    let w := leAt bytes 0 8
    let s := setChord n (c.acked (bits w 23 12)) s
    let s := if bit w 24 then flitReplay n s else s
    let c := chordOf s n
    if c.retraining then s
    else if bit w 30 then chordPump 512 n (setChord n (c.granted w) s)
    else if bits w 11 0 != c.rxSeq || 5 < bits w 29 27 then s
    else
      let vc := bits w 29 27
      let c := { c.granted w with rxSeq := (c.rxSeq + 1) % 4096, nak := false, badRun := 0, owe := c.owe.set vc (c.owe.getD vc 0 + 1) }
      let s := evt 132 0x81 (vc + n * 16) 1 none (count (Reg.CHORD_CNT_RX_FLITS n) (setChord n c s))
      chordPump 512 n (areaIn n w (flitArea bytes) s)

def execFlit (n : Nat) (bytes : List Byte) (s : State) : Host.Outcome State Fault Refusal := whileOn (flitIn n bytes) s

/-! ### HELLO (R440, R456, R457) -/

/-- R456: a trained Chord that has received no HELLO sends one. -/
def helloTimer (n : Nat) (s : State) : State :=
  let c := chordOf s n
  if n < 16 && c.up && c.helloDue then sendHello n s else s

def execHelloTimer (n : Nat) (s : State) : Host.Outcome State Fault Refusal := whileOn (helloTimer n) s

/-- R457: a device has been heard, with its candidate and reserve flags. -/
def hear (uid : Nat) (candidate reserve : Bool) (term : Nat) (s : State) : State :=
  s.setFab { s.fab with
    heard := (s.fab.heard.filter fun h => decide (h.1 < uid)) ++ (uid, candidate, reserve) :: s.fab.heard.filter fun h => decide (uid < h.1)
    topTerm := max s.fab.topTerm term }

/-- R440: the kind of the domain is that of the first neighbour heard; a neighbour of the other kind is a mismatch. -/
def helloKind (n : Nat) (m : HelloMsg) (s : State) : State :=
  let s := if s.fab.chords.any fun p => p.1 != n && p.2.up && p.2.known then s else s.setFab { s.fab with switched := m.isSwitch }
  setChord n { chordOf s n with
    known := true
    helloDue := false
    isPart := !m.isSwitch
    mismatch := m.isSwitch != s.fab.switched
    peerId := m.dev } s

/-- R456, R457: HELLO of a neighbour. -/
def helloArrives (n : Nat) (m : HelloMsg) (s : State) : State :=
  if 16 ≤ n || !(chordOf s n).up then s
  else
    let s := helloKind n m (count Reg.FAB_CNT_MSG_RX (inboxTake { src := m.dev } (.hello m) s))
    let s := if m.isSwitch then s.setFab { s.fab with topTerm := max s.fab.topTerm m.term } else hear m.uid m.candidate m.reserve m.term s
    pumpWaiting s

def execHello (n : Nat) (m : HelloMsg) (s : State) : Host.Outcome State Fault Refusal := whileOn (helloArrives n m) s

/-! ### Enabling and draining (R43, R44, R46) -/

/-- R43: an enable message for one Chord. A deferred enable needs no command: CHORD_ENABLE has no completion. -/
def chordEnable1 (n : Nat) (s : State) : State :=
  let c := chordOf s n
  match c.fn.state with
  | .disabled => setChord n {} (regField (Reg.CHORD_CTL n) 0 0 1 s)
  | .draining => setChord n { c with fn := { c.fn with state := .drainingDeferred } } s
  | _ => s

/-- R43: a disable message for one Chord. -/
def chordDisable1 (n : Nat) (s : State) : State :=
  let c := chordOf s n
  match c.fn.state with
  | .enabled | .drainingDeferred => setChord n { c with fn := { c.fn with state := .draining } } (regField (Reg.CHORD_CTL n) 0 0 0 s)
  | _ => s

def execChordEnable (h : Hdr) (mask : Nat) (s : State) : Host.Outcome State Fault Refusal :=
  .next (deliver h (.chordEnable mask) (fun s => (maskBits 16 mask).foldl (fun s n => chordEnable1 n s) s) s)

def execChordDisable (h : Hdr) (mask : Nat) (s : State) : Host.Outcome State Fault Refusal :=
  .next (deliver h (.chordDisable mask) (fun s => (maskBits 16 mask).foldl (fun s n => chordDisable1 n s) s) s)

/-- R44: a Chord's registers at their reset values. -/
def chordRegsReset (n : Nat) (s : State) : State :=
  s.setRegs (s.regs.filter fun r => !(decide (Reg.CHORD_CTL n ≤ r.1) && decide (r.1 < Reg.CHORD_CTL n + 0x100)))

/-- R46: the queues of a draining Chord are empty and the link is down. A deferred enable begins afresh. -/
def chordDrainEnd (n : Nat) (s : State) : State :=
  let c := chordOf s n
  if c.up && (!c.txq.isEmpty || !c.replay.isEmpty) then s
  else match c.fn.state with
  | .draining => setChord n { fn := {} } s
  | .drainingDeferred => setChord n {} (chordRegsReset n s)
  | _ => s

def execChordDrainEnd (n : Nat) (s : State) : Host.Outcome State Fault Refusal := whileOn (chordDrainEnd n) s

end Sys2Proof.Machine
end

