-- ==== Sys2Proof/Machine/Domain.lean ====
section
/-!
DEFINITION. The domain: discovery and election (R456 to R459), assignment of IDs (R458), the manager and its deputy (R460 to R464).
-/

namespace Sys2Proof.Machine

/-! ### Members (R460) -/

def addMember (m : Member) (s : State) : State :=
  s.setFab { s.fab with members :=
    (s.fab.members.filter fun x => decide (x.id < m.id)) ++ m :: s.fab.members.filter fun x => decide (m.id < x.id) }

def updMember (d : Nat) (f : Member → Member) (s : State) : State :=
  s.setFab { s.fab with members := updWhere (fun m => m.id == d) f s.fab.members }

/-- The member of a UID. -/
def memberUid (s : State) (u : Nat) : Option Member := s.fab.members.find? fun m => m.uid == u

def heardCandidate (s : State) (u : Nat) : Bool := s.fab.heard.any fun h => h.1 == u && h.2.1
def heardReserve (s : State) (u : Nat) : Bool := s.fab.heard.any fun h => h.1 == u && h.2.2

/-- The first number from `k` on, rising or falling, that is not in a list. -/
def firstFree (down : Bool) : Nat → Nat → List Nat → Nat
  | 0, k, _ => k
  | n + 1, k, l => if l.contains k then firstFree down n (if down then k - 1 else k + 1) l else k

/-- R458: the lowest free ID of an ordinary device, or the highest free one of a reserve. -/
def freeId (s : State) (reserve : Bool) : Nat :=
  let used := s.fab.assigned.map (·.2) ++ s.fab.members.map (·.id)
  firstFree reserve used.length (if reserve then 0xFFFE else 0) used

/-- R458: a device becomes a member under the ID that it has held, or under a free one. -/
def assignId (u : Nat) (s : State) : State :=
  let re := heardReserve s u
  let d := ((s.fab.assigned.find? fun a => a.1 == u).map (·.2)).getD (freeId s re)
  let s := s.setFab { s.fab with assigned := (s.fab.assigned.filter fun a => a.1 != u) ++ [(u, d)] }
  addMember { uid := u, id := d, reserve := re, heardAt := s.now, joined := u == ownUid s } s

/-- The ID assigned to a UID. -/
def idOf (s : State) (u : Nat) : Nat := ((s.fab.assigned.find? fun a => a.1 == u).map (·.2)).getD 0xFFFF

/-- R458: ASSIGN for a device. -/
def sendAssign (u d : Nat) (s : State) : State :=
  send 0xFFFF (.assign u d ((memberOf s d).any (·.reserve)) s.fab.term s.fab.members.length) s

/-- R458, R460: routes go to the switches, or in a direct domain to every part. -/
def sendRoutes (s : State) : State :=
  if s.fab.switched then send 0xFFFF (.routeSet (Config.routesOf 0xFFFF)) s
  else
    let s := s.setFab { s.fab with routes := Config.routesOf (ownId s) }
    (s.fab.members.filter fun m => !m.down && s.fab.devId != some m.id).foldl (fun s m => send m.id (.routeSet (Config.routesOf m.id)) s) s

/-! ### Copies for the deputy (R460, R463) -/

/-- A copy that the deputy receives without anything waiting for it. -/
def copyItem (d : Nat) (i : MgrItem) (s : State) : State :=
  send d (.mgrState i s.fab.copyNext) (s.setFab { s.fab with copyNext := (s.fab.copyNext + 1) % 2 ^ 32 })

/-- R460: the manager's whole state goes to a new deputy. -/
def copyState (d : Nat) (s : State) : State :=
  let items := (s.fab.assigned.map fun a => MgrItem.assignment a.1 a.2) ++
    ((s.tbl.pubs.filter fun p => p.committed).map fun p => MgrItem.publication p.table p.epoch p.time) ++
    ((s.tbl.grafts.filter fun g => g.op == 4).map fun g => MgrItem.migBegun g.row g.target) ++
    (s.fab.switchOps.map fun o => MgrItem.switchIn o.failed o.reserve)
  items.foldl (fun s i => copyItem d i s) s

/-- R457, R463: the lowest UID among the other candidates of the members that are not DOWN. -/
def nextDeputy (s : State) : Option Member :=
  (s.fab.heard.filter fun h => h.2.1 && h.1 != ownUid s).findSome? fun h => (memberUid s h.1).filter fun m => !m.down

/-- R451: the CLAIM of this device. -/
def claimOf (s : State) : ClaimMsg :=
  { term := s.fab.term, members := s.fab.members.length, mgrUid := ownUid s, depUid := s.fab.depUid, mgrId := ownId s, depId := s.fab.depId }

/-- R463: the manager names its deputy with a CLAIM, and copies its state to one that has joined. -/
def nameDeputy (s : State) : State :=
  let d := nextDeputy s
  let s := s.setFab { s.fab with depUid := (d.map (·.uid)).getD 0, depId := (d.map (·.id)).getD 0xFFFF }
  let s := send 0xFFFF (.claim (claimOf s)) s
  match liveDeputy s with
  | some d => copyState d s
  | none => s

/-! ### A reserve switch-in's share (R473, R474) -/

/-- R473 step 1: the reserve takes the failed ID, its own is freed, and both IDs are rerouted. -/
def switchStart (failed reserve : Nat) (s : State) : State :=
  match memberOf s reserve with
  | none => s
  | some m =>
    let s := s.setFab { s.fab with
      members := s.fab.members.filter fun x => x.id != failed && x.id != reserve
      assigned := (s.fab.assigned.filter fun a => a.2 != failed && a.2 != reserve) ++ [(m.uid, failed)] }
    let s := addMember { m with id := failed, reserve := false, down := false, restoring := true, joined := false, heardAt := s.now } s
    sendRoutes (sendAssign m.uid failed s)

/-- R474: a SWITCH_IN ends. -/
def switchEnd (o : SwitchOp) (act : Cmd → State → State) (s : State) : State :=
  act o.cmd (s.setFab { s.fab with switchOps := s.fab.switchOps.filter fun x => x.failed != o.failed })

/-- R473 step 3: every member has acknowledged, or is DOWN; the records go out, 128 to a message, the last of which is not full. -/
def switchCheck (failed : Nat) (s : State) : State :=
  match s.fab.switchOps.find? fun o => o.failed == failed && !o.sentRecs && o.begun with
  | none => s
  | some o =>
    if !(domainMembers s).all (fun m => o.acks.contains m || isDown s m || m == failed) then s
    else
      let s := s.setFab { s.fab with switchOps := updFirst (fun x => x.failed == failed) (fun x => { x with sentRecs := true }) s.fab.switchOps }
      (groups (o.recs.length / 128 + 1) o.recs).foldl (fun s rs => send failed (.restoreRec rs) s) s
where
  groups : Nat → List RestoreRec → List (List RestoreRec)
    | 0, _ => []
    | n + 1, l => l.take 128 :: groups n (l.drop 128)

/-! ### A device that is DOWN (R461, R462) -/

/-- What a device does when another is DOWN. Sequence numbers and credits of the two start afresh when it returns (R493). -/
def downLocal (dev : Nat) (s : State) : State :=
  let s := s.setFab { s.fab with
    restoring := s.fab.restoring.filter fun d => d != dev
    cseqTx := s.fab.cseqTx.filter fun p => p.1 != dev
    cseqRx := s.fab.cseqRx.filter fun p => p.1 / 2 != dev
    credits := s.fab.credits.filter fun c => c.1 != dev }
  restoreAcks (updRelease (graftDown dev (tablesDown (lookDown dev (waitingLost dev s)))))

/-- R460: the manager acts on an item of its state. -/
def ackAct (i : MgrItem) (s : State) : State :=
  match i with
  | .assignment u d => sendAssign u d s
  | .publication t e x => sendCommit t e x s
  | .migBegun r b =>
    match graftOf s r fun g => g.op == 4 && g.target == b with
    | some g => migStart g s
    | none => s
  | .migEnded r =>
    match graftOf s r fun g => g.op == 4 && g.copied with
    | some g => migFinish g s
    | none => s
  | .shardMap _ => s
  | .switchIn f r => switchStart f r s

/-- R460: the deputy is lost: what waited for it is acted on, and a new one is named (R463). -/
def deputyLost (s : State) : State :=
  let w := s.fab.unacked
  let s := nameDeputy (s.setFab { s.fab with unacked := [] })
  w.foldl (fun s p => ackAct p.2 s) s

/-- R474: the reserve of a switch-in is lost. -/
def switchLost (dev : Nat) (s : State) : State :=
  match s.fab.switchOps.find? fun o => o.failed == dev with
  | some o => switchEnd o (fun c s => faultCmd c .fabric s) s
  | none => (s.fab.switchOps.map (·.failed)).foldl (fun s f => switchCheck f s) s

/-- R461, R131: a publication whose PREPARE a lost member has not answered is aborted. -/
def pubsLost (dev : Nat) (s : State) : State :=
  (s.tbl.pubs.filter fun p => !p.committed && !p.ready.contains dev).foldl (fun s p => pubAbort p 0xFFFF 4 s) s

/-- R461: the manager declares a member DOWN. -/
def declareDown (dev : Nat) (s : State) : State :=
  match memberOf s dev with
  | none => s
  | some m =>
    if m.down || s.fab.devId == some dev then s
    else
      let s := updMember dev (fun m => { m with down := true, restoring := false, joined := false }) s
      let s := raiseVector 6 (send 0xFFFF (.deviceDown dev) s)
      let s := switchLost dev (downLocal dev (pubsLost dev s))
      if s.fab.depUid != 0 && dev == s.fab.depId then deputyLost s else s

/-! ### Becoming manager (R457, R458, R463) -/

/-- The manager of a term; its counter is the reference of fabric time (R466). -/
def becomeManager (term : Nat) (s : State) : State :=
  s.setFab { s.fab with role := .manager, term := term, topTerm := max s.fab.topTerm term, mgrUid := ownUid s, mgrId := ownId s, locked := true,
                        holdover := false, standing := false, withdrawn := false }

/-- R464: what the state reports say of a table on every member: a member holds a slot in a state. -/
def reportHas (l : List JoinEntry) (t code : Nat) : Bool :=
  l.any fun e => e.table == t && (bits e.slots 2 0 == code || bits e.slots 5 3 == code)

/-- R464: the new manager rebuilds what was in progress from the members' reports. -/
def rebuild (s : State) : State :=
  let reps := s.fab.reports.filterMap (·.2)
  let es := reps.flatten
  let tables := (es.map (·.table)).eraseDups
  let s := tables.foldl (fun s t =>
    ((es.filter fun e => e.table == t && (bits e.slots 2 0 == 1 || bits e.slots 5 3 == 1)).map (·.pendEpoch)).eraseDups.foldl
      (fun s p => sendAll (domainMembers s) (.abort t p) s) s) s
  let s := tables.foldl (fun s t =>
    if reps.all fun l => reportHas l t 3 then
      (slotEpochs s t fun st => st == .previous).foldl (fun s e => sendAll (domainMembers s) (.drop t e) s) s
    else s) s
  let rows := (es.filter fun e => e.rowState != 0).map fun e => (e.table, e.row)
  rows.eraseDups.foldl (fun s p =>
    let r : RowRef := ⟨p.1, ((currentDesc s p.1).map tdEpoch).getD 0, p.2⟩
    match s.fab.reports.find? fun x => (x.2.getD []).any fun e => e.table == p.1 && e.row == p.2 && e.rowState == 7 with
    | some (b, _) =>
      let o := ((currentDesc s p.1).map fun d => ownersOf s d p.2).getD (0xFFFF, 0xFFFF)
      let g : GraftOp := { cmd := none, op := 4, row := r, target := b, oldOwner := o.1, replica := o.2 }
      migSpread g (s.setTbl { s.tbl with grafts := s.tbl.grafts ++ [g] })
    | none => migAbandon r s) s

/-- R458: the domain is formed when every device heard has joined. -/
def formCheck (s : State) : State :=
  if s.fab.formed || !s.fab.members.all (fun m => m.joined || m.down) then s
  else
    let again := s.fab.fresh
    let s := raiseVector 5 (s.setFab { s.fab with formed := true, fresh := false })
    if again then rebuild s else s

/-- R457, R458: the window of a candidate ends without a lower candidate: it claims the next term and assigns IDs. -/
def claimDomain (s : State) : State :=
  let u := ownUid s
  let s := hear u true (isReserve s) 0 s
  let dep := (s.fab.heard.filter fun h => h.2.1 && h.1 != u).map (·.1)
  let s := s.fab.heard.foldl (fun s h => assignId h.1 s) (s.setFab { s.fab with members := [], reports := [], formed := false })
  let s := s.setFab { s.fab with devId := some (idOf s u) }
  let s := becomeManager (s.fab.topTerm + 1) s
  let s := s.setFab { s.fab with depUid := dep.headD 0, depId := (dep.head?.map (idOf s)).getD 0xFFFF, count := s.fab.members.length }
  let s := send 0xFFFF (.claim (claimOf s)) s
  let s := (s.fab.members.filter fun m => m.uid != u).foldl (fun s m => mgrCopy (.assignment m.uid m.id) (sendAssign m.uid m.id) s) s
  formCheck (sendRoutes s)

def electionWindow (s : State) : State :=
  if !isReady s || !s.fab.candidate || isManager s || (upChords s).isEmpty || (s.fab.heard.any fun h => h.2.1 && decide (h.1 < ownUid s)) then s
  else withHello claimDomain s

def execElectionWindow (s : State) : Host.Outcome State Fault Refusal := whileOn electionWindow s

/-- R463: the deputy takes over. -/
def takeover (s : State) : State :=
  let old := s.fab.mgrId
  let s := becomeManager (s.fab.term + 1) s
  let s := graftTakeover (tablesTakeover (nameDeputy (s.setFab { s.fab with formed := true })))
  declareDown old s

/-! ### Discovery (R456 to R458) -/

/-- R456: a device without an ID, or one that its domain's election makes known again (R464), broadcasts ANNOUNCE. -/
def announceTimer (s : State) : State :=
  if (upChords s).isEmpty || (s.fab.devId.isSome && !s.fab.fresh) then s
  else send 0xFFFF (.announce (ownUid s) (mgrCapable s) s.fab.candidate (isReserve s) (ownId s) s.fab.term) s

def execAnnounceTimer (s : State) : Host.Outcome State Fault Refusal := whileOn announceTimer s

/-- R457, R458: ANNOUNCE. The manager gives a device that has none its ID. -/
def announceArrives (uid : Nat) (candidate reserve : Bool) (dev term : Nat) (s : State) : State :=
  let s := hear uid candidate reserve term (count Reg.FAB_CNT_MSG_RX s)
  let s := if dev = 0xFFFF || (s.fab.assigned.any fun a => a.1 == uid || a.2 == dev) then s
    else s.setFab { s.fab with assigned := s.fab.assigned ++ [(uid, dev)] }
  if !isManager s then s
  else
    let fresh := (memberUid s uid).isNone
    let s := if fresh then assignId uid s else s
    let s := s.setFab { s.fab with count := s.fab.members.length }
    let d := idOf s uid
    let go := fun s => if fresh then sendRoutes (sendAssign uid d s) else sendAssign uid d s
    if fresh then mgrCopy (.assignment uid d) go s else go s

def execAnnounce (uid : Nat) (mgrCapable candidate reserve : Bool) (dev term : Nat) (s : State) : Host.Outcome State Fault Refusal :=
  whileOn (fun s => announceArrives uid candidate reserve dev term
    (inboxTake { src := dev } (.announce uid mgrCapable candidate reserve dev term) s)) s

/-! ### CLAIM (R457, R459, R471) -/

/-- R471: what a STAND or a WITHDRAW waited for. -/
def settleStand (s : State) : State :=
  s.setFab { s.fab with candidate := (s.fab.candidate || s.fab.standing) && !s.fab.withdrawn, standing := false, withdrawn := false }

/-- The role of a device that is not the manager. -/
def roleOf (s : State) (depUid : Nat) : Role :=
  match s.fab.devId with
  | none => .discovering
  | some d => if depUid == ownUid s then .deputy else if isReserve s && decide (0x8000 ≤ d) then .reserve else .member

/-- R457: CLAIM. -/
def claimArrives (m : ClaimMsg) (s : State) : State :=
  let s := s.setFab { s.fab with topTerm := max s.fab.topTerm m.term }
  if m.mgrUid == ownUid s then s
  else if s.fab.term < m.term || (s.fab.term == m.term && (s.fab.mgrUid == 0 || decide (m.mgrUid < s.fab.mgrUid))) then
    let s := settleStand s
    s.setFab { s.fab with
      term := m.term, mgrUid := m.mgrUid, mgrId := m.mgrId, depUid := m.depUid, depId := m.depId, count := m.members
      role := roleOf s m.depUid, fresh := false, lastBeacon := s.now, unacked := [] }
  else if s.fab.term == m.term && s.fab.mgrUid == m.mgrUid then
    s.setFab { s.fab with depUid := m.depUid, depId := m.depId, count := m.members, role := roleOf s m.depUid }
  else if m.term < s.fab.term then count Reg.FAB_CNT_STALE_TERM s
  else s

def execClaim (h : Hdr) (m : ClaimMsg) (s : State) : Host.Outcome State Fault Refusal :=
  .next (deliver h (.claim m) (withHello (claimArrives m)) s)

/-! ### ASSIGN and JOINED (R458, R575) -/

/-- R451: the code of a row state in a state report: its place in the order of R154's table, from 1. -/
def MigState.code : MigState → Nat
  | .copying => 1
  | .forwarding => 2
  | .shadow => 3
  | .fwdReplica => 4
  | .gone => 5
  | .receiving => 6
  | .owner _ => 7

/-- R464: one entry of a state report. -/
def joinEntry (s : State) (t row st : Nat) : JoinEntry :=
  let pend := if (findSlot s t fun x _ => x == .pending).isSome then bits (dirWord s t 0) 47 32 else 0
  { table := t, slots := bits (dirWord s t 0) 5 0, row := row, rowState := st, pendEpoch := pend }

/-- R464, R575: the state report: none before READY. -/
def stateReport (s : State) : Option (List JoinEntry) :=
  if !isReady s then none
  else
    let moving := s.tbl.migs.map fun m => joinEntry s m.row.table m.row.row m.state.code
    some (((listedTables s).map fun t => joinEntry s t 0 0) ++ moving)

/-- R458: JOINED goes to the manager. -/
def sendJoined (s : State) : State := send s.fab.mgrId (.joined (ownUid s) (ownId s) (stateReport s)) s

/-- R579: flits of a segment of 65,536 bytes. -/
def segmentFlits : Nat := 274

/-- R579: the ROM grants its manager BULK credit for one segment while it takes images. -/
def grantImage (s : State) : State :=
  if !(s.sec.stage == .waitImage || s.sec.stage == .recovery) || s.fab.devId.isNone || s.fab.mgrUid = 0 || s.sec.granted = s.fab.mgrUid then s
  else send s.fab.mgrId (.credit 5 segmentFlits) (s.setSec { s.sec with granted := s.fab.mgrUid })

/-- R457, R458: ASSIGN. -/
def assignArrives (h : Hdr) (uid dev : Nat) (reserve : Bool) (term members : Nat) (s : State) : State :=
  if term < s.fab.term then count Reg.FAB_CNT_STALE_TERM s
  else if uid != ownUid s then s
  else
    let s := s.setFab { s.fab with devId := some dev, mgrId := h.src, term := term, topTerm := max s.fab.topTerm term, count := members,
                                   fresh := false, lastBeacon := s.now }
    let s := s.setFab { s.fab with role := if reserve then .reserve else if s.fab.depUid == ownUid s then .deputy else .member }
    grantImage (sendJoined s)

def execAssign (h : Hdr) (uid dev : Nat) (reserve : Bool) (term members : Nat) (s : State) : Host.Outcome State Fault Refusal :=
  .next (deliver h (.assign uid dev reserve term members) (withHello (assignArrives h uid dev reserve term members)) s)

/-- R579: the manager's running image goes to a member in segments of 65,536 bytes. -/
def sendImage (dev : Nat) (s : State) : State :=
  match s.sec.image with
  | none => s
  | some (_, l) =>
    ((List.range ((l.length + 65535) / 65536))).foldl (fun s i =>
      send dev (.image (leBytes 4 (65536 * i) ++ leBytes 4 l.length ++ slice (65536 * i) (min 65536 (l.length - 65536 * i)) l)) s) s

/-- R473 step 2: RESTORE_BEGIN for an ID whose reserve has joined under it. -/
def restoreBegin (dev : Nat) (s : State) : State :=
  if !(s.fab.switchOps.any fun o => o.failed == dev && !o.begun) then s
  else
    let s := s.setFab { s.fab with
      switchOps := updFirst (fun o => o.failed == dev) (fun o => { o with begun := true }) s.fab.switchOps
      restoreOwe := s.fab.restoreOwe ++ [dev] }
    switchCheck dev (restoreAcks (lookDown dev (send 0xFFFF (.restoreBegin dev) s)))

/-- R458, R473, R579: JOINED reaches the manager. -/
def joinedArrives (uid dev : Nat) (report : Option (List JoinEntry)) (s : State) : State :=
  if !isManager s || !(s.fab.members.any fun m => m.id == dev && m.uid == uid) then s
  else
    let s := updMember dev (fun m => { m with joined := true, down := false, heardAt := s.now }) s
    let s := s.setFab { s.fab with reports := (s.fab.reports.filter fun r => r.1 != dev) ++ [(dev, report)] }
    let s := if report.isNone then sendImage dev s else s
    let s := if s.fab.depUid == uid then copyState dev s else s
    formCheck (restoreBegin dev s)

def execJoined (h : Hdr) (uid dev : Nat) (report : Option (List JoinEntry)) (s : State) : Host.Outcome State Fault Refusal :=
  .next (deliver h (.joined uid dev report) (joinedArrives uid dev report) s)

/-- R455, R460: the part's own route table. -/
def routesArrive (rs : List (Nat × Nat)) (s : State) : State :=
  if s.fab.switched then s
  else pumpWaiting (s.setFab { s.fab with routes := rs ++ s.fab.routes.filter fun r => !(rs.any fun x => x.1 == r.1) })

def execRouteSet (h : Hdr) (routes : List (Nat × Nat)) (s : State) : Host.Outcome State Fault Refusal :=
  .next (deliver h (.routeSet routes) (routesArrive routes) s)

/-! ### KEEPALIVE, DEPART and DEVICE_DOWN (R461, R462) -/

/-- R461: a member's KEEPALIVE. -/
def keepaliveTimer (s : State) : State :=
  if s.fab.devId.isNone || isManager s || s.fab.role == .discovering then s else send s.fab.mgrId (.keepalive s.now) s

def execKeepaliveTimer (s : State) : Host.Outcome State Fault Refusal := whileOn keepaliveTimer s

def execKeepalive (h : Hdr) (time : Nat) (s : State) : Host.Outcome State Fault Refusal :=
  .next (deliver h (.keepalive time) (fun s => if isManager s then updMember h.src (fun m => { m with heardAt := s.now }) s else s) s)

/-- R461: miss_limit intervals have passed without a KEEPALIVE. -/
def keepaliveMiss (dev : Nat) (s : State) : State :=
  match memberOf s dev with
  | none => s
  | some m =>
    if !isManager s || m.down || s.fab.devId == some dev then s
    else
      let cfg := regGet s Reg.FAB_MGR_CFG
      declareDown dev (reachTime ((m.heardAt + bits cfg 23 20 * bits cfg 19 8 * 100 * usUnits) % 2 ^ 64) s)

/-- R461, R463: DEPART reaches the manager, or the deputy from the manager. -/
def departArrives (src : Nat) (s : State) : State :=
  if isManager s then declareDown src s
  else if s.fab.role == .deputy && src == s.fab.mgrId then withHello takeover s
  else s

/-- R462: a member learns that an ID is DOWN. -/
def deviceDown (dev : Nat) (s : State) : State :=
  if s.fab.devId == some dev then s
  else
    let m := (memberOf s dev).getD { uid := 0, id := dev }
    downLocal dev (raiseVector 6 (addMember { m with down := true, restoring := false } s))

/-! ### The deputy's copy and takeover (R460, R463, R464) -/

/-- R460: the deputy keeps a copy of an item. -/
def keepCopy (i : MgrItem) (s : State) : State :=
  let s := s.setFab { s.fab with mgrCopies := s.fab.mgrCopies ++ [i] }
  match i with
  | .assignment u d =>
    let s := s.setFab { s.fab with assigned := (s.fab.assigned.filter fun a => a.1 != u && a.2 != d) ++ [(u, d)] }
    addMember { uid := u, id := d, reserve := heardReserve s u, heardAt := s.now, joined := true, down := isDown s d } s
  | .switchIn f r =>
    let u := ((memberOf s r).map (·.uid)).getD 0
    let s := s.setFab { s.fab with
      members := s.fab.members.filter fun m => m.id != f && m.id != r
      assigned := (s.fab.assigned.filter fun a => a.2 != f && a.2 != r) ++ [(u, f)] }
    addMember { uid := u, id := f, heardAt := s.now, joined := true, restoring := true } s
  | _ => s

def execMgrState (h : Hdr) (item : MgrItem) (copy : Nat) (s : State) : Host.Outcome State Fault Refusal :=
  .next (deliver h (.mgrState item copy) (fun s => send h.src (.mgrStateAck item.bytes.1 copy) (keepCopy item s)) s)

/-- R460: the manager acts on the item that its deputy has acknowledged. -/
def mgrStateAcked (copy : Nat) (s : State) : State :=
  match s.fab.unacked.find? fun p => p.1 == copy with
  | some (_, i) => ackAct i (s.setFab { s.fab with unacked := s.fab.unacked.filter fun p => p.1 != copy })
  | none => s

def execMgrStateAck (h : Hdr) (kind copy : Nat) (s : State) : Host.Outcome State Fault Refusal :=
  .next (deliver h (.mgrStateAck kind copy) (responded (fun m => m.dst == h.src && (match m.body with
    | .mgrState i n => n == copy && i.bytes.1 == kind
    | _ => false)) (mgrStateAcked copy)) s)

/-- Beacon interval in units of fabric time. -/
def beaconUnits (s : State) : Nat := bits (regGet s Reg.FAB_MGR_CFG) 6 0 * usUnits

/-- R463: three beacon intervals have passed without a BEACON. -/
def deputyTakeover (s : State) : State :=
  if s.fab.role != .deputy then s
  else withHello takeover (reachTime ((s.fab.lastBeacon + 3 * beaconUnits s) % 2 ^ 64) s)

/-- R464: neither manager nor deputy has claimed within the window: the members elect afresh and keep their IDs. -/
def freshElection (s : State) : State :=
  if isManager s || s.fab.devId.isNone then s
  else
    let s := reachTime ((s.fab.lastBeacon + bits (regGet s Reg.FAB_CFG) 7 0 * 1000 * usUnits) % 2 ^ 64) s
    let s := settleStand s
    s.setFab { s.fab with fresh := true, mgrUid := 0, heard := [] }

def execFreshElection (s : State) : Host.Outcome State Fault Refusal := whileOn (withHello freshElection) s

/-! ### End-to-end credit (R446) -/

/-- R446: CREDIT: the header's credit is taken as for every message. -/
def execCredit (h : Hdr) (s : State) : Host.Outcome State Fault Refusal := .next (deliver h (.credit h.crVc h.crFlits) id s)

end Sys2Proof.Machine
end

