-- ==== Sys2Proof/Machine/Times.lean ====
section
/-!
DEFINITION. Fabric time (R465 to R467): BEACON and its discipline, and the link delay of the Chords.
-/

namespace Sys2Proof.Machine

/-! ### BEACON (R466) -/

/-- R466 step 2: the manager sends BEACON on every plane. -/
def beaconTimer (s : State) : State :=
  if !isManager s then s
  else (routeChords s 0xFFFF).foldl (fun s n => sendOn n 0xFFFF (.beacon s.now 0 s.fab.term) s) s

def execBeaconTimer (s : State) : Host.Outcome State Fault Refusal := whileOn beaconTimer s

/-- R466 step 3: the estimate of a plane: origin time, correction and own link delay, less the receive stamp. -/
def planeEstimate (s : State) (plane origin : Nat) (correction : Int) (stamp : Nat) : Int :=
  sext (unsext ((origin : Int) + correction + (regGet s (Reg.CHORD_DELAY plane) : Int) - (stamp : Int)) 64) 64

/-- R457, R466: BEACON. One of a lower term is discarded; the manager disciplines nothing. -/
def beaconArrives (plane origin : Nat) (correction : Int) (term stamp : Nat) (s : State) : State :=
  if term < s.fab.term then count Reg.FAB_CNT_STALE_TERM s
  else
    let s := s.setFab { s.fab with topTerm := max s.fab.topTerm term, lastBeacon := if term == s.fab.term then s.now else s.fab.lastBeacon }
    if isManager s then s else s.setFab { s.fab with estimates := s.fab.estimates ++ [planeEstimate s plane origin correction stamp] }

def execBeacon (h : Hdr) (origin : Nat) (correction : Int) (term stamp : Nat) (s : State) : Host.Outcome State Fault Refusal :=
  .next (deliver h (.beacon origin correction term) (beaconArrives (h.plane % 16) origin correction term stamp) s)

/-! ### Discipline (R466, R467) -/

/-- A list of estimates in rising order. -/
def insertInt (x : Int) : List Int → List Int
  | [] => [x]
  | y :: ys => if x ≤ y then x :: y :: ys else y :: insertInt x ys

/-- R466 step 3: the median; of an even number, the lower of the middle two. -/
def median (l : List Int) : Int := (l.foldl (fun a x => insertInt x a) []).getD ((l.length - 1) / 2) 0

/-- R466 step 4: the rate changes by at most 200 ppm; how far is a free value. -/
def adjustRate (s : State) : State :=
  let (n, s) := drawFree s
  let m := s.fab.rate * 200 / 1000000
  s.setFab { s.fab with rate := s.fab.rate - m + (Config.undef n).toNat % (2 * m + 1) }

/-- R467: a beacon interval without a beacon; the fourth in a row ends the lock, and the part runs in holdover. -/
def beaconMissed (s : State) : State :=
  let s := count Reg.FAB_CNT_BEACON_MISSED s
  let n := s.fab.missRun + 1
  s.setFab { s.fab with missRun := n, planes := 0, goodRun := 0, locked := s.fab.locked && decide (n < 4), holdover := s.fab.holdover || decide (4 ≤ n) }

/-- R466 steps 3 and 4, R467: the median estimate of an interval steps the counter the first time, and afterwards adjusts the rate. -/
def estimateTaken (e : Int) (s : State) : State :=
  let run := if -512 ≤ e ∧ e ≤ 512 then s.fab.goodRun + 1 else 0
  let s := s.setFab { s.fab with offset := e, planes := s.fab.estimates.length, missRun := 0, holdover := false, goodRun := run,
                                 locked := s.fab.locked || decide (16 ≤ run) }
  if s.fab.stepped then adjustRate s else s.setFab { s.fab with stepped := true, now := unsext ((s.fab.now : Int) + e) 64 }

/-- R466: a beacon interval ends on a member. -/
def timeDiscipline (s : State) : State :=
  if isManager s || s.fab.mgrUid == 0 then s
  else if s.fab.estimates.isEmpty then beaconMissed s
  else
    let t := estimateTaken (median s.fab.estimates) s
    t.setFab { t.fab with estimates := [] }

def execTimeDiscipline (s : State) : Host.Outcome State Fault Refusal := whileOn timeDiscipline s

/-! ### Link delay (R466 step 1) -/

/-- R466: a Chord asks its neighbour; t1 is its time of sending. -/
def delayTimer (n : Nat) (s : State) : State :=
  if n < 16 && (chordOf s n).up then sendOn n 0xFFFF (.delayReq s.now) s else s

def execDelayTimer (n : Nat) (s : State) : Host.Outcome State Fault Refusal := whileOn (delayTimer n) s

/-- R466: DELAY_REQ is answered with its own stamp t1, its time of receipt t2 and the answer's time of sending t3. -/
def delayReq (n t1 t2 t3 : Nat) (s : State) : State :=
  if 16 ≤ n || !(chordOf s n).up then s
  else sendOn n 0xFFFF (.delayRsp t1 t2 t3) (count Reg.FAB_CNT_MSG_RX (inboxTake { src := (chordOf s n).peerId } (.delayReq t1) s))

def execDelayReq (n t1 t2 t3 : Nat) (s : State) : Host.Outcome State Fault Refusal := whileOn (delayReq n t1 t2 t3) s

/-- R466: the link delay, ((t4 − t1) − (t3 − t2)) ÷ 2 less the SerDes asymmetry of the fuses. -/
def linkDelay (n t1 t2 t3 t4 : Nat) : Int :=
  (sext (unsext ((t4 : Int) - t1) 64) 64 - sext (unsext ((t3 : Int) - t2) 64) 64) / 2 - Config.serdesAsym n

/-- R466: DELAY_RSP, received at t4. -/
def delayRsp (n t1 t2 t3 t4 : Nat) (s : State) : State :=
  if 16 ≤ n || !(chordOf s n).up then s
  else
    let s := count Reg.FAB_CNT_MSG_RX (inboxTake { src := (chordOf s n).peerId } (.delayRsp t1 t2 t3) s)
    regPut (Reg.CHORD_DELAY n) (unsext (linkDelay n t1 t2 t3 t4) 32) s

def execDelayRsp (n t1 t2 t3 t4 : Nat) (s : State) : Host.Outcome State Fault Refusal := whileOn (delayRsp n t1 t2 t3 t4) s

end Sys2Proof.Machine
end

