-- ==== Sys2Proof/Machine/Sync.lean ====
section
/-!
DEFINITION. SYNC_START (R468 to R470) and the pre-ramp of the ballast that it orders (R546, R570).
-/

namespace Sys2Proof.Machine

/-! ### The pre-ramp (R546) -/

/-- R548: the effective cap in W. -/
def effectiveCap (s : State) : Nat := bits (regGet s Reg.PWR_CAP) 47 36

/-- R546 step 3: how long before T a step of so many mA begins. -/
def rampLead (step : Nat) : Nat := step * usUnits / 4000 + 2 * usUnits

/-- R570: two pre-ramps that overlap. -/
def rampsMeet (a : PreRamp) (time step : Nat) : Bool :=
  let d := (time + 2 ^ 64 - a.time) % 2 ^ 64
  decide (d ≤ rampLead step) || decide ((2 ^ 64 - d) % 2 ^ 64 ≤ rampLead a.step)

/-- R546 steps 1 and 2, R570: the step in mA for a power, and whether it was clipped. `mv` is the input voltage. -/
def rampStep (s : State) (mv power time : Nat) : Nat × Bool :=
  let want := power * 1000000 / max mv 1
  let present := bits (regGet s Reg.PWR_INPUT) 31 16 * 10
  let taken := ((s.pwr.preramps.filter fun p => rampsMeet p time want).map (·.step)).foldl (· + ·) 0
  let limit := min (effectiveCap s * 1000000 / max mv 1 - present) 60000 - taken
  (min want limit, decide (limit < want))

/-- R546: the pre-ramp of an armed start. Before the first sample of the input its voltage is a free value. -/
def preRamp (power time : Nat) (s : State) : State :=
  let mv := bits (regGet s Reg.PWR_INPUT) 15 0
  let (n, s') := drawFree s
  let (mv, s) := if mv = 0 then ((Config.undef n).toNat % 2 ^ 16, s') else (mv, s)
  let (step, clipped) := rampStep s mv power time
  let s := s.setPwr { s.pwr with preramps := s.pwr.preramps ++ [{ time := time, step := step }] }
  if clipped then (if bit (regGet s Reg.PWR_EVENTS) 6 then s else raiseVector 10 (regOr Reg.PWR_EVENTS (1 <<< 6) s)) else s

/-! ### Arming (R469) -/

/-- R469: the limits of SYNC_START's own parameters. -/
def syncBad (s : State) (c : Cmd) : Bool :=
  let d := (par c 0 + 2 ^ 64 - s.now) % 2 ^ 64
  bits (par c 1) 63 13 != 0 || decide (2500 < bits (par c 1) 11 0) || decide (d < 20 * usUnits) || decide (10000000 * usUnits < d)

/-- R469: a command that a SYNC_START of its ring may arm. -/
def armable (s : State) (t : Cmd) : Bool :=
  if t.opcode = 0x40 then !launchBad s t
  else t.opcode == 0x41 && t.ctx != 0 && bits (par t 0) 31 10 == 0 && (par t 1 == 0 || bit (par t 1) 56) && (enabledGraph s t).isSome

/-- R469: an accepted SYNC_START arms its work, and the governor plans the pre-ramp that it asks for. -/
def armSync (c : Cmd) (target : Option Cmd) (nodes : List Nat) (s : State) : State :=
  let a : Armed := { sync := c, target := target, nodes := nodes, time := par c 0, power := bits (par c 1) 11 0, ballast := bit (par c 1) 12 }
  let s := s.setFab { s.fab with armed := s.fab.armed ++ [a] }
  if a.ballast then preRamp a.power a.time s else s

/-- R469: the packet behind a SYNC_START is read. Only a LAUNCH or LAUNCH_GRAPH is taken from the ring. -/
def syncFetch (ctx q : Nat) (r : Ring) : Acc Fetched := do
  match ← accTry (.fetch ctx q) (headerRead (.fetch ctx q) ctx r) with
  | .error f => pure (.ringFault false f none)
  | .ok h => if pkOpcode h != 0x40 && pkOpcode h != 0x41 then pure .holds else fetchAcc ctx q r

/-- R469: the packet behind a SYNC_START is taken from the ring: armed, or completed without effect. -/
def syncTarget (c t : Cmd) (head q : Nat) (s : State) : State :=
  let s := startCmd t (moveHead c.ctx q head s)
  if !armable s t || syncBad s c then badPacket c 0 (badPacket t 0 s) else armSync c (some t) [] s

/-- R469: a SYNC_START in a ring. -/
def syncRing (c : Cmd) (q : Nat) (s : State) : State :=
  match ringOf s c.ctx q with
  | none => badPacket c 0 s
  | some r =>
    if r.head == r.tail then badPacket c 0 s
    else
      runAcc (.fetch c.ctx q) (syncFetch c.ctx q r) (fun out s => match out with
        | .start t head => syncTarget c t head q s
        | .bad t head => badPacket c 0 (badPacket t 0 (startCmd t (moveHead c.ctx q head s)))
        | .indirect t head f => faultCmd t f (startCmd t (badPacket c 0 (moveHead c.ctx q head s)))
        | .ringFault sh f h => ringFetchFault c.ctx q sh f h s
        | _ => badPacket c 0 s)
        (fun f s => ringFetchFault c.ctx q false f none s) s

/-- R469: the LAUNCH nodes of a launch whose only predecessor is a SYNC_START node. -/
def syncNodes (s : State) (l : GLaunch) (n : Nat) : List Nat :=
  match launchGen s l with
  | none => []
  | some g => (List.range g.nodes.length).filter fun m =>
      let node := g.nodes.getD m ⟨0, []⟩
      node.preds == [n] && pkOpcode (nodePacket g.packets node) == 0x40

/-- R469: a SYNC_START in a graph. -/
def syncGraph (c : Cmd) (l n : Nat) (s : State) : State :=
  match s.crn.launches.find? fun x => x.id == l with
  | none => s
  | some x =>
    let ns := syncNodes s x n
    if ns.isEmpty || syncBad s c then badPacket c 0 s else armSync c none ns s

/-- R468, R469: SYNC_START. -/
def syncStart (c : Cmd) (s : State) : State :=
  let s := startCmd c s
  if s.fab.armed.any fun a => a.sync == c then s
  else match c.src with
  | .ring q => syncRing c q s
  | .node l n => syncGraph c l n s
  | .mgr _ => badPacket c 0 s

def execSyncStart (c : Cmd) (s : State) : Host.Outcome State Fault Refusal := whileOn (syncStart c) s

/-! ### The start at T (R469) -/

/-- R469: the grove nodes that an armed start issues. -/
def armedNode (a : Armed) (s : State) (n : Node) : Bool :=
  a.target == some n.cmd ||
  (match n.cmd.src with
   | .node l m => (match a.sync.src with
     | .node k _ => l == k && a.nodes.contains m
     | _ => s.crn.launches.any fun x => x.id == l && a.target == some x.cmd)
   | _ => false)

/-- R469: the grove nodes that an armed start must find loaded. -/
def armedCount (a : Armed) (s : State) : Nat :=
  match a.target with
  | none => a.nodes.length
  | some t =>
    if t.opcode = 0x40 then 1
    else match s.crn.launches.find? fun x => x.cmd == t with
      | none => 1
      | some l => match launchGen s l with
        | none => 1
        | some g => (g.nodes.filter fun n => n.preds.isEmpty && pkOpcode (nodePacket g.packets n) == 0x40).length

/-- R469: at T the part is locked, and every armed Grove is loaded and has not been pre-empted. -/
def syncReady (a : Armed) (s : State) : Bool :=
  let ns := s.sched.nodes.filter (armedNode a s)
  s.fab.locked && ns.length == armedCount a s && ns.all fun n => n.state == .armed

/-- R469: the Groves of an armed node issue their first instructions. -/
def issueNode (n : Node) (s : State) : State :=
  let s := n.groves.eraseDups.foldl (fun s k => updGrove k (fun g => { g with running := true, since := s.now }) s) s
  updNode n.ctx (fun m => if m.cmd == n.cmd then { m with state := .running, held := s.now } else m) s

/-- R469: a grove node completes without effect: its Groves are scrubbed and handed back. -/
def dropNode (n : Node) (s : State) : State :=
  let ks := if n.onGroves then n.groves.eraseDups.filter fun k => (groveOf s k).ctx == some n.ctx else []
  let s := ks.foldl (fun s k => unbindGrove k (groveClearWork k (groveScrub k s))) s
  let s := if n.state == .waiting then s else s.setGro { s.gro with saved := s.gro.saved.filter fun g => g.ctx != n.ctx }
  s.setSched { s.sched with nodes := s.sched.nodes.filter fun m => m.cmd != n.cmd }

/-- R469: an armed graph completes without effect, with the nodes that it has started. -/
def dropLaunch (l : GLaunch) (s : State) : State :=
  let cs := (s.crn.started.map (·.cmd)).filter fun c => match c.src with
    | .node k _ => k == l.id
    | _ => false
  let s := cs.foldl (fun s c => leaveStarted ⟨c, stNoResource, 0, 0, false⟩ (clearWork (.cmd c) s)) s
  let s := s.setCrn { s.crn with launches := s.crn.launches.filter fun x => x.id != l.id }
  freeGens faultCmd l.cmd.ctx l.graph s

/-- R469: a missed start: SYNC_START and the armed work complete with ST_NO_RESOURCE. -/
def syncMissed (a : Armed) (s : State) : State :=
  let ns := s.sched.nodes.filter (armedNode a s)
  let ls := s.crn.launches.filter fun l => a.target == some l.cmd
  let s := complete a.sync stNoResource 0 s.now (count Reg.FAB_CNT_SYNC_MISSED s)
  let s := ls.foldl (fun s l => dropLaunch l s) (ns.foldl (fun s n => dropNode n s) s)
  let cs := a.target.toList ++ (ns.map (·.cmd)).filter fun c => a.nodes.any fun m => match c.src with
    | .node _ k => k == m
    | _ => false
  cs.foldl (fun s c => complete c stNoResource 0 0 s) s

/-- R469: fabric time reaches T. -/
def syncStartTime (c : Cmd) (s : State) : State :=
  match s.fab.armed.find? fun a => a.sync == c with
  | none => s
  | some a =>
    let s := reachTime a.time s
    let ready := syncReady a s
    let ns := s.sched.nodes.filter (armedNode a s)
    let t := s.setFab { s.fab with armed := s.fab.armed.filter fun x => x.sync != c }
    if ready then completeOk c s.now (ns.foldl (fun s n => issueNode n s) t)
    else syncMissed a t

def execSyncStartTime (c : Cmd) (s : State) : Host.Outcome State Fault Refusal := whileOn (syncStartTime c) s

end Sys2Proof.Machine
end

