-- ==== Sys2Proof/Machine/HostLink.lean ====
section
/-!
DEFINITION. The host link (chapter 15): configuration space, MSI-X, training and retraining, and the D3hot state (R542).
-/

namespace Sys2Proof.Machine

/-! ### What the link sends -/

/-- R489: posted writes that waited go out on the link. -/
def flushHost (s : State) : State := postHost s.hl.queued (s.setHl { s.hl with queued := [] })

/-! ### MSI-X (R485) -/

/-- R485: an unmasked vector whose PBA bit is set sends one message. -/
def sendPending (v : Nat) (s : State) : State :=
  let e := msixOf s v
  if e.pba && !e.masked && !s.hl.msixMask && s.hl.msixEnable && isReady s then
    count Reg.HL_CNT_MSIX (setMsix v { e with pba := false } (s.setHl { s.hl with vectors := s.hl.vectors ++ [v] }))
  else s

/-- Every pending vector in ascending order. -/
def sendAllPending (s : State) : State :=
  (List.range 2048).foldl (fun s v => if (msixOf s v).pba then sendPending v s else s) s

/-- R485: the host unmasks a vector. -/
def msixUnmask (v : Nat) (s : State) : State :=
  if v < 2048 then sendPending v (setMsix v { msixOf s v with masked := false } s) else s

def execMsixUnmask (v : Nat) (s : State) : Host.Outcome State Fault Refusal :=
  whileServed (0x20000 + 16 * v) (msixUnmask v) s

/-- R485: a write of an aligned word of the MSI-X table: address, data and mask. -/
def msixTableWrite (off value : Nat) (s : State) : State :=
  let v := (off - 0x20000) / 16
  let e := msixOf s v
  match off % 16 / 4 with
  | 0 => setMsix v { e with addr := setBits e.addr 31 0 (value / 4 * 4) } s
  | 1 => setMsix v { e with addr := setBits e.addr 63 32 value } s
  | 2 => setMsix v { e with data := value % 2 ^ 32 } s
  | _ => sendPending v (setMsix v { e with masked := bit value 0 } s)

/-! ### D3hot (R542) -/

/-- R541: the code of a power state. OFF has none. -/
def pstateCode : PState → Nat
  | .off => 0
  | .standby => 0
  | .run => 1
  | .d3hot => 2
  | .stopped => 3

/-- R541: the part enters a power state. -/
def putPState (p : PState) (s : State) : State := regField Reg.PWR_STAT 2 0 (pstateCode p) (s.setPwr { s.pwr with pstate := p })

/-- R542, R570: the host sets D3hot. Armed starts are missed, running nodes are hard-pre-empted. -/
def d3hotEntry (s : State) : State :=
  if !s.hl.up || s.hl.loss.isSome || s.pwr.pstate != .run then s
  else
    let s := s.fab.armed.foldl (fun s a => syncMissed a (s.setFab { s.fab with armed := s.fab.armed.filter fun x => x.sync != a.sync })) s
    let s := (s.sched.nodes.map (·.ctx)).foldl (fun s c => preempt c true s) s
    putPState .d3hot s

/-- R542: the host sets D0. -/
def d0Entry (s : State) : State :=
  if s.hl.loss.isNone && s.pwr.pstate == .d3hot then putPState .run s else s

def execD3hotEntry (s : State) : Host.Outcome State Fault Refusal := .next (d3hotEntry s)
def execD0Entry (s : State) : Host.Outcome State Fault Refusal := .next (d0Entry s)

/-! ### Configuration space (R481, R482) -/

/-- The reset values of the configuration words that are not zero, as PCIe gives them: Device Control and the AER severities and masks. -/
def configReset (off : Nat) : Nat :=
  match off with
  | 0x058 => 0x2810
  | 0x10C => 0x462030
  | 0x114 => 0x2000
  | _ => 0

/-- The bits that the host may write in each 32-bit word of configuration space, as PCIe and CXL lay out the structures
that R481 and R482 place. Words not named hold nothing writable. -/
def configMask (off : Nat) : Nat :=
  match off with
  | 0x004 => 0x546
  | 0x010 => 0xFC000000
  | 0x014 => 0xFFFFFFFF
  | 0x018 => 0xFFC00000
  | 0x01C => 0xFFFFFFFF
  | 0x03C => 0xFF
  | 0x044 => 0x3
  | 0x058 => 0x79FF
  | 0x078 => 0x130F
  | 0x0B0 => 0xC0000000
  | 0x108 => 0x7FFF030
  | 0x10C => 0x7FFF030
  | 0x114 => 0xF1C1
  | 0x254 => 0x801F0000
  | 0x264 => 0x1
  | 0x26C => 0xFFFFFFFF
  | 0x284 => 0x10000
  | 0x30C => 0x1
  | _ => 0

/-- A word of configuration space. -/
def configGet (s : State) (off : Nat) : Nat := mget (configReset off) s.hl.config off

/-- The word that a write of some of its bytes asks for. -/
def configMerge (old off size value : Nat) : Nat :=
  let lo := off % 4 * 8
  setBits old (lo + size * 8 - 1) lo value

/-- R318, R334, R485: what the part takes from its configuration. Vectors are not kept while MSI-X is disabled. -/
def configApply (s : State) : State :=
  let on := bit (configGet s 0x0B0) 31
  let s := s.setHl { s.hl with
    ats := bit (configGet s 0x254) 31
    pri := bit (configGet s 0x264) 0
    cxlCache := bit (configGet s 0x30C) 0 && bit (regGet s Reg.HL_LINK_STAT) 11
    msixEnable := on
    msixMask := bit (configGet s 0x0B0) 30
    msix := if on then s.hl.msix else s.hl.msix.map fun p => (p.1, { p.2 with pba := false }) }
  sendAllPending s

/-- R482: the host writes configuration space; AER status bits clear when written as 1.
Device Control bit 15 starts a Function Level Reset, and the power state has its effect under R542. -/
def configWrite (off size value : Nat) (s : State) : State :=
  let dw := off / 4 * 4
  if !s.hl.up || s.hl.loss.isSome || 0x1000 ≤ off || 4 < off % 4 + size || size = 0 then s
  else
    let want := configMerge (configGet s dw) off size value
    let w1 := configMerge 0 off size value
    let m := configMask dw
    let new := if dw = 0x104 ∨ dw = 0x110 then configGet s dw &&& ((2 ^ 32 - 1) ^^^ w1)
      else (configGet s dw &&& ((2 ^ 32 - 1) ^^^ m)) ||| (want &&& m)
    let s := configApply (s.setHl { s.hl with config := mset (configReset dw) s.hl.config dw new })
    if dw = 0x058 && bit w1 15 then flr s
    else if dw = 0x044 then (if bits new 1 0 = 3 then d3hotEntry s else if bits new 1 0 = 0 then d0Entry s else s)
    else s

def execPcieConfigWrite (off size value : Nat) (s : State) : Host.Outcome State Fault Refusal := .next (configWrite off size value s)

/-- An error that the part logs in AER's Uncorrectable Error Status (R478): bit 12 poisoned TLP, 14 completion timeout, 20 Unsupported Request. -/
def aerSet (b : Nat) (s : State) : State :=
  s.setHl { s.hl with config := mset 0 s.hl.config 0x104 (configGet s 0x104 ||| 1 <<< b) }

/-! ### Inbound requests and snoops (R480, R483) -/

/-- R483: an inbound AtomicOp, I/O request or request outside the BARs; a posted one has no completion. -/
def inboundUnsupported (posted : Bool) (s : State) : State :=
  if !s.hl.up || s.hl.loss.isSome || posted then s else hlEvent 4 (count Reg.HL_CNT_INBOUND_UR (aerSet 20 s))

def execInboundUnsupported (posted : Bool) (s : State) : Host.Outcome State Fault Refusal := .next (inboundUnsupported posted s)

/-- R480: a snoop is answered RspIHitI; the part keeps no host line, so nothing in it changes. -/
def cxlSnoop (_addr : Nat) (s : State) : State := s

def execCxlSnoop (addr : Nat) (s : State) : Host.Outcome State Fault Refusal := .next (cxlSnoop addr s)

/-! ### Training and retraining (R489, R573) -/

/-- The rate and width that the link reports. -/
def linkRate (speed width : Nat) (s : State) : State :=
  regField Reg.HL_LINK_STAT 8 4 width (regField Reg.HL_LINK_STAT 3 0 speed s)

/-- R478: a rate and a width that the link can have. -/
def rateOk (speed width : Nat) : Bool := decide (1 ≤ speed) && decide (speed ≤ 6) && decide (1 ≤ width) && decide (width ≤ 16)

/-- R489: the link enters Recovery, or returns to L0 with its rate; then what waited goes out. -/
def linkRetrain (ended : Bool) (speed width : Nat) (s : State) : State :=
  if !s.hl.up || s.hl.loss.isSome then s
  else if !ended then s.setHl { s.hl with retrain := true }
  else if !s.hl.retrain || !rateOk speed width then s
  else
    let s := linkRate speed width (s.setHl { s.hl with retrain := false })
    flushHost (hlEvent 0 (count Reg.HL_CNT_RETRAIN s))

def execLinkRetrain (ended : Bool) (speed width : Nat) (s : State) : Host.Outcome State Fault Refusal := .next (linkRetrain ended speed width s)

/-- R573 step 3: the host link has trained. Flit mode is always on at 64 GT/s (R478). -/
def hostLinkTrained (speed width : Nat) (flit cxl : Bool) (s : State) : State :=
  if s.hl.up || s.hl.perstLow || s.hl.loss.isSome || !powered s || s.sec.stage == .rom || s.sec.stage == .power || !rateOk speed width then s
  else
    let s := linkRate speed width (s.setHl { s.hl with up := true, retrain := false })
    let s := regField Reg.HL_LINK_STAT 11 9 (b2n (flit || speed == 6) + 2 + b2n cxl * 4) s
    flushHost (configApply s)

def execHostLinkTrained (speed width : Nat) (flit cxl : Bool) (s : State) : Host.Outcome State Fault Refusal :=
  .next (hostLinkTrained speed width flit cxl s)

/-! ### The crash record (R495) -/

/-- R495: a host write of `HL_CRASH_CTL`. -/
def crashCtlWrite (value : Nat) (s : State) : State := if bit value 0 then crashClear s else s

def execHlCrashCtlWrite (value : Nat) (s : State) : Host.Outcome State Fault Refusal := whileServed Reg.HL_CRASH_CTL (crashCtlWrite value) s

end Sys2Proof.Machine
end

