-- ==== Sys2Proof/Machine/Remote.lean ====
section
/-!
DEFINITION. Global accesses between devices (R452): an owner's service of reads, writes and memory-side operations,
and their answers at the requester.
-/

namespace Sys2Proof.Machine

/-! ### The owner (R317, R452) -/

/-- R188: the traffic of a range is stopped: it lies in the stack under test. -/
def stackStopped (s : State) (o : Nat) : Bool :=
  s.xyl.maint && isHbm o && channelOf o / 32 == bits (regGet s Reg.MEM_TEST_CTL) 3 1

/-- R23, R317: the fault of a global access of a range, if the owner refuses it. -/
def globFault (s : State) (o n : Nat) : Option Flt :=
  if n = 0 || 4096 < n || (o + n - 1) / 4096 ≠ o / 4096 then some .illegal
  else if !populatedRange o n then some .xlate
  else if !sharedRange s o n then some .perm
  else none

/-- R317: a refusal of the shared pool's check is counted. -/
def countRefused (f : Flt) (s : State) : State := if f == .perm then count Reg.XLT_CNT_REMOTE_REFUSED s else s

/-- R452: an owner serves a read. -/
def serveRead (src o n tag : Nat) (s : State) : State :=
  match globFault s o n with
  | some f => send src (.grdata tag stFault f.code []) (countRefused f s)
  | none =>
    let ((l, bad), s) := localRead o n s
    if bad then send src (.grdata tag stFault Flt.ecc.code []) s else send src (.grdata tag 0 0 l) s

/-- R452: an owner serves a write. -/
def serveWrite (src o tag : Nat) (l : List Byte) (s : State) : State :=
  match globFault s o l.length with
  | some f => send src (.gwAck tag stFault f.code) (countRefused f s)
  | none => send src (.gwAck tag 0 0) (localWrite o l s)

/-- R452: an owner hands a memory-side operation to its Xylem unit. -/
def serveMemop (src : Nat) (m : MemopMsg) (s : State) : State :=
  match globFault s m.offset ((memopWidth (memopOp m.code)).getD 1) with
  | some f => send src (.memopAck m.tag stFault f.code 0) (countRefused f s)
  | none => memopIssue { who := .remote src m.tag, ctx := 0, code := m.code, exact := m.exact, part := m.part, group := m.group,
                         contrib := m.contrib, expected := m.expected, elems := [(m.offset, m.operand)] } s

/-- R452, R188: GREAD. A request to a stack whose traffic is stopped waits at the port. -/
def execGread (h : Hdr) (offset bytes tag : Nat) (s : State) : Host.Outcome State Fault Refusal :=
  .next (if stackStopped s (offset % 2 ^ 46) then s
    else deliver h (.gread offset bytes tag) (serveRead h.src (offset % 2 ^ 46) bytes tag) s)

def execGwrite (h : Hdr) (offset tag : Nat) (data : List Byte) (s : State) : Host.Outcome State Fault Refusal :=
  .next (if stackStopped s (offset % 2 ^ 46) then s
    else deliver h (.gwrite offset tag data) (serveWrite h.src (offset % 2 ^ 46) tag data) s)

def execMemop (h : Hdr) (m : MemopMsg) (s : State) : Host.Outcome State Fault Refusal :=
  .next (if stackStopped s (m.offset % 2 ^ 46) then s
    else deliver h (.memop m) (serveMemop h.src { m with offset := m.offset % 2 ^ 46 }) s)

/-! ### The requester (R452) -/

/-- R452: the fault that a response reports. -/
def respFault (status fault : Nat) : Option Flt := if status = 0 then none else some ((Flt.ofCode fault).getD .fabric)

/-- R452: the answer to the waiting access of a tag: its data is kept, or its failure recorded. -/
def accessAnswered (tag status fault : Nat) (l : List Byte) (s : State) : State :=
  let (ws, s) := takeWaits (fun w => w.tag == tag && (match w.need with
    | .gread .. | .gwrite .. | .memop .. => true
    | _ => false)) s
  ws.foldl (fun s w => match respFault status fault with
    | none => keepArrived w l s
    | some f => recordFail w.work f s) s

/-- R452: GRDATA. -/
def grdataArrives (h : Hdr) (tag status fault : Nat) (data : List Byte) (s : State) : State :=
  deliver h (.grdata tag status fault data) (responded (fun m => m.dst == h.src && (match m.body with
    | .gread _ _ t => t == tag
    | _ => false)) (accessAnswered tag status fault data)) s

/-- R452: GW_ACK. -/
def gwAckArrives (h : Hdr) (tag status fault : Nat) (s : State) : State :=
  deliver h (.gwAck tag status fault) (responded (fun m => m.dst == h.src && (match m.body with
    | .gwrite _ t _ => t == tag
    | _ => false)) (accessAnswered tag status fault [])) s

/-- R452: the outcome of a memory-side operation that another device applied. -/
def memopAnswered (tag status fault old : Nat) (s : State) : State :=
  match s.xyl.remote.find? fun x => x.1 == tag with
  | some x =>
    let s := s.setXyl { s.xyl with remote := s.xyl.remote.filter fun y => y.1 != tag }
    memopOutcome true x.2 (match respFault status fault with
      | none => .ok old
      | some f => .error f) s
  | none => accessAnswered tag status fault (leBytes 8 old) s

/-- R452: MEMOP_ACK. -/
def memopAckArrives (h : Hdr) (tag status fault old : Nat) (s : State) : State :=
  deliver h (.memopAck tag status fault old) (responded (fun m => m.dst == h.src && (match m.body with
    | .memop x => x.tag == tag
    | _ => false)) (memopAnswered tag status fault old)) s

/-! ### A request whose response has not come (R450) -/

/-- R450: a request times out; one that is answered in time never does. -/
def e2eTimeout (tag : Nat) (s : State) : State :=
  match s.fab.timed.find? fun t => t.tag == tag with
  | none => s
  | some t =>
    let limit := bits (regGet s Reg.FAB_CFG) 23 8 * usUnits
    timedLost t (count Reg.FAB_CNT_E2E_TIMEOUT (reachTime ((t.time + limit) % 2 ^ 64) s))

end Sys2Proof.Machine
end

