-- ==== Sys2Proof/Machine/Switch.lean ====
section
/-!
DEFINITION. FABRIC_STATUS (R471) and reserve switch-in (R472 to R474).
-/

namespace Sys2Proof.Machine

/-! ### FABRIC_STATUS (R471) -/

/-- R459: a live manager is known: its BEACON of the term held has arrived within the last three intervals. -/
def managerLive (s : State) : Bool :=
  isManager s || (s.fab.mgrUid != 0 && decide ((s.now + 2 ^ 64 - s.fab.lastBeacon) % 2 ^ 64 ≤ 3 * beaconUnits s))

/-- R459, R471: STAND takes effect at once where no live manager is known, else at the next election or handover. -/
def stand (s : State) : State :=
  if managerLive s then s.setFab { s.fab with standing := true, withdrawn := false }
  else s.setFab { s.fab with candidate := true, standing := false, withdrawn := false }

/-- R471: WITHDRAW. A manager hands over to its deputy; anyone else withdraws at the next election or handover. -/
def withdraw (s : State) : State :=
  if (liveDeputy s).isSome then sendDepart 3 (s.setFab { s.fab with candidate := false, standing := false, withdrawn := false })
  else s.setFab { s.fab with standing := false, withdrawn := true }

/-- R471: the record of a member. -/
def memberRecord (m : Member) : List Byte :=
  padTo 16 (leBytes 8 m.uid ++ leBytes 2 m.id ++ leBytes 2 (b2n m.reserve + 2 * b2n m.down + 4 * b2n m.restoring))

/-- R471: QUERY. -/
def queryResult (s : State) : Nat :=
  ownId s + s.fab.mgrId * 2 ^ 16 + s.fab.depId * 2 ^ 32 + roleCode s.fab.role * 2 ^ 48 + b2n s.fab.locked * 2 ^ 51

/-- R471: OUTCOME of a table. -/
def outcomeResult (s : State) (t : Nat) : Nat :=
  match pubOf s t with
  | some p => p.epoch + 3 * 2 ^ 16
  | none => match s.tbl.last.find? fun x => x.1 == t with
    | some (_, e, code) => e + code * 2 ^ 16
    | none => 0

/-- R471: FABRIC_STATUS. -/
def fabricStatus (c : Cmd) (s : State) : State :=
  let s := startCmd c s
  let op := bits (par c 0) 3 0
  let fromMgr := match c.src with
    | .mgr _ => true
    | _ => false
  if bits (par c 0) 15 4 ≠ 0 || bits (par c 0) 63 32 ≠ 0 || 4 < op || (fromMgr && (op == 1 || op == 2)) then badPacket c 0 s
  else match op with
  | 0 => completeOk c (queryResult s) s
  | 1 => if !mgrCapable s || isReserve s then badPacket c 0 s else completeOk c 0 (withHello stand s)
  | 2 => completeOk c 0 (withHello withdraw s)
  | 3 =>
    let l := (s.fab.members.take (par c 2 / 16)).map memberRecord
    runAcc (.cmd c) (ctxWrite (.cmd c) c.ctx (par c 1) l.flatten) (fun _ s => completeOk c l.length s) (faultCmd c) s
  | _ => if isManager s then completeOk c (outcomeResult s (bits (par c 0) 31 16)) s else badPacket c 0 s

def execFabricStatus (c : Cmd) (s : State) : Host.Outcome State Fault Refusal := whileOn (fabricStatus c) s

/-! ### SWITCH_IN (R472, R474) -/

/-- R472: a restore record of 32 bytes. -/
def restoreRecOf (l : List Byte) : RestoreRec :=
  { kind := bits (leAt l 0 8) 3 0, table := bits (leAt l 0 8) 31 16, w1 := leAt l 8 8, w2 := leAt l 16 8, w3 := leAt l 24 8 }

/-- R472: a malformed record. -/
def recBad (l : List Byte) : Bool := decide (1 < leAt l 0 1) || leAt l 1 1 != 0 || leAt l 4 4 != 0

/-- R472: the reserve that a SWITCH_IN takes: the one named, or the one of lowest UID. -/
def pickReserve (s : State) (r : Nat) : Option Member :=
  let free := s.fab.members.filter fun m => m.reserve && !m.down && m.joined && !(s.fab.switchOps.any fun o => o.reserve == m.id)
  if r = 0xFFFF then free.foldl (fun (b : Option Member) m => match b with
    | some x => if m.uid < x.uid then some m else b
    | none => some m) none
  else free.find? fun m => m.id == r

/-- R472 to R474: SWITCH_IN with its records read. -/
def switchWith (c : Cmd) (l : List Byte) (s : State) : State :=
  let f := bits (par c 0) 15 0
  let recs := (List.range (par c 2)).map fun i => slice (32 * i) 32 l
  if recs.any recBad then badPacket c 0 s
  else match pickReserve s (bits (par c 0) 31 16) with
  | none => complete c stNoResource 0 0 s
  | some r =>
    let s := s.setFab { s.fab with switchOps := s.fab.switchOps ++ [{ cmd := c, failed := f, reserve := r.id, recs := recs.map restoreRecOf }] }
    mgrCopy (.switchIn f r.id) (switchStart f r.id) s

/-- R472, R473: SWITCH_IN. -/
def switchIn (c : Cmd) (s : State) : State :=
  let s := startCmd c s
  let f := bits (par c 0) 15 0
  if s.fab.switchOps.any fun o => o.cmd == c then s
  else if !isManager s || !isDown s f || bits (par c 0) 63 32 ≠ 0 || par c 2 = 0 || 2 ^ 20 < par c 2 || (s.fab.switchOps.any fun o => o.failed == f) then
    badPacket c 0 s
  else runAcc (.cmd c) (ctxRead (.cmd c) c.ctx (par c 1) (32 * par c 2)) (switchWith c) (faultCmd c) s

def execSwitchIn (c : Cmd) (s : State) : Host.Outcome State Fault Refusal := whileOn (switchIn c) s

/-! ### RESTORE_BEGIN, RESTORE_ACK and RESTORE_END (R473) -/

/-- R473 step 2: a member holds new update batches for the ID and owes RESTORE_ACK. -/
def restoreBegins (dev : Nat) (s : State) : State :=
  if s.fab.devId == some dev then s
  else
    let s := updMember dev (fun m => { m with down := false, restoring := true }) s
    let s := s.setFab { s.fab with restoring := (s.fab.restoring.filter fun d => d != dev) ++ [dev], restoreOwe := s.fab.restoreOwe ++ [dev] }
    restoreAcks (lookDown dev s)

def execRestoreBegin (h : Hdr) (dev : Nat) (s : State) : Host.Outcome State Fault Refusal :=
  .next (deliver h (.restoreBegin dev) (restoreBegins dev) s)

/-- R473 step 3: a member has acknowledged. -/
def restoreAcked (src dev : Nat) (s : State) : State :=
  switchCheck dev (s.setFab { s.fab with switchOps := updFirst (fun o => o.failed == dev) (fun o => { o with acks := o.acks ++ [src] }) s.fab.switchOps })

def execRestoreAck (h : Hdr) (dev : Nat) (s : State) : Host.Outcome State Fault Refusal :=
  .next (deliver h (.restoreAck dev) (restoreAcked h.src dev) s)

/-- R473 step 5: the ID serves as owner again, and held updates are released. -/
def restoreEnds (dev : Nat) (s : State) : State :=
  let s := updMember dev (fun m => { m with restoring := false }) s
  updRelease (s.setFab { s.fab with restoring := s.fab.restoring.filter fun d => d != dev })

def execRestoreEnd (h : Hdr) (dev : Nat) (s : State) : Host.Outcome State Fault Refusal :=
  .next (deliver h (.restoreEnd dev) (restoreEnds dev) s)

/-- R473 step 5, R474: the reserve has finished: RESTORE_END is broadcast and SWITCH_IN completes. -/
def restoreDone (src failed first : Nat) (s : State) : State :=
  match s.fab.switchOps.find? fun o => o.failed == src && o.sentRecs with
  | none => s
  | some o =>
    let s := restoreEnds src (send 0xFFFF (.restoreEnd src) s)
    switchEnd o (fun c s => completeOk c (failed + first * 2 ^ 32) s) s

def execRestoreDone (h : Hdr) (failed first : Nat) (s : State) : Host.Outcome State Fault Refusal :=
  .next (deliver h (.restoreDone failed first) (restoreDone h.src failed first) s)

/-! ### The reserve's copy (R473 steps 3 and 4) -/

/-- R472: where the bytes of a record come from: a KGA, or for INSTALL an offset on the manager; and how many there are. -/
def recSource (r : RestoreRec) (s : State) : Except Flt Place :=
  if r.kind = 0 then kgaPlace r.w1 0 else .ok (.glob s.fab.mgrId (r.w1 % 2 ^ 46))

def recCount (r : RestoreRec) : Nat := if r.kind = 0 then r.w3 else 64

/-- R452, R473: one piece of a record's source. -/
def restoreRead (r : RestoreRec) (i n : Nat) : Acc (List Byte) := fun s =>
  match recSource r s with
  | .error f => .error (.fail f s)
  | .ok (.host ..) => .error (.fail .perm s)
  | .ok (.loc o) =>
    if !populatedRange (o + i) n then .error (.fail .xlate s)
    else
      let ((l, bad), s) := localRead (o + i) n s
      if bad then .error (.fail .ecc s) else .ok (l, s)
  | .ok (.glob d o) => globRead .restore d (o + i) n s

/-- The present record is done with. -/
def restoreNext (ok : Bool) (s : State) : State :=
  s.setFab { s.fab with
    restoreWork := s.fab.restoreWork.drop 1
    restoreBuf := []
    restoreAt := s.fab.restoreAt + 1
    restoreFailed := if ok then s.fab.restoreFailed else s.fab.restoreFailed ++ [s.fab.restoreAt] }

/-- R473 step 3, R124: a record whose bytes have been read is written or installed. -/
def restoreApply (r : RestoreRec) (l : List Byte) (s : State) : State :=
  if r.kind = 0 then (if populatedRange r.w2 l.length then restoreNext true (localWrite r.w2 l s) else restoreNext false s)
  else if (tableFn s r.table).state == .enabled then restoreNext true s
  else if (tableFn s r.table).state != .disabled || (findSlot s r.table fun st _ => st == .pending).isSome || tdTable l != r.table || descBad s l then
    restoreNext false s
  else restoreNext true (installTable r.table r.w2 s.now l s)

/-- R473 step 4: RESTORE_DONE, after the last record. -/
def restoreFinish (s : State) : State :=
  if !s.fab.restoreLast then s
  else
    let f := s.fab.restoreFailed
    send s.fab.mgrId (.restoreDone f.length (f.headD 0)) (s.setFab { s.fab with
      restoreLast := false, restoreAt := 0, restoreFailed := [], restoreBuf := [] })

/-- R473 step 3: the reserve works through its records, a piece of at most 4,096 bytes at a time. -/
def restoreRun : Nat → State → State
  | 0, s => s
  | k + 1, s =>
    match s.fab.restoreWork with
    | [] => restoreFinish s
    | r :: _ =>
      let have_ := s.fab.restoreBuf.length
      if recCount r ≤ have_ then restoreRun k (restoreApply r s.fab.restoreBuf s)
      else
        let at_ := r.w1 % 4096 + have_
        let n := min (recCount r - have_) (4096 - at_ % 4096)
        runAcc .restore (restoreRead r have_ n)
          (fun l s => restoreRun k (s.setFab { s.fab with restoreBuf := s.fab.restoreBuf ++ l }))
          (fun _ s => restoreRun k (restoreNext false s)) s

/-- Pieces and records that the reserve has left. -/
def restoreFuel (s : State) : Nat := (s.fab.restoreWork.map fun r => recCount r / 4096 + 3).foldl (· + ·) 1

def restoreGoOn (s : State) : State := if isWaiting s .restore then s else restoreRun (restoreFuel s) s

/-- R473 step 3: RESTORE_REC. A message of fewer than 128 records is the last. -/
def restoreRecs (recs : List RestoreRec) (s : State) : State :=
  restoreGoOn (s.setFab { s.fab with restoreWork := s.fab.restoreWork ++ recs, restoreLast := s.fab.restoreLast || decide (recs.length < 128) })

def execRestoreRec (h : Hdr) (recs : List RestoreRec) (s : State) : Host.Outcome State Fault Refusal :=
  .next (deliver h (.restoreRec recs) (restoreRecs recs) s)

end Sys2Proof.Machine
end

