-- ==== Sys2Proof/Machine/Probe.lean ====
section
/-!
DEFINITION. Weight digests (R502 to R505) and probe tiles (R506 to R508).
-/

namespace Sys2Proof.Machine

/-! ### Weight digests (R502 to R505) -/

/-- One bit of the reflected CRC-64 register of R503; its polynomial reversed is 0xC96C_5795_D787_0F42. -/
def crc64rBit (c : Nat) : Nat := if c % 2 = 1 then (c >>> 1) ^^^ 0xC96C5795D7870F42 else c >>> 1

/-- One byte into it. -/
def crc64rByte (c : Nat) (b : Byte) : Nat := (List.range 8).foldl (fun c _ => crc64rBit c) (c ^^^ b.toNat)

/-- R503: word 1 of a digest. -/
def crc64r (l : List Byte) : Nat := l.foldl crc64rByte 0xFFFFFFFFFFFFFFFF ^^^ 0xFFFFFFFFFFFFFFFF

/-- R503: the 16 bytes of a digest. -/
def digestOf (l : List Byte) : List Byte := leBytes 8 (crc64 l) ++ leBytes 8 (crc64r l)

/-- R504: the HBM offset of this device that a place is. -/
def hbmPlace (s : State) : Place → Option Nat
  | .loc o => if isHbm o then some o else none
  | .glob d o => if s.fab.devId == some d && isHbm o && sharedRange s o 1 then some o else none
  | .host .. => none

/-- R504: the pieces of a region with their places: FLT_PERM if any lies elsewhere than in this device's HBM, else the first failure. -/
def digestPlaces (w : Work) (ctx va n : Nat) : Acc (List (Nat × Nat)) := do
  let xs ← (pieces va n).mapM fun p => do
    let x ← accTry w (xlate w ctx p.1 false)
    pure (x, p.2)
  let s ← accAsk id
  accCheck (xs.all fun x => match x.1 with
    | .ok y => (hbmPlace s y).isSome
    | .error _ => true) .perm
  xs.mapM fun x => match x.1 with
    | .ok y => pure ((hbmPlace s y).getD 0, x.2)
    | .error f => accFail f

/-- R504, R505: the bytes of a region, each sector read once. -/
def digestRead (w : Work) (ctx va n : Nat) : Acc (List Byte) := do
  let ps ← digestPlaces w ctx va n
  ps.foldlM (fun l p => do
    let (d, bad) ← fun s => .ok (localRead p.1 p.2 s)
    accCheck (!bad) .ecc
    pure (l ++ d)) []

/-- R503, R504: the digest is formed, written, and compared with the expected one. The flags: compared, mismatch. -/
def digestAcc (c : Cmd) : Acc (Bool × Bool) := do
  let w : Work := .cmd c
  let l ← digestRead w c.ctx (par c 0) (par c 1)
  let d := digestOf l
  if par c 2 ≠ 0 then ctxWrite w c.ctx (par c 2) d
  if par c 3 = 0 then pure (false, false)
  else
    let e ← ctxRead w c.ctx (par c 3) 16
    pure (true, e != d)

/-- R502, R504: DIGEST_REGION's packet is refused. -/
def digestBad (c : Cmd) : Bool :=
  bits (par c 1) 63 41 != 0 || par c 1 == 0 || decide (2 ^ 40 < par c 1) || !bit (par c 0) 56 || (par c 2 == 0 && par c 3 == 0) ||
  par c 2 % 16 != 0 || par c 3 % 16 != 0

/-- R502: DIGEST_REGION. -/
def digestRegion (c : Cmd) (s : State) : State :=
  let s := startCmd c s
  if digestBad c then badPacket c 0 s
  else
    runAcc (.cmd c) (digestAcc c) (fun r s =>
      let s := countN Reg.INT_CNT_DIGEST_BYTES (par c 1) (count Reg.INT_CNT_DIGEST s)
      completeOk c (b2n r.1 + 2 * b2n r.2) (if r.2 then count Reg.INT_CNT_DIGEST_MISMATCH s else s)) (faultCmd c) s

def execDigestRegion (c : Cmd) (s : State) : Host.Outcome State Fault Refusal := whileOn (digestRegion c) s

/-! ### The probe (R507) -/

/-- R507: the format code of both operands of probe n: INT4, FP4, INT2, BIN, INT8. -/
def probeCode (n : Nat) : Nat := [0, 4, 6, 9, 10].getD (n % 5) 0
def probeFmt (n : Nat) : Fmt := (Fmt.ofCode (probeCode n)).getD .int4

/-- R507: the tile of probe n: 32 by 32, 16 steps, INT4 output with out_shift 6. -/
def probeTile (n : Nat) : Tile :=
  let f := probeCode n
  let e := tileElems [f + f * 16]
  { desc := [f + f * 16 + 32 * 2 ^ 16 + 32 * 2 ^ 22 + 16 * 2 ^ 28 + e * 2 ^ 44, 0, 0, 6 * 2 ^ 9, 0, 0, 0, 0]
    at_ := 0, token := 0, started := true, latched := List.replicate 96 0 }

/-- R507: operand byte b of a probe with seed σ. -/
def probeByte (sigma b : Nat) : Byte := BitVec.ofNat 8 (draw sigma b / 256)

/-- R507: one step of a probe. -/
def probeStep (f : Fmt) (sigma : Nat) (t : Tile) : Tile :=
  let nb := t.elems * f.width / 8
  let line := fun (i : Nat) =>
    let l := (List.range nb).map fun j => probeByte sigma ((64 * t.steps + i) * nb + j)
    (List.range t.elems).map fun e => ((f.k (codeAt f l e), none) : LElem)
  tileAccumulate t ((List.range 32).map line) ((List.range 32).map fun j => line (32 + j))

/-- R507: the banks of probe n under a seed. -/
def probeRun (seed n : Nat) : Tile :=
  let f := probeFmt n
  (List.range 16).foldl (fun t _ => probeStep f (seed ^^^ n) t) (probeTile n)

/-- R507: the signature of a block: its bank values and its packed output codes. -/
def probeSig (t : Tile) (L : Nat) : Nat :=
  let vals := (block t.bank L).map fun v => leBytes 8 (unsext v 64)
  let codes := (List.range 64).map fun p =>
    (convert (drainValue t [] (8 * (L / 4) + p / 8) (8 * (L % 4) + p % 8)) .int4 6 .nearest 0).code
  crc64 (vals.flatten ++ packCodes 4 codes)

/-! ### Who runs it (R506, R508) -/

/-- R508: the next Grove after one, wrapping from 127 to 0, that is neither quarantined nor one of a list. -/
def nextProbeGrove (s : State) (k : Nat) (others : List Nat) : Option Nat :=
  ((List.range 127).map fun d => (k + 1 + d) % 128).find? fun j => !isQuarantined s j && !others.contains j

/-- R508: a Grove of a pair, or its replacement while it is quarantined. -/
def probeGrove (s : State) (k : Nat) (others : List Nat) : Nat :=
  if isQuarantined s k then (nextProbeGrove s k others).getD k else k

/-- R508: the pair of probe n. -/
def probePair (s : State) (n : Nat) : ProbePair :=
  let a := n % 128
  let b := (a + 1 + n / 128 % 127) % 128
  let a' := probeGrove s a [b]
  { n := n, a := a', b := probeGrove s b [a'] }

/-- R511: the runs that a pair awaits move to replacements of Groves quarantined since. -/
def pairMoved (s : State) (p : ProbePair) : ProbePair :=
  let p := if p.sigA.isEmpty then { p with a := probeGrove s p.a [p.b] } else p
  let p := if p.sigB.isEmpty then { p with b := probeGrove s p.b [p.a] } else p
  { p with c := p.c.map fun c => probeGrove s c [p.a, p.b] }

/-- R508: a pair awaits a run of a Grove. -/
def pairAwaits (k : Nat) (p : ProbePair) : Bool :=
  (p.a == k && p.sigA.isEmpty) || (p.b == k && p.sigB.isEmpty) || p.c == some k

/-- R506: one unit of `PRB_CFG.period`, 1,024 G-cycles of 1.9 GHz, in units of fabric time. -/
def probePeriod (s : State) : Nat := bits (regGet s Reg.PRB_CFG) 23 8 * 1024 * 2560 / 19

/-- R506: a Grove may start a probe run, its period apart. -/
def mayProbe (s : State) (k : Nat) : Bool :=
  isReady s && bit (regGet s Reg.PRB_CFG) 0 && !isParked s k && !isQuarantined s k && !bit (regGet s Reg.PWR_STAT) 3 &&
  (groveOf s k).tiles.isEmpty && !(s.prb.runs.any fun r => r.grove == k) && decide (k < 128)

/-- R506: a Grove starts a probe run: the oldest that awaits it, or the next probe when it is one of its pair. -/
def probeStart (k : Nat) (s : State) : State :=
  if !mayProbe s k then s
  else
    let pairs := s.prb.pairs.map (pairMoved s)
    let fresh := probePair s s.prb.next
    let own := pairs.find? (pairAwaits k)
    match own, pairAwaits k fresh with
    | none, false => s
    | _, _ =>
      let last := mget 0 s.prb.last k
      let s := if last = 0 then s else reachTime ((last - 1 + probePeriod s) % 2 ^ 64) s
      let s := match own with
        | some p => s.setPrb { s.prb with pairs := pairs, runs := s.prb.runs ++ [({ grove := k, n := p.n } : ProbeRun)] }
        | none => s.setPrb { s.prb with pairs := pairs ++ [fresh], runs := s.prb.runs ++ [({ grove := k, n := fresh.n } : ProbeRun)], next := (s.prb.next + 1) % 2 ^ 32 }
      s.setPrb { s.prb with last := mset 0 s.prb.last k (s.now + 1) }

def execProbeStart (k : Nat) (s : State) : Host.Outcome State Fault Refusal := whileOn (probeStart k) s

/-! ### Comparison and vote (R508, R510) -/

/-- R508: the run of a Grove that disagrees gives its Lattice a strike. -/
def probeStrike (k L n : Nat) (s : State) : State :=
  let P := latFor s k L
  raiseVector 8 (latStrike k P (intLog 3 k P 0 0x05 n s))

/-- R508: block L of a pair whose third run has signatures `sig`; the flag says that the vote resolved it. -/
def probeVote (p : ProbePair) (sig : List Nat) (L : Nat) (s : State) : Bool × State :=
  let a := p.sigA.getD L 0
  let b := p.sigB.getD L 0
  let c := sig.getD L 0
  if a = b then (false, s)
  else if c = a then (true, probeStrike p.b L p.n s)
  else if c = b then (true, probeStrike p.a L p.n s)
  else (false, raiseVector 8 (intLog 4 p.a L 0 0x05 p.n (count Reg.INT_CNT_PROBE_UNRESOLVED s)))

/-- R508: the third run decides. -/
def probeResolve (p : ProbePair) (sig : List Nat) (s : State) : State :=
  let s := s.setPrb { s.prb with pairs := s.prb.pairs.filter fun q => q.n != p.n }
  let r := (List.range 16).foldl (fun r L =>
    let x := probeVote p sig L r.2
    (r.1 || x.1, x.2)) (false, s)
  if r.1 then count Reg.INT_CNT_PROBE_MISMATCH r.2 else r.2

/-- R508: a run of a Grove has ended with its signatures. -/
def probeEnded (k n : Nat) (sig : List Nat) (s : State) : State :=
  match s.prb.pairs.find? fun p => p.n == n with
  | none => s
  | some p =>
    if p.c == some k then probeResolve p sig s
    else
      let q := if p.a = k && p.sigA.isEmpty then { p with sigA := sig } else { p with sigB := sig }
      let q := { q with firstEnd := some (p.firstEnd.getD s.now) }
      let put := fun (x : Option ProbePair) (s : State) =>
        s.setPrb { s.prb with pairs := s.prb.pairs.filterMap fun y => if y.n == n then x else some y }
      if q.sigA.isEmpty || q.sigB.isEmpty then put (some q) s
      else
        let s := count Reg.INT_CNT_PROBE_PAIRS s
        if q.sigA == q.sigB then put none s
        else match nextProbeGrove s q.b [q.a, q.b] with
          | some c => put (some { q with c := some c }) s
          | none => put none s

/-- R214, R506, R507: the check of a probe run's tile: a residue mismatch strikes its Lattice, else the signatures are taken. -/
def probeChecked (k n : Nat) (errors : List (Nat × Nat)) (t : Tile) (s : State) : State :=
  let (t', s) := tileCheck k t s
  if !t'.checked then t'.retry.foldl (fun s P => latStrike k P s) s
  else
    let sig := (List.range 16).map fun L => ((errors.find? fun e => e.1 == L).map (·.2)).getD (probeSig t L)
    probeEnded k n sig (count Reg.INT_CNT_PROBE_RUN s)

/-- R501, R214, R506 to R508: a probe run ends. `errors` are the signatures that errors of the Grove's hardware have changed, by block;
an injection strikes it as any drained tile, and a residue mismatch strikes its Lattice at once and discards the run. -/
def probeRunEnd (k : Nat) (errors : List (Nat × Nat)) (s : State) : State :=
  match s.prb.runs.find? fun r => r.grove == k with
  | none => s
  | some r =>
    let s := s.setPrb { s.prb with runs := s.prb.runs.filter fun x => x.grove != k }
    probeChecked k r.n errors (probeRun (regGet s Reg.PRB_SEED) r.n) s

def execProbeRunEnd (k : Nat) (errors : List (Nat × Nat)) (s : State) : Host.Outcome State Fault Refusal := whileOn (probeRunEnd k errors) s

/-- R508: a pair whose second run has not ended in time is discarded. -/
def probeExpire (n : Nat) (s : State) : State :=
  match s.prb.pairs.find? fun p => p.n == n with
  | none => s
  | some p =>
    match p.firstEnd, p.c with
    | some t, none =>
      let s := reachTime ((t + bits (regGet s Reg.PRB_CFG) 31 24 * 1000 * usUnits) % 2 ^ 64) s
      count Reg.INT_CNT_PROBE_EXPIRED (s.setPrb { s.prb with
        pairs := s.prb.pairs.filter fun q => q.n != n
        runs := s.prb.runs.filter fun r => r.n != n })
    | _, _ => s

def execProbeExpire (n : Nat) (s : State) : Host.Outcome State Fault Refusal := whileOn (probeExpire n) s

end Sys2Proof.Machine
end

