-- ==== Sys2Proof/Machine/Power.lean ====
section
/-!
DEFINITION. Power, clocks, temperature and the sideband (chapter 18). Currents are in mA, voltages in mV, temperatures in 1/16 °C.
-/

namespace Sys2Proof.Machine

/-! ### Events (R569) -/

/-- R569: an event bit of `PWR_EVENTS`; a rising bit raises vector 10. -/
def pwrEvent (b : Nat) (s : State) : State :=
  if bit (regGet s Reg.PWR_EVENTS) b then s else raiseVector 10 (regOr Reg.PWR_EVENTS (1 <<< b) s)

/-- R524: a POWER record of the trace. -/
def tracePower (a : Nat) (s : State) : State := emit 0x0E 0xFF 0 a (bits (regGet s Reg.PWR_INPUT) 47 32) 0 s

/-- The bits of `PWR_STAT` beside the state: throttling, ballast, parked. -/
def powerFlags (s : State) : State :=
  let low := [0, 1].any fun d => decide (bits (regGet s (Reg.PWR_DUTY d)) 22 16 < 64)
  let parked := regGet s Reg.PWR_PARK_LO != 0 || regGet s Reg.PWR_PARK_HI != 0
  regField Reg.PWR_STAT 5 3 (b2n low + b2n (s.pwr.ballast != 0) * 2 + b2n parked * 4) s

/-- The clocks when only the standby oscillator runs: no PLL is locked. -/
def clocksOff (s : State) : State := regPut Reg.CLK_STAT 0 s

/-! ### Input power (R539 to R541) -/

def inputPowerUp (s : State) : State := if s.pwr.pstate == .off then s.setPwr { s.pwr with inrush := true } else s

/-- R539, R540, R565: the capacitance is charged, the standby rail is up and the SMBus address straps are sampled. -/
def inrushDone (smbAddr : Nat) (s : State) : State :=
  if s.pwr.pstate == .off && s.pwr.inrush then
    clocksOff (putPState .standby (s.setPwr { s.pwr with inrush := false, smbAddr := smbAddr % 4 }))
  else s

/-- R541, R495: the input falls below 36.0 V: only fuses and flash survive. -/
def inputPowerLoss (s : State) : State := clocksOff (putPState .off (persistent false s))

/-- R541, R573 step 2: the main converters are up. -/
def mainConvertersUp (s : State) : State :=
  if s.pwr.pstate == .standby && s.sec.stage == .power then startTraining (putPState .run s) else s

def execInputPowerUp (s : State) : Host.Outcome State Fault Refusal := .next (inputPowerUp s)
def execInrushDone (smbAddr : Nat) (s : State) : Host.Outcome State Fault Refusal := .next (inrushDone smbAddr s)
def execInputPowerLoss (s : State) : Host.Outcome State Fault Refusal := .next (inputPowerLoss s)
def execMainConvertersUp (s : State) : Host.Outcome State Fault Refusal := .next (mainConvertersUp s)

/-! ### The ramp governor and the ballast (R543 to R546) -/

/-- R537: the change of the input current that 10 ns allow, in mA. -/
def rampStep10ns : Nat := 40

/-- R546 steps 4 and 5: pre-ramps whose time T has come hand over to the Groves. -/
def dropRamps (s : State) : State := s.setPwr { s.pwr with preramps := s.pwr.preramps.filter fun p => !p.begun || ahead s p.time }

/-- R546, R570: the ballast current that the pre-ramps under way ask for. -/
def rampTarget (s : State) : Nat := ((s.pwr.preramps.filter (·.begun)).map (·.step)).foldl (· + ·) 0

/-- R544, R545: converter and ballast currents after 10 ns under a load: the load rises no faster than the limit allows beside the ballast,
the ballast follows its target and takes up what the load releases, up to its capacity. -/
def governed (total target load : Nat) : Nat × Nat :=
  let g := min load (total + rampStep10ns)
  (g, min 60000 (min (max target (total - rampStep10ns - g)) (total + rampStep10ns - g)))

/-- An energy counter with its remainder, in units of 10^-14 J; `unit` of them make one count. -/
def addEnergy (rest e unit : Nat) : Nat × Nat := ((rest + e) / unit, (rest + e) % unit)

/-- R544 to R546: a sample of the ramp governor: the input voltage, the current that the converters' load asks for,
and the Grove G-cycles held while it could not rise. -/
def rampGovernorTick (mv load held : Nat) (s : State) : State :=
  if !powered s then s
  else
    let s := dropRamps s
    let total := s.pwr.grove + s.pwr.ballast
    let (g, b) := governed total (rampTarget s) load
    let (mj, mjRest) := addEnergy s.pwr.mj (b * mv) 100000000000
    let (j, jRest) := addEnergy s.pwr.joule ((g + b) * mv) 100000000000000
    let s := s.setPwr { s.pwr with grove := g, ballast := b, mj := mjRest, joule := jRest }
    let s := countN Reg.PWR_CNT_BALLAST_MJ mj (countN Reg.PWR_CNT_ENERGY_J j s)
    let s := regField Reg.PWR_INPUT 31 16 ((g + b) / 10) (regField Reg.PWR_INPUT 15 0 mv s)
    powerFlags (if g < load then countN Reg.PWR_CNT_RAMP_HOLD held (pwrEvent 5 s) else s)

/-- R546 step 3: the time before T at which the ballast starts. -/
def prerampStart (k : Nat) (s : State) : State :=
  match s.pwr.preramps[k]? with
  | none => s
  | some p =>
    if p.begun then s
    else
      let s := reachTime ((p.time + 2 ^ 64 - rampLead p.step) % 2 ^ 64) s
      s.setPwr { s.pwr with preramps := s.pwr.preramps.set k { p with begun := true } }

def execRampGovernorTick (mv load held : Nat) (s : State) : Host.Outcome State Fault Refusal := .next (rampGovernorTick mv load held s)
def execBallastPrerampStart (k : Nat) (s : State) : Host.Outcome State Fault Refusal := whileOn (prerampStart k) s

/-! ### The power cap (R548 to R551) -/

/-- R548: the smallest cap held and its slot; of equal caps the first slot binds. -/
def capBinding (host mgr bmc : Nat) : Nat × Nat :=
  let held := [(host, 0), (mgr, 1), (bmc, 2)].filter fun p => p.1 != 0
  held.foldl (fun a p => if p.1 < a.1 || a.2 == 3 then p else a) (2500, 3)

/-- R548: a cap slot is set, or emptied with 0; a change of the effective cap is an event. -/
def setCap (slot w : Nat) (s : State) : State :=
  let r := setBits (regGet s Reg.PWR_CAP) (12 * slot + 11) (12 * slot) w
  let (eff, b) := capBinding (bits r 11 0) (bits r 23 12) (bits r 35 24)
  let changed := eff != bits r 47 36
  let s := regPut Reg.PWR_CAP (setBits (setBits r 47 36 eff) 49 48 b) s
  if changed then tracePower 3 (pwrEvent 4 s) else s

/-- R549: the slot of a POWER_CAP. -/
def capSlot (c : Cmd) : Nat :=
  match c.src with
  | .mgr _ => 1
  | _ => 0

/-- R549: POWER_CAP. It completes when the cap is enforced. -/
def powerCap (c : Cmd) (s : State) : State :=
  let s := startCmd c s
  let w := bits (par c 0) 11 0
  if bits (par c 0) 63 13 != 0 || (!bit (par c 0) 12 && (decide (w < 800) || decide (2500 < w))) then badPacket c 0 s
  else if s.pwr.capCmds.contains c then s
  else setCap (capSlot c) (if bit (par c 0) 12 then 0 else w) (s.setPwr { s.pwr with capCmds := s.pwr.capCmds ++ [c] })

def execPowerCap (c : Cmd) (s : State) : Host.Outcome State Fault Refusal := whileOn (powerCap c) s

/-- R549: the result word of an enforced cap. -/
def capResult (s : State) : Nat := bits (regGet s Reg.PWR_CAP) 47 36 + bits (regGet s Reg.PWR_CAP) 49 48 * 2 ^ 12

/-- R549, R550: the POWER_CAP commands that wait complete. -/
def capEnforced (s : State) : State :=
  s.pwr.capCmds.foldl (fun s c => completeOk c (capResult s) s) (s.setPwr { s.pwr with capCmds := [] })

/-- R551: a die's duties, and the smaller of them as the one applied. -/
def putDuty (d thermal cap : Nat) (s : State) : State := regPut (Reg.PWR_DUTY d) (thermal + cap * 2 ^ 8 + min thermal cap * 2 ^ 16) s

def thermalDuty (s : State) (d : Nat) : Nat := bits (regGet s (Reg.PWR_DUTY d)) 6 0
def capDuty (s : State) (d : Nat) : Nat := bits (regGet s (Reg.PWR_DUTY d)) 14 8

/-- R550: the cap duty after a comparison of the average power with the cap. -/
def capStep (avg cap duty : Nat) : Nat :=
  if cap < avg then max 4 (duty - 2) else if avg * 100 < cap * 95 then min 64 (duty + 1) else duty

/-- R550: the 1 ms average of the input power is compared with the effective cap; `withheld` counts the G-cycles withheld since the last tick. -/
def capControlTick (avg withheld : Nat) (s : State) : State :=
  if !powered s then s
  else
    let cap := bits (regGet s Reg.PWR_CAP) 47 36
    let s := countN Reg.PWR_CNT_DUTY_HOLD withheld (regField Reg.PWR_INPUT 47 32 avg s)
    let s := if cap < avg then count Reg.PWR_CNT_CAP_ABOVE s else s
    let s := [0, 1].foldl (fun s d => putDuty d (thermalDuty s d) (capStep avg cap (capDuty s d)) s) s
    powerFlags (if avg * 100 ≤ cap * 103 then capEnforced s else s)

def execCapControlTick (avg withheld : Nat) (s : State) : Host.Outcome State Fault Refusal := .next (capControlTick avg withheld s)

/-! ### Emergency stop (R555 to R558) -/

/-- R494, R557: the record of an emergency stop, or of the host-loss reset that it meets (R570). -/
def stopRecord (s : State) : State :=
  match s.hl.loss with
  | some l => crashWrite l s
  | none =>
    let (w, s) := linkWord s
    crashWrite { cause := 5, fault := 0, block := 0x10, time := s.now, dropped := s.hl.queued.length,
                 droppedBytes := (s.hl.queued.map fun x => x.data.length).foldl (· + ·) 0, reads := s.hl.reads.length,
                 outstanding := s.crn.started.length,
                 resident := (s.sched.ctxs.filter fun x => x.state == .resident || x.state == .evicting).length, link := w } s

/-- R557: the converters stop and the cause is recorded. -/
def emergencyStop (cause sensor : Nat) (s : State) : State :=
  if !powered s then s
  else clocksOff (putPState .stopped (persistent true (regPut Reg.PWR_STOP_CAUSE (cause + sensor * 8) (stopRecord s))))

def execEmstopNLow (s : State) : Host.Outcome State Fault Refusal := .next (emergencyStop 1 0 s)
def execOverVoltage (s : State) : Host.Outcome State Fault Refusal := .next (emergencyStop 2 0 s)
def execOverCurrent (s : State) : Host.Outcome State Fault Refusal := .next (emergencyStop 3 0 s)
def execPowerStageFault (s : State) : Host.Outcome State Fault Refusal := .next (emergencyStop 5 0 s)

/-- R563: the root PLL loses lock; in RUN that is an emergency stop. -/
def rootUnlock (s : State) : State :=
  let s := regField Reg.CLK_STAT 0 0 0 s
  if s.pwr.pstate == .run then emergencyStop 6 0 s else s

def execRootPllUnlock (s : State) : Host.Outcome State Fault Refusal := .next (rootUnlock s)

/-- R561: a PLL locks: 0 the root PLL, 1 to 4 the SerDes PLLs. -/
def pllLock (pll : Nat) (s : State) : State :=
  if !powered s || 4 < pll then s
  else startTraining (regOr Reg.CLK_STAT (1 <<< (if pll = 0 then 0 else pll + 1)) s)

def execPllLock (pll : Nat) (s : State) : Host.Outcome State Fault Refusal := .next (pllLock pll s)

/-! ### Temperature (R552 to R555) -/

/-- R552: the reading of a sensor, if it has been read since reset. -/
def sensorTemp (s : State) (n : Nat) : Option Int :=
  let r := regGet s (Reg.THM_SENSOR n)
  if bit r 16 then some (sext r 16) else none

/-- R552: the sensors of a grove die. -/
def dieSensors (d : Nat) : List Nat := (List.range 16).map (· + 16 * d)

/-- A sensor of a list that reads a temperature or more. -/
def anyAbove (s : State) (l : List Nat) (t : Int) : Bool := l.any fun n => match sensorTemp s n with
  | some x => decide (t ≤ x)
  | none => false

/-- R554: since when a condition has held, as one more than the time; 0 while it does not. -/
def since (l : Sparse Nat) (k : Nat) (holds : Bool) (now : Nat) : Sparse Nat :=
  if !holds then mset 0 l k 0 else if mget 0 l k = 0 then mset 0 l k (now + 1) else l

/-- R552, R554, R555: the sensors are read; one at 105.0 °C or more stops the part. -/
def sensorReadTick (temps : List Nat) (s : State) : State :=
  if !powered s then s
  else
    let s := (List.range 48).foldl (fun s n => match temps[n]? with
      | some t => regPut (Reg.THM_SENSOR n) (t % 2 ^ 16 + 2 ^ 16) s
      | none => s) s
    let s := s.setPwr { s.pwr with
      hot := (List.range 32).foldl (fun l n => since l n (anyAbove s [n] 1632) s.now) s.pwr.hot
      cool := [0, 1].foldl (fun l d => since l d ((dieSensors d).all fun n => match sensorTemp s n with
        | some x => decide (x < 1552)
        | none => false) s.now) s.pwr.cool }
    match (List.range 48).find? fun n => anyAbove s [n] 1680 with
    | some n => emergencyStop 4 n s
    | none => s

def execSensorReadTick (temps : List Nat) (s : State) : Host.Outcome State Fault Refusal := .next (sensorReadTick temps s)

/-- R553: a die's thermal duty is adjusted: a sensor of the die, of the hub, of the HBM or of the power stages that reads 100.0 °C or more lowers it;
it rises when every sensor of the die reads below 98.0 °C. -/
def thermalDie (d : Nat) (s : State) : State :=
  let old := thermalDuty s d
  if anyAbove s (dieSensors d ++ (List.range 16).map (· + 32)) 1600 then
    let s := putDuty d (max 8 (old - 4)) (capDuty s d) s
    if old = 64 then tracePower 1 (pwrEvent 0 s) else s
  else if anyAbove s (dieSensors d) 1568 then s
  else
    let s := putDuty d (min 64 (old + 4)) (capDuty s d) s
    if old < 64 && 64 ≤ old + 4 then tracePower 2 (pwrEvent 1 s) else s

def thermalTick (s : State) : State := if powered s then powerFlags (thermalDie 1 (thermalDie 0 s)) else s

def execThermalTick (s : State) : Host.Outcome State Fault Refusal := .next (thermalTick s)

/-- R554: the Groves of a row of 8. -/
def rowGroves (r : Nat) : List Nat := (List.range 8).map (· + 8 * r)

/-- R554: `PWR_PARK_LO` and `PWR_PARK_HI` report the parked rows. -/
def putParked (rows : List Nat) (s : State) : State :=
  let m := rows.foldl (fun m r => m ||| (255 <<< (8 * r))) 0
  powerFlags (regPut Reg.PWR_PARK_LO (m % 2 ^ 64) (regPut Reg.PWR_PARK_HI (m / 2 ^ 64) (s.setPwr { s.pwr with parked := rows, taprootSeq := (s.pwr.taprootSeq + 1) % 2 ^ 32 })))

/-- R554, R428: a row parks: its nodes are hard-pre-empted, and its probe runs are abandoned. -/
def parkRow (r : Nat) (s : State) : State :=
  let s := putParked (r :: s.pwr.parked) s
  let ns := s.sched.nodes.filter fun n => n.onGroves && n.groves.any fun k => (rowGroves r).contains k
  let s := ns.foldl (fun s n => preempt n.ctx true s) s
  pwrEvent 2 (count Reg.PWR_CNT_PARK ((rowGroves r).foldl (fun s k => probeAbandon k s) s))

/-- R554: a sensor of a die at the least thermal duty has read 102.0 °C or more for 1 ms, and 1 ms has passed since the last park. -/
def thermalPark (n : Nat) (s : State) : State :=
  let t := mget 0 s.pwr.hot n
  let r := n / 2
  if !powered s || 32 ≤ n || t = 0 || s.pwr.parked.contains r || thermalDuty s (n / 16) != 8 then s
  else
    let s := reachTime ((t - 1 + 1000 * usUnits) % 2 ^ 64) s
    let s := if s.pwr.lastPark = 0 then s else reachTime ((s.pwr.lastPark - 1 + 1000 * usUnits) % 2 ^ 64) s
    parkRow r (s.setPwr { s.pwr with lastPark := s.now + 1 })

def execThermalPark (sensor : Nat) (s : State) : Host.Outcome State Fault Refusal := .next (thermalPark sensor s)

/-- R554: a die has stayed below 97.0 °C for 10 ms: its row that was parked last is unparked, 10 ms after the last unpark. -/
def thermalUnpark (die : Nat) (s : State) : State :=
  let t := mget 0 s.pwr.cool die
  match s.pwr.parked.find? fun r => r / 8 == die with
  | none => s
  | some r =>
    if !powered s || t = 0 then s
    else
      let s := reachTime ((t - 1 + 10000 * usUnits) % 2 ^ 64) s
      let s := if s.pwr.lastUnpark = 0 then s else reachTime ((s.pwr.lastUnpark - 1 + 10000 * usUnits) % 2 ^ 64) s
      pwrEvent 3 (putParked (s.pwr.parked.erase r) (s.setPwr { s.pwr with lastUnpark := s.now + 1 }))

def execThermalUnpark (die : Nat) (s : State) : Host.Outcome State Fault Refusal := .next (thermalUnpark die s)

/-! ### The sideband (R568, R569) -/

/-- R568: the sideband answers while the standby rail is up. -/
def hasStandby (s : State) : Bool := s.pwr.pstate != .off

/-- The part answers a transaction; none is a NACK. -/
def sideAnswer (a : Option (List Byte)) (s : State) : State := s.setPwr { s.pwr with answers := s.pwr.answers ++ [a] }

/-- R568: a read: a PEC that fails is answered with NACK. -/
def sidebandRead (pec : Bool) (f : State → Option (List Byte)) (s : State) : Host.Outcome State Fault Refusal :=
  .next (if hasStandby s then sideAnswer (if pec then f s else none) s else s)

/-- R568: a write: one whose PEC fails is ignored. -/
def sideWrite (pec : Bool) (f : State → State) (s : State) : Host.Outcome State Fault Refusal :=
  .next (if hasStandby s && pec then f s else s)

/-- R568: IDENT. -/
def identBytes (s : State) : List Byte := leBytes 4 (regGet s Reg.GLB_PART) ++ leBytes 4 0 ++ leBytes 8 (regGet s Reg.GLB_UID)

def execIdent (pec : Bool) (s : State) : Host.Outcome State Fault Refusal := sidebandRead pec (fun s => some (identBytes s)) s

/-- R568: the hottest sensor and its temperature code. -/
def hottest (s : State) : Nat × Nat :=
  ((List.range 48).foldl (fun (a : Option (Nat × Int)) n => match sensorTemp s n, a with
    | some t, none => some (n, t)
    | some t, some (m, u) => if u < t then some (n, t) else some (m, u)
    | none, a => a) none).elim (0, 0) fun p => (p.1, unsext p.2 16)

/-- R554, R542: Groves that are parked. -/
def parkedCount (s : State) : Nat := if s.pwr.pstate == .d3hot then 128 else 8 * s.pwr.parked.length

/-- R568: TELEMETRY. -/
def telemetryBytes (s : State) : List Byte :=
  let i := regGet s Reg.PWR_INPUT
  leBytes 1 (pstateCode s.pwr.pstate) ++ leBytes 1 (bits (regGet s Reg.PWR_STOP_CAUSE) 2 0) ++ leBytes 2 (effectiveCap s) ++
  leBytes 2 (bits i 15 0) ++ leBytes 2 (bits i 31 16) ++ leBytes 2 (bits i 47 32) ++ leBytes 1 (hottest s).1 ++ leBytes 2 (hottest s).2 ++
  leBytes 1 (bits (regGet s (Reg.PWR_DUTY 0)) 22 16) ++ leBytes 1 (bits (regGet s (Reg.PWR_DUTY 1)) 22 16) ++ leBytes 1 (parkedCount s) ++ leBytes 16 0

def execTelemetry (pec : Bool) (s : State) : Host.Outcome State Fault Refusal := sidebandRead pec (fun s => some (telemetryBytes s)) s

def execSensor (pec : Bool) (n : Nat) (s : State) : Host.Outcome State Fault Refusal :=
  sidebandRead pec (fun s => if n < 48 then some (leBytes 4 (regGet s (Reg.THM_SENSOR n))) else none) s

/-- R568: CAP_SET. -/
def bmcCap (w : Nat) (s : State) : State :=
  if w = 0 ∨ (800 ≤ w ∧ w ≤ 2500) then sideAnswer (some []) (setCap 2 w s) else sideAnswer none s

def execCapSet (pec : Bool) (value : Nat) (s : State) : Host.Outcome State Fault Refusal := sideWrite pec (bmcCap value) s

def execCapGet (pec : Bool) (s : State) : Host.Outcome State Fault Refusal := sidebandRead pec (fun s => some (leBytes 2 (effectiveCap s))) s

/-- R568: EVENTS: `PWR_EVENTS`, with bit 15 in STOPPED. -/
def eventsWord (s : State) : Nat := regGet s Reg.PWR_EVENTS + b2n (s.pwr.pstate == .stopped) * 2 ^ 15

def execEvents (pec : Bool) (s : State) : Host.Outcome State Fault Refusal := sidebandRead pec (fun s => some (leBytes 2 (eventsWord s))) s

/-- R568: EVENTS_CLEAR. -/
def eventsClear (value : Nat) (s : State) : State := sideAnswer (some []) (regWrite Reg.PWR_EVENTS (value % 2 ^ 15) s)

def execEventsClear (pec : Bool) (value : Nat) (s : State) : Host.Outcome State Fault Refusal := sideWrite pec (eventsClear value) s

/-- R568: CRASH: four words of the crash record. -/
def crashBytes (s : State) (n : Nat) : List Byte := words8 ((List.range 4).map fun j => regGet s (Reg.HL_CRASH (4 * n + j)))

def execCrash (pec : Bool) (n : Nat) (s : State) : Host.Outcome State Fault Refusal :=
  sidebandRead pec (fun s => if n < 8 then some (crashBytes s n) else none) s

def execCrashClear (pec : Bool) (s : State) : Host.Outcome State Fault Refusal := sideWrite pec (fun s => sideAnswer (some []) (crashClear s)) s

/-- R558: what holds a part in STOPPED: EMSTOP_N low, the input outside the operating range, or a sensor at 95.0 °C or more. -/
def mayRestart (emstopHigh : Bool) (mv : Nat) (temps : List Nat) : Bool :=
  emstopHigh && decide (40000 ≤ mv) && decide (mv ≤ 48000) && temps.all fun t => decide (sext t 16 < 1520)

/-- R558: RESTART. -/
def restart (emstopHigh : Bool) (mv : Nat) (temps : List Nat) (s : State) : State :=
  let s := sideAnswer (some []) s
  if s.pwr.pstate == .stopped && mayRestart emstopHigh mv temps then
    putPState .standby (putStage .rom s) else s

def execRestart (pec emstopHigh : Bool) (mv : Nat) (temps : List Nat) (s : State) : Host.Outcome State Fault Refusal :=
  sideWrite pec (restart emstopHigh mv temps) s

/-- R569: ALERT_N is asserted. -/
def alert (s : State) : Bool := regGet s Reg.PWR_EVENTS != 0 || s.pwr.pstate == .stopped

/-- R568: the part's 7-bit address. -/
def smbAddress (s : State) : Nat := 0x58 + s.pwr.smbAddr

/-- R569: the Alert Response Address: the part answers with its address while it asserts ALERT_N. -/
def execSmbusAlertResponse (s : State) : Host.Outcome State Fault Refusal :=
  sidebandRead true (fun s => if alert s then some [BitVec.ofNat 8 (smbAddress s * 2)] else none) s

end Sys2Proof.Machine
end

