-- ==== Sys2Proof/Machine/Views.lean ====
section
/-!
DEFINITION. What a read of a BAR 0 register returns: the registers that show the state of the part's engines, the frozen view of the counters
(R519), and every other register's own contents.
-/

namespace Sys2Proof.Machine

/-! ### Function states -/

/-- R43: the code of a function state. -/
def fnCode : FnState → Nat
  | .disabled => 0
  | .enabled => 1
  | .draining => 2
  | .drainingDeferred => 3

/-! ### Memory and partitions -/

/-- R163, R165: `MEM_GROUP_OWNER[g]`. -/
def viewGroup (s : State) (g : Nat) : Nat :=
  let scrub := s.sched.partOps.any fun o => o.scrub.contains g
  match groupOwner s g with
  | some p => p + 16 + b2n scrub * 32
  | none => b2n scrub * 32

/-- R413: `PART_CFG[p]`. -/
def viewPart (s : State) (p : Nat) : Nat :=
  let x := partOf s p
  if x.exist then x.groups % 2 ^ 16 + x.ways % 2 ^ 32 * 2 ^ 16 + b2n x.exact * 2 ^ 48 + 2 ^ 49 else 0

def viewGroves (s : State) (p : Nat) : Nat := if (partOf s p).exist then (partOf s p).groves else 0

/-- Contexts of a partition that exist. -/
def partCtxs (s : State) (p : Nat) : List Ctx := s.sched.ctxs.filter fun x => x.state != .none && x.part == p

/-- R414: `PART_STAT[p]`. -/
def viewPartStat (s : State) (p : Nat) : Nat :=
  (partCtxs s p).length + b2n (s.sched.partOps.any fun o => o.part == p) * 2 ^ 15 +
  ((residents s).filter fun x => x.part == p).length * 2 ^ 16

/-! ### Groves -/

/-- `VEC_STAT[k]`. -/
def viewVec (s : State) (k : Nat) : Nat :=
  let g := groveOf s k
  let n := g.chains.length - b2n g.chainOn
  let held := (List.range 4).foldl (fun m i => m + b2n (g.slots.getD i {} != {}) * 2 ^ i) 0
  n + b2n g.chainOn * 8 + held * 16 + b2n ((g.ctx.map (ctxExact s)).getD false) * 256

/-- `CORE_STAT[k]`: a core that has stopped on a trap shows it. -/
def viewCore (s : State) (k : Nat) : Nat :=
  let g := groveOf s k
  let st := match g.ctx with
    | none => 0
    | some _ => match g.wait with
      | .none => if g.running then 1 else if bit (regGet s (Reg.CORE_TRAP k)) 28 then 6 else 0
      | .tokens _ => 2
      | .barrier _ => 3
      | .tag => 4
      | .held => 5
      | .ending => 1
  st + g.pc / 4 % 2 ^ 14 * 2 ^ 16 + (g.tokens.foldl (fun m t => m ||| 1 <<< t.1) 0) % 2 ^ 16 * 2 ^ 32

/-- `HLX_CH_STAT[k][c]`. -/
def viewChan (s : State) (c k : Nat) : Nat :=
  let h := chanOf s k c
  let st :=
    if h.halted.isSome || h.parked then 5
    else if !h.running then 0
    else if h.stopping || h.ended then (if h.reqs.isEmpty && h.ended then 0 else 6)
    else if h.barw then 3
    else if h.taking then 4
    else if h.held then 2
    else 1
  st + h.kind * 8 + b2n h.ext * 32 + b2n h.fixed * 64 + (if h.parked then h.resume else h.pos).pc % 64 * 2 ^ 7 + h.opened % 256 * 2 ^ 16 + (if h.ext then h.ringId * 2 ^ 24 else 0)

def viewChanRing (s : State) (c k : Nat) : Nat := (chanOf s k c).head % 2 ^ 32 + (chanOf s k c).tail % 2 ^ 32 * 2 ^ 32
def viewChanCredit (s : State) (c k : Nat) : Nat := (chanOf s k c).credit % 2 ^ 26

/-- Whether a piece of work waits on a translation fault. -/
def onFault (s : State) (w : Work) : Bool := s.io.waits.any fun x => x.work == w && x.need.isFault

/-- `GDMA_STAT[k]`. -/
def viewGdma (s : State) (k : Nat) : Nat :=
  let g := gdmaOf s k
  g.queue.length % 32 + b2n (g.queue.any (·.started)) * 32 + b2n (onFault s (.gdma k)) * 64 + b2n g.waiting.isSome * 128

/-! ### DMA and translation -/

/-- `DMA_CH_STAT[n]`. -/
def viewBulk (s : State) (n : Nat) : Nat :=
  let b := bulkOf s n
  fnCode b.fn.state + b2n b.held.isSome * 4 + b2n (onFault s (.bulk n)) * 8 + b.ringLog * 16 + (b.ctx.getD 0) * 2 ^ 8

/-- `XLT_STAT`. -/
def viewXlt (s : State) : Nat := setBits (regGet s Reg.XLT_STAT) 2 0 (b2n s.hl.ats + b2n s.hl.pri * 2 + b2n s.hl.cxlCache * 4)

/-- `XLT_PRI_OUT`. -/
def viewPri (s : State) : Nat := s.xlt.reqs.length % 2 ^ 11 + (s.xlt.groups.filter fun g => g.index.isNone).length % 2 ^ 7 * 2 ^ 16

/-! ### Crown and contexts -/

/-- `CRN_STAT`. -/
def viewCrown (s : State) : Nat := s.crn.started.length % 2 ^ 13 + b2n (uclProd s != uclCons s) * 2 ^ 13

/-- `CRN_RING_VIEW` of the selected ring. -/
def viewRing (s : State) : Nat :=
  let ctx := bits (regGet s Reg.CRN_RING_SEL) 13 0
  let q := bits (regGet s Reg.CRN_RING_SEL) 16 14
  let x := getCtx s ctx
  if q = 6 then
    x.cpl.head + x.cpl.prod * 2 ^ 20 + x.cpl.sizeLog * 2 ^ 40 + b2n (ctxExists s ctx) * 2 ^ 45 + b2n (ctxExists s ctx && x.cpl.full) * 2 ^ 47
  else
    let r := x.rings.getD q {}
    r.head + r.tail * 2 ^ 20 + r.sizeLog * 2 ^ 40 + b2n r.enable * 2 ^ 45 + b2n (r.enable && r.head != r.tail && headBlocked s ctx q) * 2 ^ 46

/-- R407: `CRN_UCL_WIN[i]`. -/
def viewUcl (s : State) (i : Nat) : Nat := if uclProd s = uclCons s then 0 else memNat s (uclBase s + 64 * uclCons s + 8 * i) 8

/-- `CTX_RES_STAT`. -/
def viewRes (s : State) : Nat :=
  (residents s).length % 2 ^ 9 + (s.sched.ctxs.filter fun x => x.pinned).length % 2 ^ 9 * 2 ^ 9 +
  ((residents s).filter fun x => x.reserveSlot).length % 2 ^ 5 * 2 ^ 18

def ctxStateCode : CtxState → Nat
  | .none => 0
  | .out => 1
  | .swappingIn => 2
  | .resident => 3
  | .evicting => 4
  | .faulted => 5
  | .draining => 6
  | .drainingDeferred => 7

def runCode : RunState → Nat
  | .idle => 0
  | .ready => 1
  | .running => 2
  | .blocked => 3

/-- `CTX_VIEW` of the selected context. -/
def viewCtx (s : State) : Nat :=
  let c := bits (regGet s Reg.CTX_SEL) 13 0
  let x := getCtx s c
  let run := if x.state == .resident then runCode (runState s c) else 0
  let fl := (x.teared.or x.pending).elim 0 Flt.code
  ctxStateCode x.state + run * 2 ^ 3 + b2n x.pinned * 2 ^ 5 + x.part * 2 ^ 6 + x.pasid * 2 ^ 10 + fl * 2 ^ 30 +
  b2n (s.sched.nodes.any fun n => n.ctx == c && n.state == .saved) * 2 ^ 38

def viewProgress (s : State) : Nat := (getCtx s (bits (regGet s Reg.CTX_SEL) 13 0)).progress

/-! ### The fabric -/

/-- `FAB_STAT`. The manager counts as locked. -/
def viewFab (s : State) : Nat :=
  roleCode s.fab.role + b2n s.fab.devId.isSome * 8 + b2n (s.fab.locked || s.fab.role == .manager) * 16 + b2n s.fab.candidate * 32 +
  s.fab.devId.getD 0 * 2 ^ 16 + s.fab.mgrId * 2 ^ 32 + s.fab.depId * 2 ^ 48

def viewDomain (s : State) : Nat := s.fab.term % 2 ^ 32 + s.fab.count % 2 ^ 16 * 2 ^ 32 + b2n s.fab.switched * 2 ^ 48

def viewTime (s : State) : Nat :=
  b2n (s.fab.locked || s.fab.role == .manager) + b2n s.fab.holdover * 2 + s.fab.planes % 32 * 2 ^ 8 + unsext s.fab.offset 32 * 2 ^ 32

/-- `CHORD_STAT[n]`. -/
def viewChord (s : State) (n : Nat) : Nat :=
  let c := chordOf s n
  let st := match c.fn.state with
    | .disabled => 0
    | .enabled => if c.up then 2 else 1
    | .draining => 3
    | .drainingDeferred => 4
  st + b2n (c.known && c.isPart) * 8 + b2n c.mismatch * 16 + (if c.isPart then c.peerId % 2 ^ 16 * 32 else 0)

/-! ### Integrity, observability, boot -/

/-- `PRB_STAT`. -/
def viewProbe (s : State) : Nat := s.prb.next % 2 ^ 32 + (s.prb.pairs.filter fun p => p.firstEnd.isSome).length % 2 ^ 16 * 2 ^ 32

def viewTrace (s : State) : Nat :=
  let t := s.obs.trace
  fnCode t.fn.state + b2n t.fired * 4 + b2n (t.cap != 0 && t.fn.state == .disabled) * 8

def viewTraceNext (s : State) : Nat := s.obs.trace.next + s.obs.trace.trig.getD 0 * 2 ^ 32

/-- `SEC_BOOT_STAT` with the count of blown anti-rollback fuses. -/
def viewBoot (s : State) : Nat := setBits (regGet s Reg.SEC_BOOT_STAT) 30 24 (popCount 64 (regGet s Reg.SEC_FUSE_ROLLBACK))

/-! ### Reads -/

/-- A register, or an array of them, whose reads show other state. -/
structure View where
  base : Nat
  stride : Nat
  count : Nat
  val : State → Nat → Nat

/-- A single register. -/
def View.one (off : Nat) (f : State → Nat) : View := ⟨off, 8, 1, fun s _ => f s⟩

def View.holds (v : View) (off : Nat) : Bool :=
  decide (v.base ≤ off) && (off - v.base) % v.stride == 0 && decide ((off - v.base) / v.stride < v.count)

def views : List View := [
  ⟨Reg.MEM_GROUP_OWNER 0, 8, 16, viewGroup⟩,
  ⟨Reg.PART_CFG 0, 0x20, 16, viewPart⟩,
  ⟨Reg.PART_GROVES_LO 0, 0x20, 16, fun s p => viewGroves s p % 2 ^ 64⟩,
  ⟨Reg.PART_GROVES_HI 0, 0x20, 16, fun s p => viewGroves s p / 2 ^ 64⟩,
  ⟨Reg.PART_STAT 0, 0x20, 16, viewPartStat⟩,
  ⟨Reg.VEC_STAT 0, 0x10000, 128, viewVec⟩,
  ⟨Reg.CORE_STAT 0, 0x10000, 128, viewCore⟩,
  ⟨Reg.GDMA_STAT 0, 0x10000, 128, viewGdma⟩,
  ⟨Reg.DMA_CH_STAT 0, 0x40, 64, viewBulk⟩,
  ⟨Reg.DMA_CH_RING 0, 0x40, 64, fun s n => (bulkOf s n).base⟩,
  ⟨Reg.DMA_CH_HEAD 0, 0x40, 64, fun s n => (bulkOf s n).head⟩,
  ⟨Reg.DMA_CH_TAIL 0, 0x40, 64, fun s n => (bulkOf s n).tail⟩,
  ⟨Reg.CRN_UCL_WIN 0, 8, 8, viewUcl⟩,
  ⟨Reg.CHORD_STAT 0, 0x100, 16, viewChord⟩,
  .one Reg.XLT_STAT viewXlt,
  .one Reg.XLT_PRI_OUT viewPri,
  .one Reg.CRN_STAT viewCrown,
  .one Reg.CRN_RING_VIEW viewRing,
  .one Reg.CRN_GRAPH_SPACE fun s => 65536 + freePages s * 2 ^ 32,
  .one Reg.CTX_RES_STAT viewRes,
  .one Reg.CTX_VIEW viewCtx,
  .one Reg.CTX_PROGRESS viewProgress,
  .one Reg.FAB_STAT viewFab,
  .one Reg.FAB_DOMAIN viewDomain,
  .one Reg.FAB_TIME fun s => s.now,
  .one Reg.FAB_TIME_STAT viewTime,
  .one Reg.PRB_STAT viewProbe,
  .one Reg.OBS_TRACE_STAT viewTrace,
  .one Reg.OBS_TRACE_NEXT viewTraceNext,
  .one Reg.SEC_BOOT_STAT viewBoot] ++
  (List.range 8).flatMap fun c => [
    ⟨Reg.HLX_CH_STAT 0 c, 0x10000, 128, fun s k => viewChan s c k⟩,
    ⟨Reg.HLX_CH_RING 0 c, 0x10000, 128, fun s k => viewChanRing s c k⟩,
    ⟨Reg.HLX_CH_CREDIT 0 c, 0x10000, 128, fun s k => viewChanCredit s c k⟩]

/-- R519: the contents of a counter: those of the frozen view while it is frozen. -/
def counterView (s : State) (off : Nat) : Nat :=
  match s.obs.frozen with
  | some f => (mget (BitVec.ofNat 64 (regReset off)) f off).toNat
  | none => regGet s off

/-- What a read of a register returns. WO bits and unassigned offsets read zero (R4, R6). -/
def regView (s : State) (off : Nat) : Nat :=
  match views.find? (View.holds · off) with
  | some v => v.val s ((off - v.base) / v.stride) % 2 ^ 64
  | none => match regRow off with
    | none => 0
    | some r => if r.counter then counterView s off else regGet s off &&& ((2 ^ 64 - 1) ^^^ r.wo)

end Sys2Proof.Machine
end

