-- ==== Sys2Proof/Machine/Boot.lean ====
section
/-!
DEFINITION. Start-up, images, the Taproot mailbox and attestation (chapter 19).
-/

namespace Sys2Proof.Machine

/-! ### ROM and training (R573) -/

/-- R573: start-up cannot go on. -/
def halt (reason : Nat) (s : State) : State := putStage .halted (regField Reg.SEC_BOOT_STAT 11 4 reason s)

/-- R573 step 1: the ROM's checks end. -/
def romCheckDone (fuseOk flashOk : Bool) (s : State) : State :=
  if s.sec.stage != .rom || !(s.pwr.pstate == .standby || s.pwr.pstate == .run) then s
  else if !fuseOk then halt 13 s
  else if !flashOk then halt 14 s
  else startTraining (putStage .power s)

def execRomCheckDone (fuseOk flashOk : Bool) (s : State) : Host.Outcome State Fault Refusal := .next (romCheckDone fuseOk flashOk s)

/-- R565, R573 step 3: PERST_N rises and the straps are sampled. -/
def perstDeassert (mgrCapable reserve : Bool) (smbAddr : Nat) (s : State) : State :=
  if !s.hl.perstLow then s
  else
    let s := regField Reg.GLB_PART 26 25 (b2n mgrCapable + b2n reserve * 2) s
    startTraining ((s.setHl { s.hl with perstLow := false }).setPwr { s.pwr with smbAddr := smbAddr % 4 })

def execPerstNDeassert (mgrCapable reserve : Bool) (smbAddr : Nat) (s : State) : Host.Outcome State Fault Refusal :=
  .next (perstDeassert mgrCapable reserve smbAddr s)

/-- R191: a soft repair of the log becomes hard while its bank has hard repair resources left, which is a free choice here. -/
def hardenRepair (i : Nat) (s : State) : State :=
  if bits (regGet s (Reg.MEM_REPAIR_LOG i)) 34 33 ≠ 0 then s
  else
    let (n, s) := drawFree s
    if Config.choice n % 2 = 0 then regField (Reg.MEM_REPAIR_LOG i) 34 33 1 s else s

/-- R573 step 4: the training of the stacks ends. -/
def hbmTrainDone (ok : Bool) (s : State) : State :=
  if s.sec.stage != .hbmTrain then s
  else if !ok then halt 12 s
  else grantImage (putStage .waitImage ((List.range (bits (regGet s Reg.MEM_REPAIR_COUNT) 6 0)).foldl (fun s i => hardenRepair i s) s))

def execHbmTrainDone (ok : Bool) (s : State) : Host.Outcome State Fault Refusal := .next (hbmTrainDone ok s)

/-! ### The image (R576, R577, R580) -/

/-- R577: fields of the header. -/
def imgSvn (l : List Byte) : Nat := leAt l 12 1
def imgDebug (l : List Byte) : Bool := bit (leAt l 13 1) 0
def imgOwner (l : List Byte) : Bool := bit (leAt l 13 1) 1
def imgBody (l : List Byte) : Nat := leAt l 16 4
def imgBuild (l : List Byte) : Nat := leAt l 24 8

/-- R577: a section's kind, offset and length. -/
def imgSection (l : List Byte) (i : Nat) : Nat × Nat × Nat := (leAt l (32 + 12 * i) 2, leAt l (36 + 12 * i) 4, leAt l (40 + 12 * i) 4)

/-- R577: sections of kinds 1 to 4 once each and 5 at most once, within the body after the header, without overlap. -/
def sectionsOk (l : List Byte) : Bool :=
  let n := leAt l 14 2
  let ss := (List.range n).map (imgSection l)
  (n == 4 || n == 5) && [1, 2, 3, 4].all (fun k => (ss.filter fun x => x.1 == k).length == 1) &&
  ss.all (fun x => decide (1 ≤ x.1) && decide (x.1 ≤ 5) && decide (256 ≤ x.2.1) && decide (x.2.1 + x.2.2 ≤ imgBody l)) &&
  (List.range n).all (fun i => leAt l (34 + 12 * i) 2 == 0 && (List.range i).all fun j =>
    let a := imgSection l i
    let b := imgSection l j
    decide (a.2.1 + a.2.2 ≤ b.2.1) || decide (b.2.1 + b.2.2 ≤ a.2.1)) &&
  (List.range 16).all fun i => decide (i < n) || leAt l (32 + 12 * i) 12 == 0

/-- R576, R580 check 1. -/
def imageFormatOk (l : List Byte) : Bool :=
  decide (256 ≤ l.length) && decide (l.length ≤ 67108864) && leAt l 0 4 == 0xA4E57120 && leAt l 4 2 == 1 && leAt l 6 2 == 256 &&
  imgBody l % 8 == 0 && decide (256 ≤ imgBody l) && l.length == imgBody l + 2888 + (if imgOwner l then 2888 else 0) && sectionsOk l

/-- A fuse array of four 64-bit words as a number. -/
def fuseWord (s : State) (reg : Nat → Nat) : Nat := (List.range 4).foldl (fun a i => a + regGet s (reg i) * 2 ^ (64 * i)) 0

/-- R582: anti-rollback fuses blown. -/
def rollbackCount (s : State) : Nat := popCount 64 (regGet s Reg.SEC_FUSE_ROLLBACK)

/-- R580: the check that an image fails, in the order of the table. -/
def imageReason (s : State) (l : List Byte) : Option Nat :=
  let n := imgBody l
  let body := l.take n
  let owner := fuseWord s Reg.SEC_FUSE_OWNER
  if !imageFormatOk l then some 1
  else if leAt l 8 2 ≠ 0x5120 || !bit (leAt l 10 2) (bits (regGet s Reg.GLB_PART) 19 16) then some 2
  else if imgDebug l && isSealed s then some 3
  else if Config.shake256 (slice n 68 l) ≠ fuseWord s Reg.SEC_FUSE_VENDOR then some 4
  else if !Config.xmssVerify (slice n 68 l) body (slice (n + 68) 2820 l) then some 5
  else if owner ≠ 0 && !imgOwner l then some 6
  else if owner ≠ 0 && decide (Config.shake256 (slice (n + 2888) 68 l) ≠ owner) then some 7
  else if owner ≠ 0 && !Config.xmssVerify (slice (n + 2888) 68 l) (l.take (n + 2888)) (slice (n + 2956) 2820 l) then some 8
  else if imgSvn l < rollbackCount s then some 9
  else none

/-! ### Delivery (R578, R579, R581) -/

/-- R579: an image that is complete goes to verification, or waits while another is verified; in other stages it is discarded. -/
def imageComplete (src : Nat) (l : List Byte) (s : State) : State :=
  match s.sec.stage with
  | .waitImage | .recovery => putStage .verify (s.setSec { s.sec with image := some (src, l) })
  | .verify => s.setSec (if src = 1 then { s.sec with hostImage := some l } else { s.sec with mgrImage := some l })
  | _ => s

/-- R581: an image is refused; a complete image of the other source is verified next (R579). -/
def imageRefused (src reason : Nat) (s : State) : State :=
  let s := regField Reg.SEC_BOOT_STAT 13 12 src (regField Reg.SEC_BOOT_STAT 11 4 reason s)
  let s := regField Reg.SEC_BOOT_STAT 55 48 (min 0xFF (bits (regGet s Reg.SEC_BOOT_STAT) 55 48 + 1)) s
  let s := putStage .recovery (s.setSec { s.sec with image := none })
  let s := grantImage (if s.fab.devId.isSome then sendJoined s else s)
  match s.sec.hostImage, s.sec.mgrImage with
  | some l, _ => imageComplete 1 l (s.setSec { s.sec with hostImage := none })
  | none, some l => imageComplete 2 l (s.setSec { s.sec with mgrImage := none })
  | none, none => s

/-- R580: verification ends. -/
def imageVerifyDone (s : State) : State :=
  match s.sec.stage, s.sec.image with
  | .verify, some (src, l) =>
    match imageReason s l with
    | some r => imageRefused src r s
    | none => putStage .start (regField Reg.SEC_BOOT_STAT 13 12 src s)
  | _, _ => s

def execImageVerifyDone (s : State) : Host.Outcome State Fault Refusal := .next (imageVerifyDone s)

/-- R162, R573 step 7: the place of a structure of the device areas, 16 MiB apart. -/
def areaPlace (n : Nat) : Nat :=
  let v := Config.deviceArea n
  v / 2 % 16 * 2 ^ 35 + 0x7F8000000 + (2 * n + v % 2) * 0x1000000

/-- R573 steps 7 and 8: the firmware runs: HBM is zero, the registers that report the image and the device areas are set, and the boot counter rises. -/
def firmwareRuns (src : Nat) (l : List Byte) (s : State) : State :=
  let (n, s) := drawFree s
  let s := s.setMem {}
  let s := regPut Reg.XCH_DIR_BASE (areaPlace 0) (regPut Reg.TBL_HOTLOG_BASE (areaPlace 1) (regPut Reg.CRN_UCL_BASE (areaPlace 2) s))
  let s := regPut Reg.PRB_SEED (Config.entropy n).toNat (regPut Reg.SEC_BUILD_ID (imgBuild l) s)
  let m := Config.shake256 (l.take (imgBody l))
  let s := (List.range 4).foldl (fun s i => regPut (Reg.SEC_MEASURE i) (bits m (64 * i + 63) (64 * i)) s) s
  let signed := decide (fuseWord s Reg.SEC_FUSE_OWNER ≠ 0)
  let s := regField Reg.SEC_BOOT_STAT 22 14 (b2n signed + b2n (imgDebug l) * 2 + imgSvn l * 4) s
  let s := s.setSec { s.sec with boots := (s.sec.boots + 1) % 2 ^ 64, image := some (src, l), hostImage := none, mgrImage := none, assembly := none }
  let s := putStage .ready s
  if s.fab.devId.isSome then sendJoined s else s

/-- R573 step 7: START ends; a section that fails to load refuses the image with reason 11. -/
def startDone (ok : Bool) (s : State) : State :=
  match s.sec.stage, s.sec.image with
  | .start, some (src, l) => if ok then firmwareRuns src l s else imageRefused src 11 s
  | _, _ => s

def execStartDone (ok : Bool) (s : State) : Host.Outcome State Fault Refusal := .next (startDone ok s)

/-! ### Images from the manager (R579) -/

/-- A byte of an assembly, from the segment that arrived last. -/
def segAt (segs : List (Nat × List Byte)) (p : Nat) : Option (List Byte) :=
  (segs.find? fun x => decide (x.1 ≤ p) && decide (p < x.1 + x.2.length)).map fun x => x.2.drop (p - x.1)

/-- The bytes of an assembly from a position on, if every byte has arrived. `fuel` bounds the segments used. -/
def assembled : Nat → Nat → Nat → List (Nat × List Byte) → Option (List Byte)
  | 0, _, _, _ => none
  | fuel + 1, p, total, segs =>
    if total ≤ p then some []
    else match segAt segs p with
      | none => none
      | some d => (assembled fuel (p + d.length) total segs).map fun l => d ++ l

/-- R579: a segment arrives. One with another total length begins a new assembly. -/
def imageSegment (off total : Nat) (data : List Byte) (s : State) : State :=
  let a := match s.sec.assembly with
    | some a => if a.total = total then a else { total := total }
    | none => { total := total }
  let a := { a with segs := (off, data) :: a.segs.filter fun x => x.1 != off || x.2.length != data.length }
  match assembled (a.segs.length + 1) 0 total a.segs with
  | some l => imageComplete 2 l (s.setSec { s.sec with assembly := none })
  | none => s.setSec { s.sec with assembly := some a }

/-- R579: an IMAGE message of the manager, in the stages that take images. A malformed one is discarded. -/
def imageArrives (h : Hdr) (l : List Byte) (s : State) : State :=
  let off := leAt l 0 4
  let total := leAt l 4 4
  if h.src != s.fab.mgrId then count Reg.FAB_CNT_STALE_TERM s
  else if l.length < 9 || 65544 < l.length || total < off + (l.length - 8) || 67108864 < total then count Reg.FAB_CNT_BAD_MSG s
  else match s.sec.stage with
    | .waitImage | .recovery | .verify | .start => imageSegment off total (l.drop 8) s
    | _ => s

def execImage (h : Hdr) (payload : List Byte) (s : State) : Host.Outcome State Fault Refusal :=
  .next (deliver h (.image payload) (imageArrives h payload) s)

/-! ### The Taproot mailbox (R578, R582, R583, R591) -/

def mboxBusy (s : State) : Bool := bit (regGet s Reg.SEC_MBOX_STAT) 0

/-- A mailbox command ends with a result. -/
def mboxDone (result : Nat) (s : State) : State := regPut Reg.SEC_MBOX_STAT (2 + result * 4) s

/-- A mailbox command that is written while none runs. -/
def mbox (f : State → State) (s : State) : Host.Outcome State Fault Refusal :=
  whileServed Reg.SEC_MBOX_CMD (fun s => if mboxBusy s then s else f s) s

/-- R578: requests without a PASID are kept under a number above every PASID. -/
def noPasid : Nat := 2 ^ 20

/-- R578: the page list and the pages. -/
def loadAcc (list len : Nat) : Acc (List Byte) := do
  let l ← (pieces list (8 * ((len + 4095) / 4096))).foldlM (fun l p => do
    let d ← hostRead .mailbox noPasid p.1 p.2
    pure (l ++ d)) []
  (List.range ((len + 4095) / 4096)).foldlM (fun img i => do
    let d ← hostRead .mailbox noPasid (leAt l (8 * i) 8) (min 4096 (len - 4096 * i))
    pure (img ++ d)) []

/-- R578: the load goes on. -/
def imageLoadRun (s : State) : State :=
  if !s.sec.loading then s
  else
    runAcc .mailbox (loadAcc (regGet s Reg.SEC_IMG_LIST) (regGet s Reg.SEC_IMG_LEN))
      (fun l s => s.setSec { s.sec with loaded := some (some l) }) (fun _ s => s.setSec { s.sec with loaded := some none }) s

/-- R578, R593: LOAD. -/
def mboxLoad (s : State) : State :=
  let len := regGet s Reg.SEC_IMG_LEN
  match s.sec.stage with
  | .verify => mboxDone 4 s
  | .waitImage | .recovery =>
    if len = 0 || 67108864 < len then mboxDone 2 s
    else imageLoadRun (regPut Reg.SEC_MBOX_STAT 1 (s.setSec { s.sec with loading := true, loaded := none }))
  | _ => mboxDone 1 s

def execLoad (s : State) : Host.Outcome State Fault Refusal := mbox mboxLoad s

/-- R578: the read of the image ends; one that failed leaves reason 10. -/
def imageReadDone (s : State) : State :=
  match s.sec.loaded with
  | none => s
  | some r =>
    let s := mboxDone 0 (s.setSec { s.sec with loading := false, loaded := none })
    match r with
    | some l => imageComplete 1 l s
    | none => regField Reg.SEC_BOOT_STAT 11 4 10 s

def execImageReadDone (s : State) : Host.Outcome State Fault Refusal := .next (imageReadDone s)

/-- R582: the running image's svn. -/
def runningSvn (s : State) : Nat := bits (regGet s Reg.SEC_BOOT_STAT) 22 16

/-- R582: SVN_COMMIT; `ok` says that the fuses could be written. -/
def svnCommit (ok : Bool) (s : State) : State :=
  let n := min 64 (runningSvn s)
  if !isReady s then mboxDone 1 s
  else if n ≤ rollbackCount s then mboxDone 3 s
  else if !ok then mboxDone 5 s
  else mboxDone 0 (regPut Reg.SEC_FUSE_ROLLBACK (2 ^ n - 1) s)

def execSvnCommit (ok : Bool) (s : State) : Host.Outcome State Fault Refusal := mbox (svnCommit ok) s

/-- R583: the key in the mailbox data. -/
def mboxKey (s : State) : List Byte := (words8 ((List.range 9).map fun i => regGet s (Reg.SEC_MBOX_DATA i))).take 68

/-- R583: OWNER_PROGRAM. -/
def ownerProgram (ok : Bool) (s : State) : State :=
  if !isReady s then mboxDone 1 s
  else if fuseWord s Reg.SEC_FUSE_OWNER ≠ 0 then mboxDone 3 s
  else if !ok then mboxDone 5 s
  else
    let k := Config.shake256 (mboxKey s)
    mboxDone 0 ((List.range 4).foldl (fun s i => regPut (Reg.SEC_FUSE_OWNER i) (bits k (64 * i + 63) (64 * i)) s) s)

def execOwnerProgram (ok : Bool) (s : State) : Host.Outcome State Fault Refusal := mbox (ownerProgram ok) s

/-- R592: every RWS field reads zero from now on. -/
def closeRws (s : State) : State :=
  s.regs.foldl (fun s p => match regRow p.1 with
    | some r => if r.rws = 0 then s else regPut p.1 (regGet s p.1 &&& ((2 ^ 64 - 1) ^^^ r.rws)) s
    | none => s) s

/-- R591: SEAL. -/
def sealCmd (ok : Bool) (s : State) : State :=
  if isSealed s then mboxDone 3 s
  else if !isReady s then mboxDone 1 s
  else if regGet s Reg.SEC_MBOX_ARG ≠ 0x5EA1 then mboxDone 2 s
  else if s.sched.ctxs.any (fun x => x.state != .none) || s.xyl.maint then mboxDone 4 s
  else if !ok then mboxDone 5 s
  else mboxDone 0 (closeRws (regOr Reg.GLB_PART (1 <<< 24) s))

def execSealFuse (ok : Bool) (s : State) : Host.Outcome State Fault Refusal := mbox (sealCmd ok) s

/-! ### Attestation (R584 to R590) -/

/-- R584: the next signature index that the flash holds. -/
def sigIndex (s : State) : Nat := max s.sec.indexA s.sec.indexB

/-- R584: `SEC_ID_STAT` after the index. -/
def putIdStat (flashOk : Bool) (s : State) : State :=
  regPut Reg.SEC_ID_STAT (2 ^ 20 - sigIndex s + b2n flashOk * 2 ^ 32 + b2n (sigIndex s == 2 ^ 20) * 2 ^ 33) s

/-- R584, R585: an index is taken: written to the older of the two copies before the signature. -/
def takeIndex (flash : Bool) (s : State) : Except Nat (Nat × State) :=
  let i := sigIndex s
  if 2 ^ 20 ≤ i then .error 1
  else if !flash then .error 2
  else .ok (i, putIdStat true (s.setSec (if i % 2 = 0 then { s.sec with indexA := i + 1 } else { s.sec with indexB := i + 1 })))

/-- R585: a signature is refused. -/
def indexRefused (code : Nat) (s : State) : State := if code = 2 then putIdStat false s else putIdStat (bit (regGet s Reg.SEC_ID_STAT) 32) s

/-- R589: the configuration measurement. -/
def configMeasure (s : State) : Nat :=
  Config.shake256 (words8 ([regView s Reg.GLB_PART, regView s Reg.FAB_STAT, regView s Reg.CAN_WAY_MODE, regView s Reg.MEM_SCRUB_CFG, regView s Reg.PRB_CFG] ++
    (List.range 16).flatMap fun p => [regView s (Reg.PART_CFG p), regView s (Reg.PART_GROVES_LO p), regView s (Reg.PART_GROVES_HI p)]))

/-- R588: the body of a report. -/
def reportBody (s : State) (path index : Nat) (nonce : List Byte) : List Byte :=
  let boot := regGet s Reg.SEC_BOOT_STAT
  padTo 256 (leBytes 8 (1 + path * 2 ^ 8 + 3076 * 2 ^ 32) ++ leBytes 8 (regGet s Reg.GLB_UID) ++ leBytes 4 (regGet s Reg.GLB_PART) ++ leBytes 4 index ++
    padTo 32 nonce ++ leBytes 32 (fuseWord s Reg.SEC_FUSE_VENDOR) ++ leBytes 32 (fuseWord s Reg.SEC_FUSE_OWNER) ++
    leBytes 8 (rollbackCount s + bits boot 22 16 * 2 ^ 8 + bits boot 14 14 * 2 ^ 16 + bits boot 15 15 * 2 ^ 17) ++ leBytes 8 (regGet s Reg.SEC_BUILD_ID) ++
    leBytes 32 (fuseWord s Reg.SEC_MEASURE) ++ leBytes 32 (configMeasure s) ++ leBytes 8 s.now ++ leBytes 8 s.sec.boots ++ leBytes 8 (2 ^ 20 - sigIndex s))

/-- R588: a signed report, or the code of R585's refusal. The index has been taken when the body is formed. -/
def signReport (path : Nat) (nonce : List Byte) (flash : Bool) (s : State) : Except Nat (List Byte × State) :=
  match takeIndex flash s with
  | .error e => .error e
  | .ok (i, s) =>
    let body := reportBody s path i nonce
    .ok (body ++ padTo 2820 (Config.xmssSign i body), s)

/-- R587: the flash certificate. -/
def certificate (s : State) : List Byte :=
  leBytes 8 (regGet s Reg.GLB_UID) ++ padTo 68 Config.identityKey ++ leBytes 12 0 ++ padTo 2820 Config.certSignature

/-- R587: bytes that an operation writes. -/
def attestSize (op : Nat) : Nat := if op = 0 then 3076 else if op = 1 then 2908 else 0

/-- R587: ATTEST is refused. -/
def attestBad (c : Cmd) : Bool :=
  bits (par c 0) 1 0 == 3 || bits (par c 0) 63 2 != 0 || bits (par c 3) 63 32 != 0 || par c 2 % 8 != 0 ||
  decide (bits (par c 3) 31 0 < attestSize (bits (par c 0) 1 0))

/-- R586: the place of an address of ATTEST: of a manager packet, a global KGA on the manager's own device. -/
def attestPlace (c : Cmd) (a : Nat) : Option (Except Flt Place) :=
  match c.src with
  | .mgr d => some (match kgaPlace a 0 with
    | .ok (.glob e o) => if e = d then .ok (.glob e o) else .error .perm
    | .ok _ => .error .perm
    | .error f => .error f)
  | _ => none

/-- R586: reads the nonce. -/
def attestRead (c : Cmd) (a n : Nat) : Acc (List Byte) :=
  match attestPlace c a with
  | none => ctxRead (.cmd c) c.ctx a n
  | some (.ok p) => placeRead (.cmd c) c.ctx n p
  | some (.error f) => accFail f

/-- R586: writes the output. -/
def attestWrite (c : Cmd) (a : Nat) (l : List Byte) : Acc Unit :=
  match attestPlace c a with
  | none => ctxWrite (.cmd c) c.ctx a l
  | some (.ok (.glob d o)) => (pieces o l.length).foldlM (fun (_ : Unit) p => globWrite (.cmd c) d p.1 (slice (p.1 - o) p.2 l)) ()
  | some (.ok p) => placeWrite (.cmd c) c.ctx l p
  | some (.error f) => accFail f

/-- R587: ATTEST is over. -/
def attestEnd (c : Cmd) (st fault result : Nat) (s : State) : State :=
  let s := s.setSec { s.sec with flashFails := s.sec.flashFails.filter (· != c), attests := s.sec.attests.filter fun a => a.1 != c }
  complete c st fault result s

def attestFault (c : Cmd) (f : Flt) (s : State) : State :=
  faultCmd c f (s.setSec { s.sec with flashFails := s.sec.flashFails.filter (· != c), attests := s.sec.attests.filter fun a => a.1 != c })

/-- R587: the output is written, and ATTEST completes with its result. -/
def attestOut (c : Cmd) (l : List Byte) (result : Nat) (s : State) : State :=
  runAcc (.cmd c) (attestWrite c (par c 2) l) (fun _ s => attestEnd c stOk 0 result s) (attestFault c) s

/-- R587: the result word of a success. -/
def attestResult (s : State) (n : Nat) : Nat := n + (2 ^ 20 - sigIndex s) * 2 ^ 32

/-- R588: the nonce has been read: the report is signed and written. -/
def attestSign (c : Cmd) (nonce : List Byte) (s : State) : State :=
  let path := match c.src with
    | .mgr _ => 1
    | _ => 0
  match signReport path nonce (!s.sec.flashFails.contains c) s with
  | .error e => attestEnd c stNoResource 0 e (indexRefused e s)
  | .ok (l, s) =>
    let r := attestResult s 3076
    attestOut c l r (s.setSec { s.sec with attests := s.sec.attests ++ [(c, l, r)] })

/-- R587: ATTEST goes on. -/
def attestRun (c : Cmd) (s : State) : State :=
  match s.sec.attests.find? fun a => a.1 == c with
  | some (_, l, r) => attestOut c l r s
  | none =>
    match bits (par c 0) 1 0 with
    | 0 => runAcc (.cmd c) (attestRead c (par c 1) 32) (attestSign c) (attestFault c) s
    | 1 => attestOut c (certificate s) (attestResult s 2908) s
    | _ => attestEnd c stOk 0 (attestResult s 0) s

/-- R586, R587: ATTEST; `flash` says that the flash can be written. -/
def attest (c : Cmd) (flash : Bool) (s : State) : State :=
  let s := startCmd c s
  if attestBad c then badPacket c (attestSize (bits (par c 0) 1 0)) s
  else attestRun c (if flash || s.sec.flashFails.contains c then s else s.setSec { s.sec with flashFails := s.sec.flashFails ++ [c] })

def execAttest (c : Cmd) (flash : Bool) (s : State) : Host.Outcome State Fault Refusal := whileOn (attest c flash) s

/-- The response object of a DOE request. -/
def doeAnswer (status : Nat) (l : List Byte) (s : State) : State := s.setSec { s.sec with doe := s.sec.doe ++ [leBytes 4 status ++ l] }

/-- R590: a DOE request. -/
def doeRequest (req : List Byte) (flash : Bool) (s : State) : State :=
  let op := leAt req 0 1
  if !s.hl.up || s.hl.loss.isSome then s
  else if !accepting s || leAt req 1 3 ≠ 0 || 2 < op || req.length ≠ (if op = 0 then 36 else 4) then doeAnswer 3 [] s
  else match op with
    | 0 => match signReport 2 (req.drop 4) flash s with
      | .error e => doeAnswer e [] (indexRefused e s)
      | .ok (l, s) => doeAnswer 0 l s
    | 1 => doeAnswer 0 (certificate s) s
    | _ => doeAnswer 0 [] s

def execDoeRequest (request : List Byte) (flash : Bool) (s : State) : Host.Outcome State Fault Refusal := .next (doeRequest request flash s)

end Sys2Proof.Machine
end

