-- ==== Sys2Proof/Machine/Observe.lean ====
section
/-!
DEFINITION. The commands of counters, trace and tensor dumps (chapter 17).
-/

namespace Sys2Proof.Machine

/-! ### Extended event counters (R517) -/

/-- R517: a host write of a selector: refused for an unlisted event or a reserved bit, else the counter restarts. -/
def evtSelWrite (u i value : Nat) (s : State) : State :=
  if u ≤ 140 && i ≤ 7 then
    if !evtListed u (bits value 7 0) || bits value 63 55 != 0 then count Reg.OBS_CNT_SEL_REFUSED s
    else regPut (Reg.EVT_CNT u i) 0 (regPut (Reg.EVT_SEL u i) value s)
  else s

def execEvtSelWrite (u i value : Nat) (s : State) : Host.Outcome State Fault Refusal :=
  whileServed (Reg.EVT_SEL u i) (evtSelWrite u i value) s

/-! ### Freezing counters (R518 to R521) -/

/-- R520: the action came from a domain trigger. -/
def CounterAct.domain (a : CounterAct) : Bool :=
  match a.cmd with
  | some c => bit (par c 0) 2
  | none => true

/-- R520: the device acts by its holdover time. -/
def byHoldover (s : State) (a : CounterAct) : Bool := (a.domain && !(s.fab.locked || s.fab.role == .manager)) || s.fab.holdover

/-- R519: the action of a freeze, thaw or trigger. A latch keeps every register; reads of counters use it. -/
def counterAct (a : CounterAct) (late : Bool) (s : State) : State :=
  let held := byHoldover s a
  let s := match a.op with
    | 0 => regField Reg.OBS_FREEZE_STAT 0 0 0 (s.setObs { s.obs with frozen := none })
    | 1 =>
      if s.obs.frozen.isSome then s
      else
        let s := s.setObs { s.obs with frozen := some s.regs }
        count Reg.OBS_CNT_FREEZE (regPut Reg.OBS_FREEZE_TIME s.now
          (regPut Reg.OBS_FREEZE_STAT (1 + b2n a.domain * 2 + a.id % 2 ^ 30 * 16) s))
    | _ => s
  let s := regOr Reg.OBS_FREEZE_STAT (b2n late * 4 + b2n held * 8) s
  let t := s.obs.trace
  if a.op != 0 && t.kind == 2 && t.trigId == a.id % 2 ^ 30 then traceFire 2 (a.id % 2 ^ 30) s else s

/-- R521: the result word of a command whose action has taken place. -/
def freezeResult (s : State) (op : Nat) : Nat := if op = 1 then regGet s Reg.OBS_FREEZE_TIME else s.now

/-- R521: an action of the device's own command, and its completion. -/
def counterActDone (a : CounterAct) (s : State) : State :=
  let s := counterAct a false s
  match a.cmd with
  | some c => completeOk c (freezeResult s a.op) s
  | none => s

/-- R518, R520: COUNTER_FREEZE is refused. -/
def freezeBad (s : State) (c : Cmd) : Bool :=
  let p0 := par c 0
  let d := (par c 1 + 2 ^ 64 - s.now) % 2 ^ 64
  bits p0 1 0 == 3 || bits p0 31 3 != 0 || bits p0 63 62 != 0 ||
  (bit p0 2 && (s.fab.role != .manager || decide (d < 20 * usUnits) || decide (10000000 * usUnits < d)))

/-- R518 to R521: COUNTER_FREEZE. -/
def counterFreeze (c : Cmd) (s : State) : State :=
  let s := startCmd c s
  if s.obs.acts.any fun a => a.cmd == some c then s
  else if freezeBad s c then badPacket c 0 s
  else
    let op := bits (par c 0) 1 0
    let id := bits (par c 0) 61 32
    let t := par c 1
    let a : CounterAct := { cmd := some c, op := op, id := id, time := t }
    if t != 0 && ahead s t then
      let s := s.setObs { s.obs with acts := s.obs.acts ++ [a] }
      if bit (par c 0) 2 then send 0xFFFF (.syncTrigger t (id + op * 2 ^ 30)) s else s
    else counterActDone a s

def execCounterFreeze (c : Cmd) (s : State) : Host.Outcome State Fault Refusal := whileOn (counterFreeze c) s

/-- R519: fabric time reaches the time of a scheduled action. One whose own command has been torn down is dropped. -/
def freezeTime (k : Nat) (s : State) : State :=
  match s.obs.acts[k]? with
  | none => s
  | some a =>
    let s := reachTime a.time (s.setObs { s.obs with acts := s.obs.acts.eraseIdx k })
    match a.cmd with
    | some c => if isStarted s c || a.domain then counterActDone a s else s
    | none => counterActDone a s

def execFreezeTime (k : Nat) (s : State) : Host.Outcome State Fault Refusal := whileOn (freezeTime k) s

/-- R520: a member takes a domain trigger: it acts at T, or at once when T has passed. The reserved operation does nothing. -/
def syncTrigger (time id : Nat) (s : State) : State :=
  let op := bits id 31 30
  let a : CounterAct := { cmd := none, op := op, id := bits id 29 0, time := time }
  if op = 3 then s
  else if ahead s time then s.setObs { s.obs with acts := s.obs.acts ++ [a] }
  else counterAct a (time != s.now) s

def execSyncTrigger (h : Hdr) (time id : Nat) (s : State) : Host.Outcome State Fault Refusal :=
  .next (deliver h (.syncTrigger time id) (syncTrigger time id) s)

/-! ### The trace buffer (R522 to R528) -/

/-- R43, R522, R528: TRACE_ARM. -/
def traceArm (c : Cmd) (s : State) : State :=
  let s := startCmd c s
  let t := s.obs.trace
  if bit (par c 0) 0 then
    match fnEnable t.fn c with
    | (_, .carryOut) => traceArmRun c s
    | (_, .okNow) => completeOk c 0 s
    | (fn, .deferred) => complete c stDeferred 0 0 (s.setTrace { t with fn := fn })
  else
    match fnDisable t.fn c with
    | (_, .okNow) => completeOk c 0 s
    | (fn, .start) =>
      let s := s.setTrace { t with fn := fn }
      if t.fired then s else traceClose 3 s
    | (fn, .joins cs) => cancelDeferred cs (s.setTrace { t with fn := fn })

def execTraceArm (c : Cmd) (s : State) : Host.Outcome State Fault Refusal := whileOn (traceArm c) s

/-- R526: a host write of `OBS_TRACE_FIRE`. -/
def traceFireWrite (value : Nat) (s : State) : State := if bit value 0 then traceFire 3 0 s else s

def execTraceFire (value : Nat) (s : State) : Host.Outcome State Fault Refusal :=
  whileServed Reg.OBS_TRACE_FIRE (traceFireWrite value) s

/-- R528: post_limit_ms have passed since the trigger. -/
def tracePostLimit (s : State) : State :=
  let t := s.obs.trace
  if t.fn.state == .enabled && t.fired && t.limitMs != 0 then
    traceClose (if t.quota ≤ t.accepted then 1 else 2) (reachTime (t.trigTime + t.limitMs * 1000 * usUnits) s)
  else s

def execTracePostLimit (s : State) : Host.Outcome State Fault Refusal := whileOn tracePostLimit s

/-- R528: the records of an ended post phase have been written: Q of them, or those that a disarm left. -/
def tracePostEnd (s : State) : State :=
  let t := s.obs.trace
  if !t.live || !t.fired then s
  else if t.fn.state != .enabled then traceClose 3 s
  else if t.quota ≤ t.accepted then traceClose 1 s
  else s

def execTracePostEnd (s : State) : Host.Outcome State Fault Refusal := whileOn tracePostEnd s

/-! ### Tensor dumps (R530, R533) -/

/-- R530: a DUMP_TENSOR breaks a limit of its parameters; the buffer's place and length bind an arm alone. -/
def dumpBad (c : Cmd) : Bool :=
  c.ctx == 0 || bits (par c 0) 31 3 != 0 || bits (par c 2) 63 57 != 0 || bits (par c 3) 63 33 != 0 || par c 2 % 4096 != 0 ||
  (bit (par c 0) 0 && (!bit (par c 2) 56 || par c 3 == 0 || par c 3 % 4096 != 0 || decide (2 ^ 32 < par c 3)))

/-- R530: the dump slot of a context. -/
def dumpSlotOf (s : State) (ctx slot : Nat) : Option DumpSlot := s.obs.dumps.find? fun d => d.ctx == ctx && d.slot == slot

/-- R530: the slot that a DUMP_TENSOR arms. -/
def dumpArmed (s : State) (c : Cmd) : DumpSlot :=
  { ctx := c.ctx, slot := bits (par c 0) 2 1, cmd := c, tensor := bits (par c 0) 63 32, step := bits (par c 1) 31 0, buf := par c 2,
    length := par c 3, limitUs := bits (par c 1) 63 32, armTime := s.now }

/-- R530, R533: DUMP_TENSOR. -/
def dumpTensor (c : Cmd) (s : State) : State :=
  let s := startCmd c s
  if dumpBad c then badPacket c 0 s
  else
    let slot := dumpSlotOf s c.ctx (bits (par c 0) 2 1)
    if bit (par c 0) 0 then
      if slot.isSome then complete c stNoResource 0 0 s
      else
        let d := dumpArmed s c
        runAcc (.cmd c) (ctxWrite (.cmd c) c.ctx d.buf (dumpHeader d false))
          (fun _ s =>
            let s := s.setObs { s.obs with dumps := s.obs.dumps ++ [d] }
            match c.src with
            | .node .. => completeOk c 0 s
            | _ => s)
          (faultCmd c) s
    else
      match slot with
      | some d => completeOk c 0 (if d.fired then s else closeDump d s)
      | none => completeOk c 0 s

def execDumpTensor (c : Cmd) (s : State) : Host.Outcome State Fault Refusal := whileOn (dumpTensor c) s

/-- R533: an armed dump that has not fired reaches limit_us. -/
def dumpExpire (ctx slot : Nat) (s : State) : State :=
  match dumpSlotOf s ctx slot with
  | some d => if d.fired || d.limitUs = 0 then s else closeDump d (reachTime (d.armTime + d.limitUs * usUnits) s)
  | none => s

def execDumpExpire (ctx slot : Nat) (s : State) : Host.Outcome State Fault Refusal := whileOn (dumpExpire ctx slot) s

end Sys2Proof.Machine
end

