-- ==== Sys2Proof/Machine/Registers.lean ====
section
/-!
DEFINITION. Accesses to BAR 0 registers by the host (R4 to R6) and by the manager (R453).
-/

namespace Sys2Proof.Machine

/-! ### What a write leaves (R4, R5) -/

/-- A field whose value is out of its range keeps its contents. -/
def fieldIf (ok : Nat → Bool) (hi lo : Nat) (s : State) (off v : Nat) : Nat :=
  if ok (bits v hi lo) then v else setBits v hi lo (bits (regGet s off) hi lo)

def nonzero (x : Nat) : Bool := x != 0
def within (a b x : Nat) : Bool := decide (a ≤ x) && decide (x ≤ b)

/-- The value that a write leaves after the range rules of each register's own table; `base` is the offset of the register's first element. -/
def settle (s : State) (base off v : Nat) : Nat :=
  if base = Reg.XCH_CFG then fieldIf (within 256 32768) 15 0 s off v
  else if base = Reg.XCH_DEADLINE_DEF then fieldIf (within 1000 1000000000) 31 0 s off v
  else if base = Reg.MEM_SCRUB_CFG then fieldIf (within 1 168) 7 0 s off v
  else if base = Reg.MEM_RED_CFG then fieldIf nonzero 15 0 s off v
  else if base = Reg.TBL_GRAFT_CFG then fieldIf (within 10 24) 20 16 s off (fieldIf nonzero 15 0 s off v)
  else if base = Reg.CORE_BAR_TIMEOUT 0 then fieldIf nonzero 31 0 s off v
  else if base = Reg.CTX_SCHED_CFG then fieldIf nonzero 15 0 s off v
  else if base = Reg.FAB_CFG then fieldIf nonzero 23 8 s off (fieldIf nonzero 7 0 s off v)
  else if base = Reg.FAB_MGR_CFG then fieldIf (within 2 15) 23 20 s off (fieldIf nonzero 19 8 s off (fieldIf (within 1 100) 6 0 s off v))
  else if base = Reg.PRB_CFG then fieldIf nonzero 31 24 s off (fieldIf nonzero 23 8 s off v)
  else v

/-- A write that its register ignores as a whole: `XLT_PRI_CFG`, `CTX_RES_CFG`, and the span window while it is busy (R315). -/
def writeIgnored (s : State) (base v : Nat) : Bool :=
  if base = Reg.XLT_PRI_CFG then
    !within 1 32 (bits v 5 0) || bits v 15 8 == 0 || bits v 23 16 == 0 || bits v 25 24 == 0
  else if base = Reg.CTX_RES_CFG then
    bits v 8 0 == 0 || !within 1 16 (bits v 13 9) || decide (256 < bits v 8 0 + bits v 13 9)
  else if base = Reg.XLT_SPAN_CTX ∨ base = Reg.XLT_SPAN_VA ∨ base = Reg.XLT_SPAN_DATA ∨ base = Reg.XLT_SPAN_SRC then
    bit (regGet s Reg.XLT_SPAN_STAT) 0
  else false

/-- A write of a register by its access kinds and the range rules. -/
def plainWrite (base off v : Nat) (s : State) : State := if writeIgnored s base v then s else regWrite off (settle s base off v) s

/-- R578, R582, R583, R591: a write of `SEC_MBOX_CMD`. -/
def mboxWrite (v : Nat) (s : State) : State :=
  if mboxBusy s then s
  else match bits v 7 0 with
    | 1 => mboxLoad s
    | 2 => svnCommit true s
    | 3 => ownerProgram true s
    | 4 => sealCmd true s
    | _ => mboxDone 2 s

/-- R453, R455: the manager's `FAB_MGR_CFG` is copied to its deputy. -/
def mgrCfgCopy (s : State) : State :=
  if s.fab.role == .manager && s.fab.depUid != 0 then
    send s.fab.depId (.regWrite Reg.FAB_MGR_CFG 4 s.fab.nextTimed (regGet s Reg.FAB_MGR_CFG)) s
  else s

/-- R5: a write that reaches a register, with its effect. `v` is what the write leaves in the register's fields. -/
def regEffect (off v : Nat) (s : State) : State :=
  match regRow off with
  | none => s
  | some r =>
    let d := off - r.off
    if r.off = Reg.EVT_SEL 0 0 then evtSelWrite (d / 0x100) (d % 0x100 / 8) v s
    else if r.off = Reg.OBS_TRACE_FIRE then traceFireWrite v s
    else if r.off = Reg.XLT_SPAN_GO then (if bit v 0 then spanWrite v s else spanRead v s)
    else if r.off = Reg.CTX_ADMIN_CTL then (if bit v 20 then adminCreate (bits v 19 0) s else adminDestroy (bits v 19 0) s)
    else if r.off = Reg.GDMA_CTL 0 then (if bit v 0 then gdmaDisable (d / 0x10000) s else gdmaEnable (d / 0x10000) s)
    else if r.off = Reg.DMA_CH_TAIL 0 then dmaTailWrite (d / 0x40) v s
    else if r.off = Reg.SEC_MBOX_CMD then mboxWrite v s
    else if r.off = Reg.HL_CRASH_CTL then crashCtlWrite v s
    else if r.off = Reg.CRN_UCL_POP then uclPop v s
    else if r.off = Reg.MEM_TEST_CTL then testCtlWrite v s
    else if r.off = Reg.MEM_PPR_REQ then pprGo v s
    else if r.off = Reg.MEM_1500_INSTR then instrWrite v s
    else if r.off = Reg.MEM_1500_DATA then tapDataWrite v s
    else if r.off = Reg.CAN_WAY_MODE then wayModeWrite v s
    else if r.off = Reg.LAT_INJECT 0 then injectArm (d / 0x10000) v s
    else plainWrite r.off off v s

/-- R37, R147: what the host does not own: `TBL_GRAFT_CFG` never, `FAB_MGR_CFG` except on the manager. -/
def hostEffect (off v : Nat) (s : State) : State :=
  if off = Reg.TBL_GRAFT_CFG then s
  else if off = Reg.FAB_MGR_CFG then (if s.fab.role == .manager then mgrCfgCopy (regEffect off v s) else s)
  else regEffect off v s

/-! ### Words of an access (R5) -/

/-- A register's fields with one half replaced; bits cleared or triggered by writing 1 count as 0 in the other half. -/
def halfWrite (s : State) (r : RegRow) (off hi lo v : Nat) : Nat := setBits (regGet s off &&& (r.rw ||| r.rws)) hi lo v

/-- R5, R485: a write of an aligned 32-bit word. -/
def wordWrite (eff : Nat → Nat → State → State) (off v : Nat) (s : State) : State :=
  if 0x20000 ≤ off && off < 0x28000 then msixTableWrite off v s
  else match regRow off with
    | some r => if r.width = 64 then eff off (halfWrite s r off 31 0 v) s else eff off v s
    | none => match (if 4 ≤ off then regRow (off - 4) else none) with
      | some r => if r.width = 64 then eff (off - 4) (halfWrite s r (off - 4) 63 32 v) s else s
      | none => s

/-- R5: a naturally aligned access. -/
def accessOk (off size : Nat) : Bool := (size == 4 || size == 8) && off % size == 0

/-- R5: a write of 4 or 8 bytes: a whole 64-bit register, or its words, the lower address first. -/
def accessWrite (eff : Nat → Nat → State → State) (off size v : Nat) (s : State) : State :=
  if size = 4 then wordWrite eff off (v % 2 ^ 32) s
  else match regRow off with
    | some r => if r.width = 64 then eff off (v % 2 ^ 64) s else wordWrite eff (off + 4) (v / 2 ^ 32 % 2 ^ 32) (wordWrite eff off (v % 2 ^ 32) s)
    | none => wordWrite eff (off + 4) (v / 2 ^ 32 % 2 ^ 32) (wordWrite eff off (v % 2 ^ 32) s)

/-- R485: a word of the MSI-X table or of the PBA. -/
def msixWord (s : State) (off : Nat) : Nat :=
  if off < 0x28000 then
    let e := msixOf s ((off - 0x20000) / 16)
    match off % 16 / 4 with
    | 0 => e.addr % 2 ^ 32
    | 1 => e.addr / 2 ^ 32 % 2 ^ 32
    | 2 => e.data
    | _ => b2n e.masked
  else (List.range 32).foldl (fun a j => a + b2n (msixOf s ((off - 0x28000) * 8 + j)).pba * 2 ^ j) 0

/-- R5: a read of an aligned 32-bit word. -/
def wordRead (s : State) (off : Nat) : Nat :=
  if 0x20000 ≤ off && off < 0x28100 then msixWord s off
  else match regRow off with
    | some _ => regView s off % 2 ^ 32
    | none => match (if 4 ≤ off then regRow (off - 4) else none) with
      | some r => if r.width = 64 then regView s (off - 4) / 2 ^ 32 else 0
      | none => 0

/-- R5: a read of 4 or 8 bytes. -/
def accessRead (s : State) (off size : Nat) : Nat :=
  if size = 4 then wordRead s off else wordRead s off + wordRead s (off + 4) * 2 ^ 32

/-- R372, R5: a read of a doorbell page, at an aligned offset of BAR 2: the present tail of a ring, or the head that software wrote.
A page without a context, a class without a ring and an offset without a register read zero. -/
def doorbellRead (s : State) (off : Nat) : Nat :=
  let o := off % 256
  if o % 8 ≠ 0 then 0
  else if o < 0x30 then ((ringOf s (off / 256) (o / 8)).map (·.tail)).getD 0
  else if o = 0x40 ∧ ctxExists s (off / 256) then (getCtx s (off / 256)).cpl.head
  else 0

/-! ### The host (R5, R6) -/

/-- R5: an access of the wrong size or alignment. -/
def badAccess (off size : Nat) (s : State) : State := if accessOk off size then s else count Reg.HL_CNT_BAD_ACCESS s

/-- R5, R6: a host write to BAR 0. -/
def hostRegisterWrite (off size value : Nat) (s : State) : State :=
  if !accessOk off size then badAccess off size s else if 0x4000000 ≤ off then s else accessWrite hostEffect off size value s

def execHostRegisterWrite (off size value : Nat) (s : State) : Host.Outcome State Fault Refusal :=
  whileServed off (hostRegisterWrite off size value) s

/-- R5: a read or a write of the wrong size or alignment. -/
def execBadBarAccess (_write : Bool) (off size : Nat) (s : State) : Host.Outcome State Fault Refusal :=
  .next (if s.hl.up && s.hl.loss.isNone then badAccess off size s else s)

/-! ### Register accesses between devices (R453) -/

/-- R37: registers that belong to the manager. -/
def managerOwns (off : Nat) : Bool :=
  match regRow off with
  | some r => r.off == Reg.TBL_GRAFT_CFG || r.off == Reg.FAB_MGR_CFG || r.off == Reg.CHORD_CTL 0
  | none => false

/-- R453: the source is the manager of the term held. -/
def isMgrOf (s : State) (h : Hdr) : Bool := s.fab.mgrUid != 0 && h.src == s.fab.mgrId

/-- R453: the source is the deputy of the term held. -/
def isDepOf (s : State) (h : Hdr) : Bool := s.fab.depUid != 0 && h.src == s.fab.depId

/-- R453: a REG_WRITE is served. -/
def regWriteArrives (h : Hdr) (off width tag value : Nat) (s : State) : State :=
  if !isMgrOf s h || !managerOwns off || (width == 8 && (regRow (off + 4)).isSome && !managerOwns (off + 4)) then
    send h.src (.regRsp tag stFault Flt.perm.code 0) s
  else if !accessOk off width then send h.src (.regRsp tag stFault Flt.illegal.code 0) s
  else send h.src (.regRsp tag 0 0 0) (accessWrite regEffect off width value s)

/-- R453: a REG_READ is served. A read of `MEM_1500_DATA` shifts the port (R188). -/
def regReadArrives (h : Hdr) (off width tag : Nat) (s : State) : State :=
  if !isMgrOf s h && !isDepOf s h then send h.src (.regRsp tag stFault Flt.perm.code 0) s
  else if !accessOk off width || 0x4000000 ≤ off then send h.src (.regRsp tag stFault Flt.illegal.code 0) s
  else
    let s := if off = Reg.MEM_1500_DATA then tapDataRead s else s
    send h.src (.regRsp tag 0 0 (accessRead s off width)) s

/-- R453: the answer to the part's own register access: a value read is kept. -/
def regRspArrives (tag status value : Nat) (s : State) : State :=
  if status = 0 then s.setFab { s.fab with regReads := s.fab.regReads ++ [(tag, value)] } else s

def isRegReq (src tag : Nat) (m : Msg) : Bool :=
  m.dst == src && (match m.body with
    | .regWrite _ _ t _ => t == tag
    | .regRead _ _ t => t == tag
    | _ => false)

def execRegWrite (h : Hdr) (off width tag value : Nat) (s : State) : Host.Outcome State Fault Refusal :=
  .next (deliver h (.regWrite off width tag value) (regWriteArrives h off width tag value) s)

def execRegRead (h : Hdr) (off width tag : Nat) (s : State) : Host.Outcome State Fault Refusal :=
  .next (deliver h (.regRead off width tag) (regReadArrives h off width tag) s)

def execRegRsp (h : Hdr) (tag status fault value : Nat) (s : State) : Host.Outcome State Fault Refusal :=
  .next (deliver h (.regRsp tag status fault value) (responded (isRegReq h.src tag) (regRspArrives tag status value)) s)

end Sys2Proof.Machine
end

