-- ==== Sys2Proof/Machine/Resume.lean ====
section
/-!
DEFINITION. How waiting work goes on (R329): the answers of the host, of other devices and of page requests, their failures,
and the losses of Chords and devices that fail requests.
-/

namespace Sys2Proof.Machine

/-! ### Work that goes on -/

/-- A started command runs again from its beginning; what has arrived for it is at hand. -/
def commandGoOn (c : Cmd) (s : State) : State :=
  match c.opcode with
  | 0x02 => writeInline c s
  | 0x03 => waitRead c s
  | 0x40 => nodeStart c.ctx s
  | 0x42 => storeRun faultCmd c s
  | 0x60 => lookup c s
  | 0x61 => updateRows c s
  | 0x62 => publishTable c s
  | 0x65 => loadRun c s
  | 0x81 => fabricStatus c s
  | 0x82 => switchIn c s
  | 0xA2 => dumpTensor c s
  | 0xA3 => digestRegion c s
  | 0xC0 => createRun c s
  | 0xE1 => attestRun c s
  | _ => s

/-- A command that has not started: its indirect words were being read. -/
def commandBegin (c : Cmd) (s : State) : State :=
  match c.src with
  | .ring _ => s
  | .node l n => graphNodeStart l n s
  | .mgr d =>
    match s.crn.packets.find? fun p => p.1 == d && packetCmd (.mgr d) 0 p.2 == c with
    | some p => managerPacket d p.2 s
    | none => s

/-- The SYNC_START of a ring that has not taken its packet. -/
def syncPending (s : State) (ctx q : Nat) : Option Cmd :=
  ((s.crn.started.map (·.cmd)).find? fun c => c.opcode == 0x80 && c.ctx == ctx && c.src == .ring q).filter fun c =>
    !s.fab.armed.any fun a => a.sync == c

/-- R329: an engine goes on with a piece of work. -/
def goOn (w : Work) (s : State) : State :=
  if isWaiting s w then s
  else match w with
  | .cmd c => if isStarted s c || s.crn.fresh.any (fun x => x.1 == c) then commandGoOn c s else commandBegin c s
  | .finish c => resumeFinish c s
  | .fetch ctx q =>
    match syncPending s ctx q with
    | some c => syncStart c s
    | none => packetFetch ctx q s
  | .shadow _ _ => adminRead s
  | .record ctx => recordWrite ctx s
  | .helix k ch p => helixGoOn k ch p s
  | .core k => coreResume k s
  | .bulk n => if (bulkOf s n).held.isSome then bulkComplete n s else bulkStart n s
  | .gdma k => groveComplete k s
  | .dump k => tagCopyDone k s
  | .restore => restoreGoOn s
  | .mailbox => imageLoadRun s
  | .load .. | .saved _ => s

/-- Works go on in order. -/
def goOnAll (ws : List Work) (s : State) : State := ws.foldl (fun s w => goOn w s) s

/-- Works with an answer or a failure at hand that wait for nothing. -/
def readyWorks (s : State) : List Work :=
  ((s.io.arrived.map (·.work) ++ s.io.failed.map (·.1)).eraseDups).filter fun w => !isWaiting s w

/-- The works that have become ready go on. -/
def resumeReady (s : State) : State := goOnAll (readyWorks s) s

/-- An answer that ends waits: the works it names go on. -/
def answered (r : List Work × State) : State := goOnAll r.1 r.2

/-! ### Translation (R319 to R339) -/

def execAtsCompletion (pasid page size target : Nat) (read write : Bool) (s : State) : Host.Outcome State Fault Refusal :=
  whileOn (fun s => answered (atsCompletion pasid page size target read write s)) s
def execHostFault (pasid page : Nat) (write : Bool) (s : State) : Host.Outcome State Fault Refusal :=
  whileOn (fun s => answered (hostFault pasid page write s)) s
def execPrgResponse (index code : Nat) (s : State) : Host.Outcome State Fault Refusal :=
  whileOn (fun s => answered (prgResponse index code s)) s
def execPriTimeout (index : Nat) (s : State) : Host.Outcome State Fault Refusal := whileOn (fun s => answered (priTimeout index s)) s
def execAbsentLoadDone (ctx va : Nat) (ok : Bool) (data : List Byte) (s : State) : Host.Outcome State Fault Refusal :=
  whileOn (fun s => answered (absentLoadDone ctx va ok data s)) s
def execSetBiasDone (c : Cmd) (ok : Bool) (s : State) : Host.Outcome State Fault Refusal :=
  whileOn (fun s => answered (setBiasDone c ok s)) s

/-! ### Host reads (R490) -/

/-- The outstanding host read of a tag. -/
def hostReqOf (s : State) (tag : Nat) : Option HostReq := s.hl.reads.find? fun r => r.tag == tag

/-- R490: a host read ends: its works have its data, or fail. -/
def hostReadEnds (tag : Nat) (data : Except Flt (List Byte)) (s : State) : State :=
  let s := s.setHl { s.hl with reads := s.hl.reads.filter fun r => r.tag != tag }
  let (ws, s) := takeWaits (fun w => w.tag == tag && (match w.need with
    | .hostRead .. => true
    | _ => false)) s
  resumeReady (ws.foldl (fun s w => match data with
    | .ok l => keepArrived w l s
    | .error f => recordFail w.work f s) s)

/-- R321, R348: the failure of a read that the host refuses: an untranslated one fails with FLT_XLATE. -/
def refusedRead (s : State) : Flt := if s.hl.ats then .bus else .xlate

/-- R490, R478, R487: the completion of a host read: 0 with data, 1 Unsupported Request, 2 Completer Abort, 3 poisoned.
A completion without an outstanding request is discarded. -/
def hostReadCompletion (tag status : Nat) (data : List Byte) (s : State) : State :=
  match hostReqOf s tag with
  | none => s
  | some r =>
    if !s.hl.up || s.hl.retrain then s
    else match status with
    | 0 => if data.length ≠ r.bytes then s else hostReadEnds tag (.ok data) (countN Reg.HL_CNT_RX_BYTES data.length s)
    | 1 | 2 => hostReadEnds tag (.error (refusedRead s)) (hlEvent 2 (count Reg.HL_CNT_UR_CA_RX s))
    | 3 => hostReadEnds tag (.error .bus) (hlEvent 3 (count Reg.HL_CNT_POISON_RX (aerSet 12 s)))
    | _ => s

/-- R490: the timer of a host read expires. -/
def hostCplTimeout (tag : Nat) (s : State) : State :=
  match hostReqOf s tag with
  | none => s
  | some _ => hostReadEnds tag (.error .bus) (hlEvent 1 (count Reg.HL_CNT_CPL_TIMEOUT (aerSet 14 s)))

def execHostReadCompletion (tag status : Nat) (data : List Byte) (s : State) : Host.Outcome State Fault Refusal :=
  whileOn (hostReadCompletion tag status data) s
def execHostCplTimeout (tag : Nat) (s : State) : Host.Outcome State Fault Refusal := whileOn (hostCplTimeout tag) s

/-! ### Answers of other devices (R452), and requests that fail (R442, R450, R461 to R463, R562) -/

def execGrdata (h : Hdr) (tag status fault : Nat) (data : List Byte) (s : State) : Host.Outcome State Fault Refusal :=
  .next (resumeReady (grdataArrives h tag status fault data s))
def execGwAck (h : Hdr) (tag status fault : Nat) (s : State) : Host.Outcome State Fault Refusal :=
  .next (resumeReady (gwAckArrives h tag status fault s))
def execMemopAck (h : Hdr) (tag status fault old : Nat) (s : State) : Host.Outcome State Fault Refusal :=
  .next (resumeReady (memopAckArrives h tag status fault old s))
def execE2eTimeout (tag : Nat) (s : State) : Host.Outcome State Fault Refusal := whileOn (fun s => resumeReady (e2eTimeout tag s)) s
def execChordRetrainTimeout (n : Nat) (s : State) : Host.Outcome State Fault Refusal :=
  whileOn (fun s => resumeReady (retrainTimeout n s)) s
def execKeepaliveMiss (dev : Nat) (s : State) : Host.Outcome State Fault Refusal :=
  whileOn (fun s => resumeReady (keepaliveMiss dev s)) s
def execDepart (h : Hdr) (reason : Nat) (s : State) : Host.Outcome State Fault Refusal :=
  .next (deliver h (.depart reason) (fun s => resumeReady (departArrives h.src s)) s)
def execDeviceDown (h : Hdr) (dev : Nat) (s : State) : Host.Outcome State Fault Refusal :=
  .next (deliver h (.deviceDown dev) (fun s => resumeReady (deviceDown dev s)) s)
def execDeputyTakeover (s : State) : Host.Outcome State Fault Refusal := whileOn (fun s => resumeReady (deputyTakeover s)) s

/-- R562, R442: a SerDes PLL loses lock: its four Chords go down as failed Chords. -/
def serdesUnlock (q : Nat) (s : State) : State :=
  if 4 ≤ q then s
  else
    let s := regField Reg.CLK_STAT (q + 2) (q + 2) 0 s
    resumeReady ((List.range 4).foldl (fun s i => chordFail (4 * q + i) s) s)

def execSerdesPllUnlock (q : Nat) (s : State) : Host.Outcome State Fault Refusal := whileOn (serdesUnlock q) s

end Sys2Proof.Machine
end

