-- ==== Sys2Proof/Machine/Dispatch.lean ====
section
/-!
DEFINITION. One arm per command: a direct call of its meaning.
-/
namespace Sys2Proof.Machine

def exec (i : Instr) (s : State) : Host.Outcome State Fault Refusal :=
  match i with
  | .hostRegisterWrite off size value => Sys2Proof.Machine.execHostRegisterWrite off size value s
  | .badBarAccess write off size => Sys2Proof.Machine.execBadBarAccess write off size s
  | .lookup c => Sys2Proof.Machine.execLookup c s
  | .lookupRingStart c => Sys2Proof.Machine.execLookupRingStart c s
  | .batchFreeWindowExpire id => Sys2Proof.Machine.execBatchFreeWindowExpire id s
  | .batch h m => Sys2Proof.Machine.execBatch h m s
  | .ownerFragmentReady requester id count => Sys2Proof.Machine.execOwnerFragmentReady requester id count s
  | .ownerBatchDeadline requester id => Sys2Proof.Machine.execOwnerBatchDeadline requester id s
  | .fragment h m => Sys2Proof.Machine.execFragment h m s
  | .epochGone h id responder => Sys2Proof.Machine.execEpochGone h id responder s
  | .cancel h id => Sys2Proof.Machine.execCancel h id s
  | .hedgeDelayExpire id => Sys2Proof.Machine.execHedgeDelayExpire id s
  | .lookupDeadline c => Sys2Proof.Machine.execLookupDeadline c s
  | .lookupOutputWritten c => Sys2Proof.Machine.execLookupOutputWritten c s
  | .loadTable c => Sys2Proof.Machine.execLoadTable c s
  | .publishTable c => Sys2Proof.Machine.execPublishTable c s
  | .prepare h table epoch time desc => Sys2Proof.Machine.execPrepare h table epoch time desc s
  | .ready h table epoch => Sys2Proof.Machine.execReady h table epoch s
  | .refuse h table epoch reason => Sys2Proof.Machine.execRefuse h table epoch reason s
  | .publishReplyDeadline table => Sys2Proof.Machine.execPublishReplyDeadline table s
  | .commit h table epoch time => Sys2Proof.Machine.execCommit h table epoch time s
  | .commitTimeReached table => Sys2Proof.Machine.execCommitTimeReached table s
  | .abort h table epoch => Sys2Proof.Machine.execAbort h table epoch s
  | .memberDrainDone table epoch => Sys2Proof.Machine.execMemberDrainDone table epoch s
  | .drained h table epoch anone => Sys2Proof.Machine.execDrained h table epoch anone s
  | .drop h table epoch => Sys2Proof.Machine.execDrop h table epoch s
  | .ownerEpochWorkEnd table epoch => Sys2Proof.Machine.execOwnerEpochWorkEnd table epoch s
  | .retireTable c => Sys2Proof.Machine.execRetireTable c s
  | .retireAfterPublish c => Sys2Proof.Machine.execRetireAfterPublish c s
  | .retire h table time => Sys2Proof.Machine.execRetire h table time s
  | .retireTimeReached table => Sys2Proof.Machine.execRetireTimeReached table s
  | .updateRows c => Sys2Proof.Machine.execUpdateRows c s
  | .updBatch h m => Sys2Proof.Machine.execUpdBatch h m s
  | .updAck h m => Sys2Proof.Machine.execUpdAck h m s
  | .invalidate h r => Sys2Proof.Machine.execInvalidate h r s
  | .invAck h r => Sys2Proof.Machine.execInvAck h r s
  | .sketchDecay => Sys2Proof.Machine.execSketchDecay s
  | .graftRow c => Sys2Proof.Machine.execGraftRow c s
  | .repAdd h r holder => Sys2Proof.Machine.execRepAdd h r holder s
  | .repDrop h r holder => Sys2Proof.Machine.execRepDrop h r holder s
  | .repGrant h r => Sys2Proof.Machine.execRepGrant h r s
  | .repRevoke h r => Sys2Proof.Machine.execRepRevoke h r s
  | .repAck h r => Sys2Proof.Machine.execRepAck h r s
  | .repDone h r holder => Sys2Proof.Machine.execRepDone h r holder s
  | .repFill h r => Sys2Proof.Machine.execRepFill h r s
  | .fillData h r slot => Sys2Proof.Machine.execFillData h r slot s
  | .migBegin h r newOwner oldOwner replica => Sys2Proof.Machine.execMigBegin h r newOwner oldOwner replica s
  | .migData h r slot => Sys2Proof.Machine.execMigData h r slot s
  | .migReady h r => Sys2Proof.Machine.execMigReady h r s
  | .migFwd h r => Sys2Proof.Machine.execMigFwd h r s
  | .migFwdAck h r => Sys2Proof.Machine.execMigFwdAck h r s
  | .migCopied h r => Sys2Proof.Machine.execMigCopied h r s
  | .overlaySet h r newOwner => Sys2Proof.Machine.execOverlaySet h r newOwner s
  | .overlayAck h r => Sys2Proof.Machine.execOverlayAck h r s
  | .migEnd h r newOwner oldOwner replica => Sys2Proof.Machine.execMigEnd h r newOwner oldOwner replica s
  | .rowFetch h r tag => Sys2Proof.Machine.execRowFetch h r tag s
  | .rowData h r tag slot => Sys2Proof.Machine.execRowData h r tag slot s
  | .migrationAbandon r => Sys2Proof.Machine.execMigrationAbandon r s
  | .groupScrubDone => Sys2Proof.Machine.execGroupScrubDone s
  | .canWayModeWrite value => Sys2Proof.Machine.execCanWayModeWrite value s
  | .xylemMemopApply j => Sys2Proof.Machine.execXylemMemopApply j s
  | .redStagingReserve channel => Sys2Proof.Machine.execRedStagingReserve channel s
  | .redGroupTimeout part group sector => Sys2Proof.Machine.execRedGroupTimeout part group sector s
  | .patrolScrub sector err => Sys2Proof.Machine.execPatrolScrub sector err s
  | .maintRequest value => Sys2Proof.Machine.execMaintRequest value s
  | .maintGrant => Sys2Proof.Machine.execMaintGrant s
  | .maintRelease value => Sys2Proof.Machine.execMaintRelease value s
  | .pprGo value => Sys2Proof.Machine.execPprGo value s
  | .pprDone status => Sys2Proof.Machine.execPprDone status s
  | .mem1500InstrWrite value => Sys2Proof.Machine.execMem1500InstrWrite value s
  | .mem1500DataWrite value => Sys2Proof.Machine.execMem1500DataWrite value s
  | .mem1500DataRead => Sys2Proof.Machine.execMem1500DataRead s
  | .taprootRepairDone soft => Sys2Proof.Machine.execTaprootRepairDone soft s
  | .tileStep k => Sys2Proof.Machine.execTileStep k s
  | .tileWriteback k => Sys2Proof.Machine.execTileWriteback k s
  | .tileRetry k lattice => Sys2Proof.Machine.execTileRetry k lattice s
  | .strikeClear k lattice => Sys2Proof.Machine.execStrikeClear k lattice s
  | .latInjectArm k value => Sys2Proof.Machine.execLatInjectArm k value s
  | .chainStart k => Sys2Proof.Machine.execChainStart k s
  | .chainComplete k => Sys2Proof.Machine.execChainComplete k s
  | .alu k => Sys2Proof.Machine.execAlu k s
  | .addi k => Sys2Proof.Machine.execAddi k s
  | .andi k => Sys2Proof.Machine.execAndi k s
  | .ori k => Sys2Proof.Machine.execOri k s
  | .xori k => Sys2Proof.Machine.execXori k s
  | .shi k => Sys2Proof.Machine.execShi k s
  | .lui k => Sys2Proof.Machine.execLui k s
  | .slti k => Sys2Proof.Machine.execSlti k s
  | .ld k => Sys2Proof.Machine.execLd k s
  | .lw k => Sys2Proof.Machine.execLw k s
  | .sd k => Sys2Proof.Machine.execSd k s
  | .sw k => Sys2Proof.Machine.execSw k s
  | .amo k => Sys2Proof.Machine.execAmo k s
  | .beq k => Sys2Proof.Machine.execBeq k s
  | .bne k => Sys2Proof.Machine.execBne k s
  | .blt k => Sys2Proof.Machine.execBlt k s
  | .bge k => Sys2Proof.Machine.execBge k s
  | .bltu k => Sys2Proof.Machine.execBltu k s
  | .bgeu k => Sys2Proof.Machine.execBgeu k s
  | .jal k => Sys2Proof.Machine.execJal k s
  | .jalr k => Sys2Proof.Machine.execJalr k s
  | .bsum k => Sys2Proof.Machine.execBsum k s
  | .mvs k => Sys2Proof.Machine.execMvs k s
  | .csrr k => Sys2Proof.Machine.execCsrr k s
  | .csrw k => Sys2Proof.Machine.execCsrw k s
  | .ltile k => Sys2Proof.Machine.execLtile k s
  | .vchain k => Sys2Proof.Machine.execVchain k s
  | .hstart k => Sys2Proof.Machine.execHstart k s
  | .gdma k => Sys2Proof.Machine.execGdma k s
  | .wait k => Sys2Proof.Machine.execWait k s
  | .toks k => Sys2Proof.Machine.execToks k s
  | .bar k => Sys2Proof.Machine.execBar k s
  | .barrierTimeout ctx => Sys2Proof.Machine.execBarrierTimeout ctx s
  | .coreFence k => Sys2Proof.Machine.execCoreFence k s
  | .work k => Sys2Proof.Machine.execWork k s
  | .tag k => Sys2Proof.Machine.execTag k s
  | .tagCopyDone k => Sys2Proof.Machine.execTagCopyDone k s
  | .endProg k => Sys2Proof.Machine.execEndProg k s
  | .coreResume k => Sys2Proof.Machine.execCoreResume k s
  | .coreWatchdog k => Sys2Proof.Machine.execCoreWatchdog k s
  | .loop k ch => Sys2Proof.Machine.execLoop k ch s
  | .endl k ch => Sys2Proof.Machine.execEndl k ch s
  | .stride k ch => Sys2Proof.Machine.execStride k ch s
  | .lda k ch => Sys2Proof.Machine.execLda k ch s
  | .adda k ch => Sys2Proof.Machine.execAdda k ch s
  | .read k ch => Sys2Proof.Machine.execRead k ch s
  | .read2 k ch => Sys2Proof.Machine.execRead2 k ch s
  | .gather k ch => Sys2Proof.Machine.execGather k ch s
  | .zero k ch => Sys2Proof.Machine.execZero k ch s
  | .take k ch => Sys2Proof.Machine.execTake k ch s
  | .barw k ch => Sys2Proof.Machine.execBarw k ch s
  | .hend k ch => Sys2Proof.Machine.execHend k ch s
  | .helixRequestArrive k ch j => Sys2Proof.Machine.execHelixRequestArrive k ch j s
  | .helixProgramEnd k ch => Sys2Proof.Machine.execHelixProgramEnd k ch s
  | .extProducerWrite ctx ring j => Sys2Proof.Machine.execExtProducerWrite ctx ring j s
  | .helixFaultHalt k ch => Sys2Proof.Machine.execHelixFaultHalt k ch s
  | .spanWrite value => Sys2Proof.Machine.execSpanWrite value s
  | .spanRead value => Sys2Proof.Machine.execSpanRead value s
  | .spanWriteDone => Sys2Proof.Machine.execSpanWriteDone s
  | .atsCompletion pasid page size target read write => Sys2Proof.Machine.execAtsCompletion pasid page size target read write s
  | .atsInvalidate tag pasid addr size global => Sys2Proof.Machine.execAtsInvalidate tag pasid addr size global s
  | .atsInvalidateComplete tag => Sys2Proof.Machine.execAtsInvalidateComplete tag s
  | .hostFault pasid page write => Sys2Proof.Machine.execHostFault pasid page write s
  | .priGroupWindow pasid => Sys2Proof.Machine.execPriGroupWindow pasid s
  | .prgResponse index code => Sys2Proof.Machine.execPrgResponse index code s
  | .priTimeout index => Sys2Proof.Machine.execPriTimeout index s
  | .absentSpanFault ctx va => Sys2Proof.Machine.execAbsentSpanFault ctx va s
  | .absentLoadDone ctx va ok data => Sys2Proof.Machine.execAbsentLoadDone ctx va ok data s
  | .setBias c => Sys2Proof.Machine.execSetBias c s
  | .setBiasDone c ok => Sys2Proof.Machine.execSetBiasDone c ok s
  | .dmaSubmit c => Sys2Proof.Machine.execDmaSubmit c s
  | .dmaStop c => Sys2Proof.Machine.execDmaStop c s
  | .dmaChTailWrite n value => Sys2Proof.Machine.execDmaChTailWrite n value s
  | .bulkDescStart n => Sys2Proof.Machine.execBulkDescStart n s
  | .bulkDescComplete n => Sys2Proof.Machine.execBulkDescComplete n s
  | .groveDescStart k => Sys2Proof.Machine.execGroveDescStart k s
  | .groveDescComplete k => Sys2Proof.Machine.execGroveDescComplete k s
  | .gdmaDisable k => Sys2Proof.Machine.execGdmaDisable k s
  | .gdmaEnable k => Sys2Proof.Machine.execGdmaEnable k s
  | .dbTail ctx q value => Sys2Proof.Machine.execDbTail ctx q value s
  | .dbCplHead ctx value => Sys2Proof.Machine.execDbCplHead ctx value s
  | .packetFetch ctx q => Sys2Proof.Machine.execPacketFetch ctx q s
  | .ringFetchFault ctx q shadow fault header => Sys2Proof.Machine.execRingFetchFault ctx q shadow fault header s
  | .nop c => Sys2Proof.Machine.execNop c s
  | .fence c => Sys2Proof.Machine.execFence c s
  | .writeInline c => Sys2Proof.Machine.execWriteInline c s
  | .waitValue c => Sys2Proof.Machine.execWaitValue c s
  | .waitValuePoll c => Sys2Proof.Machine.execWaitValuePoll c s
  | .waitValueTimeout c => Sys2Proof.Machine.execWaitValueTimeout c s
  | .completionRecordWrite ctx => Sys2Proof.Machine.execCompletionRecordWrite ctx s
  | .irqHoldoffExpire ctx => Sys2Proof.Machine.execIrqHoldoffExpire ctx s
  | .launch c => Sys2Proof.Machine.execLaunch c s
  | .launchGraph c => Sys2Proof.Machine.execLaunchGraph c s
  | .graphNodeStart launch n => Sys2Proof.Machine.execGraphNodeStart launch n s
  | .storeGraph c => Sys2Proof.Machine.execStoreGraph c s
  | .patchGraph c => Sys2Proof.Machine.execPatchGraph c s
  | .retireGraph c => Sys2Proof.Machine.execRetireGraph c s
  | .uclPop value => Sys2Proof.Machine.execUclPop value s
  | .cmd h payload => Sys2Proof.Machine.execCmd h payload s
  | .cmdCpl h r => Sys2Proof.Machine.execCmdCpl h r s
  | .adminCreate pasid => Sys2Proof.Machine.execAdminCreate pasid s
  | .adminDestroy pasid => Sys2Proof.Machine.execAdminDestroy pasid s
  | .ctxPartition c rivals => Sys2Proof.Machine.execCtxPartition c rivals s
  | .ctxCreate c rivals => Sys2Proof.Machine.execCtxCreate c rivals s
  | .ctxDestroy c rivals => Sys2Proof.Machine.execCtxDestroy c rivals s
  | .contextTeardownEnd ctx => Sys2Proof.Machine.execContextTeardownEnd ctx s
  | .ctxPin c rivals => Sys2Proof.Machine.execCtxPin c rivals s
  | .nodeStart ctx => Sys2Proof.Machine.execNodeStart ctx s
  | .sliceExpire waiter runner => Sys2Proof.Machine.execSliceExpire waiter runner s
  | .softEscalate ctx grove => Sys2Proof.Machine.execSoftEscalate ctx grove s
  | .preemptStopped ctx => Sys2Proof.Machine.execPreemptStopped ctx s
  | .groveSaveDone grove => Sys2Proof.Machine.execGroveSaveDone grove s
  | .nodeRestore ctx => Sys2Proof.Machine.execNodeRestore ctx s
  | .swapIn ctx => Sys2Proof.Machine.execSwapIn ctx s
  | .evictionDone ctx => Sys2Proof.Machine.execEvictionDone ctx s
  | .swapInDone ctx => Sys2Proof.Machine.execSwapInDone ctx s
  | .chordTrainDone n ok => Sys2Proof.Machine.execChordTrainDone n ok s
  | .flit n bytes => Sys2Proof.Machine.execFlit n bytes s
  | .chordRetrainTimeout n => Sys2Proof.Machine.execChordRetrainTimeout n s
  | .helloTimer n => Sys2Proof.Machine.execHelloTimer n s
  | .hello n m => Sys2Proof.Machine.execHello n m s
  | .announceTimer => Sys2Proof.Machine.execAnnounceTimer s
  | .announce uid mgrCapable candidate reserve dev term => Sys2Proof.Machine.execAnnounce uid mgrCapable candidate reserve dev term s
  | .electionWindow => Sys2Proof.Machine.execElectionWindow s
  | .claim h m => Sys2Proof.Machine.execClaim h m s
  | .assign h uid dev reserve term members => Sys2Proof.Machine.execAssign h uid dev reserve term members s
  | .joined h uid dev report => Sys2Proof.Machine.execJoined h uid dev report s
  | .routeSet h routes => Sys2Proof.Machine.execRouteSet h routes s
  | .keepaliveTimer => Sys2Proof.Machine.execKeepaliveTimer s
  | .keepalive h time => Sys2Proof.Machine.execKeepalive h time s
  | .keepaliveMiss dev => Sys2Proof.Machine.execKeepaliveMiss dev s
  | .depart h reason => Sys2Proof.Machine.execDepart h reason s
  | .deviceDown h dev => Sys2Proof.Machine.execDeviceDown h dev s
  | .chordEnable h mask => Sys2Proof.Machine.execChordEnable h mask s
  | .chordDisable h mask => Sys2Proof.Machine.execChordDisable h mask s
  | .chordDrainEnd n => Sys2Proof.Machine.execChordDrainEnd n s
  | .mgrState h item copy => Sys2Proof.Machine.execMgrState h item copy s
  | .mgrStateAck h kind copy => Sys2Proof.Machine.execMgrStateAck h kind copy s
  | .deputyTakeover => Sys2Proof.Machine.execDeputyTakeover s
  | .freshElection => Sys2Proof.Machine.execFreshElection s
  | .credit h => Sys2Proof.Machine.execCredit h s
  | .e2eTimeout tag => Sys2Proof.Machine.execE2eTimeout tag s
  | .regWrite h off width tag value => Sys2Proof.Machine.execRegWrite h off width tag value s
  | .regRead h off width tag => Sys2Proof.Machine.execRegRead h off width tag s
  | .regRsp h tag status fault value => Sys2Proof.Machine.execRegRsp h tag status fault value s
  | .beaconTimer => Sys2Proof.Machine.execBeaconTimer s
  | .beacon h origin correction term stamp => Sys2Proof.Machine.execBeacon h origin correction term stamp s
  | .timeDiscipline => Sys2Proof.Machine.execTimeDiscipline s
  | .delayTimer n => Sys2Proof.Machine.execDelayTimer n s
  | .delayReq n t1 t2 t3 => Sys2Proof.Machine.execDelayReq n t1 t2 t3 s
  | .delayRsp n t1 t2 t3 t4 => Sys2Proof.Machine.execDelayRsp n t1 t2 t3 t4 s
  | .gread h offset bytes tag => Sys2Proof.Machine.execGread h offset bytes tag s
  | .grdata h tag status fault data => Sys2Proof.Machine.execGrdata h tag status fault data s
  | .gwrite h offset tag data => Sys2Proof.Machine.execGwrite h offset tag data s
  | .gwAck h tag status fault => Sys2Proof.Machine.execGwAck h tag status fault s
  | .memop h m => Sys2Proof.Machine.execMemop h m s
  | .memopAck h tag status fault old => Sys2Proof.Machine.execMemopAck h tag status fault old s
  | .syncStart c => Sys2Proof.Machine.execSyncStart c s
  | .syncStartTime c => Sys2Proof.Machine.execSyncStartTime c s
  | .syncTrigger h time id => Sys2Proof.Machine.execSyncTrigger h time id s
  | .fabricStatus c => Sys2Proof.Machine.execFabricStatus c s
  | .switchIn c => Sys2Proof.Machine.execSwitchIn c s
  | .restoreBegin h dev => Sys2Proof.Machine.execRestoreBegin h dev s
  | .restoreAck h dev => Sys2Proof.Machine.execRestoreAck h dev s
  | .restoreRec h recs => Sys2Proof.Machine.execRestoreRec h recs s
  | .restoreDone h failed first => Sys2Proof.Machine.execRestoreDone h failed first s
  | .restoreEnd h dev => Sys2Proof.Machine.execRestoreEnd h dev s
  | .image h payload => Sys2Proof.Machine.execImage h payload s
  | .pcieConfigWrite off size value => Sys2Proof.Machine.execPcieConfigWrite off size value s
  | .inboundUnsupported posted => Sys2Proof.Machine.execInboundUnsupported posted s
  | .cxlSnoop addr => Sys2Proof.Machine.execCxlSnoop addr s
  | .msixUnmask v => Sys2Proof.Machine.execMsixUnmask v s
  | .linkRetrain ended speed width => Sys2Proof.Machine.execLinkRetrain ended speed width s
  | .hostReadCompletion tag status data => Sys2Proof.Machine.execHostReadCompletion tag status data s
  | .hostCplTimeout tag => Sys2Proof.Machine.execHostCplTimeout tag s
  | .linkDown => Sys2Proof.Machine.execLinkDown s
  | .perstNAssert => Sys2Proof.Machine.execPerstNAssert s
  | .hotReset => Sys2Proof.Machine.execHotReset s
  | .flr => Sys2Proof.Machine.execFlr s
  | .perstNDeassert mgrCapable reserve smbAddr => Sys2Proof.Machine.execPerstNDeassert mgrCapable reserve smbAddr s
  | .hlCrashCtlWrite value => Sys2Proof.Machine.execHlCrashCtlWrite value s
  | .d3hotEntry => Sys2Proof.Machine.execD3hotEntry s
  | .d0Entry => Sys2Proof.Machine.execD0Entry s
  | .digestRegion c => Sys2Proof.Machine.execDigestRegion c s
  | .probeStart k => Sys2Proof.Machine.execProbeStart k s
  | .probeRunEnd k errors => Sys2Proof.Machine.execProbeRunEnd k errors s
  | .probeExpire n => Sys2Proof.Machine.execProbeExpire n s
  | .evtSelWrite u ai value => Sys2Proof.Machine.execEvtSelWrite u ai value s
  | .counterFreeze c => Sys2Proof.Machine.execCounterFreeze c s
  | .freezeTime k => Sys2Proof.Machine.execFreezeTime k s
  | .traceArm c => Sys2Proof.Machine.execTraceArm c s
  | .traceFire value => Sys2Proof.Machine.execTraceFire value s
  | .tracePostLimit => Sys2Proof.Machine.execTracePostLimit s
  | .tracePostEnd => Sys2Proof.Machine.execTracePostEnd s
  | .dumpTensor c => Sys2Proof.Machine.execDumpTensor c s
  | .dumpExpire ctx slot => Sys2Proof.Machine.execDumpExpire ctx slot s
  | .inputPowerUp => Sys2Proof.Machine.execInputPowerUp s
  | .inrushDone smbAddr => Sys2Proof.Machine.execInrushDone smbAddr s
  | .inputPowerLoss => Sys2Proof.Machine.execInputPowerLoss s
  | .rampGovernorTick mv load held => Sys2Proof.Machine.execRampGovernorTick mv load held s
  | .ballastPrerampStart k => Sys2Proof.Machine.execBallastPrerampStart k s
  | .powerCap c => Sys2Proof.Machine.execPowerCap c s
  | .capControlTick avg withheld => Sys2Proof.Machine.execCapControlTick avg withheld s
  | .sensorReadTick temps => Sys2Proof.Machine.execSensorReadTick temps s
  | .thermalTick => Sys2Proof.Machine.execThermalTick s
  | .thermalPark sensor => Sys2Proof.Machine.execThermalPark sensor s
  | .thermalUnpark die => Sys2Proof.Machine.execThermalUnpark die s
  | .emstopNLow => Sys2Proof.Machine.execEmstopNLow s
  | .overVoltage => Sys2Proof.Machine.execOverVoltage s
  | .overCurrent => Sys2Proof.Machine.execOverCurrent s
  | .powerStageFault => Sys2Proof.Machine.execPowerStageFault s
  | .rootPllUnlock => Sys2Proof.Machine.execRootPllUnlock s
  | .pllLock pll => Sys2Proof.Machine.execPllLock pll s
  | .serdesPllUnlock q => Sys2Proof.Machine.execSerdesPllUnlock q s
  | .ident pec => Sys2Proof.Machine.execIdent pec s
  | .telemetry pec => Sys2Proof.Machine.execTelemetry pec s
  | .sensor pec n => Sys2Proof.Machine.execSensor pec n s
  | .capSet pec value => Sys2Proof.Machine.execCapSet pec value s
  | .capGet pec => Sys2Proof.Machine.execCapGet pec s
  | .events pec => Sys2Proof.Machine.execEvents pec s
  | .eventsClear pec value => Sys2Proof.Machine.execEventsClear pec value s
  | .crash pec n => Sys2Proof.Machine.execCrash pec n s
  | .crashClear pec => Sys2Proof.Machine.execCrashClear pec s
  | .restart pec emstopHigh mv temps => Sys2Proof.Machine.execRestart pec emstopHigh mv temps s
  | .smbusAlertResponse => Sys2Proof.Machine.execSmbusAlertResponse s
  | .romCheckDone fuseOk flashOk => Sys2Proof.Machine.execRomCheckDone fuseOk flashOk s
  | .hbmTrainDone ok => Sys2Proof.Machine.execHbmTrainDone ok s
  | .load => Sys2Proof.Machine.execLoad s
  | .imageReadDone => Sys2Proof.Machine.execImageReadDone s
  | .imageVerifyDone => Sys2Proof.Machine.execImageVerifyDone s
  | .startDone ok => Sys2Proof.Machine.execStartDone ok s
  | .svnCommit ok => Sys2Proof.Machine.execSvnCommit ok s
  | .ownerProgram ok => Sys2Proof.Machine.execOwnerProgram ok s
  | .sealFuse ok => Sys2Proof.Machine.execSealFuse ok s
  | .attest c flash => Sys2Proof.Machine.execAttest c flash s
  | .doeRequest request flash => Sys2Proof.Machine.execDoeRequest request flash s
  | .hostLossResetDone => Sys2Proof.Machine.execHostLossResetDone s
  | .mainConvertersUp => Sys2Proof.Machine.execMainConvertersUp s
  | .hostLinkTrained speed width flit cxl => Sys2Proof.Machine.execHostLinkTrained speed width flit cxl s
  | .residencySliceExpire ctx => Sys2Proof.Machine.execResidencySliceExpire ctx s

end Sys2Proof.Machine
end

