-- ==== Sys2Proof/Machine/Tick.lean ====
section
/-!
DEFINITION. One cycle of the N-cycle clock, which the block passes while no command waits: fabric time, the trace writer and
the idle flits that return link credits.
-/

namespace Sys2Proof.Machine

/-- R466: fabric time advances by the rate, with 32 fraction bits. -/
def clockTick (s : State) : State :=
  let t := s.fab.now * 2 ^ 32 + s.fab.frac + s.fab.rate
  s.setFab { s.fab with now := t / 2 ^ 32 % 2 ^ 64, frac := t % 2 ^ 32 }

/-- R441: an idle flit carries the link credits that a Chord owes; where nothing is owed it changes nothing. -/
def idleFlit (c : Chord) : Chord := if c.up && !c.retraining then c.returned else c

/-- R441: every Chord that is up sends a flit. -/
def idleFlits (s : State) : State := s.setFab { s.fab with chords := s.fab.chords.map fun p => (p.1, idleFlit p.2) }

/-- R466, R527, R441: one N-cycle of a part that has its main power. -/
def nCycle (s : State) : State := if isOn s then idleFlits (traceStore (clockTick s)) else s

end Sys2Proof.Machine
end

