-- ==== Sys2Proof/Safety.lean ====
section
/-!
DEFINITION. What a sound state of the block is, in the terms that the statements use.
-/

namespace Sys2Proof.Machine

/-- Keys that rise strictly from `lo`. -/
def risingFrom : Nat → List Nat → Bool
  | _, [] => true
  | lo, k :: ks => decide (lo ≤ k) && risingFrom (k + 1) ks

/-- The canonical form of the memory: bytes by rising address with no listed zero, poisoned sectors rising,
latent errors by rising sector. -/
def Memory.wf (m : Mem) : Bool := mwf 0 m.bytes && risingFrom 0 m.poison && mwf 0 m.latent

/-- The canonical form of the register file from an offset on: rising offsets, and no listed register at its reset value. -/
def Registers.wfFrom : Nat → Sparse W64 → Bool
  | _, [] => true
  | lo, (k, v) :: m => decide (lo ≤ k) && decide (v ≠ BitVec.ofNat 64 (regReset k)) && Registers.wfFrom (k + 1) m

/-- The canonical form of the register file. -/
def Registers.wf (m : Sparse W64) : Bool := Registers.wfFrom 0 m

/-- Memory and registers have their canonical forms, so that equal contents are equal data. -/
structure Canonical (s : State) : Prop where
  mem : Memory.wf s.mem = true
  regs : Registers.wf s.regs = true

/-! ### The control core -/

/-- R251, R254, R258: the core of Grove `k` executes the word `w` at its program counter. -/
def executes (s : State) (k w : Nat) : Bool :=
  isOn s && coreOn s k && (groveOf s k).wait == .none && (groveOf s k).code[(groveOf s k).pc / 4]? == some w &&
    formatOk w && !awaitsFetch s k w


/-! ### Helix channels -/

/-- R291, R302, R304: channel `ch` of Grove `k` runs the stream instruction `w` at its position. -/
def streams (s : State) (k ch w : Nat) : Bool :=
  isOn s && engineOn s k && (chanOf s k ch).live && (chanOf s k ch).instrs[(chanOf s k ch).pos.pc]? == some w


/-! ### Messages -/

/-- R445 to R447, R460, R492, R575: a message of the part to itself, or one of another device that its row acts on: the part serves
messages, the ROM alone only its own types, a CONTROL message is in order, and a manager's message comes from the manager held. -/
def accepts (h : Hdr) (b : Body) (s : State) : Bool :=
  isOn s && (s.fab.devId == some h.src ||
    (isReady s || b.beforeReady) && (b.info.2.1 != 0 || ctlOrder h s == .inOrder) && !staleManager h b s)

/-- R446, R447: the state in which a message's row acts: the message is taken in and counted, the credit of its header is granted,
and of a CONTROL message the sender's next number is noted. A message of the part to itself changes nothing before. -/
def takenIn (h : Hdr) (b : Body) (s : State) : State :=
  if s.fab.devId == some h.src then s
  else if b.info.2.1 = 0 then
    let u := inboxTake h b s
    arrive h (u.setFab { u.fab with
      cseqRx := (h.src * 2 + b2n h.broadcast, (h.cseq + 1) % 65536) ::
        u.fab.cseqRx.filter fun p => p.1 != h.src * 2 + b2n h.broadcast
      early := u.fab.early.filter fun e => e != (h.src, h.cseq) })
  else arrive h (inboxTake h b s)

/-- R446: the row's effect on the message taken in; then the credit of a request goes back to another device that sent it. -/
def served (h : Hdr) (b : Body) (effect : State → State) (s : State) : State :=
  if s.fab.devId == some h.src then effect s else grantBack h b (effect (takenIn h b s))


/-! ### Registers -/

/-- R4, R5: a register without a triggered effect and without a range rule of its own: a write has only the effect of its access kinds. -/
def plainRegister (off : Nat) : Bool :=
  !([Reg.EVT_SEL 0 0, Reg.OBS_TRACE_FIRE, Reg.XLT_SPAN_GO, Reg.CTX_ADMIN_CTL, Reg.GDMA_CTL 0, Reg.DMA_CH_TAIL 0, Reg.SEC_MBOX_CMD,
    Reg.HL_CRASH_CTL, Reg.CRN_UCL_POP, Reg.MEM_TEST_CTL, Reg.MEM_PPR_REQ, Reg.MEM_1500_INSTR, Reg.MEM_1500_DATA, Reg.CAN_WAY_MODE,
    Reg.LAT_INJECT 0, Reg.XCH_CFG, Reg.XCH_DEADLINE_DEF, Reg.MEM_SCRUB_CFG, Reg.MEM_RED_CFG, Reg.TBL_GRAFT_CFG, Reg.CORE_BAR_TIMEOUT 0,
    Reg.CTX_SCHED_CFG, Reg.FAB_CFG, Reg.FAB_MGR_CFG, Reg.PRB_CFG, Reg.XLT_PRI_CFG, Reg.CTX_RES_CFG, Reg.XLT_SPAN_CTX, Reg.XLT_SPAN_VA,
    Reg.XLT_SPAN_DATA, Reg.XLT_SPAN_SRC].contains off)

end Sys2Proof.Machine
end

