-- ==== Sys2Proof/Certificates/Slice0/Obligations.lean ====
section
/-!
DEFINITION. The statements for the provers. A command's statement gives, under conditions on the state and its operands alone, the next state
that `exec` answers, as an expression of the machine's shared operations; so it says both what changes and that nothing else does.
-/

open Sys2Proof Sys2Proof.Machine

/-- R254 to R256: ALU.
R255: the instructions that compute one value for rd and go on to the next instruction.
R259: control-state registers. The value of `cycle` (index 3) moves on by a free number of cycles: the model keeps no G-cycles. -/
def Obligations.CoreArithmetic : Prop :=
  (∀ (s : State) (k w : Nat), executes s k w = true → fOp w = 0x00 →
     (∀ v, aluFn (fFunc w) ((groveOf s k).xr (fRs1 w)) ((groveOf s k).xr (fRs2 w)) = some v →
       exec (.alu k) s = .next (coreNext k ((groveOf s k).setX (fRd w) v) s)) ∧
     (aluFn (fFunc w) ((groveOf s k).xr (fRs1 w)) ((groveOf s k).xr (fRs2 w)) = none →
       exec (.alu k) s = .next (coreTrap k .illegal s))) ∧
  (∀ (s : State) (k w : Nat), executes s k w = true →
     (fOp w = 0x01 → exec (.addi k) s = .next (coreNext k ((groveOf s k).setX (fRd w)
       ((groveOf s k).xr (fRs1 w) + BitVec.ofInt 64 (sext (bits w 15 0) 16))) s)) ∧
     (fOp w = 0x02 → exec (.andi k) s = .next (coreNext k ((groveOf s k).setX (fRd w)
       ((groveOf s k).xr (fRs1 w) &&& BitVec.ofNat 64 (bits w 15 0))) s)) ∧
     (fOp w = 0x03 → exec (.ori k) s = .next (coreNext k ((groveOf s k).setX (fRd w)
       ((groveOf s k).xr (fRs1 w) ||| BitVec.ofNat 64 (bits w 15 0))) s)) ∧
     (fOp w = 0x04 → exec (.xori k) s = .next (coreNext k ((groveOf s k).setX (fRd w)
       ((groveOf s k).xr (fRs1 w) ^^^ BitVec.ofNat 64 (bits w 15 0))) s)) ∧
     (fOp w = 0x05 → bits w 15 6 = 0 → exec (.shi k) s = .next (coreNext k ((groveOf s k).setX (fRd w)
       ((groveOf s k).xr (fRs1 w) <<< bits w 5 0)) s)) ∧
     (fOp w = 0x05 → bits w 15 6 = 1 → exec (.shi k) s = .next (coreNext k ((groveOf s k).setX (fRd w)
       ((groveOf s k).xr (fRs1 w) >>> bits w 5 0)) s)) ∧
     (fOp w = 0x05 → bits w 15 6 = 2 → exec (.shi k) s = .next (coreNext k ((groveOf s k).setX (fRd w)
       (((groveOf s k).xr (fRs1 w)).sshiftRight (bits w 5 0))) s)) ∧
     (fOp w = 0x06 → exec (.lui k) s = .next (coreNext k ((groveOf s k).setX (fRd w)
       (BitVec.ofInt 64 (sext (bits w 15 0) 16) <<< 16)) s)) ∧
     (fOp w = 0x07 → exec (.slti k) s = .next (coreNext k ((groveOf s k).setX (fRd w)
       (if ((groveOf s k).xr (fRs1 w)).toInt < (BitVec.ofInt 64 (sext (bits w 15 0) 16) : W64).toInt then 1 else 0)) s)) ∧
     (fOp w = 0x19 → exec (.mvs k) s = .next (coreNext k ((groveOf s k).setX (fRd w)
       ((groveOf s k).sumReg (bits w 3 0))) s)) ∧
     (fOp w = 0x35 → exec (.toks k) s = .next (coreNext k ((groveOf s k).setX (fRd w)
       (BitVec.ofNat 64 (groveOf s k).tokenMask)) s))) ∧
  (∀ (s : State) (k w : Nat) (v : W64), executes s k w = true →
     (fOp w = 0x1A →
       bits w 11 0 = 0x000 ∧ v = BitVec.ofNat 64 (groveOf s k).logical ∨
       bits w 11 0 = 0x001 ∧ v = BitVec.ofNat 64 (((groveNode s k).map (·.groves.length)).getD 0) ∨
       bits w 11 0 = 0x002 ∧ v = BitVec.ofNat 64 (((groveNode s k).map (·.step)).getD 0) ∨
       bits w 11 0 = 0x004 ∧ v = BitVec.ofNat 64 s.fab.now ∨
       bits w 11 0 = 0x005 ∧ v = BitVec.ofNat 64 (groveOf s k).redTag ∨
       bits w 11 0 = 0x006 ∧ v = (if groveExact s k then 1 else 0) ∨
       bits w 11 0 = 0x007 ∧ v = BitVec.ofNat 64 ((groveOf s k).ctx.getD 0) ∨
       bits w 11 0 = 0x008 ∧ v = BitVec.ofNat 64 (groveOf s k).barGen →
       ∃ n, exec (.csrr k) s = .next (coreNext k ((groveOf s k).setX (fRd w) v) (s.setFree n))) ∧
     (fOp w = 0x1A → bits w 11 0 = 0x003 →
       ∃ c n, exec (.csrr k) s =
         .next (coreNext k ({ groveOf s k with cycle := c }.setX (fRd w) (BitVec.ofNat 64 c)) (s.setFree n))) ∧
     (fOp w = 0x1A → 8 < bits w 11 0 → exec (.csrr k) s = .next (coreTrap k .illegal s)) ∧
     (fOp w = 0x1B → bits w 11 0 = 0x005 →
       exec (.csrw k) s = .next (coreNext k { groveOf s k with redTag := ((groveOf s k).xr (fRs1 w)).toNat % 2 ^ 41 } s)) ∧
     (fOp w = 0x1B → bits w 11 0 ≠ 0x005 → exec (.csrw k) s = .next (coreTrap k .illegal s)))

/-- R254, R255, R260: branches and jumps. A branch's offset counts instructions from the branch itself.
R260: the conditions of BSUM. On aux they are the unsigned comparisons, and UNORD never holds; on val, with a NaN on either side
NE and UNORD hold and no other, and without one exactly one of LT, EQ and GT holds and the others follow from it. -/
def Obligations.CoreBranches : Prop :=
  (∀ (s : State) (k w : Nat), executes s k w = true →
     let g := groveOf s k
     let a := g.xr (fRd w)
     let b := g.xr (fRs1 w)
     let target := fun (offset : Int) => coreJump k g (unsext ((g.pc : Int) + 4 * offset) 64) s
     let goes := fun (taken : Prop) (i : Instr) =>
       (taken → exec i s = .next (target (sext (bits w 15 0) 16))) ∧ (¬taken → exec i s = .next (coreNext k g s))
     (fOp w = 0x10 → goes (a = b) (.beq k)) ∧
     (fOp w = 0x11 → goes (a ≠ b) (.bne k)) ∧
     (fOp w = 0x12 → goes (a.toInt < b.toInt) (.blt k)) ∧
     (fOp w = 0x13 → goes (b.toInt ≤ a.toInt) (.bge k)) ∧
     (fOp w = 0x14 → goes (a.toNat < b.toNat) (.bltu k)) ∧
     (fOp w = 0x15 → goes (b.toNat ≤ a.toNat) (.bgeu k)) ∧
     (fOp w = 0x16 → exec (.jal k) s =
       .next (coreJump k (g.setX 1 (BitVec.ofNat 64 (g.pc + 4))) (unsext ((g.pc : Int) + 4 * sext (bits w 25 0) 26) 64) s)) ∧
     (fOp w = 0x17 → (b + BitVec.ofInt 64 (sext (bits w 15 0) 16)).toNat % 4 = 0 → exec (.jalr k) s =
       .next (coreJump k (g.setX (fRd w) (BitVec.ofNat 64 (g.pc + 4))) (b + BitVec.ofInt 64 (sext (bits w 15 0) 16)).toNat s)) ∧
     (fOp w = 0x17 → (b + BitVec.ofInt 64 (sext (bits w 15 0) 16)).toNat % 4 ≠ 0 → exec (.jalr k) s = .next (coreTrap k .illegal s)) ∧
     (fOp w = 0x18 →
       let v := (g.sumReg (bits w 25 22)).toNat
       let x := b.toNat % 2 ^ 32
       let taken := if bit w 21 then sumAux (bits w 15 13) (bits v 63 32) x else sumVal (bits w 15 13) (bits v 31 0) x
       (taken = true → exec (.bsum k) s = .next (target (sext (bits w 12 0) 13))) ∧
       (taken = false → exec (.bsum k) s = .next (coreNext k g s)))) ∧
  ((∀ a b : Nat,
     sumAux 0 a b = decide (a = b) ∧ sumAux 1 a b = decide (a ≠ b) ∧ sumAux 2 a b = decide (a < b) ∧
     sumAux 3 a b = decide (a ≤ b) ∧ sumAux 4 a b = decide (b < a) ∧ sumAux 5 a b = decide (b ≤ a) ∧ sumAux 6 a b = false) ∧
   (∀ a b : Nat, ((fp32.decode a).isNan = true ∨ (fp32.decode b).isNan = true) →
     sumVal 0 a b = false ∧ sumVal 1 a b = true ∧ sumVal 2 a b = false ∧ sumVal 3 a b = false ∧
     sumVal 4 a b = false ∧ sumVal 5 a b = false ∧ sumVal 6 a b = true) ∧
   (∀ a b : Nat, (fp32.decode a).isNan = false → (fp32.decode b).isNan = false →
     sumVal 6 a b = false ∧ sumVal 1 a b = !sumVal 0 a b ∧ sumVal 5 a b = !sumVal 2 a b ∧
     sumVal 3 a b = (sumVal 2 a b || sumVal 0 a b) ∧ sumVal 4 a b = !sumVal 3 a b ∧ (sumVal 0 a b && sumVal 2 a b) = false))

/-- R256: unsigned division, its corner at zero, and the two halves of a product. -/
def Obligations.CoreDivideMultiply : Prop :=
  ∀ a b : W64,
    (∃ q r, aluFn 0x012 a b = some q ∧ aluFn 0x013 a b = some r ∧
      (b ≠ 0 → q.toNat * b.toNat + r.toNat = a.toNat ∧ r.toNat < b.toNat) ∧
      (b = 0 → q = BitVec.allOnes 64 ∧ r = a)) ∧
    (∃ l h, aluFn 0x010 a b = some l ∧ aluFn 0x011 a b = some h ∧ h.toNat * 2 ^ 64 + l.toNat = a.toNat * b.toNat)

/-- R252: x0 reads as zero, and writes to it are ignored; a write of another register shows in it alone.
The register file's canonical form, under which a register reads what was written, is kept. -/
def Obligations.CoreZeroRegister : Prop :=
  ∀ (g : Grove) (i : Nat) (v : W64),
    g.xr 0 = 0 ∧ g.setX 0 v = g ∧
    (∀ j, j ≠ i → (g.setX i v).xr j = g.xr j) ∧
    (mwf 0 g.x = true → mwf 0 (g.setX i v).x = true ∧ (i ≠ 0 → (g.setX i v).xr i = v))

/-- The frame of `coreNext` and `coreJump`, in which the instructions end: the Grove takes the state given with the next program counter,
every other Grove, memory and every other part of the state stay, and of the registers only the Grove's instruction counter changes, by one. -/
def Obligations.CoreAdvance : Prop :=
  ∀ (s : State) (k : Nat) (g : Grove) (pc : Nat),
    (let t := coreJump k g pc s
     (mwf {} s.gro.groves = true → groveOf t k = { g with pc := pc, wait := .none }) ∧
     (∀ j, j ≠ k → groveOf t j = groveOf s j) ∧
     t = { s with gro := { s.gro with groves := t.gro.groves }, regs := t.regs } ∧
     (∀ o, o ≠ Reg.CORE_CNT_INSTR k → regGet t o = regGet s o) ∧
     (Canonical s → regGet t (Reg.CORE_CNT_INSTR k) = (regGet s (Reg.CORE_CNT_INSTR k) + 1) % 2 ^ 64)) ∧
    coreNext k g s = coreJump k g (g.pc + 4) s

/-- R255, R257: the address is x[rs1] + sext(imm16). It must be aligned to the access and lie inside the grove store; otherwise the core traps.
A load that meets no poisoned sector puts the zero-extended word into rd.
R258: an AMO whose address translates to this device's memory, and whose operation R176 does not refuse, is on its way; the core goes on.
A code that names no operation, or a vector operation, traps. -/
def Obligations.CoreMemoryAccess : Prop :=
  (∀ (s : State) (k w : Nat), executes s k w = true →
     let g := groveOf s k
     let a := (g.xr (fRs1 w) + BitVec.ofInt 64 (sext (bits w 15 0) 16)).toNat
     let load := fun (n : Nat) (i : Instr) =>
       (a % n = 0 → a + n ≤ 0x400000 → (gsRead k a n s).1.2 = false →
         exec i s = .next (coreNext k ((groveOf (gsRead k a n s).2 k).setX (fRd w) (BitVec.ofNat 64 (memNat s (gsBase k + a) n)))
           (gsRead k a n s).2)) ∧
       (a % n = 0 → a + n ≤ 0x400000 → (gsRead k a n s).1.2 = true →
         exec i s = .next (groveFault 0x03 (gsBase k + a) k .ecc (gsRead k a n s).2)) ∧
       (¬(a % n = 0 ∧ a + n ≤ 0x400000) → exec i s = .next (coreTrap k .illegal s))
     let store := fun (n : Nat) (i : Instr) =>
       (a % n = 0 → a + n ≤ 0x400000 →
         exec i s = .next (let u := gsWrite k a (leBytes n (g.xr (fRd w)).toNat) s; coreNext k (groveOf u k) u)) ∧
       (¬(a % n = 0 ∧ a + n ≤ 0x400000) → exec i s = .next (coreTrap k .illegal s))
     (fOp w = 0x08 → load 8 (.ld k)) ∧ (fOp w = 0x09 → load 4 (.lw k)) ∧
     (fOp w = 0x0A → store 8 (.sd k)) ∧ (fOp w = 0x0B → store 4 (.sw k))) ∧
  (∀ (s : State) (k w : Nat), executes s k w = true → fOp w = 0x0C →
     let g := groveOf s k
     let m := amoReq s k g w
     (∀ o u, memopCodeBad (bits w 5 0) = false → memopVector (memopOp (bits w 5 0)) = false →
       xlate (.core k) m.ctx (g.xr (fRs1 w)).toNat true s = .ok (.loc o, u) → memopFault m.code o m.exact = none →
       exec (.amo k) s = .next (
         let t := clearWork (.core k) (memopIssue { m with elems := m.elems.map fun e => (o, e.2) } u)
         count (Reg.CORE_CNT_AMO k) (coreNext k (groveOf t k) t))) ∧
     ((memopCodeBad (bits w 5 0) || memopVector (memopOp (bits w 5 0))) = true → exec (.amo k) s = .next (coreTrap k .illegal s)))

/-- R257, R49: what SD and SW do to memory. The stored bytes, lowest address first, read back; every byte outside them reads as before;
of the rest of the state only that Grove's record of written chunks, and what the errors of partly written sectors bring about in the
registers and in the memory system, may change. -/
def Obligations.GroveStoreMemory : Prop :=
  ∀ (s : State) (k a : Nat) (l : List Byte), Canonical s →
    let t := gsWrite k a l s
    memRead t (gsBase k + a) l.length = l ∧
    (∀ b, (b < gsBase k + a ∨ gsBase k + a + l.length ≤ b) → mget 0 t.mem.bytes b = mget 0 s.mem.bytes b) ∧
    Canonical t ∧ (∀ j, j ≠ k → groveOf t j = groveOf s j) ∧
    t = { s with mem := t.mem, regs := t.regs, xyl := t.xyl, gro := { s.gro with groves := t.gro.groves } }

/-- R254, R255, R273: the fetch. While the core executes, a fetch beyond the image or a malformed word traps with FLT_ILLEGAL. -/
def Obligations.CoreFormats : Prop :=
  ∀ (s : State) (k : Nat), isOn s = true → coreOn s k = true → (groveOf s k).wait = .none →
    (match (groveOf s k).code[(groveOf s k).pc / 4]? with
      | none => True
      | some w => formatOk w = false) →
    ∀ i ∈ [Instr.alu k, .addi k, .andi k, .ori k, .xori k, .shi k, .lui k, .slti k, .ld k, .lw k, .sd k, .sw k, .amo k, .beq k, .bne k,
      .blt k, .bge k, .bltu k, .bgeu k, .jal k, .jalr k, .bsum k, .mvs k, .csrr k, .csrw k, .ltile k, .vchain k, .hstart k, .gdma k,
      .wait k, .toks k, .bar k, .coreFence k, .work k, .tag k, .endProg k],
      exec i s = .next (coreTrap k .illegal s)

/-- R262 to R264: an issue to an engine, with the descriptor's words in an unpoisoned part of the grove store.
R265, R266, R271. -/
def Obligations.CoreIssuesAndWaits : Prop :=
  (∀ (s : State) (k w n : Nat), executes s k w = true →
     let g := groveOf s k
     let off := (g.xr (fRd w)).toNat
     let t := bits w 20 17
     let u := (gsRead k off n s).2
     let free := g.tokenPending t = false
     let whole := off + n ≤ 0x400000 ∧ (gsRead k off n s).1.2 = false
     (fOp w = 0x30 → n = 64 → free → (g.tiles.filter fun t => !t.started).length < 8 → whole →
       (tileBad u k (tileAt k off t u) = false → exec (.ltile k) s = .next (coreIssued k t .tile (tileIssue k (tileAt k off t u) u))) ∧
       (tileBad u k (tileAt k off t u) = true → exec (.ltile k) s = .next (coreTrap k .illegal u))) ∧
     (fOp w = 0x31 → n = 128 → free → g.chains.length < 4 → whole →
       (chainBad u k (chainAt k off t u) = false → exec (.vchain k) s =
         .next (coreIssued k t .chain (updGrove k (fun g => { g with chains := g.chains ++ [chainAt k off t u] }) u))) ∧
       (chainBad u k (chainAt k off t u) = true → exec (.vchain k) s = .next (coreTrap k .illegal u))) ∧
     (fOp w = 0x32 → n = 64 → free → (mget ({} : HChan) g.chans (bits w 16 14)).running = false → whole →
       (hstartBad u k (bits w 16 14) off (hstartChan u k off t) = none → exec (.hstart k) s =
         .next (coreIssued k t (.helix (bits w 16 14)) (hstartRun k (bits w 16 14) (hstartChan u k off t) u))) ∧
       (∀ f, hstartBad u k (bits w 16 14) off (hstartChan u k off t) = some f → exec (.hstart k) s = .next (coreTrap k f u))) ∧
     (fOp w = 0x33 → n = 64 → free → (gdmaOf s k).queue.length < 16 → whole →
       let d := descOf off (gsPeek u k off 64) (some t)
       (off % 64 = 0 → d.malformed true = false → exec (.gdma k) s =
         .next (coreIssued k t .gdma (setGdma k { gdmaOf u k with queue := (gdmaOf u k).queue ++ [d] } u))) ∧
       ((off % 64 ≠ 0 ∨ d.malformed true = true) → exec (.gdma k) s = .next (coreTrap k .illegal u))) ∧
     (g.tokenPending t = true → ∀ p ∈ [(0x30, Instr.ltile k), (0x31, .vchain k), (0x32, .hstart k), (0x33, .gdma k)],
       fOp w = p.1 → exec p.2 s = .next (coreHold k .held s))) ∧
  (∀ (s : State) (k w : Nat), executes s k w = true →
     let g := groveOf s k
     (fOp w = 0x34 → g.tokenMask &&& bits w 15 0 = 0 → exec (.wait k) s = .next (coreNext k g s)) ∧
     (fOp w = 0x34 → g.tokenMask &&& bits w 15 0 ≠ 0 → exec (.wait k) s = .next (coreHold k (.tokens (bits w 15 0)) s)) ∧
     (fOp w = 0x39 → amoOpen s k = false → exec (.coreFence k) s = .next (coreNext k g s)) ∧
     (fOp w = 0x39 → amoOpen s k = true → exec (.coreFence k) s = .next (coreHold k .held s)) ∧
     (fOp w = 0x3A → ∀ n, groveNode s k = some n →
       let c := bits w 1 0
       let limit := (g.xr (fRs1 w)).toNat
       let item := g.logical + g.work.getD c 0 * n.groves.length
       (groveExact s k = true → item < limit → exec (.work k) s =
         .next (coreNext k ({ g with work := g.work.set c (g.work.getD c 0 + 1) }.setX (fRd w) (BitVec.ofNat 64 item)) s)) ∧
       (groveExact s k = true → limit ≤ item → exec (.work k) s = .next (coreNext k (g.setX (fRd w) (BitVec.allOnes 64)) s)) ∧
       (groveExact s k = false → exec (.work k) s =
         .next (coreNext k (g.setX (fRd w) (if n.work.getD c 0 < limit then BitVec.ofNat 64 (n.work.getD c 0) else BitVec.allOnes 64))
           (updNode n.ctx (fun x => { x with work := x.work.set c ((n.work.getD c 0 + 1) % 2 ^ 64) }) s)))) ∧
     (fOp w = 0x3C →
       let off := bits (g.xr (fRd w)).toNat 21 0
       let len := bits (g.xr (fRd w)).toNat 54 32
       let tensor := (g.xr (fRs1 w)).toNat % 2 ^ 32
       let step := (g.xr (fRs2 w)).toNat % 2 ^ 32
       let ctx := g.ctx.getD 0
       ((len = 0 ∨ 0x400000 < off + len) → exec (.tag k) s = .next (coreTrap k .illegal s)) ∧
       (len ≠ 0 → off + len ≤ 0x400000 → dumpMatch s ctx tensor step = none →
         exec (.tag k) s = .next (coreNext k g (emit 0x0C k ctx tensor step 0 s))) ∧
       (len ≠ 0 → off + len ≤ 0x400000 → ∀ d c u, dumpMatch s ctx tensor step = some d →
         dumpFire k d off len (count (Reg.CORE_CNT_TAG_FIRE k) (emit 0x0C k ctx tensor step 1 s)) = (some c, u) →
         exec (.tag k) s = .next (updGrove k (fun g => { g with dump := some c, wait := .tag }) u))))

/-- R269, R270, R272.
R262, R265, R269: the resumption of a held core executes its instruction again. R270, R273: the two time limits. R532: a TAG's copy. -/
def Obligations.CoreBarriersEndAndEvents : Prop :=
  (∀ (s : State) (k w : Nat) (n : Node), executes s k w = true → groveNode s k = some n →
     let g := groveOf s k
     (fOp w = 0x38 →
       let id := bits w 3 0
       (mayArrive s k = false → exec (.bar k) s = .next (coreHold k (.barrier id) s)) ∧
       (mayArrive s k = true → (n.ended ≠ [] ∨ n.arrived ≠ [] ∧ n.barId ≠ id) → exec (.bar k) s = .next (coreTrap k .illegal s)) ∧
       (mayArrive s k = true → n.ended = [] → n.arrived = [] →
         let m := { n with barId := id, barAt := s.now, barFirst := k, arrived := [g.logical] }
         exec (.bar k) s = .next (
           let u := coreHold k (.barrier id) (updNode n.ctx (fun _ => m) s)
           if n.groves.length = 1 then barrierDone m u else turnNext n.ctx k u)) ∧
       (mayArrive s k = true → n.ended = [] → n.arrived ≠ [] → n.barId = id →
         let m := { n with arrived := n.arrived ++ [g.logical] }
         exec (.bar k) s = .next (
           let u := coreHold k (.barrier id) (updNode n.ctx (fun _ => m) s)
           if n.arrived.length + 1 = n.groves.length then barrierDone m u else turnNext n.ctx k u))) ∧
     (fOp w = 0x3F →
       let atBarw := ∃ t ch, (t, Eng.helix ch) ∈ g.tokens ∧ (chanOf s k ch).barw = true
       ((n.arrived ≠ [] ∨ atBarw) → exec (.endProg k) s = .next (coreTrap k .illegal s)) ∧
       (n.arrived = [] → ¬atBarw → (g.tokens ≠ [] ∨ amoOpen s k = true) → exec (.endProg k) s = .next (coreHold k .ending s)) ∧
       (n.arrived = [] → g.tokens = [] → amoOpen s k = false → ∃ cycle f, exec (.endProg k) s = .next (
         let m := { n with ended := n.ended ++ [g.logical], maxCycle := max n.maxCycle cycle }
         let u := updNode n.ctx (fun _ => m) (count (Reg.CORE_CNT_INSTR k)
           (setGrove k { g with running := false, wait := .none, cycle := cycle } (s.setFree f)))
         if n.ended.length + 1 = n.groves.length then nodeComplete m u else turnNext n.ctx k u)))) ∧
  (∀ (s : State) (k w : Nat), isOn s = true → coreOn s k = true →
     let g := groveOf s k
     (∀ mask, g.wait = .tokens mask → g.code[g.pc / 4]? = some w → fOp w = 0x34 → formatOk w = true →
       mwf {} s.gro.groves = true → g.tokenMask &&& bits w 15 0 = 0 →
       exec (.coreResume k) s = .next (coreNext k { g with wait := .none } (coreHold k .none s))) ∧
     (g.wait = .held → isWaiting s (.core k) = false → exec (.coreResume k) s = .next (coreFetch k coreInstr (coreHold k .none s))) ∧
     (∀ id, g.wait = .barrier id → ((groveNode s k).any fun n => n.arrived.contains g.logical) = true → exec (.coreResume k) s = .next s) ∧
     (bits (regGet s (Reg.CORE_WDOG k)) 31 0 ≠ 0 →
       exec (.coreWatchdog k) s = .next (coreTrap k .watchdog
         (reachTime ((g.since + (bits (regGet s (Reg.CORE_WDOG k)) 31 0 * 256000 - g.elapsed)) % 2 ^ 64) s))) ∧
     (bits (regGet s (Reg.CORE_WDOG k)) 31 0 = 0 → exec (.coreWatchdog k) s = .next s) ∧
     (∀ ctx n, nodeOf s ctx = some n → n.arrived ≠ [] → n.state = .running →
       exec (.barrierTimeout ctx) s = .next (groveFault 0x06 0 n.barFirst .barrierTimeout
         (reachTime ((n.barAt + bits (regGet s (Reg.CORE_BAR_TIMEOUT n.barFirst)) 31 0 * 256000) % 2 ^ 64) s))) ∧
     (∀ c, g.dump = some c → engineOn s k = true → (gsRead k c.off c.len s).1.2 = false →
       exec (.tagCopyDone k) s = .next (
         let ctx := g.ctx.getD 0
         let l := (gsRead k c.off c.len s).1.1
         let v := (gsRead k c.off c.len s).2
         runAcc (.dump k) (do
             ctxWrite (.dump k) ctx (c.space + 64) (padTo (64 * ((c.len + 63) / 64)) l)
             ctxWrite (.dump k) ctx c.space (recordHeader v k c l false))
           (fun _ u =>
             let u := match u.obs.dumps.find? fun d => d.ctx == ctx && d.slot == c.slot with
               | some d => putDump { d with records := d.records + 1 } u
               | none => u
             coreNext k { groveOf u k with dump := none } u)
           (fun f u => groveFault 0x00 c.space k f u) v)))

/-- R291, R298: the stream instructions that move no data.
R291: GATHER. An index whose read answers is followed at once by its element's requests, and by the next index once they are issued;
an element without credit is held; after the last one the program goes on.
R282, R286, R291, R293, R302: bytes that come into a ring, slots that are accepted, and the two ends of a channel's run. -/
def Obligations.HelixStreams : Prop :=
  (∀ (s : State) (k ch w : Nat), streams s k ch w = true →
     let c := chanOf s k ch
     let p := c.pos
     let a := bits w 9 8
     let moved := fun (q : HPos) => Host.Outcome.next (setChan k ch { c with pos := q } s)
     (bits w 7 0 = 0x01 → exec (.loop k ch) s = moved { p with pc := p.pc + 1, depth := p.depth + 1, ctr := p.ctr.set p.depth 0 }) ∧
     (bits w 7 0 = 0x02 →
       let i := loopBefore 0 (((List.range p.pc).map fun i => (i, c.instrs.getD i 0)).reverse)
       let v := p.ctr.getD (p.depth - 1) 0 + 1
       let count := bits (c.instrs.getD i 0) 63 32
       (v < count → exec (.endl k ch) s = moved { p with pc := i + 1, ctr := p.ctr.set (p.depth - 1) v }) ∧
       (count ≤ v → exec (.endl k ch) s = moved { p with pc := p.pc + 1, depth := p.depth - 1, ctr := p.ctr.set (p.depth - 1) 0 })) ∧
     (bits w 7 0 = 0x03 → exec (.stride k ch) s =
       moved { p with pc := p.pc + 1, stride := p.stride.set (8 * a + bits w 12 10) (unsext (sext (bits w 63 24) 40) 64) }) ∧
     (bits w 7 0 = 0x04 → (gsRead k (bits w 31 10) 8 s).1.2 = false → exec (.lda k ch) s =
       .next (setChan k ch { c with pos := { p with pc := p.pc + 1, addr := p.addr.set a (memNat s (gsBase k + bits w 31 10) 8) } }
         (gsRead k (bits w 31 10) 8 s).2)) ∧
     (bits w 7 0 = 0x05 → exec (.adda k ch) s =
       moved { p with pc := p.pc + 1, addr := p.addr.set a ((p.addr.getD a 0 + unsext (sext (bits w 63 16) 48) 64) % 2 ^ 64) }) ∧
     (bits w 7 0 = 0x10 →
       let passed := ((groveOf s k).barGen + 2 ^ 32 - c.g0) % 2 ^ 32
       (bits w 39 8 ≤ passed → exec (.barw k ch) s = .next (setChan k ch { c with barw := false, pos := { p with pc := p.pc + 1 } } s)) ∧
       (passed < bits w 39 8 → exec (.barw k ch) s = .next (setChan k ch { c with barw := true } s))) ∧
     (bits w 7 0 = 0x3F → exec (.hend k ch) s = .next (setChan k ch { c with ended := true } s))) ∧
  (∀ (s : State) (k ch w fuel : Nat), streams s k ch w = true → bits w 7 0 = 0x0A →
     let c := chanOf s k ch
     let p := c.pos
     let size := if bit w 12 then 8 else 4
     let work : Work := .helix k ch p.p
     exec (.gather k ch) s = .next (gatherLoop k ch 8194 s) ∧
     (bits w 25 13 + 1 ≤ p.row →
       gatherLoop k ch (fuel + 1) s = setChan k ch { c with pos := { p with pc := p.pc + 1, row := 0, done := 0 } } s) ∧
     (p.row < bits w 25 13 + 1 → ∀ x u,
       ctxReadNat work ((groveOf s k).ctx.getD 0) ((p.address (bits w 11 10) + size * p.row) % 2 ^ 64) size s = .ok (x, u) →
       let t := clearWork work u
       let c1 := chanOf t k ch
       let c2 := issueRows (p.row + 1) (bits w 45 26 + 1)
         (fun _ => (c1.pos.address (bits w 9 8) + x * c1.pos.stride.getD (8 * bits w 9 8 + 7) 0) % 2 ^ 64) (bits w 45 26 + 2) c1
       (c2.held = true → gatherLoop k ch (fuel + 1) s = putIssued k ch c1 c2 t) ∧
       (c2.held = false → gatherLoop k ch (fuel + 1) s =
         gatherLoop k ch fuel (putIssued k ch c1 { c2 with pos := { c2.pos with pc := p.pc, row := p.row + 1, done := 0 } } t)))) ∧
  (∀ (s : State) (k ch w : Nat), isOn s = true →
     let c := chanOf s k ch
     let p := c.pos
     (streams s k ch w = true → bits w 7 0 = 0x0B → p.done = 0 → p.p + bits w 31 12 + 1 ≤ c.window →
       let n := bits w 31 12 + 1
       exec (.zero k ch) s = .next (setChan k ch
         ({ c with held := false, pos := { p with pc := p.pc + 1, done := 0, p := p.p + n } } : HChan).advanceTail
         (countN (Reg.HLX_CNT_BYTES k) n (ringPut k c p.p (List.replicate n 0) s)))) ∧
     (streams s k ch w = true → bits w 7 0 = 0x0C → p.done = 0 → (c.accepted + bits w 31 8) * c.slotBytes ≤ c.window →
       exec (.take k ch) s =
         .next (setChan k ch { c with accepted := c.accepted + bits w 31 8, taking := false, pos := { p with pc := p.pc + 1, done := 0 } } s)) ∧
     (∀ j r l u, c.reqs[j]? = some r → c.running = true → c.parked = false → c.halted = none →
       isWaiting s (.helix k ch r.pos.p) = false → ctxRead (.helix k ch r.pos.p) ((groveOf s k).ctx.getD 0) r.addr r.bytes s = .ok (l, u) →
       exec (.helixRequestArrive k ch j) s = .next (requestArrived k ch r l (clearWork (.helix k ch r.pos.p) u))) ∧
     (c.running = true → c.ended = true → c.reqs = [] → c.halted = none → c.ext = false → c.escs = [] → ∀ t, c.token = some t →
       exec (.helixProgramEnd k ch) s = .next (consume k ch 0 (releaseToken k (some t) (
         let top := roundUp p.p (max c.slotBytes 1)
         setChan k ch { c with tail := top / max c.slotBytes 1, token := none, taking := false, held := false, got := [] }
           (ringPut k c p.p (List.replicate (top - p.p) 0) s))))) ∧
     (∀ ctx id j r off l, ringIdOf s ctx id = r → r.bound = some (k, ch) → (ringFill c.slotBytes r).held[j]? = some (off, l) →
       c.running = true → (groveOf s k).running = true → 0 < extAllowed c r.base off l.length →
       exec (.extProducerWrite ctx id j) s = .next (
         let r := ringFill c.slotBytes r
         let n := extAllowed c r.base off l.length
         let q := off - r.base
         countN (Reg.HLX_CNT_BYTES k) n (setChan k ch
           ({ c with got := c.got ++ [(q, n)], pos := { p with p := max p.p (q + n) } } : HChan).advanceTail
           (setRingId { r with held := if n < l.length then r.held.set j (off + n, l.drop n) else r.held.eraseIdx j }
             (ringPut k c q (l.take n) s))))) ∧
     (∀ x xs, chanFaults s k ch = x :: xs → c.running = true → c.halted = none →
       let waiting := fun (r : HReq) => (x :: xs).any fun y => y.work == .helix k ch r.pos.p
       exec (.helixFaultHalt k ch) s = .next (setChan k ch { c with
         stopping := true
         parked := c.reqs.all waiting
         faultVa := ((c.reqs.filter waiting).map fun r => r.addr).headD (p.address 0) } s)))

/-- R291, R284: a READ or READ2 that starts with credit for all its bytes issues requests for exactly those bytes, in stream order, each
from the address that belongs to its stream position; P moves past them and the program goes on. -/
def Obligations.StreamReads : Prop :=
  ∀ (s : State) (k ch w : Nat), streams s k ch w = true →
    let c := chanOf s k ch
    let p := c.pos
    let a := bits w 9 8
    let covers := fun (rows n : Nat) (base : Nat → Nat) (i : Instr) =>
      p.row = 0 → p.done = 0 → p.p + rows * n ≤ c.window →
      ∃ l : List HReq,
        exec i s = .next (countN (Reg.HLX_CNT_REQ k) l.length (setChan k ch { c with
          held := false
          reqs := c.reqs ++ l
          pos := { p with pc := p.pc + 1, p := p.p + rows * n } } s)) ∧
        (l.map (·.bytes)).sum = rows * n ∧
        ∀ i (hi : i < l.length),
          let r := l[i]
          let q := ((l.take i).map (·.bytes)).sum
          0 < r.bytes ∧ r.bytes ≤ 256 ∧ r.pos.p = p.p + q ∧ r.addr = (base (q / n) + q % n) % 2 ^ 64 ∧ q % n + r.bytes ≤ n
    (bits w 7 0 = 0x08 → covers 1 (bits w 31 12 + 1) (fun _ => p.address a) (.read k ch)) ∧
    (bits w 7 0 = 0x09 →
      covers (bits w 21 10 + 1) (bits w 41 22 + 1) (fun r => p.address a + r * p.stride.getD (8 * a + 6) 0) (.read2 k ch))

/-- R197, R210, R214: TILE_STEP and TILE_WRITEBACK. A tile whose check fails is kept for its retry, and no byte of memory changes.
R215, R216: TILE_RETRY, STRIKE_CLEAR and the write of LAT_INJECT.
R231, R236: CHAIN_START and CHAIN_COMPLETE. In Free mode a chain that rounds stochastically takes a free sample; a slot that is set up
takes R243's initial value. -/
def Obligations.TilesAndChains : Prop :=
  (∀ (s : State) (k : Nat), isOn s = true → engineOn s k = true →
     (∀ i t a b s1 s2, nextTile (groveOf s k) = some (i, t) → mayStart s k t = true →
       let u := if t.started then t else
         { t with started := true, aPos := (chanOf s k (t.side false).chan).cons, bPos := (chanOf s k (t.side true).chan).cons }
       sideRead k u (u.side false) (setTile k i u s) = .ok a s1 → sideRead k u (u.side true) s1 = .ok b s2 →
       exec (.tileStep k) s = .next (tileUse k i u a b s2)) ∧
     (∀ t ts u v, (groveOf s k).tiles = t :: ts → t.started = true → t.kSteps ≤ t.steps → t.retry = [] → t.checked = false →
       tileCheck k t s = (u, v) →
       (u.checked = true → exec (.tileWriteback k) s = .next (tileWrite k u (tileSlots k u (setTile k 0 u v)))) ∧
       (u.checked = false → u.retry ≠ [] ∧
         ∃ x, exec (.tileWriteback k) s = .next x ∧ x.mem = s.mem ∧ (groveOf x k).tiles = (groveOf (setTile k 0 u v) k).tiles)) ∧
     (∀ t ts, (groveOf s k).tiles = t :: ts → t.started = true → t.kSteps ≤ t.steps → t.retry = [] → t.checked = true →
       exec (.tileWriteback k) s = .next (tileWrite k t (tileSlots k t (setTile k 0 t s))))) ∧
  (∀ (s : State) (k lattice : Nat),
     (isOn s = true → engineOn s k = true → ∀ t ts, (groveOf s k).tiles = t :: ts → lattice ∈ t.retry → (∀ l ∈ t.retry, lattice ≤ l) →
       lattice ∈ t.active → injection s k = none →
       let stand := (standIn s k lattice).getD lattice
       (blockOk t lattice (block t.bank lattice) = true → exec (.tileRetry k lattice) s = .next (
         let rest := t.retry.filter fun l => l != lattice
         latStrike k lattice (intLog 1 k lattice 0 0x05 0
           (setTile k 0 { t with retry := rest, checked := rest.isEmpty } (count (Reg.LAT_CNT_RES_RETRY_OK k) (latDrained k stand s)))))) ∧
       (blockOk t lattice (block t.bank lattice) = false → exec (.tileRetry k lattice) s = .next (
         let u := latStrike k stand (latQuarantine k lattice (count (Reg.LAT_CNT_RES_MISMATCH k) s))
         groveFault 0x05 0 k .residue (intLog 2 k lattice Flt.residue.code 0x05 ((groveOf s k).ctx.getD 0) u)))) ∧
     (isOn s = true → lattice < 16 → strikesOf s k lattice ≠ 0 →
       (2 ^ 24 ≤ drainedOf s k lattice → exec (.strikeClear k lattice) s =
         .next (setDrained k lattice 0 (regField (Reg.LAT_STRIKES k) (4 * lattice + 3) (4 * lattice) (strikesOf s k lattice - 1) s))) ∧
       (drainedOf s k lattice < 2 ^ 24 → exec (.strikeClear k lattice) s = .next s)) ∧
     (∀ value, hostServed s (Reg.LAT_INJECT k) = true →
       (isSealed s = true → exec (.latInjectArm k value) s = .next s) ∧
       (isSealed s = false → bits value 9 4 ≤ 37 → exec (.latInjectArm k value) s =
         .next (regPut (Reg.LAT_INJECT k) (bits value 10 0) s)) ∧
       (isSealed s = false → 37 < bits value 9 4 → exec (.latInjectArm k value) s = .next (regPut (Reg.LAT_INJECT k)
         (bits value 3 0 + bits (regGet s (Reg.LAT_INJECT k)) 9 4 * 2 ^ 4 + bits value 10 10 * 2 ^ 10) s)))) ∧
  (∀ (s : State) (k : Nat) (c : VChain), isOn s = true → engineOn s k = true → frontChain s k = some c →
     ((groveOf s k).chainOn = false →
       ∃ sample m n, exec (.chainStart k) s = .next (
         let u := setFront k { c with sample := sample } (s.setFree m)
         updGrove k (fun g => { g with
           chainOn := true
           slots := if c.usesSlot && (c.clear || (g.slots.getD c.slot {}).fn == 0) then g.slots.set c.slot (redInit c.redFn c.k m)
             else g.slots }) (u.setFree n))) ∧
     ((groveOf s k).chainOn = true → ∀ d, frontChain (chainRows k (c.count + 1) s) k = some d →
       (groveOf (chainRows k (c.count + 1) s) k).chainOn = true →
       (d.count ≤ d.rows → exec (.chainComplete k) s = .next (chainFinish k d (chainRows k (c.count + 1) s))) ∧
       (d.rows < d.count → exec (.chainComplete k) s = .next (chainRows k (c.count + 1) s))))

/-- R213, R214: the checksum row and column predict the residues of the banks: a step that accumulates any lines of the tile's length into a
tile whose blocks agree with their residues leaves them in agreement, in every one of the sixteen blocks. Cells outside the tile stay zero. -/
def Obligations.ResidueCheckPasses : Prop :=
  ∀ (t : Tile) (a b : List (List LElem)),
    a.length ≤ 32 → b.length ≤ 32 → (∀ l ∈ a, l.length = t.elems) → (∀ l ∈ b, l.length = t.elems) →
    (∀ p, p < 1024 → ¬(p / 32 < a.length ∧ p % 32 < b.length) → t.bank.getD p 0 = 0) →
    (∀ L, L < 16 → blockOk t L (block t.bank L) = true) →
    let u := tileAccumulate t a b
    (∀ p, p < 1024 → ¬(p / 32 < a.length ∧ p % 32 < b.length) → u.bank.getD p 0 = 0) ∧
    (∀ L, L < 16 → blockOk u L (block u.bank L) = true)

/-- R214: every single-bit error in one accumulator shows: a block that agrees with its residues no longer does so once any one bit of any one
of its 64 values, a number of 38 bits in two's complement, is inverted. -/
def Obligations.ResidueCheckDetects : Prop :=
  ∀ (t : Tile) (L : Nat) (blk : List Int) (i b : Nat),
    blk.length = 64 → i < 64 → b < 38 → -(2 ^ 37 : Int) ≤ blk.getD i 0 → blk.getD i 0 < 2 ^ 37 →
    blockOk t L blk = true → blockOk t L (blk.set i (flipBit (blk.getD i 0) b)) = false

/-- R49, R185: a write of memory at a local offset, lowest address first. -/
def Obligations.MemoryWrites : Prop :=
  ∀ (s : State) (a : Nat) (l : List Byte), Canonical s →
    let t := memWrite a l s
    Canonical t ∧ memRead t a l.length = l ∧
    (∀ b, (b < a ∨ a + l.length ≤ b) → mget 0 t.mem.bytes b = mget 0 s.mem.bytes b) ∧
    (∀ k, a ≤ k * 64 → k * 64 + 64 ≤ a + l.length → k ∉ t.mem.poison ∧ ∀ e, (k, e) ∉ t.mem.latent) ∧
    (∀ k, ¬(a ≤ k * 64 ∧ k * 64 + 64 ≤ a + l.length) →
      (k ∈ t.mem.poison ↔ k ∈ s.mem.poison) ∧ ∀ e, (k, e) ∈ t.mem.latent ↔ (k, e) ∈ s.mem.latent) ∧
    t = { s with mem := t.mem }

/-- R175: the effect of the integer operations on a target of its width, its bytes lowest first. -/
def Obligations.MemopArithmetic : Prop :=
  ∀ (t a : List Byte),
    (t.length = 4 → a.length = 4 →
      let x := ofLe t
      let y := ofLe a
      ofLe (memopApply 0x00 t a) = (x + y) % 2 ^ 32 ∧ ofLe (memopApply 0x02 t a) = min (x + y) 0xFFFFFFFF ∧
      sext (ofLe (memopApply 0x03 t a)) 32 = min (sext x 32) (sext y 32) ∧ sext (ofLe (memopApply 0x04 t a)) 32 = max (sext x 32) (sext y 32) ∧
      ofLe (memopApply 0x05 t a) = min x y ∧ ofLe (memopApply 0x06 t a) = max x y) ∧
    (t.length = 8 → a.length = 8 →
      let x := ofLe t
      let y := ofLe a
      ofLe (memopApply 0x01 t a) = (x + y) % 2 ^ 64 ∧
      sext (ofLe (memopApply 0x07 t a)) 64 = min (sext x 64) (sext y 64) ∧ sext (ofLe (memopApply 0x08 t a)) 64 = max (sext x 64) (sext y 64) ∧
      ofLe (memopApply 0x09 t a) = x &&& y ∧ ofLe (memopApply 0x0A t a) = x ||| y ∧ ofLe (memopApply 0x0B t a) = x ^^^ y ∧
      memopApply 0x0C t a = a) ∧
    (t.length = 8 → a.length = 16 →
      (a.take 8 = t → memopApply 0x0D t a = a.drop 8) ∧ (a.take 8 ≠ t → memopApply 0x0D t a = t)) ∧
    (t.length = 4 → a.length = 8 →
      (a.take 4 = t → memopApply 0x0E t a = a.drop 4) ∧ (a.take 4 ≠ t → memopApply 0x0E t a = t))

/-- R176 to R180, R185: XYLEM_MEMOP_APPLY, RED_STAGING_RESERVE and RED_GROUP_TIMEOUT.
R23, R188, R317, R452: accesses to another device's shared memory. -/
def Obligations.MemopsAndGlobalAccesses : Prop :=
  (∀ (s : State), isOn s = true →
     (∀ j m, s.xyl.reqs[j]? = some m →
       let u := s.setXyl { s.xyl with reqs := s.xyl.reqs.eraseIdx j }
       (∀ f, (m.elems.findSome? fun e => memopFault m.code e.1 m.exact) = some f →
         exec (.xylemMemopApply j) s = .next (memopOutcomes [(m, .error f)] u)) ∧
       ((m.elems.findSome? fun e => memopFault m.code e.1 m.exact) = none → (m.exact && memopFloatAdd (memopOp m.code)) = false →
         let o := (m.elems.map (·.1)).headD 0
         let met := meetErrors (o / 64 * 64) 64 u
         let v := evt (133 + channelOf o / 32) 0x90 (channelOf o % 32) 1 none met.2
         (met.1 = true → exec (.xylemMemopApply j) s = .next (memopOutcomes [(m, .error .ecc)] v)) ∧
         (met.1 = false → exec (.xylemMemopApply j) s = .next (memopOutcomes
           [(m, .ok (memNat v o (min ((memopWidth (memopOp m.code)).getD 0) 8)))]
           (evt (133 + channelOf o / 32) 0x91 (channelOf o % 32) 1 none (canInvalidate o (memopElems (memopOp m.code) m.elems v)))))) ∧
       ((m.elems.findSome? fun e => memopFault m.code e.1 m.exact) = none → (m.exact && memopFloatAdd (memopOp m.code)) = true →
         exec (.xylemMemopApply j) s = .next (memopOutcomes (memopStage m u).1 (memopStage m u).2))) ∧
     (∀ channel, exec (.redStagingReserve channel) s = .next (
       (s.xyl.waiting.filter fun m => channelOf (m.sector * 64) == channel).foldl
         (fun v m => memopOutcomes (memopStage m v).1 (memopStage m v).2)
         (s.setXyl { s.xyl with waiting := s.xyl.waiting.filter fun m => channelOf (m.sector * 64) != channel }))) ∧
     (∀ part group sector g, (s.xyl.groups.find? fun g => g.part == part && g.group == group && g.sector == sector) = some g →
       exec (.redGroupTimeout part group sector) s = .next (memopOutcomes (g.staged.map fun m => (m, .error .watchdog))
         (count Reg.MEM_CNT_RED_TIMEOUT
           (let v := reachTime ((g.start + bits (regGet s Reg.MEM_RED_CFG) 15 0 * 256000) % 2 ^ 64) s
            v.setXyl { v.xyl with groups := v.xyl.groups.erase g }))))) ∧
  (∀ (s : State) (h : Hdr) (tag : Nat),
     (∀ o n, stackStopped s (o % 2 ^ 46) = true → exec (.gread h o n tag) s = .next s ∧ (∀ l, exec (.gwrite h o tag l) s = .next s)) ∧
     (∀ m, stackStopped s (m.offset % 2 ^ 46) = true → exec (.memop h m) s = .next s) ∧
     (∀ o n, stackStopped s (o % 2 ^ 46) = false → accepts h (.gread o n tag) s = true →
       exec (.gread h o n tag) s = .next (served h (.gread o n tag) (serveRead h.src (o % 2 ^ 46) n tag) s)) ∧
     (∀ o l, stackStopped s (o % 2 ^ 46) = false → accepts h (.gwrite o tag l) s = true →
       exec (.gwrite h o tag l) s = .next (served h (.gwrite o tag l) (serveWrite h.src (o % 2 ^ 46) tag l) s)) ∧
     (∀ m, stackStopped s (m.offset % 2 ^ 46) = false → accepts h (.memop m) s = true →
       exec (.memop h m) s = .next (served h (.memop m) (serveMemop h.src { m with offset := m.offset % 2 ^ 46 }) s)) ∧
     (∀ src o n,
       ((n = 0 ∨ 4096 < n ∨ (o + n - 1) / 4096 ≠ o / 4096) → globFault s o n = some .illegal) ∧
       (1 ≤ n → n ≤ 4096 → (o + n - 1) / 4096 = o / 4096 →
         (populatedRange o n = false → globFault s o n = some .xlate) ∧
         (populatedRange o n = true → sharedRange s o n = false → globFault s o n = some .perm) ∧
         (populatedRange o n = true → sharedRange s o n = true → globFault s o n = none)) ∧
       (globFault s o n = some .perm →
         serveRead src o n tag s = send src (.grdata tag stFault Flt.perm.code []) (count Reg.XLT_CNT_REMOTE_REFUSED s)) ∧
       (∀ f, globFault s o n = some f → f ≠ .perm → serveRead src o n tag s = send src (.grdata tag stFault f.code []) s) ∧
       (globFault s o n = none → (localRead o n s).1.2 = false →
         serveRead src o n tag s = send src (.grdata tag 0 0 (localRead o n s).1.1) (localRead o n s).2) ∧
       (globFault s o n = none → (localRead o n s).1.2 = true →
         serveRead src o n tag s = send src (.grdata tag stFault Flt.ecc.code []) (localRead o n s).2) ∧
       (∀ l : List Byte, globFault s o l.length = none → serveWrite src o tag l s = send src (.gwAck tag 0 0) (localWrite o l s)) ∧
       (∀ (l : List Byte) f, globFault s o l.length = some f → f ≠ .perm → serveWrite src o tag l s = send src (.gwAck tag stFault f.code) s)) ∧
     (∀ status fault data, accepts h (.grdata tag status fault data) s = true → exec (.grdata h tag status fault data) s =
       .next (resumeReady (served h (.grdata tag status fault data) (responded (fun m => m.dst == h.src &&
         (match m.body with | .gread _ _ t => t == tag | _ => false)) (accessAnswered tag status fault data)) s))) ∧
     (∀ status fault, accepts h (.gwAck tag status fault) s = true → exec (.gwAck h tag status fault) s =
       .next (resumeReady (served h (.gwAck tag status fault) (responded (fun m => m.dst == h.src &&
         (match m.body with | .gwrite _ t _ => t == tag | _ => false)) (accessAnswered tag status fault [])) s))) ∧
     (∀ status fault old, accepts h (.memopAck tag status fault old) s = true → exec (.memopAck h tag status fault old) s =
       .next (resumeReady (served h (.memopAck tag status fault old) (responded (fun m => m.dst == h.src &&
         (match m.body with | .memop x => x.tag == tag | _ => false)) (memopAnswered tag status fault old)) s))))

/-- R179: the contributions of a group stay in ascending contrib order, whatever order they arrive in, and none is lost. -/
def Obligations.ReductionGroupOrder : Prop :=
  ∀ (m : MemReq) (l : List MemReq),
    (l.Pairwise fun x y => x.contrib ≤ y.contrib) →
    ((stageIn m l).Pairwise fun x y => x.contrib ≤ y.contrib) ∧ List.Perm (stageIn m l) (m :: l)

/-- R172, R186, R188 to R190, R413: the memory system's own commands. -/
def Obligations.MemoryMaintenance : Prop :=
  ∀ (s : State),
    (∀ op rest g gs, isOn s = true → s.sched.partOps = op :: rest → op.scrub = g :: gs →
      let u := canDrop (fun l => groupOf (l.line * 256) == g && !inDeviceArea (l.line * 256)) (memZero (g * 2 ^ 35) 0x7F8000000 s)
      (gs ≠ [] → exec .groupScrubDone s = .next (u.setSched { u.sched with partOps := { op with scrub := gs } :: rest })) ∧
      (gs = [] → exec .groupScrubDone s =
        .next (partApply { op with scrub := [] } (u.setSched { u.sched with partOps := rest })))) ∧
    (∀ value way, hostServed s Reg.CAN_WAY_MODE = true → way < 31 →
      bits value 30 0 ^^^ bits (regGet s Reg.CAN_WAY_MODE) 30 0 = 2 ^ way →
      (wayInUse s way = true → exec (.canWayModeWrite value) s = .next (count Reg.CAN_CNT_MODE_REFUSED s)) ∧
      (wayInUse s way = false → exec (.canWayModeWrite value) s =
        .next (regField Reg.CAN_WAY_MODE way way (bits value way way) (wayClear way s)))) ∧
    (∀ sector err, isOn s = true → bit (regGet s Reg.MEM_SCRUB_CFG) 8 = true → isHbm (sector * 64) = true →
      (err = 0 → mget 0 s.mem.latent sector = 0 → exec (.patrolScrub sector err) s = .next (meetErrors (sector * 64) 64 s).2) ∧
      (err = 3 → mget 0 s.mem.latent sector = 0 → exec (.patrolScrub sector err) s =
        .next (meetErrors (sector * 64) 64 (count Reg.MEM_CNT_ODECC s)).2) ∧
      ((err = 1 ∨ err = 2) → mwf 0 s.mem.latent = true → exec (.patrolScrub sector err) s = .next (canInvalidate (sector * 64)
        (meetErrors (sector * 64) 64 (s.setMem { s.mem with latent := mset 0 s.mem.latent sector err })).2))) ∧
    (∀ value, hostServed s Reg.MEM_TEST_CTL = true → isSealed s = false → bit value 0 = true →
      s.xyl.maint = false → (∀ x ∈ s.sched.ctxs, x.state = .none) →
      bits value 3 1 = bits (regGet s Reg.MEM_TEST_CTL) 3 1 →
      exec (.maintRequest value) s = .next (regWrite Reg.MEM_TEST_CTL value (s.setXyl { s.xyl with maint := true }))) ∧
    (isOn s = true → s.xyl.maint = true → s.xyl.repair = none → exec .maintGrant s = .next (setGranted true s)) ∧
    (isOn s = true → s.xyl.maint = true → s.xyl.repair ≠ none → exec .maintGrant s = .next s) ∧
    (∀ value, hostServed s Reg.MEM_TEST_CTL = true → isSealed s = false → bit value 0 = false →
      exec (.maintRelease value) s =
        .next (repairNext (setGranted false (regWrite Reg.MEM_TEST_CTL value (s.setXyl { s.xyl with maint := false }))))) ∧
    (∀ value, hostServed s Reg.MEM_PPR_REQ = true → bit value 13 = true → s.xyl.ppr = false →
      testOpen (regWrite Reg.MEM_PPR_REQ (setBits value 13 13 0) s) = true →
      exec (.pprGo value) s = .next (
        let u := regWrite Reg.MEM_PPR_REQ (setBits value 13 13 0) s
        regField Reg.MEM_TEST_STAT 1 1 1 (u.setXyl { u.xyl with ppr := true }))) ∧
    (∀ status, isOn s = true → s.xyl.ppr = true → status = 1 ∨ status = 2 → exec (.pprDone status) s =
      .next (regOr Reg.MEM_PPR_STAT (1 <<< status) (regField Reg.MEM_TEST_STAT 1 1 0 (s.setXyl { s.xyl with ppr := false })))) ∧
    (isOn s = true → s.xyl.ppr = true → exec (.pprDone 0) s = .next (
      let r := regGet s Reg.MEM_PPR_REQ
      let c := bits (regGet s Reg.MEM_TEST_CTL) 3 1 * 32 + bits r 4 0
      (Config.rowSectors c (bits r 5 5) (bits r 11 6) (bits r 49 32)).foldl (fun u k => undefSector k u)
        (regOr Reg.MEM_PPR_STAT 1 (regField Reg.MEM_TEST_STAT 1 1 0 (s.setXyl { s.xyl with ppr := false }))))) ∧
    (∀ value, tapOpen s = true →
      (hostServed s Reg.MEM_1500_INSTR = true → exec (.mem1500InstrWrite value) s =
        .next (s.setXyl { s.xyl with shiftIn := [value % 2 ^ 16] })) ∧
      (hostServed s Reg.MEM_1500_DATA = true → exec (.mem1500DataWrite value) s =
        .next (regWrite Reg.MEM_1500_DATA value (s.setXyl { s.xyl with shiftIn := s.xyl.shiftIn ++ [value % 2 ^ 32] }))) ∧
      (hostServed s Reg.MEM_1500_DATA = true → ∃ v n, exec .mem1500DataRead s = .next (regPut Reg.MEM_1500_DATA (v % 2 ^ 32) (s.setFree n)))) ∧
    (∀ r, isOn s = true → s.xyl.repair = some r →
      exec (.taprootRepairDone true) s =
        .next (repairNext (count Reg.MEM_CNT_REPAIR (repairLog r 0 (repairSectors r (s.setXyl { s.xyl with repair := none }))))) ∧
      exec (.taprootRepairDone false) s =
        .next (repairNext (repairLog r 2 (repairSectors r (s.setXyl { s.xyl with repair := none })))))

/-- R315: SPAN_WRITE, SPAN_READ and SPAN_WRITE_DONE.
R328, R335 to R338: ABSENT_SPAN_FAULT, ABSENT_LOAD_DONE, SET_BIAS and SET_BIAS_DONE. -/
def Obligations.SpansAndBias : Prop :=
  (∀ (s : State) (go : Nat),
     let ctx := bits (regGet s Reg.XLT_SPAN_CTX) 13 0
     let va := regGet s Reg.XLT_SPAN_VA
     let entry := regGet s Reg.XLT_SPAN_DATA
     (hostServed s Reg.XLT_SPAN_GO = true → s.xlt.spanOp = none → bit go 0 = true →
       let u := regField Reg.XLT_SPAN_STAT 6 6 0 s
       let result := spanCheck u ctx va entry (regGet u Reg.XLT_SPAN_SRC) (bit go 2)
       (result ≠ 0 → exec (.spanWrite go) s = .next (spanStatus false true result (if bit go 1 then spanFetch u else u))) ∧
       (result = 0 → (ctx, bits va 47 0) ∉ s.xlt.loads → exec (.spanWrite go) s = .next (spanPerform go u)) ∧
       (result = 0 → (ctx, bits va 47 0) ∈ s.xlt.loads → exec (.spanWrite go) s =
         .next (spanStatus true false 0 (u.setXlt { s.xlt with spanOp := some { go := go, load := some (ctx, bits va 47 0) } })))) ∧
     (hostServed s Reg.XLT_SPAN_GO = true → s.xlt.spanOp = none → bit go 0 = false → bit go 1 = true →
       ((bit va 56 = false ∨ bits va 55 48 ≠ 0) → exec (.spanRead go) s = .next (spanStatus false true 1 s)) ∧
       (bit va 56 = true → bits va 55 48 = 0 → ctxExists s ctx = false → exec (.spanRead go) s = .next (spanStatus false true 4 s)) ∧
       (bit va 56 = true → bits va 55 48 = 0 → ctxExists s ctx = true → ⟨ctx, 1, 0⟩ ∈ s.xlt.nodes →
         exec (.spanRead go) s = .next (spanStatus false true 0 (spanFetch s)))) ∧
     (∀ op, isOn s = true → s.xlt.spanOp = some op → op.load = none →
       exec .spanWriteDone s = .next (spanStatus false true 0 (s.setXlt { s.xlt with spanOp := none })))) ∧
  (∀ (s : State), isOn s = true →
     (∀ ctx va, (∃ x ∈ s.io.waits, x.need = .absent ctx va) →
       let u := changeNeed (.absent ctx va) (.load ctx va) (countFaults 1 (s.io.waits.filter fun x => x.need == .absent ctx va) s)
       ((ctx, va) ∉ u.xlt.loads → exec (.absentSpanFault ctx va) s =
         .next (count Reg.XLT_CNT_ABSENT_LOAD (u.setXlt { u.xlt with loads := u.xlt.loads ++ [(ctx, va)] }))) ∧
       ((ctx, va) ∈ u.xlt.loads → exec (.absentSpanFault ctx va) s = .next u)) ∧
     (∀ ctx va p data, (ctx, va) ∈ s.xlt.loads → (s.xlt.spans.find? fun p => p.ctx == ctx && p.va == va && bit p.entry 4) = some p →
       sourceBad s p = false → s.xlt.spanOp = none →
       exec (.absentLoadDone ctx va true data) s = .next (
         let u := loadSpan p data (s.setXlt { s.xlt with loads := s.xlt.loads.filter fun p => p != (ctx, va) })
         let u := dropSpanEntries ctx va (u.setXlt { u.xlt with
           spans := updFirst (fun q => q == p) (fun q => { q with entry := setBits q.entry 4 4 0 }) u.xlt.spans })
         let r := takeWaits (fun x => x.need == .load ctx va) u
         goOnAll (worksOf r.1) r.2)) ∧
     (∀ ctx va data, (ctx, va) ∈ s.xlt.loads → s.xlt.spanOp = none →
       exec (.absentLoadDone ctx va false data) s = .next (
         let r := takeWaits (fun x => x.need == .load ctx va) (s.setXlt { s.xlt with loads := s.xlt.loads.filter fun p => p != (ctx, va) })
         goOnAll (worksOf r.1) (failWaiters .xlate r.1 r.2))) ∧
     (∀ c,
       let u := startCmd c s
       (∀ b ∈ u.xlt.biasOps, b.cmd ≠ c) →
       (biasBad u c = true → exec (.setBias c) s = .next (badPacket c 0 u)) ∧
       (biasBad u c = false → 65536 < ((biasOpOf u c).table u.xlt.bias).length →
         exec (.setBias c) s = .next (complete c stNoResource 0 0 u)) ∧
       (biasBad u c = false → ((biasOpOf u c).table u.xlt.bias).length ≤ 65536 →
         exec (.setBias c) s = .next (u.setXlt { u.xlt with
           biasOps := u.xlt.biasOps ++ [{ biasOpOf u c with begun := !u.xlt.biasOps.any (·.meets (biasOpOf u c)) }] }))) ∧
     (∀ c b, (s.xlt.biasOps.find? fun b => b.cmd == c) = some b → b.begun = true → biasBusy s b = false →
       (b.table s.xlt.bias).length ≤ 65536 →
       let lines := if b.flush then b.count * 64 else 0
       let u := countN Reg.XLT_CNT_CLFLUSH lines (s.setXlt { s.xlt with
         sent := if lines = 0 then s.xlt.sent else s.xlt.sent ++ [.clFlush b.pasid (b.first * 4096) lines]
         bias := b.table s.xlt.bias
         biasOps := biasBegin (s.xlt.biasOps.filter fun x => x.cmd != c) })
       let r := takeWaits (fun x => match x.need with
         | .bias p pg => p == b.pasid && decide (b.first ≤ pg) && decide (pg < b.first + b.count)
         | _ => false) u
       exec (.setBiasDone c true) s = .next (goOnAll (worksOf r.1) (completeOk c 0 r.2))))

/-- R315: the first row of the table that applies: result 1 before result 4, and both before those that need the span table. -/
def Obligations.SpanFirstRefusal : Prop :=
  ∀ (s : State) (ctx va entry source : Nat) (giant : Bool),
    let size := if giant then 2 ^ 30 else 2 ^ 21
    let bad := bit va 56 = false ∨ bits va 55 48 ≠ 0 ∨ va % size ≠ 0 ∨ bits entry 20 5 ≠ 0 ∨ (bit entry 0 = true ∧ bit entry 1 = false)
    (bad → spanCheck s ctx va entry source giant = 1) ∧
    (¬bad → ctxExists s ctx = false → spanCheck s ctx va entry source giant = 4) ∧
    (¬bad → ctxExists s ctx = true → ⟨ctx, 1, 0⟩ ∈ s.xlt.nodes → bit entry 0 = false → spanCheck s ctx va entry source giant = 0)

/-- R319 to R322: ATS_COMPLETION, ATS_INVALIDATE and ATS_INVALIDATE_COMPLETE.
R323 to R327: HOST_FAULT, PRI_GROUP_WINDOW, PRG_RESPONSE and PRI_TIMEOUT. -/
def Obligations.AtsAndPageRequests : Prop :=
  (∀ (s : State), isOn s = true →
     (∀ pasid page size target write, (∃ x ∈ s.io.waits, ∃ wr, x.need = .ats pasid page wr) →
       let mine := fun (x : Waiting) => match x.need with
         | .ats p q _ => p == pasid && q == page
         | _ => false
       let n := max 4096 size
       let granted := fun (x : Waiting) => match x.need with
         | .ats _ _ wr => if wr then write else true
         | _ => false
       let filled := atcFill { pasid := pasid, page := page * 4096 / n * n, size := n, target := target, read := true, write := write } s
       exec (.atsCompletion pasid page size target true write) s = .next (
         let r := takeWaits (fun x => mine x && granted x) filled
         goOnAll (worksOf r.1) (r.2.setIo { r.2.io with waits := r.2.io.waits.map fun x => match x.need with
           | .ats p q wr => if p == pasid && q == page then { x with need := .hostFault pasid page wr } else x
           | _ => x }))) ∧
     (∀ tag pasid addr size all,
       let hit := fun (p a n : Nat) => (all || p == pasid) && overlaps addr size a n
       ∃ t, exec (.atsInvalidate tag pasid addr size all) s = .next t ∧
         (∀ e, e ∈ t.xlt.atc ↔ e ∈ s.xlt.atc ∧ hit e.pasid e.page e.size = false) ∧
         t.xlt.invs = s.xlt.invs ++
           [⟨tag, pasid, addr, size, all, (s.hl.reads.filter fun r => hit r.pasid r.addr r.bytes).map (·.tag)⟩] ∧
         t = s.setXlt { s.xlt with atc := t.xlt.atc, utlb := t.xlt.utlb, invs := t.xlt.invs }) ∧
     (∀ tag v, (s.xlt.invs.find? fun v => v.tag == tag) = some v →
       let open_ := (∃ r ∈ s.hl.reads, r.tag ∈ v.reads) ∨
         ∃ w ∈ s.hl.queued, (v.all || w.pasid == v.pasid) = true ∧ overlaps v.addr v.size w.addr w.data.length = true
       (open_ → exec (.atsInvalidateComplete tag) s = .next s) ∧
       (¬open_ → exec (.atsInvalidateComplete tag) s = .next (count Reg.XLT_CNT_ATS_INV (s.setXlt { s.xlt with
         invs := s.xlt.invs.filter fun v => v.tag != tag
         sent := s.xlt.sent ++ [.invalidateDone tag] }))))) ∧
  (∀ (s : State), isOn s = true →
     (∀ pasid page write,
       let mine := fun (x : Waiting) => x.need == .hostFault pasid page write
       let u := countFaults 0 (s.io.waits.filter mine) s
       let r := takeWaits (fun x => mine x && failsAtOnce u x.work page) u
       let v := failWaiters (hostFailure r.2 pasid page) r.1 r.2
       let n := (v.io.waits.filter mine).length
       let wait := changeNeed (.hostFault pasid page write) (.pri pasid page write)
       (n = 0 → exec (.hostFault pasid page write) s = .next (goOnAll (worksOf r.1) v)) ∧
       (∀ q, n ≠ 0 → joinable v pasid page write = some q → q.write = write →
         exec (.hostFault pasid page write) s = .next (goOnAll (worksOf r.1) (wait (countN Reg.XLT_CNT_COALESCED n v)))) ∧
       (n ≠ 0 → joinable v pasid page write = none → gathererFull v pasid n = false →
         exec (.hostFault pasid page write) s =
           .next (goOnAll (worksOf r.1) (openRequest pasid page write (wait (countN Reg.XLT_CNT_COALESCED (n - 1) v))))) ∧
       (n ≠ 0 → joinable v pasid page write = none → gathererFull v pasid n = true →
         exec (.hostFault pasid page write) s = .next (goOnAll (worksOf r.1) v))) ∧
     (∀ pasid g, (s.xlt.groups.find? fun g => g.pasid == pasid && g.index.isNone) = some g →
       exec (.priGroupWindow pasid) s = .next (closeGroup g.id false s)) ∧
     (∀ index g, (s.xlt.groups.find? fun g => g.index == some index) = some g →
       let n := (groupReqs s g.id).length
       let told := fun (code : Nat) => endGroup g (emit 0x0A 131 0 index g.pasid (n + b2n g.full * 2 ^ 8 + code % 256 * 2 ^ 16) s)
       (let again := (told 0).1.filter fun x => match x.work with
           | .saved _ => false
           | _ => true
        exec (.prgResponse index 0) s = .next (goOnAll (worksOf again) (again.foldl (fun v x => addRound x.work x.need.page v) (told 0).2))) ∧
       exec (.prgResponse index 1) s =
         .next (goOnAll (worksOf (told 1).1) (countN Reg.XLT_CNT_PRI_FAIL n (failWaiters .xlate (told 1).1 (told 1).2))) ∧
       exec (.priTimeout index) s = .next (goOnAll (worksOf (endGroup g s).1)
         (failWaiters .xlate (endGroup g s).1 (count Reg.XLT_CNT_PRI_TIMEOUT (endGroup g s).2)))) ∧
     (∀ index, (s.xlt.groups.find? fun g => g.index == some index) = none → ∀ code,
       exec (.prgResponse index code) s = .next s ∧ exec (.priTimeout index) s = .next s))

/-- R324: no two outstanding groups share a PRG index, and every index comes from the pool of 512. -/
def Obligations.PageGroupIndices : Prop :=
  ∀ (s : State) (id : Nat) (full : Bool),
    (s.xlt.groups.map (·.id)).Nodup → (s.xlt.groups.filterMap (·.index)).Nodup → (∀ i ∈ s.xlt.groups.filterMap (·.index), i < 512) →
    let t := closeGroup id full s
    (t.xlt.groups.map (·.id)).Nodup ∧ (t.xlt.groups.filterMap (·.index)).Nodup ∧ (∀ i ∈ t.xlt.groups.filterMap (·.index), i < 512)

/-- R43, R354 to R358: the bulk channels' commands.
R360 to R362: GROVE_DESC_START, GDMA_DISABLE and GDMA_ENABLE. -/
def Obligations.DmaChannelsAndGroveEngines : Prop :=
  (∀ (s : State), isOn s = true →
     (∀ c,
       let u := startCmd c s
       let n := bits (par c 0) 5 0
       let b := bulkOf u n
       (submitBad c = true → exec (.dmaSubmit c) s = .next (badPacket c 0 u)) ∧
       (submitBad c = false → b.fn.state ≠ .disabled → b.ctx ≠ some c.ctx → exec (.dmaSubmit c) s = .next (complete c stNoResource 0 0 u)) ∧
       (submitBad c = false → b.fn.state = .disabled → exec (.dmaSubmit c) s = .next (bulkEnable c u)) ∧
       (submitBad c = false → b.fn.state = .enabled → b.ctx = some c.ctx → exec (.dmaSubmit c) s = .next (completeOk c 0 u)) ∧
       (submitBad c = false → b.fn.state = .draining → b.ctx = some c.ctx → exec (.dmaSubmit c) s = .next (complete c stDeferred 0 0
         (setBulk n { b with fn := { b.fn with state := .drainingDeferred, deferred := [c] } } u))) ∧
       (submitBad c = false → b.fn.state = .drainingDeferred → b.ctx = some c.ctx → exec (.dmaSubmit c) s = .next (complete c stDeferred 0 0
         (setBulk n { b with fn := { b.fn with deferred := b.fn.deferred ++ [c] } } u)))) ∧
     (∀ c,
       let u := startCmd c s
       let n := bits (par c 0) 5 0
       let b := bulkOf u n
       bits (par c 0) 63 6 = 0 →
       (b.fn.state = .disabled → exec (.dmaStop c) s = .next (completeOk c 0 u)) ∧
       (b.fn.state = .enabled → b.ctx = some c.ctx →
         let v := setBulk n { b with fn := { b.fn with state := .draining, disables := [c] } } u
         (b.held.isSome = true → exec (.dmaStop c) s = .next v) ∧
         (b.held = none → isWaiting v (.bulk n) = false → exec (.dmaStop c) s = .next (bulkStopped n v))) ∧
       (b.fn.state = .draining → b.ctx = some c.ctx → exec (.dmaStop c) s =
         .next (setBulk n { b with fn := { b.fn with disables := b.fn.disables ++ [c] } } u)) ∧
       (b.fn.state = .drainingDeferred → b.ctx = some c.ctx → exec (.dmaStop c) s = .next (b.fn.deferred.foldl
         (fun v d => completeSecond d stCancelled 0 0 v)
         (setBulk n { b with fn := { state := .draining, deferred := [], disables := b.fn.disables ++ [c] } } u)))) ∧
     (∀ n value, hostServed s (Reg.DMA_CH_TAIL n) = true → (bulkOf s n).fn.state = .enabled →
       exec (.dmaChTailWrite n value) s =
         .next (setBulk n { bulkOf s n with tail := value % 2 ^ 16 % (bulkOf s n).size } s)) ∧
     (∀ n l u,
       let b := bulkOf s n
       accepting s = true → b.fn.state = .enabled → b.held = none → b.head ≠ b.tail →
       ctxRead (.bulk n) (b.ctx.getD 0) (b.base + 64 * b.head) 64 s = .ok (l, u) →
       let d := descOf (b.base + 64 * b.head) l none
       exec (.bulkDescStart n) s = .next (setBulk n { b with held := some { d with
         started := true
         crc := crcInit d.crcSel
         out := if d.malformed false then some (stDescBad, Flt.illegal.code) else none } } (clearWork (.bulk n) u)))) ∧
  (∀ (s : State) (k : Nat),
     (∀ d rest, isOn s = true → (gdmaOf s k).queue = d :: rest → (gdmaOf s k).disabled = false → d.started = false → engineOn s k = true →
       d.dstRing = false → exec (.groveDescStart k) s =
         .next (setGdma k { gdmaOf s k with queue := { d with started := true, crc := crcInit d.crcSel } :: rest } s)) ∧
     (∀ d rest, isOn s = true → (gdmaOf s k).queue = d :: rest → (gdmaOf s k).disabled = false → d.started = false → engineOn s k = true →
       d.dstRing = true → ringIdFree s ((groveOf s k).ctx.getD 0) (d.dst % 2 ^ 16) (.gdma k) = true → exec (.groveDescStart k) s =
         .next (setGdma k { gdmaOf s k with queue := { d with started := true, crc := crcInit d.crcSel } :: rest }
           (ringClaim ((groveOf s k).ctx.getD 0) (d.dst % 2 ^ 16) (.gdma k) s))) ∧
     (hostServed s (Reg.GDMA_CTL k) = true →
       (((groveOf s k).ctx.isSome = true ∨ k ∈ s.sched.saving) →
         exec (.gdmaDisable k) s = .next (count (Reg.GDMA_CNT_DISABLE_REFUSED k) s)) ∧
       ((groveOf s k).ctx = none → k ∉ s.sched.saving → ∃ bytes n, exec (.gdmaDisable k) s =
         .next (regPut (Reg.GDMA_CNT_BYTES k) bytes
           (regField (Reg.GDMA_CTL k) 0 0 1 (clearWork (.gdma k) (setGdma k { disabled := true } (s.setFree n)))))) ∧
       ((gdmaOf s k).disabled = true → exec (.gdmaEnable k) s = .next (regField (Reg.GDMA_CTL k) 0 0 0 (setGdma k {} s))) ∧
       ((gdmaOf s k).disabled = false → exec (.gdmaEnable k) s = .next s)))

/-- R343 to R353, R364: BULK_DESC_COMPLETE and GROVE_DESC_COMPLETE run the held descriptor; the clauses after them say what one round does. -/
def Obligations.DmaTransfers : Prop :=
  ∀ (s : State), isOn s = true →
    (∀ n, (bulkOf s n).held.isSome = true → exec (.bulkDescComplete n) s = .next (dmaMove (.bulk n) (2 ^ 28 + 2) s)) ∧
    (∀ k, engineOn s k = true → (gdmaOf s k).disabled = false →
      exec (.groveDescComplete k) s = .next (dmaMove (.grove k) (2 ^ 28 + 2) s)) ∧
    (∀ (e : DmaEng) (fuel : Nat) (d : Desc), e.desc s = some d →
      ((d.out.isSome = true ∨ d.moved = true) → dmaMove e (fuel + 1) s = dmaEnd e d s) ∧
      (d.out = none → d.moved = false → d.bytesDone < d.length → ∀ r u, dmaChunk e (e.ctx s) d s = .ok (r, u) →
        dmaMove e (fuel + 1) s = dmaMove e fuel (DmaEng.put r.1 (DmaEng.countBytes r.2 (clearWork e.work u) e) e)) ∧
      (d.out = none → d.moved = false → d.bytesDone < d.length → ∀ f u, dmaChunk e (e.ctx s) d s = .error (.fail f u) →
        dmaMove e (fuel + 1) s =
          dmaEnd e { d with out := some (stDescBad, f.code) } (DmaEng.put { d with out := some (stDescBad, f.code) } (clearWork e.work u) e)) ∧
      (d.out = none → d.moved = false → d.length ≤ d.bytesDone → ∀ u, dmaCrcStore e (e.ctx s) d s = .ok ((), u) →
        dmaMove e (fuel + 1) s = dmaEnd e { d with moved := true }
          (DmaEng.put { d with moved := true } (DmaEng.countBytes d.storeBytes (clearWork e.work u) e) e)) ∧
      (dmaPending s e (e.ctx s) d = true → dmaEnd e d s = s))

/-- R43 to R45: functions with a separate enable and disable, in each of the four states.
R40, R411, R414 to R419, R434: the commands on contexts and partitions, and the administrative context's register. -/
def Obligations.FunctionsAndContextOrders : Prop :=
  (∀ (fn : Fn) (c : Cmd),
     (fn.state = .disabled → fnEnable fn c = (fn, .carryOut) ∧ fnDisable fn c = (fn, .okNow)) ∧
     (fn.state = .enabled → fnEnable fn c = (fn, .okNow) ∧
       (fnDisable fn c).2 = .start ∧ (fnDisable fn c).1.state = .draining ∧ (fnDisable fn c).1.disables = [c]) ∧
     (fn.state = .draining → (fnEnable fn c).2 = .deferred ∧ (fnEnable fn c).1.state = .drainingDeferred ∧ (fnEnable fn c).1.deferred = [c] ∧
       (fnEnable fn c).1.disables = fn.disables ∧
       (fnDisable fn c).2 = .joins [] ∧ (fnDisable fn c).1.state = .draining ∧ (fnDisable fn c).1.disables = fn.disables ++ [c]) ∧
     (fn.state = .drainingDeferred → (fnEnable fn c).2 = .deferred ∧ (fnEnable fn c).1.state = .drainingDeferred ∧
       (fnEnable fn c).1.deferred = fn.deferred ++ [c] ∧ (fnEnable fn c).1.disables = fn.disables ∧
       (fnDisable fn c).2 = .joins fn.deferred ∧ (fnDisable fn c).1.state = .draining ∧ (fnDisable fn c).1.deferred = [] ∧
       (fnDisable fn c).1.disables = fn.disables ++ [c])) ∧
  (∀ (s : State) (c : Cmd) (rivals : List Order),
     (isOn s = true →
       let u := startCmd c s
       let id := bits (par c 0) 13 0
       let p := bits (par c 0) 3 0
       let q := partAsked c
       let x := getCtx u id
       (∀ w, losesTo (cmdOrder c (.create id)) rivals = some w → exec (.ctxCreate c rivals) s = .next (complete c stConflict 0 (winnerWord w) u)) ∧
       (losesTo (cmdOrder c (.create id)) rivals = none →
         ((fromAdmin c = false ∨ id = 0) → exec (.ctxCreate c rivals) s = .next (badPacket c 0 u)) ∧
         (fromAdmin c = true → id ≠ 0 → u.xyl.maint = false →
           (x.state = .none → exec (.ctxCreate c rivals) s = .next (createRun c u)) ∧
           (x.state = .faulted → exec (.ctxCreate c rivals) s = .next (complete c stNoResource 0 5 u)) ∧
           (x.state = .draining → exec (.ctxCreate c rivals) s = .next (complete c stDeferred 0 0
             (updCtx id (fun x => { x with state := .drainingDeferred, deferred := x.deferred ++ [c] }) u))) ∧
           (x.state = .resident ∨ x.state = .out → exec (.ctxCreate c rivals) s = .next (completeOk c 0 u)))) ∧
       (∀ w, losesTo (cmdOrder c (.destroy id)) rivals = some w → exec (.ctxDestroy c rivals) s = .next (complete c stConflict 0 (winnerWord w) u)) ∧
       (losesTo (cmdOrder c (.destroy id)) rivals = none →
         ((fromAdmin c = false ∨ id = 0 ∨ bits (par c 0) 63 14 ≠ 0) → exec (.ctxDestroy c rivals) s = .next (badPacket c 0 u)) ∧
         (fromAdmin c = true → id ≠ 0 → bits (par c 0) 63 14 = 0 → c ∉ x.destroys →
           (x.state = .none → exec (.ctxDestroy c rivals) s = .next (completeOk c 0 u)) ∧
           (x.state = .resident ∨ x.state = .out → exec (.ctxDestroy c rivals) s =
             .next (updCtx id (fun x => { x with destroys := x.destroys ++ [c] }) (tear id none .draining u))))) ∧
       ((∀ o ∈ u.sched.partOps, o.part ≠ p) →
         (∀ w, losesTo (cmdOrder c (.partition p q.exist q.exact q.groups q.ways q.groves)) rivals = some w →
           exec (.ctxPartition c rivals) s = .next (complete c stConflict 0 (winnerWord w) u)) ∧
         (losesTo (cmdOrder c (.partition p q.exist q.exact q.groups q.ways q.groves)) rivals = none →
           (fromAdmin c = false → exec (.ctxPartition c rivals) s = .next (badPacket c 0 u)) ∧
           (fromAdmin c = true → bits (par c 0) 63 6 = 0 → bit (par c 0) 4 = true ∨
             (bits (par c 1) 63 48 = 0 ∧ bit q.ways 31 = false ∧ q.groups ≠ 0 ∧ q.groves ≠ 0) →
             (∀ j, heldByOther u p q = some j → exec (.ctxPartition c rivals) s = .next (complete c stNoResource 0 (j + 16) u)) ∧
             (heldByOther u p q = none → (∃ x ∈ u.sched.ctxs, x.part = p ∧ x.id ≠ 0 ∧ x.state ≠ .none) →
               exec (.ctxPartition c rivals) s = .next (complete c stNoResource 0 32 u)) ∧
             (heldByOther u p q = none → (∀ x ∈ u.sched.ctxs, x.part = p → x.id ≠ 0 → x.state = .none) →
               bit (par c 0) 4 = false ∨ (partOf u p).exist = true →
               let leave := maskBits 16 ((partOf u p).groups &&& (0xFFFF ^^^ q.groups))
               let v := endTraceIn ((partOf u p).groups ^^^ q.groups) u
               exec (.ctxPartition c rivals) s = .next (if leave = [] then partApply ⟨c, p, q, [], 0⟩ v
                 else v.setSched { v.sched with partOps := v.sched.partOps ++ [⟨c, p, q, leave, leave.length⟩] }))))) ∧
       ((∀ x ∈ s.sched.ctxs, c ∉ x.pinCmds) →
         let mask := par c 1 + par c 2 * 2 ^ 64
         let gs := pinGroves (partOf u x.part) mask
         (∀ w, losesTo (cmdOrder c (pinOrder u c)) rivals = some w → exec (.ctxPin c rivals) s = .next (complete c stConflict 0 (winnerWord w) u)) ∧
         (losesTo (cmdOrder c (pinOrder u c)) rivals = none →
           let bad := bits (par c 0) 63 15 ≠ 0 ∨ id = 0 ∨ ctxExists u id = false ∨ (fromAdmin c = false ∧ c.ctx ≠ id) ∨
             2 ^ (partGroves (partOf u x.part)).length ≤ mask
           (bad → exec (.ctxPin c rivals) s = .next (badPacket c 0 u)) ∧
           (¬bad → (x.state = .faulted ∨ x.state = .draining ∨ x.state = .drainingDeferred) →
             exec (.ctxPin c rivals) s = .next (complete c stNoResource 0 0 u)) ∧
           (¬bad → (x.state = .resident ∨ x.state = .out) →
             (bit (par c 0) 14 = false → exec (.ctxPin c rivals) s =
               .next (completeOk c 0 (updCtx id (fun x => { x with pinned := false, pinMask := 0 }) u))) ∧
             (bit (par c 0) 14 = true → (resLimit u ≤ (u.sched.ctxs.filter fun y => y.pinned && y.id != id).length + 1 ∨
                 ∃ k ∈ gs, reservedForOther u id k = true) → exec (.ctxPin c rivals) s = .next (complete c stNoResource 0 0 u)) ∧
             (bit (par c 0) 14 = true → (u.sched.ctxs.filter fun y => y.pinned && y.id != id).length + 1 < resLimit u →
               (∀ k ∈ gs, reservedForOther u id k = false) → exec (.ctxPin c rivals) s = .next (
                 let v := updCtx id (fun x => { x with pinned := true, pinMask := mask, pinCmds := x.pinCmds ++ [c] }) u
                 pinSettle id ((holders v id gs).foldl (fun s m => preempt m.ctx false s) v))))))) ∧
     (∀ pasid, hostServed s Reg.CTX_ADMIN_CTL = true →
       ((getCtx s 0).state = .none → exec (.adminCreate pasid) s =
         .next (adminRead (regPut Reg.CTX_ADMIN_CTL (pasid % 2 ^ 20 + 2 ^ 20) s))) ∧
       ((getCtx s 0).state = .draining → exec (.adminCreate pasid) s = .next (updCtx 0 (fun x => { x with state := .drainingDeferred })
         (regPut Reg.CTX_ADMIN_CTL (pasid % 2 ^ 20 + 3 * 2 ^ 20) s))) ∧
       ((getCtx s 0).state = .resident → exec (.adminCreate pasid) s = .next s) ∧
       (let u := regField Reg.CTX_ADMIN_CTL 20 0 (pasid % 2 ^ 20) s
        ((getCtx u 0).state = .none → exec (.adminDestroy pasid) s = .next u) ∧
        ((getCtx u 0).state = .resident → exec (.adminDestroy pasid) s = .next (tear 0 none .draining u)))) ∧
     (∀ ctx, isOn s = true →
       let x := getCtx s ctx
       ((x.state ≠ .draining ∧ x.state ≠ .drainingDeferred ∨ tearFinished s ctx = false) → exec (.contextTeardownEnd ctx) s = .next s) ∧
       (x.state = .draining → tearFinished s ctx = true → ctx ≠ 0 → x.deferred = [] → exec (.contextTeardownEnd ctx) s = .next (
         let u := clearWork (.record ctx) s
         let u := freeCtxMemory x (u.setSched { u.sched with ctxs := u.sched.ctxs.filter fun y => y.id != ctx })
         concludeDisables x.destroys
           (x.records.foldl (fun s p => if p.silent then s else divert p.record 3 (x.cpl.base + 32 * x.cpl.prod) s) u)))))

/-- R378, R387, R391: what `startCmd` and `complete` do, in which every command row begins and ends.
R383 to R386.
R386: the conditions, on 64-bit words. -/
def Obligations.CommandsStartWaitAndEnd : Prop :=
  (∀ (s : State) (c : Cmd) (status fault result : Nat),
     (isStarted s c = true → startCmd c s = s) ∧
     (isStarted s c = false → (startCmd c s).crn.started = s.crn.started ++ [⟨c, s.now⟩]) ∧
     (isStarted s c = false → complete c status fault result s = s) ∧
     (isStarted s c = true → (∀ f ∈ s.crn.finishing, f.cmd ≠ c) →
       let f : Fin := ⟨c, status, fault, result, false⟩
       let u := leaveStarted f s
       (chainFires c.chainCond status = false → (∀ q, c.src = .ring q → c.quiet = false →
         complete c status fault result s = pushRecord { record := recordOf s f false, irq := c.irq || decide (0x10 ≤ status) } u) ∧
        (∀ d, c.src = .mgr d → c.quiet = false → complete c status fault result s = send d (.cmdCpl (recordOf s f false)) u) ∧
        (∀ q, c.src = .ring q → c.quiet = true → c.irq = false → status = stOk → complete c status fault result s = u)) ∧
       (chainFires c.chainCond status = true → ∀ r v,
         let w := s.setCrn { s.crn with finishing := (s.crn.finishing.filter fun x => x.cmd != c) ++ [f] }
         chainAcc (.finish c) c.ctx c.chain w = .ok (r, v) →
         complete c status fault result s = endAny f r.2 (countChain r (clearWork (.finish c) v))))) ∧
  (∀ (s : State) (c : Cmd), isOn s = true →
     let u := startCmd c s
     exec (.nop c) s = .next (completeOk c 0 u) ∧
     (1 < par c 0 → exec (.fence c) s = .next (badPacket c 0 u)) ∧
     (par c 0 ≤ 1 → fenceWaits u c = [] → exec (.fence c) s = .next (completeOk c 0 u)) ∧
     (par c 0 ≤ 1 → fenceWaits u c ≠ [] → exec (.fence c) s = .next u) ∧
     ((par c 1 = 0 ∨ 4096 < par c 1 ∨ c.data.length < par c 1) → exec (.writeInline c) s = .next (badPacket c 0 u)) ∧
     (1 ≤ par c 1 → par c 1 ≤ 4096 → par c 1 ≤ c.data.length →
       (∀ v, ctxWrite (.cmd c) c.ctx (par c 0) (c.data.take (par c 1)) u = .ok ((), v) →
         exec (.writeInline c) s = .next (completeOk c 0 (clearWork (.cmd c) v))) ∧
       (∀ f v, ctxWrite (.cmd c) c.ctx (par c 0) (c.data.take (par c 1)) u = .error (.fail f v) →
         exec (.writeInline c) s = .next (faultCmd c f (clearWork (.cmd c) v)))) ∧
     ((bit (par c 0) 56 = false ∨ par c 0 % 8 ≠ 0 ∨ 5 < bits (par c 3) 2 0 ∨ bits (par c 3) 31 3 ≠ 0) →
       exec (.waitValue c) s = .next (badPacket c 0 u)) ∧
     (bit (par c 0) 56 = true → par c 0 % 8 = 0 → bits (par c 3) 2 0 ≤ 5 → bits (par c 3) 31 3 = 0 →
       ∀ w v, ctxReadNat (.cmd c) c.ctx (par c 0) 8 u = .ok (w, v) →
       (waitHolds (bits (par c 3) 2 0) w (par c 1) (par c 2) = true →
         exec (.waitValue c) s = .next (completeOk c w (clearWork (.cmd c) v))) ∧
       (waitHolds (bits (par c 3) 2 0) w (par c 1) (par c 2) = false → exec (.waitValue c) s = .next (clearWork (.cmd c) v))) ∧
     (isStarted s c = true → c.opcode = 3 → ∀ w v, ctxReadNat (.cmd c) c.ctx (par c 0) 8 s = .ok (w, v) →
       (waitHolds (bits (par c 3) 2 0) w (par c 1) (par c 2) = true →
         exec (.waitValuePoll c) s = .next (completeOk c w (clearWork (.cmd c) v))) ∧
       (waitHolds (bits (par c 3) 2 0) w (par c 1) (par c 2) = false → exec (.waitValuePoll c) s = .next (clearWork (.cmd c) v))) ∧
     (∀ x, (s.crn.started.find? fun x => x.cmd == c) = some x → c.opcode = 3 → bits (par c 3) 63 32 ≠ 0 →
       exec (.waitValueTimeout c) s = .next (faultCmd c .watchdog
         (clearWork (.cmd c) (reachTime ((x.time + bits (par c 3) 63 32 * 256000) % 2 ^ 64) s)))) ∧
     (∀ x, (s.crn.started.find? fun x => x.cmd == c) = some x → c.opcode = 3 → bits (par c 3) 63 32 = 0 →
       exec (.waitValueTimeout c) s = .next s)) ∧
  (∀ w v m : W64,
     let a := w &&& m
     let b := v &&& m
     let holds := fun (cond : Nat) => waitHolds cond w.toNat v.toNat m.toNat
     (holds 0 = true ↔ a = b) ∧ (holds 1 = true ↔ a ≠ b) ∧ (holds 2 = true ↔ b.toNat ≤ a.toNat) ∧ (holds 3 = true ↔ a.toNat < b.toNat) ∧
     (holds 4 = true ↔ b.toInt ≤ a.toInt) ∧ (holds 5 = true ↔ a.toInt < b.toInt))

/-- R372, R407: DB_TAIL, DB_CPL_HEAD and UCL_POP.
R371, R376 to R380, R597: a ring is served when it is open and no ring of a higher class has a command that can start. -/
def Obligations.DoorbellsAndFetches : Prop :=
  (∀ (s : State) (ctx q value : Nat),
     (hostServed s 0x100000 = true → isReady s = true →
       (ringOf s ctx q = none → exec (.dbTail ctx q value) s = .next (count Reg.CRN_CNT_DB_IGNORED s)) ∧
       (∀ r, ringOf s ctx q = some r → exec (.dbTail ctx q value) s =
         .next (setRing ctx q { r with tail := bits value 19 0 % 2 ^ r.sizeLog } s)) ∧
       (ctxExists s ctx = false → exec (.dbCplHead ctx value) s = .next (count Reg.CRN_CNT_DB_IGNORED s)) ∧
       (ctxExists s ctx = true → exec (.dbCplHead ctx value) s =
         .next (updCtx ctx (fun x => { x with cpl := { x.cpl with head := bits value 19 0 % 2 ^ x.cpl.sizeLog } }) s))) ∧
     (hostServed s Reg.CRN_UCL_POP = true → bit value 0 = true → uclProd s ≠ uclCons s →
       exec (.uclPop value) s = .next (regField Reg.CRN_UCL_CONS 15 0 ((uclCons s + 1) % 65536) s)) ∧
     (hostServed s Reg.CRN_UCL_POP = true → (bit value 0 = false ∨ uclProd s = uclCons s) → exec (.uclPop value) s = .next s)) ∧
  (∀ (s u : State) (ctx q : Nat) (r : Ring), isOn s = true → ringOf s ctx q = some r →
     let t := clearWork (.fetch ctx q) u
     ((ringOpen s ctx q = false ∨ higherReady s q = true) → exec (.packetFetch ctx q) s = .next s) ∧
     (ringOpen s ctx q = true → higherReady s q = false →
       (∀ c head, fetchAcc ctx q r s = .ok (.start c head, u) → exec (.packetFetch ctx q) s = .next (startCmd c (moveHead ctx q head t))) ∧
       (∀ c head, fetchAcc ctx q r s = .ok (.bad c head, u) →
         exec (.packetFetch ctx q) s = .next (badPacket c 0 (startCmd c (moveHead ctx q head t)))) ∧
       (∀ c head f, fetchAcc ctx q r s = .ok (.indirect c head f, u) →
         exec (.packetFetch ctx q) s = .next (faultCmd c f (startCmd c (moveHead ctx q head t)))) ∧
       (∀ seq op n, fetchAcc ctx q r s = .ok (.undelimited seq op n, u) →
         exec (.packetFetch ctx q) s = .next (discardUnits ctx q seq op n r t)) ∧
       (fetchAcc ctx q r s = .ok (.holds, u) → exec (.packetFetch ctx q) s = .next t) ∧
       (∀ b f h, fetchAcc ctx q r s = .ok (.ringFault b f h, u) → exec (.packetFetch ctx q) s = .next (ringFetchFault ctx q b f h t))) ∧
     (∀ b f header, f = Flt.xlate ∨ f = .perm ∨ f = .bus →
       let seq := match header with
         | some (h : W64) => bits h.toNat 63 32
         | none => 0xFFFFFFFF
       let op := match header with
         | some (h : W64) => bits h.toNat 7 0
         | none => 0
       let v := pushRecord { record := { seq := seq, ctx := ctx, status := stFault, fault := f.code, ftime := s.now,
                                         result := r.head + b2n b * 2 ^ 20, cls := q, opcode := op }, irq := true } s
       exec (.ringFetchFault ctx q b f.code header) s = .next (
         if (getCtx v ctx).tearable then tear ctx (some f) .faulted (emit 0x09 129 ctx f.code 0x0B 0 v) else v)))

/-- R388 to R390, R406: COMPLETION_RECORD_WRITE and IRQ_HOLDOFF_EXPIRE.
R381, R451, R492: CMD and CMD_CPL. -/
def Obligations.RecordsAndManagerPackets : Prop :=
  (∀ (s : State) (ctx : Nat), isOn s = true →
     let x := getCtx s ctx
     let va := x.cpl.base + 32 * x.cpl.prod
     let popped := popRecord ctx s
     (∀ p ps, ctxExists s ctx = true → x.records = p :: ps →
       (p.silent = true → exec (.completionRecordWrite ctx) s = .next (ctxVector ctx popped)) ∧
       (p.silent = false → (x.cpl.prod + 1) % 2 ^ x.cpl.sizeLog = x.cpl.head → exec (.completionRecordWrite ctx) s = .next s) ∧
       (p.silent = false → (x.cpl.prod + 1) % 2 ^ x.cpl.sizeLog ≠ x.cpl.head →
         (bit x.cpl.base 56 = false → s.hl.up = false → exec (.completionRecordWrite ctx) s = .next (divert p.record 2 va popped)) ∧
         ((bit x.cpl.base 56 = true ∨ s.hl.up = true) →
           (∀ v, ctxWrite (.record ctx) ctx va (p.record.bytes x.cpl.phase) s = .ok ((), v) →
             exec (.completionRecordWrite ctx) s = .next (
               let t := count Reg.CRN_CNT_RECORDS (advanceProd ctx (popRecord ctx (clearWork (.record ctx) v)))
               if p.irq then ctxVector ctx t else t)) ∧
           (∀ f v, ctxWrite (.record ctx) ctx va (p.record.bytes x.cpl.phase) s = .error (.fail f v) →
             exec (.completionRecordWrite ctx) s = .next (divert p.record 1 va (popRecord ctx (clearWork (.record ctx) v))))))) ∧
     (let released := updCtx ctx (fun x => { x with cpl := { x.cpl with held := false, owed := false } }) s
      (x.cpl.held = true → x.cpl.owed = true → exec (.irqHoldoffExpire ctx) s = .next (ctxVector ctx released)) ∧
      (x.cpl.held = true → x.cpl.owed = false → exec (.irqHoldoffExpire ctx) s = .next released) ∧
      (x.cpl.held = false → exec (.irqHoldoffExpire ctx) s = .next s))) ∧
  (∀ (s : State) (h : Hdr),
     (∀ p, accepts h (.cmd p) s = true → exec (.cmd h p) s = .next (served h (.cmd p)
       (fun u => if p.length < 16 then count Reg.FAB_CNT_BAD_MSG u else managerPacket h.src p u) s)) ∧
     (∀ (p : List Byte) c v, 16 ≤ p.length → pkLength p ≠ 0 → pkLength p ≤ 265 → 16 * pkLength p ≤ p.length → packetOk (.manager h.src) p = true →
       readIndirect (.cmd (packetCmd (.mgr h.src) 0 p)) (.manager h.src) 0 (pkIndirect p) (packetCmd (.mgr h.src) 0 p)
         (s.setCrn { s.crn with packets := s.crn.packets ++ [(h.src, p)] }) = .ok (some c, v) →
       ∃ u, managerPacket h.src p s = startCmd c u) ∧
     (∀ p : List Byte, s.hl.loss.isSome = true → powered s = true → 16 ≤ p.length →
       exec (.cmd h p) s = .next (completeTop (packetCmd (.mgr h.src) 0 p) stHostLost 0 0
         (startCmd (packetCmd (.mgr h.src) 0 p) (inboxTake h (.cmd p) s)))) ∧
     (∀ r, accepts h (.cmdCpl r) s = true → exec (.cmdCpl h r) s = .next (served h (.cmdCpl r)
       (responded (fun m => m.dst == h.src && (match m.body with
         | .cmd p => pkSeq p == r.seq
         | _ => false)) id) s)))

/-- R393, R400, R401: LAUNCH, LAUNCH_GRAPH and GRAPH_NODE_START.
R399, R403 to R405: the commands on stored graphs. -/
def Obligations.LaunchesAndGraphs : Prop :=
  (∀ (s : State) (c : Cmd), isOn s = true →
     (let u := startCmd c s
      (launchBad u c = true → exec (.launch c) s = .next (badPacket c 0 u)) ∧
      (launchBad u c = false → (∀ n ∈ u.sched.nodes, n.cmd ≠ c) → ∃ n : Node,
        n.ctx = c.ctx ∧ n.cmd = c ∧ n.image = par c 0 ∧ n.pblock = par c 1 ∧ n.count = bits (par c 2) 13 0 + 1 ∧ n.step = par c 3 ∧
        n.seed = par c 4 ∧ n.state = .waiting ∧ n.groves = [] ∧
        exec (.launch c) s = .next (u.setSched { u.sched with nodes := u.sched.nodes ++ [n] }))) ∧
     (isStarted s c = false →
       let u := count Reg.CRN_CNT_GRAPH_LAUNCH (startCmd c s)
       ((c.ctx = 0 ∨ bits (par c 0) 31 10 ≠ 0 ∨ (par c 1 ≠ 0 ∧ bit (par c 1) 56 = false)) →
         exec (.launchGraph c) s = .next (badPacket c 0 u)) ∧
       (c.ctx ≠ 0 → bits (par c 0) 31 10 = 0 → (par c 1 = 0 ∨ bit (par c 1) 56 = true) →
         (enabledGraph u c = none → exec (.launchGraph c) s = .next (badPacket c 0 u)) ∧
         (∀ g, enabledGraph u c = some g → exec (.launchGraph c) s = .next (u.setCrn { u.crn with
           launches := u.crn.launches ++
             [{ id := u.crn.nextLaunch, cmd := c, graph := g.id, gen := g.cur, step := bits (par c 0) 63 32, argBase := par c 1 }]
           nextLaunch := u.crn.nextLaunch + 1 })))) ∧
     (∀ launch n l g gen node v, (s.crn.launches.find? fun x => x.id == launch) = some l → graphOf s l.cmd.ctx l.graph = some g →
       launchGen s l = some gen → gen.nodes[n]? = some node →
       (nodeReady s l n node = false → exec (.graphNodeStart launch n) s = .next s) ∧
       (nodeReady s l n node = true → launchArmed s l = false →
         let d := (nodeCmd l g gen n node).1
         let begun := fun (e : Cmd) (t : State) => startCmd e (countN Reg.CRN_CNT_IND_READ (nodeCmd l g gen n node).2
           (t.setCrn { t.crn with
             launches := updFirst (fun x => x.id == launch) (fun x => { x with started := x.started ++ [n] }) t.crn.launches }))
         (∀ e, readIndirect (.cmd d) .graph l.argBase (pkIndirect (nodePacket gen.packets node)) d s = .ok (some e, v) →
           exec (.graphNodeStart launch n) s = .next (begun (nodeLaunchParams l gen e) (clearWork (.cmd d) v))) ∧
         (readIndirect (.cmd d) .graph l.argBase (pkIndirect (nodePacket gen.packets node)) d s = .ok (none, v) →
           exec (.graphNodeStart launch n) s = .next (badPacket d 0 (begun d (clearWork (.cmd d) v))))))) ∧
  (∀ (s : State) (c : Cmd), isOn s = true → c.ctx ≠ 0 →
     let u := startCmd c s
     let id := bits (par c 0) 9 0
     (graphOf u c.ctx id = none → bits (par c 0) 63 10 = 0 → par c 1 % 64 = 0 →
       (∀ x v, imageRead (.cmd c) c.ctx (par c 1) u = .ok (x, v) → exec (.storeGraph c) s = .next (storeImage c id x (clearWork (.cmd c) v))) ∧
       (∀ f v, imageRead (.cmd c) c.ctx (par c 1) u = .error (.fail f v) →
         exec (.storeGraph c) s = .next (faultCmd c f (dropGraph c.ctx id (clearWork (.cmd c) v))))) ∧
     (∀ g, graphOf u c.ctx id = some g → g.fn.state = .enabled → exec (.storeGraph c) s = .next (completeOk c 0 u)) ∧
     (∀ g, graphOf u c.ctx id = some g → g.fn.state = .draining → exec (.storeGraph c) s = .next (complete c stDeferred 0 0
       (putGraph c.ctx { g with fn := { g.fn with state := .drainingDeferred, deferred := [c] } } u))) ∧
     (bits (par c 0) 63 10 = 0 → graphOf u c.ctx (par c 0) = none → exec (.retireGraph c) s = .next (completeOk c 0 u)) ∧
     (∀ g, bits (par c 0) 63 10 = 0 → graphOf u c.ctx (par c 0) = some g → g.fn.state = .enabled →
       exec (.retireGraph c) s = .next (freeGens faultCmd c.ctx g.id
         (putGraph c.ctx { g with fn := { g.fn with state := .draining, disables := [c] } } u))) ∧
     (∀ g gen, bits (par c 0) 31 11 = 0 → bits (par c 1) 63 13 = 0 → enabledGraph u c = some g →
       (g.gens.find? fun n => n.num == g.cur) = some gen →
       (bit (par c 0) 10 = true → exec (.patchGraph c) s = .next (patchSlots c g (par c 1) u)) ∧
       (bit (par c 0) 10 = false → exec (.patchGraph c) s = .next (patchCopy c g gen (bits (par c 0) 63 32) (par c 1) u))))

/-- R403, R404: PATCH_GRAPH of slots completes with the generation unchanged; a patch with an entry that names no slot changes nothing. -/
def Obligations.GraphSlotPatch : Prop :=
  ∀ (s : State) (c : Cmd) (g : Graph) (count : Nat),
    let entry := fun (i : Nat) => bits (leAt c.data (16 * i) 8) 9 0
    let value := fun (i : Nat) => leAt c.data (16 * i + 8) 8
    1 ≤ count → count ≤ 256 → 16 * count ≤ c.data.length →
    ((∃ i, i < count ∧ g.slots.length ≤ entry i) → patchSlots c g count s = badPacket c 0 s) ∧
    ((∀ i, i < count → entry i < g.slots.length) → ∃ slots : List (Nat × Nat × Nat),
      patchSlots c g count s = completeOk c g.cur (putGraph c.ctx { g with slots := slots } s) ∧
      slots.length = g.slots.length ∧
      (∀ n a b v, g.slots[n]? = some (a, b, v) →
        ((∀ i, i < count → entry i ≠ n) → slots[n]? = some (a, b, v)) ∧
        (∀ i, i < count → entry i = n → (∀ j, i < j → j < count → entry j ≠ n) → slots[n]? = some (a, b, value i))))

/-- R4, R5, R594: an aligned 32-bit host write of a register without an effect of its own. A bit of the rw field takes the value written,
one of an RWS field only while the SEAL fuse is not blown, a bit of an rw1c field written as 1 clears, every other bit keeps its value.
No other register and no other part of the state changes. -/
def Obligations.HostRegisterBits : Prop :=
  ∀ (s : State) (off value : Nat) (r : RegRow), hostServed s off = true → regRow off = some r → plainRegister r.off = true →
    r.width = 32 → off % 4 = 0 → off < 0x4000000 → (off < 0x20000 ∨ 0x28000 ≤ off) →
    ∃ t, exec (.hostRegisterWrite off 4 value) s = .next t ∧
      (Registers.wf s.regs = true → ∀ n, n < 32 → bit (regGet t off) n =
        if bit r.rw n || (bit r.rws n && !isSealed s) then bit value n
        else if bit r.rw1c n && bit value n then false else bit (regGet s off) n) ∧
      (∀ o, o ≠ off → regGet t o = regGet s o) ∧
      t = s.setRegs t.regs

/-- R5, R6, R541, R574: HOST_REGISTER_WRITE and BAD_BAR_ACCESS.
R37, R453: register accesses between devices. -/
def Obligations.RegisterAccesses : Prop :=
  (∀ (s : State) (off size value : Nat),
     (hostServed s off = false → exec (.hostRegisterWrite off size value) s = .next s) ∧
     (hostServed s off = true → accessOk off size = false →
       exec (.hostRegisterWrite off size value) s = .next (count Reg.HL_CNT_BAD_ACCESS s)) ∧
     (hostServed s off = true → off % 4 = 0 → (off < 0x20000 ∨ 0x28000 ≤ off) → regRow off = none →
       (4 ≤ off → ∀ r, regRow (off - 4) = some r → r.width ≠ 64) → exec (.hostRegisterWrite off 4 value) s = .next s) ∧
     (hostServed s off = true → off % 8 = 0 → off < 0x4000000 → (∀ r, regRow off = some r → r.width ≠ 64) →
       exec (.hostRegisterWrite off 8 value) s =
         .next (wordWrite hostEffect (off + 4) (value / 2 ^ 32 % 2 ^ 32) (wordWrite hostEffect off (value % 2 ^ 32) s))) ∧
     (∀ r, hostServed s off = true → off % 8 = 0 → off < 0x4000000 → regRow off = some r → r.width = 64 →
       exec (.hostRegisterWrite off 8 value) s = .next (hostEffect off (value % 2 ^ 64) s)) ∧
     (∀ write, s.hl.up = true → s.hl.loss = none →
       (accessOk off size = false → exec (.badBarAccess write off size) s = .next (count Reg.HL_CNT_BAD_ACCESS s)) ∧
       (accessOk off size = true → exec (.badBarAccess write off size) s = .next s))) ∧
  (∀ (h : Hdr) (off width tag value : Nat) (s : State),
     (accepts h (.regWrite off width tag value) s = true → exec (.regWrite h off width tag value) s = .next (
       served h (.regWrite off width tag value) (fun u =>
         if isMgrOf u h = false ∨ managerOwns off = false ∨ (width = 8 ∧ (regRow (off + 4)).isSome = true ∧ managerOwns (off + 4) = false) then
           send h.src (.regRsp tag stFault Flt.perm.code 0) u
         else if accessOk off width = false then send h.src (.regRsp tag stFault Flt.illegal.code 0) u
         else send h.src (.regRsp tag 0 0 0) (accessWrite regEffect off width value u)) s)) ∧
     (accepts h (.regRead off width tag) s = true → off ≠ Reg.MEM_1500_DATA → exec (.regRead h off width tag) s = .next (
       served h (.regRead off width tag) (fun u =>
         if isMgrOf u h = false ∧ isDepOf u h = false then send h.src (.regRsp tag stFault Flt.perm.code 0) u
         else if accessOk off width = false ∨ 0x4000000 ≤ off then send h.src (.regRsp tag stFault Flt.illegal.code 0) u
         else send h.src (.regRsp tag 0 0 (accessRead u off width)) u) s)) ∧
     (∀ status fault, accepts h (.regRsp tag status fault value) s = true → exec (.regRsp h tag status fault value) s = .next (
       served h (.regRsp tag status fault value) (responded (isRegReq h.src tag) fun u =>
         if status = 0 then u.setFab { u.fab with regReads := u.fab.regReads ++ [(tag, value)] } else u) s)) ∧
     (∀ o, managerOwns o = true ↔ ∃ r, regRow o = some r ∧
       (r.off = Reg.TBL_GRAFT_CFG ∨ r.off = Reg.FAB_MGR_CFG ∨ r.off = Reg.CHORD_CTL 0)))

/-- R84, R89, R91 to R94, R108, R110, R111, R287: the requester's own commands and events. -/
def Obligations.Lookups : Prop :=
  ∀ (s : State) (c : Cmd), isOn s = true →
    (let u := startCmd c s
     lookOf u c = none →
     (lkParamsBad u c = true → exec (.lookup c) s = .next (badPacket c 0 u)) ∧
     (lkParamsBad u c = false → ∀ v,
       (blockRead c u = .ok (none, v) → exec (.lookup c) s = .next (badPacket c 0 (clearWork (.cmd c) v))) ∧
       (∀ gs, blockRead c u = .ok (some gs, v) → exec (.lookup c) s = .next (
         let t := (gs.map fun g => sgTable g.desc).eraseDups.foldl (fun s t => dirRead [c] t s) (clearWork (.cmd c) v)
         if t.hl.loss.isSome then t
         else if (match lkRing c with | some r => ringIdFree t c.ctx r (.cmd c) | none => true) then lookStart c gs t
         else t.setXch { t.xch with looks := t.xch.looks ++ [{ cmd := c, waitsRing := true }] })) ∧
       (∀ f, blockRead c u = .error (.fail f v) → exec (.lookup c) s = .next (faultAt 0x0A 0 c f (clearWork (.cmd c) v))))) ∧
    (∀ l r, lookOf s c = some l → lkRing c = some r → l.waitsRing = true →
      (ringIdFree s c.ctx r (.cmd c) = true → exec (.lookupRingStart c) s = .next (lookup c (dropLook c s))) ∧
      (ringIdFree s c.ctx r (.cmd c) = false → exec (.lookupRingStart c) s = .next s)) ∧
    (∀ l, lookOf s c = some l → l.written = true →
      (∀ r, l.ring = some r → (ringIdOf s c.ctx r).held = []) →
      let u := dropLook c (releaseRing l s)
      (l.fault = none → exec (.lookupOutputWritten c) s = .next (complete c (if l.missing.isEmpty then stOk else stPartial) 0
        (l.missing.length + min l.hedged 0xFFFF * 2 ^ 32 + min l.saturated 0xFFFF * 2 ^ 48) (countN Reg.XCH_CNT_SATURATE l.saturated u))) ∧
      (∀ f, l.fault.bind Flt.ofCode = some f → exec (.lookupOutputWritten c) s = .next (faultAt 0x0A 0 c f u))) ∧
    (∀ l, lookOf s c = some l → l.written = false → exec (.lookupOutputWritten c) s = .next s) ∧
    (∀ id b, batchOf s id = some b → b.due = false →
      let u := lookPump (updBatchOf id (fun b => { b with due := true }) s)
      exec (.batchFreeWindowExpire id) s = .next (match batchOf u id with
        | some b => if b.state.contains 0 then u else partsEnded id (ownId u) false u
        | none => u)) ∧
    (∀ id, batchOf s id = none → exec (.batchFreeWindowExpire id) s = .next s) ∧
    (∀ id b l, batchOf s id = some b → lookOf s b.cmd = some l →
      let u := reachTime ((b.sentAt + l.hedge * 256) % 2 ^ 64) s
      let may := b.sent = true ∧ b.copyOf = none ∧ l.hedge ≠ 0 ∧ l.exact = false ∧ b.hedged = false ∧ b.redirected = false ∧
        b.replica ≠ 0xFFFF ∧ servesAsOwner u b.replica = true ∧ b.state.contains 0 = true
      (¬may → exec (.hedgeDelayExpire id) s = .next u) ∧
      (may → bits (regGet u Reg.XCH_HEDGE_CFG) 15 0 ≤ hedgesSent u →
        exec (.hedgeDelayExpire id) s = .next (count Reg.XCH_CNT_HEDGE_SUPPRESSED u)) ∧
      (may → hedgesSent u < bits (regGet u Reg.XCH_HEDGE_CFG) 15 0 → exec (.hedgeDelayExpire id) s = .next (
        let v := count Reg.XCH_CNT_HEDGES (u.setXch { u.xch with
          window := match u.xch.window with | x :: xs => (x + 1) :: xs | [] => [] })
        copyBatch b b.replica true (setLook { l with hedged := l.hedged + 1 } (updBatchOf id (fun b => { b with hedged := true }) v))))) ∧
    (∀ l, lookOf s c = some l → l.waitsRing = false →
      let mine := s.xch.batches.filter fun b => b.cmd == c
      let u := reachTime l.deadline s
      let v := u.setXch { u.xch with batches := u.xch.batches.map fun b =>
        if b.cmd == c then { b with state := b.state.map fun x => if x == 0 then 2 else x } else b }
      let w := (mine.filter fun b => b.copyOf.isNone && b.state.contains 0).foldl
        (fun s b => batchEndRecord { b with state := [2] } b.dest false s) v
      (lookOf w c).map (·.waitsRing) = some false →
      exec (.lookupDeadline c) s = .next (
        let x := lookFinish c w
        overlayAcks (lookPump (x.setXch { x.xch with batches := x.xch.batches.filter fun b => b.cmd != c }))))

/-- R98, R105, R107, R109, R121, R122, R154: the messages and events of the lookup exchange. -/
def Obligations.LookupBatches : Prop :=
  ∀ (s : State) (h : Hdr),
    (∀ m, accepts h (.batch m) s = true → exec (.batch h m) s = .next (served h (.batch m) (batchArrives m) s)) ∧
    (∀ m, batchLate s m = true → batchArrives m s = count Reg.XCH_CNT_OWNER_EXPIRED s) ∧
    (∀ m, batchLate s m = false →
      let u := (m.segs.map (·.table)).eraseDups.foldl (fun s t => dirRead [] t s) s
      u.hl.loss = none →
      (batchGone u m = true →
        batchArrives m s = send m.requester (.epochGone m.id (ownId u)) (count Reg.TBL_CNT_EPOCH_NOTICE u)) ∧
      (batchGone u m = false → batchArrives m s =
        let v := (fetchRows u m).foldl (fun s f => send f.2 (.rowFetch f.1 m.id) (count Reg.TBL_CNT_FWD_LOOKUP s)) u
        ownerPool { msg := m, start := v.now, fetch := (fetchRows u m).map (·.1) } (dropOwned m.requester m.id v))) ∧
    (isOn s = true → ∀ requester id n o, ownedOf s requester id = some o →
      (batchLate s o.msg = true → exec (.ownerFragmentReady requester id n) s =
        .next (count Reg.XCH_CNT_OWNER_EXPIRED (dropOwned requester id s))) ∧
      (batchLate s o.msg = false → ∀ r rest, o.results.drop o.next = r :: rest →
        let rs := fragTake r.fault (min n 65535) (2 ^ 20 - 16) (r :: rest)
        (rs = [] → exec (.ownerFragmentReady requester id n) s = .next s) ∧
        (rs ≠ [] →
          let u := send requester (.fragment
            { batch := id, firstPart := o.next, responder := ownId s, fault := r.fault.isSome, faultCode := r.fault.getD 0,
              saturated := min 0xFFFF ((rs.map (·.saturated)).foldl (· + ·) 0), results := rs.map (·.data) }) s
          (o.results.length ≤ o.next + rs.length → exec (.ownerFragmentReady requester id n) s =
            .next (evt 128 0x42 ((u.now + 2 ^ 64 - o.start) % 2 ^ 64) 1 none (dropOwned requester id u))) ∧
          (o.next + rs.length < o.results.length → exec (.ownerFragmentReady requester id n) s =
            .next (u.setXch { u.xch with owned := u.xch.owned.map fun x =>
              if x.msg.requester == requester && x.msg.id == id then { x with next := x.next + rs.length } else x })))) ∧
      exec (.ownerBatchDeadline requester id) s =
        .next (count Reg.XCH_CNT_OWNER_EXPIRED (dropOwned requester id (reachTime o.msg.deadline s)))) ∧
    (∀ m, accepts h (.fragment m) s = true → exec (.fragment h m) s = .next (served h (.fragment m) (fragArrives m) s)) ∧
    (∀ m, batchOf s m.batch = none → fragArrives m s = count Reg.XCH_CNT_LATE_DISCARD s) ∧
    (∀ m b, batchOf s m.batch = some b → batchLate s b.msg = true → fragArrives m s = count Reg.XCH_CNT_LATE_DISCARD s) ∧
    (∀ m b, batchOf s m.batch = some b → batchLate s b.msg = false →
      let r := (List.range m.results.length).foldl (fun acc i => fragPart b m i acc) ((0, 0), s)
      (r.1.1 = 0 → r.1.2 = 0 → fragArrives m s = r.2) ∧
      (r.1.1 = 0 → r.1.2 ≠ 0 → fragArrives m s = count Reg.XCH_CNT_DUP_DISCARD r.2) ∧
      (r.1.1 ≠ 0 → m.fault = false →
        let u := if b.msg.hedge then countN Reg.XCH_CNT_HEDGE_WINS r.1.1 r.2 else r.2
        let v := evt 128 0x41 ((u.now + 2 ^ 64 - b.sentAt) % 2 ^ 64) r.1.1 (eventCtx b.cmd) u
        ∀ l, lookOf v b.cmd = some l → fragArrives m s =
          let w := setLook { l with saturated := l.saturated + m.saturated } v
          partsEnded (origOf w b).id m.responder false w)) ∧
    (∀ id responder, accepts h (.epochGone id responder) s = true →
      exec (.epochGone h id responder) s = .next (served h (.epochGone id responder) (goneArrives id responder) s)) ∧
    (∀ id responder b, batchOf s id = some b → batchLate s b.msg = false → (origOf s b).state.contains 0 = true →
      goneArrives id responder s = partsEnded (origOf s b).id responder true
        (missParts (origOf s b).id ((List.range b.refs.length).map b.origPart)
          (updBatchOf (origOf s b).id (fun x => { x with redirected := true }) s))) ∧
    (∀ id, accepts h (.cancel id) s = true → exec (.cancel h id) s = .next (served h (.cancel id)
      (fun u => u.setXch { u.xch with owned := u.xch.owned.filter fun o => !(o.msg.requester == h.src && o.msg.id == id) }) s))

/-- R126, R128, R129 steps 1 to 3, R131, R132: the beginning of a publication on the manager and on a member.
R123, R124, R129 steps 4 to 8, R130, R134, R136: a table's versions after their preparation. -/
def Obligations.TableVersionsAndPublication : Prop :=
  (∀ (s : State),
     (∀ c, isOn s = true →
       let u := startCmd c s
       let lead := bits (par c 0) 63 32
       let n := bits (par c 2) 31 0
       let bad := isManager u = false ∨ bits (par c 2) 63 32 ≠ 0 ∨ lead < 100 ∨ 1000000 < lead ∨ n ≠ (domainMembers u).length
       (bad → exec (.publishTable c) s = .next (badPacket c 0 u)) ∧
       (¬bad → (∀ p ∈ u.tbl.pubs, p.cmd ≠ some c) →
         let t := bits (par c 0) 15 0
         let e := bits (par c 0) 31 16
         let v := dirRead [c] t u
         v.hl.loss = none → ∀ l w, ctxRead (.cmd c) c.ctx (par c 1) (80 * n) v = .ok (l, w) →
         let z := clearWork (.cmd c) w
         let rs := (List.range n).map fun i => slice (80 * i) 80 l
         ((recordsBad z t e rs || pubEpochBad z t e) = true → exec (.publishTable c) s = .next (badPacket c 0 z)) ∧
         ((recordsBad z t e rs || pubEpochBad z t e) = false →
           ((pubOf z t).isSome = true → exec (.publishTable c) s = .next (complete c stNoResource 0 (0xFFFF + 5 * 2 ^ 16) z)) ∧
           (pubOf z t = none →
             let x := (z.now + lead * 256000) % 2 ^ 64
             exec (.publishTable c) s = .next (rs.foldl (fun s r => send (recDev r) (.prepare t e x (recDesc r)) s)
               (z.setTbl { z.tbl with pubs := z.tbl.pubs ++
                 [{ cmd := some c, table := t, epoch := e, time := x, reply := (x + 2 ^ 64 - lead * 256000 / 2) % 2 ^ 64 }] })))))) ∧
     (∀ h t e time desc, accepts h (.prepare t e time desc) s = true →
       exec (.prepare h t e time desc) s = .next (served h (.prepare t e time desc) (prepareArrives h t e desc) s)) ∧
     (∀ h t e desc, let u := dirRead [] t s
       u.hl.loss = none →
       (∀ i, findSlot u t (fun st _ => st == .pending) = some i →
         (tdEpoch (slotDesc u t i) ≠ e → prepareArrives h t e desc s = send h.src (.refuse t e 5) u) ∧
         (tdEpoch (slotDesc u t i) = e → slotDesc u t i = padTo 64 desc → prepareArrives h t e desc s = send h.src (.ready t e) u) ∧
         (tdEpoch (slotDesc u t i) = e → slotDesc u t i ≠ padTo 64 desc → prepareArrives h t e desc s = send h.src (.refuse t e 1) u)) ∧
       (findSlot u t (fun st _ => st == .pending) = none →
         (∀ r, prepareReason u t e desc = some r → prepareArrives h t e desc s = send h.src (.refuse t e r) u) ∧
         (∀ i, prepareReason u t e desc = none → findSlot u t (fun st _ => st == .empty) = some i →
           let v := setSlot t i .pending (setSlotDesc t i desc u)
           prepareArrives h t e desc s = send h.src (.ready t e) (setDirWord t 0 (setBits (dirWord v t 0) 47 32 e) v)))) ∧
     (∀ h t e, accepts h (.ready t e) s = true → exec (.ready h t e) s = .next (served h (.ready t e) (responded (fun m =>
       m.dst == h.src && (match m.body with | .prepare a b .. => a == t && b == e | _ => false)) (readyArrives h t e)) s)) ∧
     (∀ h t e p, pubOf s t = some p →
       (p.epoch ≠ e ∨ h.src ∈ p.ready → readyArrives h t e s = s) ∧
       (p.epoch = e → h.src ∉ p.ready →
         let q := { p with ready := p.ready ++ [h.src] }
         let u := setPub q s
         ((p.committed = true ∨ ∃ m ∈ domainMembers u, m ∉ q.ready) → readyArrives h t e s = u) ∧
         (p.committed = false → (∀ m ∈ domainMembers u, m ∈ q.ready) → readyArrives h t e s =
           mgrCopy (.publication p.table p.epoch p.time) (sendCommit p.table p.epoch p.time) (setPub { q with committed := true } u)))) ∧
     (∀ h t e reason, accepts h (.refuse t e reason) s = true → exec (.refuse h t e reason) s = .next (served h (.refuse t e reason)
       (responded (fun m => m.dst == h.src && (match m.body with | .prepare a b .. => a == t && b == e | _ => false))
         (refuseArrives h t e reason)) s)) ∧
     (∀ h t p reason, pubOf s t = some p → p.committed = false → refuseArrives h t p.epoch reason s =
       pubEnd p 2 (if reason = 1 then stBadPacket else stNoResource) (h.src + reason * 2 ^ 16) (sendAll (domainMembers s) (.abort p.table p.epoch) s)) ∧
     (∀ t p, isOn s = true → pubOf s t = some p →
       (p.committed = true → exec (.publishReplyDeadline t) s = .next s) ∧
       (p.committed = false → exec (.publishReplyDeadline t) s = .next (
         let u := reachTime p.reply s
         pubEnd p 2 stNoResource (0xFFFF + 4 * 2 ^ 16) (sendAll (domainMembers u) (.abort p.table p.epoch) u))))) ∧
  (∀ (s : State) (h : Hdr) (t e : Nat),
     (∀ x, accepts h (.commit t e x) s = true → exec (.commit h t e x) s = .next (served h (.commit t e x) (commitArrives t e x) s)) ∧
     (∀ x, (findSlot s t fun st d => st == .pending && tdEpoch d == e).isSome = true →
       (ahead s x = true → commitArrives t e x s = setWork { workOf s t with commit := some (e, x) } s) ∧
       (ahead s x = false → s.now % 2 ^ 64 ≠ x % 2 ^ 64 → commitArrives t e x s = flipTable t e (count Reg.TBL_CNT_LATE_COMMIT s)) ∧
       (ahead s x = false → s.now % 2 ^ 64 = x % 2 ^ 64 → commitArrives t e x s = flipTable t e s)) ∧
     (∀ x, isOn s = true → (workOf s t).commit = some (e, x) → exec (.commitTimeReached t) s = .next (flipTable t e (reachTime x s))) ∧
     (isOn s = true → (workOf s t).commit = none → exec (.commitTimeReached t) s = .next s) ∧
     (∀ i, findSlot s t (fun st d => st == .pending && tdEpoch d == e) = some i → flipTable t e s =
       let u := match currentSlot s t with
         | some j => setSlot t j .previous s
         | none => s
       let v := setDirWord t 2 u.now (setSlot t i .current u)
       oweDrain t e (setWork { workOf v t with commit := none } v)) ∧
     (accepts h (.abort t e) s = true → exec (.abort h t e) s = .next (served h (.abort t e) (fun u =>
       match findSlot u t fun st d => st == .pending && tdEpoch d == e with
       | some i => setWork { workOf u t with commit := none } (setSlot t i .empty u)
       | none => u) s)) ∧
     (isOn s = true →
       (stampedWork s t e = true → exec (.memberDrainDone t e) s = .next s) ∧
       (stampedWork s t e = false → e ∈ (workOf s t).drains → e ∉ (workOf s t).localDrains →
         let u := setWork { workOf s t with drains := (workOf s t).drains.filter fun x => x != e } s
         (workOf (send s.fab.mgrId (.drained t e false) u) t).localDrains.contains e = false →
         exec (.memberDrainDone t e) s = .next (send s.fab.mgrId (.drained t e false) u)) ∧
       (stampedWork s t e = false → e ∉ (workOf s t).drains → e ∈ (workOf s t).localDrains →
         exec (.memberDrainDone t e) s = .next (setWork { workOf s t with
           localDrains := (workOf s t).localDrains.filter fun x => x != e, drops := (workOf s t).drops ++ [e] } s))) ∧
     (∀ none, accepts h (.drained t e none) s = true →
       exec (.drained h t e none) s = .next (served h (.drained t e none) (drainedArrives h t e none) s)) ∧
     (accepts h (.drop t e) s = true → exec (.drop h t e) s = .next (served h (.drop t e) (fun u =>
       if heldSlot u t e (fun st => st == .previous || st == .retiring) = none then u
       else setWork { workOf u t with drops := if e ∈ (workOf u t).drops then (workOf u t).drops else (workOf u t).drops ++ [e] } u) s)) ∧
     (isOn s = true →
       (((workOf s t).drops.contains e = false ∨ ownerWork s t e = true) → exec (.ownerEpochWorkEnd t e) s = .next (tableCheck t s)) ∧
       ((workOf s t).drops.contains e = true → ownerWork s t e = false →
         let u := setWork { workOf s t with drops := (workOf s t).drops.filter fun x => x != e } s
         ∀ i, heldSlot u t e (fun st => st == .previous || st == .retiring) = some i →
         exec (.ownerEpochWorkEnd t e) s = .next (tableCheck t (emptySlot t i u)))) ∧
     (∀ time, accepts h (.retire t time) s = true → exec (.retire h t time) s = .next (served h (.retire t time)
       (fun u => setWork { workOf u t with retireAt := some time } u) s)) ∧
     (∀ x, isOn s = true → (workOf s t).retireAt = some x → exec (.retireTimeReached t) s = .next (retireNow t (reachTime x s))) ∧
     (∀ c, isOn s = true →
       let t := bits (par c 0) 15 0
       let u := startCmd c s
       (bits (par c 0) 63 17 ≠ 0 → exec (.retireTable c) s = .next (badPacket c 0 u)) ∧
       (bits (par c 0) 63 17 = 0 → bit (par c 0) 16 = false → (dirRead [c] t u).hl.loss = none →
         exec (.retireTable c) s = .next (retireLocal c (dirRead [c] t u))) ∧
       (bits (par c 0) 63 17 = 0 → bit (par c 0) 16 = true → isManager u = false → exec (.retireTable c) s = .next (badPacket c 0 u)) ∧
       (bits (par c 0) 63 17 = 0 → bit (par c 0) 16 = true → isManager u = true → c ∉ u.tbl.waitRetire →
         (∀ r ∈ u.tbl.retires, c ∉ r.cmds) →
         ((pubOf u t).isSome = true → exec (.retireTable c) s = .next (u.setTbl { u.tbl with waitRetire := u.tbl.waitRetire ++ [c] })) ∧
         (pubOf u t = none → exec (.retireTable c) s = .next (retireDomain c u))) ∧
       (c ∈ s.tbl.waitRetire →
         ((pubOf s t).isSome = true → exec (.retireAfterPublish c) s = .next s) ∧
         (pubOf s t = none → exec (.retireAfterPublish c) s =
           .next (retireDomain c (s.setTbl { s.tbl with waitRetire := s.tbl.waitRetire.filter fun x => x != c })))) ∧
       ((∀ x ∈ s.crn.fresh, x.1 ≠ c) →
         let v := dirRead [c] t u
         v.hl.loss = none →
         (bits (par c 0) 63 16 ≠ 0 → exec (.loadTable c) s = .next (badPacket c 0 v)) ∧
         (bits (par c 0) 63 16 = 0 → findSlot v t (fun st _ => st == .pending) = none →
           ((tableFn v t).state = .disabled → exec (.loadTable c) s = .next (
             runAcc (.cmd c) (ctxRead (.cmd c) c.ctx (par c 1) 64) (loadWith c) (faultCmd c) v)) ∧
           ((tableFn v t).state = .enabled → exec (.loadTable c) s = .next (completeOk c 0 v)) ∧
           ((tableFn v t).state = .draining → exec (.loadTable c) s = .next (complete c stDeferred 0 0
             (setTableFn t { tableFn v t with state := .drainingDeferred, deferred := [c] } v)))))))

/-- R137 to R139, R143 to R145, R151, R154: updates of rows.
R146, R148, R149: SKETCH_DECAY and GRAFT_ROW. -/
def Obligations.RowUpdatesAndGraft : Prop :=
  (∀ (s : State) (h : Hdr),
     (∀ c, isOn s = true →
       let u := startCmd c s
       let t := bits (par c 0) 15 0
       (∀ x ∈ u.tbl.upds, x.cmd ≠ c) →
       let bad := bits (par c 0) 63 40 ≠ 0 ∨ bit (par c 0) 35 = true ∨ bit (par c 0) 39 = true ∨ bits (par c 1) 63 32 ≠ 0 ∨
         bits (par c 2) 63 48 ≠ 0 ∨ par c 1 = 0 ∨ 65536 < par c 1
       (bad → exec (.updateRows c) s = .next (badPacket c 0 u)) ∧
       (¬bad → let v := dirRead [c] t u
         v.hl.loss = none →
         let e := if bit (par c 0) 32 then ((currentDesc v t).map tdEpoch).getD 0 else bits (par c 0) 31 16
         (updDesc v t e = none → exec (.updateRows c) s = .next (badPacket c 0 v)) ∧
         (∀ d w, updDesc v t e = some d →
           (updRead c d v = .ok (none, w) → exec (.updateRows c) s = .next (badPacket c 0 (clearWork (.cmd c) w))) ∧
           (∀ rows deltas, updRead c d v = .ok (some (rows, deltas), w) → (∃ x ∈ rows, tdRows d ≤ x) →
             exec (.updateRows c) s = .next (badPacket c 0 (clearWork (.cmd c) w))) ∧
           (∀ rows deltas, updRead c d v = .ok (some (rows, deltas), w) → (∀ x ∈ rows, x < tdRows d) →
             exec (.updateRows c) s = .next (
               let r := drawFree (clearWork (.cmd c) w)
               let m : UpdMsg := ⟨tdTable d, e, 0, bits (par c 0) 35 34, bit (par c 0) 36, bits (par c 0) 37 37, bits (par c 0) 39 38,
                 bits (par c 2) 47 0, if tdExact d then 0 else (Config.entropy r.1).toNat, [], []⟩
               let pairs := rows.map (updPair r.2 d e)
               updFinish c (pairs.eraseDups.foldl (fun s p => updBatches c m d rows pairs deltas p s)
                 (r.2.setTbl { r.2.tbl with upds := r.2.tbl.upds ++ [{ cmd := c, table := tdTable d, epoch := e }] })))) ∧
           (∀ f, updRead c d v = .error (.fail f w) → exec (.updateRows c) s = .next (faultAt 0x0A 0 c f (clearWork (.cmd c) w)))))) ∧
     (∀ m, accepts h (.updBatch m) s = true → updWithholds s m = none →
       exec (.updBatch h m) s = .next (served h (.updBatch m) (updArrives h.src m) s)) ∧
     (∀ src m, let u := dirRead [] m.table s
       u.hl.loss = none →
       let v : UpdServe := { src := src, ack := { table := m.table, epoch := m.epoch, id := m.id, applied := 0 } }
       (updGone u m = true →
         updArrives src m s = send src (.updAck { v.ack with status := 1 }) (count Reg.TBL_CNT_UPD_EPOCH_GONE u)) ∧
       (∀ d, updGone u m = false → heldDesc u m.table m.epoch (fun st => st == .current) = some d → updArrives src m s =
         let r := (List.range m.rows.length).foldl (fun (a : UpdServe × State) i => updRowAt d m i a.1 a.2) (v, u)
         updServed r.1 r.2)) ∧
     (∀ v : UpdServe,
       (v.inv = [] → v.rows = [] → updServed v s = send v.src (.updAck v.ack) s) ∧
       ((v.inv ≠ [] ∨ v.rows ≠ []) → updServed v s = s.setTbl { s.tbl with serves := s.tbl.serves ++ [v] })) ∧
     (∀ m, accepts h (.updAck m) s = true → exec (.updAck h m) s = .next (served h (.updAck m) (responded (fun x =>
       x.dst == h.src && (match x.body with | .updBatch b => b.id == m.id | _ => false)) (ackArrives h.src m)) s)) ∧
     (∀ r, accepts h (.invalidate r) s = true → exec (.invalidate h r) s = .next (served h (.invalidate r) (fun u =>
       let next := fun (x : Overlay) => match x.state with
         | .filling => { x with state := .fillStale }
         | .valid _ => { x with state := .invalid }
         | _ => x
       send h.src (.invAck r) (u.setTbl { u.tbl with overlay := updWhere (fun x => x.row == r) next u.tbl.overlay })) s)) ∧
     (∀ r, accepts h (.invAck r) s = true → exec (.invAck h r) s = .next (served h (.invAck r)
       (responded (fun x => x.dst == h.src && x.body == .invalidate r) (fun u =>
         let l := updFirst (fun v => v.ack.table == r.table && v.ack.epoch == r.epoch && v.inv.contains (r.row, h.src))
           (fun v => { v with inv := v.inv.erase (r.row, h.src) }) u.tbl.serves
         updServeAll id (u.setTbl { u.tbl with serves := l }))) s))) ∧
  (∀ (s : State), isOn s = true →
     (exec .sketchDecay s = .next (s.setTbl { s.tbl with
       sketch := (s.tbl.sketch.map fun p => (p.1, p.2 / 2)).filter fun p => p.2 != 0 })) ∧
     (∀ c, let u := startCmd c s
       let op := bits (par c 0) 3 0
       let t := bits (par c 0) 31 16
       let e := bits (par c 0) 47 32
       let r : RowRef := ⟨t, e, bits (par c 1) 39 0⟩
       let target := bits (par c 2) 15 0
       let bad := isManager u = false ∨ 4 < op ∨ bits (par c 0) 15 4 ≠ 0 ∨ bits (par c 0) 63 48 ≠ 0
       (bad → exec (.graftRow c) s = .next (badPacket c 0 u)) ∧
       (¬bad → (∀ g ∈ u.tbl.grafts, g.cmd ≠ some c) →
         let v := dirRead [c] t u
         v.hl.loss = none →
         (currentDesc v t = none → exec (.graftRow c) s = .next (complete c stEpochGone 0 0 v)) ∧
         (∀ d, currentDesc v t = some d →
           (2 ≤ op → graftBad v d op target r = true → exec (.graftRow c) s = .next (badPacket c 0 v)) ∧
           ((op ≤ 1 ∨ graftBad v d op target r = false) → tdEpoch d ≠ e → exec (.graftRow c) s = .next (complete c stEpochGone 0 0 v)) ∧
           (op ≤ 1 → tdEpoch d = e → exec (.graftRow c) s =
             .next (completeOk c 0 (setDirWord t 0 (setBits (dirWord v t 0) 7 7 (1 - op)) v))) ∧
           (2 ≤ op → graftBad v d op target r = false → tdEpoch d = e →
             (graftBusy v op target r = true → exec (.graftRow c) s = .next (complete c stNoResource 0 0 v)) ∧
             (graftBusy v op target r = false → exec (.graftRow c) s = .next (graftStart c d op target r v)))))))

/-- R149, R151, R152: the messages of replication.
R153 to R155: the messages of a migration. -/
def Obligations.ReplicasAndMigration : Prop :=
  (∀ (s : State) (h : Hdr) (r : RowRef),
     (∀ holder, accepts h (.repAdd r holder) s = true → exec (.repAdd h r holder) s = .next (served h (.repAdd r holder) (fun u =>
       let x := holdersRow u r
       let v := setHolders { x with devs := if holder ∈ x.devs then x.devs else x.devs ++ [holder] } u
       if isDown v holder then send v.fab.mgrId (.repDone r holder) v else send holder (.repGrant r) v) s)) ∧
     (∀ holder, accepts h (.repDrop r holder) s = true → exec (.repDrop h r holder) s = .next (served h (.repDrop r holder) (fun u =>
       let x := holdersRow u r
       if holder ∉ x.devs ∨ isDown u holder = true then repDoneTo r holder (unregister r holder u)
       else send holder (.repRevoke r)
         (setHolders { x with dropping := if holder ∈ x.dropping then x.dropping else x.dropping ++ [holder] } u)) s)) ∧
     (accepts h (.repGrant r) s = true → exec (.repGrant h r) s = .next (served h (.repGrant r) (fun u =>
       send h.src (.repAck r) (if (overlayOf u r).isSome then u else setOverlay { row := r, state := .invalid } u)) s)) ∧
     (accepts h (.repRevoke r) s = true → exec (.repRevoke h r) s = .next (served h (.repRevoke r) (repRevokeArrives h.src r) s)) ∧
     (∃ u, repRevokeArrives h.src r s = send h.src (.repAck r) u ∧ u = s.setTbl { s.tbl with overlay := u.tbl.overlay } ∧
       ∀ x, x ∈ u.tbl.overlay ↔ x ∈ s.tbl.overlay ∧ (x.row = r → ∃ b, x.state = .moved b)) ∧
     (accepts h (.repAck r) s = true → exec (.repAck h r) s = .next (served h (.repAck r)
       (responded (fun x => x.dst == h.src && (x.body == .repGrant r || x.body == .repRevoke r)) (repAcked h.src r)) s)) ∧
     (∀ dev, (migOf s r = none ∨ ∃ m, migOf s r = some m ∧ m.state ≠ .copying) →
       (dev ∈ (holdersRow s r).dropping → repAcked dev r s = repDoneTo r dev (unregister r dev s)) ∧
       (dev ∉ (holdersRow s r).dropping → dev ∈ (holdersRow s r).devs → repAcked dev r s = repDoneTo r dev s) ∧
       (dev ∉ (holdersRow s r).dropping → dev ∉ (holdersRow s r).devs → repAcked dev r s = s)) ∧
     (∀ holder, accepts h (.repDone r holder) s = true → exec (.repDone h r holder) s = .next (served h (.repDone r holder)
       (responded (fun x => x.dst == h.src && (x.body == .repAdd r holder || x.body == .repDrop r holder)) (repDoneArrives r holder)) s)) ∧
     (∀ holder g, graftOf s r (fun g => (g.op == 2 || g.op == 3) && g.target == holder) = some g →
       let l := s.tbl.replicated.filter fun x => x != (r, holder)
       repDoneArrives r holder s = graftEnd g (completeOk · 0) (s.setTbl { s.tbl with
         replicated := if g.op = 2 then l ++ [(r, holder)] else l })) ∧
     (accepts h (.repFill r) s = true → exec (.repFill h r) s = .next (served h (.repFill r) (repFillArrives h.src r) s)) ∧
     (h.src ∈ (holdersRow s r).devs → migOf s r = none → ownerClosed s = false →
       ∀ d a l u, heldDesc s r.table r.epoch SlotState.serves = some d → slotRead d r.row s = (.ok (a, l), u) →
       repFillArrives h.src r s = send h.src (.fillData r l) u) ∧
     (∀ slot, accepts h (.fillData r slot) s = true → exec (.fillData h r slot) s = .next (served h (.fillData r slot)
       (responded (fun x => x.dst == h.src && x.body == .repFill r) (fillArrives r slot)) s))) ∧
  (∀ (s : State) (h : Hdr) (r : RowRef),
     (∀ b a c, accepts h (.migBegin r b a c) s = true →
       exec (.migBegin h r b a c) s = .next (served h (.migBegin r b a c) (migBegins r b a c) s)) ∧
     (∀ b a c, migOf s r = none →
       let m : Mig := { row := r, state := .receiving, newOwner := b, oldOwner := a, replica := c }
       (ownId s = b → b ≠ a → b ≠ c → migBegins r b a c s = setMig m s) ∧
       (ownId s = c → c ≠ a → migBegins r b a c s = setMig { m with state := .shadow } s) ∧
       (ownId s = a → (holdersRow s r).devs.filter (fun d => isDown s d) = [] →
         let live := (holdersRow s r).devs.filter fun d => !isDown s d
         migBegins r b a c s = migSend r (sendAll live (.repRevoke r) (setMig { m with state := .copying, revoking := live } s)))) ∧
     (∀ slot, accepts h (.migData r slot) s = true → exec (.migData h r slot) s = .next (served h (.migData r slot) (migStores r slot) s)) ∧
     (∀ m slot, migOf s r = some m → m.state = .receiving →
       migStores r slot s = send m.oldOwner (.migReady r) (updMigs r (fun m => { m with state := .owner slot }) s)) ∧
     (accepts h (.migReady r) s = true → exec (.migReady h r) s = .next (served h (.migReady r) (migReadyArrives r) s)) ∧
     (∀ m, migOf s r = some m → m.state = .copying →
       ((m.replica = 0xFFFF ∨ isDown s m.replica = true) → migReadyArrives r s =
         migForward r (updMigs r (fun m => { m with state := .forwarding, revoking := [] }) s)) ∧
       (m.replica ≠ 0xFFFF → isDown s m.replica = false → migReadyArrives r s =
         send m.replica (.migFwd r) (updMigs r (fun m => { m with state := .forwarding, revoking := [m.replica] }) s))) ∧
     (accepts h (.migFwd r) s = true → exec (.migFwd h r) s = .next (served h (.migFwd r) (fun u => send h.src (.migFwdAck r)
       (updMigs r (fun m => if m.state == .shadow then { m with state := .fwdReplica } else m) u)) s)) ∧
     (accepts h (.migFwdAck r) s = true → exec (.migFwdAck h r) s = .next (served h (.migFwdAck r)
       (responded (fun x => x.dst == h.src && x.body == .migFwd r) (fwdAcked r)) s)) ∧
     (∀ m, migOf s r = some m → m.state = .forwarding → m.revoking ≠ [] →
       fwdAcked r s = migForward r (updMigs r (fun m => { m with revoking := [] }) s)) ∧
     (accepts h (.migCopied r) s = true → exec (.migCopied h r) s = .next (served h (.migCopied r) (fun u =>
       match graftOf u r fun g => g.op == 4 && !g.copied with
       | some g => migSpread g u
       | none => u) s)) ∧
     (∀ b, accepts h (.overlaySet r b) s = true → exec (.overlaySet h r b) s = .next (served h (.overlaySet r b) (fun u =>
       overlayAcks (setOverlay { row := r, state := .moved b, ackDue := true } u)) s)) ∧
     (accepts h (.overlayAck r) s = true → exec (.overlayAck h r) s = .next (served h (.overlayAck r) (responded (fun x =>
       x.dst == h.src && (match x.body with | .overlaySet q _ => q == r | _ => false)) (overlayAckArrives h.src r)) s)) ∧
     (∀ src g, graftOf s r (fun g => g.op == 4 && g.copied) = some g → overlayAckArrives src r s =
       migCheck r (setGraft { g with acks := if src ∈ g.acks then g.acks else g.acks ++ [src] } s)) ∧
     (∀ b a c, accepts h (.migEnd r b a c) s = true → exec (.migEnd h r b a c) s = .next (served h (.migEnd r b a c) (migEnds r) s)) ∧
     (∀ tag, accepts h (.rowFetch r tag) s = true →
       exec (.rowFetch h r tag) s = .next (served h (.rowFetch r tag) (rowFetchArrives h.src r tag) s)) ∧
     (∀ m l src tag, migOf s r = some m → m.state = .owner l → ownerClosed s = false →
       rowFetchArrives src r tag s = send src (.rowData r tag l) s) ∧
     (∀ tag slot, accepts h (.rowData r tag slot) s = true → exec (.rowData h r tag slot) s = .next (served h (.rowData r tag slot)
       (responded (fun m => m.dst == h.src && (match m.body with | .rowFetch q _ => q == r | _ => false)) (rowDataArrives r slot)) s)) ∧
     (isOn s = true → ∀ m, migOf s r = some m →
       let back := (m.state = .copying ∨ m.state = .shadow ∨ m.state = .receiving)
       let u := if back then m.held.foldl (fun s x => applyHeld r x s) (dropMig r s) else s
       (graftOf u r (fun g => g.op == 4 && !g.copied) = none → exec (.migrationAbandon r) s = .next u) ∧
       (∀ g, graftOf u r (fun g => g.op == 4 && !g.copied) = some g →
         exec (.migrationAbandon r) s = .next (graftEnd g (fun c s => faultCmd c .fabric s) (mgrCopy (.migEnded r) id u)))))

/-- R151, R152: at a holder whose entry is FILLING, FILL_DATA and INVALIDATE may arrive in either order. In both the entry ends in INVALID,
so no slot read before the update is served; the stale fill that arrives second is counted. A fill alone makes the entry VALID with its slot. -/
def Obligations.StaleFills : Prop :=
  ∀ (s : State) (src : Nat) (r : RowRef) (x : Overlay) (slot : List Byte), overlayOf s r = some x → x.state = .filling →
    ((overlayOf (fillArrives r slot s) r).map (·.state) = some (.valid slot)) ∧
    ((overlayOf (invalidateArrives src r (fillArrives r slot s)) r).map (·.state) = some .invalid) ∧
    ((overlayOf (fillArrives r slot (invalidateArrives src r s)) r).map (·.state) = some .invalid) ∧
    (Canonical s → regGet (fillArrives r slot (invalidateArrives src r s)) Reg.TBL_CNT_STALE_FILL =
      (regGet (invalidateArrives src r s) Reg.TBL_CNT_STALE_FILL + 1) % 2 ^ 64)

/-- R37, R39, R595: contradiction is symmetric, and of two contradictory orders of different masters exactly one takes effect. Orders to park
or unpark come from Taproot alone (R437, R552). A thermal or power order of Taproot wins; without one the owner of the resource does. -/
def Obligations.OrderArbitration : Prop :=
  ∀ a b : Order,
    let parks := fun (o : Order) => ∃ g, o.kind = .park g ∨ o.kind = .unpark g
    contradicts a.kind b.kind = contradicts b.kind a.kind ∧
    (a.master = b.master → beats a b = false) ∧
    (a.master ≠ b.master → contradicts a.kind b.kind = true → (parks a → a.master = .taproot) → (parks b → b.master = .taproot) →
      beats a b = !beats b a ∧
      (orderThermal a = true → beats a b = true) ∧
      (orderThermal a = false → orderThermal b = false → a.master = orderOwner b.kind → beats a b = true))

/-- R424 to R429, R432, R433, R436: the scheduler's own events. -/
def Obligations.Scheduling : Prop :=
  ∀ (s : State) (ctx : Nat), isOn s = true →
    let x := getCtx s ctx
    (∀ n, nodeOf s ctx = some n →
      let gs := nodeGroves s n
      ((accepting s = false ∨ n.state ≠ .waiting ∨ x.state ≠ .resident) → exec (.nodeStart ctx) s = .next s) ∧
      (accepting s = true → n.state = .waiting → x.state = .resident →
        (canTake s n gs.eraseDups = false → exec (.nodeStart ctx) s = .next (preemptFor n gs s)) ∧
        (∀ l v, canTake s n gs.eraseDups = true → ctxRead (.cmd n.cmd) ctx n.image (4 * n.count) s = .ok (l, v) →
          exec (.nodeStart ctx) s =
            .next (loadNode n gs ((List.range n.count).map fun i => leAt l (4 * i) 4) (clearWork (.cmd n.cmd) v))) ∧
        (∀ f v, canTake s n gs.eraseDups = true → ctxRead (.cmd n.cmd) ctx n.image (4 * n.count) s = .error (.fail f v) →
          exec (.nodeStart ctx) s = .next (faultCmd n.cmd f (clearWork (.cmd n.cmd) v)))) ∧
      (∀ k, n.state = .softStop → k ∈ n.groves → atTileBoundary s k = false → k ∉ n.stopped →
        exec (.softEscalate ctx k) s = .next (
          let u := reachTime ((n.held + 19 * 256000) % 2 ^ 64) s
          updNode ctx (fun n => { n with escalated := true, stopped := n.stopped ++ [k] })
            (if n.escalated then u else count Reg.CTX_CNT_SOFT_ESCALATED u))) ∧
      (n.state = .softStop ∨ n.state = .hardStop → (∀ k ∈ n.groves.eraseDups, canSave s n k = true) →
        exec (.preemptStopped ctx) s = .next (
          let u := saveContext x (n.groves.eraseDups.foldl (fun s k => saveGrove x n k s) s)
          let kind := if n.escalated then 3 else if n.state = .softStop then 1 else 2
          let v := emit 0x05 129 ctx kind (nodeIdent s n.cmd).1 ((u.now + 2 ^ 64 - n.held) % 2 ^ 64 / 256) u
          pinSettleAll (updNode ctx (fun n => { n with state := .saved, since := v.now, stopped := [], escalated := false }) v))) ∧
      (n.state ≠ .softStop → n.state ≠ .hardStop → exec (.preemptStopped ctx) s = .next s) ∧
      (n.state = .saved → x.state = .resident → cmdArmed s n.cmd = false →
        (canTake s n gs.eraseDups = false → exec (.nodeRestore ctx) s = .next (preemptFor n gs s)) ∧
        (canTake s n gs.eraseDups = true → savePoisoned s x = true → exec (.nodeRestore ctx) s = .next (faultNode 0x01 0 ctx .ecc s)) ∧
        (canTake s n gs.eraseDups = true → savePoisoned s x = false → exec (.nodeRestore ctx) s = .next (
          let u := (List.range gs.length).foldl (fun s j =>
            match s.gro.saved.find? fun g => g.ctx == ctx && g.grove.logical == j with
            | some g => if turnNow s n gs (gs.getD j 0) == some j then restoreGrove (gs.getD j 0) g s else s
            | none => s) s
          progress ctx (updNode ctx (fun n => { n with state := .running, groves := gs, held := u.now }) u)))) ∧
      (∀ runner r, nodeOf s runner = some r →
        let may := (n.state = .waiting ∨ n.state = .saved) ∧ r.state = .running ∧ n.cls ≤ r.cls ∧ r.sheltered s = false ∧
          ∃ m ∈ holders s ctx gs, m.ctx = runner
        (¬may → exec (.sliceExpire ctx runner) s = .next s) ∧
        (may → exec (.sliceExpire ctx runner) s = .next (preempt runner false
          (reachTime ((r.held + sliceUnits s) % 2 ^ 64) (reachTime ((n.since + sliceUnits s) % 2 ^ 64) s)))))) ∧
    (∀ k, k ∉ s.sched.saving → exec (.groveSaveDone k) s = .next s) ∧
    (∀ k, k ∈ s.sched.saving → ∃ t, exec (.groveSaveDone k) s = .next t ∧ t.sched.saving = s.sched.saving.filter fun j => j != k) ∧
    ((accepting s = false ∨ runnable s ctx = false) → exec (.swapIn ctx) s = .next s) ∧
    (accepting s = true → runnable s ctx = true → pinnedOverlap s x = false → (residents s).length < resLimit s →
      evictBy x [1] s = none → exec (.swapIn ctx) s =
        .next (updCtx ctx (fun x => { x with state := .swappingIn, waitSince := none, reserveSlot := false }) s)) ∧
    (∀ t, x.waitSince = some t → runnable s ctx = true → exec (.residencySliceExpire ctx) s =
      .next (swapInBy [1, 2, 3, 4] ctx (reachTime ((t + sliceUnits s) % 2 ^ 64) s))) ∧
    (x.waitSince = none → exec (.residencySliceExpire ctx) s = .next s) ∧
    (x.state = .evicting → groveQuiet s ctx = true → exec (.evictionDone ctx) s = .next (
      let u := if x.scratchMib = 0 then s else saveWrite (scratchImage s x) (memRead s x.scratchBase x.scratchBytes) s
      updCtx ctx (fun x => { x with state := .out, reserveSlot := false }) (saveContext x u))) ∧
    (x.state ≠ .evicting → exec (.evictionDone ctx) s = .next s) ∧
    (x.state = .swappingIn → (∀ y ∈ s.sched.ctxs, y.id ≠ ctx → y.state = .evicting → scratchOverlap x y = false) →
      (savePoisoned s x = true → exec (.swapInDone ctx) s = .next (faultNode 0x01 0 ctx .ecc s)) ∧
      (savePoisoned s x = false → x.pending = none → exec (.swapInDone ctx) s = .next (
        let u := if x.scratchMib = 0 then s else memWrite x.scratchBase (memRead s (scratchImage s x) x.scratchBytes) s
        pinSettle ctx (emit 0x06 129 ctx 1 0 0
          (updCtx ctx (fun x => { x with state := .resident, reserveSlot := false }) (count Reg.CTX_CNT_SWAP_IN u))))))

/-- R43, R46, R439, R442 to R445: the link layer.
R440, R456 to R459, R463, R464: discovery and election. -/
def Obligations.ChordsAndDiscovery : Prop :=
  (∀ (s : State) (n : Nat), isOn s = true → n < 16 →
     let c := chordOf s n
     (s.hl.perstLow = false → c.fn.state ≠ .disabled → serdesLocked s n = true →
       (c.up = false → c.retraining = false → exec (.chordTrainDone n false) s = .next (count (Reg.CHORD_CNT_RETRAIN n) s)) ∧
       (c.up = false → c.retraining = false → exec (.chordTrainDone n true) s = .next (pumpWaiting (chordPump 512 n
         (setChord n { fn := c.fn, up := true, credits := [64, 16, 256, 512, 256, 512], txq := c.txq } (count (Reg.CHORD_CNT_RETRAIN n) s))))) ∧
       (c.retraining = true → exec (.chordTrainDone n true) s =
         .next (pumpWaiting (chordPump 512 n (setChord n { c with retraining := false, badRun := 0, replays := [] } s))))) ∧
     ((c.fn.state = .disabled ∨ s.hl.perstLow = true ∨ serdesLocked s n = false) → ∀ ok, exec (.chordTrainDone n ok) s = .next s) ∧
     (∀ b : List Byte, c.up = true → c.retraining = false → b.length = 256 → leAt b 248 8 ≠ crc64 (b.take 248) →
       let u := count (Reg.CHORD_CNT_CRC n) (setChord n { c with nak := true, badRun := c.badRun + 1 } s)
       (c.badRun < 7 → exec (.flit n b) s = .next u) ∧
       (7 ≤ c.badRun → exec (.flit n b) s = .next (chordRetrain n u))) ∧
     (∀ b : List Byte, c.up = true → c.retraining = false → b.length = 256 → leAt b 248 8 = crc64 (b.take 248) → bit (leAt b 0 8) 24 = false →
       let w := leAt b 0 8
       let u := setChord n (c.acked (bits w 23 12)) s
       let d := chordOf u n
       let vc := bits w 29 27
       d.retraining = false →
       (bit w 30 = true → exec (.flit n b) s = .next (chordPump 512 n (setChord n (d.granted w) u))) ∧
       (bit w 30 = false → (bits w 11 0 ≠ d.rxSeq ∨ 5 < vc) → exec (.flit n b) s = .next u) ∧
       (bit w 30 = false → bits w 11 0 = d.rxSeq → vc ≤ 5 →
         let e := d.granted w
         exec (.flit n b) s = .next (chordPump 512 n (areaIn n w (slice 8 240 b) (evt 132 0x81 (vc + n * 16) 1 none (count (Reg.CHORD_CNT_RX_FLITS n)
           (setChord n { e with rxSeq := (e.rxSeq + 1) % 4096, nak := false, badRun := 0, owe := e.owe.set vc (e.owe.getD vc 0 + 1) } u))))))) ∧
     (∀ b : List Byte, (c.up = false ∨ c.retraining = true ∨ b.length ≠ 256) → exec (.flit n b) s = .next s) ∧
     (c.retraining = true → exec (.chordRetrainTimeout n) s = .next (resumeReady (chordFail n s))) ∧
     (c.retraining = false → exec (.chordRetrainTimeout n) s = .next (resumeReady s)) ∧
     (∀ h mask, (accepts h (.chordEnable mask) s = true → exec (.chordEnable h mask) s = .next (served h (.chordEnable mask)
         (fun u => (maskBits 16 mask).foldl (fun v k => chordEnable1 k v) u) s)) ∧
       (accepts h (.chordDisable mask) s = true → exec (.chordDisable h mask) s = .next (served h (.chordDisable mask)
         (fun u => (maskBits 16 mask).foldl (fun v k => chordDisable1 k v) u) s))) ∧
     (c.fn.state = .disabled → chordEnable1 n s = setChord n {} (regField (Reg.CHORD_CTL n) 0 0 1 s) ∧ chordDisable1 n s = s) ∧
     (c.fn.state = .enabled → chordEnable1 n s = s ∧
       chordDisable1 n s = setChord n { c with fn := { c.fn with state := .draining } } (regField (Reg.CHORD_CTL n) 0 0 0 s)) ∧
     ((c.up = true → c.txq = [] ∧ c.replay = []) →
       (c.fn.state = .draining → exec (.chordDrainEnd n) s = .next (setChord n { fn := {} } s)) ∧
       (c.fn.state = .drainingDeferred → exec (.chordDrainEnd n) s = .next (setChord n {} (chordRegsReset n s)))) ∧
     (c.up = true → c.txq ≠ [] → exec (.chordDrainEnd n) s = .next s)) ∧
  (∀ (s : State),
     (∀ n, isOn s = true →
       (n < 16 → (chordOf s n).up = true → (chordOf s n).helloDue = true →
         exec (.helloTimer n) s = .next (sendOn n 0xFFFF (.hello (helloOf s n)) s)) ∧
       ((16 ≤ n ∨ (chordOf s n).up = false ∨ (chordOf s n).helloDue = false) → exec (.helloTimer n) s = .next s) ∧
       (∀ m : HelloMsg, n < 16 → (chordOf s n).up = true →
         let u := helloKind n m (count Reg.FAB_CNT_MSG_RX (inboxTake { src := m.dev } (.hello m) s))
         (m.isSwitch = true → exec (.hello n m) s = .next (pumpWaiting (u.setFab { u.fab with topTerm := max u.fab.topTerm m.term }))) ∧
         (m.isSwitch = false → exec (.hello n m) s = .next (pumpWaiting (hear m.uid m.candidate m.reserve m.term u))))) ∧
     (isOn s = true →
       (upChords s ≠ [] → s.fab.devId = none → exec .announceTimer s =
         .next (send 0xFFFF (.announce (ownUid s) (mgrCapable s) s.fab.candidate (isReserve s) (ownId s) s.fab.term) s)) ∧
       ((upChords s = [] ∨ (s.fab.devId.isSome = true ∧ s.fab.fresh = false)) → exec .announceTimer s = .next s)) ∧
     (∀ uid cap cand res dev term, isOn s = true →
       let u := inboxTake { src := dev } (.announce uid cap cand res dev term) s
       exec (.announce uid cap cand res dev term) s = .next (announceArrives uid cand res dev term u) ∧
       (isManager u = false → dev = 0xFFFF → announceArrives uid cand res dev term u = hear uid cand res term (count Reg.FAB_CNT_MSG_RX u))) ∧
     (isOn s = true →
       let may := isReady s = true ∧ s.fab.candidate = true ∧ isManager s = false ∧ upChords s ≠ [] ∧
         ∀ h ∈ s.fab.heard, h.2.1 = true → ownUid s ≤ h.1
       (¬may → exec .electionWindow s = .next s) ∧
       (may → exec .electionWindow s = .next (withHello claimDomain s))) ∧
     (∀ h m, accepts h (.claim m) s = true → exec (.claim h m) s = .next (served h (.claim m) (withHello (claimArrives m)) s)) ∧
     (∀ m : ClaimMsg, let u := s.setFab { s.fab with topTerm := max s.fab.topTerm m.term }
       (m.mgrUid = ownUid u → claimArrives m s = u) ∧
       (m.mgrUid ≠ ownUid u → (s.fab.term < m.term ∨ (s.fab.term = m.term ∧ (s.fab.mgrUid = 0 ∨ m.mgrUid < s.fab.mgrUid))) →
         let v := settleStand u
         claimArrives m s = v.setFab { v.fab with
           term := m.term, mgrUid := m.mgrUid, mgrId := m.mgrId, depUid := m.depUid, depId := m.depId, count := m.members,
           role := roleOf v m.depUid, fresh := false, lastBeacon := v.now, unacked := [] }) ∧
       (m.mgrUid ≠ ownUid u → m.term < s.fab.term → claimArrives m s = count Reg.FAB_CNT_STALE_TERM u) ∧
       (m.mgrUid ≠ ownUid u → s.fab.term = m.term → s.fab.mgrUid ≠ 0 → s.fab.mgrUid < m.mgrUid → claimArrives m s = u)) ∧
     (∀ h uid dev res term k, accepts h (.assign uid dev res term k) s = true → exec (.assign h uid dev res term k) s =
       .next (served h (.assign uid dev res term k) (withHello (assignArrives h uid dev res term k)) s)) ∧
     (∀ h uid dev res term k,
       (term < s.fab.term → assignArrives h uid dev res term k s = count Reg.FAB_CNT_STALE_TERM s) ∧
       (s.fab.term ≤ term → uid ≠ ownUid s → assignArrives h uid dev res term k s = s) ∧
       (s.fab.term ≤ term → uid = ownUid s → ∃ u, assignArrives h uid dev res term k s = grantImage (sendJoined u) ∧
         u = s.setFab u.fab ∧ u.fab.devId = some dev ∧ u.fab.mgrId = h.src ∧ u.fab.term = term ∧
         u.fab.role = (if res then .reserve else if s.fab.depUid = ownUid s then .deputy else .member))) ∧
     (∀ h uid dev rep, accepts h (.joined uid dev rep) s = true →
       exec (.joined h uid dev rep) s = .next (served h (.joined uid dev rep) (joinedArrives uid dev rep) s)) ∧
     (∀ uid dev rep, (isManager s = false ∨ ∀ m ∈ s.fab.members, m.id = dev → m.uid ≠ uid) → joinedArrives uid dev rep s = s) ∧
     (∀ h rs, accepts h (.routeSet rs) s = true → exec (.routeSet h rs) s = .next (served h (.routeSet rs) (routesArrive rs) s)) ∧
     (∀ rs, s.fab.switched = false → routesArrive rs s = pumpWaiting (s.setFab { s.fab with
       routes := rs ++ s.fab.routes.filter fun r => !(rs.any fun x => x.1 == r.1) })) ∧
     (isOn s = true →
       ((isManager s = true ∨ s.fab.devId = none) → exec .freshElection s = .next s) ∧
       (isManager s = false → s.fab.devId.isSome = true → exec .freshElection s = .next (withHello (fun s =>
         let u := settleStand (reachTime ((s.fab.lastBeacon + bits (regGet s Reg.FAB_CFG) 7 0 * 256000000) % 2 ^ 64) s)
         u.setFab { u.fab with fresh := true, mgrUid := 0, heard := [] }) s))))

/-- R458: the lowest free ID of an ordinary device and the highest free one of a reserve. -/
def Obligations.FreeIds : Prop :=
  ∀ (s : State),
    let used := s.fab.assigned.map (·.2) ++ s.fab.members.map (·.id)
    used.length < 0xFFFF →
    freeId s false ∉ used ∧ (∀ k, k < freeId s false → k ∈ used) ∧
    freeId s true ∉ used ∧ freeId s true ≤ 0xFFFE ∧ (∀ k, freeId s true < k → k ≤ 0xFFFE → k ∈ used)

/-- R446, R450, R460 to R463: members, their loss, and the manager's deputy.
R459, R471 to R474. -/
def Obligations.MembersAndSwitchIn : Prop :=
  (∀ (s : State) (h : Hdr) (dev : Nat),
     (isOn s = true → s.fab.devId.isSome = true → isManager s = false → s.fab.role ≠ .discovering →
       exec .keepaliveTimer s = .next (send s.fab.mgrId (.keepalive s.now) s)) ∧
     (isOn s = true → (s.fab.devId = none ∨ isManager s = true) → exec .keepaliveTimer s = .next s) ∧
     (∀ time, accepts h (.keepalive time) s = true → exec (.keepalive h time) s = .next (served h (.keepalive time)
       (fun u => if isManager u then updMember h.src (fun m => { m with heardAt := u.now }) u else u) s)) ∧
     (isOn s = true → ∀ m, memberOf s dev = some m → isManager s = true → m.down = false → s.fab.devId ≠ some dev →
       let cfg := regGet s Reg.FAB_MGR_CFG
       exec (.keepaliveMiss dev) s = .next (resumeReady (declareDown dev
         (reachTime ((m.heardAt + bits cfg 23 20 * bits cfg 19 8 * 100 * 256000) % 2 ^ 64) s)))) ∧
     (∀ m, memberOf s dev = some m → (m.down = true ∨ s.fab.devId = some dev) → declareDown dev s = s) ∧
     (∀ m, memberOf s dev = some m → m.down = false → s.fab.devId ≠ some dev → declareDown dev s =
       let u := raiseVector 6 (send 0xFFFF (.deviceDown dev)
         (updMember dev (fun m => { m with down := true, restoring := false, joined := false }) s))
       let v := switchLost dev (downLocal dev (pubsLost dev u))
       if v.fab.depUid ≠ 0 ∧ dev = v.fab.depId then deputyLost v else v) ∧
     (∀ reason, accepts h (.depart reason) s = true →
       ∃ f : State → State, exec (.depart h reason) s = .next (served h (.depart reason) f s) ∧
         ∀ u, (isManager u = true → f u = resumeReady (declareDown h.src u)) ∧
           (isManager u = false → u.fab.role = .deputy → h.src = u.fab.mgrId → f u = resumeReady (withHello takeover u)) ∧
           (isManager u = false → u.fab.role ≠ .deputy → f u = resumeReady u)) ∧
     (accepts h (.deviceDown dev) s = true → exec (.deviceDown h dev) s =
       .next (served h (.deviceDown dev) (fun u => resumeReady (deviceDown dev u)) s)) ∧
     (s.fab.devId ≠ some dev → deviceDown dev s = downLocal dev (raiseVector 6
       (addMember { (memberOf s dev).getD { uid := 0, id := dev } with down := true, restoring := false } s))) ∧
     (∀ item copy, accepts h (.mgrState item copy) s = true → exec (.mgrState h item copy) s = .next (served h (.mgrState item copy)
       (fun u => send h.src (.mgrStateAck item.bytes.1 copy) (keepCopy item u)) s)) ∧
     (∀ kind copy, accepts h (.mgrStateAck kind copy) s = true → exec (.mgrStateAck h kind copy) s = .next (served h (.mgrStateAck kind copy)
       (responded (fun m => m.dst == h.src && (match m.body with | .mgrState i n => n == copy && i.bytes.1 == kind | _ => false))
         (fun u => match u.fab.unacked.find? fun p => p.1 == copy with
           | some p => ackAct p.2 (u.setFab { u.fab with unacked := u.fab.unacked.filter fun p => p.1 != copy })
           | none => u)) s)) ∧
     (isOn s = true → (s.fab.role ≠ .deputy → exec .deputyTakeover s = .next (resumeReady s)) ∧
       (s.fab.role = .deputy → exec .deputyTakeover s =
         .next (resumeReady (withHello takeover (reachTime ((s.fab.lastBeacon + 3 * beaconUnits s) % 2 ^ 64) s))))) ∧
     (accepts h (.credit h.crVc h.crFlits) s = true → s.fab.devId ≠ some h.src →
       exec (.credit h) s = .next (grantBack h (.credit h.crVc h.crFlits) (takenIn h (.credit h.crVc h.crFlits) s))) ∧
     (∀ tag, isOn s = true → (∀ t ∈ s.fab.timed, t.tag ≠ tag) → exec (.e2eTimeout tag) s = .next (resumeReady s)) ∧
     (∀ tag t, isOn s = true → (s.fab.timed.find? fun t => t.tag == tag) = some t →
       exec (.e2eTimeout tag) s = .next (resumeReady (timedLost t (count Reg.FAB_CNT_E2E_TIMEOUT
         (reachTime ((t.time + bits (regGet s Reg.FAB_CFG) 23 8 * 256000) % 2 ^ 64) s)))))) ∧
  (∀ (s : State) (h : Hdr),
     (∀ c, isOn s = true →
       let u := startCmd c s
       let op := bits (par c 0) 3 0
       let bad := bits (par c 0) 15 4 ≠ 0 ∨ bits (par c 0) 63 32 ≠ 0 ∨ 4 < op ∨ (∃ d, c.src = .mgr d ∧ (op = 1 ∨ op = 2))
       (bad → exec (.fabricStatus c) s = .next (badPacket c 0 u)) ∧
       (¬bad → op = 0 → exec (.fabricStatus c) s = .next (completeOk c (queryResult u) u)) ∧
       (¬bad → op = 1 → (mgrCapable u = false ∨ isReserve u = true) → exec (.fabricStatus c) s = .next (badPacket c 0 u)) ∧
       (¬bad → op = 1 → mgrCapable u = true → isReserve u = false →
         exec (.fabricStatus c) s = .next (completeOk c 0 (withHello stand u))) ∧
       (¬bad → op = 2 → exec (.fabricStatus c) s = .next (completeOk c 0 (withHello withdraw u))) ∧
       (¬bad → op = 3 → let l := (u.fab.members.take (par c 2 / 16)).map memberRecord
         (∀ v, ctxWrite (.cmd c) c.ctx (par c 1) l.flatten u = .ok ((), v) →
           exec (.fabricStatus c) s = .next (completeOk c l.length (clearWork (.cmd c) v))) ∧
         (∀ f v, ctxWrite (.cmd c) c.ctx (par c 1) l.flatten u = .error (.fail f v) →
           exec (.fabricStatus c) s = .next (faultCmd c f (clearWork (.cmd c) v)))) ∧
       (¬bad → op = 4 → isManager u = true →
         exec (.fabricStatus c) s = .next (completeOk c (outcomeResult u (bits (par c 0) 31 16)) u)) ∧
       (¬bad → op = 4 → isManager u = false → exec (.fabricStatus c) s = .next (badPacket c 0 u))) ∧
     (∀ c, isOn s = true →
       let u := startCmd c s
       let f := bits (par c 0) 15 0
       (∀ o ∈ u.fab.switchOps, o.cmd ≠ c) →
       let bad := isManager u = false ∨ isDown u f = false ∨ bits (par c 0) 63 32 ≠ 0 ∨ par c 2 = 0 ∨ 2 ^ 20 < par c 2 ∨
         ∃ o ∈ u.fab.switchOps, o.failed = f
       (bad → exec (.switchIn c) s = .next (badPacket c 0 u)) ∧
       (¬bad → ∀ l v, ctxRead (.cmd c) c.ctx (par c 1) (32 * par c 2) u = .ok (l, v) →
         let w := clearWork (.cmd c) v
         let recs := (List.range (par c 2)).map fun i => slice (32 * i) 32 l
         ((∃ r ∈ recs, recBad r = true) → exec (.switchIn c) s = .next (badPacket c 0 w)) ∧
         ((∀ r ∈ recs, recBad r = false) →
           (pickReserve w (bits (par c 0) 31 16) = none → exec (.switchIn c) s = .next (complete c stNoResource 0 0 w)) ∧
           (∀ r, pickReserve w (bits (par c 0) 31 16) = some r → ∃ o : SwitchOp, o.cmd = c ∧ o.failed = f ∧ o.reserve = r.id ∧
             o.recs = recs.map restoreRecOf ∧ o.begun = false ∧
             exec (.switchIn c) s = .next (mgrCopy (.switchIn f r.id) (switchStart f r.id)
               (w.setFab { w.fab with switchOps := w.fab.switchOps ++ [o] })))))) ∧
     (∀ dev, accepts h (.restoreBegin dev) s = true → exec (.restoreBegin h dev) s = .next (served h (.restoreBegin dev) (restoreBegins dev) s)) ∧
     (∀ dev, s.fab.devId ≠ some dev → restoreBegins dev s =
       let u := updMember dev (fun m => { m with down := false, restoring := true }) s
       restoreAcks (lookDown dev (u.setFab { u.fab with
         restoring := (u.fab.restoring.filter fun d => d != dev) ++ [dev], restoreOwe := u.fab.restoreOwe ++ [dev] }))) ∧
     (∀ dev, accepts h (.restoreAck dev) s = true → exec (.restoreAck h dev) s = .next (served h (.restoreAck dev) (fun u => switchCheck dev
       (u.setFab { u.fab with switchOps := updFirst (fun o => o.failed == dev) (fun o => { o with acks := o.acks ++ [h.src] }) u.fab.switchOps })) s)) ∧
     (∀ recs, accepts h (.restoreRec recs) s = true → exec (.restoreRec h recs) s = .next (served h (.restoreRec recs) (fun u => restoreGoOn
       (u.setFab { u.fab with restoreWork := u.fab.restoreWork ++ recs, restoreLast := u.fab.restoreLast || decide (recs.length < 128) })) s)) ∧
     (∀ failed first, accepts h (.restoreDone failed first) s = true →
       exec (.restoreDone h failed first) s = .next (served h (.restoreDone failed first) (restoreDone h.src failed first) s)) ∧
     (∀ src failed first o, (s.fab.switchOps.find? fun o => o.failed == src && o.sentRecs) = some o → restoreDone src failed first s =
       switchEnd o (fun c s => completeOk c (failed + first * 2 ^ 32) s) (restoreEnds src (send 0xFFFF (.restoreEnd src) s))) ∧
     (∀ dev, accepts h (.restoreEnd dev) s = true → exec (.restoreEnd h dev) s = .next (served h (.restoreEnd dev) (fun u =>
       let v := updMember dev (fun m => { m with restoring := false }) u
       updRelease (v.setFab { v.fab with restoring := v.fab.restoring.filter fun d => d != dev })) s)))

/-- R457, R466, R467: BEACON_TIMER, BEACON, TIME_DISCIPLINE, DELAY_TIMER, DELAY_REQ and DELAY_RSP.
R468, R469: SYNC_START and SYNC_START_TIME. -/
def Obligations.FabricTimeAndStarts : Prop :=
  (∀ (s : State),
     (isOn s = true →
       (isManager s = false → exec .beaconTimer s = .next s) ∧
       (isManager s = true → exec .beaconTimer s =
         .next ((routeChords s 0xFFFF).foldl (fun u n => sendOn n 0xFFFF (.beacon u.now 0 u.fab.term) u) s))) ∧
     (∀ h origin corr term stamp, accepts h (.beacon origin corr term) s = true → exec (.beacon h origin corr term stamp) s =
       .next (served h (.beacon origin corr term) (beaconArrives (h.plane % 16) origin corr term stamp) s)) ∧
     (∀ n origin corr term stamp,
       (term < s.fab.term → beaconArrives n origin corr term stamp s = count Reg.FAB_CNT_STALE_TERM s) ∧
       (s.fab.term ≤ term → isManager s = false → ∃ t, beaconArrives n origin corr term stamp s = t ∧ t = s.setFab t.fab ∧
         t.fab.estimates = s.fab.estimates ++ [planeEstimate s n origin corr stamp] ∧
         t.fab.topTerm = max s.fab.topTerm term ∧ t.fab.lastBeacon = (if term = s.fab.term then s.now else s.fab.lastBeacon))) ∧
     (isOn s = true →
       ((isManager s = true ∨ s.fab.mgrUid = 0) → exec .timeDiscipline s = .next s) ∧
       (isManager s = false → s.fab.mgrUid ≠ 0 → s.fab.estimates = [] → exec .timeDiscipline s = .next (
         let u := count Reg.FAB_CNT_BEACON_MISSED s
         u.setFab { u.fab with missRun := u.fab.missRun + 1, planes := 0, goodRun := 0,
                               locked := u.fab.locked && decide (u.fab.missRun + 1 < 4),
                               holdover := u.fab.holdover || decide (4 ≤ u.fab.missRun + 1) })) ∧
       (isManager s = false → s.fab.mgrUid ≠ 0 → s.fab.estimates ≠ [] → ∃ t, exec .timeDiscipline s = .next t ∧
         let e := median s.fab.estimates
         let run := if -512 ≤ e ∧ e ≤ 512 then s.fab.goodRun + 1 else 0
         t.fab.estimates = [] ∧ t.fab.offset = e ∧ t.fab.goodRun = run ∧ t.fab.missRun = 0 ∧ t.fab.holdover = false ∧ t.fab.stepped = true ∧
         t.fab.locked = (s.fab.locked || decide (16 ≤ run)) ∧
         (s.fab.stepped = false → t.fab.now = unsext ((s.fab.now : Int) + e) 64 ∧ t.fab.rate = s.fab.rate) ∧
         (s.fab.stepped = true → t.fab.now = s.fab.now ∧ s.fab.rate - s.fab.rate * 200 / 1000000 ≤ t.fab.rate ∧
           t.fab.rate ≤ s.fab.rate + s.fab.rate * 200 / 1000000))) ∧
     (∀ n, isOn s = true →
       (n < 16 → (chordOf s n).up = true →
         exec (.delayTimer n) s = .next (sendOn n 0xFFFF (.delayReq s.now) s) ∧
         (∀ t1 t2 t3, exec (.delayReq n t1 t2 t3) s = .next (sendOn n 0xFFFF (.delayRsp t1 t2 t3)
           (count Reg.FAB_CNT_MSG_RX (inboxTake { src := (chordOf s n).peerId } (.delayReq t1) s)))) ∧
         (∀ t1 t2 t3 t4, exec (.delayRsp n t1 t2 t3 t4) s = .next (regPut (Reg.CHORD_DELAY n) (unsext (linkDelay n t1 t2 t3 t4) 32)
           (count Reg.FAB_CNT_MSG_RX (inboxTake { src := (chordOf s n).peerId } (.delayRsp t1 t2 t3) s))))) ∧
       ((16 ≤ n ∨ (chordOf s n).up = false) → exec (.delayTimer n) s = .next s ∧
         (∀ t1 t2 t3, exec (.delayReq n t1 t2 t3) s = .next s) ∧ (∀ t1 t2 t3 t4, exec (.delayRsp n t1 t2 t3 t4) s = .next s)))) ∧
  (∀ (s : State) (c : Cmd), isOn s = true →
     (let u := startCmd c s
      (∀ a ∈ u.fab.armed, a.sync ≠ c) →
      (∀ d, c.src = .mgr d → exec (.syncStart c) s = .next (badPacket c 0 u)) ∧
      (∀ q, c.src = .ring q → (ringOf u c.ctx q = none ∨ ∃ r, ringOf u c.ctx q = some r ∧ r.head = r.tail) →
        exec (.syncStart c) s = .next (badPacket c 0 u)) ∧
      (∀ q r t head v, c.src = .ring q → ringOf u c.ctx q = some r → r.head ≠ r.tail → syncFetch c.ctx q r u = .ok (.start t head, v) →
        let w := startCmd t (moveHead c.ctx q head (clearWork (.fetch c.ctx q) v))
        ((armable w t = false ∨ syncBad w c = true) → exec (.syncStart c) s = .next (badPacket c 0 (badPacket t 0 w))) ∧
        (armable w t = true → syncBad w c = false → exec (.syncStart c) s = .next (armSync c (some t) [] w))) ∧
      (∀ l n x, c.src = .node l n → (u.crn.launches.find? fun x => x.id == l) = some x →
        ((syncNodes u x n = [] ∨ syncBad u c = true) → exec (.syncStart c) s = .next (badPacket c 0 u)) ∧
        (syncNodes u x n ≠ [] → syncBad u c = false → exec (.syncStart c) s = .next (armSync c none (syncNodes u x n) u)))) ∧
     (∀ target nodes, ∃ a : Armed, a.sync = c ∧ a.target = target ∧ a.nodes = nodes ∧ a.time = par c 0 ∧ a.power = bits (par c 1) 11 0 ∧ a.ballast = bit (par c 1) 12 ∧
       (bit (par c 1) 12 = false → armSync c target nodes s = s.setFab { s.fab with armed := s.fab.armed ++ [a] }) ∧
       (bit (par c 1) 12 = true → armSync c target nodes s = preRamp a.power a.time (s.setFab { s.fab with armed := s.fab.armed ++ [a] }))) ∧
     (∀ a, (s.fab.armed.find? fun a => a.sync == c) = some a →
       let u := reachTime a.time s
       let v := u.setFab { u.fab with armed := u.fab.armed.filter fun x => x.sync != c }
       (syncReady a u = true → exec (.syncStartTime c) s =
         .next (completeOk c u.now ((u.sched.nodes.filter (armedNode a u)).foldl (fun s n => issueNode n s) v))) ∧
       (syncReady a u = false → exec (.syncStartTime c) s = .next (syncMissed a v))) ∧
     ((∀ a ∈ s.fab.armed, a.sync ≠ c) → exec (.syncStartTime c) s = .next s))

/-- R541, R572, R573, R578 to R581: the stages of start-up. `halt` and `imageRefused` record their reason in SEC_BOOT_STAT.
R578, R582, R583, R591, R593: the mailbox commands. A command is not served while another runs. -/
def Obligations.StartUpAndMailbox : Prop :=
  (∀ (s : State),
     (s.sec.stage = .rom → (s.pwr.pstate = .standby ∨ s.pwr.pstate = .run) →
       (∀ f, exec (.romCheckDone false f) s = .next (halt 13 s)) ∧
       exec (.romCheckDone true false) s = .next (halt 14 s) ∧
       exec (.romCheckDone true true) s = .next (startTraining (putStage .power s))) ∧
     (s.sec.stage ≠ .rom → ∀ a b, exec (.romCheckDone a b) s = .next s) ∧
     (s.pwr.pstate = .standby → s.sec.stage = .power → exec .mainConvertersUp s = .next (startTraining (putPState .run s))) ∧
     ((s.pwr.pstate ≠ .standby ∨ s.sec.stage ≠ .power) → exec .mainConvertersUp s = .next s) ∧
     (∀ cap res a, (s.hl.perstLow = false → exec (.perstNDeassert cap res a) s = .next s) ∧
       (s.hl.perstLow = true → exec (.perstNDeassert cap res a) s = .next (
         let u := regField Reg.GLB_PART 26 25 (b2n cap + b2n res * 2) s
         startTraining ((u.setHl { u.hl with perstLow := false }).setPwr { u.pwr with smbAddr := a % 4 })))) ∧
     (s.sec.stage = .hbmTrain → exec (.hbmTrainDone false) s = .next (halt 12 s) ∧
       exec (.hbmTrainDone true) s = .next (grantImage (putStage .waitImage
         ((List.range (bits (regGet s Reg.MEM_REPAIR_COUNT) 6 0)).foldl (fun s i => hardenRepair i s) s)))) ∧
     (s.sec.stage ≠ .hbmTrain → ∀ ok, exec (.hbmTrainDone ok) s = .next s) ∧
     (s.sec.loaded = none → exec .imageReadDone s = .next s) ∧
     (∀ r, s.sec.loaded = some r →
       let u := mboxDone 0 (s.setSec { s.sec with loading := false, loaded := none })
       (∀ l, r = some l → exec .imageReadDone s = .next (imageComplete 1 l u)) ∧
       (r = none → exec .imageReadDone s = .next (regField Reg.SEC_BOOT_STAT 11 4 10 u))) ∧
     (∀ src l, s.sec.stage = .verify → s.sec.image = some (src, l) →
       (∀ r, imageReason s l = some r → exec .imageVerifyDone s = .next (imageRefused src r s)) ∧
       (imageReason s l = none → exec .imageVerifyDone s = .next (putStage .start (regField Reg.SEC_BOOT_STAT 13 12 src s)))) ∧
     (s.sec.stage ≠ .verify → exec .imageVerifyDone s = .next s) ∧
     (∀ src l, s.sec.stage = .start → s.sec.image = some (src, l) →
       exec (.startDone true) s = .next (firmwareRuns src l s) ∧ exec (.startDone false) s = .next (imageRefused src 11 s)) ∧
     (s.sec.stage ≠ .start → ∀ ok, exec (.startDone ok) s = .next s) ∧
     (∀ h l, accepts h (.image l) s = true → exec (.image h l) s = .next (served h (.image l) (imageArrives h l) s)) ∧
     (∀ h l, (h.src ≠ s.fab.mgrId → imageArrives h l s = count Reg.FAB_CNT_STALE_TERM s) ∧
       (h.src = s.fab.mgrId → (l.length < 9 ∨ 65544 < l.length ∨ leAt l 4 4 < leAt l 0 4 + (l.length - 8) ∨ 67108864 < leAt l 4 4) →
         imageArrives h l s = count Reg.FAB_CNT_BAD_MSG s) ∧
       (h.src = s.fab.mgrId → 9 ≤ l.length → l.length ≤ 65544 → leAt l 0 4 + (l.length - 8) ≤ leAt l 4 4 → leAt l 4 4 ≤ 67108864 →
         (s.sec.stage = .waitImage ∨ s.sec.stage = .recovery ∨ s.sec.stage = .verify ∨ s.sec.stage = .start →
           imageArrives h l s = imageSegment (leAt l 0 4) (leAt l 4 4) (l.drop 8) s) ∧
         (s.sec.stage = .ready → imageArrives h l s = s)))) ∧
  (∀ (s : State), hostServed s Reg.SEC_MBOX_CMD = true →
     (mboxBusy s = true → exec .load s = .next s ∧ ∀ ok, exec (.svnCommit ok) s = .next s ∧ exec (.ownerProgram ok) s = .next s ∧
       exec (.sealFuse ok) s = .next s) ∧
     (mboxBusy s = false →
       (s.sec.stage = .verify → exec .load s = .next (mboxDone 4 s)) ∧
       (s.sec.stage = .ready → exec .load s = .next (mboxDone 1 s)) ∧
       (s.sec.stage = .waitImage ∨ s.sec.stage = .recovery →
         let len := regGet s Reg.SEC_IMG_LEN
         ((len = 0 ∨ 67108864 < len) → exec .load s = .next (mboxDone 2 s)) ∧
         (1 ≤ len → len ≤ 67108864 → exec .load s =
           .next (imageLoadRun (regPut Reg.SEC_MBOX_STAT 1 (s.setSec { s.sec with loading := true, loaded := none }))))) ∧
       (∀ ok, let n := min 64 (runningSvn s)
         (isReady s = false → exec (.svnCommit ok) s = .next (mboxDone 1 s) ∧ exec (.ownerProgram ok) s = .next (mboxDone 1 s)) ∧
         (isReady s = true → n ≤ rollbackCount s → exec (.svnCommit ok) s = .next (mboxDone 3 s)) ∧
         (isReady s = true → rollbackCount s < n → exec (.svnCommit ok) s =
           .next (if ok then mboxDone 0 (regPut Reg.SEC_FUSE_ROLLBACK (2 ^ n - 1) s) else mboxDone 5 s)) ∧
         (isReady s = true → fuseWord s Reg.SEC_FUSE_OWNER ≠ 0 → exec (.ownerProgram ok) s = .next (mboxDone 3 s)) ∧
         (isReady s = true → fuseWord s Reg.SEC_FUSE_OWNER = 0 → exec (.ownerProgram ok) s = .next (
           let k := Config.shake256 (mboxKey s)
           if ok then mboxDone 0 ((List.range 4).foldl (fun s i => regPut (Reg.SEC_FUSE_OWNER i) (bits k (64 * i + 63) (64 * i)) s) s)
           else mboxDone 5 s)) ∧
         (isSealed s = true → exec (.sealFuse ok) s = .next (mboxDone 3 s)) ∧
         (isSealed s = false → isReady s = false → exec (.sealFuse ok) s = .next (mboxDone 1 s)) ∧
         (isSealed s = false → isReady s = true → regGet s Reg.SEC_MBOX_ARG ≠ 0x5EA1 → exec (.sealFuse ok) s = .next (mboxDone 2 s)) ∧
         (isSealed s = false → isReady s = true → regGet s Reg.SEC_MBOX_ARG = 0x5EA1 →
           ((∃ x ∈ s.sched.ctxs, x.state ≠ .none) ∨ s.xyl.maint = true → exec (.sealFuse ok) s = .next (mboxDone 4 s)) ∧
           ((∀ x ∈ s.sched.ctxs, x.state = .none) → s.xyl.maint = false → exec (.sealFuse ok) s =
             .next (if ok then mboxDone 0 (closeRws (regOr Reg.GLB_PART (1 <<< 24) s)) else mboxDone 5 s))))))

/-- R580: the checks in their order. The hash and the signature scheme are uninterpreted (log entry on cryptography); the reason is that of
the first check that fails, and an image passes only when none fails. -/
def Obligations.ImageChecks : Prop :=
  ∀ (s : State) (l : List Byte),
    let n := imgBody l
    let vendorKey := slice n 68 l
    let ownerKey := slice (n + 2888) 68 l
    let owner := fuseWord s Reg.SEC_FUSE_OWNER
    let fails : List (Nat × Prop) :=
      [(1, imageFormatOk l = false),
       (2, leAt l 8 2 ≠ 0x5120 ∨ bit (leAt l 10 2) (bits (regGet s Reg.GLB_PART) 19 16) = false),
       (3, imgDebug l = true ∧ isSealed s = true),
       (4, Config.shake256 vendorKey ≠ fuseWord s Reg.SEC_FUSE_VENDOR),
       (5, Config.xmssVerify vendorKey (l.take n) (slice (n + 68) 2820 l) = false),
       (6, owner ≠ 0 ∧ imgOwner l = false),
       (7, owner ≠ 0 ∧ Config.shake256 ownerKey ≠ owner),
       (8, owner ≠ 0 ∧ Config.xmssVerify ownerKey (l.take (n + 2888)) (slice (n + 2956) 2820 l) = false),
       (9, imgSvn l < rollbackCount s)]
    (imageReason s l = none ↔ ∀ p ∈ fails, ¬p.2) ∧
    (∀ (i : Nat) (p : Nat × Prop), fails[i]? = some p →
      (imageReason s l = some p.1 ↔ p.2 ∧ ∀ (j : Nat) (q : Nat × Prop), j < i → fails[j]? = some q → ¬q.2))

/-- R584 to R588, R590: attestation. Each signature takes the next index, which is used once; a used-up index or a failed flash write refuses it. -/
def Obligations.Attestation : Prop :=
  ∀ (s : State),
    (∀ c, isOn s = true →
      let u := startCmd c s
      let op := bits (par c 0) 1 0
      let size := if op = 0 then 3076 else if op = 1 then 2908 else 0
      let bad := op = 3 ∨ bits (par c 0) 63 2 ≠ 0 ∨ bits (par c 3) 63 32 ≠ 0 ∨ par c 2 % 8 ≠ 0 ∨ bits (par c 3) 31 0 < size
      (∀ flash, bad → exec (.attest c flash) s = .next (badPacket c size u)) ∧
      (∀ flash, ¬bad → ∃ v, (v = u ∨ v = u.setSec { u.sec with flashFails := u.sec.flashFails ++ [c] }) ∧
        (flash = true → v = u) ∧ exec (.attest c flash) s = .next (attestRun c v)) ∧
      ((∀ a ∈ u.sec.attests, a.1 ≠ c) → ∀ nonce v, op = 0 → attestRead c (par c 1) 32 u = .ok (nonce, v) →
        attestRun c u = attestSign c nonce (clearWork (.cmd c) v)) ∧
      ((∀ a ∈ u.sec.attests, a.1 ≠ c) → op = 1 → attestRun c u = attestOut c (certificate u) (2908 + (2 ^ 20 - sigIndex u) * 2 ^ 32) u) ∧
      ((∀ a ∈ u.sec.attests, a.1 ≠ c) → op = 2 → attestRun c u = attestEnd c stOk 0 ((2 ^ 20 - sigIndex u) * 2 ^ 32) u)) ∧
    (∀ flash,
      (2 ^ 20 ≤ sigIndex s → takeIndex flash s = .error 1) ∧
      (sigIndex s < 2 ^ 20 → takeIndex false s = .error 2) ∧
      (sigIndex s < 2 ^ 20 → ∃ t, takeIndex true s = .ok (sigIndex s, t) ∧
        max t.sec.indexA t.sec.indexB = sigIndex s + 1)) ∧
    (∀ path nonce flash,
      (∀ e, takeIndex flash s = .error e → signReport path nonce flash s = .error e) ∧
      (∀ i t, takeIndex flash s = .ok (i, t) → signReport path nonce flash s =
        .ok (reportBody t path i nonce ++ padTo 2820 (Config.xmssSign i (reportBody t path i nonce)), t))) ∧
    (∀ req flash,
      ((s.hl.up = false ∨ s.hl.loss.isSome = true) → exec (.doeRequest req flash) s = .next s) ∧
      (s.hl.up = true → s.hl.loss = none →
        let op := leAt req 0 1
        let bad := accepting s = false ∨ leAt req 1 3 ≠ 0 ∨ 2 < op ∨ req.length ≠ (if op = 0 then 36 else 4)
        (bad → exec (.doeRequest req flash) s = .next (doeAnswer 3 [] s)) ∧
        (¬bad → op = 0 → (∀ e, signReport 2 (req.drop 4) flash s = .error e →
            exec (.doeRequest req flash) s = .next (doeAnswer e [] (indexRefused e s))) ∧
          (∀ l t, signReport 2 (req.drop 4) flash s = .ok (l, t) → exec (.doeRequest req flash) s = .next (doeAnswer 0 l t))) ∧
        (¬bad → op = 1 → exec (.doeRequest req flash) s = .next (doeAnswer 0 (certificate s) s)) ∧
        (¬bad → op = 2 → exec (.doeRequest req flash) s = .next (doeAnswer 0 [] s))))

/-- R480, R483, R489, R490, R573: what the link's events do, and when they have no effect. A retrain holds requests until it ends; a completion
without an outstanding request is discarded.
R482, R485, R542: configuration space with PCIe's layout, which is the model's (log entry on configuration space). A status word clears the
bits written as 1; every other word takes the value of its writable bits alone. A vector is sent, kept pending, or lost while MSI-X is disabled. -/
def Obligations.HostLink : Prop :=
  (∀ (s : State),
     (∀ a, exec (.cxlSnoop a) s = .next s) ∧
     (∀ p, (s.hl.up = false ∨ s.hl.loss.isSome = true ∨ p = true) → exec (.inboundUnsupported p) s = .next s) ∧
     (s.hl.up = true → s.hl.loss = none →
       exec (.inboundUnsupported false) s = .next (hlEvent 4 (count Reg.HL_CNT_INBOUND_UR (aerSet 20 s))) ∧
       (∀ v w, exec (.linkRetrain false v w) s = .next (s.setHl { s.hl with retrain := true })) ∧
       (∀ v w, s.hl.retrain = true → 1 ≤ v → v ≤ 6 → 1 ≤ w → w ≤ 16 → exec (.linkRetrain true v w) s =
         .next (flushHost (hlEvent 0 (count Reg.HL_CNT_RETRAIN (linkRate v w (s.setHl { s.hl with retrain := false })))))) ∧
       (∀ v w, (s.hl.retrain = false ∨ v = 0 ∨ 6 < v ∨ w = 0 ∨ 16 < w) → exec (.linkRetrain true v w) s = .next s)) ∧
     (∀ e v w, (s.hl.up = false ∨ s.hl.loss.isSome = true) → exec (.linkRetrain e v w) s = .next s) ∧
     (∀ v w flit cxl, s.hl.up = false → s.hl.perstLow = false → s.hl.loss = none → powered s = true →
       s.sec.stage ≠ .rom → s.sec.stage ≠ .power → 1 ≤ v → v ≤ 6 → 1 ≤ w → w ≤ 16 → exec (.hostLinkTrained v w flit cxl) s = .next (
         let u := linkRate v w (s.setHl { s.hl with up := true, retrain := false })
         flushHost (configApply (regField Reg.HL_LINK_STAT 11 9 (b2n (flit || v == 6) + 2 + b2n cxl * 4) u)))) ∧
     (∀ v w flit cxl, (s.hl.up = true ∨ s.hl.perstLow = true ∨ s.hl.loss.isSome = true ∨ powered s = false ∨ s.sec.stage = .rom ∨ s.sec.stage = .power) →
       exec (.hostLinkTrained v w flit cxl) s = .next s) ∧
     (∀ tag, isOn s = true → hostReqOf s tag = none →
       (∀ st data, exec (.hostReadCompletion tag st data) s = .next s) ∧ exec (.hostCplTimeout tag) s = .next s) ∧
     (∀ tag r, isOn s = true → hostReqOf s tag = some r →
       exec (.hostCplTimeout tag) s = .next (hostReadEnds tag (.error .bus) (hlEvent 1 (count Reg.HL_CNT_CPL_TIMEOUT (aerSet 14 s)))) ∧
       (s.hl.up = true → s.hl.retrain = false → ∀ data,
         (data.length = r.bytes → exec (.hostReadCompletion tag 0 data) s =
           .next (hostReadEnds tag (.ok data) (countN Reg.HL_CNT_RX_BYTES data.length s))) ∧
         (∀ st, st = 1 ∨ st = 2 → exec (.hostReadCompletion tag st data) s =
           .next (hostReadEnds tag (.error (refusedRead s)) (hlEvent 2 (count Reg.HL_CNT_UR_CA_RX s)))) ∧
         exec (.hostReadCompletion tag 3 data) s =
           .next (hostReadEnds tag (.error .bus) (hlEvent 3 (count Reg.HL_CNT_POISON_RX (aerSet 12 s))))))) ∧
  (∀ (s : State),
     (∀ off size value, (s.hl.up = false ∨ s.hl.loss.isSome = true ∨ 4096 ≤ off ∨ 4 < off % 4 + size ∨ size = 0) →
       exec (.pcieConfigWrite off size value) s = .next s) ∧
     (∀ off value, s.hl.up = true → s.hl.loss = none → off < 4096 → off % 4 = 0 →
       let put (n : Nat) : State := configApply (s.setHl { s.hl with config := mset (configReset off) s.hl.config off n })
       let kept := configGet s off &&& ((2 ^ 32 - 1) ^^^ configMask off)
       let new := kept ||| (setBits (configGet s off) 31 0 value &&& configMask off)
       (off = 0x104 ∨ off = 0x110 → exec (.pcieConfigWrite off 4 value) s =
         .next (put (configGet s off &&& ((2 ^ 32 - 1) ^^^ setBits 0 31 0 value)))) ∧
       (off ≠ 0x104 → off ≠ 0x110 → off ≠ 0x058 → off ≠ 0x044 → exec (.pcieConfigWrite off 4 value) s = .next (put new)) ∧
       (off = 0x058 → exec (.pcieConfigWrite off 4 value) s = .next (if bit (setBits 0 31 0 value) 15 then flr (put new) else put new)) ∧
       (off = 0x044 → exec (.pcieConfigWrite off 4 value) s =
         .next (if bits new 1 0 = 3 then d3hotEntry (put new) else if bits new 1 0 = 0 then d0Entry (put new) else put new))) ∧
     (∀ u, configApply u = sendAllPending (
       let on := bit (configGet u 0x0B0) 31
       let vectors := if on then u.hl.msix else u.hl.msix.map fun p => (p.1, { p.2 with pba := false })
       let pair := bit (configGet u 0x30C) 0 && bit (regGet u Reg.HL_LINK_STAT) 11
       u.setHl { u.hl with
         ats := bit (configGet u 0x254) 31
         pri := bit (configGet u 0x264) 0
         cxlCache := pair
         msixEnable := on
         msixMask := bit (configGet u 0x0B0) 30
         msix := vectors })) ∧
     ((s.hl.up = false ∨ s.hl.loss.isSome = true ∨ s.pwr.pstate ≠ .run) → exec .d3hotEntry s = .next s) ∧
     ((s.hl.loss.isSome = true ∨ s.pwr.pstate ≠ .d3hot) → exec .d0Entry s = .next s) ∧
     (s.hl.loss = none → s.pwr.pstate = .d3hot → exec .d0Entry s = .next (putPState .run s)) ∧
     (s.hl.up = true → s.hl.loss = none → s.pwr.pstate = .run → exec .d3hotEntry s = .next (putPState .d3hot (
       let miss (u : State) (a : Armed) : State := syncMissed a (u.setFab { u.fab with armed := u.fab.armed.filter fun x => x.sync != a.sync })
       let u := s.fab.armed.foldl miss s
       (u.sched.nodes.map (·.ctx)).foldl (fun v c => preempt c true v) u))) ∧
     (∀ v, hostServed s (0x20000 + 16 * v) = true → v < 2048 → exec (.msixUnmask v) s =
       .next (sendPending v (setMsix v { msixOf s v with masked := false } s))) ∧
     (∀ v, (hostServed s (0x20000 + 16 * v) = false ∨ 2048 ≤ v) → exec (.msixUnmask v) s = .next s) ∧
     (∀ v, ((s.hl.msixEnable = false ∨ isReady s = false) → raiseVector v s = s ∧ sendPending v s = s) ∧
       (s.hl.msixEnable = true → isReady s = true →
         ((s.hl.msixMask = true ∨ (msixOf s v).masked = true) → raiseVector v s = setMsix v { msixOf s v with pba := true } s ∧ sendPending v s = s) ∧
         (s.hl.msixMask = false → (msixOf s v).masked = false →
           raiseVector v s = count Reg.HL_CNT_MSIX (s.setHl { s.hl with vectors := s.hl.vectors ++ [v] }) ∧
           ((msixOf s v).pba = false → sendPending v s = s) ∧
           ((msixOf s v).pba = true → sendPending v s =
             count Reg.HL_CNT_MSIX (setMsix v { msixOf s v with pba := false } (s.setHl { s.hl with vectors := s.hl.vectors ++ [v] })))))))

/-- R9, R491, R492, R494 to R496: the host-loss reset. A cause during a reset, in the ROM or in a halted part starts none.
The state after reset. The registers whose reset value the spec does not state read the value that the log names. -/
def Obligations.ResetAndHostLoss : Prop :=
  (∀ (s : State),
     (s.hl.up = true → exec .linkDown s = .next (hostLoss 1 0 0 [] s) ∧ exec .hotReset s = .next (hostLoss 3 0 0 [] s) ∧
       exec .flr s = .next (hostLoss 4 0 0 [] s)) ∧
     (s.hl.up = false → exec .linkDown s = .next s ∧ exec .hotReset s = .next s ∧ exec .flr s = .next s) ∧
     (s.hl.perstLow = true → exec .perstNAssert s = .next s) ∧
     (s.hl.perstLow = false → exec .perstNAssert s = .next (hostLoss 2 0 0 [] (s.setHl { s.hl with perstLow := true }))) ∧
     (∀ cause fault block cs, (isOn s = false ∨ s.sec.stage = .rom ∨ s.sec.stage = .halted) → hostLoss cause fault block cs s = s) ∧
     (∀ cause fault block cs, isOn s = true → s.sec.stage ≠ .rom → s.sec.stage ≠ .halted → ∃ l : Loss,
       l.cause = cause ∧ l.fault = fault ∧ l.block = block ∧ l.time = s.now ∧ l.dropped = s.hl.queued.length ∧
       l.reads = s.hl.reads.length ∧ l.outstanding = s.crn.started.length ∧ hostLoss cause fault block cs s =
         let u := dropHost cause { s with free := s.free + 1 }
         let v := sendDepart (if cause = 5 then 2 else 1) (u.setHl { u.hl with loss := some l })
         cs.foldl (fun t c => complete c stDeviceError 0 0 t) (divertWaiting (loseMgrPackets v))) ∧
     (∀ cause, (dropHost cause s).hl.queued = [] ∧ (dropHost cause s).hl.reads = [] ∧
       ((dropHost cause s).hl.up = true ↔ s.hl.up = true ∧ 3 < cause)) ∧
     (s.hl.loss = none → exec .hostLossResetDone s = .next s) ∧
     (∀ l, s.hl.loss = some l → exec .hostLossResetDone s = .next (startTraining (putStage .power (persistent true (crashWrite l s))))) ∧
     (∀ sram, (persistent sram s).mem = State.reset.mem ∧ (persistent sram s).sched = State.reset.sched ∧
       (persistent sram s).fab = State.reset.fab ∧ (persistent sram s).sec.boots = s.sec.boots ∧
       (persistent sram s).sec.indexA = s.sec.indexA ∧ (persistent sram s).sec.indexB = s.sec.indexB ∧ (persistent sram s).pending = s.pending) ∧
     (∀ v, hostServed s Reg.HL_CRASH_CTL = true → exec (.hlCrashCtlWrite v) s =
       .next (if bit v 0 then crashClear s else s)) ∧
     (∀ v, hostServed s Reg.HL_CRASH_CTL = false → exec (.hlCrashCtlWrite v) s = .next s)) ∧
  (Canonical State.reset ∧ State.reset.pending = [] ∧ State.reset.sec.stage = .rom ∧ State.reset.mem = {} ∧
   State.reset.hl.up = false ∧ State.reset.fab.devId = none ∧ State.reset.fab.formed = false ∧
   (∀ off, regGet State.reset off = regReset off % 2 ^ 64) ∧ (∀ a n, memRead State.reset a n = List.replicate n 0))

/-- R501 to R508: DIGEST_REGION completes with whether it compared and whether it mismatched; a probe starts only on an idle Grove, strikes the Lattice of
a residue mismatch at once, and else gives its signatures to its pair. The errors of the Grove's hardware are the command's operands. -/
def Obligations.DigestsAndProbes : Prop :=
  ∀ (s : State), isOn s = true →
    (∀ c, let u := startCmd c s
      let bad := 2 ^ 40 < par c 1 ∨ par c 1 = 0 ∨ bits (par c 1) 63 41 ≠ 0 ∨ bit (par c 0) 56 = false ∨ (par c 2 = 0 ∧ par c 3 = 0) ∨
        par c 2 % 16 ≠ 0 ∨ par c 3 % 16 ≠ 0
      (bad → exec (.digestRegion c) s = .next (badPacket c 0 u)) ∧
      (¬bad → ∀ (m e : Bool) v, digestAcc c u = .ok ((m, e), v) →
        let w := countN Reg.INT_CNT_DIGEST_BYTES (par c 1) (count Reg.INT_CNT_DIGEST (clearWork (.cmd c) v))
        exec (.digestRegion c) s = .next (completeOk c (b2n m + 2 * b2n e) (if e then count Reg.INT_CNT_DIGEST_MISMATCH w else w)))) ∧
    (∀ k, (128 ≤ k ∨ isReady s = false ∨ bit (regGet s Reg.PRB_CFG) 0 = false ∨ isParked s k = true ∨ isQuarantined s k = true ∨
        bit (regGet s Reg.PWR_STAT) 3 = true ∨ (groveOf s k).tiles ≠ [] ∨ ∃ r ∈ s.prb.runs, r.grove = k) → exec (.probeStart k) s = .next s) ∧
    (∀ k, mayProbe s k = true → mget 0 s.prb.last k = 0 →
      let pairs := s.prb.pairs.map (pairMoved s)
      (∀ p, pairs.find? (pairAwaits k) = some p → exec (.probeStart k) s = .next (
        s.setPrb { s.prb with pairs := pairs, runs := s.prb.runs ++ [{ grove := k, n := p.n }], last := mset 0 s.prb.last k (s.now + 1) })) ∧
      (pairs.find? (pairAwaits k) = none → pairAwaits k (probePair s s.prb.next) = false → exec (.probeStart k) s = .next s) ∧
      (pairs.find? (pairAwaits k) = none → pairAwaits k (probePair s s.prb.next) = true → exec (.probeStart k) s = .next (
        let runs := s.prb.runs ++ [{ grove := k, n := s.prb.next }]
        s.setPrb { s.prb with pairs := pairs ++ [probePair s s.prb.next], runs := runs, next := (s.prb.next + 1) % 2 ^ 32, last := mset 0 s.prb.last k (s.now + 1) }))) ∧
    (∀ k errors, ((∀ r ∈ s.prb.runs, r.grove ≠ k) → exec (.probeRunEnd k errors) s = .next s) ∧
      (∀ r, (s.prb.runs.find? fun r => r.grove == k) = some r →
        let u := s.setPrb { s.prb with runs := s.prb.runs.filter fun x => x.grove != k }
        ∀ t v, tileCheck k (probeRun (regGet s Reg.PRB_SEED) r.n) u = (t, v) →
          (t.checked = false → exec (.probeRunEnd k errors) s = .next (t.retry.foldl (fun x P => latStrike k P x) v)) ∧
          (t.checked = true →
            let sig := (List.range 16).map fun L => ((errors.find? fun e => e.1 == L).map (·.2)).getD (probeSig t L)
            exec (.probeRunEnd k errors) s = .next (probeEnded k r.n sig (count Reg.INT_CNT_PROBE_RUN v))))) ∧
    (∀ n, ((∀ p ∈ s.prb.pairs, p.n ≠ n) → exec (.probeExpire n) s = .next s) ∧
      (∀ p, (s.prb.pairs.find? fun p => p.n == n) = some p → (p.firstEnd = none ∨ p.c.isSome = true) → exec (.probeExpire n) s = .next s) ∧
      (∀ p t, (s.prb.pairs.find? fun p => p.n == n) = some p → p.firstEnd = some t → p.c = none → exec (.probeExpire n) s = .next (
        let u := reachTime ((t + bits (regGet s Reg.PRB_CFG) 31 24 * 1000 * usUnits) % 2 ^ 64) s
        count Reg.INT_CNT_PROBE_EXPIRED (u.setPrb { u.prb with pairs := u.prb.pairs.filter fun q => q.n != n, runs := u.prb.runs.filter fun r => r.n != n }))))

/-- R517 to R521: a selector write restarts its counter or is refused; a freeze action takes place at its time or at once; a second FREEZE leaves the view.
R43, R526, R528, R530, R533: the trace function goes through the states of R43; its post phase ends by quota, limit or disarm. A dump slot is
armed once, and closes on disarm or expiry unless it has fired. -/
def Obligations.CountersTracesAndDumps : Prop :=
  (∀ (s : State),
     (∀ u i value, (hostServed s (Reg.EVT_SEL u i) = false ∨ 140 < u ∨ 7 < i) → exec (.evtSelWrite u i value) s = .next s) ∧
     (∀ u i value, hostServed s (Reg.EVT_SEL u i) = true → u ≤ 140 → i ≤ 7 →
       ((evtListed u (bits value 7 0) = false ∨ bits value 63 55 ≠ 0) →
         exec (.evtSelWrite u i value) s = .next (count Reg.OBS_CNT_SEL_REFUSED s)) ∧
       (evtListed u (bits value 7 0) = true → bits value 63 55 = 0 →
         exec (.evtSelWrite u i value) s = .next (regPut (Reg.EVT_CNT u i) 0 (regPut (Reg.EVT_SEL u i) value s)))) ∧
     (∀ c, isOn s = true →
       let u := startCmd c s
       let op := bits (par c 0) 1 0
       let a : CounterAct := { cmd := some c, op := op, id := bits (par c 0) 61 32, time := par c 1 }
       let d := (par c 1 + 2 ^ 64 - u.now) % 2 ^ 64
       let bad := op = 3 ∨ bits (par c 0) 31 3 ≠ 0 ∨ bits (par c 0) 63 62 ≠ 0 ∨
         (bit (par c 0) 2 = true ∧ (u.fab.role ≠ .manager ∨ d < 20 * usUnits ∨ 10000000 * usUnits < d))
       ((∃ x ∈ u.obs.acts, x.cmd = some c) → exec (.counterFreeze c) s = .next u) ∧
       ((∀ x ∈ u.obs.acts, x.cmd ≠ some c) → (bad → exec (.counterFreeze c) s = .next (badPacket c 0 u)) ∧
         (¬bad → (par c 1 = 0 ∨ ahead u (par c 1) = false) → exec (.counterFreeze c) s = .next (counterActDone a u)) ∧
         (¬bad → par c 1 ≠ 0 → ahead u (par c 1) = true →
           let v := u.setObs { u.obs with acts := u.obs.acts ++ [a] }
           exec (.counterFreeze c) s =
             .next (if bit (par c 0) 2 then send 0xFFFF (.syncTrigger (par c 1) (bits (par c 0) 61 32 + op * 2 ^ 30)) v else v)))) ∧
     (∀ k, isOn s = true → (s.obs.acts[k]? = none → exec (.freezeTime k) s = .next s) ∧
       (∀ a, s.obs.acts[k]? = some a →
         let u := reachTime a.time (s.setObs { s.obs with acts := s.obs.acts.eraseIdx k })
         (a.cmd = none → exec (.freezeTime k) s = .next (counterAct a false u)) ∧
         (∀ c, a.cmd = some c → exec (.freezeTime k) s =
           .next (if isStarted u c || a.domain then completeOk c (freezeResult (counterAct a false u) a.op) (counterAct a false u) else u)))) ∧
     (∀ h time id, accepts h (.syncTrigger time id) s = true →
       exec (.syncTrigger h time id) s = .next (served h (.syncTrigger time id) (syncTrigger time id) s)) ∧
     (∀ time id, let a : CounterAct := { cmd := none, op := bits id 31 30, id := bits id 29 0, time := time }
       (bits id 31 30 = 3 → syncTrigger time id s = s) ∧
       (bits id 31 30 ≠ 3 → ahead s time = true → syncTrigger time id s = s.setObs { s.obs with acts := s.obs.acts ++ [a] }) ∧
       (bits id 31 30 ≠ 3 → ahead s time = false → syncTrigger time id s = counterAct a (time != s.now) s)) ∧
     (∀ (a : CounterAct) late,
       (a.op = 0 → (counterAct a late s).obs.frozen = none) ∧
       (a.op = 1 → (counterAct a late s).obs.frozen = some (s.obs.frozen.getD s.regs)) ∧
       (2 ≤ a.op → (counterAct a late s).obs.frozen = s.obs.frozen))) ∧
  (∀ (s : State),
     (∀ c, isOn s = true →
       let u := startCmd c s
       let t := u.obs.trace
       (bit (par c 0) 0 = true →
         (t.fn.state = .disabled → traceBad u c = true → exec (.traceArm c) s = .next (conclude c stBadPacket 0 0 u)) ∧
         (t.fn.state = .disabled → traceBad u c = false → exec (.traceArm c) s = .next (conclude c stOk 0 0 (traceHeader false (u.setTrace (traceArmed u c))))) ∧
         (t.fn.state = .enabled → exec (.traceArm c) s = .next (completeOk c 0 u)) ∧
         (t.fn.state = .draining ∨ t.fn.state = .drainingDeferred → ∃ fn, fn.state = .drainingDeferred ∧
           exec (.traceArm c) s = .next (complete c stDeferred 0 0 (u.setTrace { t with fn := fn })))) ∧
       (bit (par c 0) 0 = false →
         (t.fn.state = .disabled → exec (.traceArm c) s = .next (completeOk c 0 u)) ∧
         (t.fn.state = .enabled →
           let v := u.setTrace { t with fn := { t.fn with state := .draining, disables := [c] } }
           exec (.traceArm c) s = .next (if t.fired then v else traceClose 3 v)) ∧
         (t.fn.state = .draining → exec (.traceArm c) s = .next (u.setTrace { t with fn := { t.fn with disables := t.fn.disables ++ [c] } })) ∧
         (t.fn.state = .drainingDeferred → exec (.traceArm c) s = .next (cancelDeferred t.fn.deferred
           (u.setTrace { t with fn := { state := .draining, deferred := [], disables := t.fn.disables ++ [c] } }))))) ∧
     (∀ value, hostServed s Reg.OBS_TRACE_FIRE = true → exec (.traceFire value) s = .next (if bit value 0 then traceFire 3 0 s else s)) ∧
     (∀ kind b, ((s.obs.trace.fn.state ≠ .enabled ∨ s.obs.trace.fired = true) → traceFire kind b s = s) ∧
       (s.obs.trace.fn.state = .enabled → s.obs.trace.fired = false → traceFire kind b s =
         tracePush 4096 ⟨s.now, traceWord1 0xF0 0xFF 0 kind, b, 0⟩ (s.setTrace { s.obs.trace with fired := true, trigTime := s.now, accepted := 1 }))) ∧
     (isOn s = true → let t := s.obs.trace
       ((t.fn.state ≠ .enabled ∨ t.fired = false ∨ t.limitMs = 0) → exec .tracePostLimit s = .next s) ∧
       (t.fn.state = .enabled → t.fired = true → t.limitMs ≠ 0 → exec .tracePostLimit s =
         .next (traceClose (if t.quota ≤ t.accepted then 1 else 2) (reachTime (t.trigTime + t.limitMs * 1000 * usUnits) s))) ∧
       ((t.live = false ∨ t.fired = false) → exec .tracePostEnd s = .next s) ∧
       (t.live = true → t.fired = true → (t.fn.state ≠ .enabled → exec .tracePostEnd s = .next (traceClose 3 s)) ∧
         (t.fn.state = .enabled → exec .tracePostEnd s = .next (if t.quota ≤ t.accepted then traceClose 1 s else s)))) ∧
     (∀ c, isOn s = true →
       let u := startCmd c s
       let slot := bits (par c 0) 2 1
       let bad := c.ctx = 0 ∨ bits (par c 0) 31 3 ≠ 0 ∨ bits (par c 2) 63 57 ≠ 0 ∨ bits (par c 3) 63 33 ≠ 0 ∨ par c 2 % 4096 ≠ 0 ∨
         (bit (par c 0) 0 = true ∧ (bit (par c 2) 56 = false ∨ par c 3 = 0 ∨ par c 3 % 4096 ≠ 0 ∨ 2 ^ 32 < par c 3))
       (bad → exec (.dumpTensor c) s = .next (badPacket c 0 u)) ∧
       (¬bad → bit (par c 0) 0 = true → (dumpSlotOf u c.ctx slot).isSome = true → exec (.dumpTensor c) s = .next (complete c stNoResource 0 0 u)) ∧
       (¬bad → bit (par c 0) 0 = true → dumpSlotOf u c.ctx slot = none → ∀ v,
         ctxWrite (.cmd c) c.ctx (par c 2) (dumpHeader (dumpArmed u c) false) u = .ok ((), v) →
         let w := clearWork (.cmd c) v
         let x := w.setObs { w.obs with dumps := w.obs.dumps ++ [dumpArmed u c] }
         ((∀ a b, c.src ≠ .node a b) → exec (.dumpTensor c) s = .next x) ∧
         (∀ a b, c.src = .node a b → exec (.dumpTensor c) s = .next (completeOk c 0 x))) ∧
       (¬bad → bit (par c 0) 0 = false →
         (dumpSlotOf u c.ctx slot = none → exec (.dumpTensor c) s = .next (completeOk c 0 u)) ∧
         (∀ d, dumpSlotOf u c.ctx slot = some d → exec (.dumpTensor c) s = .next (completeOk c 0 (if d.fired then u else closeDump d u))))) ∧
     (∀ ctx slot, isOn s = true → (dumpSlotOf s ctx slot = none → exec (.dumpExpire ctx slot) s = .next s) ∧
       (∀ d, dumpSlotOf s ctx slot = some d → (d.fired = true ∨ d.limitUs = 0 → exec (.dumpExpire ctx slot) s = .next s) ∧
         (d.fired = false → d.limitUs ≠ 0 → exec (.dumpExpire ctx slot) s = .next (closeDump d (reachTime (d.armTime + d.limitUs * usUnits) s))))))

/-- R495, R539, R541, R555 to R558, R561 to R563: the power states. An emergency stop keeps fuses, flash and the retained SRAM with the cause; a loss of input power keeps
fuses and flash alone.
R568, R569: the sideband. `answers` lists what the part sent; `none` is a NACK. -/
def Obligations.PowerAndSideband : Prop :=
  (∀ (s : State),
     (s.pwr.pstate = .off → exec .inputPowerUp s = .next (s.setPwr { s.pwr with inrush := true })) ∧
     (s.pwr.pstate ≠ .off → exec .inputPowerUp s = .next s ∧ ∀ a, exec (.inrushDone a) s = .next s) ∧
     (s.pwr.inrush = false → ∀ a, exec (.inrushDone a) s = .next s) ∧
     (s.pwr.pstate = .off → s.pwr.inrush = true → ∀ a, exec (.inrushDone a) s =
       .next (clocksOff (putPState .standby (s.setPwr { s.pwr with inrush := false, smbAddr := a % 4 })))) ∧
     exec .inputPowerLoss s = .next (clocksOff (putPState .off (persistent false s))) ∧
     exec .emstopNLow s = .next (emergencyStop 1 0 s) ∧ exec .overVoltage s = .next (emergencyStop 2 0 s) ∧
     exec .overCurrent s = .next (emergencyStop 3 0 s) ∧ exec .powerStageFault s = .next (emergencyStop 5 0 s) ∧
     (∀ cause sensor, (powered s = false → emergencyStop cause sensor s = s) ∧
       (powered s = true → emergencyStop cause sensor s =
         clocksOff (putPState .stopped (persistent true (regPut Reg.PWR_STOP_CAUSE (cause + sensor * 8) (stopRecord s)))))) ∧
     (exec .rootPllUnlock s = .next (
       let u := regField Reg.CLK_STAT 0 0 0 s
       if s.pwr.pstate = .run then emergencyStop 6 0 u else u)) ∧
     (∀ pll, (powered s = false ∨ 4 < pll) → exec (.pllLock pll) s = .next s) ∧
     (powered s = true → exec (.pllLock 0) s = .next (startTraining (regOr Reg.CLK_STAT 1 s)) ∧
       ∀ pll, 1 ≤ pll → pll ≤ 4 → exec (.pllLock pll) s = .next (startTraining (regOr Reg.CLK_STAT (1 <<< (pll + 1)) s))) ∧
     (∀ q, isOn s = true → (4 ≤ q → exec (.serdesPllUnlock q) s = .next s) ∧
       (q < 4 → exec (.serdesPllUnlock q) s = .next (
         let u := regField Reg.CLK_STAT (q + 2) (q + 2) 0 s
         resumeReady (chordFail (4 * q + 3) (chordFail (4 * q + 2) (chordFail (4 * q + 1) (chordFail (4 * q) u))))))) ∧
     (∀ temps, (powered s = false → exec (.sensorReadTick temps) s = .next s) ∧
       (powered s = true → ∃ u, u = (s.setRegs u.regs).setPwr { s.pwr with hot := u.pwr.hot, cool := u.pwr.cool } ∧
         (Registers.wf s.regs = true → ∀ n t, n < 48 → temps[n]? = some t → regGet u (Reg.THM_SENSOR n) = t % 2 ^ 16 + 2 ^ 16) ∧
         (∀ o, (∀ n, n < 48 → o ≠ Reg.THM_SENSOR n) → regGet u o = regGet s o) ∧
         ((∀ n, n < 48 → anyAbove u [n] 1680 = false) → exec (.sensorReadTick temps) s = .next u) ∧
         (∀ n, n < 48 → anyAbove u [n] 1680 = true → (∀ m, m < n → anyAbove u [m] 1680 = false) →
           exec (.sensorReadTick temps) s = .next (emergencyStop 4 n u)))) ∧
     (∀ high mv temps,
       let u := sideAnswer (some []) s
       let go := high = true ∧ 40000 ≤ mv ∧ mv ≤ 48000 ∧ ∀ t ∈ temps, sext t 16 < 1520
       (s.pwr.pstate = .off → exec (.restart true high mv temps) s = .next s) ∧
       (s.pwr.pstate = .stopped → go → exec (.restart true high mv temps) s = .next (putPState .standby (putStage .rom u))) ∧
       (s.pwr.pstate = .stopped → ¬go → exec (.restart true high mv temps) s = .next u) ∧
       (s.pwr.pstate ≠ .off → s.pwr.pstate ≠ .stopped → exec (.restart true high mv temps) s = .next u) ∧
       exec (.restart false high mv temps) s = .next s)) ∧
  (∀ (s : State),
     let answer (l : List Byte) : State := s.setPwr { s.pwr with answers := s.pwr.answers ++ [some l] }
     let nack : State := s.setPwr { s.pwr with answers := s.pwr.answers ++ [none] }
     (s.pwr.pstate = .off → ∀ pec n, exec (.ident pec) s = .next s ∧ exec (.telemetry pec) s = .next s ∧ exec (.sensor pec n) s = .next s ∧
       exec (.capSet pec n) s = .next s ∧ exec (.capGet pec) s = .next s ∧ exec (.events pec) s = .next s ∧ exec (.eventsClear pec n) s = .next s ∧
       exec (.crash pec n) s = .next s ∧ exec (.crashClear pec) s = .next s ∧ exec .smbusAlertResponse s = .next s) ∧
     (s.pwr.pstate ≠ .off → ∀ n, exec (.ident false) s = .next nack ∧ exec (.telemetry false) s = .next nack ∧ exec (.sensor false n) s = .next nack ∧
       exec (.capGet false) s = .next nack ∧ exec (.events false) s = .next nack ∧ exec (.crash false n) s = .next nack ∧
       exec (.capSet false n) s = .next s ∧ exec (.eventsClear false n) s = .next s ∧ exec (.crashClear false) s = .next s) ∧
     (s.pwr.pstate ≠ .off →
       exec (.ident true) s = .next (answer (leBytes 4 (regGet s Reg.GLB_PART) ++ leBytes 4 0 ++ leBytes 8 (regGet s Reg.GLB_UID))) ∧
       exec (.telemetry true) s = .next (answer (telemetryBytes s)) ∧
       (∀ n, n < 48 → exec (.sensor true n) s = .next (answer (leBytes 4 (regGet s (Reg.THM_SENSOR n))))) ∧
       (∀ n, 48 ≤ n → exec (.sensor true n) s = .next nack) ∧
       exec (.capGet true) s = .next (answer (leBytes 2 (effectiveCap s))) ∧
       (∀ w, (w = 0 ∨ (800 ≤ w ∧ w ≤ 2500)) → exec (.capSet true w) s = .next (sideAnswer (some []) (setCap 2 w s))) ∧
       (∀ w, w ≠ 0 → (w < 800 ∨ 2500 < w) → exec (.capSet true w) s = .next nack) ∧
       exec (.events true) s = .next (answer (leBytes 2 (regGet s Reg.PWR_EVENTS + if s.pwr.pstate = .stopped then 2 ^ 15 else 0))) ∧
       (∀ v, exec (.eventsClear true v) s = .next (sideAnswer (some []) (regWrite Reg.PWR_EVENTS (v % 2 ^ 15) s))) ∧
       (∀ n, n < 8 → exec (.crash true n) s = .next (answer (words8 ((List.range 4).map fun j => regGet s (Reg.HL_CRASH (4 * n + j)))))) ∧
       (∀ n, 8 ≤ n → exec (.crash true n) s = .next nack) ∧
       exec (.crashClear true) s = .next (sideAnswer (some []) (crashClear s)) ∧
       ((regGet s Reg.PWR_EVENTS ≠ 0 ∨ s.pwr.pstate = .stopped) →
         exec .smbusAlertResponse s = .next (answer [BitVec.ofNat 8 ((0x58 + s.pwr.smbAddr) * 2)])) ∧
       (regGet s Reg.PWR_EVENTS = 0 → s.pwr.pstate ≠ .stopped → exec .smbusAlertResponse s = .next nack)))

/-- R544 to R554: the regulators. The samples (voltage, load, average power, cycles held or withheld) are the commands' operands. -/
def Obligations.PowerControl : Prop :=
  ∀ (s : State),
    (∀ c, isOn s = true →
      let u := startCmd c s
      let w := bits (par c 0) 11 0
      let bad := bits (par c 0) 63 13 ≠ 0 ∨ (bit (par c 0) 12 = false ∧ (w < 800 ∨ 2500 < w))
      (bad → exec (.powerCap c) s = .next (badPacket c 0 u)) ∧
      (¬bad → c ∈ u.pwr.capCmds → exec (.powerCap c) s = .next u) ∧
      (¬bad → c ∉ u.pwr.capCmds → exec (.powerCap c) s =
        .next (setCap (capSlot c) (if bit (par c 0) 12 then 0 else w) (u.setPwr { u.pwr with capCmds := u.pwr.capCmds ++ [c] })))) ∧
    capBinding 0 0 0 = (2500, 3) ∧
    (∀ host mgr bmc, ∀ w ∈ [host, mgr, bmc], w ≠ 0 → (capBinding host mgr bmc).1 ≤ w) ∧
    (powered s = false → (∀ a w, exec (.capControlTick a w) s = .next s) ∧ (∀ a b c, exec (.rampGovernorTick a b c) s = .next s) ∧
      exec .thermalTick s = .next s ∧ (∀ n, exec (.thermalPark n) s = .next s) ∧ ∀ d, exec (.thermalUnpark d) s = .next s) ∧
    (powered s = true → ∀ avg withheld,
      let cap := bits (regGet s Reg.PWR_CAP) 47 36
      let u := countN Reg.PWR_CNT_DUTY_HOLD withheld (regField Reg.PWR_INPUT 47 32 avg s)
      let u := if cap < avg then count Reg.PWR_CNT_CAP_ABOVE u else u
      let u := putDuty 0 (thermalDuty u 0) (capStep avg cap (capDuty u 0)) u
      let u := putDuty 1 (thermalDuty u 1) (capStep avg cap (capDuty u 1)) u
      exec (.capControlTick avg withheld) s = .next (powerFlags (if avg * 100 ≤ cap * 103 then capEnforced u else u))) ∧
    (powered s = true → ∀ mv load held, ∃ u, u.pwr.grove = min load (s.pwr.grove + s.pwr.ballast + 40) ∧
      u.pwr.grove + u.pwr.ballast ≤ s.pwr.grove + s.pwr.ballast + 40 ∧ u.pwr.ballast ≤ 60000 ∧
      exec (.rampGovernorTick mv load held) s =
        .next (powerFlags (if u.pwr.grove < load then countN Reg.PWR_CNT_RAMP_HOLD held (pwrEvent 5 u) else u))) ∧
    (∀ k, isOn s = true → (s.pwr.preramps[k]? = none → exec (.ballastPrerampStart k) s = .next s) ∧
      (∀ p, s.pwr.preramps[k]? = some p → (p.begun = true → exec (.ballastPrerampStart k) s = .next s) ∧
        (p.begun = false → exec (.ballastPrerampStart k) s = .next (
          let u := reachTime ((p.time + 2 ^ 64 - rampLead p.step) % 2 ^ 64) s
          u.setPwr { u.pwr with preramps := u.pwr.preramps.set k { p with begun := true } })))) ∧
    (powered s = true → exec .thermalTick s = .next (powerFlags (thermalDie 1 (thermalDie 0 s)))) ∧
    (∀ d, let old := thermalDuty s d
      let hot := anyAbove s (dieSensors d ++ (List.range 16).map (· + 32)) 1600
      (hot = true → old ≠ 64 → thermalDie d s = putDuty d (max 8 (old - 4)) (capDuty s d) s) ∧
      (hot = true → old = 64 → thermalDie d s = tracePower 1 (pwrEvent 0 (putDuty d 60 (capDuty s d) s))) ∧
      (hot = false → anyAbove s (dieSensors d) 1568 = true → thermalDie d s = s) ∧
      (hot = false → anyAbove s (dieSensors d) 1568 = false → (old < 60 ∨ 64 ≤ old) →
        thermalDie d s = putDuty d (min 64 (old + 4)) (capDuty s d) s) ∧
      (hot = false → anyAbove s (dieSensors d) 1568 = false → 60 ≤ old → old < 64 →
        thermalDie d s = tracePower 2 (pwrEvent 1 (putDuty d 64 (capDuty s d) s)))) ∧
    (∀ n, (32 ≤ n ∨ mget 0 s.pwr.hot n = 0 ∨ n / 2 ∈ s.pwr.parked ∨ thermalDuty s (n / 16) ≠ 8) → exec (.thermalPark n) s = .next s) ∧
    (∀ n, powered s = true → n < 32 → mget 0 s.pwr.hot n ≠ 0 → n / 2 ∉ s.pwr.parked → thermalDuty s (n / 16) = 8 → s.pwr.lastPark = 0 →
      exec (.thermalPark n) s = .next (
        let u := reachTime ((mget 0 s.pwr.hot n - 1 + 1000 * usUnits) % 2 ^ 64) s
        parkRow (n / 2) (u.setPwr { u.pwr with lastPark := if u.pwr.lastPark = 0 then u.now + 1 else
          (reachTime ((u.pwr.lastPark - 1 + 1000 * usUnits) % 2 ^ 64) u).now + 1 }))) ∧
    (∀ d, ((∀ r ∈ s.pwr.parked, r / 8 ≠ d) ∨ mget 0 s.pwr.cool d = 0) → exec (.thermalUnpark d) s = .next s) ∧
    (∀ d r, powered s = true → (s.pwr.parked.find? fun r => r / 8 == d) = some r → mget 0 s.pwr.cool d ≠ 0 → s.pwr.lastUnpark = 0 →
      exec (.thermalUnpark d) s = .next (
        let u := reachTime ((mget 0 s.pwr.cool d - 1 + 10000 * usUnits) % 2 ^ 64) s
        pwrEvent 3 (putParked (u.pwr.parked.erase r) (u.setPwr { u.pwr with lastUnpark := u.now + 1 }))))

/-- The block takes its commands in the order in which they were sent. With none waiting, a step is one N-cycle of time: the model's choice, log entry on the tick. -/
def Obligations.CommandsRunInOrder : Prop :=
  (∀ (s : State) (c : Instr) (rest : List Instr), s.pending = c :: rest → step s = exec c { s with pending := rest }) ∧
  (∀ s : State, s.pending = [] → step s = .next (nCycle s))

/-- Whatever the command and the state, memory and the register file keep their canonical form. -/
def Obligations.StepsKeepCanonicalForms : Prop :=
  ∀ s t : State, Canonical s → step s = .next t → Canonical t

/-- The spec gives every command an effect, if only none: errors are recorded in the state and in completions, so no command faults or is refused.
What the queue holds comes from outside alone: no command puts another into it or takes one out. -/
def Obligations.EveryCommandIsServed : Prop :=
  ∀ (c : Instr) (s : State), ∃ t, exec c s = .next t ∧ t.pending = s.pending

/-- R6. An aligned 32-bit word is unassigned when no register and no half of one lies there; the MSI-X table and its PBA are assigned. -/
def Obligations.UnassignedOffsets : Prop :=
  ∀ (s : State) (off : Nat), off % 4 = 0 → (off < 0x20000 ∨ 0x28100 ≤ off) → regRow off = none →
    (4 ≤ off → ∀ r, regRow (off - 4) = some r → r.width ≠ 64) →
    accessRead s off 4 = 0 ∧ (∀ value, accessWrite regEffect off 4 value s = s) ∧
    (∀ value, hostServed s off = true → exec (.hostRegisterWrite off 4 value) s = .next s)

/-- R49: the packed bytes of a format's codes hold every code at its place, and the reader of codes finds it there. -/
def Obligations.CodesPacked : Prop :=
  ∀ (f : Fmt) (codes : List Nat), (∀ c ∈ codes, c < 2 ^ f.width) → ∀ (i c : Nat), codes[i]? = some c →
    let w := f.width
    let l := packCodes w codes
    (∃ b : Byte, l[i * w / 8]? = some b ∧ bits b.toNat (w * (i % (8 / w)) + w - 1) (w * (i % (8 / w))) = c) ∧ codeAt f l i = c
end

