-- ==== Sys2Proof/Laws/Sparse.lean ====
section
/-!
SUPPORT. Laws of the sparse maps and of strictly rising key lists: reading after setting, and the canonical form.
-/

namespace Sys2Proof.Machine

variable {α : Type} [DecidableEq α]

theorem mwfFrom_le {d : α} : ∀ {m : Sparse α} {lo lo' : Nat}, lo' ≤ lo → mwfFrom d lo m = true → mwfFrom d lo' m = true
  | [], _, _, _, _ => rfl
  | (k, v) :: m, lo, lo', hl, h => by
    simp only [mwfFrom, Bool.and_eq_true, decide_eq_true_eq] at h ⊢
    exact ⟨⟨by omega, h.1.2⟩, h.2⟩

/-- Setting a key keeps the canonical form. -/
theorem mwfFrom_mset {d : α} : ∀ {m : Sparse α} {lo a : Nat} (v : α), lo ≤ a → mwfFrom d lo m = true →
    mwfFrom d lo (mset d m a v) = true
  | [], lo, a, v, hl, _ => by
    unfold mset
    split <;> simp_all [mwfFrom]
  | (k, x) :: m, lo, a, v, hl, h => by
    simp only [mwfFrom, Bool.and_eq_true, decide_eq_true_eq] at h
    unfold mset
    split
    · split
      · simp_all [mwfFrom]
      · simp only [mwfFrom, Bool.and_eq_true, decide_eq_true_eq]
        exact ⟨⟨hl, ‹_›⟩, ⟨by omega, h.1.2⟩, h.2⟩
    · split
      · split
        · exact mwfFrom_le (by omega) h.2
        · simp only [mwfFrom, Bool.and_eq_true, decide_eq_true_eq]
          exact ⟨⟨hl, ‹_›⟩, mwfFrom_le (by omega) h.2⟩
      · simp only [mwfFrom, Bool.and_eq_true, decide_eq_true_eq]
        exact ⟨h.1, mwfFrom_mset v (by omega) h.2⟩

theorem mwf_mset {d : α} {m : Sparse α} (a : Nat) (v : α) (h : mwf d m = true) : mwf d (mset d m a v) = true :=
  mwfFrom_mset v (Nat.zero_le a) h

theorem mwf_msetMany {d : α} : ∀ (l : List α) {m : Sparse α} (a : Nat), mwf d m = true → mwf d (msetMany d m a l) = true
  | [], _, _, h => h
  | v :: vs, _, a, h => mwf_msetMany vs (a + 1) (mwf_mset a v h)

/-- Leaving entries out keeps the canonical form. -/
theorem mwfFrom_filter {d : α} (p : Nat × α → Bool) : ∀ {m : Sparse α} {lo : Nat}, mwfFrom d lo m = true →
    mwfFrom d lo (m.filter p) = true
  | [], _, _ => rfl
  | (k, v) :: m, lo, h => by
    simp only [mwfFrom, Bool.and_eq_true, decide_eq_true_eq] at h
    simp only [List.filter]
    split
    · simp only [mwfFrom, Bool.and_eq_true, decide_eq_true_eq]
      exact ⟨h.1, mwfFrom_filter p h.2⟩
    · exact mwfFrom_le (by omega) (mwfFrom_filter p h.2)

theorem mwf_filter {d : α} (p : Nat × α → Bool) {m : Sparse α} (h : mwf d m = true) : mwf d (m.filter p) = true :=
  mwfFrom_filter p h

theorem mget_of_lt {d : α} : ∀ {m : Sparse α} {lo a : Nat}, mwfFrom d lo m = true → a < lo → mget d m a = d
  | [], _, _, _, _ => rfl
  | (k, v) :: m, lo, a, h, hl => by
    simp only [mwfFrom, Bool.and_eq_true, decide_eq_true_eq] at h
    rw [mget, if_neg (by omega), mget_of_lt h.2 (by omega)]

/-- A key reads what was last set. -/
theorem mget_mset_same {d : α} : ∀ {m : Sparse α} {lo : Nat} (a : Nat) (v : α), mwfFrom d lo m = true →
    mget d (mset d m a v) a = v
  | [], _, a, v, _ => by
    unfold mset
    split <;> simp_all [mget]
  | (k, x) :: m, lo, a, v, h => by
    simp only [mwfFrom, Bool.and_eq_true, decide_eq_true_eq] at h
    unfold mset
    split
    · split
      · rw [mget, if_neg (by omega), mget_of_lt h.2 (by omega)]; simp_all
      · simp [mget]
    · split
      · split
        · rw [mget_of_lt h.2 (by omega)]; simp_all
        · simp [mget]
      · rw [mget, if_neg (by assumption)]
        exact mget_mset_same a v h.2

/-- Setting a key leaves every other key as it was. -/
theorem mget_mset_other {d : α} : ∀ {m : Sparse α} {a b : Nat} (v : α), b ≠ a → mget d (mset d m a v) b = mget d m b
  | [], a, b, v, hb => by
    unfold mset
    split <;> simp [mget, hb]
  | (k, x) :: m, a, b, v, hb => by
    unfold mset
    split
    · split
      · rfl
      · rw [mget, if_neg hb]
    · split
      · subst_vars
        split
        · rw [mget, if_neg hb]
        · rw [mget, mget, if_neg hb, if_neg hb]
      · rw [mget, mget, mget_mset_other v hb]

theorem mget_mset {d : α} {m : Sparse α} {a b : Nat} {v : α} (h : mwf d m = true) :
    mget d (mset d m a v) b = if b = a then v else mget d m b := by
  split
  · subst_vars; exact mget_mset_same _ v h
  · exact mget_mset_other v ‹_›

/-- Outside a run of keys that is set, every key reads as it did. -/
theorem mget_msetMany_outside {d : α} : ∀ (l : List α) {m : Sparse α} {a b : Nat}, (b < a ∨ a + l.length ≤ b) →
    mget d (msetMany d m a l) b = mget d m b
  | [], _, _, _, _ => rfl
  | v :: vs, m, a, b, hb => by
    simp only [List.length_cons] at hb
    rw [msetMany, mget_msetMany_outside vs (by omega), mget_mset_other v (by omega)]

/-- Within the run every key reads its value. -/
theorem mget_msetMany_inside {d : α} : ∀ (l : List α) {m : Sparse α} {a : Nat} (i : Nat) (hi : i < l.length), mwf d m = true →
    mget d (msetMany d m a l) (a + i) = l[i]
  | v :: vs, m, a, 0, _, h => by
    rw [msetMany, mget_msetMany_outside vs (by omega)]
    exact mget_mset_same a v h
  | v :: vs, m, a, i + 1, hi, h => by
    rw [msetMany, show a + (i + 1) = a + 1 + i by omega]
    exact mget_msetMany_inside vs i (by simpa using hi) (mwf_mset a v h)

theorem mgetMany_length {d : α} : ∀ (n : Nat) (m : Sparse α) (a : Nat), (mgetMany d m a n).length = n
  | 0, _, _ => rfl
  | n + 1, m, a => by simp [mgetMany, mgetMany_length n]

theorem mgetMany_congr {d : α} : ∀ (n : Nat) {m m' : Sparse α} {a : Nat}, (∀ i, i < n → mget d m (a + i) = mget d m' (a + i)) →
    mgetMany d m a n = mgetMany d m' a n
  | 0, _, _, _, _ => rfl
  | n + 1, m, m', a, h => by
    rw [mgetMany, mgetMany, show mget d m a = mget d m' a from h 0 (by omega),
      mgetMany_congr n fun i hi => by simpa [Nat.add_assoc, Nat.add_comm 1] using h (i + 1) (by omega)]

/-- A run that is set reads back whole. -/
theorem mgetMany_msetMany {d : α} : ∀ (l : List α) {m : Sparse α} (a : Nat), mwf d m = true →
    mgetMany d (msetMany d m a l) a l.length = l
  | [], _, _, _ => rfl
  | v :: vs, m, a, h => by
    rw [List.length_cons, mgetMany, msetMany, mgetMany_msetMany vs (a + 1) (mwf_mset a v h),
      mget_msetMany_outside vs (by omega), mget_mset_same a v h]

/-! ### Strictly rising keys -/

theorem risingFrom_le : ∀ {l : List Nat} {lo lo' : Nat}, lo' ≤ lo → risingFrom lo l = true → risingFrom lo' l = true
  | [], _, _, _, _ => rfl
  | k :: ks, lo, lo', hl, h => by
    simp only [risingFrom, Bool.and_eq_true, decide_eq_true_eq] at h ⊢
    exact ⟨by omega, h.2⟩

theorem risingFrom_filter (p : Nat → Bool) : ∀ {l : List Nat} {lo : Nat}, risingFrom lo l = true → risingFrom lo (l.filter p) = true
  | [], _, _ => rfl
  | k :: ks, lo, h => by
    simp only [risingFrom, Bool.and_eq_true, decide_eq_true_eq] at h
    simp only [List.filter]
    split
    · simp only [risingFrom, Bool.and_eq_true, decide_eq_true_eq]
      exact ⟨h.1, risingFrom_filter p h.2⟩
    · exact risingFrom_le (by omega) (risingFrom_filter p h.2)

theorem risingFrom_keyInsert : ∀ {l : List Nat} {lo : Nat} (a : Nat), lo ≤ a → risingFrom lo l = true →
    risingFrom lo (keyInsert a l) = true
  | [], _, a, hl, _ => by simp [keyInsert, risingFrom, hl]
  | k :: ks, lo, a, hl, h => by
    simp only [risingFrom, Bool.and_eq_true, decide_eq_true_eq] at h
    unfold keyInsert
    split
    · simp only [risingFrom, Bool.and_eq_true, decide_eq_true_eq]
      exact ⟨hl, by omega, h.2⟩
    · split
      · simp only [risingFrom, Bool.and_eq_true, decide_eq_true_eq]
        exact h
      · simp only [risingFrom, Bool.and_eq_true, decide_eq_true_eq]
        exact ⟨h.1, risingFrom_keyInsert a (by omega) h.2⟩

end Sys2Proof.Machine
end

