-- ==== Sys2Proof/Laws/State.lean ====
section
/-!
SUPPORT. What each update of a part of the state leaves in each part.
-/

namespace Sys2Proof.Machine

@[simp] theorem State.setRegs_pending (s : State) (x) : (s.setRegs x).pending = s.pending := rfl
@[simp] theorem State.setRegs_regs (s : State) (x) : (s.setRegs x).regs = x := rfl
@[simp] theorem State.setRegs_free (s : State) (x) : (s.setRegs x).free = s.free := rfl
@[simp] theorem State.setRegs_mem (s : State) (x) : (s.setRegs x).mem = s.mem := rfl
@[simp] theorem State.setRegs_io (s : State) (x) : (s.setRegs x).io = s.io := rfl
@[simp] theorem State.setRegs_xlt (s : State) (x) : (s.setRegs x).xlt = s.xlt := rfl
@[simp] theorem State.setRegs_crn (s : State) (x) : (s.setRegs x).crn = s.crn := rfl
@[simp] theorem State.setRegs_sched (s : State) (x) : (s.setRegs x).sched = s.sched := rfl
@[simp] theorem State.setRegs_fab (s : State) (x) : (s.setRegs x).fab = s.fab := rfl
@[simp] theorem State.setRegs_hl (s : State) (x) : (s.setRegs x).hl = s.hl := rfl
@[simp] theorem State.setRegs_xch (s : State) (x) : (s.setRegs x).xch = s.xch := rfl
@[simp] theorem State.setRegs_tbl (s : State) (x) : (s.setRegs x).tbl = s.tbl := rfl
@[simp] theorem State.setRegs_obs (s : State) (x) : (s.setRegs x).obs = s.obs := rfl
@[simp] theorem State.setRegs_dma (s : State) (x) : (s.setRegs x).dma = s.dma := rfl
@[simp] theorem State.setRegs_xyl (s : State) (x) : (s.setRegs x).xyl = s.xyl := rfl
@[simp] theorem State.setRegs_gro (s : State) (x) : (s.setRegs x).gro = s.gro := rfl
@[simp] theorem State.setRegs_prb (s : State) (x) : (s.setRegs x).prb = s.prb := rfl
@[simp] theorem State.setRegs_pwr (s : State) (x) : (s.setRegs x).pwr = s.pwr := rfl
@[simp] theorem State.setRegs_sec (s : State) (x) : (s.setRegs x).sec = s.sec := rfl
@[simp] theorem State.setMem_pending (s : State) (x) : (s.setMem x).pending = s.pending := rfl
@[simp] theorem State.setMem_regs (s : State) (x) : (s.setMem x).regs = s.regs := rfl
@[simp] theorem State.setMem_free (s : State) (x) : (s.setMem x).free = s.free := rfl
@[simp] theorem State.setMem_mem (s : State) (x) : (s.setMem x).mem = x := rfl
@[simp] theorem State.setMem_io (s : State) (x) : (s.setMem x).io = s.io := rfl
@[simp] theorem State.setMem_xlt (s : State) (x) : (s.setMem x).xlt = s.xlt := rfl
@[simp] theorem State.setMem_crn (s : State) (x) : (s.setMem x).crn = s.crn := rfl
@[simp] theorem State.setMem_sched (s : State) (x) : (s.setMem x).sched = s.sched := rfl
@[simp] theorem State.setMem_fab (s : State) (x) : (s.setMem x).fab = s.fab := rfl
@[simp] theorem State.setMem_hl (s : State) (x) : (s.setMem x).hl = s.hl := rfl
@[simp] theorem State.setMem_xch (s : State) (x) : (s.setMem x).xch = s.xch := rfl
@[simp] theorem State.setMem_tbl (s : State) (x) : (s.setMem x).tbl = s.tbl := rfl
@[simp] theorem State.setMem_obs (s : State) (x) : (s.setMem x).obs = s.obs := rfl
@[simp] theorem State.setMem_dma (s : State) (x) : (s.setMem x).dma = s.dma := rfl
@[simp] theorem State.setMem_xyl (s : State) (x) : (s.setMem x).xyl = s.xyl := rfl
@[simp] theorem State.setMem_gro (s : State) (x) : (s.setMem x).gro = s.gro := rfl
@[simp] theorem State.setMem_prb (s : State) (x) : (s.setMem x).prb = s.prb := rfl
@[simp] theorem State.setMem_pwr (s : State) (x) : (s.setMem x).pwr = s.pwr := rfl
@[simp] theorem State.setMem_sec (s : State) (x) : (s.setMem x).sec = s.sec := rfl
@[simp] theorem State.setIo_pending (s : State) (x) : (s.setIo x).pending = s.pending := rfl
@[simp] theorem State.setIo_regs (s : State) (x) : (s.setIo x).regs = s.regs := rfl
@[simp] theorem State.setIo_free (s : State) (x) : (s.setIo x).free = s.free := rfl
@[simp] theorem State.setIo_mem (s : State) (x) : (s.setIo x).mem = s.mem := rfl
@[simp] theorem State.setIo_io (s : State) (x) : (s.setIo x).io = x := rfl
@[simp] theorem State.setIo_xlt (s : State) (x) : (s.setIo x).xlt = s.xlt := rfl
@[simp] theorem State.setIo_crn (s : State) (x) : (s.setIo x).crn = s.crn := rfl
@[simp] theorem State.setIo_sched (s : State) (x) : (s.setIo x).sched = s.sched := rfl
@[simp] theorem State.setIo_fab (s : State) (x) : (s.setIo x).fab = s.fab := rfl
@[simp] theorem State.setIo_hl (s : State) (x) : (s.setIo x).hl = s.hl := rfl
@[simp] theorem State.setIo_xch (s : State) (x) : (s.setIo x).xch = s.xch := rfl
@[simp] theorem State.setIo_tbl (s : State) (x) : (s.setIo x).tbl = s.tbl := rfl
@[simp] theorem State.setIo_obs (s : State) (x) : (s.setIo x).obs = s.obs := rfl
@[simp] theorem State.setIo_dma (s : State) (x) : (s.setIo x).dma = s.dma := rfl
@[simp] theorem State.setIo_xyl (s : State) (x) : (s.setIo x).xyl = s.xyl := rfl
@[simp] theorem State.setIo_gro (s : State) (x) : (s.setIo x).gro = s.gro := rfl
@[simp] theorem State.setIo_prb (s : State) (x) : (s.setIo x).prb = s.prb := rfl
@[simp] theorem State.setIo_pwr (s : State) (x) : (s.setIo x).pwr = s.pwr := rfl
@[simp] theorem State.setIo_sec (s : State) (x) : (s.setIo x).sec = s.sec := rfl
@[simp] theorem State.setXlt_pending (s : State) (x) : (s.setXlt x).pending = s.pending := rfl
@[simp] theorem State.setXlt_regs (s : State) (x) : (s.setXlt x).regs = s.regs := rfl
@[simp] theorem State.setXlt_free (s : State) (x) : (s.setXlt x).free = s.free := rfl
@[simp] theorem State.setXlt_mem (s : State) (x) : (s.setXlt x).mem = s.mem := rfl
@[simp] theorem State.setXlt_io (s : State) (x) : (s.setXlt x).io = s.io := rfl
@[simp] theorem State.setXlt_xlt (s : State) (x) : (s.setXlt x).xlt = x := rfl
@[simp] theorem State.setXlt_crn (s : State) (x) : (s.setXlt x).crn = s.crn := rfl
@[simp] theorem State.setXlt_sched (s : State) (x) : (s.setXlt x).sched = s.sched := rfl
@[simp] theorem State.setXlt_fab (s : State) (x) : (s.setXlt x).fab = s.fab := rfl
@[simp] theorem State.setXlt_hl (s : State) (x) : (s.setXlt x).hl = s.hl := rfl
@[simp] theorem State.setXlt_xch (s : State) (x) : (s.setXlt x).xch = s.xch := rfl
@[simp] theorem State.setXlt_tbl (s : State) (x) : (s.setXlt x).tbl = s.tbl := rfl
@[simp] theorem State.setXlt_obs (s : State) (x) : (s.setXlt x).obs = s.obs := rfl
@[simp] theorem State.setXlt_dma (s : State) (x) : (s.setXlt x).dma = s.dma := rfl
@[simp] theorem State.setXlt_xyl (s : State) (x) : (s.setXlt x).xyl = s.xyl := rfl
@[simp] theorem State.setXlt_gro (s : State) (x) : (s.setXlt x).gro = s.gro := rfl
@[simp] theorem State.setXlt_prb (s : State) (x) : (s.setXlt x).prb = s.prb := rfl
@[simp] theorem State.setXlt_pwr (s : State) (x) : (s.setXlt x).pwr = s.pwr := rfl
@[simp] theorem State.setXlt_sec (s : State) (x) : (s.setXlt x).sec = s.sec := rfl
@[simp] theorem State.setCrn_pending (s : State) (x) : (s.setCrn x).pending = s.pending := rfl
@[simp] theorem State.setCrn_regs (s : State) (x) : (s.setCrn x).regs = s.regs := rfl
@[simp] theorem State.setCrn_free (s : State) (x) : (s.setCrn x).free = s.free := rfl
@[simp] theorem State.setCrn_mem (s : State) (x) : (s.setCrn x).mem = s.mem := rfl
@[simp] theorem State.setCrn_io (s : State) (x) : (s.setCrn x).io = s.io := rfl
@[simp] theorem State.setCrn_xlt (s : State) (x) : (s.setCrn x).xlt = s.xlt := rfl
@[simp] theorem State.setCrn_crn (s : State) (x) : (s.setCrn x).crn = x := rfl
@[simp] theorem State.setCrn_sched (s : State) (x) : (s.setCrn x).sched = s.sched := rfl
@[simp] theorem State.setCrn_fab (s : State) (x) : (s.setCrn x).fab = s.fab := rfl
@[simp] theorem State.setCrn_hl (s : State) (x) : (s.setCrn x).hl = s.hl := rfl
@[simp] theorem State.setCrn_xch (s : State) (x) : (s.setCrn x).xch = s.xch := rfl
@[simp] theorem State.setCrn_tbl (s : State) (x) : (s.setCrn x).tbl = s.tbl := rfl
@[simp] theorem State.setCrn_obs (s : State) (x) : (s.setCrn x).obs = s.obs := rfl
@[simp] theorem State.setCrn_dma (s : State) (x) : (s.setCrn x).dma = s.dma := rfl
@[simp] theorem State.setCrn_xyl (s : State) (x) : (s.setCrn x).xyl = s.xyl := rfl
@[simp] theorem State.setCrn_gro (s : State) (x) : (s.setCrn x).gro = s.gro := rfl
@[simp] theorem State.setCrn_prb (s : State) (x) : (s.setCrn x).prb = s.prb := rfl
@[simp] theorem State.setCrn_pwr (s : State) (x) : (s.setCrn x).pwr = s.pwr := rfl
@[simp] theorem State.setCrn_sec (s : State) (x) : (s.setCrn x).sec = s.sec := rfl
@[simp] theorem State.setSched_pending (s : State) (x) : (s.setSched x).pending = s.pending := rfl
@[simp] theorem State.setSched_regs (s : State) (x) : (s.setSched x).regs = s.regs := rfl
@[simp] theorem State.setSched_free (s : State) (x) : (s.setSched x).free = s.free := rfl
@[simp] theorem State.setSched_mem (s : State) (x) : (s.setSched x).mem = s.mem := rfl
@[simp] theorem State.setSched_io (s : State) (x) : (s.setSched x).io = s.io := rfl
@[simp] theorem State.setSched_xlt (s : State) (x) : (s.setSched x).xlt = s.xlt := rfl
@[simp] theorem State.setSched_crn (s : State) (x) : (s.setSched x).crn = s.crn := rfl
@[simp] theorem State.setSched_sched (s : State) (x) : (s.setSched x).sched = x := rfl
@[simp] theorem State.setSched_fab (s : State) (x) : (s.setSched x).fab = s.fab := rfl
@[simp] theorem State.setSched_hl (s : State) (x) : (s.setSched x).hl = s.hl := rfl
@[simp] theorem State.setSched_xch (s : State) (x) : (s.setSched x).xch = s.xch := rfl
@[simp] theorem State.setSched_tbl (s : State) (x) : (s.setSched x).tbl = s.tbl := rfl
@[simp] theorem State.setSched_obs (s : State) (x) : (s.setSched x).obs = s.obs := rfl
@[simp] theorem State.setSched_dma (s : State) (x) : (s.setSched x).dma = s.dma := rfl
@[simp] theorem State.setSched_xyl (s : State) (x) : (s.setSched x).xyl = s.xyl := rfl
@[simp] theorem State.setSched_gro (s : State) (x) : (s.setSched x).gro = s.gro := rfl
@[simp] theorem State.setSched_prb (s : State) (x) : (s.setSched x).prb = s.prb := rfl
@[simp] theorem State.setSched_pwr (s : State) (x) : (s.setSched x).pwr = s.pwr := rfl
@[simp] theorem State.setSched_sec (s : State) (x) : (s.setSched x).sec = s.sec := rfl
@[simp] theorem State.setFab_pending (s : State) (x) : (s.setFab x).pending = s.pending := rfl
@[simp] theorem State.setFab_regs (s : State) (x) : (s.setFab x).regs = s.regs := rfl
@[simp] theorem State.setFab_free (s : State) (x) : (s.setFab x).free = s.free := rfl
@[simp] theorem State.setFab_mem (s : State) (x) : (s.setFab x).mem = s.mem := rfl
@[simp] theorem State.setFab_io (s : State) (x) : (s.setFab x).io = s.io := rfl
@[simp] theorem State.setFab_xlt (s : State) (x) : (s.setFab x).xlt = s.xlt := rfl
@[simp] theorem State.setFab_crn (s : State) (x) : (s.setFab x).crn = s.crn := rfl
@[simp] theorem State.setFab_sched (s : State) (x) : (s.setFab x).sched = s.sched := rfl
@[simp] theorem State.setFab_fab (s : State) (x) : (s.setFab x).fab = x := rfl
@[simp] theorem State.setFab_hl (s : State) (x) : (s.setFab x).hl = s.hl := rfl
@[simp] theorem State.setFab_xch (s : State) (x) : (s.setFab x).xch = s.xch := rfl
@[simp] theorem State.setFab_tbl (s : State) (x) : (s.setFab x).tbl = s.tbl := rfl
@[simp] theorem State.setFab_obs (s : State) (x) : (s.setFab x).obs = s.obs := rfl
@[simp] theorem State.setFab_dma (s : State) (x) : (s.setFab x).dma = s.dma := rfl
@[simp] theorem State.setFab_xyl (s : State) (x) : (s.setFab x).xyl = s.xyl := rfl
@[simp] theorem State.setFab_gro (s : State) (x) : (s.setFab x).gro = s.gro := rfl
@[simp] theorem State.setFab_prb (s : State) (x) : (s.setFab x).prb = s.prb := rfl
@[simp] theorem State.setFab_pwr (s : State) (x) : (s.setFab x).pwr = s.pwr := rfl
@[simp] theorem State.setFab_sec (s : State) (x) : (s.setFab x).sec = s.sec := rfl
@[simp] theorem State.setHl_pending (s : State) (x) : (s.setHl x).pending = s.pending := rfl
@[simp] theorem State.setHl_regs (s : State) (x) : (s.setHl x).regs = s.regs := rfl
@[simp] theorem State.setHl_free (s : State) (x) : (s.setHl x).free = s.free := rfl
@[simp] theorem State.setHl_mem (s : State) (x) : (s.setHl x).mem = s.mem := rfl
@[simp] theorem State.setHl_io (s : State) (x) : (s.setHl x).io = s.io := rfl
@[simp] theorem State.setHl_xlt (s : State) (x) : (s.setHl x).xlt = s.xlt := rfl
@[simp] theorem State.setHl_crn (s : State) (x) : (s.setHl x).crn = s.crn := rfl
@[simp] theorem State.setHl_sched (s : State) (x) : (s.setHl x).sched = s.sched := rfl
@[simp] theorem State.setHl_fab (s : State) (x) : (s.setHl x).fab = s.fab := rfl
@[simp] theorem State.setHl_hl (s : State) (x) : (s.setHl x).hl = x := rfl
@[simp] theorem State.setHl_xch (s : State) (x) : (s.setHl x).xch = s.xch := rfl
@[simp] theorem State.setHl_tbl (s : State) (x) : (s.setHl x).tbl = s.tbl := rfl
@[simp] theorem State.setHl_obs (s : State) (x) : (s.setHl x).obs = s.obs := rfl
@[simp] theorem State.setHl_dma (s : State) (x) : (s.setHl x).dma = s.dma := rfl
@[simp] theorem State.setHl_xyl (s : State) (x) : (s.setHl x).xyl = s.xyl := rfl
@[simp] theorem State.setHl_gro (s : State) (x) : (s.setHl x).gro = s.gro := rfl
@[simp] theorem State.setHl_prb (s : State) (x) : (s.setHl x).prb = s.prb := rfl
@[simp] theorem State.setHl_pwr (s : State) (x) : (s.setHl x).pwr = s.pwr := rfl
@[simp] theorem State.setHl_sec (s : State) (x) : (s.setHl x).sec = s.sec := rfl
@[simp] theorem State.setXch_pending (s : State) (x) : (s.setXch x).pending = s.pending := rfl
@[simp] theorem State.setXch_regs (s : State) (x) : (s.setXch x).regs = s.regs := rfl
@[simp] theorem State.setXch_free (s : State) (x) : (s.setXch x).free = s.free := rfl
@[simp] theorem State.setXch_mem (s : State) (x) : (s.setXch x).mem = s.mem := rfl
@[simp] theorem State.setXch_io (s : State) (x) : (s.setXch x).io = s.io := rfl
@[simp] theorem State.setXch_xlt (s : State) (x) : (s.setXch x).xlt = s.xlt := rfl
@[simp] theorem State.setXch_crn (s : State) (x) : (s.setXch x).crn = s.crn := rfl
@[simp] theorem State.setXch_sched (s : State) (x) : (s.setXch x).sched = s.sched := rfl
@[simp] theorem State.setXch_fab (s : State) (x) : (s.setXch x).fab = s.fab := rfl
@[simp] theorem State.setXch_hl (s : State) (x) : (s.setXch x).hl = s.hl := rfl
@[simp] theorem State.setXch_xch (s : State) (x) : (s.setXch x).xch = x := rfl
@[simp] theorem State.setXch_tbl (s : State) (x) : (s.setXch x).tbl = s.tbl := rfl
@[simp] theorem State.setXch_obs (s : State) (x) : (s.setXch x).obs = s.obs := rfl
@[simp] theorem State.setXch_dma (s : State) (x) : (s.setXch x).dma = s.dma := rfl
@[simp] theorem State.setXch_xyl (s : State) (x) : (s.setXch x).xyl = s.xyl := rfl
@[simp] theorem State.setXch_gro (s : State) (x) : (s.setXch x).gro = s.gro := rfl
@[simp] theorem State.setXch_prb (s : State) (x) : (s.setXch x).prb = s.prb := rfl
@[simp] theorem State.setXch_pwr (s : State) (x) : (s.setXch x).pwr = s.pwr := rfl
@[simp] theorem State.setXch_sec (s : State) (x) : (s.setXch x).sec = s.sec := rfl
@[simp] theorem State.setTbl_pending (s : State) (x) : (s.setTbl x).pending = s.pending := rfl
@[simp] theorem State.setTbl_regs (s : State) (x) : (s.setTbl x).regs = s.regs := rfl
@[simp] theorem State.setTbl_free (s : State) (x) : (s.setTbl x).free = s.free := rfl
@[simp] theorem State.setTbl_mem (s : State) (x) : (s.setTbl x).mem = s.mem := rfl
@[simp] theorem State.setTbl_io (s : State) (x) : (s.setTbl x).io = s.io := rfl
@[simp] theorem State.setTbl_xlt (s : State) (x) : (s.setTbl x).xlt = s.xlt := rfl
@[simp] theorem State.setTbl_crn (s : State) (x) : (s.setTbl x).crn = s.crn := rfl
@[simp] theorem State.setTbl_sched (s : State) (x) : (s.setTbl x).sched = s.sched := rfl
@[simp] theorem State.setTbl_fab (s : State) (x) : (s.setTbl x).fab = s.fab := rfl
@[simp] theorem State.setTbl_hl (s : State) (x) : (s.setTbl x).hl = s.hl := rfl
@[simp] theorem State.setTbl_xch (s : State) (x) : (s.setTbl x).xch = s.xch := rfl
@[simp] theorem State.setTbl_tbl (s : State) (x) : (s.setTbl x).tbl = x := rfl
@[simp] theorem State.setTbl_obs (s : State) (x) : (s.setTbl x).obs = s.obs := rfl
@[simp] theorem State.setTbl_dma (s : State) (x) : (s.setTbl x).dma = s.dma := rfl
@[simp] theorem State.setTbl_xyl (s : State) (x) : (s.setTbl x).xyl = s.xyl := rfl
@[simp] theorem State.setTbl_gro (s : State) (x) : (s.setTbl x).gro = s.gro := rfl
@[simp] theorem State.setTbl_prb (s : State) (x) : (s.setTbl x).prb = s.prb := rfl
@[simp] theorem State.setTbl_pwr (s : State) (x) : (s.setTbl x).pwr = s.pwr := rfl
@[simp] theorem State.setTbl_sec (s : State) (x) : (s.setTbl x).sec = s.sec := rfl
@[simp] theorem State.setObs_pending (s : State) (x) : (s.setObs x).pending = s.pending := rfl
@[simp] theorem State.setObs_regs (s : State) (x) : (s.setObs x).regs = s.regs := rfl
@[simp] theorem State.setObs_free (s : State) (x) : (s.setObs x).free = s.free := rfl
@[simp] theorem State.setObs_mem (s : State) (x) : (s.setObs x).mem = s.mem := rfl
@[simp] theorem State.setObs_io (s : State) (x) : (s.setObs x).io = s.io := rfl
@[simp] theorem State.setObs_xlt (s : State) (x) : (s.setObs x).xlt = s.xlt := rfl
@[simp] theorem State.setObs_crn (s : State) (x) : (s.setObs x).crn = s.crn := rfl
@[simp] theorem State.setObs_sched (s : State) (x) : (s.setObs x).sched = s.sched := rfl
@[simp] theorem State.setObs_fab (s : State) (x) : (s.setObs x).fab = s.fab := rfl
@[simp] theorem State.setObs_hl (s : State) (x) : (s.setObs x).hl = s.hl := rfl
@[simp] theorem State.setObs_xch (s : State) (x) : (s.setObs x).xch = s.xch := rfl
@[simp] theorem State.setObs_tbl (s : State) (x) : (s.setObs x).tbl = s.tbl := rfl
@[simp] theorem State.setObs_obs (s : State) (x) : (s.setObs x).obs = x := rfl
@[simp] theorem State.setObs_dma (s : State) (x) : (s.setObs x).dma = s.dma := rfl
@[simp] theorem State.setObs_xyl (s : State) (x) : (s.setObs x).xyl = s.xyl := rfl
@[simp] theorem State.setObs_gro (s : State) (x) : (s.setObs x).gro = s.gro := rfl
@[simp] theorem State.setObs_prb (s : State) (x) : (s.setObs x).prb = s.prb := rfl
@[simp] theorem State.setObs_pwr (s : State) (x) : (s.setObs x).pwr = s.pwr := rfl
@[simp] theorem State.setObs_sec (s : State) (x) : (s.setObs x).sec = s.sec := rfl
@[simp] theorem State.setDma_pending (s : State) (x) : (s.setDma x).pending = s.pending := rfl
@[simp] theorem State.setDma_regs (s : State) (x) : (s.setDma x).regs = s.regs := rfl
@[simp] theorem State.setDma_free (s : State) (x) : (s.setDma x).free = s.free := rfl
@[simp] theorem State.setDma_mem (s : State) (x) : (s.setDma x).mem = s.mem := rfl
@[simp] theorem State.setDma_io (s : State) (x) : (s.setDma x).io = s.io := rfl
@[simp] theorem State.setDma_xlt (s : State) (x) : (s.setDma x).xlt = s.xlt := rfl
@[simp] theorem State.setDma_crn (s : State) (x) : (s.setDma x).crn = s.crn := rfl
@[simp] theorem State.setDma_sched (s : State) (x) : (s.setDma x).sched = s.sched := rfl
@[simp] theorem State.setDma_fab (s : State) (x) : (s.setDma x).fab = s.fab := rfl
@[simp] theorem State.setDma_hl (s : State) (x) : (s.setDma x).hl = s.hl := rfl
@[simp] theorem State.setDma_xch (s : State) (x) : (s.setDma x).xch = s.xch := rfl
@[simp] theorem State.setDma_tbl (s : State) (x) : (s.setDma x).tbl = s.tbl := rfl
@[simp] theorem State.setDma_obs (s : State) (x) : (s.setDma x).obs = s.obs := rfl
@[simp] theorem State.setDma_dma (s : State) (x) : (s.setDma x).dma = x := rfl
@[simp] theorem State.setDma_xyl (s : State) (x) : (s.setDma x).xyl = s.xyl := rfl
@[simp] theorem State.setDma_gro (s : State) (x) : (s.setDma x).gro = s.gro := rfl
@[simp] theorem State.setDma_prb (s : State) (x) : (s.setDma x).prb = s.prb := rfl
@[simp] theorem State.setDma_pwr (s : State) (x) : (s.setDma x).pwr = s.pwr := rfl
@[simp] theorem State.setDma_sec (s : State) (x) : (s.setDma x).sec = s.sec := rfl
@[simp] theorem State.setXyl_pending (s : State) (x) : (s.setXyl x).pending = s.pending := rfl
@[simp] theorem State.setXyl_regs (s : State) (x) : (s.setXyl x).regs = s.regs := rfl
@[simp] theorem State.setXyl_free (s : State) (x) : (s.setXyl x).free = s.free := rfl
@[simp] theorem State.setXyl_mem (s : State) (x) : (s.setXyl x).mem = s.mem := rfl
@[simp] theorem State.setXyl_io (s : State) (x) : (s.setXyl x).io = s.io := rfl
@[simp] theorem State.setXyl_xlt (s : State) (x) : (s.setXyl x).xlt = s.xlt := rfl
@[simp] theorem State.setXyl_crn (s : State) (x) : (s.setXyl x).crn = s.crn := rfl
@[simp] theorem State.setXyl_sched (s : State) (x) : (s.setXyl x).sched = s.sched := rfl
@[simp] theorem State.setXyl_fab (s : State) (x) : (s.setXyl x).fab = s.fab := rfl
@[simp] theorem State.setXyl_hl (s : State) (x) : (s.setXyl x).hl = s.hl := rfl
@[simp] theorem State.setXyl_xch (s : State) (x) : (s.setXyl x).xch = s.xch := rfl
@[simp] theorem State.setXyl_tbl (s : State) (x) : (s.setXyl x).tbl = s.tbl := rfl
@[simp] theorem State.setXyl_obs (s : State) (x) : (s.setXyl x).obs = s.obs := rfl
@[simp] theorem State.setXyl_dma (s : State) (x) : (s.setXyl x).dma = s.dma := rfl
@[simp] theorem State.setXyl_xyl (s : State) (x) : (s.setXyl x).xyl = x := rfl
@[simp] theorem State.setXyl_gro (s : State) (x) : (s.setXyl x).gro = s.gro := rfl
@[simp] theorem State.setXyl_prb (s : State) (x) : (s.setXyl x).prb = s.prb := rfl
@[simp] theorem State.setXyl_pwr (s : State) (x) : (s.setXyl x).pwr = s.pwr := rfl
@[simp] theorem State.setXyl_sec (s : State) (x) : (s.setXyl x).sec = s.sec := rfl
@[simp] theorem State.setGro_pending (s : State) (x) : (s.setGro x).pending = s.pending := rfl
@[simp] theorem State.setGro_regs (s : State) (x) : (s.setGro x).regs = s.regs := rfl
@[simp] theorem State.setGro_free (s : State) (x) : (s.setGro x).free = s.free := rfl
@[simp] theorem State.setGro_mem (s : State) (x) : (s.setGro x).mem = s.mem := rfl
@[simp] theorem State.setGro_io (s : State) (x) : (s.setGro x).io = s.io := rfl
@[simp] theorem State.setGro_xlt (s : State) (x) : (s.setGro x).xlt = s.xlt := rfl
@[simp] theorem State.setGro_crn (s : State) (x) : (s.setGro x).crn = s.crn := rfl
@[simp] theorem State.setGro_sched (s : State) (x) : (s.setGro x).sched = s.sched := rfl
@[simp] theorem State.setGro_fab (s : State) (x) : (s.setGro x).fab = s.fab := rfl
@[simp] theorem State.setGro_hl (s : State) (x) : (s.setGro x).hl = s.hl := rfl
@[simp] theorem State.setGro_xch (s : State) (x) : (s.setGro x).xch = s.xch := rfl
@[simp] theorem State.setGro_tbl (s : State) (x) : (s.setGro x).tbl = s.tbl := rfl
@[simp] theorem State.setGro_obs (s : State) (x) : (s.setGro x).obs = s.obs := rfl
@[simp] theorem State.setGro_dma (s : State) (x) : (s.setGro x).dma = s.dma := rfl
@[simp] theorem State.setGro_xyl (s : State) (x) : (s.setGro x).xyl = s.xyl := rfl
@[simp] theorem State.setGro_gro (s : State) (x) : (s.setGro x).gro = x := rfl
@[simp] theorem State.setGro_prb (s : State) (x) : (s.setGro x).prb = s.prb := rfl
@[simp] theorem State.setGro_pwr (s : State) (x) : (s.setGro x).pwr = s.pwr := rfl
@[simp] theorem State.setGro_sec (s : State) (x) : (s.setGro x).sec = s.sec := rfl
@[simp] theorem State.setPrb_pending (s : State) (x) : (s.setPrb x).pending = s.pending := rfl
@[simp] theorem State.setPrb_regs (s : State) (x) : (s.setPrb x).regs = s.regs := rfl
@[simp] theorem State.setPrb_free (s : State) (x) : (s.setPrb x).free = s.free := rfl
@[simp] theorem State.setPrb_mem (s : State) (x) : (s.setPrb x).mem = s.mem := rfl
@[simp] theorem State.setPrb_io (s : State) (x) : (s.setPrb x).io = s.io := rfl
@[simp] theorem State.setPrb_xlt (s : State) (x) : (s.setPrb x).xlt = s.xlt := rfl
@[simp] theorem State.setPrb_crn (s : State) (x) : (s.setPrb x).crn = s.crn := rfl
@[simp] theorem State.setPrb_sched (s : State) (x) : (s.setPrb x).sched = s.sched := rfl
@[simp] theorem State.setPrb_fab (s : State) (x) : (s.setPrb x).fab = s.fab := rfl
@[simp] theorem State.setPrb_hl (s : State) (x) : (s.setPrb x).hl = s.hl := rfl
@[simp] theorem State.setPrb_xch (s : State) (x) : (s.setPrb x).xch = s.xch := rfl
@[simp] theorem State.setPrb_tbl (s : State) (x) : (s.setPrb x).tbl = s.tbl := rfl
@[simp] theorem State.setPrb_obs (s : State) (x) : (s.setPrb x).obs = s.obs := rfl
@[simp] theorem State.setPrb_dma (s : State) (x) : (s.setPrb x).dma = s.dma := rfl
@[simp] theorem State.setPrb_xyl (s : State) (x) : (s.setPrb x).xyl = s.xyl := rfl
@[simp] theorem State.setPrb_gro (s : State) (x) : (s.setPrb x).gro = s.gro := rfl
@[simp] theorem State.setPrb_prb (s : State) (x) : (s.setPrb x).prb = x := rfl
@[simp] theorem State.setPrb_pwr (s : State) (x) : (s.setPrb x).pwr = s.pwr := rfl
@[simp] theorem State.setPrb_sec (s : State) (x) : (s.setPrb x).sec = s.sec := rfl
@[simp] theorem State.setPwr_pending (s : State) (x) : (s.setPwr x).pending = s.pending := rfl
@[simp] theorem State.setPwr_regs (s : State) (x) : (s.setPwr x).regs = s.regs := rfl
@[simp] theorem State.setPwr_free (s : State) (x) : (s.setPwr x).free = s.free := rfl
@[simp] theorem State.setPwr_mem (s : State) (x) : (s.setPwr x).mem = s.mem := rfl
@[simp] theorem State.setPwr_io (s : State) (x) : (s.setPwr x).io = s.io := rfl
@[simp] theorem State.setPwr_xlt (s : State) (x) : (s.setPwr x).xlt = s.xlt := rfl
@[simp] theorem State.setPwr_crn (s : State) (x) : (s.setPwr x).crn = s.crn := rfl
@[simp] theorem State.setPwr_sched (s : State) (x) : (s.setPwr x).sched = s.sched := rfl
@[simp] theorem State.setPwr_fab (s : State) (x) : (s.setPwr x).fab = s.fab := rfl
@[simp] theorem State.setPwr_hl (s : State) (x) : (s.setPwr x).hl = s.hl := rfl
@[simp] theorem State.setPwr_xch (s : State) (x) : (s.setPwr x).xch = s.xch := rfl
@[simp] theorem State.setPwr_tbl (s : State) (x) : (s.setPwr x).tbl = s.tbl := rfl
@[simp] theorem State.setPwr_obs (s : State) (x) : (s.setPwr x).obs = s.obs := rfl
@[simp] theorem State.setPwr_dma (s : State) (x) : (s.setPwr x).dma = s.dma := rfl
@[simp] theorem State.setPwr_xyl (s : State) (x) : (s.setPwr x).xyl = s.xyl := rfl
@[simp] theorem State.setPwr_gro (s : State) (x) : (s.setPwr x).gro = s.gro := rfl
@[simp] theorem State.setPwr_prb (s : State) (x) : (s.setPwr x).prb = s.prb := rfl
@[simp] theorem State.setPwr_pwr (s : State) (x) : (s.setPwr x).pwr = x := rfl
@[simp] theorem State.setPwr_sec (s : State) (x) : (s.setPwr x).sec = s.sec := rfl
@[simp] theorem State.setSec_pending (s : State) (x) : (s.setSec x).pending = s.pending := rfl
@[simp] theorem State.setSec_regs (s : State) (x) : (s.setSec x).regs = s.regs := rfl
@[simp] theorem State.setSec_free (s : State) (x) : (s.setSec x).free = s.free := rfl
@[simp] theorem State.setSec_mem (s : State) (x) : (s.setSec x).mem = s.mem := rfl
@[simp] theorem State.setSec_io (s : State) (x) : (s.setSec x).io = s.io := rfl
@[simp] theorem State.setSec_xlt (s : State) (x) : (s.setSec x).xlt = s.xlt := rfl
@[simp] theorem State.setSec_crn (s : State) (x) : (s.setSec x).crn = s.crn := rfl
@[simp] theorem State.setSec_sched (s : State) (x) : (s.setSec x).sched = s.sched := rfl
@[simp] theorem State.setSec_fab (s : State) (x) : (s.setSec x).fab = s.fab := rfl
@[simp] theorem State.setSec_hl (s : State) (x) : (s.setSec x).hl = s.hl := rfl
@[simp] theorem State.setSec_xch (s : State) (x) : (s.setSec x).xch = s.xch := rfl
@[simp] theorem State.setSec_tbl (s : State) (x) : (s.setSec x).tbl = s.tbl := rfl
@[simp] theorem State.setSec_obs (s : State) (x) : (s.setSec x).obs = s.obs := rfl
@[simp] theorem State.setSec_dma (s : State) (x) : (s.setSec x).dma = s.dma := rfl
@[simp] theorem State.setSec_xyl (s : State) (x) : (s.setSec x).xyl = s.xyl := rfl
@[simp] theorem State.setSec_gro (s : State) (x) : (s.setSec x).gro = s.gro := rfl
@[simp] theorem State.setSec_prb (s : State) (x) : (s.setSec x).prb = s.prb := rfl
@[simp] theorem State.setSec_pwr (s : State) (x) : (s.setSec x).pwr = s.pwr := rfl
@[simp] theorem State.setSec_sec (s : State) (x) : (s.setSec x).sec = x := rfl
@[simp] theorem State.setFree_pending (s : State) (x) : (s.setFree x).pending = s.pending := rfl
@[simp] theorem State.setFree_regs (s : State) (x) : (s.setFree x).regs = s.regs := rfl
@[simp] theorem State.setFree_free (s : State) (x) : (s.setFree x).free = x := rfl
@[simp] theorem State.setFree_mem (s : State) (x) : (s.setFree x).mem = s.mem := rfl
@[simp] theorem State.setFree_io (s : State) (x) : (s.setFree x).io = s.io := rfl
@[simp] theorem State.setFree_xlt (s : State) (x) : (s.setFree x).xlt = s.xlt := rfl
@[simp] theorem State.setFree_crn (s : State) (x) : (s.setFree x).crn = s.crn := rfl
@[simp] theorem State.setFree_sched (s : State) (x) : (s.setFree x).sched = s.sched := rfl
@[simp] theorem State.setFree_fab (s : State) (x) : (s.setFree x).fab = s.fab := rfl
@[simp] theorem State.setFree_hl (s : State) (x) : (s.setFree x).hl = s.hl := rfl
@[simp] theorem State.setFree_xch (s : State) (x) : (s.setFree x).xch = s.xch := rfl
@[simp] theorem State.setFree_tbl (s : State) (x) : (s.setFree x).tbl = s.tbl := rfl
@[simp] theorem State.setFree_obs (s : State) (x) : (s.setFree x).obs = s.obs := rfl
@[simp] theorem State.setFree_dma (s : State) (x) : (s.setFree x).dma = s.dma := rfl
@[simp] theorem State.setFree_xyl (s : State) (x) : (s.setFree x).xyl = s.xyl := rfl
@[simp] theorem State.setFree_gro (s : State) (x) : (s.setFree x).gro = s.gro := rfl
@[simp] theorem State.setFree_prb (s : State) (x) : (s.setFree x).prb = s.prb := rfl
@[simp] theorem State.setFree_pwr (s : State) (x) : (s.setFree x).pwr = s.pwr := rfl
@[simp] theorem State.setFree_sec (s : State) (x) : (s.setFree x).sec = s.sec := rfl

@[simp] theorem drawFree_fst (s : State) : (drawFree s).1 = s.free := rfl
@[simp] theorem drawFree_pending (s : State) : (drawFree s).2.pending = s.pending := rfl
@[simp] theorem drawFree_regs (s : State) : (drawFree s).2.regs = s.regs := rfl
@[simp] theorem drawFree_free (s : State) : (drawFree s).2.free = s.free + 1 := rfl
@[simp] theorem drawFree_mem (s : State) : (drawFree s).2.mem = s.mem := rfl
@[simp] theorem drawFree_io (s : State) : (drawFree s).2.io = s.io := rfl
@[simp] theorem drawFree_xlt (s : State) : (drawFree s).2.xlt = s.xlt := rfl
@[simp] theorem drawFree_crn (s : State) : (drawFree s).2.crn = s.crn := rfl
@[simp] theorem drawFree_sched (s : State) : (drawFree s).2.sched = s.sched := rfl
@[simp] theorem drawFree_fab (s : State) : (drawFree s).2.fab = s.fab := rfl
@[simp] theorem drawFree_hl (s : State) : (drawFree s).2.hl = s.hl := rfl
@[simp] theorem drawFree_xch (s : State) : (drawFree s).2.xch = s.xch := rfl
@[simp] theorem drawFree_tbl (s : State) : (drawFree s).2.tbl = s.tbl := rfl
@[simp] theorem drawFree_obs (s : State) : (drawFree s).2.obs = s.obs := rfl
@[simp] theorem drawFree_dma (s : State) : (drawFree s).2.dma = s.dma := rfl
@[simp] theorem drawFree_xyl (s : State) : (drawFree s).2.xyl = s.xyl := rfl
@[simp] theorem drawFree_gro (s : State) : (drawFree s).2.gro = s.gro := rfl
@[simp] theorem drawFree_prb (s : State) : (drawFree s).2.prb = s.prb := rfl
@[simp] theorem drawFree_pwr (s : State) : (drawFree s).2.pwr = s.pwr := rfl
@[simp] theorem drawFree_sec (s : State) : (drawFree s).2.sec = s.sec := rfl

end Sys2Proof.Machine
end

