-- ==== Sys2Proof/Laws/Stable.lean ====
section
/-!
SUPPORT. Predicates of the state that the machine's operations keep: `Stable P` says that `P` looks at nothing but the waiting commands,
the memory's canonical form and the register file's, and the laws under `Stable` say that every operation keeps such a `P`.
-/

namespace Sys2Proof.Machine

/-! ### The register file's canonical form -/

theorem Registers.wfFrom_le : ∀ {m : Sparse W64} {lo lo' : Nat}, lo' ≤ lo → Registers.wfFrom lo m = true → Registers.wfFrom lo' m = true
  | [], _, _, _, _ => rfl
  | (k, v) :: m, lo, lo', hl, h => by
    simp only [Registers.wfFrom, Bool.and_eq_true, decide_eq_true_eq] at h ⊢
    exact ⟨⟨by omega, h.1.2⟩, h.2⟩

theorem Registers.wfFrom_mset : ∀ {m : Sparse W64} {lo a : Nat} (v : W64), lo ≤ a → Registers.wfFrom lo m = true →
    Registers.wfFrom lo (mset (BitVec.ofNat 64 (regReset a)) m a v) = true
  | [], lo, a, v, hl, _ => by
    unfold mset
    split <;> simp_all [Registers.wfFrom]
  | (k, x) :: m, lo, a, v, hl, h => by
    simp only [Registers.wfFrom, Bool.and_eq_true, decide_eq_true_eq] at h
    unfold mset
    split
    · split
      · simp_all [Registers.wfFrom]
      · simp only [Registers.wfFrom, Bool.and_eq_true, decide_eq_true_eq]
        exact ⟨⟨hl, ‹_›⟩, ⟨by omega, h.1.2⟩, h.2⟩
    · split
      · split
        · exact Registers.wfFrom_le (by omega) h.2
        · simp only [Registers.wfFrom, Bool.and_eq_true, decide_eq_true_eq]
          exact ⟨⟨hl, ‹_›⟩, Registers.wfFrom_le (by omega) h.2⟩
      · simp only [Registers.wfFrom, Bool.and_eq_true, decide_eq_true_eq]
        exact ⟨h.1, Registers.wfFrom_mset v (by omega) h.2⟩

theorem Registers.wf_mset {m : Sparse W64} (a : Nat) (v : W64) (h : Registers.wf m = true) :
    Registers.wf (mset (BitVec.ofNat 64 (regReset a)) m a v) = true := Registers.wfFrom_mset v (Nat.zero_le a) h

theorem Registers.wfFrom_filter (p : Nat × W64 → Bool) : ∀ {m : Sparse W64} {lo : Nat}, Registers.wfFrom lo m = true →
    Registers.wfFrom lo (m.filter p) = true
  | [], _, _ => rfl
  | (k, v) :: m, lo, h => by
    simp only [Registers.wfFrom, Bool.and_eq_true, decide_eq_true_eq] at h
    simp only [List.filter]
    split
    · simp only [Registers.wfFrom, Bool.and_eq_true, decide_eq_true_eq]
      exact ⟨h.1, Registers.wfFrom_filter p h.2⟩
    · exact Registers.wfFrom_le (by omega) (Registers.wfFrom_filter p h.2)

theorem Registers.wf_filter (p : Nat × W64 → Bool) {m : Sparse W64} (h : Registers.wf m = true) : Registers.wf (m.filter p) = true :=
  Registers.wfFrom_filter p h

/-! ### Stable predicates -/

/-- A predicate that holds on, whatever is put into the other parts of the state. -/
structure Stable (P : State → Prop) : Prop where
  free : ∀ s x, P s → P (s.setFree x)
  mem : ∀ s x, (Memory.wf s.mem = true → Memory.wf x = true) → P s → P (s.setMem x)
  regs : ∀ s x, (Registers.wf s.regs = true → Registers.wf x = true) → P s → P (s.setRegs x)
  fresh : ∀ s t, t.pending = s.pending → (Memory.wf t.mem = true) → (Registers.wf s.regs = true → Registers.wf t.regs = true) → P s → P t
  io : ∀ s x, P s → P (s.setIo x)
  xlt : ∀ s x, P s → P (s.setXlt x)
  crn : ∀ s x, P s → P (s.setCrn x)
  sched : ∀ s x, P s → P (s.setSched x)
  fab : ∀ s x, P s → P (s.setFab x)
  hl : ∀ s x, P s → P (s.setHl x)
  xch : ∀ s x, P s → P (s.setXch x)
  tbl : ∀ s x, P s → P (s.setTbl x)
  obs : ∀ s x, P s → P (s.setObs x)
  dma : ∀ s x, P s → P (s.setDma x)
  xyl : ∀ s x, P s → P (s.setXyl x)
  gro : ∀ s x, P s → P (s.setGro x)
  prb : ∀ s x, P s → P (s.setPrb x)
  pwr : ∀ s x, P s → P (s.setPwr x)
  sec : ∀ s x, P s → P (s.setSec x)

theorem stable_canonical : Stable Canonical where
  free := fun _ _ h => ⟨h.1, h.2⟩
  mem := fun _ _ g h => ⟨g h.1, h.2⟩
  regs := fun _ _ g h => ⟨h.1, g h.2⟩
  fresh := fun _ _ _ m r h => ⟨m, r h.2⟩
  io := fun _ _ h => ⟨h.1, h.2⟩
  xlt := fun _ _ h => ⟨h.1, h.2⟩
  crn := fun _ _ h => ⟨h.1, h.2⟩
  sched := fun _ _ h => ⟨h.1, h.2⟩
  fab := fun _ _ h => ⟨h.1, h.2⟩
  hl := fun _ _ h => ⟨h.1, h.2⟩
  xch := fun _ _ h => ⟨h.1, h.2⟩
  tbl := fun _ _ h => ⟨h.1, h.2⟩
  obs := fun _ _ h => ⟨h.1, h.2⟩
  dma := fun _ _ h => ⟨h.1, h.2⟩
  xyl := fun _ _ h => ⟨h.1, h.2⟩
  gro := fun _ _ h => ⟨h.1, h.2⟩
  prb := fun _ _ h => ⟨h.1, h.2⟩
  pwr := fun _ _ h => ⟨h.1, h.2⟩
  sec := fun _ _ h => ⟨h.1, h.2⟩

theorem stable_pending (q : List Instr) : Stable fun s => s.pending = q where
  free := fun _ _ h => h
  mem := fun _ _ _ h => h
  regs := fun _ _ _ h => h
  fresh := fun _ _ e _ _ h => e.trans h
  io := fun _ _ h => h
  xlt := fun _ _ h => h
  crn := fun _ _ h => h
  sched := fun _ _ h => h
  fab := fun _ _ h => h
  hl := fun _ _ h => h
  xch := fun _ _ h => h
  tbl := fun _ _ h => h
  obs := fun _ _ h => h
  dma := fun _ _ h => h
  xyl := fun _ _ h => h
  gro := fun _ _ h => h
  prb := fun _ _ h => h
  pwr := fun _ _ h => h
  sec := fun _ _ h => h

variable {P : State → Prop}

/-- A fold of steps that keep `P` keeps `P`. -/
theorem st_foldl {α : Type} (f : State → α → State) (hf : ∀ s x, P s → P (f s x)) : ∀ (l : List α) (s : State), P s → P (l.foldl f s)
  | [], _, h => h
  | x :: l, s, h => st_foldl f hf l (f s x) (hf s x h)

/-- The same for a state beside other data. -/
theorem st_foldl_snd {α β : Type} (f : β × State → α → β × State) (hf : ∀ p x, P p.2 → P (f p x).2) :
    ∀ (l : List α) (p : β × State), P p.2 → P (l.foldl f p).2
  | [], _, h => h
  | x :: l, p, h => st_foldl_snd f hf l (f p x) (hf p x h)

theorem st_foldl_fst {α β : Type} (f : State × β → α → State × β) (hf : ∀ p x, P p.1 → P (f p x).1) :
    ∀ (l : List α) (p : State × β), P p.1 → P (l.foldl f p).1
  | [], _, h => h
  | x :: l, p, h => st_foldl_fst f hf l (f p x) (hf p x h)

theorem st_ite {c : Prop} [Decidable c] {a b : State} (ha : P a) (hb : P b) : P (if c then a else b) := by split <;> assumption

theorem st_pair {β : Type} {p : β × State} {x : β} {t : State} (e : p = (x, t)) (h : P p.2) : P t := by subst e; exact h
theorem st_pair_fst {β : Type} {p : State × β} {x : β} {t : State} (e : p = (t, x)) (h : P p.1) : P t := by subst e; exact h

end Sys2Proof.Machine
end

