-- ==== Sys2Proof/Laws/Memory.lean ====
section
/-!
SUPPORT. Read after write of the registers and of memory, and what their operations leave alone.
-/

namespace Sys2Proof.Machine

/-! ### Registers -/

theorem Registers.get_of_lt {d : W64} : ∀ {m : Sparse W64} {lo a : Nat}, Registers.wfFrom lo m = true → a < lo → mget d m a = d
  | [], _, _, _, _ => rfl
  | (k, v) :: m, lo, a, h, hl => by
    simp only [Registers.wfFrom, Bool.and_eq_true, decide_eq_true_eq] at h
    rw [mget, if_neg (by omega), Registers.get_of_lt h.2 (by omega)]

theorem Registers.get_mset_same {d : W64} : ∀ {m : Sparse W64} {lo : Nat} (a : Nat) (v : W64), Registers.wfFrom lo m = true →
    mget d (mset d m a v) a = v
  | [], _, a, v, _ => by unfold mset; split <;> simp_all [mget]
  | (k, x) :: m, lo, a, v, h => by
    simp only [Registers.wfFrom, Bool.and_eq_true, decide_eq_true_eq] at h
    unfold mset
    split
    · split
      · rename_i hv
        rw [mget, if_neg (by omega), Registers.get_of_lt h.2 (by omega), hv]
      · simp [mget]
    · split
      · subst_vars
        split
        · rename_i hv
          rw [Registers.get_of_lt h.2 (by omega), hv]
        · simp [mget]
      · rw [mget, if_neg ‹_›]; exact Registers.get_mset_same a v h.2

/-- A register reads what was put into it, in 64 bits. -/
theorem regGet_regPut {s : State} (o v : Nat) (h : Registers.wf s.regs = true) : regGet (regPut o v s) o = v % 2 ^ 64 := by
  simp only [regGet, regPut, State.setRegs]
  rw [Registers.get_mset_same o _ h, BitVec.toNat_ofNat]

theorem Registers.get_mset_other {d e : W64} : ∀ {m : Sparse W64} {a b : Nat} (v : W64), b ≠ a → mget d (mset e m a v) b = mget d m b
  | [], a, b, v, hb => by unfold mset; split <;> simp [mget, hb]
  | (k, x) :: m, a, b, v, hb => by
    unfold mset
    split
    · split
      · rfl
      · rw [mget, if_neg hb]
    · split
      · subst_vars
        split
        · rw [mget, if_neg hb]
        · rw [mget, if_neg hb, mget, if_neg hb]
      · rw [mget, mget, Registers.get_mset_other v hb]

/-- Another register stays. -/
theorem regGet_regPut_ne {s : State} {o p : Nat} (v : Nat) (h : p ≠ o) : regGet (regPut o v s) p = regGet s p := by
  simp only [regGet, regPut, State.setRegs]
  exact congrArg _ (Registers.get_mset_other _ h)

theorem regGet_countN {s : State} (o n : Nat) (h : Registers.wf s.regs = true) : regGet (countN o n s) o = (regGet s o + n) % 2 ^ 64 := by
  unfold countN
  split
  · subst_vars
    have : regGet s o < 2 ^ 64 := by simp only [regGet]; exact BitVec.isLt _
    omega
  · rw [regGet_regPut o _ h, Nat.mod_mod]

theorem regGet_countN_ne {s : State} {o p : Nat} (n : Nat) (h : p ≠ o) : regGet (countN o n s) p = regGet s p := by
  unfold countN
  split
  · rfl
  · exact regGet_regPut_ne _ h

theorem regGet_count {s : State} (o : Nat) (h : Registers.wf s.regs = true) : regGet (count o s) o = (regGet s o + 1) % 2 ^ 64 :=
  regGet_countN o 1 h

theorem regGet_count_ne {s : State} {o p : Nat} (h : p ≠ o) : regGet (count o s) p = regGet s p := regGet_countN_ne 1 h

/-- Counting changes the register file alone. -/
theorem countN_frame (o n : Nat) (s : State) : countN o n s = s.setRegs (countN o n s).regs := by
  unfold countN
  split <;> rfl

/-! ### Memory -/

/-- Bytes that a write has stored read back. -/
theorem memRead_memWrite {s : State} (a : Nat) (l : List Byte) (h : Memory.wf s.mem = true) : memRead (memWrite a l s) a l.length = l := by
  simp only [Memory.wf, Bool.and_eq_true] at h
  exact mgetMany_msetMany l a h.1.1

/-- A byte outside a write stays. -/
theorem memWrite_outside {s : State} {a b : Nat} (l : List Byte) (h : b < a ∨ a + l.length ≤ b) :
    mget 0 (memWrite a l s).mem.bytes b = mget 0 s.mem.bytes b :=
  mget_msetMany_outside l h

end Sys2Proof.Machine
end

