-- ==== Sys2Proof/Laws/StableOps.lean ====
section
/-!
SUPPORT. The operations of Machine/Ops keep every stable predicate.
-/

set_option linter.unusedVariables false

namespace Sys2Proof.Machine

variable {P : State → Prop}

theorem st_memFilter {P : State → Prop} (hP : Stable P) {s : State} (h : P s) (f : Nat × Byte → Bool) (g : Nat → Bool) (k : Nat × Nat → Bool) :
    P (s.setMem { bytes := s.mem.bytes.filter f, poison := s.mem.poison.filter g, latent := s.mem.latent.filter k }) := by
  refine hP.mem _ _ (fun w => ?_) h
  simp only [Memory.wf, Bool.and_eq_true] at w ⊢
  exact ⟨⟨mwf_filter _ w.1.1, risingFrom_filter _ w.1.2⟩, mwf_filter _ w.2⟩

theorem st_whileOn {f : State → State} {s t : State} (e : whileOn f s = .next t) (h : P s) (hf : P (f s)) : P t := by
  unfold whileOn at e; cases e; split <;> assumption
theorem st_whileServed {off : Nat} {f : State → State} {s t : State} (e : whileServed off f s = .next t) (h : P s) (hf : P (f s)) : P t := by
  unfold whileServed at e; cases e; split <;> assumption
theorem st_whileDoorbell {f : State → State} {s t : State} (e : whileDoorbell f s = .next t) (h : P s) (hf : P (f s)) : P t := by
  unfold whileDoorbell at e; cases e; split <;> assumption

theorem risingFrom_insertAll : ∀ (u : List Nat) {l : List Nat}, risingFrom 0 l = true → risingFrom 0 (u.foldl (fun l k => keyInsert k l) l) = true
  | [], _, h => h
  | k :: u, l, h => risingFrom_insertAll u (risingFrom_keyInsert k (Nat.zero_le k) h)

theorem memWf_mk {b : Sparse Byte} {p : List Nat} {l : Sparse Nat} {m : Mem} (hb : mwf 0 m.bytes = true → mwf 0 b = true)
    (hp : risingFrom 0 m.poison = true → risingFrom 0 p = true) (hl : mwf 0 m.latent = true → mwf 0 l = true) :
    Memory.wf m = true → Memory.wf { bytes := b, poison := p, latent := l } = true := by
  intro w
  simp only [Memory.wf, Bool.and_eq_true] at w ⊢
  exact ⟨⟨hb w.1.1, hp w.1.2⟩, hl w.2⟩

theorem risingFrom_keyInsert0 {l : List Nat} {a : Nat} (h : risingFrom 0 l = true) : risingFrom 0 (keyInsert a l) = true :=
  risingFrom_keyInsert a (Nat.zero_le a) h

theorem st_updCtx (hP : Stable P) {c : Nat} {f : Ctx → Ctx} {s : State} (h_s : P s) : P (updCtx c f s) := by
  unfold updCtx
  repeat' (first
      | with_reducible assumption
      | with_reducible apply hP.sched)

theorem st_regPut (hP : Stable P) {off : Nat} {v : Nat} {s : State} (h_s : P s) : P (regPut off v s) :=
  hP.regs _ _ (fun w => Registers.wf_mset _ _ w) h_s


theorem st_countN (hP : Stable P) {off : Nat} {n : Nat} {s : State} (h_s : P s) : P (countN off n s) := by
  unfold countN
  repeat' (first
      | with_reducible assumption
      | with_reducible apply st_regPut hP
      | split)

theorem st_setPart (hP : Stable P) {p : Nat} {a1 : Part} {s : State} (h_s : P s) : P (setPart p a1 s) := by
  unfold setPart
  repeat' (first
      | with_reducible assumption
      | with_reducible apply hP.sched)

theorem st_regOr (hP : Stable P) {off : Nat} {mask : Nat} {s : State} (h_s : P s) : P (regOr off mask s) := by
  unfold regOr
  repeat' (first
      | with_reducible assumption
      | with_reducible apply st_regPut hP)

theorem st_putCtx (hP : Stable P) {a0 : Ctx} {s : State} (h_s : P s) : P (putCtx a0 s) := by
  unfold putCtx
  repeat' (first
      | with_reducible assumption
      | with_reducible apply hP.sched)

theorem st_setMsix (hP : Stable P) {v : Nat} {e : MsixEnt} {s : State} (h_s : P s) : P (setMsix v e s) := by
  unfold setMsix
  repeat' (first
      | with_reducible assumption
      | with_reducible apply hP.hl)

theorem st_regField (hP : Stable P) {off : Nat} {hi : Nat} {lo : Nat} {v : Nat} {s : State} (h_s : P s) : P (regField off hi lo v s) := by
  unfold regField
  repeat' (first
      | with_reducible assumption
      | with_reducible apply st_regPut hP)

theorem st_repairLog (hP : Stable P) {r : Repair} {kind : Nat} {s : State} (h_s : P s) : P (repairLog r kind s) := by
  unfold repairLog
  repeat' (first
      | with_reducible assumption
      | with_reducible apply st_regField hP
      | with_reducible apply st_regOr hP
      | with_reducible apply st_regPut hP
      | split
      | (with_reducible intro _)
      | with_reducible apply st_foldl
      | with_reducible apply st_foldl_snd
      | dsimp only)

theorem st_repairTrigger (hP : Stable P) {r : Repair} {s : State} (h_s : P s) : P (repairTrigger r s) := by
  unfold repairTrigger
  repeat' (first
      | with_reducible assumption
      | with_reducible apply st_repairLog hP
      | with_reducible apply hP.xyl
      | split)

theorem st_noteCorrected (hP : Stable P) {k : Nat} {s : State} (h_s : P s) : P (noteCorrected k s) := by
  unfold noteCorrected
  repeat' (first
      | with_reducible assumption
      | with_reducible apply st_repairTrigger hP
      | with_reducible apply hP.xyl
      | split
      | (with_reducible intro _)
      | with_reducible apply st_foldl
      | with_reducible apply st_foldl_snd
      | dsimp only)

theorem st_noteErrors (hP : Stable P) {ce : List Nat} {ue : List Nat} {s : State} (h_s : P s) : P (noteErrors ce ue s) := by
  unfold noteErrors
  repeat' (first
      | with_reducible assumption
      | with_reducible apply st_noteCorrected hP
      | with_reducible apply st_repairTrigger hP
      | split
      | (with_reducible intro _)
      | with_reducible apply st_foldl)

theorem st_memZero (hP : Stable P) {a : Nat} {n : Nat} {s : State} (h_s : P s) : P (memZero a n s) :=
  st_memFilter hP h_s _ _ _


theorem st_clearWork (hP : Stable P) {w : Work} {s : State} (h_s : P s) : P (clearWork w s) := by
  unfold clearWork
  repeat' (first
      | with_reducible assumption
      | with_reducible apply hP.io)

theorem st_memWrite (hP : Stable P) {a : Nat} {l : List Byte} {s : State} (h_s : P s) : P (memWrite a l s) := by
  refine hP.mem _ _ (fun w => ?_) h_s
  simp only [Memory.wf, Bool.and_eq_true] at w ⊢
  exact ⟨⟨mwf_msetMany _ _ w.1.1, risingFrom_filter _ w.1.2⟩, mwf_filter _ w.2⟩


theorem st_memPut (hP : Stable P) {a : Nat} {n : Nat} {v : Nat} {s : State} (h_s : P s) : P (memPut a n v s) := by
  unfold memPut
  repeat' (first
      | with_reducible assumption
      | with_reducible apply st_memWrite hP)

theorem st_drawFree (hP : Stable P) {s : State} (h_s : P s) : P (drawFree s).2 := hP.free _ _ h_s


theorem st_count (hP : Stable P) {off : Nat} {s : State} (h_s : P s) : P (count off s) := by
  unfold count
  repeat' (first
      | with_reducible assumption
      | with_reducible apply st_countN hP)

theorem st_raiseVector (hP : Stable P) {v : Nat} {s : State} (h_s : P s) : P (raiseVector v s) := by
  unfold raiseVector
  repeat' (first
      | with_reducible assumption
      | with_reducible apply st_count hP
      | with_reducible apply st_setMsix hP
      | with_reducible apply hP.hl
      | split)

theorem st_hlEvent (hP : Stable P) {b : Nat} {s : State} (h_s : P s) : P (hlEvent b s) := by
  unfold hlEvent
  repeat' (first
      | with_reducible assumption
      | with_reducible apply st_raiseVector hP
      | with_reducible apply st_regOr hP
      | split)

theorem st_reachTime (hP : Stable P) {t : Nat} {s : State} (h_s : P s) : P (reachTime t s) := by
  unfold reachTime
  repeat' (first
      | with_reducible assumption
      | with_reducible apply hP.fab
      | split)

theorem st_progress (hP : Stable P) {c : Nat} {s : State} (h_s : P s) : P (progress c s) := by
  unfold progress
  repeat' (first
      | with_reducible assumption
      | with_reducible apply st_updCtx hP)

theorem st_updNode (hP : Stable P) {ctx : Nat} {f : Node → Node} {s : State} (h_s : P s) : P (updNode ctx f s) := by
  unfold updNode
  repeat' (first
      | with_reducible assumption
      | with_reducible apply hP.sched)

theorem st_meetErrors (hP : Stable P) {a : Nat} {n : Nat} {s : State} (h_s : P s) : P (meetErrors a n s).2 := by
  unfold meetErrors
  refine st_countN hP (st_countN hP (st_countN hP ?_))
  split
  · exact h_s
  · refine st_noteErrors hP (hP.mem _ _ (fun w => ?_) h_s)
    simp only [Memory.wf, Bool.and_eq_true] at w ⊢
    exact ⟨⟨w.1.1, risingFrom_insertAll _ w.1.2⟩, mwf_filter _ w.2⟩


theorem st_regWrite (hP : Stable P) {off : Nat} {v : Nat} {s : State} (h_s : P s) : P (regWrite off v s) := by
  unfold regWrite
  repeat' (first
      | with_reducible assumption
      | with_reducible apply st_regPut hP
      | split)

theorem st_setGrove (hP : Stable P) {k : Nat} {g : Grove} {s : State} (h_s : P s) : P (setGrove k g s) := by
  unfold setGrove
  repeat' (first
      | with_reducible assumption
      | with_reducible apply hP.gro)

theorem st_updGrove (hP : Stable P) {k : Nat} {f : Grove → Grove} {s : State} (h_s : P s) : P (updGrove k f s) := by
  unfold updGrove
  repeat' (first
      | with_reducible assumption
      | with_reducible apply st_setGrove hP)

end Sys2Proof.Machine
end

