-- ==== Sys2Proof/Laws/StableTrace.lean ====
section
/-!
SUPPORT. The operations of Machine/Trace keep every stable predicate.
-/

set_option linter.unusedVariables false

namespace Sys2Proof.Machine

variable {P : State → Prop}

theorem st_State_setTrace (hP : Stable P) {s : State} {t : Trace} (h_s : P s) : P (State.setTrace s t) := by
  unfold State.setTrace
  repeat' (first
      | with_reducible assumption
      | with_reducible apply hP.obs)

theorem st_tracePush (hP : Stable P) {limit : Nat} {r : TraceRec} {s : State} (h_s : P s) : P (tracePush limit r s) := by
  unfold tracePush
  repeat' (first
      | with_reducible assumption
      | with_reducible apply st_State_setTrace hP
      | with_reducible apply st_count hP
      | split)

theorem st_tracePost (hP : Stable P) {r : TraceRec} {s : State} (h_s : P s) : P (tracePost r s) := by
  unfold tracePost
  repeat' (first
      | with_reducible assumption
      | with_reducible apply st_State_setTrace hP
      | with_reducible apply st_count hP
      | with_reducible apply st_tracePush hP
      | split
      | (with_reducible intro _)
      | with_reducible apply st_foldl
      | with_reducible apply st_foldl_snd
      | dsimp only)

theorem st_traceStoreRec (hP : Stable P) {r : TraceRec} {s : State} (h_s : P s) : P (traceStoreRec r s) := by
  unfold traceStoreRec
  repeat' (first
      | with_reducible assumption
      | with_reducible apply st_State_setTrace hP
      | with_reducible apply st_count hP
      | with_reducible apply st_memWrite hP
      | split
      | (with_reducible intro _)
      | with_reducible apply st_foldl
      | with_reducible apply st_foldl_snd
      | dsimp only)

theorem st_traceStore (hP : Stable P) {s : State} (h_s : P s) : P (traceStore s) := by
  unfold traceStore
  repeat' (first
      | with_reducible assumption
      | with_reducible apply st_State_setTrace hP
      | with_reducible apply st_traceStoreRec hP
      | split)

theorem st_traceHeader (hP : Stable P) {ended : Bool} {s : State} (h_s : P s) : P (traceHeader ended s) := by
  unfold traceHeader
  repeat' (first
      | with_reducible assumption
      | with_reducible apply st_memWrite hP)

theorem st_traceFlush (hP : Stable P) {s : State} (h_s : P s) : P (traceFlush s) := by
  unfold traceFlush
  repeat' (first
      | with_reducible assumption
      | with_reducible apply st_State_setTrace hP
      | with_reducible apply st_traceStoreRec hP
      | split
      | (with_reducible intro _)
      | with_reducible apply st_foldl)

theorem st_traceEnd (hP : Stable P) {reason : Nat} {s : State} (h_s : P s) : P (traceEnd reason s) := by
  unfold traceEnd
  repeat' (first
      | with_reducible assumption
      | with_reducible apply st_State_setTrace hP
      | with_reducible apply st_raiseVector hP
      | with_reducible apply st_traceFlush hP
      | with_reducible apply st_traceHeader hP
      | with_reducible apply st_traceStoreRec hP
      | split)

theorem st_traceFire (hP : Stable P) {kind : Nat} {b : Nat} {s : State} (h_s : P s) : P (traceFire kind b s) := by
  unfold traceFire
  repeat' (first
      | with_reducible assumption
      | with_reducible apply st_State_setTrace hP
      | with_reducible apply st_tracePush hP
      | split
      | (with_reducible intro _)
      | with_reducible apply st_foldl
      | with_reducible apply st_foldl_snd
      | dsimp only)

theorem st_evt (hP : Stable P) {u : Nat} {code : Nat} {key : Nat} {n : Nat} {ctx : Option Nat} {s : State} (h_s : P s) : P (evt u code key n ctx s) := by
  unfold evt
  repeat' (first
      | with_reducible assumption
      | with_reducible apply st_countN hP
      | split
      | (with_reducible intro _)
      | with_reducible apply st_foldl)

theorem st_emit (hP : Stable P) {typ : Nat} {unit : Nat} {ctx : Nat} {a : Nat} {b : Nat} {c : Nat} {s : State} (h_s : P s) : P (emit typ unit ctx a b c s) := by
  unfold emit
  repeat' (first
      | with_reducible assumption
      | with_reducible apply st_traceFire hP
      | with_reducible apply st_tracePost hP
      | with_reducible apply st_tracePush hP
      | split
      | (with_reducible intro _)
      | with_reducible apply st_foldl
      | with_reducible apply st_foldl_snd
      | dsimp only)

end Sys2Proof.Machine
end

