-- ==== Sys2Proof/Laws/StableCanopy.lean ====
section
/-!
SUPPORT. The operations of Machine/Canopy keep every stable predicate.
-/

set_option linter.unusedVariables false

namespace Sys2Proof.Machine

variable {P : State → Prop}

theorem st_partCheck (hP : Stable P) {k : Nat} {s : State} (h_s : P s) : P (partCheck k s) := by
  unfold partCheck
  repeat' (first
      | with_reducible assumption
      | with_reducible apply st_count hP
      | with_reducible apply st_noteErrors hP
      | with_reducible apply hP.mem
      | with_reducible apply memWf_mk
      | with_reducible exact id
      | with_reducible apply mwf_filter
      | with_reducible apply mwf_mset
      | with_reducible apply mwf_msetMany
      | with_reducible apply risingFrom_filter
      | with_reducible apply risingFrom_keyInsert0
      | split)

theorem st_State_setLines (hP : Stable P) {s : State} {l : List CanLine} (h_s : P s) : P (State.setLines s l) := by
  unfold State.setLines
  repeat' (first
      | with_reducible assumption
      | with_reducible apply hP.xyl)

theorem st_canInvalidate (hP : Stable P) {o : Nat} {s : State} (h_s : P s) : P (canInvalidate o s) := by
  unfold canInvalidate
  repeat' (first
      | with_reducible assumption
      | with_reducible apply st_State_setLines hP
      | split)

theorem st_canFill (hP : Stable P) {o : Nat} {s : State} (h_s : P s) : P (canFill o s) := by
  unfold canFill
  repeat' (first
      | with_reducible assumption
      | with_reducible apply st_State_setLines hP
      | with_reducible apply st_drawFree hP
      | split
      | (with_reducible intro _)
      | with_reducible apply st_foldl
      | with_reducible apply st_foldl_snd
      | dsimp only
      | (refine st_pair (by assumption) ?_))

theorem st_canDrop (hP : Stable P) {p : CanLine → Bool} {s : State} (h_s : P s) : P (canDrop p s) := by
  unfold canDrop
  repeat' (first
      | with_reducible assumption
      | with_reducible apply st_State_setLines hP)

theorem st_localWrite (hP : Stable P) {o : Nat} {l : List Byte} {s : State} (h_s : P s) : P (localWrite o l s) := by
  unfold localWrite
  repeat' (first
      | with_reducible assumption
      | with_reducible apply st_evt hP
      | with_reducible apply st_memWrite hP
      | with_reducible apply st_partCheck hP
      | split
      | (with_reducible intro _)
      | with_reducible apply st_foldl)

theorem st_canRead1 (hP : Stable P) {k : Nat} {s : State} (h_s : P s) : P (canRead1 k s) := by
  unfold canRead1
  repeat' (first
      | with_reducible assumption
      | with_reducible apply st_canFill hP
      | with_reducible apply st_evt hP
      | split
      | (with_reducible intro _)
      | with_reducible apply st_foldl
      | with_reducible apply st_foldl_snd
      | dsimp only)

theorem st_localRead (hP : Stable P) {o : Nat} {n : Nat} {s : State} (h_s : P s) : P (localRead o n s).2 := by
  unfold localRead
  repeat' (first
      | with_reducible assumption
      | with_reducible apply st_canRead1 hP
      | with_reducible apply st_meetErrors hP
      | split
      | (with_reducible intro _)
      | with_reducible apply st_foldl)

end Sys2Proof.Machine
end

