-- ==== Sys2Proof/Laws/StableNet.lean ====
section
/-!
SUPPORT. The operations of Machine/Net keep every stable predicate.
-/

set_option linter.unusedVariables false

namespace Sys2Proof.Machine

variable {P : State → Prop}

theorem st_setChord (hP : Stable P) {n : Nat} {c : Chord} {s : State} (h_s : P s) : P (setChord n c s) := by
  unfold setChord
  repeat' (first
      | with_reducible assumption
      | with_reducible apply hP.fab)

theorem st_chordPump (hP : Stable P) {a0 : Nat} {a1 : Nat} {a2 : State} (h_a2 : P a2) : P (chordPump a0 a1 a2) := by
  induction a0 generalizing a1 a2 with
  | zero =>
    unfold chordPump
    repeat' (first
        | with_reducible assumption)
  | succ _ ih =>
    unfold chordPump
    repeat' (first
        | with_reducible assumption
        | with_reducible apply ih
        | with_reducible apply st_count hP
        | with_reducible apply st_evt hP
        | with_reducible apply st_setChord hP
        | split)

theorem st_inboxTake (hP : Stable P) {h : Hdr} {b : Body} {s : State} (h_s : P s) : P (inboxTake h b s) := by
  unfold inboxTake
  repeat' (first
      | with_reducible assumption
      | with_reducible apply hP.fab
      | split
      | (with_reducible intro _)
      | with_reducible apply st_foldl
      | with_reducible apply st_foldl_snd
      | dsimp only)

theorem st_queueBytes (hP : Stable P) {n : Nat} {vc : Nat} {bytes : List Byte} {s : State} (h_s : P s) : P (queueBytes n vc bytes s) := by
  unfold queueBytes
  repeat' (first
      | with_reducible assumption
      | with_reducible apply st_chordPump hP
      | with_reducible apply st_setChord hP)

theorem st_ontoChords (hP : Stable P) {ns : List Nat} {m : Msg} {s : State} (h_s : P s) : P (ontoChords ns m s) := by
  unfold ontoChords
  repeat' (first
      | with_reducible assumption
      | with_reducible apply st_queueBytes hP
      | with_reducible apply hP.fab
      | split
      | (with_reducible intro _)
      | with_reducible apply st_foldl)

theorem st_sendNow (hP : Stable P) {n : Nat} {m : Msg} {s : State} (h_s : P s) : P (sendNow n m s) := by
  unfold sendNow
  repeat' (first
      | with_reducible assumption
      | with_reducible apply st_count hP
      | with_reducible apply st_ontoChords hP
      | with_reducible apply hP.fab
      | split
      | (with_reducible intro _)
      | with_reducible apply st_foldl
      | with_reducible apply st_foldl_snd
      | dsimp only)

theorem st_setCredit (hP : Stable P) {dst : Nat} {vc : Nat} {n : Nat} {s : State} (h_s : P s) : P (setCredit dst vc n s) := by
  unfold setCredit
  repeat' (first
      | with_reducible assumption
      | with_reducible apply hP.fab)

theorem st_send (hP : Stable P) {dst : Nat} {b : Body} {s : State} (h_s : P s) : P (send dst b s) := by
  unfold send
  repeat' (first
      | with_reducible assumption
      | with_reducible apply st_sendNow hP
      | with_reducible apply st_setCredit hP
      | with_reducible apply hP.fab
      | split
      | (with_reducible intro _)
      | with_reducible apply st_foldl
      | with_reducible apply st_foldl_snd
      | dsimp only)

theorem st_grantBack (hP : Stable P) {h : Hdr} {b : Body} {s : State} (h_s : P s) : P (grantBack h b s) := by
  unfold grantBack
  repeat' (first
      | with_reducible assumption
      | with_reducible apply st_send hP
      | split
      | (with_reducible intro _)
      | with_reducible apply st_foldl
      | with_reducible apply st_foldl_snd
      | dsimp only)

theorem st_pumpWaiting (hP : Stable P) {s : State} (h_s : P s) : P (pumpWaiting s) := by
  unfold pumpWaiting
  repeat' (first
      | with_reducible assumption
      | with_reducible apply st_send hP
      | with_reducible apply hP.fab
      | split
      | (with_reducible intro _)
      | with_reducible apply st_foldl)

theorem st_grantCredit (hP : Stable P) {src : Nat} {vc : Nat} {n : Nat} {s : State} (h_s : P s) : P (grantCredit src vc n s) := by
  unfold grantCredit
  repeat' (first
      | with_reducible assumption
      | with_reducible apply st_pumpWaiting hP
      | with_reducible apply st_setCredit hP
      | split)

theorem st_arrive (hP : Stable P) {h : Hdr} {s : State} (h_s : P s) : P (arrive h s) := by
  unfold arrive
  repeat' (first
      | with_reducible assumption
      | with_reducible apply st_count hP
      | with_reducible apply st_grantCredit hP)

theorem st_deliver (hP : Stable P) {h : Hdr} {b : Body} {effect : State → State} {s : State} (h_effect : ∀ (y0 : State), P y0 → P (effect y0)) (h_s : P s) : P (deliver h b effect s) := by
  unfold deliver
  repeat' (first
      | with_reducible assumption
      | with_reducible apply st_arrive hP
      | with_reducible apply st_count hP
      | with_reducible apply st_grantBack hP
      | with_reducible apply st_inboxTake hP
      | with_reducible apply hP.fab
      | with_reducible apply h_effect
      | split)

theorem st_sendAll (hP : Stable P) {dsts : List Nat} {b : Body} {s : State} (h_s : P s) : P (sendAll dsts b s) := by
  unfold sendAll
  repeat' (first
      | with_reducible assumption
      | with_reducible apply st_send hP
      | split
      | (with_reducible intro _)
      | with_reducible apply st_foldl)

theorem st_deliverHeld (hP : Stable P) {h : Hdr} {b : Body} {effect : State → State} {s : State} (h_effect : ∀ (y0 : State), P y0 → P (effect y0)) (h_s : P s) : P (deliverHeld h b effect s) := by
  unfold deliverHeld
  repeat' (first
      | with_reducible assumption
      | with_reducible apply st_arrive hP
      | with_reducible apply st_count hP
      | with_reducible apply st_inboxTake hP
      | with_reducible apply h_effect
      | split)

theorem st_responded (hP : Stable P) {p : Msg → Bool} {effect : State → State} {s : State} (h_effect : ∀ (y0 : State), P y0 → P (effect y0)) (h_s : P s) : P (responded p effect s) := by
  unfold responded
  repeat' (first
      | with_reducible assumption
      | with_reducible apply st_pumpWaiting hP
      | with_reducible apply hP.fab
      | with_reducible apply h_effect
      | split)

theorem st_sendOn (hP : Stable P) {n : Nat} {dst : Nat} {b : Body} {s : State} (h_s : P s) : P (sendOn n dst b s) := by
  unfold sendOn
  repeat' (first
      | with_reducible assumption
      | with_reducible apply st_count hP
      | with_reducible apply st_ontoChords hP
      | with_reducible apply hP.fab)

end Sys2Proof.Machine
end

