-- ==== Sys2Proof/Laws/StableAccess.lean ====
section
/-!
SUPPORT. The operations of Machine/Access keep every stable predicate.
-/

set_option linter.unusedVariables false

namespace Sys2Proof.Machine

variable {P : State → Prop}

/-! ### Accesses -/

/-- Every outcome of an access keeps `P`. -/
def AccRes (P : State → Prop) {α : Type} : Except Stop (α × State) → Prop
  | .ok x => P x.2
  | .error (.wait _ t) => P t
  | .error (.fail _ t) => P t

/-- An access that keeps `P`. -/
def AccSt (P : State → Prop) {α : Type} (a : Acc α) : Prop := ∀ s, P s → AccRes P (a s)

theorem accRes_ok {α : Type} {x : α × State} (h : P x.2) : AccRes P (.ok x) := h
theorem accRes_wait {α : Type} {n : Need} {t : State} (h : P t) : AccRes P (α := α) (.error (.wait n t)) := h
theorem accRes_fail {α : Type} {f : Flt} {t : State} (h : P t) : AccRes P (α := α) (.error (.fail f t)) := h

theorem accSt_ok {α : Type} {a : Acc α} {s t : State} {x : α} (ha : AccSt P a) (e : a s = .ok (x, t)) (h : P s) : P t := by
  have := ha s h; rw [e] at this; exact this
theorem accSt_fail {α : Type} {a : Acc α} {s t : State} {f : Flt} (ha : AccSt P a) (e : a s = .error (.fail f t)) (h : P s) : P t := by
  have := ha s h; rw [e] at this; exact this
theorem accSt_wait {α : Type} {a : Acc α} {s t : State} {n : Need} (ha : AccSt P a) (e : a s = .error (.wait n t)) (h : P s) : P t := by
  have := ha s h; rw [e] at this; exact this

theorem accSt_pure {α : Type} (x : α) : AccSt P (pure x : Acc α) := fun _ h => h

theorem accSt_bind {α β : Type} {a : Acc α} {k : α → Acc β} (ha : AccSt P a) (hk : ∀ x, AccSt P (k x)) : AccSt P (a >>= k) := by
  intro s h
  show AccRes P ((a s).bind fun p => k p.1 p.2)
  have := ha s h
  cases e : a s with
  | ok p => rw [e] at this; exact hk p.1 p.2 this
  | error z => rw [e] at this; cases z <;> exact this

theorem accSt_map {α β : Type} {a : Acc α} {f : α → β} (ha : AccSt P a) : AccSt P (f <$> a) := by
  intro s h
  show AccRes P ((a s).bind fun p => pure (f p.1, p.2))
  have := ha s h
  cases e : a s with
  | ok p => rw [e] at this; exact this
  | error z => rw [e] at this; cases z <;> exact this

theorem accSt_foldlM {α β : Type} {f : β → α → Acc β} (hf : ∀ b x, AccSt P (f b x)) : ∀ (l : List α) (b : β), AccSt P (l.foldlM f b)
  | [], b => accSt_pure b
  | x :: l, b => by
    rw [List.foldlM_cons]
    exact accSt_bind (hf b x) fun y => accSt_foldlM hf l y

theorem accSt_mapM {α β : Type} {f : α → Acc β} (hf : ∀ x, AccSt P (f x)) : ∀ (l : List α), AccSt P (l.mapM f)
  | [] => by rw [List.mapM_nil]; exact accSt_pure _
  | x :: l => by
    rw [List.mapM_cons]
    exact accSt_bind (hf x) fun y => accSt_bind (accSt_mapM hf l) fun ys => accSt_pure _

theorem accSt_fun {α : Type} {f : State → Except Stop (α × State)} (h : ∀ s, P s → AccRes P (f s)) : AccSt P f := h

theorem accRes_run {α : Type} {a : Acc α} {s : State} (ha : AccSt P a) (h : P s) : AccRes P (a s) := ha s h

theorem st_utlbFill (hP : Stable P) {g : Nat} {e : UtlbEnt} {s : State} (h_s : P s) : P (utlbFill g e s) := by
  unfold utlbFill
  repeat' (first
      | with_reducible assumption
      | with_reducible apply st_drawFree hP
      | with_reducible apply hP.xlt
      | split
      | (with_reducible intro _)
      | with_reducible apply st_foldl
      | with_reducible apply st_foldl_snd
      | dsimp only
      | (refine st_pair (by assumption) ?_))

theorem st_recordFail (hP : Stable P) {w : Work} {f : Flt} {s : State} (h_s : P s) : P (recordFail w f s) := by
  unfold recordFail
  repeat' (first
      | with_reducible assumption
      | with_reducible apply hP.io)

theorem st_postHost (hP : Stable P) {ws : List HostWrite} {s : State} (h_s : P s) : P (postHost ws s) := by
  unfold postHost
  repeat' (first
      | with_reducible assumption
      | with_reducible apply st_countN hP
      | with_reducible apply hP.hl
      | split)

theorem st_takeFailed (hP : Stable P) {w : Work} {s t : State} {f : Flt} (e : takeFailed w s = some (f, t)) (h : P s) : P t := by
  unfold takeFailed at e
  cases hf : s.io.failed.find? (fun x => x.1 == w) with
  | none => rw [hf] at e; cases e
  | some x => rw [hf] at e; cases e; exact hP.io _ _ h


theorem st_addWait (hP : Stable P) {w : Work} {n : Need} {s : State} (h_s : P s) : P (addWait w n s) := by
  unfold addWait
  repeat' (first
      | with_reducible assumption
      | with_reducible apply st_count hP
      | with_reducible apply st_send hP
      | with_reducible apply hP.io
      | with_reducible apply hP.xlt
      | with_reducible apply hP.hl
      | split
      | (with_reducible intro _)
      | with_reducible apply st_foldl
      | with_reducible apply st_foldl_snd
      | dsimp only)

theorem st_runAcc (hP : Stable P) {α : Type} {w : Work} {a : Acc α} {ok : α → State → State} {bad : Flt → State → State} {s : State} (h_a : AccSt P a) (h_ok : ∀ (y0 : α) (y1 : State), P y1 → P (ok y0 y1)) (h_bad : ∀ (y0 : Flt) (y1 : State), P y1 → P (bad y0 y1)) (h_s : P s) : P (runAcc w a ok bad s) := by
  unfold runAcc
  repeat' (first
      | with_reducible assumption
      | with_reducible apply st_addWait hP
      | with_reducible apply st_clearWork hP
      | (refine st_takeFailed hP (by assumption) ?_)
      | with_reducible apply accRes_ok
      | with_reducible apply accRes_wait
      | with_reducible apply accRes_fail
      | with_reducible apply accSt_bind
      | with_reducible apply accSt_pure
      | with_reducible apply accSt_foldlM
      | with_reducible apply accSt_map
      | with_reducible apply accSt_mapM
      | with_reducible apply h_a
      | with_reducible apply h_ok
      | with_reducible apply h_bad
      | split
      | (with_reducible intro _)
      | with_reducible apply st_foldl
      | with_reducible apply st_foldl_snd
      | dsimp only
      | (refine st_pair (by assumption) ?_)
      | assumption
      | with_reducible apply accSt_fun
      | (with_reducible refine accRes_run ?_ ?_)
      | (refine accSt_ok ?_ (by assumption) ?_)
      | (refine accSt_fail ?_ (by assumption) ?_))

theorem st_dtlbFill (hP : Stable P) {ctx : Nat} {va : Nat} {s : State} (h_s : P s) : P (dtlbFill ctx va s) := by
  unfold dtlbFill
  repeat' (first
      | with_reducible assumption
      | with_reducible apply st_drawFree hP
      | with_reducible apply hP.xlt
      | split)

theorem st_spanLookup (hP : Stable P) {w : Work} {p : Span} {s : State} (h_s : P s) : P (spanLookup w p s) := by
  unfold spanLookup
  repeat' (first
      | with_reducible assumption
      | with_reducible apply st_count hP
      | with_reducible apply st_dtlbFill hP
      | with_reducible apply st_evt hP
      | with_reducible apply st_utlbFill hP
      | split
      | (with_reducible intro _)
      | with_reducible apply st_foldl
      | with_reducible apply st_foldl_snd
      | dsimp only)

theorem st_accFail (_hP : Stable P) {α : Type} {f : Flt} : AccSt P (accFail f : Acc α) := fun _ h => h


theorem st_accCheck (hP : Stable P) {b : Bool} {f : Flt}  : AccSt P (accCheck b f) := by
  unfold accCheck
  repeat' (first
      | with_reducible assumption
      | with_reducible apply st_accFail hP
      | with_reducible apply accRes_ok
      | with_reducible apply accRes_wait
      | with_reducible apply accRes_fail
      | with_reducible apply accSt_bind
      | with_reducible apply accSt_pure
      | with_reducible apply accSt_foldlM
      | with_reducible apply accSt_map
      | with_reducible apply accSt_mapM
      | split)

theorem st_accAsk (_hP : Stable P) {α : Type} {f : State → α} : AccSt P (accAsk f) := fun _ h => h


theorem st_accDo (_hP : Stable P) {f : State → State} (h_f : ∀ s, P s → P (f s)) : AccSt P (accDo f) := fun s h => h_f s h


theorem st_ctxLocalWrite (hP : Stable P) {ctx : Nat} {o : Nat} {l : List Byte}  : AccSt P (ctxLocalWrite ctx o l) := by
  unfold ctxLocalWrite
  repeat' (first
      | with_reducible assumption
      | with_reducible apply st_accAsk hP
      | with_reducible apply st_accCheck hP
      | with_reducible apply st_accDo hP
      | with_reducible apply st_localWrite hP
      | with_reducible apply accRes_ok
      | with_reducible apply accRes_wait
      | with_reducible apply accRes_fail
      | with_reducible apply accSt_bind
      | with_reducible apply accSt_pure
      | with_reducible apply accSt_foldlM
      | with_reducible apply accSt_map
      | with_reducible apply accSt_mapM
      | split
      | (with_reducible intro _))

theorem st_accTry (hP : Stable P) {α : Type} {w : Work} {a : Acc α} (h_a : AccSt P a) : AccSt P (accTry w a) := by
  intro s h
  unfold accTry
  split
  · exact accSt_ok h_a ‹_› h
  · exact accSt_fail h_a ‹_› h
  · split
    · exact st_takeFailed hP ‹_› (accSt_wait h_a ‹_› h)
    · exact accSt_wait h_a ‹_› h


theorem st_ctxLocalRead (hP : Stable P) {ctx : Nat} {o : Nat} {n : Nat}  : AccSt P (ctxLocalRead ctx o n) := by
  unfold ctxLocalRead
  repeat' (first
      | with_reducible assumption
      | with_reducible apply st_accAsk hP
      | with_reducible apply st_accCheck hP
      | with_reducible apply st_localRead hP
      | with_reducible apply accRes_ok
      | with_reducible apply accRes_wait
      | with_reducible apply accRes_fail
      | with_reducible apply accSt_bind
      | with_reducible apply accSt_pure
      | with_reducible apply accSt_foldlM
      | with_reducible apply accSt_map
      | with_reducible apply accSt_mapM
      | split
      | (with_reducible intro _)
      | with_reducible apply st_foldl
      | with_reducible apply st_foldl_snd
      | dsimp only
      | (refine st_pair (by assumption) ?_)
      | assumption
      | with_reducible apply accSt_fun)

theorem st_xlateHost (hP : Stable P) {w : Work} {pasid : Nat} {va : Nat} {write : Bool}  : AccSt P (xlateHost w pasid va write) := by
  unfold xlateHost
  repeat' (first
      | with_reducible assumption
      | with_reducible apply st_count hP
      | with_reducible apply st_evt hP
      | with_reducible apply st_utlbFill hP
      | with_reducible apply accRes_ok
      | with_reducible apply accRes_wait
      | with_reducible apply accRes_fail
      | with_reducible apply accSt_bind
      | with_reducible apply accSt_pure
      | with_reducible apply accSt_foldlM
      | with_reducible apply accSt_map
      | with_reducible apply accSt_mapM
      | split
      | (with_reducible intro _)
      | with_reducible apply st_foldl
      | with_reducible apply st_foldl_snd
      | dsimp only
      | (refine st_pair (by assumption) ?_)
      | assumption
      | with_reducible apply accSt_fun)

theorem st_hostWrite (hP : Stable P) {pasid : Nat} {va : Nat} {l : List Byte}  : AccSt P (hostWrite pasid va l) := by
  unfold hostWrite
  repeat' (first
      | with_reducible assumption
      | with_reducible apply st_count hP
      | with_reducible apply st_postHost hP
      | with_reducible apply accRes_ok
      | with_reducible apply accRes_wait
      | with_reducible apply accRes_fail
      | with_reducible apply accSt_bind
      | with_reducible apply accSt_pure
      | with_reducible apply accSt_foldlM
      | with_reducible apply accSt_map
      | with_reducible apply accSt_mapM
      | split
      | (with_reducible intro _)
      | with_reducible apply st_foldl
      | with_reducible apply st_foldl_snd
      | dsimp only
      | (refine st_pair (by assumption) ?_)
      | assumption
      | with_reducible apply accSt_fun)

theorem st_accWait (_hP : Stable P) {α : Type} {n : Need} : AccSt P (accWait n : Acc α) := fun _ h => h


theorem st_xlateDev (hP : Stable P) {w : Work} {ctx : Nat} {va : Nat} {write : Bool}  : AccSt P (xlateDev w ctx va write) := by
  unfold xlateDev
  repeat' (first
      | with_reducible assumption
      | with_reducible apply st_accAsk hP
      | with_reducible apply st_accCheck hP
      | with_reducible apply st_accDo hP
      | with_reducible apply st_accFail hP
      | with_reducible apply st_accWait hP
      | with_reducible apply st_spanLookup hP
      | with_reducible apply accRes_ok
      | with_reducible apply accRes_wait
      | with_reducible apply accRes_fail
      | with_reducible apply accSt_bind
      | with_reducible apply accSt_pure
      | with_reducible apply accSt_foldlM
      | with_reducible apply accSt_map
      | with_reducible apply accSt_mapM
      | split
      | (with_reducible intro _))

theorem st_xlate (hP : Stable P) {w : Work} {ctx : Nat} {va : Nat} {write : Bool}  : AccSt P (xlate w ctx va write) := by
  unfold xlate
  repeat' (first
      | with_reducible assumption
      | with_reducible apply st_accAsk hP
      | with_reducible apply st_accCheck hP
      | with_reducible apply st_xlateDev hP
      | with_reducible apply st_xlateHost hP
      | with_reducible apply accRes_ok
      | with_reducible apply accRes_wait
      | with_reducible apply accRes_fail
      | with_reducible apply accSt_bind
      | with_reducible apply accSt_pure
      | with_reducible apply accSt_foldlM
      | with_reducible apply accSt_map
      | with_reducible apply accSt_mapM
      | split
      | (with_reducible intro _))

theorem st_globWrite (hP : Stable P) {w : Work} {dev : Nat} {o : Nat} {l : List Byte}  : AccSt P (globWrite w dev o l) := by
  unfold globWrite
  repeat' (first
      | with_reducible assumption
      | with_reducible apply st_count hP
      | with_reducible apply st_localWrite hP
      | with_reducible apply accRes_ok
      | with_reducible apply accRes_wait
      | with_reducible apply accRes_fail
      | with_reducible apply accSt_bind
      | with_reducible apply accSt_pure
      | with_reducible apply accSt_foldlM
      | with_reducible apply accSt_map
      | with_reducible apply accSt_mapM
      | split
      | (with_reducible intro _)
      | with_reducible apply st_foldl
      | with_reducible apply st_foldl_snd
      | dsimp only
      | (refine st_pair (by assumption) ?_)
      | assumption
      | with_reducible apply accSt_fun)

theorem st_placeWrite (hP : Stable P) {w : Work} {ctx : Nat} {l : List Byte} {a3 : Place}  : AccSt P (placeWrite w ctx l a3) := by
  unfold placeWrite
  repeat' (first
      | with_reducible assumption
      | with_reducible apply st_ctxLocalWrite hP
      | with_reducible apply st_globWrite hP
      | with_reducible apply st_hostWrite hP
      | with_reducible apply accRes_ok
      | with_reducible apply accRes_wait
      | with_reducible apply accRes_fail
      | with_reducible apply accSt_bind
      | with_reducible apply accSt_pure
      | with_reducible apply accSt_foldlM
      | with_reducible apply accSt_map
      | with_reducible apply accSt_mapM
      | split)

theorem st_ctxWrite (hP : Stable P) {w : Work} {ctx : Nat} {va : Nat} {l : List Byte}  : AccSt P (ctxWrite w ctx va l) := by
  unfold ctxWrite
  repeat' (first
      | with_reducible assumption
      | with_reducible apply st_placeWrite hP
      | with_reducible apply st_xlate hP
      | with_reducible apply accRes_ok
      | with_reducible apply accRes_wait
      | with_reducible apply accRes_fail
      | with_reducible apply accSt_bind
      | with_reducible apply accSt_pure
      | with_reducible apply accSt_foldlM
      | with_reducible apply accSt_map
      | with_reducible apply accSt_mapM
      | split
      | (with_reducible intro _))

theorem st_takeWaits (hP : Stable P) {p : Waiting → Bool} {s : State} (h_s : P s) : P (takeWaits p s).2 := by
  unfold takeWaits
  repeat' (first
      | with_reducible assumption
      | with_reducible apply hP.io)

theorem st_hostRead (hP : Stable P) {w : Work} {pasid : Nat} {va : Nat} {n : Nat}  : AccSt P (hostRead w pasid va n) := by
  unfold hostRead
  repeat' (first
      | with_reducible assumption
      | with_reducible apply accRes_ok
      | with_reducible apply accRes_wait
      | with_reducible apply accRes_fail
      | with_reducible apply accSt_bind
      | with_reducible apply accSt_pure
      | with_reducible apply accSt_foldlM
      | with_reducible apply accSt_map
      | with_reducible apply accSt_mapM
      | split
      | (with_reducible intro _)
      | with_reducible apply st_foldl
      | with_reducible apply st_foldl_snd
      | dsimp only
      | (refine st_pair (by assumption) ?_)
      | assumption
      | with_reducible apply accSt_fun)

theorem st_globRead (hP : Stable P) {w : Work} {dev : Nat} {o : Nat} {n : Nat}  : AccSt P (globRead w dev o n) := by
  unfold globRead
  repeat' (first
      | with_reducible assumption
      | with_reducible apply st_count hP
      | with_reducible apply st_localRead hP
      | with_reducible apply accRes_ok
      | with_reducible apply accRes_wait
      | with_reducible apply accRes_fail
      | with_reducible apply accSt_bind
      | with_reducible apply accSt_pure
      | with_reducible apply accSt_foldlM
      | with_reducible apply accSt_map
      | with_reducible apply accSt_mapM
      | split
      | (with_reducible intro _)
      | with_reducible apply st_foldl
      | with_reducible apply st_foldl_snd
      | dsimp only
      | (refine st_pair (by assumption) ?_)
      | assumption
      | with_reducible apply accSt_fun)

theorem st_placeRead (hP : Stable P) {w : Work} {ctx : Nat} {n : Nat} {a3 : Place}  : AccSt P (placeRead w ctx n a3) := by
  unfold placeRead
  repeat' (first
      | with_reducible assumption
      | with_reducible apply st_ctxLocalRead hP
      | with_reducible apply st_globRead hP
      | with_reducible apply st_hostRead hP
      | with_reducible apply accRes_ok
      | with_reducible apply accRes_wait
      | with_reducible apply accRes_fail
      | with_reducible apply accSt_bind
      | with_reducible apply accSt_pure
      | with_reducible apply accSt_foldlM
      | with_reducible apply accSt_map
      | with_reducible apply accSt_mapM
      | split)

theorem st_ctxRead (hP : Stable P) {w : Work} {ctx : Nat} {va : Nat} {n : Nat}  : AccSt P (ctxRead w ctx va n) := by
  unfold ctxRead
  repeat' (first
      | with_reducible assumption
      | with_reducible apply st_placeRead hP
      | with_reducible apply st_xlate hP
      | with_reducible apply accRes_ok
      | with_reducible apply accRes_wait
      | with_reducible apply accRes_fail
      | with_reducible apply accSt_bind
      | with_reducible apply accSt_pure
      | with_reducible apply accSt_foldlM
      | with_reducible apply accSt_map
      | with_reducible apply accSt_mapM
      | split
      | (with_reducible intro _))

theorem st_ctxReadNat (hP : Stable P) {w : Work} {ctx : Nat} {va : Nat} {n : Nat}  : AccSt P (ctxReadNat w ctx va n) := by
  unfold ctxReadNat
  repeat' (first
      | with_reducible assumption
      | with_reducible apply st_ctxRead hP
      | with_reducible apply accRes_ok
      | with_reducible apply accRes_wait
      | with_reducible apply accRes_fail
      | with_reducible apply accSt_bind
      | with_reducible apply accSt_pure
      | with_reducible apply accSt_foldlM
      | with_reducible apply accSt_map
      | with_reducible apply accSt_mapM
      | split
      | (with_reducible intro _))

theorem st_atcFill (hP : Stable P) {e : AtcEnt} {s : State} (h_s : P s) : P (atcFill e s) := by
  unfold atcFill
  repeat' (first
      | with_reducible assumption
      | with_reducible apply st_drawFree hP
      | with_reducible apply hP.xlt
      | split
      | (with_reducible intro _)
      | with_reducible apply st_foldl
      | with_reducible apply st_foldl_snd
      | dsimp only
      | (refine st_pair (by assumption) ?_))

theorem st_keepArrived (hP : Stable P) {a0 : Waiting} {l : List Byte} {s : State} (h_s : P s) : P (keepArrived a0 l s) := by
  unfold keepArrived
  repeat' (first
      | with_reducible assumption
      | with_reducible apply hP.io)

end Sys2Proof.Machine
end

