-- ==== Sys2Proof/Laws/StableMemops.lean ====
section
/-!
SUPPORT. The operations of Machine/Memops keep every stable predicate.
-/

set_option linter.unusedVariables false

namespace Sys2Proof.Machine

variable {P : State → Prop}

theorem st_memopIssue (hP : Stable P) {m : MemReq} {s : State} (h_s : P s) : P (memopIssue m s) := by
  unfold memopIssue
  repeat' (first
      | with_reducible assumption
      | with_reducible apply hP.xyl)

theorem st_memopElems (hP : Stable P) {op : Nat} {elems : List (Nat × List Byte)} {s : State} (h_s : P s) : P (memopElems op elems s) := by
  unfold memopElems
  repeat' (first
      | with_reducible assumption
      | with_reducible apply st_memWrite hP
      | split
      | (with_reducible intro _)
      | with_reducible apply st_foldl)

theorem st_memopRun (hP : Stable P) {m : MemReq} {s : State} (h_s : P s) : P (memopRun m s).2 := by
  unfold memopRun
  repeat' (first
      | with_reducible assumption
      | with_reducible apply st_canInvalidate hP
      | with_reducible apply st_evt hP
      | with_reducible apply st_meetErrors hP
      | with_reducible apply st_memopElems hP
      | split
      | (with_reducible intro _)
      | with_reducible apply st_foldl
      | with_reducible apply st_foldl_snd
      | dsimp only)

theorem st_memopRemote (hP : Stable P) {dev : Nat} {m : MemReq} {s : State} (h_s : P s) : P (memopRemote dev m s) := by
  unfold memopRemote
  repeat' (first
      | with_reducible assumption
      | with_reducible apply st_send hP
      | with_reducible apply hP.io
      | with_reducible apply hP.xyl)

theorem st_groupRun (hP : Stable P) {g : RedGroup} {s : State} (h_s : P s) : P (groupRun g s).2 := by
  unfold groupRun
  repeat' (first
      | with_reducible assumption
      | with_reducible apply st_memopRun hP
      | with_reducible apply hP.xyl
      | split
      | (with_reducible intro _)
      | with_reducible apply st_foldl
      | with_reducible apply st_foldl_snd)

theorem st_memopStage (hP : Stable P) {m : MemReq} {s : State} (h_s : P s) : P (memopStage m s).2 := by
  unfold memopStage
  repeat' (first
      | with_reducible assumption
      | with_reducible apply st_groupRun hP
      | with_reducible apply hP.xyl
      | split
      | (with_reducible intro _)
      | with_reducible apply st_foldl
      | with_reducible apply st_foldl_snd
      | dsimp only)

theorem st_memopReach (hP : Stable P) {m : MemReq} {s : State} (h_s : P s) : P (memopReach m s).2 := by
  unfold memopReach
  repeat' (first
      | with_reducible assumption
      | with_reducible apply st_memopRun hP
      | with_reducible apply st_memopStage hP
      | split)

end Sys2Proof.Machine
end

