-- ==== Sys2Proof/Laws/StableDesc.lean ====
section
/-!
SUPPORT. The operations of Machine/Desc keep every stable predicate.
-/

set_option linter.unusedVariables false

namespace Sys2Proof.Machine

variable {P : State → Prop}

theorem st_setBulk (hP : Stable P) {n : Nat} {b : Bulk} {s : State} (h_s : P s) : P (setBulk n b s) := by
  unfold setBulk
  repeat' (first
      | with_reducible assumption
      | with_reducible apply hP.dma)

theorem st_setGdma (hP : Stable P) {k : Nat} {g : Gdma} {s : State} (h_s : P s) : P (setGdma k g s) := by
  unfold setGdma
  repeat' (first
      | with_reducible assumption
      | with_reducible apply hP.dma)

end Sys2Proof.Machine
end

