-- ==== Sys2Proof/Laws/StableComplete.lean ====
section
/-!
SUPPORT. The operations of Machine/Complete keep every stable predicate.
-/

set_option linter.unusedVariables false

namespace Sys2Proof.Machine

variable {P : State → Prop}

theorem st_leaveStarted (hP : Stable P) {f : Fin} {s : State} (h_s : P s) : P (leaveStarted f s) := by
  unfold leaveStarted
  repeat' (first
      | with_reducible assumption
      | with_reducible apply st_count hP
      | with_reducible apply st_emit hP
      | with_reducible apply st_evt hP
      | with_reducible apply st_progress hP
      | with_reducible apply hP.crn
      | split)

theorem st_beginFresh (hP : Stable P) {cs : List Cmd} {s : State} (h_s : P s) : P (beginFresh cs s).2 := by
  unfold beginFresh
  repeat' (first
      | with_reducible assumption
      | with_reducible apply hP.crn
      | split)

theorem st_divert (hP : Stable P) {r : Record} {reason : Nat} {va : Nat} {s : State} (h_s : P s) : P (divert r reason va s) := by
  unfold divert
  repeat' (first
      | with_reducible assumption
      | with_reducible apply st_count hP
      | with_reducible apply st_memWrite hP
      | with_reducible apply st_raiseVector hP
      | with_reducible apply st_regField hP
      | with_reducible apply st_regOr hP
      | with_reducible apply hP.hl
      | split
      | (with_reducible intro _)
      | with_reducible apply st_foldl
      | with_reducible apply st_foldl_snd
      | dsimp only)

theorem st_pushRecord (hP : Stable P) {p : Pend} {s : State} (h_s : P s) : P (pushRecord p s) := by
  unfold pushRecord
  repeat' (first
      | with_reducible assumption
      | with_reducible apply st_divert hP
      | with_reducible apply st_updCtx hP
      | split)

theorem st_endTop (hP : Stable P) {f : Fin} {refused : Bool} {s : State} (h_s : P s) : P (endTop f refused s) := by
  unfold endTop
  repeat' (first
      | with_reducible assumption
      | with_reducible apply st_leaveStarted hP
      | with_reducible apply st_pushRecord hP
      | with_reducible apply st_send hP
      | split
      | (with_reducible intro _)
      | with_reducible apply st_foldl
      | with_reducible apply st_foldl_snd
      | dsimp only)

theorem st_chainAdvance (hP : Stable P) {ctx : Nat} {n : Nat} {cnt : Nat} {s : State} (h_s : P s) : P (chainAdvance ctx n cnt s).2 := by
  unfold chainAdvance
  repeat' (first
      | with_reducible assumption
      | with_reducible apply st_setBulk hP
      | split
      | (with_reducible intro _)
      | with_reducible apply st_foldl
      | with_reducible apply st_foldl_snd
      | dsimp only)

theorem st_chainPost (hP : Stable P) {ctx : Nat} {k : Nat} {o : Nat} {s : State} (h_s : P s) : P (chainPost ctx k o s).2 := by
  unfold chainPost
  repeat' (first
      | with_reducible assumption
      | with_reducible apply st_setGdma hP
      | split
      | (with_reducible intro _)
      | with_reducible apply st_foldl
      | with_reducible apply st_foldl_snd
      | dsimp only)

theorem st_chainAdd (hP : Stable P) {w : Work} {ctx : Nat} {v : Nat} {a3 : Place}  : AccSt P (chainAdd w ctx v a3) := by
  unfold chainAdd
  repeat' (first
      | with_reducible assumption
      | with_reducible apply st_count hP
      | with_reducible apply st_memopRun hP
      | with_reducible apply accRes_ok
      | with_reducible apply accRes_wait
      | with_reducible apply accRes_fail
      | with_reducible apply accSt_bind
      | with_reducible apply accSt_pure
      | with_reducible apply accSt_foldlM
      | with_reducible apply accSt_map
      | with_reducible apply accSt_mapM
      | split
      | (with_reducible intro _)
      | with_reducible apply st_foldl
      | with_reducible apply st_foldl_snd
      | dsimp only
      | (refine st_pair (by assumption) ?_)
      | assumption
      | with_reducible apply accSt_fun)

theorem st_chainRing (hP : Stable P) {ctx : Nat} {q : Nat} {units : Nat} {s : State} (h_s : P s) : P (chainRing ctx q units s).2 := by
  unfold chainRing
  repeat' (first
      | with_reducible assumption
      | with_reducible apply st_updCtx hP
      | split
      | (with_reducible intro _)
      | with_reducible apply st_foldl
      | with_reducible apply st_foldl_snd
      | dsimp only)

theorem st_chainAcc (hP : Stable P) {w : Work} {ctx : Nat} {addr : Nat}  : AccSt P (chainAcc w ctx addr) := by
  unfold chainAcc
  repeat' (first
      | with_reducible assumption
      | with_reducible apply st_chainAdd hP
      | with_reducible apply st_chainAdvance hP
      | with_reducible apply st_chainPost hP
      | with_reducible apply st_chainRing hP
      | with_reducible apply st_ctxRead hP
      | with_reducible apply st_ctxWrite hP
      | with_reducible apply st_xlate hP
      | with_reducible apply accRes_ok
      | with_reducible apply accRes_wait
      | with_reducible apply accRes_fail
      | with_reducible apply accSt_bind
      | with_reducible apply accSt_pure
      | with_reducible apply accSt_foldlM
      | with_reducible apply accSt_map
      | with_reducible apply accSt_mapM
      | split
      | (with_reducible intro _)
      | with_reducible apply st_foldl
      | with_reducible apply st_foldl_snd
      | dsimp only
      | (refine st_pair (by assumption) ?_)
      | assumption
      | with_reducible apply accSt_fun)

theorem st_countChain (hP : Stable P) {r : Bool × Bool} {s : State} (h_s : P s) : P (countChain r s) := by
  unfold countChain
  repeat' (first
      | with_reducible assumption
      | with_reducible apply st_count hP
      | split)

theorem st_runFinish (hP : Stable P) {endF : Fin → Bool → State → State} {f : Fin} {s : State} (h_endF : ∀ (y0 : Fin) (y1 : Bool) (y2 : State), P y2 → P (endF y0 y1 y2)) (h_s : P s) : P (runFinish endF f s) := by
  unfold runFinish
  repeat' (first
      | with_reducible assumption
      | with_reducible apply st_chainAcc hP
      | with_reducible apply st_countChain hP
      | with_reducible apply st_runAcc hP
      | with_reducible apply hP.crn
      | with_reducible apply accRes_ok
      | with_reducible apply accRes_wait
      | with_reducible apply accRes_fail
      | with_reducible apply accSt_bind
      | with_reducible apply accSt_pure
      | with_reducible apply accSt_foldlM
      | with_reducible apply accSt_map
      | with_reducible apply accSt_mapM
      | with_reducible apply h_endF
      | split
      | (with_reducible intro _))

theorem st_finishTop (hP : Stable P) {f : Fin} {s : State} (h_s : P s) : P (finishTop f s) := by
  unfold finishTop
  repeat' (first
      | with_reducible assumption
      | with_reducible apply st_endTop hP
      | with_reducible apply st_runFinish hP
      | split
      | (with_reducible intro _))

theorem st_completeSecond (hP : Stable P) {c : Cmd} {status : Nat} {fault : Nat} {result : Nat} {s : State} (h_s : P s) : P (completeSecond c status fault result s) := by
  unfold completeSecond
  repeat' (first
      | with_reducible assumption
      | with_reducible apply st_finishTop hP)

theorem st_startCmd (hP : Stable P) {c : Cmd} {s : State} (h_s : P s) : P (startCmd c s) := by
  unfold startCmd
  repeat' (first
      | with_reducible assumption
      | with_reducible apply st_count hP
      | with_reducible apply st_emit hP
      | with_reducible apply st_evt hP
      | with_reducible apply st_progress hP
      | with_reducible apply hP.crn
      | split)

theorem st_completeTop (hP : Stable P) {c : Cmd} {status : Nat} {fault : Nat} {result : Nat} {s : State} (h_s : P s) : P (completeTop c status fault result s) := by
  unfold completeTop
  repeat' (first
      | with_reducible assumption
      | with_reducible apply st_finishTop hP)

theorem st_conclude (hP : Stable P) {c : Cmd} {status : Nat} {fault : Nat} {result : Nat} {s : State} (h_s : P s) : P (conclude c status fault result s) := by
  unfold conclude
  repeat' (first
      | with_reducible assumption
      | with_reducible apply st_completeSecond hP
      | with_reducible apply st_completeTop hP
      | with_reducible apply hP.crn
      | split
      | (with_reducible intro _)
      | with_reducible apply st_foldl)

theorem st_cancelDeferred (hP : Stable P) {cs : List Cmd} {s : State} (h_s : P s) : P (cancelDeferred cs s) := by
  unfold cancelDeferred
  repeat' (first
      | with_reducible assumption
      | with_reducible apply st_completeSecond hP
      | split
      | (with_reducible intro _)
      | with_reducible apply st_foldl)

theorem st_ctxVector (hP : Stable P) {ctx : Nat} {s : State} (h_s : P s) : P (ctxVector ctx s) := by
  unfold ctxVector
  repeat' (first
      | with_reducible assumption
      | with_reducible apply st_raiseVector hP
      | with_reducible apply st_updCtx hP
      | split
      | (with_reducible intro _)
      | with_reducible apply st_foldl
      | with_reducible apply st_foldl_snd
      | dsimp only)

theorem st_concludeDisables (hP : Stable P) {cs : List Cmd} {s : State} (h_s : P s) : P (concludeDisables cs s) := by
  unfold concludeDisables
  repeat' (first
      | with_reducible assumption
      | with_reducible apply st_completeTop hP
      | split
      | (with_reducible intro _)
      | with_reducible apply st_foldl)

end Sys2Proof.Machine
end

