-- ==== Sys2Proof/Laws/StableGraphs.lean ====
section
/-!
SUPPORT. The operations of Machine/Graphs keep every stable predicate.
-/

set_option linter.unusedVariables false

namespace Sys2Proof.Machine

variable {P : State → Prop}

theorem st_dropGraph (hP : Stable P) {ctx : Nat} {g : Nat} {s : State} (h_s : P s) : P (dropGraph ctx g s) := by
  unfold dropGraph
  repeat' (first
      | with_reducible assumption
      | with_reducible apply st_updCtx hP)

theorem st_storeFail (hP : Stable P) {c : Cmd} {g : Nat} {status : Nat} {fault : Nat} {result : Nat} {s : State} (h_s : P s) : P (storeFail c g status fault result s) := by
  unfold storeFail
  repeat' (first
      | with_reducible assumption
      | with_reducible apply st_conclude hP
      | with_reducible apply st_dropGraph hP)

theorem st_newPages (hP : Stable P) {n : Nat} {s : State} (h_s : P s) : P (newPages n s).2 := by
  unfold newPages
  repeat' (first
      | with_reducible assumption
      | with_reducible apply hP.crn)

theorem st_putGraph (hP : Stable P) {ctx : Nat} {g : Graph} {s : State} (h_s : P s) : P (putGraph ctx g s) := by
  unfold putGraph
  repeat' (first
      | with_reducible assumption
      | with_reducible apply st_updCtx hP)

theorem st_storeImage (hP : Stable P) {c : Cmd} {g : Nat} {l : List Byte} {s : State} (h_s : P s) : P (storeImage c g l s) := by
  unfold storeImage
  repeat' (first
      | with_reducible assumption
      | with_reducible apply st_conclude hP
      | with_reducible apply st_newPages hP
      | with_reducible apply st_putGraph hP
      | with_reducible apply st_storeFail hP
      | split
      | (with_reducible intro _)
      | with_reducible apply st_foldl
      | with_reducible apply st_foldl_snd
      | dsimp only)

theorem st_imageRead (hP : Stable P) {w : Work} {ctx : Nat} {a : Nat}  : AccSt P (imageRead w ctx a) := by
  unfold imageRead
  repeat' (first
      | with_reducible assumption
      | with_reducible apply st_ctxRead hP
      | with_reducible apply accRes_ok
      | with_reducible apply accRes_wait
      | with_reducible apply accRes_fail
      | with_reducible apply accSt_bind
      | with_reducible apply accSt_pure
      | with_reducible apply accSt_foldlM
      | with_reducible apply accSt_map
      | with_reducible apply accSt_mapM
      | split
      | (with_reducible intro _))

theorem st_indirectRead (hP : Stable P) {w : Work} {f : From} {ctx : Nat} {a : Nat}  : AccSt P (indirectRead w f ctx a) := by
  unfold indirectRead
  repeat' (first
      | with_reducible assumption
      | with_reducible apply st_accDo hP
      | with_reducible apply st_count hP
      | with_reducible apply st_ctxReadNat hP
      | with_reducible apply st_globRead hP
      | with_reducible apply accRes_ok
      | with_reducible apply accRes_wait
      | with_reducible apply accRes_fail
      | with_reducible apply accSt_bind
      | with_reducible apply accSt_pure
      | with_reducible apply accSt_foldlM
      | with_reducible apply accSt_map
      | with_reducible apply accSt_mapM
      | split
      | (with_reducible intro _))

theorem st_readIndirect (hP : Stable P) {w : Work} {f : From} {arg : Nat} {mask : Nat} {c : Cmd}  : AccSt P (readIndirect w f arg mask c) := by
  unfold readIndirect
  repeat' (first
      | with_reducible assumption
      | with_reducible apply st_indirectRead hP
      | with_reducible apply accRes_ok
      | with_reducible apply accRes_wait
      | with_reducible apply accRes_fail
      | with_reducible apply accSt_bind
      | with_reducible apply accSt_pure
      | with_reducible apply accSt_foldlM
      | with_reducible apply accSt_map
      | with_reducible apply accSt_mapM
      | split
      | (with_reducible intro _)
      | with_reducible apply st_foldl
      | with_reducible apply st_foldl_snd
      | dsimp only)

theorem st_storeRun (hP : Stable P) {bad : Cmd → Flt → State → State} {c : Cmd} {s : State} (h_bad : ∀ (y0 : Cmd) (y1 : Flt) (y2 : State), P y2 → P (bad y0 y1 y2)) (h_s : P s) : P (storeRun bad c s) := by
  unfold storeRun
  repeat' (first
      | with_reducible assumption
      | with_reducible apply st_dropGraph hP
      | with_reducible apply st_imageRead hP
      | with_reducible apply st_runAcc hP
      | with_reducible apply st_storeFail hP
      | with_reducible apply st_storeImage hP
      | with_reducible apply accRes_ok
      | with_reducible apply accRes_wait
      | with_reducible apply accRes_fail
      | with_reducible apply accSt_bind
      | with_reducible apply accSt_pure
      | with_reducible apply accSt_foldlM
      | with_reducible apply accSt_map
      | with_reducible apply accSt_mapM
      | with_reducible apply h_bad
      | split
      | (with_reducible intro _))

theorem st_freeGens (hP : Stable P) {bad : Cmd → Flt → State → State} {ctx : Nat} {g : Nat} {s : State} (h_bad : ∀ (y0 : Cmd) (y1 : Flt) (y2 : State), P y2 → P (bad y0 y1 y2)) (h_s : P s) : P (freeGens bad ctx g s) := by
  unfold freeGens
  repeat' (first
      | with_reducible assumption
      | with_reducible apply st_beginFresh hP
      | with_reducible apply st_concludeDisables hP
      | with_reducible apply st_dropGraph hP
      | with_reducible apply st_putGraph hP
      | with_reducible apply st_storeRun hP
      | with_reducible apply h_bad
      | split
      | (with_reducible intro _)
      | with_reducible apply st_foldl
      | with_reducible apply st_foldl_snd
      | dsimp only
      | (refine st_pair (by assumption) ?_))

end Sys2Proof.Machine
end

