-- ==== Sys2Proof/Laws/StableTeardown.lean ====
section
/-!
SUPPORT. The operations of Machine/Teardown keep every stable predicate.
-/

set_option linter.unusedVariables false

namespace Sys2Proof.Machine

variable {P : State → Prop}

theorem st_unbindGrove (hP : Stable P) {k : Nat} {s : State} (h_s : P s) : P (unbindGrove k s) := by
  unfold unbindGrove
  repeat' (first
      | with_reducible assumption
      | with_reducible apply hP.gro)

theorem st_groveClearWork (hP : Stable P) {k : Nat} {s : State} (h_s : P s) : P (groveClearWork k s) := by
  unfold groveClearWork
  repeat' (first
      | with_reducible assumption
      | with_reducible apply hP.io)

theorem st_probeAbandon (hP : Stable P) {k : Nat} {s : State} (h_s : P s) : P (probeAbandon k s) := by
  unfold probeAbandon
  repeat' (first
      | with_reducible assumption
      | with_reducible apply st_count hP
      | with_reducible apply hP.prb
      | split)

theorem st_groveScrub (hP : Stable P) {k : Nat} {s : State} (h_s : P s) : P (groveScrub k s) := by
  unfold groveScrub
  repeat' (first
      | with_reducible assumption
      | with_reducible apply st_memZero hP
      | with_reducible apply st_probeAbandon hP
      | with_reducible apply st_setGdma hP
      | with_reducible apply st_setGrove hP
      | with_reducible apply hP.xyl
      | split
      | (with_reducible intro _)
      | with_reducible apply st_foldl)

theorem st_tearNode (hP : Stable P) {ctx : Nat} {s : State} (h_s : P s) : P (tearNode ctx s) := by
  unfold tearNode
  repeat' (first
      | with_reducible assumption
      | with_reducible apply st_count hP
      | with_reducible apply st_groveClearWork hP
      | with_reducible apply st_groveScrub hP
      | with_reducible apply st_unbindGrove hP
      | with_reducible apply hP.sched
      | split
      | (with_reducible intro _)
      | with_reducible apply st_foldl)

theorem st_tornSecond (hP : Stable P) {code : Nat} {cs : List Cmd} {s : State} (h_s : P s) : P (tornSecond code cs s) := by
  unfold tornSecond
  repeat' (first
      | with_reducible assumption
      | with_reducible apply st_completeSecond hP
      | split
      | (with_reducible intro _)
      | with_reducible apply st_foldl)

theorem st_tearBulk (hP : Stable P) {ctx : Nat} {code : Nat} {n : Nat} {s : State} (h_s : P s) : P (tearBulk ctx code n s) := by
  unfold tearBulk
  repeat' (first
      | with_reducible assumption
      | with_reducible apply st_clearWork hP
      | with_reducible apply st_setBulk hP
      | with_reducible apply st_tornSecond hP
      | split
      | (with_reducible intro _)
      | with_reducible apply st_foldl
      | with_reducible apply st_foldl_snd
      | dsimp only)

theorem st_tearPins (hP : Stable P) {ctx : Nat} {s : State} (h_s : P s) : P (tearPins ctx s) := by
  unfold tearPins
  repeat' (first
      | with_reducible assumption
      | with_reducible apply st_completeTop hP
      | with_reducible apply st_updCtx hP
      | split
      | (with_reducible intro _)
      | with_reducible apply st_foldl)

theorem st_tearDeferred (hP : Stable P) {ctx : Nat} {code : Nat} {s : State} (h_s : P s) : P (tearDeferred ctx code s) := by
  unfold tearDeferred
  repeat' (first
      | with_reducible assumption
      | with_reducible apply st_State_setTrace hP
      | with_reducible apply st_tornSecond hP
      | with_reducible apply st_updCtx hP
      | with_reducible apply hP.sched
      | with_reducible apply hP.tbl)

theorem st_tearEngines (hP : Stable P) {ctx : Nat} {s : State} (h_s : P s) : P (tearEngines ctx s) := by
  unfold tearEngines
  repeat' (first
      | with_reducible assumption
      | with_reducible apply hP.io
      | with_reducible apply hP.fab
      | with_reducible apply hP.xch
      | with_reducible apply hP.tbl
      | with_reducible apply hP.obs
      | with_reducible apply hP.gro)

theorem st_tearCommands (hP : Stable P) {ctx : Nat} {code : Nat} {s : State} (h_s : P s) : P (tearCommands ctx code s) := by
  unfold tearCommands
  repeat' (first
      | with_reducible assumption
      | with_reducible apply st_completeTop hP
      | with_reducible apply st_leaveStarted hP
      | with_reducible apply hP.crn
      | split
      | (with_reducible intro _)
      | with_reducible apply st_foldl)

theorem st_tear (hP : Stable P) {ctx : Nat} {fault : Option Flt} {state : CtxState} {s : State} (h_s : P s) : P (tear ctx fault state s) := by
  unfold tear
  repeat' (first
      | with_reducible assumption
      | with_reducible apply st_count hP
      | with_reducible apply st_memZero hP
      | with_reducible apply st_tearBulk hP
      | with_reducible apply st_tearCommands hP
      | with_reducible apply st_tearDeferred hP
      | with_reducible apply st_tearEngines hP
      | with_reducible apply st_tearNode hP
      | with_reducible apply st_tearPins hP
      | with_reducible apply st_updCtx hP
      | split
      | (with_reducible intro _)
      | with_reducible apply st_foldl
      | with_reducible apply st_foldl_snd
      | dsimp only)

theorem st_faultRecord (hP : Stable P) {c : Cmd} {f : Flt} {result : Nat} {s : State} (h_s : P s) : P (faultRecord c f result s) := by
  unfold faultRecord
  repeat' (first
      | with_reducible assumption
      | with_reducible apply st_completeTop hP
      | with_reducible apply st_conclude hP
      | with_reducible apply st_leaveStarted hP
      | split)

theorem st_faultWith (hP : Stable P) {block : Nat} {addr : Nat} {result : Nat} {c : Cmd} {f : Flt} {s : State} (h_s : P s) : P (faultWith block addr result c f s) := by
  unfold faultWith
  repeat' (first
      | with_reducible assumption
      | with_reducible apply st_conclude hP
      | with_reducible apply st_emit hP
      | with_reducible apply st_faultRecord hP
      | with_reducible apply st_tear hP
      | split
      | (with_reducible intro _)
      | with_reducible apply st_foldl
      | with_reducible apply st_foldl_snd
      | dsimp only)

theorem st_faultAt (hP : Stable P) {block : Nat} {addr : Nat} {c : Cmd} {f : Flt} {s : State} (h_s : P s) : P (faultAt block addr c f s) := by
  unfold faultAt
  repeat' (first
      | with_reducible assumption
      | with_reducible apply st_faultWith hP)

theorem st_faultNode (hP : Stable P) {block : Nat} {addr : Nat} {ctx : Nat} {f : Flt} {s : State} (h_s : P s) : P (faultNode block addr ctx f s) := by
  unfold faultNode
  repeat' (first
      | with_reducible assumption
      | with_reducible apply st_emit hP
      | with_reducible apply st_faultAt hP
      | with_reducible apply st_tear hP
      | split)

theorem st_faultCmd (hP : Stable P) {c : Cmd} {f : Flt} {s : State} (h_s : P s) : P (faultCmd c f s) := by
  unfold faultCmd
  repeat' (first
      | with_reducible assumption
      | with_reducible apply st_faultAt hP)

theorem st_keepPageWaits (hP : Stable P) {ctx : Nat} {k : Nat} {s : State} (h_s : P s) : P (keepPageWaits ctx k s) := by
  unfold keepPageWaits
  repeat' (first
      | with_reducible assumption
      | with_reducible apply hP.io)

end Sys2Proof.Machine
end

