-- ==== Sys2Proof/Laws/StableDumps.lean ====
section
/-!
SUPPORT. The operations of Machine/Dumps keep every stable predicate.
-/

set_option linter.unusedVariables false

namespace Sys2Proof.Machine

variable {P : State → Prop}

theorem st_dumpPut (hP : Stable P) {ctx : Nat} {va : Nat} {l : List Byte} {s : State} (h_s : P s) : P (dumpPut ctx va l s) := by
  unfold dumpPut
  repeat' (first
      | with_reducible assumption
      | with_reducible apply st_ctxWrite hP
      | with_reducible apply accRes_ok
      | with_reducible apply accRes_wait
      | with_reducible apply accRes_fail
      | with_reducible apply accSt_bind
      | with_reducible apply accSt_pure
      | with_reducible apply accSt_foldlM
      | with_reducible apply accSt_map
      | with_reducible apply accSt_mapM
      | split
      | (with_reducible intro _)
      | with_reducible apply st_foldl
      | with_reducible apply st_foldl_snd
      | dsimp only
      | (refine st_pair (by assumption) ?_)
      | assumption
      | with_reducible apply accSt_fun
      | (with_reducible refine accRes_run ?_ ?_)
      | (refine accSt_ok ?_ (by assumption) ?_))

theorem st_putDump (hP : Stable P) {d : DumpSlot} {s : State} (h_s : P s) : P (putDump d s) := by
  unfold putDump
  repeat' (first
      | with_reducible assumption
      | with_reducible apply st_dumpPut hP
      | with_reducible apply hP.obs)

theorem st_dumpFire (hP : Stable P) {k : Nat} {d : DumpSlot} {off : Nat} {len : Nat} {s : State} (h_s : P s) : P (dumpFire k d off len s).2 := by
  unfold dumpFire
  repeat' (first
      | with_reducible assumption
      | with_reducible apply st_count hP
      | with_reducible apply st_putDump hP
      | split
      | (with_reducible intro _)
      | with_reducible apply st_foldl
      | with_reducible apply st_foldl_snd
      | dsimp only)

theorem st_closeDump (hP : Stable P) {d : DumpSlot} {s : State} (h_s : P s) : P (closeDump d s) := by
  unfold closeDump
  repeat' (first
      | with_reducible assumption
      | with_reducible apply st_completeTop hP
      | with_reducible apply st_dumpPut hP
      | with_reducible apply hP.obs
      | split)

theorem st_abandonDump (hP : Stable P) {k : Nat} {s : State} (h_s : P s) : P (abandonDump k s) := by
  unfold abandonDump
  repeat' (first
      | with_reducible assumption
      | with_reducible apply st_dumpPut hP
      | with_reducible apply st_setGrove hP
      | split
      | (with_reducible intro _)
      | with_reducible apply st_foldl
      | with_reducible apply st_foldl_snd
      | dsimp only)

end Sys2Proof.Machine
end

