-- ==== Sys2Proof/Laws/StableFinish.lean ====
section
/-!
SUPPORT. The operations of Machine/Finish keep every stable predicate.
-/

set_option linter.unusedVariables false

namespace Sys2Proof.Machine

variable {P : State → Prop}

theorem st_closeDumps (hP : Stable P) {ctx : Nat} {launch : Option Nat} {s : State} (h_s : P s) : P (closeDumps ctx launch s) := by
  unfold closeDumps
  repeat' (first
      | with_reducible assumption
      | with_reducible apply st_closeDump hP
      | split
      | (with_reducible intro _)
      | with_reducible apply st_foldl)

theorem st_launchCheck (hP : Stable P) {id : Nat} {s : State} (h_s : P s) : P (launchCheck id s) := by
  unfold launchCheck
  repeat' (first
      | with_reducible assumption
      | with_reducible apply st_closeDumps hP
      | with_reducible apply st_completeTop hP
      | with_reducible apply st_faultCmd hP
      | with_reducible apply st_freeGens hP
      | with_reducible apply hP.crn
      | split
      | (with_reducible intro _))

theorem st_endNode (hP : Stable P) {f : Fin} {l : Nat} {n : Nat} {s : State} (h_s : P s) : P (endNode f l n s) := by
  unfold endNode
  repeat' (first
      | with_reducible assumption
      | with_reducible apply st_count hP
      | with_reducible apply st_launchCheck hP
      | with_reducible apply st_leaveStarted hP
      | with_reducible apply hP.crn)

theorem st_endAny (hP : Stable P) {f : Fin} {refused : Bool} {s : State} (h_s : P s) : P (endAny f refused s) := by
  unfold endAny
  repeat' (first
      | with_reducible assumption
      | with_reducible apply st_endNode hP
      | with_reducible apply st_endTop hP
      | split)

theorem st_complete (hP : Stable P) {c : Cmd} {status : Nat} {fault : Nat} {result : Nat} {s : State} (h_s : P s) : P (complete c status fault result s) := by
  unfold complete
  repeat' (first
      | with_reducible assumption
      | with_reducible apply st_endAny hP
      | with_reducible apply st_runFinish hP
      | split
      | (with_reducible intro _))

theorem st_completeOk (hP : Stable P) {c : Cmd} {result : Nat} {s : State} (h_s : P s) : P (completeOk c result s) := by
  unfold completeOk
  repeat' (first
      | with_reducible assumption
      | with_reducible apply st_complete hP)

theorem st_resumeFinish (hP : Stable P) {c : Cmd} {s : State} (h_s : P s) : P (resumeFinish c s) := by
  unfold resumeFinish
  repeat' (first
      | with_reducible assumption
      | with_reducible apply st_endAny hP
      | with_reducible apply st_runFinish hP
      | split
      | (with_reducible intro _))

theorem st_badPacket (hP : Stable P) {c : Cmd} {result : Nat} {s : State} (h_s : P s) : P (badPacket c result s) := by
  unfold badPacket
  repeat' (first
      | with_reducible assumption
      | with_reducible apply st_complete hP)

end Sys2Proof.Machine
end

