-- ==== Sys2Proof/Laws/StableArming.lean ====
section
/-!
SUPPORT. The operations of Machine/Arming keep every stable predicate.
-/

set_option linter.unusedVariables false

namespace Sys2Proof.Machine

variable {P : State → Prop}

theorem st_traceArmRun (hP : Stable P) {c : Cmd} {s : State} (h_s : P s) : P (traceArmRun c s) := by
  unfold traceArmRun
  repeat' (first
      | with_reducible assumption
      | with_reducible apply st_State_setTrace hP
      | with_reducible apply st_conclude hP
      | with_reducible apply st_traceHeader hP
      | split)

theorem st_traceClose (hP : Stable P) {reason : Nat} {s : State} (h_s : P s) : P (traceClose reason s) := by
  unfold traceClose
  repeat' (first
      | with_reducible assumption
      | with_reducible apply st_State_setTrace hP
      | with_reducible apply st_beginFresh hP
      | with_reducible apply st_concludeDisables hP
      | with_reducible apply st_traceArmRun hP
      | with_reducible apply st_traceEnd hP
      | split
      | (with_reducible intro _)
      | with_reducible apply st_foldl
      | with_reducible apply st_foldl_snd
      | dsimp only
      | (refine st_pair (by assumption) ?_))

end Sys2Proof.Machine
end

