-- ==== Sys2Proof/Laws/StableOrders.lean ====
section
/-!
SUPPORT. The operations of Machine/Orders keep every stable predicate.
-/

set_option linter.unusedVariables false

namespace Sys2Proof.Machine

variable {P : State → Prop}

theorem st_ordered (hP : Stable P) {c : Cmd} {k : OrderKind} {rivals : List Order} {effect : State → State} {s : State} (h_effect : ∀ (y0 : State), P y0 → P (effect y0)) (h_s : P s) : P (ordered c k rivals effect s) := by
  unfold ordered
  repeat' (first
      | with_reducible assumption
      | with_reducible apply st_complete hP
      | with_reducible apply h_effect
      | split)

end Sys2Proof.Machine
end

