-- ==== Sys2Proof/Laws/StableCrown.lean ====
section
/-!
SUPPORT. The operations of Machine/Crown keep every stable predicate.
-/

set_option linter.unusedVariables false

namespace Sys2Proof.Machine

variable {P : State → Prop}

theorem st_dbCplHead (hP : Stable P) {ctx : Nat} {value : Nat} {s : State} (h_s : P s) : P (dbCplHead ctx value s) := by
  unfold dbCplHead
  repeat' (first
      | with_reducible assumption
      | with_reducible apply st_count hP
      | with_reducible apply st_updCtx hP
      | split)

theorem st_cmdCplArrive (hP : Stable P) {h : Hdr} {r : Record} {s : State} (h_s : P s) : P (cmdCplArrive h r s) := by
  unfold cmdCplArrive
  repeat' (first
      | with_reducible assumption
      | with_reducible apply st_deliver hP
      | with_reducible apply st_responded hP
      | split
      | (with_reducible intro _)
      | with_reducible apply st_foldl
      | with_reducible apply st_foldl_snd
      | dsimp only
      | (refine st_pair (by assumption) ?_)
      | assumption)

theorem st_writeInline (hP : Stable P) {c : Cmd} {s : State} (h_s : P s) : P (writeInline c s) := by
  unfold writeInline
  repeat' (first
      | with_reducible assumption
      | with_reducible apply st_badPacket hP
      | with_reducible apply st_completeOk hP
      | with_reducible apply st_ctxWrite hP
      | with_reducible apply st_faultCmd hP
      | with_reducible apply st_runAcc hP
      | with_reducible apply st_startCmd hP
      | with_reducible apply accRes_ok
      | with_reducible apply accRes_wait
      | with_reducible apply accRes_fail
      | with_reducible apply accSt_bind
      | with_reducible apply accSt_pure
      | with_reducible apply accSt_foldlM
      | with_reducible apply accSt_map
      | with_reducible apply accSt_mapM
      | split
      | (with_reducible intro _)
      | with_reducible apply st_foldl
      | with_reducible apply st_foldl_snd
      | dsimp only)

theorem st_patchCopy (hP : Stable P) {c : Cmd} {g : Graph} {gen : Gen} {offset : Nat} {count : Nat} {s : State} (h_s : P s) : P (patchCopy c g gen offset count s) := by
  unfold patchCopy
  repeat' (first
      | with_reducible assumption
      | with_reducible apply st_badPacket hP
      | with_reducible apply st_complete hP
      | with_reducible apply st_completeOk hP
      | with_reducible apply st_faultCmd hP
      | with_reducible apply st_freeGens hP
      | with_reducible apply st_newPages hP
      | with_reducible apply st_putGraph hP
      | split
      | (with_reducible intro _)
      | with_reducible apply st_foldl
      | with_reducible apply st_foldl_snd
      | dsimp only)

theorem st_waitRead (hP : Stable P) {c : Cmd} {s : State} (h_s : P s) : P (waitRead c s) := by
  unfold waitRead
  repeat' (first
      | with_reducible assumption
      | with_reducible apply st_completeOk hP
      | with_reducible apply st_ctxReadNat hP
      | with_reducible apply st_faultCmd hP
      | with_reducible apply st_runAcc hP
      | with_reducible apply accRes_ok
      | with_reducible apply accRes_wait
      | with_reducible apply accRes_fail
      | with_reducible apply accSt_bind
      | with_reducible apply accSt_pure
      | with_reducible apply accSt_foldlM
      | with_reducible apply accSt_map
      | with_reducible apply accSt_mapM
      | split
      | (with_reducible intro _))

theorem st_waitValuePoll (hP : Stable P) {c : Cmd} {s : State} (h_s : P s) : P (waitValuePoll c s) := by
  unfold waitValuePoll
  repeat' (first
      | with_reducible assumption
      | with_reducible apply st_waitRead hP
      | split)

theorem st_storeGraph (hP : Stable P) {c : Cmd} {s : State} (h_s : P s) : P (storeGraph c s) := by
  unfold storeGraph
  repeat' (first
      | with_reducible assumption
      | with_reducible apply st_badPacket hP
      | with_reducible apply st_complete hP
      | with_reducible apply st_completeOk hP
      | with_reducible apply st_faultCmd hP
      | with_reducible apply st_putGraph hP
      | with_reducible apply st_startCmd hP
      | with_reducible apply st_storeRun hP
      | split
      | (with_reducible intro _)
      | with_reducible apply st_foldl
      | with_reducible apply st_foldl_snd
      | dsimp only)

theorem st_nop (hP : Stable P) {c : Cmd} {s : State} (h_s : P s) : P (nop c s) := by
  unfold nop
  repeat' (first
      | with_reducible assumption
      | with_reducible apply st_completeOk hP
      | with_reducible apply st_startCmd hP)

theorem st_graphNodeStart (hP : Stable P) {launch : Nat} {n : Nat} {s : State} (h_s : P s) : P (graphNodeStart launch n s) := by
  unfold graphNodeStart
  repeat' (first
      | with_reducible assumption
      | with_reducible apply st_badPacket hP
      | with_reducible apply st_countN hP
      | with_reducible apply st_faultCmd hP
      | with_reducible apply st_readIndirect hP
      | with_reducible apply st_runAcc hP
      | with_reducible apply st_startCmd hP
      | with_reducible apply hP.crn
      | with_reducible apply accRes_ok
      | with_reducible apply accRes_wait
      | with_reducible apply accRes_fail
      | with_reducible apply accSt_bind
      | with_reducible apply accSt_pure
      | with_reducible apply accSt_foldlM
      | with_reducible apply accSt_map
      | with_reducible apply accSt_mapM
      | split
      | (with_reducible intro _))

theorem st_advanceProd (hP : Stable P) {ctx : Nat} {s : State} (h_s : P s) : P (advanceProd ctx s) := by
  unfold advanceProd
  repeat' (first
      | with_reducible assumption
      | with_reducible apply st_updCtx hP)

theorem st_launch (hP : Stable P) {c : Cmd} {s : State} (h_s : P s) : P (launch c s) := by
  unfold launch
  repeat' (first
      | with_reducible assumption
      | with_reducible apply st_badPacket hP
      | with_reducible apply st_startCmd hP
      | with_reducible apply hP.sched
      | split
      | (with_reducible intro _)
      | with_reducible apply st_foldl
      | with_reducible apply st_foldl_snd
      | dsimp only)

theorem st_headerRead (hP : Stable P) {w : Work} {ctx : Nat} {r : Ring}  : AccSt P (headerRead w ctx r) := by
  unfold headerRead
  repeat' (first
      | with_reducible assumption
      | with_reducible apply st_ctxRead hP)

theorem st_fetchAcc (hP : Stable P) {ctx : Nat} {q : Nat} {r : Ring}  : AccSt P (fetchAcc ctx q r) := by
  unfold fetchAcc
  repeat' (first
      | with_reducible assumption
      | with_reducible apply st_accAsk hP
      | with_reducible apply st_accTry hP
      | with_reducible apply st_ctxRead hP
      | with_reducible apply st_ctxWrite hP
      | with_reducible apply st_headerRead hP
      | with_reducible apply st_readIndirect hP
      | with_reducible apply accRes_ok
      | with_reducible apply accRes_wait
      | with_reducible apply accRes_fail
      | with_reducible apply accSt_bind
      | with_reducible apply accSt_pure
      | with_reducible apply accSt_foldlM
      | with_reducible apply accSt_map
      | with_reducible apply accSt_mapM
      | split
      | (with_reducible intro _)
      | with_reducible apply st_foldl
      | with_reducible apply st_foldl_snd
      | dsimp only)

theorem st_waitValue (hP : Stable P) {c : Cmd} {s : State} (h_s : P s) : P (waitValue c s) := by
  unfold waitValue
  repeat' (first
      | with_reducible assumption
      | with_reducible apply st_badPacket hP
      | with_reducible apply st_startCmd hP
      | with_reducible apply st_waitRead hP
      | split)

theorem st_ringFetchFault (hP : Stable P) {ctx : Nat} {q : Nat} {shadow : Bool} {f : Flt} {header : Option Nat} {s : State} (h_s : P s) : P (ringFetchFault ctx q shadow f header s) := by
  unfold ringFetchFault
  repeat' (first
      | with_reducible assumption
      | with_reducible apply st_emit hP
      | with_reducible apply st_pushRecord hP
      | with_reducible apply st_tear hP
      | split
      | (with_reducible intro _)
      | with_reducible apply st_foldl
      | with_reducible apply st_foldl_snd
      | dsimp only)

theorem st_setRing (hP : Stable P) {ctx : Nat} {q : Nat} {r : Ring} {s : State} (h_s : P s) : P (setRing ctx q r s) := by
  unfold setRing
  repeat' (first
      | with_reducible assumption
      | with_reducible apply st_updCtx hP)

theorem st_dbTail (hP : Stable P) {ctx : Nat} {q : Nat} {value : Nat} {s : State} (h_s : P s) : P (dbTail ctx q value s) := by
  unfold dbTail
  repeat' (first
      | with_reducible assumption
      | with_reducible apply st_count hP
      | with_reducible apply st_setRing hP
      | split)

theorem st_popRecord (hP : Stable P) {ctx : Nat} {s : State} (h_s : P s) : P (popRecord ctx s) := by
  unfold popRecord
  repeat' (first
      | with_reducible assumption
      | with_reducible apply st_updCtx hP)

theorem st_recordWrite (hP : Stable P) {ctx : Nat} {s : State} (h_s : P s) : P (recordWrite ctx s) := by
  unfold recordWrite
  repeat' (first
      | with_reducible assumption
      | with_reducible apply st_advanceProd hP
      | with_reducible apply st_count hP
      | with_reducible apply st_ctxVector hP
      | with_reducible apply st_ctxWrite hP
      | with_reducible apply st_divert hP
      | with_reducible apply st_popRecord hP
      | with_reducible apply st_runAcc hP
      | with_reducible apply accRes_ok
      | with_reducible apply accRes_wait
      | with_reducible apply accRes_fail
      | with_reducible apply accSt_bind
      | with_reducible apply accSt_pure
      | with_reducible apply accSt_foldlM
      | with_reducible apply accSt_map
      | with_reducible apply accSt_mapM
      | split
      | (with_reducible intro _)
      | with_reducible apply st_foldl
      | with_reducible apply st_foldl_snd
      | dsimp only)

theorem st_patchSlots (hP : Stable P) {c : Cmd} {g : Graph} {count : Nat} {s : State} (h_s : P s) : P (patchSlots c g count s) := by
  unfold patchSlots
  repeat' (first
      | with_reducible assumption
      | with_reducible apply st_badPacket hP
      | with_reducible apply st_completeOk hP
      | with_reducible apply st_putGraph hP
      | split
      | (with_reducible intro _)
      | with_reducible apply st_foldl
      | with_reducible apply st_foldl_snd
      | dsimp only)

theorem st_uclPop (hP : Stable P) {value : Nat} {s : State} (h_s : P s) : P (uclPop value s) := by
  unfold uclPop
  repeat' (first
      | with_reducible assumption
      | with_reducible apply st_regField hP
      | split)

theorem st_holdoffExpire (hP : Stable P) {ctx : Nat} {s : State} (h_s : P s) : P (holdoffExpire ctx s) := by
  unfold holdoffExpire
  repeat' (first
      | with_reducible assumption
      | with_reducible apply st_ctxVector hP
      | with_reducible apply st_updCtx hP
      | split
      | (with_reducible intro _)
      | with_reducible apply st_foldl
      | with_reducible apply st_foldl_snd
      | dsimp only)

theorem st_discardUnits (hP : Stable P) {ctx : Nat} {q : Nat} {seq : Nat} {opcode : Nat} {units : Nat} {r : Ring} {s : State} (h_s : P s) : P (discardUnits ctx q seq opcode units r s) := by
  unfold discardUnits
  repeat' (first
      | with_reducible assumption
      | with_reducible apply st_count hP
      | with_reducible apply st_countN hP
      | with_reducible apply st_pushRecord hP
      | with_reducible apply st_setRing hP)

theorem st_moveHead (hP : Stable P) {ctx : Nat} {q : Nat} {head : Nat} {s : State} (h_s : P s) : P (moveHead ctx q head s) := by
  unfold moveHead
  repeat' (first
      | with_reducible assumption
      | with_reducible apply st_updCtx hP)

theorem st_packetFetch (hP : Stable P) {ctx : Nat} {q : Nat} {s : State} (h_s : P s) : P (packetFetch ctx q s) := by
  unfold packetFetch
  repeat' (first
      | with_reducible assumption
      | with_reducible apply st_badPacket hP
      | with_reducible apply st_discardUnits hP
      | with_reducible apply st_faultCmd hP
      | with_reducible apply st_fetchAcc hP
      | with_reducible apply st_moveHead hP
      | with_reducible apply st_ringFetchFault hP
      | with_reducible apply st_runAcc hP
      | with_reducible apply st_startCmd hP
      | with_reducible apply accRes_ok
      | with_reducible apply accRes_wait
      | with_reducible apply accRes_fail
      | with_reducible apply accSt_bind
      | with_reducible apply accSt_pure
      | with_reducible apply accSt_foldlM
      | with_reducible apply accSt_map
      | with_reducible apply accSt_mapM
      | split
      | (with_reducible intro _))

theorem st_managerPacket (hP : Stable P) {dev : Nat} {l : List Byte} {s : State} (h_s : P s) : P (managerPacket dev l s) := by
  unfold managerPacket
  repeat' (first
      | with_reducible assumption
      | with_reducible apply st_badPacket hP
      | with_reducible apply st_complete hP
      | with_reducible apply st_faultCmd hP
      | with_reducible apply st_readIndirect hP
      | with_reducible apply st_runAcc hP
      | with_reducible apply st_startCmd hP
      | with_reducible apply hP.crn
      | with_reducible apply accRes_ok
      | with_reducible apply accRes_wait
      | with_reducible apply accRes_fail
      | with_reducible apply accSt_bind
      | with_reducible apply accSt_pure
      | with_reducible apply accSt_foldlM
      | with_reducible apply accSt_map
      | with_reducible apply accSt_mapM
      | split
      | (with_reducible intro _)
      | with_reducible apply st_foldl
      | with_reducible apply st_foldl_snd
      | dsimp only)

theorem st_cmdArrive (hP : Stable P) {h : Hdr} {payload : List Byte} {s : State} (h_s : P s) : P (cmdArrive h payload s) := by
  unfold cmdArrive
  repeat' (first
      | with_reducible assumption
      | with_reducible apply st_count hP
      | with_reducible apply st_deliver hP
      | with_reducible apply st_managerPacket hP
      | split
      | (with_reducible intro _))

theorem st_ringFetchEvent (hP : Stable P) {ctx : Nat} {q : Nat} {shadow : Bool} {fault : Nat} {header : Option W64} {s : State} (h_s : P s) : P (ringFetchEvent ctx q shadow fault header s) := by
  unfold ringFetchEvent
  repeat' (first
      | with_reducible assumption
      | with_reducible apply st_ringFetchFault hP
      | split)

theorem st_fence (hP : Stable P) {c : Cmd} {s : State} (h_s : P s) : P (fence c s) := by
  unfold fence
  repeat' (first
      | with_reducible assumption
      | with_reducible apply st_badPacket hP
      | with_reducible apply st_completeOk hP
      | with_reducible apply st_startCmd hP
      | split
      | (with_reducible intro _)
      | with_reducible apply st_foldl
      | with_reducible apply st_foldl_snd
      | dsimp only)

theorem st_patchGraph (hP : Stable P) {c : Cmd} {s : State} (h_s : P s) : P (patchGraph c s) := by
  unfold patchGraph
  repeat' (first
      | with_reducible assumption
      | with_reducible apply st_badPacket hP
      | with_reducible apply st_patchCopy hP
      | with_reducible apply st_patchSlots hP
      | with_reducible apply st_startCmd hP
      | split
      | (with_reducible intro _)
      | with_reducible apply st_foldl
      | with_reducible apply st_foldl_snd
      | dsimp only)

theorem st_launchGraph (hP : Stable P) {c : Cmd} {s : State} (h_s : P s) : P (launchGraph c s) := by
  unfold launchGraph
  repeat' (first
      | with_reducible assumption
      | with_reducible apply st_badPacket hP
      | with_reducible apply st_count hP
      | with_reducible apply st_startCmd hP
      | with_reducible apply hP.crn
      | split
      | (with_reducible intro _)
      | with_reducible apply st_foldl
      | with_reducible apply st_foldl_snd
      | dsimp only)

theorem st_cmdLost (hP : Stable P) {h : Hdr} {payload : List Byte} {s : State} (h_s : P s) : P (cmdLost h payload s) := by
  unfold cmdLost
  repeat' (first
      | with_reducible assumption
      | with_reducible apply st_completeTop hP
      | with_reducible apply st_inboxTake hP
      | with_reducible apply st_startCmd hP
      | split)

theorem st_retireGraph (hP : Stable P) {c : Cmd} {s : State} (h_s : P s) : P (retireGraph c s) := by
  unfold retireGraph
  repeat' (first
      | with_reducible assumption
      | with_reducible apply st_badPacket hP
      | with_reducible apply st_cancelDeferred hP
      | with_reducible apply st_completeOk hP
      | with_reducible apply st_faultCmd hP
      | with_reducible apply st_freeGens hP
      | with_reducible apply st_putGraph hP
      | with_reducible apply st_startCmd hP
      | split
      | (with_reducible intro _)
      | with_reducible apply st_foldl
      | with_reducible apply st_foldl_snd
      | dsimp only)

theorem st_waitValueTimeout (hP : Stable P) {c : Cmd} {s : State} (h_s : P s) : P (waitValueTimeout c s) := by
  unfold waitValueTimeout
  repeat' (first
      | with_reducible assumption
      | with_reducible apply st_clearWork hP
      | with_reducible apply st_faultCmd hP
      | with_reducible apply st_reachTime hP
      | split)

theorem st_execUclPop (hP : Stable P) {value : Nat} {s : State} {t : State} (h_s : P s) (e : execUclPop value s = .next t) : P t := by
  unfold execUclPop at e
  first
    | refine st_whileOn e ?_ ?_
    | refine st_whileServed e ?_ ?_
  all_goals repeat' (first
      | with_reducible assumption
      | with_reducible apply st_uclPop hP)

theorem st_execIrqHoldoffExpire (hP : Stable P) {ctx : Nat} {s : State} {t : State} (h_s : P s) (e : execIrqHoldoffExpire ctx s = .next t) : P t := by
  unfold execIrqHoldoffExpire at e
  first
    | refine st_whileOn e ?_ ?_
  all_goals repeat' (first
      | with_reducible assumption
      | with_reducible apply st_holdoffExpire hP)

theorem st_execCmdCpl (hP : Stable P) {h : Hdr} {r : Record} {s : State} {t : State} (h_s : P s) (e : execCmdCpl h r s = .next t) : P t := by
  unfold execCmdCpl at e
  first
    | refine st_whileOn e ?_ ?_
  all_goals repeat' (first
      | with_reducible assumption
      | with_reducible apply st_cmdCplArrive hP)

theorem st_execFence (hP : Stable P) {c : Cmd} {s : State} {t : State} (h_s : P s) (e : execFence c s = .next t) : P t := by
  unfold execFence at e
  first
    | refine st_whileOn e ?_ ?_
  all_goals repeat' (first
      | with_reducible assumption
      | with_reducible apply st_fence hP)

theorem st_execLaunchGraph (hP : Stable P) {c : Cmd} {s : State} {t : State} (h_s : P s) (e : execLaunchGraph c s = .next t) : P t := by
  unfold execLaunchGraph at e
  first
    | refine st_whileOn e ?_ ?_
  all_goals repeat' (first
      | with_reducible assumption
      | with_reducible apply st_launchGraph hP)

theorem st_execWaitValueTimeout (hP : Stable P) {c : Cmd} {s : State} {t : State} (h_s : P s) (e : execWaitValueTimeout c s = .next t) : P t := by
  unfold execWaitValueTimeout at e
  first
    | refine st_whileOn e ?_ ?_
  all_goals repeat' (first
      | with_reducible assumption
      | with_reducible apply st_waitValueTimeout hP)

theorem st_execStoreGraph (hP : Stable P) {c : Cmd} {s : State} {t : State} (h_s : P s) (e : execStoreGraph c s = .next t) : P t := by
  unfold execStoreGraph at e
  first
    | refine st_whileOn e ?_ ?_
  all_goals repeat' (first
      | with_reducible assumption
      | with_reducible apply st_storeGraph hP)

theorem st_execNop (hP : Stable P) {c : Cmd} {s : State} {t : State} (h_s : P s) (e : execNop c s = .next t) : P t := by
  unfold execNop at e
  first
    | refine st_whileOn e ?_ ?_
  all_goals repeat' (first
      | with_reducible assumption
      | with_reducible apply st_nop hP)

theorem st_execWaitValuePoll (hP : Stable P) {c : Cmd} {s : State} {t : State} (h_s : P s) (e : execWaitValuePoll c s = .next t) : P t := by
  unfold execWaitValuePoll at e
  first
    | refine st_whileOn e ?_ ?_
  all_goals repeat' (first
      | with_reducible assumption
      | with_reducible apply st_waitValuePoll hP)

theorem st_execLaunch (hP : Stable P) {c : Cmd} {s : State} {t : State} (h_s : P s) (e : execLaunch c s = .next t) : P t := by
  unfold execLaunch at e
  first
    | refine st_whileOn e ?_ ?_
  all_goals repeat' (first
      | with_reducible assumption
      | with_reducible apply st_launch hP)

theorem st_execPacketFetch (hP : Stable P) {ctx : Nat} {q : Nat} {s : State} {t : State} (h_s : P s) (e : execPacketFetch ctx q s = .next t) : P t := by
  unfold execPacketFetch at e
  first
    | refine st_whileOn e ?_ ?_
  all_goals repeat' (first
      | with_reducible assumption
      | with_reducible apply st_packetFetch hP)

theorem st_execPatchGraph (hP : Stable P) {c : Cmd} {s : State} {t : State} (h_s : P s) (e : execPatchGraph c s = .next t) : P t := by
  unfold execPatchGraph at e
  first
    | refine st_whileOn e ?_ ?_
  all_goals repeat' (first
      | with_reducible assumption
      | with_reducible apply st_patchGraph hP)

theorem st_execCompletionRecordWrite (hP : Stable P) {ctx : Nat} {s : State} {t : State} (h_s : P s) (e : execCompletionRecordWrite ctx s = .next t) : P t := by
  unfold execCompletionRecordWrite at e
  first
    | refine st_whileOn e ?_ ?_
  all_goals repeat' (first
      | with_reducible assumption
      | with_reducible apply st_recordWrite hP)

theorem st_execGraphNodeStart (hP : Stable P) {launch : Nat} {n : Nat} {s : State} {t : State} (h_s : P s) (e : execGraphNodeStart launch n s = .next t) : P t := by
  unfold execGraphNodeStart at e
  first
    | refine st_whileOn e ?_ ?_
  all_goals repeat' (first
      | with_reducible assumption
      | with_reducible apply st_graphNodeStart hP)

theorem st_execRingFetchFault (hP : Stable P) {ctx : Nat} {q : Nat} {shadow : Bool} {fault : Nat} {header : Option W64} {s : State} {t : State} (h_s : P s) (e : execRingFetchFault ctx q shadow fault header s = .next t) : P t := by
  unfold execRingFetchFault at e
  first
    | refine st_whileOn e ?_ ?_
  all_goals repeat' (first
      | with_reducible assumption
      | with_reducible apply st_ringFetchEvent hP)

theorem st_execDbTail (hP : Stable P) {ctx : Nat} {q : Nat} {value : Nat} {s : State} {t : State} (h_s : P s) (e : execDbTail ctx q value s = .next t) : P t := by
  unfold execDbTail at e
  first
    | refine st_whileOn e ?_ ?_
    | refine st_whileServed e ?_ ?_
  all_goals repeat' (first
      | with_reducible assumption
      | with_reducible apply st_dbTail hP)

theorem st_execDbCplHead (hP : Stable P) {ctx : Nat} {value : Nat} {s : State} {t : State} (h_s : P s) (e : execDbCplHead ctx value s = .next t) : P t := by
  unfold execDbCplHead at e
  first
    | refine st_whileOn e ?_ ?_
    | refine st_whileServed e ?_ ?_
  all_goals repeat' (first
      | with_reducible assumption
      | with_reducible apply st_dbCplHead hP)

theorem st_execWriteInline (hP : Stable P) {c : Cmd} {s : State} {t : State} (h_s : P s) (e : execWriteInline c s = .next t) : P t := by
  unfold execWriteInline at e
  first
    | refine st_whileOn e ?_ ?_
  all_goals repeat' (first
      | with_reducible assumption
      | with_reducible apply st_writeInline hP)

theorem st_execCmd (hP : Stable P) {h : Hdr} {payload : List Byte} {s : State} {t : State} (h_s : P s) (e : execCmd h payload s = .next t) : P t := by
  unfold execCmd at e
  first
    | refine st_whileOn e ?_ ?_
    | refine st_whileServed e ?_ ?_
    | refine st_whileDoorbell e ?_ ?_
    | (cases e)
    | (split at e <;> first | refine st_whileOn e ?_ ?_ | (cases e))
  all_goals repeat' (first
      | with_reducible assumption
      | with_reducible apply st_cmdArrive hP
      | with_reducible apply st_cmdLost hP)

theorem st_execWaitValue (hP : Stable P) {c : Cmd} {s : State} {t : State} (h_s : P s) (e : execWaitValue c s = .next t) : P t := by
  unfold execWaitValue at e
  first
    | refine st_whileOn e ?_ ?_
  all_goals repeat' (first
      | with_reducible assumption
      | with_reducible apply st_waitValue hP)

theorem st_execRetireGraph (hP : Stable P) {c : Cmd} {s : State} {t : State} (h_s : P s) (e : execRetireGraph c s = .next t) : P t := by
  unfold execRetireGraph at e
  first
    | refine st_whileOn e ?_ ?_
  all_goals repeat' (first
      | with_reducible assumption
      | with_reducible apply st_retireGraph hP)

end Sys2Proof.Machine
end

