-- ==== Sys2Proof/Laws/StableSave.lean ====
section
/-!
SUPPORT. The operations of Machine/Save keep every stable predicate.
-/

set_option linter.unusedVariables false

namespace Sys2Proof.Machine

variable {P : State → Prop}

theorem st_saveWrite (hP : Stable P) {at_ : Nat} {l : List Byte} {s : State} (h_s : P s) : P (saveWrite at_ l s) := by
  unfold saveWrite
  repeat' (first
      | with_reducible assumption
      | with_reducible apply st_countN hP
      | with_reducible apply st_memWrite hP)

end Sys2Proof.Machine
end

