-- ==== Sys2Proof/Laws/StableContexts.lean ====
section
/-!
SUPPORT. The operations of Machine/Contexts keep every stable predicate.
-/

set_option linter.unusedVariables false

namespace Sys2Proof.Machine

variable {P : State → Prop}

theorem st_waitSlot (hP : Stable P) {ctx : Nat} {s : State} (h_s : P s) : P (waitSlot ctx s) := by
  unfold waitSlot
  repeat' (first
      | with_reducible assumption
      | with_reducible apply st_updCtx hP)

theorem st_stopCores (hP : Stable P) {n : Node} {s : State} (h_s : P s) : P (stopCores n s) := by
  unfold stopCores
  repeat' (first
      | with_reducible assumption
      | with_reducible apply st_updGrove hP
      | split
      | (with_reducible intro _)
      | with_reducible apply st_foldl)

theorem st_preempt (hP : Stable P) {ctx : Nat} {hard : Bool} {s : State} (h_s : P s) : P (preempt ctx hard s) := by
  unfold preempt
  repeat' (first
      | with_reducible assumption
      | with_reducible apply st_count hP
      | with_reducible apply st_stopCores hP
      | with_reducible apply st_updNode hP
      | split)

theorem st_preemptFor (hP : Stable P) {n : Node} {gs : List Nat} {s : State} (h_s : P s) : P (preemptFor n gs s) := by
  unfold preemptFor
  repeat' (first
      | with_reducible assumption
      | with_reducible apply st_preempt hP
      | split
      | (with_reducible intro _)
      | with_reducible apply st_foldl)

theorem st_freeCtxMemory (hP : Stable P) {a0 : Ctx} {s : State} (h_s : P s) : P (freeCtxMemory a0 s) := by
  unfold freeCtxMemory
  repeat' (first
      | with_reducible assumption
      | with_reducible apply hP.xlt)

theorem st_pasidRead (hP : Stable P) {w : Work} {pasid : Nat} {va : Nat} {n : Nat}  : AccSt P (pasidRead w pasid va n) := by
  unfold pasidRead
  repeat' (first
      | with_reducible assumption
      | with_reducible apply st_placeRead hP
      | with_reducible apply st_xlateHost hP
      | with_reducible apply accRes_ok
      | with_reducible apply accRes_wait
      | with_reducible apply accRes_fail
      | with_reducible apply accSt_bind
      | with_reducible apply accSt_pure
      | with_reducible apply accSt_foldlM
      | with_reducible apply accSt_map
      | with_reducible apply accSt_mapM
      | split
      | (with_reducible intro _))

theorem st_adminWith (hP : Stable P) {r : Except Flt (List Byte)} {s : State} (h_s : P s) : P (adminWith r s) := by
  unfold adminWith
  repeat' (first
      | with_reducible assumption
      | with_reducible apply st_putCtx hP
      | with_reducible apply st_regField hP
      | split
      | (with_reducible intro _)
      | with_reducible apply st_foldl
      | with_reducible apply st_foldl_snd
      | dsimp only)

theorem st_adminRead (hP : Stable P) {s : State} (h_s : P s) : P (adminRead s) := by
  unfold adminRead
  repeat' (first
      | with_reducible assumption
      | with_reducible apply st_accTry hP
      | with_reducible apply st_adminWith hP
      | with_reducible apply st_pasidRead hP
      | with_reducible apply st_regField hP
      | with_reducible apply st_runAcc hP
      | with_reducible apply accRes_ok
      | with_reducible apply accRes_wait
      | with_reducible apply accRes_fail
      | with_reducible apply accSt_bind
      | with_reducible apply accSt_pure
      | with_reducible apply accSt_foldlM
      | with_reducible apply accSt_map
      | with_reducible apply accSt_mapM
      | split
      | (with_reducible intro _)
      | with_reducible apply st_foldl
      | with_reducible apply st_foldl_snd
      | dsimp only)

theorem st_createWith (hP : Stable P) {c : Cmd} {r : Except Flt (List Byte)} {s : State} (h_s : P s) : P (createWith c r s) := by
  cases r with
  | error f =>
    simp only [createWith, Bool.false_eq_true, if_false]
    repeat' (first | assumption | with_reducible apply st_conclude hP | split)
  | ok l =>
    cases h : queueTable l <;> simp only [createWith, h] <;>
    repeat' (first
      | with_reducible assumption
      | with_reducible apply st_conclude hP
      | with_reducible apply st_putCtx hP
      | with_reducible apply hP.xlt
      | split)


theorem st_createRun (hP : Stable P) {c : Cmd} {s : State} (h_s : P s) : P (createRun c s) := by
  unfold createRun
  repeat' (first
      | with_reducible assumption
      | with_reducible apply st_accTry hP
      | with_reducible apply st_conclude hP
      | with_reducible apply st_createWith hP
      | with_reducible apply st_pasidRead hP
      | with_reducible apply st_runAcc hP
      | with_reducible apply accRes_ok
      | with_reducible apply accRes_wait
      | with_reducible apply accRes_fail
      | with_reducible apply accSt_bind
      | with_reducible apply accSt_pure
      | with_reducible apply accSt_foldlM
      | with_reducible apply accSt_map
      | with_reducible apply accSt_mapM
      | split
      | (with_reducible intro _)
      | with_reducible apply st_foldl
      | with_reducible apply st_foldl_snd
      | dsimp only)

theorem st_contextTeardownEnd (hP : Stable P) {ctx : Nat} {s : State} (h_s : P s) : P (contextTeardownEnd ctx s) := by
  unfold contextTeardownEnd
  repeat' (first
      | with_reducible assumption
      | with_reducible apply st_adminRead hP
      | with_reducible apply st_beginFresh hP
      | with_reducible apply st_clearWork hP
      | with_reducible apply st_concludeDisables hP
      | with_reducible apply st_createRun hP
      | with_reducible apply st_divert hP
      | with_reducible apply st_freeCtxMemory hP
      | with_reducible apply st_regField hP
      | with_reducible apply hP.sched
      | split
      | (with_reducible intro _)
      | with_reducible apply st_foldl
      | with_reducible apply st_foldl_snd
      | dsimp only
      | (refine st_pair (by assumption) ?_))

theorem st_pinSettle (hP : Stable P) {ctx : Nat} {s : State} (h_s : P s) : P (pinSettle ctx s) := by
  unfold pinSettle
  repeat' (first
      | with_reducible assumption
      | with_reducible apply st_completeOk hP
      | with_reducible apply st_updCtx hP
      | split
      | (with_reducible intro _)
      | with_reducible apply st_foldl
      | with_reducible apply st_foldl_snd
      | dsimp only)

theorem st_destroyRun (hP : Stable P) {id : Nat} {c : Option Cmd} {s : State} (h_s : P s) : P (destroyRun id c s) := by
  unfold destroyRun
  repeat' (first
      | with_reducible assumption
      | with_reducible apply st_cancelDeferred hP
      | with_reducible apply st_completeOk hP
      | with_reducible apply st_tear hP
      | with_reducible apply st_updCtx hP
      | split)

theorem st_ctxDestroyRun (hP : Stable P) {c : Cmd} {s : State} (h_s : P s) : P (ctxDestroyRun c s) := by
  unfold ctxDestroyRun
  repeat' (first
      | with_reducible assumption
      | with_reducible apply st_badPacket hP
      | with_reducible apply st_destroyRun hP
      | split
      | (with_reducible intro _)
      | with_reducible apply st_foldl
      | with_reducible apply st_foldl_snd
      | dsimp only)

theorem st_ctxDestroy (hP : Stable P) {c : Cmd} {rivals : List Order} {s : State} (h_s : P s) : P (ctxDestroy c rivals s) := by
  unfold ctxDestroy
  repeat' (first
      | with_reducible assumption
      | with_reducible apply st_ctxDestroyRun hP
      | with_reducible apply st_ordered hP
      | with_reducible apply st_startCmd hP
      | split
      | (with_reducible intro _))

theorem st_groveSaveDone (hP : Stable P) {k : Nat} {s : State} (h_s : P s) : P (groveSaveDone k s) := by
  unfold groveSaveDone
  repeat' (first
      | with_reducible assumption
      | with_reducible apply st_saveWrite hP
      | with_reducible apply hP.sched
      | split
      | (with_reducible intro _)
      | with_reducible apply st_foldl)

theorem st_swapInDone (hP : Stable P) {ctx : Nat} {s : State} (h_s : P s) : P (swapInDone ctx s) := by
  unfold swapInDone
  repeat' (first
      | with_reducible assumption
      | with_reducible apply st_count hP
      | with_reducible apply st_emit hP
      | with_reducible apply st_faultNode hP
      | with_reducible apply st_memWrite hP
      | with_reducible apply st_pinSettle hP
      | with_reducible apply st_updCtx hP
      | split
      | (with_reducible intro _)
      | with_reducible apply st_foldl
      | with_reducible apply st_foldl_snd
      | dsimp only)

theorem st_saveContext (hP : Stable P) {a0 : Ctx} {s : State} (h_s : P s) : P (saveContext a0 s) := by
  unfold saveContext
  repeat' (first
      | with_reducible assumption
      | with_reducible apply st_saveWrite hP)

theorem st_clearWays (hP : Stable P) {mask : Nat} {s : State} (h_s : P s) : P (clearWays mask s) := by
  unfold clearWays
  repeat' (first
      | with_reducible assumption
      | with_reducible apply st_canDrop hP
      | with_reducible apply st_memZero hP
      | split
      | (with_reducible intro _)
      | with_reducible apply st_foldl)

theorem st_evictBy (hP : Stable P) {x : Ctx} {rules : List Nat} {s t : State} (e : evictBy x rules s = some t) (h : P s) : P t := by
  unfold evictBy at e
  obtain ⟨p, -, rfl⟩ := Option.map_eq_some_iff.mp e
  exact st_emit hP (st_preempt hP (st_updCtx hP (st_count hP h)))


theorem st_beginSwapIn (hP : Stable P) {ctx : Nat} {reserve : Bool} {s : State} (h_s : P s) : P (beginSwapIn ctx reserve s) := by
  unfold beginSwapIn
  repeat' (first
      | with_reducible assumption
      | with_reducible apply st_updCtx hP)

theorem st_swapInBy (hP : Stable P) {rules : List Nat} {ctx : Nat} {s : State} (h_s : P s) : P (swapInBy rules ctx s) := by
  unfold swapInBy
  repeat' (first
      | with_reducible assumption
      | with_reducible apply st_beginSwapIn hP
      | with_reducible apply st_count hP
      | (refine st_evictBy hP (by assumption) ?_)
      | with_reducible apply st_waitSlot hP
      | split
      | (with_reducible intro _)
      | with_reducible apply st_foldl
      | with_reducible apply st_foldl_snd
      | dsimp only)

theorem st_swapIn (hP : Stable P) {ctx : Nat} {s : State} (h_s : P s) : P (swapIn ctx s) := by
  unfold swapIn
  repeat' (first
      | with_reducible assumption
      | with_reducible apply st_swapInBy hP
      | split)

theorem st_ctxPinRun (hP : Stable P) {c : Cmd} {s : State} (h_s : P s) : P (ctxPinRun c s) := by
  unfold ctxPinRun
  repeat' (first
      | with_reducible assumption
      | with_reducible apply st_badPacket hP
      | with_reducible apply st_complete hP
      | with_reducible apply st_completeOk hP
      | with_reducible apply st_pinSettle hP
      | with_reducible apply st_preempt hP
      | with_reducible apply st_updCtx hP
      | split
      | (with_reducible intro _)
      | with_reducible apply st_foldl
      | with_reducible apply st_foldl_snd
      | dsimp only)

theorem st_ctxPin (hP : Stable P) {c : Cmd} {rivals : List Order} {s : State} (h_s : P s) : P (ctxPin c rivals s) := by
  unfold ctxPin
  repeat' (first
      | with_reducible assumption
      | with_reducible apply st_ctxPinRun hP
      | with_reducible apply st_ordered hP
      | with_reducible apply st_startCmd hP
      | split
      | (with_reducible intro _))

theorem st_endTraceIn (hP : Stable P) {mask : Nat} {s : State} (h_s : P s) : P (endTraceIn mask s) := by
  unfold endTraceIn
  repeat' (first
      | with_reducible assumption
      | with_reducible apply st_traceClose hP
      | split
      | (with_reducible intro _)
      | with_reducible apply st_foldl
      | with_reducible apply st_foldl_snd
      | dsimp only)

theorem st_partApply (hP : Stable P) {op : PartOp} {s : State} (h_s : P s) : P (partApply op s) := by
  unfold partApply
  repeat' (first
      | with_reducible assumption
      | with_reducible apply st_clearWays hP
      | with_reducible apply st_completeOk hP
      | with_reducible apply st_setPart hP)

theorem st_ctxPartitionRun (hP : Stable P) {c : Cmd} {s : State} (h_s : P s) : P (ctxPartitionRun c s) := by
  unfold ctxPartitionRun
  repeat' (first
      | with_reducible assumption
      | with_reducible apply st_badPacket hP
      | with_reducible apply st_complete hP
      | with_reducible apply st_completeOk hP
      | with_reducible apply st_endTraceIn hP
      | with_reducible apply st_partApply hP
      | with_reducible apply hP.sched
      | split
      | (with_reducible intro _)
      | with_reducible apply st_foldl
      | with_reducible apply st_foldl_snd
      | dsimp only)

theorem st_loadNode (hP : Stable P) {n : Node} {gs : List Nat} {code : List Nat} {s : State} (h_s : P s) : P (loadNode n gs code s) := by
  unfold loadNode
  repeat' (first
      | with_reducible assumption
      | with_reducible apply st_emit hP
      | with_reducible apply st_memZero hP
      | with_reducible apply st_progress hP
      | with_reducible apply st_setGdma hP
      | with_reducible apply st_setGrove hP
      | with_reducible apply st_updNode hP
      | with_reducible apply hP.gro
      | split
      | (with_reducible intro _)
      | with_reducible apply st_foldl
      | with_reducible apply st_foldl_snd
      | dsimp only)

theorem st_nodeStart (hP : Stable P) {ctx : Nat} {s : State} (h_s : P s) : P (nodeStart ctx s) := by
  unfold nodeStart
  repeat' (first
      | with_reducible assumption
      | with_reducible apply st_ctxRead hP
      | with_reducible apply st_faultCmd hP
      | with_reducible apply st_loadNode hP
      | with_reducible apply st_preemptFor hP
      | with_reducible apply st_runAcc hP
      | with_reducible apply accRes_ok
      | with_reducible apply accRes_wait
      | with_reducible apply accRes_fail
      | with_reducible apply accSt_bind
      | with_reducible apply accSt_pure
      | with_reducible apply accSt_foldlM
      | with_reducible apply accSt_map
      | with_reducible apply accSt_mapM
      | split
      | (with_reducible intro _)
      | with_reducible apply st_foldl
      | with_reducible apply st_foldl_snd
      | dsimp only)

theorem st_restoreMem (hP : Stable P) {s : State} {l : List (Nat × Byte)} {b : Nat} (h : P s) :
    P (s.setMem { s.mem with bytes := l.foldl (fun m c => mset 0 m (b + c.1) c.2) s.mem.bytes }) := by
  have key : ∀ (l : List (Nat × Byte)) (m : Sparse Byte), mwf 0 m = true → mwf 0 (l.foldl (fun m c => mset 0 m (b + c.1) c.2) m) = true := by
    intro l
    induction l with
    | nil => exact fun _ h => h
    | cons c l ih => exact fun m h => ih _ (mwf_mset _ _ h)
  exact hP.mem _ _ (memWf_mk (key l _) id id) h

theorem st_restoreGrove (hP : Stable P) {k : Nat} {g : SavedGrove} {s : State} (h_s : P s) : P (restoreGrove k g s) := by
  unfold restoreGrove
  exact hP.gro _ _ (st_restoreMem hP (st_setGdma hP (st_setGrove hP (st_memZero hP h_s))))


theorem st_ctxCreateRun (hP : Stable P) {c : Cmd} {s : State} (h_s : P s) : P (ctxCreateRun c s) := by
  unfold ctxCreateRun
  repeat' (first
      | with_reducible assumption
      | with_reducible apply st_badPacket hP
      | with_reducible apply st_complete hP
      | with_reducible apply st_completeOk hP
      | with_reducible apply st_createRun hP
      | with_reducible apply st_updCtx hP
      | split
      | (with_reducible intro _)
      | with_reducible apply st_foldl
      | with_reducible apply st_foldl_snd
      | dsimp only)

theorem st_ctxCreate (hP : Stable P) {c : Cmd} {rivals : List Order} {s : State} (h_s : P s) : P (ctxCreate c rivals s) := by
  unfold ctxCreate
  repeat' (first
      | with_reducible assumption
      | with_reducible apply st_ctxCreateRun hP
      | with_reducible apply st_ordered hP
      | with_reducible apply st_startCmd hP
      | split
      | (with_reducible intro _))

theorem st_adminDestroy (hP : Stable P) {pasid : Nat} {s : State} (h_s : P s) : P (adminDestroy pasid s) := by
  unfold adminDestroy
  repeat' (first
      | with_reducible assumption
      | with_reducible apply st_destroyRun hP
      | with_reducible apply st_regField hP
      | split
      | (with_reducible intro _)
      | with_reducible apply st_foldl
      | with_reducible apply st_foldl_snd
      | dsimp only)

theorem st_softEscalate (hP : Stable P) {ctx : Nat} {grove : Nat} {s : State} (h_s : P s) : P (softEscalate ctx grove s) := by
  unfold softEscalate
  repeat' (first
      | with_reducible assumption
      | with_reducible apply st_count hP
      | with_reducible apply st_reachTime hP
      | with_reducible apply st_updNode hP
      | split)

theorem st_nodeRestore (hP : Stable P) {ctx : Nat} {s : State} (h_s : P s) : P (nodeRestore ctx s) := by
  unfold nodeRestore
  repeat' (first
      | with_reducible assumption
      | with_reducible apply st_faultNode hP
      | with_reducible apply st_preemptFor hP
      | with_reducible apply st_progress hP
      | with_reducible apply st_restoreGrove hP
      | with_reducible apply st_updNode hP
      | split
      | (with_reducible intro _)
      | with_reducible apply st_foldl
      | with_reducible apply st_foldl_snd
      | dsimp only)

theorem st_pinSettleAll (hP : Stable P) {s : State} (h_s : P s) : P (pinSettleAll s) := by
  unfold pinSettleAll
  repeat' (first
      | with_reducible assumption
      | with_reducible apply st_pinSettle hP
      | split
      | (with_reducible intro _)
      | with_reducible apply st_foldl)

theorem st_sliceExpire (hP : Stable P) {waiter : Nat} {runner : Nat} {s : State} (h_s : P s) : P (sliceExpire waiter runner s) := by
  unfold sliceExpire
  repeat' (first
      | with_reducible assumption
      | with_reducible apply st_preempt hP
      | with_reducible apply st_reachTime hP
      | split)

theorem st_saveGrove (hP : Stable P) {a0 : Ctx} {n : Node} {k : Nat} {s : State} (h_s : P s) : P (saveGrove a0 n k s) := by
  unfold saveGrove
  repeat' (first
      | with_reducible assumption
      | with_reducible apply st_abandonDump hP
      | with_reducible apply st_groveClearWork hP
      | with_reducible apply st_keepPageWaits hP
      | with_reducible apply st_probeAbandon hP
      | with_reducible apply st_saveWrite hP
      | with_reducible apply st_setGdma hP
      | with_reducible apply st_setGrove hP
      | with_reducible apply st_unbindGrove hP
      | with_reducible apply hP.sched
      | with_reducible apply hP.gro
      | split
      | (with_reducible intro _)
      | with_reducible apply st_foldl)

theorem st_preemptStopped (hP : Stable P) {ctx : Nat} {s : State} (h_s : P s) : P (preemptStopped ctx s) := by
  unfold preemptStopped
  repeat' (first
      | with_reducible assumption
      | with_reducible apply st_emit hP
      | with_reducible apply st_pinSettleAll hP
      | with_reducible apply st_saveContext hP
      | with_reducible apply st_saveGrove hP
      | with_reducible apply st_updNode hP
      | split
      | (with_reducible intro _)
      | with_reducible apply st_foldl
      | with_reducible apply st_foldl_snd
      | dsimp only)

theorem st_residencySliceExpire (hP : Stable P) {ctx : Nat} {s : State} (h_s : P s) : P (residencySliceExpire ctx s) := by
  unfold residencySliceExpire
  repeat' (first
      | with_reducible assumption
      | with_reducible apply st_reachTime hP
      | with_reducible apply st_swapInBy hP
      | split)

theorem st_groupScrubDone (hP : Stable P) {s : State} (h_s : P s) : P (groupScrubDone s) := by
  unfold groupScrubDone
  repeat' (first
      | with_reducible assumption
      | with_reducible apply st_canDrop hP
      | with_reducible apply st_memZero hP
      | with_reducible apply st_partApply hP
      | with_reducible apply hP.sched
      | split)

theorem st_adminCreate (hP : Stable P) {pasid : Nat} {s : State} (h_s : P s) : P (adminCreate pasid s) := by
  unfold adminCreate
  repeat' (first
      | with_reducible assumption
      | with_reducible apply st_adminRead hP
      | with_reducible apply st_regPut hP
      | with_reducible apply st_updCtx hP
      | split)

theorem st_ctxPartition (hP : Stable P) {c : Cmd} {rivals : List Order} {s : State} (h_s : P s) : P (ctxPartition c rivals s) := by
  unfold ctxPartition
  repeat' (first
      | with_reducible assumption
      | with_reducible apply st_ctxPartitionRun hP
      | with_reducible apply st_ordered hP
      | with_reducible apply st_startCmd hP
      | split
      | (with_reducible intro _)
      | with_reducible apply st_foldl
      | with_reducible apply st_foldl_snd
      | dsimp only)

theorem st_evictionDone (hP : Stable P) {ctx : Nat} {s : State} (h_s : P s) : P (evictionDone ctx s) := by
  unfold evictionDone
  repeat' (first
      | with_reducible assumption
      | with_reducible apply st_saveContext hP
      | with_reducible apply st_saveWrite hP
      | with_reducible apply st_updCtx hP
      | split
      | (with_reducible intro _)
      | with_reducible apply st_foldl
      | with_reducible apply st_foldl_snd
      | dsimp only)

theorem st_execSwapIn (hP : Stable P) {ctx : Nat} {s : State} {t : State} (h_s : P s) (e : execSwapIn ctx s = .next t) : P t := by
  unfold execSwapIn at e
  first
    | refine st_whileOn e ?_ ?_
  all_goals repeat' (first
      | with_reducible assumption
      | with_reducible apply st_swapIn hP)

theorem st_execContextTeardownEnd (hP : Stable P) {ctx : Nat} {s : State} {t : State} (h_s : P s) (e : execContextTeardownEnd ctx s = .next t) : P t := by
  unfold execContextTeardownEnd at e
  first
    | refine st_whileOn e ?_ ?_
  all_goals repeat' (first
      | with_reducible assumption
      | with_reducible apply st_contextTeardownEnd hP)

theorem st_execNodeStart (hP : Stable P) {ctx : Nat} {s : State} {t : State} (h_s : P s) (e : execNodeStart ctx s = .next t) : P t := by
  unfold execNodeStart at e
  first
    | refine st_whileOn e ?_ ?_
  all_goals repeat' (first
      | with_reducible assumption
      | with_reducible apply st_nodeStart hP)

theorem st_execCtxPin (hP : Stable P) {c : Cmd} {rivals : List Order} {s : State} {t : State} (h_s : P s) (e : execCtxPin c rivals s = .next t) : P t := by
  unfold execCtxPin at e
  first
    | refine st_whileOn e ?_ ?_
  all_goals repeat' (first
      | with_reducible assumption
      | with_reducible apply st_ctxPin hP)

theorem st_execAdminDestroy (hP : Stable P) {pasid : Nat} {s : State} {t : State} (h_s : P s) (e : execAdminDestroy pasid s = .next t) : P t := by
  unfold execAdminDestroy at e
  first
    | refine st_whileOn e ?_ ?_
    | refine st_whileServed e ?_ ?_
  all_goals repeat' (first
      | with_reducible assumption
      | with_reducible apply st_adminDestroy hP)

theorem st_execNodeRestore (hP : Stable P) {ctx : Nat} {s : State} {t : State} (h_s : P s) (e : execNodeRestore ctx s = .next t) : P t := by
  unfold execNodeRestore at e
  first
    | refine st_whileOn e ?_ ?_
  all_goals repeat' (first
      | with_reducible assumption
      | with_reducible apply st_nodeRestore hP)

theorem st_execResidencySliceExpire (hP : Stable P) {ctx : Nat} {s : State} {t : State} (h_s : P s) (e : execResidencySliceExpire ctx s = .next t) : P t := by
  unfold execResidencySliceExpire at e
  first
    | refine st_whileOn e ?_ ?_
  all_goals repeat' (first
      | with_reducible assumption
      | with_reducible apply st_residencySliceExpire hP)

theorem st_execGroupScrubDone (hP : Stable P) {s : State} {t : State} (h_s : P s) (e : execGroupScrubDone s = .next t) : P t := by
  unfold execGroupScrubDone at e
  first
    | refine st_whileOn e ?_ ?_
  all_goals repeat' (first
      | with_reducible assumption
      | with_reducible apply st_groupScrubDone hP)

theorem st_execSoftEscalate (hP : Stable P) {ctx : Nat} {grove : Nat} {s : State} {t : State} (h_s : P s) (e : execSoftEscalate ctx grove s = .next t) : P t := by
  unfold execSoftEscalate at e
  first
    | refine st_whileOn e ?_ ?_
  all_goals repeat' (first
      | with_reducible assumption
      | with_reducible apply st_softEscalate hP)

theorem st_execAdminCreate (hP : Stable P) {pasid : Nat} {s : State} {t : State} (h_s : P s) (e : execAdminCreate pasid s = .next t) : P t := by
  unfold execAdminCreate at e
  first
    | refine st_whileOn e ?_ ?_
    | refine st_whileServed e ?_ ?_
  all_goals repeat' (first
      | with_reducible assumption
      | with_reducible apply st_adminCreate hP)

theorem st_execGroveSaveDone (hP : Stable P) {grove : Nat} {s : State} {t : State} (h_s : P s) (e : execGroveSaveDone grove s = .next t) : P t := by
  unfold execGroveSaveDone at e
  first
    | refine st_whileOn e ?_ ?_
  all_goals repeat' (first
      | with_reducible assumption
      | with_reducible apply st_groveSaveDone hP)

theorem st_execSwapInDone (hP : Stable P) {ctx : Nat} {s : State} {t : State} (h_s : P s) (e : execSwapInDone ctx s = .next t) : P t := by
  unfold execSwapInDone at e
  first
    | refine st_whileOn e ?_ ?_
  all_goals repeat' (first
      | with_reducible assumption
      | with_reducible apply st_swapInDone hP)

theorem st_execPreemptStopped (hP : Stable P) {ctx : Nat} {s : State} {t : State} (h_s : P s) (e : execPreemptStopped ctx s = .next t) : P t := by
  unfold execPreemptStopped at e
  first
    | refine st_whileOn e ?_ ?_
  all_goals repeat' (first
      | with_reducible assumption
      | with_reducible apply st_preemptStopped hP)

theorem st_execCtxDestroy (hP : Stable P) {c : Cmd} {rivals : List Order} {s : State} {t : State} (h_s : P s) (e : execCtxDestroy c rivals s = .next t) : P t := by
  unfold execCtxDestroy at e
  first
    | refine st_whileOn e ?_ ?_
  all_goals repeat' (first
      | with_reducible assumption
      | with_reducible apply st_ctxDestroy hP)

theorem st_execSliceExpire (hP : Stable P) {waiter : Nat} {runner : Nat} {s : State} {t : State} (h_s : P s) (e : execSliceExpire waiter runner s = .next t) : P t := by
  unfold execSliceExpire at e
  first
    | refine st_whileOn e ?_ ?_
  all_goals repeat' (first
      | with_reducible assumption
      | with_reducible apply st_sliceExpire hP)

theorem st_execEvictionDone (hP : Stable P) {ctx : Nat} {s : State} {t : State} (h_s : P s) (e : execEvictionDone ctx s = .next t) : P t := by
  unfold execEvictionDone at e
  first
    | refine st_whileOn e ?_ ?_
  all_goals repeat' (first
      | with_reducible assumption
      | with_reducible apply st_evictionDone hP)

theorem st_execCtxPartition (hP : Stable P) {c : Cmd} {rivals : List Order} {s : State} {t : State} (h_s : P s) (e : execCtxPartition c rivals s = .next t) : P t := by
  unfold execCtxPartition at e
  first
    | refine st_whileOn e ?_ ?_
  all_goals repeat' (first
      | with_reducible assumption
      | with_reducible apply st_ctxPartition hP)

theorem st_execCtxCreate (hP : Stable P) {c : Cmd} {rivals : List Order} {s : State} {t : State} (h_s : P s) (e : execCtxCreate c rivals s = .next t) : P t := by
  unfold execCtxCreate at e
  first
    | refine st_whileOn e ?_ ?_
  all_goals repeat' (first
      | with_reducible assumption
      | with_reducible apply st_ctxCreate hP)

end Sys2Proof.Machine
end

