-- ==== Sys2Proof/Laws/StableIntegrity.lean ====
section
/-!
SUPPORT. The operations of Machine/Integrity keep every stable predicate.
-/

set_option linter.unusedVariables false

namespace Sys2Proof.Machine

variable {P : State → Prop}

theorem st_intLog (hP : Stable P) {kind : Nat} {grove : Nat} {lattice : Nat} {fault : Nat} {block : Nat} {detail : Nat} {s : State} (h_s : P s) : P (intLog kind grove lattice fault block detail s) := by
  unfold intLog
  repeat' (first
      | with_reducible assumption
      | with_reducible apply st_regPut hP)

theorem st_groveQuarantine (hP : Stable P) {k : Nat} {block : Nat} {s : State} (h_s : P s) : P (groveQuarantine k block s) := by
  unfold groveQuarantine
  repeat' (first
      | with_reducible assumption
      | with_reducible apply st_count hP
      | with_reducible apply st_intLog hP
      | with_reducible apply st_raiseVector hP
      | with_reducible apply st_regOr hP
      | split)

theorem st_groveEcc (hP : Stable P) {k : Nat} {block : Nat} {s : State} (h_s : P s) : P (groveEcc k block s) := by
  unfold groveEcc
  repeat' (first
      | with_reducible assumption
      | with_reducible apply st_count hP
      | with_reducible apply st_groveQuarantine hP
      | with_reducible apply st_intLog hP
      | with_reducible apply hP.gro
      | split
      | (with_reducible intro _)
      | with_reducible apply st_foldl
      | with_reducible apply st_foldl_snd
      | dsimp only)

theorem st_latQuarantine (hP : Stable P) {k : Nat} {L : Nat} {s : State} (h_s : P s) : P (latQuarantine k L s) := by
  unfold latQuarantine
  repeat' (first
      | with_reducible assumption
      | with_reducible apply st_count hP
      | with_reducible apply st_groveQuarantine hP
      | with_reducible apply st_intLog hP
      | with_reducible apply st_raiseVector hP
      | with_reducible apply st_regField hP
      | with_reducible apply st_regOr hP
      | split
      | (with_reducible intro _)
      | with_reducible apply st_foldl
      | with_reducible apply st_foldl_snd
      | dsimp only)

theorem st_setDrained (hP : Stable P) {k : Nat} {L : Nat} {n : Nat} {s : State} (h_s : P s) : P (setDrained k L n s) := by
  unfold setDrained
  repeat' (first
      | with_reducible assumption
      | with_reducible apply hP.gro)

theorem st_injectArm (hP : Stable P) {k : Nat} {value : Nat} {s : State} (h_s : P s) : P (injectArm k value s) := by
  unfold injectArm
  repeat' (first
      | with_reducible assumption
      | with_reducible apply st_regPut hP
      | split)

theorem st_latDrained (hP : Stable P) {k : Nat} {L : Nat} {s : State} (h_s : P s) : P (latDrained k L s) := by
  unfold latDrained
  repeat' (first
      | with_reducible assumption
      | with_reducible apply st_setDrained hP)

theorem st_strikeClear (hP : Stable P) {k : Nat} {lattice : Nat} {s : State} (h_s : P s) : P (strikeClear k lattice s) := by
  unfold strikeClear
  repeat' (first
      | with_reducible assumption
      | with_reducible apply st_regField hP
      | with_reducible apply st_setDrained hP
      | split
      | (with_reducible intro _)
      | with_reducible apply st_foldl
      | with_reducible apply st_foldl_snd
      | dsimp only)

theorem st_latStrike (hP : Stable P) {k : Nat} {L : Nat} {s : State} (h_s : P s) : P (latStrike k L s) := by
  unfold latStrike
  repeat' (first
      | with_reducible assumption
      | with_reducible apply st_latQuarantine hP
      | with_reducible apply st_regField hP
      | with_reducible apply st_setDrained hP
      | split
      | (with_reducible intro _)
      | with_reducible apply st_foldl
      | with_reducible apply st_foldl_snd
      | dsimp only)

theorem st_execLatInjectArm (hP : Stable P) {k : Nat} {value : Nat} {s : State} {t : State} (h_s : P s) (e : execLatInjectArm k value s = .next t) : P t := by
  unfold execLatInjectArm at e
  first
    | refine st_whileOn e ?_ ?_
    | refine st_whileServed e ?_ ?_
  all_goals repeat' (first
      | with_reducible assumption
      | with_reducible apply st_injectArm hP)

theorem st_execStrikeClear (hP : Stable P) {k : Nat} {lattice : Nat} {s : State} {t : State} (h_s : P s) (e : execStrikeClear k lattice s = .next t) : P t := by
  unfold execStrikeClear at e
  first
    | refine st_whileOn e ?_ ?_
  all_goals repeat' (first
      | with_reducible assumption
      | with_reducible apply st_strikeClear hP)

end Sys2Proof.Machine
end

