-- ==== Sys2Proof/Laws/StableTranslation.lean ====
section
/-!
SUPPORT. The operations of Machine/Translation keep every stable predicate.
-/

set_option linter.unusedVariables false

namespace Sys2Proof.Machine

variable {P : State → Prop}

theorem st_closeGroup (hP : Stable P) {id : Nat} {full : Bool} {s : State} (h_s : P s) : P (closeGroup id full s) := by
  unfold closeGroup
  repeat' (first
      | with_reducible assumption
      | with_reducible apply st_count hP
      | with_reducible apply st_countN hP
      | with_reducible apply st_drawFree hP
      | with_reducible apply st_evt hP
      | with_reducible apply hP.xlt
      | split
      | (with_reducible intro _)
      | with_reducible apply st_foldl
      | with_reducible apply st_foldl_snd
      | dsimp only
      | (refine st_pair (by assumption) ?_))

theorem mwfFrom_append {α : Type} [DecidableEq α] {d : α} (b : Nat) : ∀ {m m' : Sparse α} {lo : Nat}, mwfFrom d lo m = true →
    (∀ c ∈ m, c.1 < b) → lo ≤ b → mwfFrom d b m' = true → mwfFrom d lo (m ++ m') = true
  | [], m', lo, _, _, hl, h' => mwfFrom_le hl h'
  | (k, v) :: m, m', lo, h, hb, hl, h' => by
    simp only [mwfFrom, Bool.and_eq_true, decide_eq_true_eq, List.cons_append] at h ⊢
    have hk : k < b := hb (k, v) (by simp)
    exact ⟨h.1, mwfFrom_append b h.2 (fun c hc => hb c (by simp [hc])) (by omega) h'⟩

theorem mwfFrom_raise {α : Type} [DecidableEq α] {d : α} {b : Nat} : ∀ {m : Sparse α} {lo : Nat}, mwfFrom d lo m = true →
    (∀ c ∈ m, b ≤ c.1) → mwfFrom d b m = true
  | [], _, _, _ => rfl
  | (k, v) :: m, lo, h, hb => by
    simp only [mwfFrom, Bool.and_eq_true, decide_eq_true_eq] at h ⊢
    exact ⟨⟨hb (k, v) (by simp), h.1.2⟩, h.2⟩

theorem mwfFrom_shift {α : Type} [DecidableEq α] {d : α} {src dst : Nat} : ∀ {m : Sparse α} {lo : Nat}, mwfFrom d lo m = true → src ≤ lo →
    mwfFrom d (lo - src + dst) (m.map fun c => (c.1 - src + dst, c.2)) = true
  | [], _, _, _ => rfl
  | (k, v) :: m, lo, h, hs => by
    simp only [mwfFrom, Bool.and_eq_true, decide_eq_true_eq, List.map_cons] at h ⊢
    refine ⟨⟨by omega, h.1.2⟩, ?_⟩
    have := mwfFrom_shift (dst := dst) h.2 (by omega : src ≤ k + 1)
    rwa [show k + 1 - src + dst = k - src + dst + 1 by omega] at this

theorem st_memCopy (hP : Stable P) {src dst n : Nat} {s : State} (h_s : P s) : P (memCopy src dst n s) := by
  unfold memCopy
  have key : ∀ m : Sparse Byte, mwf 0 m = true → mwf 0 s.mem.bytes = true →
      mwf 0 ((m.filter fun c => decide (c.1 < dst)) ++ ((s.mem.bytes.filter fun c => decide (src ≤ c.1) && decide (c.1 < src + n)).map
        fun c => (c.1 - src + dst, c.2)) ++ m.filter fun c => decide (dst + n ≤ c.1)) = true := by
    intro m hm hs
    have h1 : mwfFrom 0 dst ((s.mem.bytes.filter fun c => decide (src ≤ c.1) && decide (c.1 < src + n)).map fun c => (c.1 - src + dst, c.2)) = true := by
      have h := mwfFrom_shift (src := src) (dst := dst) (mwfFrom_raise (b := src) (mwfFrom_filter (fun c => decide (src ≤ c.1) && decide (c.1 < src + n)) hs)
        (fun c hc => by simp at hc; omega)) (Nat.le_refl _)
      simpa using h
    have h2 : mwfFrom 0 (dst + n) (m.filter fun c => decide (dst + n ≤ c.1)) = true :=
      mwfFrom_raise (mwfFrom_filter _ hm) (fun c hc => by simp at hc; exact hc.2)
    rw [List.append_assoc]
    refine mwfFrom_append dst (mwfFrom_filter _ hm) (fun c hc => by simp at hc; exact hc.2) (Nat.zero_le _) ?_
    refine mwfFrom_append (dst + n) h1 (fun c hc => ?_) (by omega) h2
    simp only [List.mem_map, List.mem_filter, Bool.and_eq_true, decide_eq_true_eq] at hc
    obtain ⟨x, hx, rfl⟩ := hc
    show x.1 - src + dst < dst + n
    omega
  refine st_canDrop hP (hP.mem s _ (fun w => ?_) h_s)
  have w' := w
  simp only [Memory.wf, Bool.and_eq_true] at w' ⊢
  exact ⟨⟨key _ (mwf_filter _ w'.1.1) w'.1.1, risingFrom_filter _ w'.1.2⟩, mwf_filter _ w'.2⟩


theorem st_loadSpan (hP : Stable P) {p : Span} {data : List Byte} {s : State} (h_s : P s) : P (loadSpan p data s) := by
  unfold loadSpan
  repeat' (first
      | with_reducible assumption
      | with_reducible apply st_canDrop hP
      | with_reducible apply st_memCopy hP
      | with_reducible apply st_memWrite hP
      | with_reducible apply st_memZero hP
      | split)

theorem st_spanFetch (hP : Stable P) {s : State} (h_s : P s) : P (spanFetch s) := by
  unfold spanFetch
  repeat' (first
      | with_reducible assumption
      | with_reducible apply st_regField hP
      | with_reducible apply st_regPut hP
      | split
      | (with_reducible intro _)
      | with_reducible apply st_foldl
      | with_reducible apply st_foldl_snd
      | dsimp only)

theorem st_addRound (hP : Stable P) {w : Work} {page : Nat} {s : State} (h_s : P s) : P (addRound w page s) := by
  unfold addRound
  repeat' (first
      | with_reducible assumption
      | with_reducible apply hP.io)

theorem st_setBiasDone (hP : Stable P) {c : Cmd} {ok : Bool} {s : State} (h_s : P s) : P (setBiasDone c ok s).2 := by
  unfold setBiasDone
  repeat' (first
      | with_reducible assumption
      | with_reducible apply st_complete hP
      | with_reducible apply st_completeOk hP
      | with_reducible apply st_countN hP
      | with_reducible apply st_faultCmd hP
      | with_reducible apply st_takeWaits hP
      | with_reducible apply hP.xlt
      | split
      | (with_reducible intro _)
      | with_reducible apply st_foldl
      | with_reducible apply st_foldl_snd
      | dsimp only)

theorem st_countFaults (hP : Stable P) {kind : Nat} {l : List Waiting} {s : State} (h_s : P s) : P (countFaults kind l s) := by
  unfold countFaults
  repeat' (first
      | with_reducible assumption
      | with_reducible apply st_evt hP
      | split
      | (with_reducible intro _)
      | with_reducible apply st_foldl)

theorem st_failWaiters (hP : Stable P) {f : Flt} {l : List Waiting} {s : State} (h_s : P s) : P (failWaiters f l s) := by
  unfold failWaiters
  repeat' (first
      | with_reducible assumption
      | with_reducible apply st_recordFail hP
      | with_reducible apply st_updCtx hP
      | split
      | (with_reducible intro _)
      | with_reducible apply st_foldl)

theorem st_changeNeed (hP : Stable P) {a : Need} {b : Need} {s : State} (h_s : P s) : P (changeNeed a b s) := by
  unfold changeNeed
  repeat' (first
      | with_reducible assumption
      | with_reducible apply hP.io)

theorem st_openRequest (hP : Stable P) {pasid : Nat} {page : Nat} {write : Bool} {s : State} (h_s : P s) : P (openRequest pasid page write s) := by
  unfold openRequest
  repeat' (first
      | with_reducible assumption
      | with_reducible apply st_closeGroup hP
      | with_reducible apply hP.xlt
      | split
      | (with_reducible intro _)
      | with_reducible apply st_foldl
      | with_reducible apply st_foldl_snd
      | dsimp only)

theorem st_hostFault (hP : Stable P) {pasid : Nat} {page : Nat} {write : Bool} {s : State} (h_s : P s) : P (hostFault pasid page write s).2 := by
  unfold hostFault
  repeat' (first
      | with_reducible assumption
      | with_reducible apply st_changeNeed hP
      | with_reducible apply st_countFaults hP
      | with_reducible apply st_countN hP
      | with_reducible apply st_failWaiters hP
      | with_reducible apply st_openRequest hP
      | with_reducible apply st_takeWaits hP
      | with_reducible apply hP.xlt
      | split
      | (with_reducible intro _)
      | with_reducible apply st_foldl
      | with_reducible apply st_foldl_snd
      | dsimp only)

theorem st_atsInvalidate (hP : Stable P) {tag : Nat} {pasid : Nat} {addr : Nat} {size : Nat} {all : Bool} {s : State} (h_s : P s) : P (atsInvalidate tag pasid addr size all s) := by
  unfold atsInvalidate
  repeat' (first
      | with_reducible assumption
      | with_reducible apply hP.xlt)

theorem st_endGroup (hP : Stable P) {g : PageGroup} {s : State} (h_s : P s) : P (endGroup g s).2 := by
  unfold endGroup
  repeat' (first
      | with_reducible assumption
      | with_reducible apply st_takeWaits hP
      | with_reducible apply hP.xlt)

theorem st_priTimeout (hP : Stable P) {index : Nat} {s : State} (h_s : P s) : P (priTimeout index s).2 := by
  unfold priTimeout
  repeat' (first
      | with_reducible assumption
      | with_reducible apply st_count hP
      | with_reducible apply st_endGroup hP
      | with_reducible apply st_failWaiters hP
      | split)

theorem st_prgResponse (hP : Stable P) {index : Nat} {code : Nat} {s : State} (h_s : P s) : P (prgResponse index code s).2 := by
  unfold prgResponse
  repeat' (first
      | with_reducible assumption
      | with_reducible apply st_addRound hP
      | with_reducible apply st_countN hP
      | with_reducible apply st_emit hP
      | with_reducible apply st_endGroup hP
      | with_reducible apply st_failWaiters hP
      | with_reducible apply st_regOr hP
      | split
      | (with_reducible intro _)
      | with_reducible apply st_foldl)

theorem st_spanInstall (hP : Stable P) {ctx : Nat} {dva : Nat} {entry : Nat} {src : Nat} {giant : Bool} {s : State} (h_s : P s) : P (spanInstall ctx dva entry src giant s) := by
  unfold spanInstall
  repeat' (first
      | with_reducible assumption
      | with_reducible apply hP.xlt)

theorem st_atsInvalidateComplete (hP : Stable P) {tag : Nat} {s : State} (h_s : P s) : P (atsInvalidateComplete tag s) := by
  unfold atsInvalidateComplete
  repeat' (first
      | with_reducible assumption
      | with_reducible apply st_count hP
      | with_reducible apply hP.xlt
      | split)

theorem st_absentSpanFault (hP : Stable P) {ctx : Nat} {va : Nat} {s : State} (h_s : P s) : P (absentSpanFault ctx va s) := by
  unfold absentSpanFault
  repeat' (first
      | with_reducible assumption
      | with_reducible apply st_changeNeed hP
      | with_reducible apply st_count hP
      | with_reducible apply st_countFaults hP
      | with_reducible apply hP.xlt
      | split
      | (with_reducible intro _)
      | with_reducible apply st_foldl
      | with_reducible apply st_foldl_snd
      | dsimp only)

theorem st_dropSpanEntries (hP : Stable P) {ctx : Nat} {dva : Nat} {s : State} (h_s : P s) : P (dropSpanEntries ctx dva s) := by
  unfold dropSpanEntries
  repeat' (first
      | with_reducible assumption
      | with_reducible apply hP.xlt)

theorem st_spanStatus (hP : Stable P) {busy : Bool} {done : Bool} {result : Nat} {s : State} (h_s : P s) : P (spanStatus busy done result s) := by
  unfold spanStatus
  repeat' (first
      | with_reducible assumption
      | with_reducible apply st_regField hP)

theorem st_spanPerform (hP : Stable P) {go : Nat} {s : State} (h_s : P s) : P (spanPerform go s) := by
  unfold spanPerform
  repeat' (first
      | with_reducible assumption
      | with_reducible apply st_dropSpanEntries hP
      | with_reducible apply st_spanFetch hP
      | with_reducible apply st_spanInstall hP
      | with_reducible apply st_spanStatus hP
      | with_reducible apply hP.xlt
      | split
      | (with_reducible intro _)
      | with_reducible apply st_foldl
      | with_reducible apply st_foldl_snd
      | dsimp only)

theorem st_absentLoadDone (hP : Stable P) {ctx : Nat} {va : Nat} {ok : Bool} {data : List Byte} {s : State} (h_s : P s) : P (absentLoadDone ctx va ok data s).2 := by
  unfold absentLoadDone
  repeat' (first
      | with_reducible assumption
      | with_reducible apply st_dropSpanEntries hP
      | with_reducible apply st_failWaiters hP
      | with_reducible apply st_loadSpan hP
      | with_reducible apply st_spanPerform hP
      | with_reducible apply st_takeWaits hP
      | with_reducible apply hP.xlt
      | split
      | (with_reducible intro _)
      | with_reducible apply st_foldl
      | with_reducible apply st_foldl_snd
      | dsimp only)

theorem st_priGroupWindow (hP : Stable P) {pasid : Nat} {s : State} (h_s : P s) : P (priGroupWindow pasid s) := by
  unfold priGroupWindow
  repeat' (first
      | with_reducible assumption
      | with_reducible apply st_closeGroup hP
      | split)

theorem st_spanWrite (hP : Stable P) {value : Nat} {s : State} (h_s : P s) : P (spanWrite value s) := by
  unfold spanWrite
  repeat' (first
      | with_reducible assumption
      | with_reducible apply st_regField hP
      | with_reducible apply st_spanFetch hP
      | with_reducible apply st_spanPerform hP
      | with_reducible apply st_spanStatus hP
      | with_reducible apply hP.xlt
      | split
      | (with_reducible intro _)
      | with_reducible apply st_foldl
      | with_reducible apply st_foldl_snd
      | dsimp only)

theorem st_atsCompletion (hP : Stable P) {pasid : Nat} {page : Nat} {size : Nat} {target : Nat} {read : Bool} {write : Bool} {s : State} (h_s : P s) : P (atsCompletion pasid page size target read write s).2 := by
  unfold atsCompletion
  repeat' (first
      | with_reducible assumption
      | with_reducible apply st_atcFill hP
      | with_reducible apply st_takeWaits hP
      | with_reducible apply hP.io
      | split
      | (with_reducible intro _)
      | with_reducible apply st_foldl
      | with_reducible apply st_foldl_snd
      | dsimp only)

theorem st_spanRead (hP : Stable P) {value : Nat} {s : State} (h_s : P s) : P (spanRead value s) := by
  unfold spanRead
  repeat' (first
      | with_reducible assumption
      | with_reducible apply st_spanFetch hP
      | with_reducible apply st_spanStatus hP
      | split
      | (with_reducible intro _)
      | with_reducible apply st_foldl
      | with_reducible apply st_foldl_snd
      | dsimp only)

theorem st_setBias (hP : Stable P) {c : Cmd} {s : State} (h_s : P s) : P (setBias c s) := by
  unfold setBias
  repeat' (first
      | with_reducible assumption
      | with_reducible apply st_badPacket hP
      | with_reducible apply st_complete hP
      | with_reducible apply st_startCmd hP
      | with_reducible apply hP.xlt
      | split
      | (with_reducible intro _)
      | with_reducible apply st_foldl
      | with_reducible apply st_foldl_snd
      | dsimp only)

theorem st_spanWriteDone (hP : Stable P) {s : State} (h_s : P s) : P (spanWriteDone s) := by
  unfold spanWriteDone
  repeat' (first
      | with_reducible assumption
      | with_reducible apply st_spanStatus hP
      | with_reducible apply hP.xlt
      | split)

theorem st_execSpanRead (hP : Stable P) {value : Nat} {s : State} {t : State} (h_s : P s) (e : execSpanRead value s = .next t) : P t := by
  unfold execSpanRead at e
  first
    | refine st_whileOn e ?_ ?_
    | refine st_whileServed e ?_ ?_
  all_goals repeat' (first
      | with_reducible assumption
      | with_reducible apply st_spanRead hP)

theorem st_execAbsentSpanFault (hP : Stable P) {ctx : Nat} {va : Nat} {s : State} {t : State} (h_s : P s) (e : execAbsentSpanFault ctx va s = .next t) : P t := by
  unfold execAbsentSpanFault at e
  first
    | refine st_whileOn e ?_ ?_
  all_goals repeat' (first
      | with_reducible assumption
      | with_reducible apply st_absentSpanFault hP)

theorem st_execSetBias (hP : Stable P) {c : Cmd} {s : State} {t : State} (h_s : P s) (e : execSetBias c s = .next t) : P t := by
  unfold execSetBias at e
  first
    | refine st_whileOn e ?_ ?_
  all_goals repeat' (first
      | with_reducible assumption
      | with_reducible apply st_setBias hP)

theorem st_execSpanWrite (hP : Stable P) {value : Nat} {s : State} {t : State} (h_s : P s) (e : execSpanWrite value s = .next t) : P t := by
  unfold execSpanWrite at e
  first
    | refine st_whileOn e ?_ ?_
    | refine st_whileServed e ?_ ?_
  all_goals repeat' (first
      | with_reducible assumption
      | with_reducible apply st_spanWrite hP)

theorem st_execAtsInvalidateComplete (hP : Stable P) {tag : Nat} {s : State} {t : State} (h_s : P s) (e : execAtsInvalidateComplete tag s = .next t) : P t := by
  unfold execAtsInvalidateComplete at e
  first
    | refine st_whileOn e ?_ ?_
  all_goals repeat' (first
      | with_reducible assumption
      | with_reducible apply st_atsInvalidateComplete hP)

theorem st_execAtsInvalidate (hP : Stable P) {tag : Nat} {pasid : Nat} {addr : Nat} {size : Nat} {global : Bool} {s : State} {t : State} (h_s : P s) (e : execAtsInvalidate tag pasid addr size global s = .next t) : P t := by
  unfold execAtsInvalidate at e
  first
    | refine st_whileOn e ?_ ?_
  all_goals repeat' (first
      | with_reducible assumption
      | with_reducible apply st_atsInvalidate hP)

theorem st_execSpanWriteDone (hP : Stable P) {s : State} {t : State} (h_s : P s) (e : execSpanWriteDone s = .next t) : P t := by
  unfold execSpanWriteDone at e
  first
    | refine st_whileOn e ?_ ?_
  all_goals repeat' (first
      | with_reducible assumption
      | with_reducible apply st_spanWriteDone hP)

theorem st_execPriGroupWindow (hP : Stable P) {pasid : Nat} {s : State} {t : State} (h_s : P s) (e : execPriGroupWindow pasid s = .next t) : P t := by
  unfold execPriGroupWindow at e
  first
    | refine st_whileOn e ?_ ?_
  all_goals repeat' (first
      | with_reducible assumption
      | with_reducible apply st_priGroupWindow hP)

end Sys2Proof.Machine
end

