-- ==== Sys2Proof/Laws/StableStream.lean ====
section
/-!
SUPPORT. The operations of Machine/Stream keep every stable predicate.
-/

set_option linter.unusedVariables false

namespace Sys2Proof.Machine

variable {P : State → Prop}

/-- A feed that goes on with a state that has `P`, or does not go on. -/
def FeedSt (P : State → Prop) {α : Type} : Feed α → Prop
  | .ok _ t => P t
  | _ => True

theorem feedSt_ok {α : Type} {x : α} {t : State} (h : P t) : FeedSt P (.ok x t) := h
theorem feedSt_late {α : Type} : FeedSt P (.late : Feed α) := trivial
theorem feedSt_bad {α : Type} {f : Flt} {a b c : Nat} : FeedSt P (.bad f a b c : Feed α) := trivial
theorem feedSt_elim {α : Type} {r : Feed α} {x : α} {t : State} (e : r = .ok x t) (h : FeedSt P r) : P t := by subst e; exact h

theorem st_setChan (hP : Stable P) {k : Nat} {ch : Nat} {c : HChan} {s : State} (h_s : P s) : P (setChan k ch c s) := by
  unfold setChan
  repeat' (first
      | with_reducible assumption
      | with_reducible apply st_updGrove hP)

theorem st_releaseHead (hP : Stable P) {k : Nat} {ch : Nat} {s : State} (h_s : P s) : P (releaseHead k ch s) := by
  unfold releaseHead
  repeat' (first
      | with_reducible assumption
      | with_reducible apply st_setChan hP)

theorem st_consume (hP : Stable P) {k : Nat} {ch : Nat} {n : Nat} {s : State} (h_s : P s) : P (consume k ch n s) := by
  unfold consume
  repeat' (first
      | with_reducible assumption
      | with_reducible apply st_releaseHead hP
      | with_reducible apply st_setChan hP)

theorem st_openEsc (hP : Stable P) {k : Nat} {ch : Nat} {p : Nat} {b : Nat} {pos : Nat} {s : State} (h_s : P s) : FeedSt P (openEsc k ch p b pos s) := by
  unfold openEsc
  repeat' (first
      | with_reducible assumption
      | with_reducible apply st_consume hP
      | with_reducible apply st_setChan hP
      | with_reducible apply feedSt_ok
      | exact feedSt_late
      | exact feedSt_bad
      | split
      | (with_reducible intro _)
      | with_reducible apply st_foldl
      | with_reducible apply st_foldl_snd
      | dsimp only)

theorem st_openScale (hP : Stable P) {k : Nat} {p : Nat} {b : Nat} {pos : Nat} {s : State} (h_s : P s) : FeedSt P (openScale k p b pos s) := by
  unfold openScale
  repeat' (first
      | with_reducible assumption
      | with_reducible apply st_consume hP
      | with_reducible apply st_updGrove hP
      | with_reducible apply feedSt_ok
      | exact feedSt_late
      | exact feedSt_bad
      | split
      | (with_reducible intro _)
      | with_reducible apply st_foldl
      | with_reducible apply st_foldl_snd
      | dsimp only)

theorem st_openBlock (hP : Stable P) {k : Nat} {ch : Nat} {b : Nat} {pos : Nat} {s : State} (h_s : P s) : FeedSt P (openBlock k ch b pos s) := by
  unfold openBlock
  repeat' (first
      | with_reducible assumption
      | with_reducible apply st_openEsc hP
      | with_reducible apply st_openScale hP
      | with_reducible apply st_setChan hP
      | with_reducible apply feedSt_ok
      | exact feedSt_late
      | exact feedSt_bad
      | split
      | (with_reducible intro _)
      | with_reducible apply st_foldl
      | with_reducible apply st_foldl_snd
      | dsimp only
      | (refine st_pair (by assumption) ?_)
      | (refine feedSt_elim (by assumption) ?_))

theorem st_markChunks (hP : Stable P) {k : Nat} {off : Nat} {n : Nat} {s : State} (h_s : P s) : P (markChunks k off n s) := by
  unfold markChunks
  repeat' (first
      | with_reducible assumption
      | with_reducible apply st_updGrove hP
      | split)

theorem st_ringPut1 (hP : Stable P) {k : Nat} {c : HChan} {o : Nat} {l : List Byte} {s : State} (h_s : P s) : P (ringPut1 k c o l s) := by
  unfold ringPut1
  repeat' (first
      | with_reducible assumption
      | with_reducible apply st_markChunks hP
      | with_reducible apply st_memWrite hP
      | split)

theorem st_ringPut (hP : Stable P) {k : Nat} {c : HChan} {p : Nat} {l : List Byte} {s : State} (h_s : P s) : P (ringPut k c p l s) := by
  unfold ringPut
  repeat' (first
      | with_reducible assumption
      | with_reducible apply st_ringPut1 hP
      | split
      | (with_reducible intro _)
      | with_reducible apply st_foldl
      | with_reducible apply st_foldl_snd
      | dsimp only)

theorem st_setRingId (hP : Stable P) {r : RingId} {s : State} (h_s : P s) : P (setRingId r s) := by
  unfold setRingId
  repeat' (first
      | with_reducible assumption
      | with_reducible apply hP.gro)

theorem st_extWrite (hP : Stable P) {ctx : Nat} {id : Nat} {j : Nat} {s : State} (h_s : P s) : P (extWrite ctx id j s) := by
  unfold extWrite
  repeat' (first
      | with_reducible assumption
      | with_reducible apply st_countN hP
      | with_reducible apply st_ringPut hP
      | with_reducible apply st_setChan hP
      | with_reducible apply st_setRingId hP
      | split
      | (with_reducible intro _)
      | with_reducible apply st_foldl
      | with_reducible apply st_foldl_snd
      | dsimp only)

theorem st_recordTrap (hP : Stable P) {k : Nat} {f : Flt} {s : State} (h_s : P s) : P (recordTrap k f s) := by
  unfold recordTrap
  repeat' (first
      | with_reducible assumption
      | with_reducible apply st_regPut hP
      | split)

theorem st_groveFault (hP : Stable P) {block : Nat} {addr : Nat} {k : Nat} {f : Flt} {s : State} (h_s : P s) : P (groveFault block addr k f s) := by
  unfold groveFault
  repeat' (first
      | with_reducible assumption
      | with_reducible apply st_faultNode hP
      | with_reducible apply st_groveEcc hP
      | with_reducible apply st_recordTrap hP
      | split)

theorem st_helixFault (hP : Stable P) {k : Nat} {ch : Nat} {f : Flt} {pos : Nat} {tag : Nat} {ctr : Nat} {s : State} (h_s : P s) : P (helixFault k ch f pos tag ctr s) := by
  unfold helixFault
  repeat' (first
      | with_reducible assumption
      | with_reducible apply st_groveFault hP
      | with_reducible apply st_regPut hP
      | with_reducible apply st_setChan hP
      | split)

theorem st_ringUnbind (hP : Stable P) {ctx : Nat} {id : Nat} {s : State} (h_s : P s) : P (ringUnbind ctx id s) := by
  unfold ringUnbind
  repeat' (first
      | with_reducible assumption
      | with_reducible apply st_setRingId hP)

theorem st_ringGive (hP : Stable P) {ctx : Nat} {id : Nat} {off : Nat} {l : List Byte} {s : State} (h_s : P s) : P (ringGive ctx id off l s) := by
  unfold ringGive
  repeat' (first
      | with_reducible assumption
      | with_reducible apply st_setRingId hP
      | split)

theorem st_ringClaim (hP : Stable P) {ctx : Nat} {id : Nat} {w : Work} {s : State} (h_s : P s) : P (ringClaim ctx id w s) := by
  unfold ringClaim
  repeat' (first
      | with_reducible assumption
      | with_reducible apply st_setRingId hP)

theorem st_feedNarrow (hP : Stable P) {f : Fmt} {k : Nat} {ch : Nat} {a3 : Nat} {a4 : Nat} {a5 : State} (h_a5 : P a5) : FeedSt P (feedNarrow f k ch a3 a4 a5) := by
  induction a3 generalizing a4 a5 with
  | zero =>
    unfold feedNarrow
    repeat' (first
        | with_reducible assumption
        | with_reducible apply st_consume hP
        | with_reducible apply st_evt hP
        | with_reducible apply st_openBlock hP
        | with_reducible apply st_setChan hP
        | with_reducible apply feedSt_ok)
  | succ _ ih =>
    unfold feedNarrow
    repeat' (first
        | with_reducible assumption
        | with_reducible apply ih
        | with_reducible apply st_consume hP
        | with_reducible apply st_evt hP
        | with_reducible apply st_openBlock hP
        | with_reducible apply st_setChan hP
        | with_reducible apply feedSt_ok
        | exact feedSt_late
        | exact feedSt_bad
        | split
        | (with_reducible intro _)
        | with_reducible apply st_foldl
        | with_reducible apply st_foldl_snd
        | dsimp only
        | (refine st_pair (by assumption) ?_)
        | (refine feedSt_elim (by assumption) ?_))

theorem st_gsRead (hP : Stable P) {k : Nat} {off : Nat} {n : Nat} {s : State} (h_s : P s) : P (gsRead k off n s).2 := by
  unfold gsRead
  repeat' (first
      | with_reducible assumption
      | with_reducible apply st_localRead hP)

theorem st_feedBytes (hP : Stable P) {k : Nat} {ch : Nat} {n : Nat} {s : State} (h_s : P s) : FeedSt P (feedBytes k ch n s) := by
  unfold feedBytes
  repeat' (first
      | with_reducible assumption
      | with_reducible apply st_consume hP
      | with_reducible apply feedSt_ok
      | exact feedSt_late
      | exact feedSt_bad
      | split
      | (with_reducible intro _)
      | with_reducible apply st_foldl
      | with_reducible apply st_foldl_snd
      | dsimp only)

theorem st_feedCodes (hP : Stable P) {f : Fmt} {k : Nat} {ch : Nat} {n : Nat} {s : State} (h_s : P s) : FeedSt P (feedCodes f k ch n s) := by
  unfold feedCodes
  repeat' (first
      | with_reducible assumption
      | with_reducible apply st_feedNarrow hP
      | with_reducible apply feedSt_ok
      | exact feedSt_late
      | exact feedSt_bad
      | split
      | (with_reducible intro _)
      | with_reducible apply st_foldl
      | with_reducible apply st_foldl_snd
      | dsimp only)

theorem st_gsWrite (hP : Stable P) {k : Nat} {off : Nat} {l : List Byte} {s : State} (h_s : P s) : P (gsWrite k off l s) := by
  unfold gsWrite
  repeat' (first
      | with_reducible assumption
      | with_reducible apply st_localWrite hP
      | with_reducible apply st_markChunks hP)

end Sys2Proof.Machine
end

