-- ==== Sys2Proof/Laws/StableHelix.lean ====
section
/-!
SUPPORT. The operations of Machine/Helix keep every stable predicate.
-/

set_option linter.unusedVariables false

namespace Sys2Proof.Machine

variable {P : State → Prop}

theorem st_hRun (hP : Stable P) {op : Nat} {k : Nat} {ch : Nat} {f : HChan → Nat → State → State} {s : State} (h_f : ∀ (y0 : HChan) (y1 : Nat) (y2 : State), P y2 → P (f y0 y1 y2)) (h_s : P s) : P (hRun op k ch f s) := by
  unfold hRun
  repeat' (first
      | with_reducible assumption
      | with_reducible apply h_f
      | split
      | (with_reducible intro _)
      | with_reducible apply st_foldl
      | with_reducible apply st_foldl_snd
      | dsimp only)

theorem st_hMove (hP : Stable P) {k : Nat} {ch : Nat} {c : HChan} {p : HPos} {s : State} (h_s : P s) : P (hMove k ch c p s) := by
  unfold hMove
  repeat' (first
      | with_reducible assumption
      | with_reducible apply st_setChan hP)

theorem st_hLda (hP : Stable P) {k : Nat} {ch : Nat} {s : State} (h_s : P s) : P (hLda k ch s) := by
  unfold hLda
  repeat' (first
      | with_reducible assumption
      | with_reducible apply st_groveFault hP
      | with_reducible apply st_gsRead hP
      | with_reducible apply st_hMove hP
      | with_reducible apply st_hRun hP
      | split
      | (with_reducible intro _)
      | with_reducible apply st_foldl
      | with_reducible apply st_foldl_snd
      | dsimp only
      | (refine st_pair (by assumption) ?_))

theorem st_hstartRun (hP : Stable P) {k : Nat} {ch : Nat} {c : HChan} {s : State} (h_s : P s) : P (hstartRun k ch c s) := by
  unfold hstartRun
  repeat' (first
      | with_reducible assumption
      | with_reducible apply st_setChan hP
      | with_reducible apply st_setRingId hP
      | split)

theorem st_hAdda (hP : Stable P) {k : Nat} {ch : Nat} {s : State} (h_s : P s) : P (hAdda k ch s) := by
  unfold hAdda
  repeat' (first
      | with_reducible assumption
      | with_reducible apply st_hMove hP
      | with_reducible apply st_hRun hP
      | split
      | (with_reducible intro _))

theorem st_hEndl (hP : Stable P) {k : Nat} {ch : Nat} {s : State} (h_s : P s) : P (hEndl k ch s) := by
  unfold hEndl
  repeat' (first
      | with_reducible assumption
      | with_reducible apply st_hMove hP
      | with_reducible apply st_hRun hP
      | split
      | (with_reducible intro _)
      | with_reducible apply st_foldl
      | with_reducible apply st_foldl_snd
      | dsimp only)

theorem st_requestArrived (hP : Stable P) {k : Nat} {ch : Nat} {r : HReq} {l : List Byte} {s : State} (h_s : P s) : P (requestArrived k ch r l s) := by
  unfold requestArrived
  repeat' (first
      | with_reducible assumption
      | with_reducible apply st_countN hP
      | with_reducible apply st_ringPut hP
      | with_reducible apply st_setChan hP)

theorem st_requestRun (hP : Stable P) {k : Nat} {ch : Nat} {r : HReq} {s : State} (h_s : P s) : P (requestRun k ch r s) := by
  unfold requestRun
  repeat' (first
      | with_reducible assumption
      | with_reducible apply st_ctxRead hP
      | with_reducible apply st_helixFault hP
      | with_reducible apply st_requestArrived hP
      | with_reducible apply st_runAcc hP
      | with_reducible apply accRes_ok
      | with_reducible apply accRes_wait
      | with_reducible apply accRes_fail
      | with_reducible apply accSt_bind
      | with_reducible apply accSt_pure
      | with_reducible apply accSt_foldlM
      | with_reducible apply accSt_map
      | with_reducible apply accSt_mapM
      | split
      | (with_reducible intro _))

theorem st_putIssued (hP : Stable P) {k : Nat} {ch : Nat} {old : HChan} {new : HChan} {s : State} (h_s : P s) : P (putIssued k ch old new s) := by
  unfold putIssued
  repeat' (first
      | with_reducible assumption
      | with_reducible apply st_countN hP
      | with_reducible apply st_setChan hP)

theorem st_gatherLoop (hP : Stable P) {k : Nat} {ch : Nat} {a2 : Nat} {a3 : State} (h_a3 : P a3) : P (gatherLoop k ch a2 a3) := by
  induction a2 generalizing a3 with
  | zero =>
    unfold gatherLoop
    repeat' (first
        | with_reducible assumption)
  | succ _ ih =>
    unfold gatherLoop
    repeat' (first
        | with_reducible assumption
        | with_reducible apply ih
        | with_reducible apply st_ctxReadNat hP
        | with_reducible apply st_hMove hP
        | with_reducible apply st_hRun hP
        | with_reducible apply st_helixFault hP
        | with_reducible apply st_putIssued hP
        | with_reducible apply st_runAcc hP
        | with_reducible apply accRes_ok
        | with_reducible apply accRes_wait
        | with_reducible apply accRes_fail
        | with_reducible apply accSt_bind
        | with_reducible apply accSt_pure
        | with_reducible apply accSt_foldlM
        | with_reducible apply accSt_map
        | with_reducible apply accSt_mapM
        | split
        | (with_reducible intro _)
        | with_reducible apply st_foldl
        | with_reducible apply st_foldl_snd
        | dsimp only)

theorem st_releaseToken (hP : Stable P) {k : Nat} {t : Option Nat} {s : State} (h_s : P s) : P (releaseToken k t s) := by
  unfold releaseToken
  repeat' (first
      | with_reducible assumption
      | with_reducible apply st_updGrove hP
      | split)

theorem st_programEnd (hP : Stable P) {k : Nat} {ch : Nat} {s : State} (h_s : P s) : P (programEnd k ch s) := by
  unfold programEnd
  repeat' (first
      | with_reducible assumption
      | with_reducible apply st_consume hP
      | with_reducible apply st_helixFault hP
      | with_reducible apply st_releaseToken hP
      | with_reducible apply st_ringPut hP
      | with_reducible apply st_ringUnbind hP
      | with_reducible apply st_setChan hP
      | split
      | (with_reducible intro _)
      | with_reducible apply st_foldl
      | with_reducible apply st_foldl_snd
      | dsimp only)

theorem st_hLoop (hP : Stable P) {k : Nat} {ch : Nat} {s : State} (h_s : P s) : P (hLoop k ch s) := by
  unfold hLoop
  repeat' (first
      | with_reducible assumption
      | with_reducible apply st_hMove hP
      | with_reducible apply st_hRun hP
      | split
      | (with_reducible intro _))

theorem st_hStride (hP : Stable P) {k : Nat} {ch : Nat} {s : State} (h_s : P s) : P (hStride k ch s) := by
  unfold hStride
  repeat' (first
      | with_reducible assumption
      | with_reducible apply st_hMove hP
      | with_reducible apply st_hRun hP
      | split
      | (with_reducible intro _))

theorem st_faultHalt (hP : Stable P) {k : Nat} {ch : Nat} {s : State} (h_s : P s) : P (faultHalt k ch s) := by
  unfold faultHalt
  repeat' (first
      | with_reducible assumption
      | with_reducible apply st_setChan hP
      | split
      | (with_reducible intro _)
      | with_reducible apply st_foldl
      | with_reducible apply st_foldl_snd
      | dsimp only)

theorem st_chanResume (hP : Stable P) {k : Nat} {ch : Nat} {s : State} (h_s : P s) : P (chanResume k ch s) := by
  unfold chanResume
  repeat' (first
      | with_reducible assumption
      | with_reducible apply st_countN hP
      | with_reducible apply st_setChan hP
      | with_reducible apply hP.io)

theorem st_hGather (hP : Stable P) {k : Nat} {ch : Nat} {s : State} (h_s : P s) : P (hGather k ch s) := by
  unfold hGather
  repeat' (first
      | with_reducible assumption
      | with_reducible apply st_gatherLoop hP)

theorem st_helixGoOn (hP : Stable P) {k : Nat} {ch : Nat} {p : Nat} {s : State} (h_s : P s) : P (helixGoOn k ch p s) := by
  unfold helixGoOn
  repeat' (first
      | with_reducible assumption
      | with_reducible apply st_chanResume hP
      | with_reducible apply st_gatherLoop hP
      | with_reducible apply st_hGather hP
      | with_reducible apply st_requestRun hP
      | with_reducible apply st_setChan hP
      | split
      | (with_reducible intro _)
      | with_reducible apply st_foldl
      | with_reducible apply st_foldl_snd
      | dsimp only)

theorem st_hBarw (hP : Stable P) {k : Nat} {ch : Nat} {s : State} (h_s : P s) : P (hBarw k ch s) := by
  unfold hBarw
  repeat' (first
      | with_reducible assumption
      | with_reducible apply st_hRun hP
      | with_reducible apply st_setChan hP
      | split
      | (with_reducible intro _))

theorem st_hTake (hP : Stable P) {k : Nat} {ch : Nat} {s : State} (h_s : P s) : P (hTake k ch s) := by
  unfold hTake
  repeat' (first
      | with_reducible assumption
      | with_reducible apply st_hRun hP
      | with_reducible apply st_setChan hP
      | split
      | (with_reducible intro _)
      | with_reducible apply st_foldl
      | with_reducible apply st_foldl_snd
      | dsimp only)

theorem st_requestArrive (hP : Stable P) {k : Nat} {ch : Nat} {j : Nat} {s : State} (h_s : P s) : P (requestArrive k ch j s) := by
  unfold requestArrive
  repeat' (first
      | with_reducible assumption
      | with_reducible apply st_requestRun hP
      | split
      | (with_reducible intro _)
      | with_reducible apply st_foldl
      | with_reducible apply st_foldl_snd
      | dsimp only)

theorem st_hRead (hP : Stable P) {k : Nat} {ch : Nat} {s : State} (h_s : P s) : P (hRead k ch s) := by
  unfold hRead
  repeat' (first
      | with_reducible assumption
      | with_reducible apply st_hRun hP
      | with_reducible apply st_putIssued hP
      | split
      | (with_reducible intro _))

theorem st_hRead2 (hP : Stable P) {k : Nat} {ch : Nat} {s : State} (h_s : P s) : P (hRead2 k ch s) := by
  unfold hRead2
  repeat' (first
      | with_reducible assumption
      | with_reducible apply st_hRun hP
      | with_reducible apply st_putIssued hP
      | split
      | (with_reducible intro _))

theorem st_hZero (hP : Stable P) {k : Nat} {ch : Nat} {s : State} (h_s : P s) : P (hZero k ch s) := by
  unfold hZero
  repeat' (first
      | with_reducible assumption
      | with_reducible apply st_countN hP
      | with_reducible apply st_hRun hP
      | with_reducible apply st_ringPut hP
      | with_reducible apply st_setChan hP
      | split
      | (with_reducible intro _))

theorem st_hHend (hP : Stable P) {k : Nat} {ch : Nat} {s : State} (h_s : P s) : P (hHend k ch s) := by
  unfold hHend
  repeat' (first
      | with_reducible assumption
      | with_reducible apply st_hRun hP
      | with_reducible apply st_setChan hP
      | split
      | (with_reducible intro _))

theorem st_execEndl (hP : Stable P) {k : Nat} {ch : Nat} {s : State} {t : State} (h_s : P s) (e : execEndl k ch s = .next t) : P t := by
  unfold execEndl at e
  first
    | refine st_whileOn e ?_ ?_
  all_goals repeat' (first
      | with_reducible assumption
      | with_reducible apply st_hEndl hP)

theorem st_execHelixRequestArrive (hP : Stable P) {k : Nat} {ch : Nat} {j : Nat} {s : State} {t : State} (h_s : P s) (e : execHelixRequestArrive k ch j s = .next t) : P t := by
  unfold execHelixRequestArrive at e
  first
    | refine st_whileOn e ?_ ?_
  all_goals repeat' (first
      | with_reducible assumption
      | with_reducible apply st_requestArrive hP)

theorem st_execAdda (hP : Stable P) {k : Nat} {ch : Nat} {s : State} {t : State} (h_s : P s) (e : execAdda k ch s = .next t) : P t := by
  unfold execAdda at e
  first
    | refine st_whileOn e ?_ ?_
  all_goals repeat' (first
      | with_reducible assumption
      | with_reducible apply st_hAdda hP)

theorem st_execHelixProgramEnd (hP : Stable P) {k : Nat} {ch : Nat} {s : State} {t : State} (h_s : P s) (e : execHelixProgramEnd k ch s = .next t) : P t := by
  unfold execHelixProgramEnd at e
  first
    | refine st_whileOn e ?_ ?_
  all_goals repeat' (first
      | with_reducible assumption
      | with_reducible apply st_programEnd hP)

theorem st_execExtProducerWrite (hP : Stable P) {ctx : Nat} {ring : Nat} {j : Nat} {s : State} {t : State} (h_s : P s) (e : execExtProducerWrite ctx ring j s = .next t) : P t := by
  unfold execExtProducerWrite at e
  first
    | refine st_whileOn e ?_ ?_
  all_goals repeat' (first
      | with_reducible assumption
      | with_reducible apply st_extWrite hP)

theorem st_execZero (hP : Stable P) {k : Nat} {ch : Nat} {s : State} {t : State} (h_s : P s) (e : execZero k ch s = .next t) : P t := by
  unfold execZero at e
  first
    | refine st_whileOn e ?_ ?_
  all_goals repeat' (first
      | with_reducible assumption
      | with_reducible apply st_hZero hP)

theorem st_execLoop (hP : Stable P) {k : Nat} {ch : Nat} {s : State} {t : State} (h_s : P s) (e : execLoop k ch s = .next t) : P t := by
  unfold execLoop at e
  first
    | refine st_whileOn e ?_ ?_
  all_goals repeat' (first
      | with_reducible assumption
      | with_reducible apply st_hLoop hP)

theorem st_execLda (hP : Stable P) {k : Nat} {ch : Nat} {s : State} {t : State} (h_s : P s) (e : execLda k ch s = .next t) : P t := by
  unfold execLda at e
  first
    | refine st_whileOn e ?_ ?_
  all_goals repeat' (first
      | with_reducible assumption
      | with_reducible apply st_hLda hP)

theorem st_execTake (hP : Stable P) {k : Nat} {ch : Nat} {s : State} {t : State} (h_s : P s) (e : execTake k ch s = .next t) : P t := by
  unfold execTake at e
  first
    | refine st_whileOn e ?_ ?_
  all_goals repeat' (first
      | with_reducible assumption
      | with_reducible apply st_hTake hP)

theorem st_execRead2 (hP : Stable P) {k : Nat} {ch : Nat} {s : State} {t : State} (h_s : P s) (e : execRead2 k ch s = .next t) : P t := by
  unfold execRead2 at e
  first
    | refine st_whileOn e ?_ ?_
  all_goals repeat' (first
      | with_reducible assumption
      | with_reducible apply st_hRead2 hP)

theorem st_execStride (hP : Stable P) {k : Nat} {ch : Nat} {s : State} {t : State} (h_s : P s) (e : execStride k ch s = .next t) : P t := by
  unfold execStride at e
  first
    | refine st_whileOn e ?_ ?_
  all_goals repeat' (first
      | with_reducible assumption
      | with_reducible apply st_hStride hP)

theorem st_execHend (hP : Stable P) {k : Nat} {ch : Nat} {s : State} {t : State} (h_s : P s) (e : execHend k ch s = .next t) : P t := by
  unfold execHend at e
  first
    | refine st_whileOn e ?_ ?_
  all_goals repeat' (first
      | with_reducible assumption
      | with_reducible apply st_hHend hP)

theorem st_execHelixFaultHalt (hP : Stable P) {k : Nat} {ch : Nat} {s : State} {t : State} (h_s : P s) (e : execHelixFaultHalt k ch s = .next t) : P t := by
  unfold execHelixFaultHalt at e
  first
    | refine st_whileOn e ?_ ?_
  all_goals repeat' (first
      | with_reducible assumption
      | with_reducible apply st_faultHalt hP)

theorem st_execGather (hP : Stable P) {k : Nat} {ch : Nat} {s : State} {t : State} (h_s : P s) (e : execGather k ch s = .next t) : P t := by
  unfold execGather at e
  first
    | refine st_whileOn e ?_ ?_
  all_goals repeat' (first
      | with_reducible assumption
      | with_reducible apply st_hGather hP)

theorem st_execBarw (hP : Stable P) {k : Nat} {ch : Nat} {s : State} {t : State} (h_s : P s) (e : execBarw k ch s = .next t) : P t := by
  unfold execBarw at e
  first
    | refine st_whileOn e ?_ ?_
  all_goals repeat' (first
      | with_reducible assumption
      | with_reducible apply st_hBarw hP)

theorem st_execRead (hP : Stable P) {k : Nat} {ch : Nat} {s : State} {t : State} (h_s : P s) (e : execRead k ch s = .next t) : P t := by
  unfold execRead at e
  first
    | refine st_whileOn e ?_ ?_
  all_goals repeat' (first
      | with_reducible assumption
      | with_reducible apply st_hRead hP)

end Sys2Proof.Machine
end

