-- ==== Sys2Proof/Laws/StableDma.lean ====
section
/-!
SUPPORT. The operations of Machine/Dma keep every stable predicate.
-/

set_option linter.unusedVariables false

namespace Sys2Proof.Machine

variable {P : State → Prop}

theorem st_gdmaDisable (hP : Stable P) {k : Nat} {s : State} (h_s : P s) : P (gdmaDisable k s) := by
  unfold gdmaDisable
  repeat' (first
      | with_reducible assumption
      | with_reducible apply st_clearWork hP
      | with_reducible apply st_count hP
      | with_reducible apply st_drawFree hP
      | with_reducible apply st_regField hP
      | with_reducible apply st_regPut hP
      | with_reducible apply st_setGdma hP
      | split)

theorem st_gsReadAcc (hP : Stable P) {k : Nat} {off : Nat} {n : Nat}  : AccSt P (gsReadAcc k off n) := by
  unfold gsReadAcc
  repeat' (first
      | with_reducible assumption
      | with_reducible apply st_accCheck hP
      | with_reducible apply st_gsRead hP
      | with_reducible apply accRes_ok
      | with_reducible apply accRes_wait
      | with_reducible apply accRes_fail
      | with_reducible apply accSt_bind
      | with_reducible apply accSt_pure
      | with_reducible apply accSt_foldlM
      | with_reducible apply accSt_map
      | with_reducible apply accSt_mapM
      | split
      | (with_reducible intro _)
      | with_reducible apply st_foldl
      | with_reducible apply st_foldl_snd
      | dsimp only
      | (refine st_pair (by assumption) ?_)
      | assumption
      | with_reducible apply accSt_fun)

theorem st_dmaStore (hP : Stable P) {e : DmaEng} {ctx : Nat} {d : Desc} {i : Nat} {l : List Byte}  : AccSt P (dmaStore e ctx d i l) := by
  unfold dmaStore
  repeat' (first
      | with_reducible assumption
      | with_reducible apply st_accDo hP
      | with_reducible apply st_ctxWrite hP
      | with_reducible apply st_gsWrite hP
      | with_reducible apply st_ringGive hP
      | with_reducible apply accRes_ok
      | with_reducible apply accRes_wait
      | with_reducible apply accRes_fail
      | with_reducible apply accSt_bind
      | with_reducible apply accSt_pure
      | with_reducible apply accSt_foldlM
      | with_reducible apply accSt_map
      | with_reducible apply accSt_mapM
      | split
      | (with_reducible intro _))

theorem st_dmaCrcStore (hP : Stable P) {e : DmaEng} {ctx : Nat} {d : Desc}  : AccSt P (dmaCrcStore e ctx d) := by
  unfold dmaCrcStore
  repeat' (first
      | with_reducible assumption
      | with_reducible apply st_dmaStore hP
      | with_reducible apply accRes_ok
      | with_reducible apply accRes_wait
      | with_reducible apply accRes_fail
      | with_reducible apply accSt_bind
      | with_reducible apply accSt_pure
      | with_reducible apply accSt_foldlM
      | with_reducible apply accSt_map
      | with_reducible apply accSt_mapM
      | split)

theorem st_bulkEnable (hP : Stable P) {c : Cmd} {s : State} (h_s : P s) : P (bulkEnable c s) := by
  unfold bulkEnable
  repeat' (first
      | with_reducible assumption
      | with_reducible apply st_conclude hP
      | with_reducible apply st_setBulk hP)

theorem st_dmaSubmit (hP : Stable P) {c : Cmd} {s : State} (h_s : P s) : P (dmaSubmit c s) := by
  unfold dmaSubmit
  repeat' (first
      | with_reducible assumption
      | with_reducible apply st_badPacket hP
      | with_reducible apply st_bulkEnable hP
      | with_reducible apply st_complete hP
      | with_reducible apply st_completeOk hP
      | with_reducible apply st_setBulk hP
      | with_reducible apply st_startCmd hP
      | split
      | (with_reducible intro _)
      | with_reducible apply st_foldl
      | with_reducible apply st_foldl_snd
      | dsimp only)

theorem st_bulkStopped (hP : Stable P) {n : Nat} {s : State} (h_s : P s) : P (bulkStopped n s) := by
  unfold bulkStopped
  repeat' (first
      | with_reducible assumption
      | with_reducible apply st_beginFresh hP
      | with_reducible apply st_bulkEnable hP
      | with_reducible apply st_concludeDisables hP
      | with_reducible apply st_setBulk hP
      | split
      | (with_reducible intro _)
      | with_reducible apply st_foldl
      | with_reducible apply st_foldl_snd
      | dsimp only
      | (refine st_pair (by assumption) ?_))

theorem st_dmaStop (hP : Stable P) {c : Cmd} {s : State} (h_s : P s) : P (dmaStop c s) := by
  unfold dmaStop
  repeat' (first
      | with_reducible assumption
      | with_reducible apply st_badPacket hP
      | with_reducible apply st_bulkStopped hP
      | with_reducible apply st_cancelDeferred hP
      | with_reducible apply st_complete hP
      | with_reducible apply st_completeOk hP
      | with_reducible apply st_setBulk hP
      | with_reducible apply st_startCmd hP
      | split
      | (with_reducible intro _)
      | with_reducible apply st_foldl
      | with_reducible apply st_foldl_snd
      | dsimp only)

theorem st_dmaWordWrite (hP : Stable P) {e : DmaEng} {ctx : Nat} {d : Desc} {i : Nat} {v : Nat}  : AccSt P (dmaWordWrite e ctx d i v) := by
  unfold dmaWordWrite
  repeat' (first
      | with_reducible assumption
      | with_reducible apply st_accDo hP
      | with_reducible apply st_ctxWrite hP
      | with_reducible apply st_gsWrite hP
      | with_reducible apply accRes_ok
      | with_reducible apply accRes_wait
      | with_reducible apply accRes_fail
      | with_reducible apply accSt_bind
      | with_reducible apply accSt_pure
      | with_reducible apply accSt_foldlM
      | with_reducible apply accSt_map
      | with_reducible apply accSt_mapM
      | split
      | (with_reducible intro _))

theorem st_dmaEndAcc (hP : Stable P) {e : DmaEng} {ctx : Nat} {d : Desc} {st : Nat} {fl : Nat}  : AccSt P (dmaEndAcc e ctx d st fl) := by
  unfold dmaEndAcc
  repeat' (first
      | with_reducible assumption
      | with_reducible apply st_accTry hP
      | with_reducible apply st_chainAcc hP
      | with_reducible apply st_dmaWordWrite hP
      | with_reducible apply accRes_ok
      | with_reducible apply accRes_wait
      | with_reducible apply accRes_fail
      | with_reducible apply accSt_bind
      | with_reducible apply accSt_pure
      | with_reducible apply accSt_foldlM
      | with_reducible apply accSt_map
      | with_reducible apply accSt_mapM
      | split
      | (with_reducible intro _))

theorem st_dmaNotify (hP : Stable P) {ctx : Nat} {d : Desc} {st : Nat} {fl : Nat} {s : State} (h_s : P s) : P (dmaNotify ctx d st fl s) := by
  unfold dmaNotify
  repeat' (first
      | with_reducible assumption
      | with_reducible apply st_pushRecord hP
      | split)

theorem st_DmaEng_countEnd (hP : Stable P) {st : Nat} {due : Bool} {refused : Bool} {s : State} {a4 : DmaEng} (h_s : P s) : P (DmaEng.countEnd st due refused s a4) := by
  unfold DmaEng.countEnd
  repeat' (first
      | with_reducible assumption
      | with_reducible apply st_count hP
      | split)

theorem st_bulkNext (hP : Stable P) {n : Nat} {s : State} (h_s : P s) : P (bulkNext n s) := by
  unfold bulkNext
  repeat' (first
      | with_reducible assumption
      | with_reducible apply st_bulkStopped hP
      | with_reducible apply st_setBulk hP
      | split
      | (with_reducible intro _)
      | with_reducible apply st_foldl
      | with_reducible apply st_foldl_snd
      | dsimp only)

theorem st_groveNext (hP : Stable P) {k : Nat} {d : Desc} {s : State} (h_s : P s) : P (groveNext k d s) := by
  unfold groveNext
  repeat' (first
      | with_reducible assumption
      | with_reducible apply st_releaseToken hP
      | with_reducible apply st_setGdma hP
      | with_reducible apply st_setRingId hP
      | split)

theorem st_ctxFault (hP : Stable P) {block : Nat} {addr : Nat} {ctx : Nat} {f : Flt} {s : State} (h_s : P s) : P (ctxFault block addr ctx f s) := by
  unfold ctxFault
  repeat' (first
      | with_reducible assumption
      | with_reducible apply st_emit hP
      | with_reducible apply st_tear hP
      | split)

theorem st_dmaEnded (hP : Stable P) {e : DmaEng} {ctx : Nat} {d : Desc} {st : Nat} {fl : Nat} {r : Option Flt × Bool × Bool} {s : State} (h_s : P s) : P (dmaEnded e ctx d st fl r s) := by
  unfold dmaEnded
  repeat' (first
      | with_reducible assumption
      | with_reducible apply st_DmaEng_countEnd hP
      | with_reducible apply st_bulkNext hP
      | with_reducible apply st_ctxFault hP
      | with_reducible apply st_dmaNotify hP
      | with_reducible apply st_groveFault hP
      | with_reducible apply st_groveNext hP
      | with_reducible apply st_pushRecord hP
      | split)

theorem st_dmaEnd (hP : Stable P) {e : DmaEng} {d : Desc} {s : State} (h_s : P s) : P (dmaEnd e d s) := by
  unfold dmaEnd
  repeat' (first
      | with_reducible assumption
      | with_reducible apply st_dmaEndAcc hP
      | with_reducible apply st_dmaEnded hP
      | with_reducible apply st_runAcc hP
      | with_reducible apply accRes_ok
      | with_reducible apply accRes_wait
      | with_reducible apply accRes_fail
      | with_reducible apply accSt_bind
      | with_reducible apply accSt_pure
      | with_reducible apply accSt_foldlM
      | with_reducible apply accSt_map
      | with_reducible apply accSt_mapM
      | split
      | (with_reducible intro _)
      | with_reducible apply st_foldl
      | with_reducible apply st_foldl_snd
      | dsimp only)

theorem st_dmaTailWrite (hP : Stable P) {n : Nat} {value : Nat} {s : State} (h_s : P s) : P (dmaTailWrite n value s) := by
  unfold dmaTailWrite
  repeat' (first
      | with_reducible assumption
      | with_reducible apply st_setBulk hP
      | split
      | (with_reducible intro _)
      | with_reducible apply st_foldl
      | with_reducible apply st_foldl_snd
      | dsimp only)

theorem st_DmaEng_countBytes (hP : Stable P) {n : Nat} {s : State} {a2 : DmaEng} (h_s : P s) : P (DmaEng.countBytes n s a2) := by
  unfold DmaEng.countBytes
  repeat' (first
      | with_reducible assumption
      | with_reducible apply st_countN hP
      | with_reducible apply st_evt hP
      | split)

theorem st_gdmaEnable (hP : Stable P) {k : Nat} {s : State} (h_s : P s) : P (gdmaEnable k s) := by
  unfold gdmaEnable
  repeat' (first
      | with_reducible assumption
      | with_reducible apply st_regField hP
      | with_reducible apply st_setGdma hP
      | split)

theorem st_DmaEng_put (hP : Stable P) {d : Desc} {s : State} {a2 : DmaEng} (h_s : P s) : P (DmaEng.put d s a2) := by
  unfold DmaEng.put
  repeat' (first
      | with_reducible assumption
      | with_reducible apply st_setBulk hP
      | with_reducible apply st_setGdma hP
      | split)

theorem st_dmaSource (hP : Stable P) {e : DmaEng} {ctx : Nat} {d : Desc} {i : Nat} {n : Nat}  : AccSt P (dmaSource e ctx d i n) := by
  unfold dmaSource
  repeat' (first
      | with_reducible assumption
      | with_reducible apply st_ctxRead hP
      | with_reducible apply st_gsReadAcc hP
      | with_reducible apply accRes_ok
      | with_reducible apply accRes_wait
      | with_reducible apply accRes_fail
      | with_reducible apply accSt_bind
      | with_reducible apply accSt_pure
      | with_reducible apply accSt_foldlM
      | with_reducible apply accSt_map
      | with_reducible apply accSt_mapM
      | split)

theorem st_dmaMemop (hP : Stable P) {e : DmaEng} {ctx : Nat} {d : Desc} {i : Nat} {l : List Byte}  : AccSt P (dmaMemop e ctx d i l) := by
  unfold dmaMemop
  repeat' (first
      | with_reducible assumption
      | with_reducible apply st_accAsk hP
      | with_reducible apply st_accDo hP
      | with_reducible apply st_count hP
      | with_reducible apply st_memopIssue hP
      | with_reducible apply st_memopRemote hP
      | with_reducible apply st_xlate hP
      | with_reducible apply accRes_ok
      | with_reducible apply accRes_wait
      | with_reducible apply accRes_fail
      | with_reducible apply accSt_bind
      | with_reducible apply accSt_pure
      | with_reducible apply accSt_foldlM
      | with_reducible apply accSt_map
      | with_reducible apply accSt_mapM
      | split
      | (with_reducible intro _)
      | with_reducible apply st_foldl
      | with_reducible apply st_foldl_snd
      | dsimp only
      | (refine st_pair (by assumption) ?_)
      | assumption
      | with_reducible apply accSt_fun)

theorem st_dmaChunk (hP : Stable P) {e : DmaEng} {ctx : Nat} {d : Desc}  : AccSt P (dmaChunk e ctx d) := by
  unfold dmaChunk
  repeat' (first
      | with_reducible assumption
      | with_reducible apply st_dmaMemop hP
      | with_reducible apply st_dmaSource hP
      | with_reducible apply st_dmaStore hP
      | with_reducible apply accRes_ok
      | with_reducible apply accRes_wait
      | with_reducible apply accRes_fail
      | with_reducible apply accSt_bind
      | with_reducible apply accSt_pure
      | with_reducible apply accSt_foldlM
      | with_reducible apply accSt_map
      | with_reducible apply accSt_mapM
      | split
      | (with_reducible intro _))

theorem st_dmaMove (hP : Stable P) {e : DmaEng} {a1 : Nat} {a2 : State} (h_a2 : P a2) : P (dmaMove e a1 a2) := by
  induction a1 generalizing a2 with
  | zero =>
    unfold dmaMove
    repeat' (first
        | with_reducible assumption)
  | succ _ ih =>
    unfold dmaMove
    repeat' (first
        | with_reducible assumption
        | with_reducible apply ih
        | with_reducible apply st_DmaEng_countBytes hP
        | with_reducible apply st_DmaEng_put hP
        | with_reducible apply st_dmaChunk hP
        | with_reducible apply st_dmaCrcStore hP
        | with_reducible apply st_dmaEnd hP
        | with_reducible apply st_runAcc hP
        | with_reducible apply accRes_ok
        | with_reducible apply accRes_wait
        | with_reducible apply accRes_fail
        | with_reducible apply accSt_bind
        | with_reducible apply accSt_pure
        | with_reducible apply accSt_foldlM
        | with_reducible apply accSt_map
        | with_reducible apply accSt_mapM
        | split
        | (with_reducible intro _))

theorem st_dmaRun (hP : Stable P) {e : DmaEng} {s : State} (h_s : P s) : P (dmaRun e s) := by
  unfold dmaRun
  repeat' (first
      | with_reducible assumption
      | with_reducible apply st_dmaMove hP)

theorem st_groveComplete (hP : Stable P) {k : Nat} {s : State} (h_s : P s) : P (groveComplete k s) := by
  unfold groveComplete
  repeat' (first
      | with_reducible assumption
      | with_reducible apply st_dmaRun hP
      | split)

theorem st_groveStart (hP : Stable P) {k : Nat} {s : State} (h_s : P s) : P (groveStart k s) := by
  unfold groveStart
  repeat' (first
      | with_reducible assumption
      | with_reducible apply st_ringClaim hP
      | with_reducible apply st_setGdma hP
      | split
      | (with_reducible intro _)
      | with_reducible apply st_foldl
      | with_reducible apply st_foldl_snd
      | dsimp only)

theorem st_bulkComplete (hP : Stable P) {n : Nat} {s : State} (h_s : P s) : P (bulkComplete n s) := by
  unfold bulkComplete
  repeat' (first
      | with_reducible assumption
      | with_reducible apply st_dmaRun hP
      | split)

theorem st_dmaMemopResult (hP : Stable P) {w : Work} {remote : Bool} {r : Except Flt Nat} {s : State} (h_s : P s) : P (dmaMemopResult w remote r s) := by
  unfold dmaMemopResult
  repeat' (first
      | with_reducible assumption
      | with_reducible apply st_DmaEng_put hP
      | split
      | (with_reducible intro _)
      | with_reducible apply st_foldl
      | with_reducible apply st_foldl_snd
      | dsimp only)

theorem st_bulkFetchFailed (hP : Stable P) {n : Nat} {f : Flt} {s : State} (h_s : P s) : P (bulkFetchFailed n f s) := by
  unfold bulkFetchFailed
  repeat' (first
      | with_reducible assumption
      | with_reducible apply st_bulkNext hP
      | with_reducible apply st_pushRecord hP)

theorem st_bulkStart (hP : Stable P) {n : Nat} {s : State} (h_s : P s) : P (bulkStart n s) := by
  unfold bulkStart
  repeat' (first
      | with_reducible assumption
      | with_reducible apply st_bulkFetchFailed hP
      | with_reducible apply st_ctxRead hP
      | with_reducible apply st_runAcc hP
      | with_reducible apply st_setBulk hP
      | with_reducible apply accRes_ok
      | with_reducible apply accRes_wait
      | with_reducible apply accRes_fail
      | with_reducible apply accSt_bind
      | with_reducible apply accSt_pure
      | with_reducible apply accSt_foldlM
      | with_reducible apply accSt_map
      | with_reducible apply accSt_mapM
      | split
      | (with_reducible intro _)
      | with_reducible apply st_foldl
      | with_reducible apply st_foldl_snd
      | dsimp only)

theorem st_execBulkDescComplete (hP : Stable P) {n : Nat} {s : State} {t : State} (h_s : P s) (e : execBulkDescComplete n s = .next t) : P t := by
  unfold execBulkDescComplete at e
  first
    | refine st_whileOn e ?_ ?_
  all_goals repeat' (first
      | with_reducible assumption
      | with_reducible apply st_bulkComplete hP)

theorem st_execGroveDescStart (hP : Stable P) {k : Nat} {s : State} {t : State} (h_s : P s) (e : execGroveDescStart k s = .next t) : P t := by
  unfold execGroveDescStart at e
  first
    | refine st_whileOn e ?_ ?_
  all_goals repeat' (first
      | with_reducible assumption
      | with_reducible apply st_groveStart hP)

theorem st_execGroveDescComplete (hP : Stable P) {k : Nat} {s : State} {t : State} (h_s : P s) (e : execGroveDescComplete k s = .next t) : P t := by
  unfold execGroveDescComplete at e
  first
    | refine st_whileOn e ?_ ?_
  all_goals repeat' (first
      | with_reducible assumption
      | with_reducible apply st_groveComplete hP)

theorem st_execGdmaDisable (hP : Stable P) {k : Nat} {s : State} {t : State} (h_s : P s) (e : execGdmaDisable k s = .next t) : P t := by
  unfold execGdmaDisable at e
  first
    | refine st_whileOn e ?_ ?_
    | refine st_whileServed e ?_ ?_
  all_goals repeat' (first
      | with_reducible assumption
      | with_reducible apply st_gdmaDisable hP)

theorem st_execBulkDescStart (hP : Stable P) {n : Nat} {s : State} {t : State} (h_s : P s) (e : execBulkDescStart n s = .next t) : P t := by
  unfold execBulkDescStart at e
  first
    | refine st_whileOn e ?_ ?_
  all_goals repeat' (first
      | with_reducible assumption
      | with_reducible apply st_bulkStart hP)

theorem st_execDmaChTailWrite (hP : Stable P) {n : Nat} {value : Nat} {s : State} {t : State} (h_s : P s) (e : execDmaChTailWrite n value s = .next t) : P t := by
  unfold execDmaChTailWrite at e
  first
    | refine st_whileOn e ?_ ?_
    | refine st_whileServed e ?_ ?_
  all_goals repeat' (first
      | with_reducible assumption
      | with_reducible apply st_dmaTailWrite hP)

theorem st_execDmaStop (hP : Stable P) {c : Cmd} {s : State} {t : State} (h_s : P s) (e : execDmaStop c s = .next t) : P t := by
  unfold execDmaStop at e
  first
    | refine st_whileOn e ?_ ?_
  all_goals repeat' (first
      | with_reducible assumption
      | with_reducible apply st_dmaStop hP)

theorem st_execDmaSubmit (hP : Stable P) {c : Cmd} {s : State} {t : State} (h_s : P s) (e : execDmaSubmit c s = .next t) : P t := by
  unfold execDmaSubmit at e
  first
    | refine st_whileOn e ?_ ?_
  all_goals repeat' (first
      | with_reducible assumption
      | with_reducible apply st_dmaSubmit hP)

theorem st_execGdmaEnable (hP : Stable P) {k : Nat} {s : State} {t : State} (h_s : P s) (e : execGdmaEnable k s = .next t) : P t := by
  unfold execGdmaEnable at e
  first
    | refine st_whileOn e ?_ ?_
    | refine st_whileServed e ?_ ?_
  all_goals repeat' (first
      | with_reducible assumption
      | with_reducible apply st_gdmaEnable hP)

end Sys2Proof.Machine
end

