-- ==== Sys2Proof/Laws/StableLanes.lean ====
section
/-!
SUPPORT. The operations of Machine/Lanes keep every stable predicate.
-/

set_option linter.unusedVariables false

namespace Sys2Proof.Machine

variable {P : State → Prop}

theorem st_choose (hP : Stable P) {n : Nat} {s : State} (h_s : P s) : P (choose n s).2 := by
  unfold choose
  repeat' (first
      | with_reducible assumption
      | with_reducible apply st_drawFree hP)

theorem st_freePartials (hP : Stable P) {a0 : List Nat} {a1 : List Nat} {a2 : List Nat} {a3 : State} (h_a3 : P a3) : P (freePartials a0 a1 a2 a3).2 := by
  induction a0 generalizing a1 a2 a3 with
  | nil =>
    unfold freePartials
    repeat' (first
        | with_reducible assumption)
  | cons _ _ ih =>
    unfold freePartials
    repeat' (first
        | with_reducible assumption
        | with_reducible apply ih
        | with_reducible apply st_choose hP)

theorem st_freeTotal (hP : Stable P) {acc : List Nat} {a1 : Nat} {a2 : List Nat} {a3 : Option Nat} {a4 : State} (h_a4 : P a4) : P (freeTotal acc a1 a2 a3 a4).2 := by
  induction a1 generalizing a2 a3 a4 with
  | zero =>
    unfold freeTotal
    repeat' (first
        | with_reducible assumption)
  | succ _ ih =>
    unfold freeTotal
    repeat' (first
        | with_reducible assumption
        | with_reducible apply ih
        | with_reducible apply st_choose hP
        | split)

theorem st_sumPass (hP : Stable P) {exact : Bool} {bf : Bool} {l : List Nat} {s : State} (h_s : P s) : P (sumPass exact bf l s).2 := by
  unfold sumPass
  repeat' (first
      | with_reducible assumption
      | with_reducible apply st_freePartials hP
      | with_reducible apply st_freeTotal hP
      | split)

theorem st_rowOp (hP : Stable P) {exact : Bool} {bf : Bool} {op : Nat} {b : Nat} {l : List Nat} {s : State} (h_s : P s) : P (rowOp exact bf op b l s).2 := by
  unfold rowOp
  repeat' (first
      | with_reducible assumption
      | with_reducible apply st_sumPass hP
      | split
      | (with_reducible intro _)
      | with_reducible apply st_foldl
      | with_reducible apply st_foldl_snd
      | dsimp only)

end Sys2Proof.Machine
end

