-- ==== Sys2Proof/Laws/StableLoss.lean ====
section
/-!
SUPPORT. The operations of Machine/Loss keep every stable predicate.
-/

set_option linter.unusedVariables false

namespace Sys2Proof.Machine

variable {P : State → Prop}

theorem st_dropHost (hP : Stable P) {cause : Nat} {s : State} (h_s : P s) : P (dropHost cause s) := by
  unfold dropHost
  repeat' (first
      | with_reducible assumption
      | with_reducible apply st_regField hP
      | with_reducible apply hP.hl
      | split)

theorem st_linkWord (hP : Stable P) {s : State} (h_s : P s) : P (linkWord s).2 := by
  unfold linkWord
  repeat' (first
      | with_reducible assumption
      | with_reducible apply st_drawFree hP)

theorem st_divertWaiting (hP : Stable P) {s : State} (h_s : P s) : P (divertWaiting s) := by
  unfold divertWaiting
  repeat' (first
      | with_reducible assumption
      | with_reducible apply st_divert hP
      | with_reducible apply st_updCtx hP
      | split
      | (with_reducible intro _)
      | with_reducible apply st_foldl)

theorem st_persistent (hP : Stable P) {sram : Bool} {s : State} (h_s : P s) : P (persistent sram s) :=
  hP.fresh s _ rfl rfl (fun w => Registers.wf_filter _ w) h_s


theorem st_loseMgrPackets (hP : Stable P) {s : State} (h_s : P s) : P (loseMgrPackets s) := by
  unfold loseMgrPackets
  repeat' (first
      | with_reducible assumption
      | with_reducible apply st_completeTop hP
      | split
      | (with_reducible intro _)
      | with_reducible apply st_foldl)

theorem st_sendDepart (hP : Stable P) {reason : Nat} {s : State} (h_s : P s) : P (sendDepart reason s) := by
  unfold sendDepart
  repeat' (first
      | with_reducible assumption
      | with_reducible apply st_count hP
      | with_reducible apply st_ontoChords hP
      | with_reducible apply hP.fab
      | split)

theorem st_hostLoss (hP : Stable P) {cause : Nat} {fault : Nat} {block : Nat} {cs : List Cmd} {s : State} (h_s : P s) : P (hostLoss cause fault block cs s) := by
  unfold hostLoss
  repeat' (first
      | with_reducible assumption
      | with_reducible apply st_complete hP
      | with_reducible apply st_divertWaiting hP
      | with_reducible apply st_dropHost hP
      | with_reducible apply st_linkWord hP
      | with_reducible apply st_loseMgrPackets hP
      | with_reducible apply st_sendDepart hP
      | with_reducible apply hP.hl
      | split
      | (with_reducible intro _)
      | with_reducible apply st_foldl
      | with_reducible apply st_foldl_snd
      | dsimp only
      | (refine st_pair (by assumption) ?_))

theorem st_flr (hP : Stable P) {s : State} (h_s : P s) : P (flr s) := by
  unfold flr
  repeat' (first
      | with_reducible assumption
      | with_reducible apply st_hostLoss hP
      | split)

theorem st_deviceError (hP : Stable P) {f : Flt} {block : Nat} {cs : List Cmd} {s : State} (h_s : P s) : P (deviceError f block cs s) := by
  unfold deviceError
  repeat' (first
      | with_reducible assumption
      | with_reducible apply st_hostLoss hP)

theorem st_putStage (hP : Stable P) {st : Stage} {s : State} (h_s : P s) : P (putStage st s) := by
  unfold putStage
  repeat' (first
      | with_reducible assumption
      | with_reducible apply st_regField hP
      | with_reducible apply hP.sec)

theorem st_startTraining (hP : Stable P) {s : State} (h_s : P s) : P (startTraining s) := by
  unfold startTraining
  repeat' (first
      | with_reducible assumption
      | with_reducible apply st_putStage hP
      | split)

theorem st_crashWrite (hP : Stable P) {l : Loss} {s : State} (h_s : P s) : P (crashWrite l s) := by
  unfold crashWrite
  repeat' (first
      | with_reducible assumption
      | with_reducible apply st_regPut hP
      | split
      | (with_reducible intro _)
      | with_reducible apply st_foldl)

theorem st_hostLossDone (hP : Stable P) {s : State} (h_s : P s) : P (hostLossDone s) := by
  unfold hostLossDone
  repeat' (first
      | with_reducible assumption
      | with_reducible apply st_crashWrite hP
      | with_reducible apply st_persistent hP
      | with_reducible apply st_putStage hP
      | with_reducible apply st_startTraining hP
      | split)

theorem st_hotReset (hP : Stable P) {s : State} (h_s : P s) : P (hotReset s) := by
  unfold hotReset
  repeat' (first
      | with_reducible assumption
      | with_reducible apply st_hostLoss hP
      | split)

theorem st_perstAssert (hP : Stable P) {s : State} (h_s : P s) : P (perstAssert s) := by
  unfold perstAssert
  repeat' (first
      | with_reducible assumption
      | with_reducible apply st_hostLoss hP
      | with_reducible apply hP.hl
      | split)

theorem st_linkDown (hP : Stable P) {s : State} (h_s : P s) : P (linkDown s) := by
  unfold linkDown
  repeat' (first
      | with_reducible assumption
      | with_reducible apply st_hostLoss hP
      | split)

theorem st_firmRead (hP : Stable P) {block : Nat} {cs : List Cmd} {a : Nat} {n : Nat} {s : State} (h_s : P s) : P (firmRead block cs a n s).2 := by
  unfold firmRead
  repeat' (first
      | with_reducible assumption
      | with_reducible apply st_deviceError hP
      | with_reducible apply st_meetErrors hP
      | split
      | (with_reducible intro _)
      | with_reducible apply st_foldl
      | with_reducible apply st_foldl_snd
      | dsimp only
      | (refine st_pair (by assumption) ?_))

theorem st_crashClear (hP : Stable P) {s : State} (h_s : P s) : P (crashClear s) := by
  unfold crashClear
  repeat' (first
      | with_reducible assumption
      | with_reducible apply st_regPut hP
      | split
      | (with_reducible intro _)
      | with_reducible apply st_foldl)

theorem st_execLinkDown (hP : Stable P) {s : State} {t : State} (h_s : P s) (e : execLinkDown s = .next t) : P t := by
  unfold execLinkDown at e
  first
    | refine st_whileOn e ?_ ?_
    | refine st_whileServed e ?_ ?_
    | refine st_whileDoorbell e ?_ ?_
    | (cases e)
  all_goals repeat' (first
      | with_reducible assumption
      | with_reducible apply st_linkDown hP)

theorem st_execPerstNAssert (hP : Stable P) {s : State} {t : State} (h_s : P s) (e : execPerstNAssert s = .next t) : P t := by
  unfold execPerstNAssert at e
  first
    | refine st_whileOn e ?_ ?_
    | refine st_whileServed e ?_ ?_
    | refine st_whileDoorbell e ?_ ?_
    | (cases e)
  all_goals repeat' (first
      | with_reducible assumption
      | with_reducible apply st_perstAssert hP)

theorem st_execHostLossResetDone (hP : Stable P) {s : State} {t : State} (h_s : P s) (e : execHostLossResetDone s = .next t) : P t := by
  unfold execHostLossResetDone at e
  first
    | refine st_whileOn e ?_ ?_
    | refine st_whileServed e ?_ ?_
    | refine st_whileDoorbell e ?_ ?_
    | (cases e)
  all_goals repeat' (first
      | with_reducible assumption
      | with_reducible apply st_hostLossDone hP)

theorem st_execFlr (hP : Stable P) {s : State} {t : State} (h_s : P s) (e : execFlr s = .next t) : P t := by
  unfold execFlr at e
  first
    | refine st_whileOn e ?_ ?_
    | refine st_whileServed e ?_ ?_
    | refine st_whileDoorbell e ?_ ?_
    | (cases e)
  all_goals repeat' (first
      | with_reducible assumption
      | with_reducible apply st_flr hP)

theorem st_execHotReset (hP : Stable P) {s : State} {t : State} (h_s : P s) (e : execHotReset s = .next t) : P t := by
  unfold execHotReset at e
  first
    | refine st_whileOn e ?_ ?_
    | refine st_whileServed e ?_ ?_
    | refine st_whileDoorbell e ?_ ?_
    | (cases e)
  all_goals repeat' (first
      | with_reducible assumption
      | with_reducible apply st_hotReset hP)

end Sys2Proof.Machine
end

