-- ==== Sys2Proof/Laws/StableTables.lean ====
section
/-!
SUPPORT. The operations of Machine/Tables keep every stable predicate.
-/

set_option linter.unusedVariables false

namespace Sys2Proof.Machine

variable {P : State → Prop}

theorem st_freeGraft (hP : Stable P) {t : Nat} {e : Nat} {s : State} (h_s : P s) : P (freeGraft t e s) := by
  unfold freeGraft
  repeat' (first
      | with_reducible assumption
      | with_reducible apply hP.tbl)

theorem st_setSlotDesc (hP : Stable P) {t : Nat} {i : Nat} {d : List Byte} {s : State} (h_s : P s) : P (setSlotDesc t i d s) := by
  unfold setSlotDesc
  repeat' (first
      | with_reducible assumption
      | with_reducible apply st_memWrite hP)

theorem st_setTableFn (hP : Stable P) {t : Nat} {fn : Fn} {s : State} (h_s : P s) : P (setTableFn t fn s) := by
  unfold setTableFn
  repeat' (first
      | with_reducible assumption
      | with_reducible apply hP.tbl)

theorem st_setDirWord (hP : Stable P) {t : Nat} {i : Nat} {v : Nat} {s : State} (h_s : P s) : P (setDirWord t i v s) := by
  unfold setDirWord
  repeat' (first
      | with_reducible assumption
      | with_reducible apply st_memPut hP)

theorem st_setSlot (hP : Stable P) {t : Nat} {i : Nat} {st : SlotState} {s : State} (h_s : P s) : P (setSlot t i st s) := by
  unfold setSlot
  repeat' (first
      | with_reducible assumption
      | with_reducible apply st_setDirWord hP)

theorem st_installTable (hP : Stable P) {t : Nat} {seed : Nat} {time : Nat} {d : List Byte} {s : State} (h_s : P s) : P (installTable t seed time d s) := by
  unfold installTable
  repeat' (first
      | with_reducible assumption
      | with_reducible apply st_setDirWord hP
      | with_reducible apply st_setSlot hP
      | with_reducible apply st_setSlotDesc hP)

theorem st_toRetiring (hP : Stable P) {t : Nat} {s : State} (h_s : P s) : P (toRetiring t s) := by
  unfold toRetiring
  repeat' (first
      | with_reducible assumption
      | with_reducible apply st_setSlot hP
      | split
      | (with_reducible intro _)
      | with_reducible apply st_foldl)

theorem st_setWork (hP : Stable P) {w : MemberWork} {s : State} (h_s : P s) : P (setWork w s) := by
  unfold setWork
  repeat' (first
      | with_reducible assumption
      | with_reducible apply hP.tbl)

theorem st_loadWith (hP : Stable P) {c : Cmd} {d : List Byte} {s : State} (h_s : P s) : P (loadWith c d s) := by
  unfold loadWith
  repeat' (first
      | with_reducible assumption
      | with_reducible apply st_conclude hP
      | with_reducible apply st_installTable hP
      | split
      | (with_reducible intro _)
      | with_reducible apply st_foldl
      | with_reducible apply st_foldl_snd
      | dsimp only)

theorem st_loadRun (hP : Stable P) {c : Cmd} {s : State} (h_s : P s) : P (loadRun c s) := by
  unfold loadRun
  repeat' (first
      | with_reducible assumption
      | with_reducible apply st_ctxRead hP
      | with_reducible apply st_faultCmd hP
      | with_reducible apply st_loadWith hP
      | with_reducible apply st_runAcc hP
      | with_reducible apply accRes_ok
      | with_reducible apply accRes_wait
      | with_reducible apply accRes_fail
      | with_reducible apply accSt_bind
      | with_reducible apply accSt_pure
      | with_reducible apply accSt_foldlM
      | with_reducible apply accSt_map
      | with_reducible apply accSt_mapM
      | split
      | (with_reducible intro _))

theorem st_settleTable (hP : Stable P) {t : Nat} {s : State} (h_s : P s) : P (settleTable t s) := by
  unfold settleTable
  repeat' (first
      | with_reducible assumption
      | with_reducible apply st_beginFresh hP
      | with_reducible apply st_concludeDisables hP
      | with_reducible apply st_loadRun hP
      | with_reducible apply st_setTableFn hP
      | split
      | (with_reducible intro _)
      | with_reducible apply st_foldl
      | with_reducible apply st_foldl_snd
      | dsimp only
      | (refine st_pair (by assumption) ?_))

theorem st_emptySlot (hP : Stable P) {t : Nat} {i : Nat} {s : State} (h_s : P s) : P (emptySlot t i s) := by
  unfold emptySlot
  repeat' (first
      | with_reducible assumption
      | with_reducible apply st_freeGraft hP
      | with_reducible apply st_setSlot hP
      | with_reducible apply st_settleTable hP)

theorem st_epochDropped (hP : Stable P) {t : Nat} {e : Nat} {s : State} (h_s : P s) : P (epochDropped t e s) := by
  unfold epochDropped
  repeat' (first
      | with_reducible assumption
      | with_reducible apply st_emptySlot hP
      | with_reducible apply st_setWork hP
      | split
      | (with_reducible intro _)
      | with_reducible apply st_foldl
      | with_reducible apply st_foldl_snd
      | dsimp only)

theorem st_drainDone (hP : Stable P) {t : Nat} {e : Nat} {s : State} (h_s : P s) : P (drainDone t e s) := by
  unfold drainDone
  repeat' (first
      | with_reducible assumption
      | with_reducible apply st_send hP
      | with_reducible apply st_setWork hP
      | split
      | (with_reducible intro _)
      | with_reducible apply st_foldl
      | with_reducible apply st_foldl_snd
      | dsimp only)

theorem st_dirRead (hP : Stable P) {cs : List Cmd} {t : Nat} {s : State} (h_s : P s) : P (dirRead cs t s) := by
  unfold dirRead
  repeat' (first
      | with_reducible assumption
      | with_reducible apply st_firmRead hP)

theorem st_loadTable (hP : Stable P) {c : Cmd} {s : State} (h_s : P s) : P (loadTable c s) := by
  unfold loadTable
  repeat' (first
      | with_reducible assumption
      | with_reducible apply st_badPacket hP
      | with_reducible apply st_complete hP
      | with_reducible apply st_completeOk hP
      | with_reducible apply st_dirRead hP
      | with_reducible apply st_loadRun hP
      | with_reducible apply st_setTableFn hP
      | with_reducible apply st_startCmd hP
      | split
      | (with_reducible intro _)
      | with_reducible apply st_foldl
      | with_reducible apply st_foldl_snd
      | dsimp only)

theorem st_retireLocal (hP : Stable P) {c : Cmd} {s : State} (h_s : P s) : P (retireLocal c s) := by
  unfold retireLocal
  repeat' (first
      | with_reducible assumption
      | with_reducible apply st_cancelDeferred hP
      | with_reducible apply st_completeOk hP
      | with_reducible apply st_setTableFn hP
      | with_reducible apply st_setWork hP
      | with_reducible apply st_toRetiring hP
      | split
      | (with_reducible intro _)
      | with_reducible apply st_foldl
      | with_reducible apply st_foldl_snd
      | dsimp only)

theorem st_execLoadTable (hP : Stable P) {c : Cmd} {s : State} {t : State} (h_s : P s) (e : execLoadTable c s = .next t) : P t := by
  unfold execLoadTable at e
  first
    | refine st_whileOn e ?_ ?_
  all_goals repeat' (first
      | with_reducible assumption
      | with_reducible apply st_loadTable hP)

theorem st_execMemberDrainDone (hP : Stable P) {table : Nat} {epoch : Nat} {s : State} {t : State} (h_s : P s) (e : execMemberDrainDone table epoch s = .next t) : P t := by
  unfold execMemberDrainDone at e
  first
    | refine st_whileOn e ?_ ?_
  all_goals repeat' (first
      | with_reducible assumption
      | with_reducible apply st_drainDone hP)

end Sys2Proof.Machine
end

