-- ==== Sys2Proof/Laws/StablePublish.lean ====
section
/-!
SUPPORT. The operations of Machine/Publish keep every stable predicate.
-/

set_option linter.unusedVariables false

namespace Sys2Proof.Machine

variable {P : State → Prop}

theorem st_dropArrives (hP : Stable P) {t : Nat} {e : Nat} {s : State} (h_s : P s) : P (dropArrives t e s) := by
  unfold dropArrives
  repeat' (first
      | with_reducible assumption
      | with_reducible apply st_setWork hP
      | split)

theorem st_pubEnd (hP : Stable P) {p : Publication} {code : Nat} {status : Nat} {result : Nat} {s : State} (h_s : P s) : P (pubEnd p code status result s) := by
  unfold pubEnd
  repeat' (first
      | with_reducible assumption
      | with_reducible apply st_complete hP
      | with_reducible apply hP.tbl
      | split)

theorem st_pubAbort (hP : Stable P) {p : Publication} {dev : Nat} {reason : Nat} {s : State} (h_s : P s) : P (pubAbort p dev reason s) := by
  unfold pubAbort
  repeat' (first
      | with_reducible assumption
      | with_reducible apply st_pubEnd hP
      | with_reducible apply st_sendAll hP)

theorem st_replyDeadline (hP : Stable P) {t : Nat} {s : State} (h_s : P s) : P (replyDeadline t s) := by
  unfold replyDeadline
  repeat' (first
      | with_reducible assumption
      | with_reducible apply st_pubAbort hP
      | with_reducible apply st_reachTime hP
      | split)

theorem st_retireCheck (hP : Stable P) {t : Nat} {s : State} (h_s : P s) : P (retireCheck t s) := by
  unfold retireCheck
  repeat' (first
      | with_reducible assumption
      | with_reducible apply st_completeOk hP
      | with_reducible apply hP.tbl
      | split
      | (with_reducible intro _)
      | with_reducible apply st_foldl)

theorem st_retireDomain (hP : Stable P) {c : Cmd} {s : State} (h_s : P s) : P (retireDomain c s) := by
  unfold retireDomain
  repeat' (first
      | with_reducible assumption
      | with_reducible apply st_cancelDeferred hP
      | with_reducible apply st_sendAll hP
      | with_reducible apply st_setTableFn hP
      | with_reducible apply hP.tbl
      | split
      | (with_reducible intro _)
      | with_reducible apply st_foldl
      | with_reducible apply st_foldl_snd
      | dsimp only)

theorem st_retireTable (hP : Stable P) {c : Cmd} {s : State} (h_s : P s) : P (retireTable c s) := by
  unfold retireTable
  repeat' (first
      | with_reducible assumption
      | with_reducible apply st_badPacket hP
      | with_reducible apply st_dirRead hP
      | with_reducible apply st_retireDomain hP
      | with_reducible apply st_retireLocal hP
      | with_reducible apply st_startCmd hP
      | with_reducible apply hP.tbl
      | split
      | (with_reducible intro _)
      | with_reducible apply st_foldl
      | with_reducible apply st_foldl_snd
      | dsimp only)

theorem st_oweDrain (hP : Stable P) {t : Nat} {e : Nat} {s : State} (h_s : P s) : P (oweDrain t e s) := by
  unfold oweDrain
  repeat' (first
      | with_reducible assumption
      | with_reducible apply st_send hP
      | with_reducible apply st_setWork hP
      | split)

theorem st_flipTable (hP : Stable P) {t : Nat} {e : Nat} {s : State} (h_s : P s) : P (flipTable t e s) := by
  unfold flipTable
  repeat' (first
      | with_reducible assumption
      | with_reducible apply st_oweDrain hP
      | with_reducible apply st_setDirWord hP
      | with_reducible apply st_setSlot hP
      | with_reducible apply st_setWork hP
      | split)

theorem st_setPub (hP : Stable P) {p : Publication} {s : State} (h_s : P s) : P (setPub p s) := by
  unfold setPub
  repeat' (first
      | with_reducible assumption
      | with_reducible apply hP.tbl)

theorem st_pubCheck (hP : Stable P) {t : Nat} {s : State} (h_s : P s) : P (pubCheck t s) := by
  unfold pubCheck
  repeat' (first
      | with_reducible assumption
      | with_reducible apply st_pubEnd hP
      | with_reducible apply st_send hP
      | with_reducible apply st_setPub hP
      | split
      | (with_reducible intro _)
      | with_reducible apply st_foldl
      | with_reducible apply st_foldl_snd
      | dsimp only)

theorem st_tableCheck (hP : Stable P) {t : Nat} {s : State} (h_s : P s) : P (tableCheck t s) := by
  unfold tableCheck
  repeat' (first
      | with_reducible assumption
      | with_reducible apply st_pubCheck hP
      | with_reducible apply st_retireCheck hP)

theorem st_drainedArrives (hP : Stable P) {h : Hdr} {t : Nat} {e : Nat} {none : Bool} {s : State} (h_s : P s) : P (drainedArrives h t e none s) := by
  unfold drainedArrives
  repeat' (first
      | with_reducible assumption
      | with_reducible apply st_send hP
      | with_reducible apply st_setPub hP
      | with_reducible apply st_tableCheck hP
      | with_reducible apply hP.tbl
      | split)

theorem st_publishWith (hP : Stable P) {c : Cmd} {l : List Byte} {s : State} (h_s : P s) : P (publishWith c l s) := by
  unfold publishWith
  repeat' (first
      | with_reducible assumption
      | with_reducible apply st_badPacket hP
      | with_reducible apply st_complete hP
      | with_reducible apply st_send hP
      | with_reducible apply hP.tbl
      | split
      | (with_reducible intro _)
      | with_reducible apply st_foldl
      | with_reducible apply st_foldl_snd
      | dsimp only)

theorem st_publishTable (hP : Stable P) {c : Cmd} {s : State} (h_s : P s) : P (publishTable c s) := by
  unfold publishTable
  repeat' (first
      | with_reducible assumption
      | with_reducible apply st_badPacket hP
      | with_reducible apply st_ctxRead hP
      | with_reducible apply st_dirRead hP
      | with_reducible apply st_faultCmd hP
      | with_reducible apply st_publishWith hP
      | with_reducible apply st_runAcc hP
      | with_reducible apply st_startCmd hP
      | with_reducible apply accRes_ok
      | with_reducible apply accRes_wait
      | with_reducible apply accRes_fail
      | with_reducible apply accSt_bind
      | with_reducible apply accSt_pure
      | with_reducible apply accSt_foldlM
      | with_reducible apply accSt_map
      | with_reducible apply accSt_mapM
      | split
      | (with_reducible intro _)
      | with_reducible apply st_foldl
      | with_reducible apply st_foldl_snd
      | dsimp only)

theorem st_sendCommit (hP : Stable P) {t : Nat} {e : Nat} {a2 : Nat} {s : State} (h_s : P s) : P (sendCommit t e a2 s) := by
  unfold sendCommit
  repeat' (first
      | with_reducible assumption
      | with_reducible apply st_sendAll hP)

theorem st_refuseArrives (hP : Stable P) {h : Hdr} {t : Nat} {e : Nat} {reason : Nat} {s : State} (h_s : P s) : P (refuseArrives h t e reason s) := by
  unfold refuseArrives
  repeat' (first
      | with_reducible assumption
      | with_reducible apply st_pubAbort hP
      | split)

theorem st_mgrCopy (hP : Stable P) {item : MgrItem} {act : State → State} {s : State} (h_act : ∀ (y0 : State), P y0 → P (act y0)) (h_s : P s) : P (mgrCopy item act s) := by
  unfold mgrCopy
  repeat' (first
      | with_reducible assumption
      | with_reducible apply st_send hP
      | with_reducible apply hP.fab
      | with_reducible apply h_act
      | split)

theorem st_pubDecide (hP : Stable P) {p : Publication} {s : State} (h_s : P s) : P (pubDecide p s) := by
  unfold pubDecide
  repeat' (first
      | with_reducible assumption
      | with_reducible apply st_mgrCopy hP
      | with_reducible apply st_sendCommit hP
      | with_reducible apply st_setPub hP
      | split
      | (with_reducible intro _))

theorem st_tablesDown (hP : Stable P) {s : State} (h_s : P s) : P (tablesDown s) := by
  unfold tablesDown
  repeat' (first
      | with_reducible assumption
      | with_reducible apply st_tableCheck hP
      | split
      | (with_reducible intro _)
      | with_reducible apply st_foldl)

theorem st_commitTime (hP : Stable P) {t : Nat} {s : State} (h_s : P s) : P (commitTime t s) := by
  unfold commitTime
  repeat' (first
      | with_reducible assumption
      | with_reducible apply st_flipTable hP
      | with_reducible apply st_reachTime hP
      | split)

theorem st_commitArrives (hP : Stable P) {t : Nat} {e : Nat} {a2 : Nat} {s : State} (h_s : P s) : P (commitArrives t e a2 s) := by
  unfold commitArrives
  repeat' (first
      | with_reducible assumption
      | with_reducible apply st_count hP
      | with_reducible apply st_flipTable hP
      | with_reducible apply st_oweDrain hP
      | with_reducible apply st_setWork hP
      | split)

theorem st_retireNow (hP : Stable P) {t : Nat} {s : State} (h_s : P s) : P (retireNow t s) := by
  unfold retireNow
  repeat' (first
      | with_reducible assumption
      | with_reducible apply st_send hP
      | with_reducible apply st_setWork hP
      | with_reducible apply st_toRetiring hP
      | split
      | (with_reducible intro _)
      | with_reducible apply st_foldl
      | with_reducible apply st_foldl_snd
      | dsimp only)

theorem st_retireTime (hP : Stable P) {t : Nat} {s : State} (h_s : P s) : P (retireTime t s) := by
  unfold retireTime
  repeat' (first
      | with_reducible assumption
      | with_reducible apply st_reachTime hP
      | with_reducible apply st_retireNow hP
      | split)

theorem st_prepareArrives (hP : Stable P) {h : Hdr} {t : Nat} {e : Nat} {d : List Byte} {s : State} (h_s : P s) : P (prepareArrives h t e d s) := by
  unfold prepareArrives
  repeat' (first
      | with_reducible assumption
      | with_reducible apply st_dirRead hP
      | with_reducible apply st_send hP
      | with_reducible apply st_setDirWord hP
      | with_reducible apply st_setSlot hP
      | with_reducible apply st_setSlotDesc hP
      | split
      | (with_reducible intro _)
      | with_reducible apply st_foldl
      | with_reducible apply st_foldl_snd
      | dsimp only)

theorem st_readyArrives (hP : Stable P) {h : Hdr} {t : Nat} {e : Nat} {s : State} (h_s : P s) : P (readyArrives h t e s) := by
  unfold readyArrives
  repeat' (first
      | with_reducible assumption
      | with_reducible apply st_pubDecide hP
      | with_reducible apply st_setPub hP
      | split)

theorem st_abortArrives (hP : Stable P) {t : Nat} {e : Nat} {s : State} (h_s : P s) : P (abortArrives t e s) := by
  unfold abortArrives
  repeat' (first
      | with_reducible assumption
      | with_reducible apply st_setSlot hP
      | with_reducible apply st_setWork hP
      | split)

theorem st_retireAfter (hP : Stable P) {c : Cmd} {s : State} (h_s : P s) : P (retireAfter c s) := by
  unfold retireAfter
  repeat' (first
      | with_reducible assumption
      | with_reducible apply st_retireDomain hP
      | with_reducible apply hP.tbl
      | split)

theorem st_epochWorkEnd (hP : Stable P) {t : Nat} {e : Nat} {s : State} (h_s : P s) : P (epochWorkEnd t e s) := by
  unfold epochWorkEnd
  repeat' (first
      | with_reducible assumption
      | with_reducible apply st_epochDropped hP
      | with_reducible apply st_tableCheck hP)

theorem st_tablesTakeover (hP : Stable P) {s : State} (h_s : P s) : P (tablesTakeover s) := by
  unfold tablesTakeover
  repeat' (first
      | with_reducible assumption
      | with_reducible apply st_pubAbort hP
      | with_reducible apply st_sendCommit hP
      | with_reducible apply hP.tbl
      | split
      | (with_reducible intro _)
      | with_reducible apply st_foldl
      | with_reducible apply st_foldl_snd
      | dsimp only)

theorem st_execRetireAfterPublish (hP : Stable P) {c : Cmd} {s : State} {t : State} (h_s : P s) (e : execRetireAfterPublish c s = .next t) : P t := by
  unfold execRetireAfterPublish at e
  first
    | refine st_whileOn e ?_ ?_
  all_goals repeat' (first
      | with_reducible assumption
      | with_reducible apply st_retireAfter hP)

theorem st_execRetire (hP : Stable P) {h : Hdr} {table : Nat} {time : Nat} {s : State} {t : State} (h_s : P s) (e : execRetire h table time s = .next t) : P t := by
  unfold execRetire at e
  first
    | refine st_whileOn e ?_ ?_
    | refine st_whileServed e ?_ ?_
    | refine st_whileDoorbell e ?_ ?_
    | (cases e)
  all_goals repeat' (first
      | with_reducible assumption
      | with_reducible apply st_deliver hP
      | with_reducible apply st_setWork hP
      | split
      | (with_reducible intro _))

theorem st_execOwnerEpochWorkEnd (hP : Stable P) {table : Nat} {epoch : Nat} {s : State} {t : State} (h_s : P s) (e : execOwnerEpochWorkEnd table epoch s = .next t) : P t := by
  unfold execOwnerEpochWorkEnd at e
  first
    | refine st_whileOn e ?_ ?_
  all_goals repeat' (first
      | with_reducible assumption
      | with_reducible apply st_epochWorkEnd hP)

theorem st_execRefuse (hP : Stable P) {h : Hdr} {table : Nat} {epoch : Nat} {reason : Nat} {s : State} {t : State} (h_s : P s) (e : execRefuse h table epoch reason s = .next t) : P t := by
  unfold execRefuse at e
  first
    | refine st_whileOn e ?_ ?_
    | refine st_whileServed e ?_ ?_
    | refine st_whileDoorbell e ?_ ?_
    | (cases e)
  all_goals repeat' (first
      | with_reducible assumption
      | with_reducible apply st_deliver hP
      | with_reducible apply st_refuseArrives hP
      | with_reducible apply st_responded hP
      | split
      | (with_reducible intro _))

theorem st_execPublishReplyDeadline (hP : Stable P) {table : Nat} {s : State} {t : State} (h_s : P s) (e : execPublishReplyDeadline table s = .next t) : P t := by
  unfold execPublishReplyDeadline at e
  first
    | refine st_whileOn e ?_ ?_
  all_goals repeat' (first
      | with_reducible assumption
      | with_reducible apply st_replyDeadline hP)

theorem st_execDrop (hP : Stable P) {h : Hdr} {table : Nat} {epoch : Nat} {s : State} {t : State} (h_s : P s) (e : execDrop h table epoch s = .next t) : P t := by
  unfold execDrop at e
  first
    | refine st_whileOn e ?_ ?_
    | refine st_whileServed e ?_ ?_
    | refine st_whileDoorbell e ?_ ?_
    | (cases e)
  all_goals repeat' (first
      | with_reducible assumption
      | with_reducible apply st_deliver hP
      | with_reducible apply st_dropArrives hP
      | split
      | (with_reducible intro _))

theorem st_execRetireTimeReached (hP : Stable P) {table : Nat} {s : State} {t : State} (h_s : P s) (e : execRetireTimeReached table s = .next t) : P t := by
  unfold execRetireTimeReached at e
  first
    | refine st_whileOn e ?_ ?_
  all_goals repeat' (first
      | with_reducible assumption
      | with_reducible apply st_retireTime hP)

theorem st_execDrained (hP : Stable P) {h : Hdr} {table : Nat} {epoch : Nat} {none : Bool} {s : State} {t : State} (h_s : P s) (e : execDrained h table epoch none s = .next t) : P t := by
  unfold execDrained at e
  first
    | refine st_whileOn e ?_ ?_
    | refine st_whileServed e ?_ ?_
    | refine st_whileDoorbell e ?_ ?_
    | (cases e)
  all_goals repeat' (first
      | with_reducible assumption
      | with_reducible apply st_deliver hP
      | with_reducible apply st_drainedArrives hP
      | split
      | (with_reducible intro _))

theorem st_execAbort (hP : Stable P) {h : Hdr} {table : Nat} {epoch : Nat} {s : State} {t : State} (h_s : P s) (e : execAbort h table epoch s = .next t) : P t := by
  unfold execAbort at e
  first
    | refine st_whileOn e ?_ ?_
    | refine st_whileServed e ?_ ?_
    | refine st_whileDoorbell e ?_ ?_
    | (cases e)
  all_goals repeat' (first
      | with_reducible assumption
      | with_reducible apply st_abortArrives hP
      | with_reducible apply st_deliver hP
      | split
      | (with_reducible intro _))

theorem st_execCommitTimeReached (hP : Stable P) {table : Nat} {s : State} {t : State} (h_s : P s) (e : execCommitTimeReached table s = .next t) : P t := by
  unfold execCommitTimeReached at e
  first
    | refine st_whileOn e ?_ ?_
  all_goals repeat' (first
      | with_reducible assumption
      | with_reducible apply st_commitTime hP)

theorem st_execReady (hP : Stable P) {h : Hdr} {table : Nat} {epoch : Nat} {s : State} {t : State} (h_s : P s) (e : execReady h table epoch s = .next t) : P t := by
  unfold execReady at e
  first
    | refine st_whileOn e ?_ ?_
    | refine st_whileServed e ?_ ?_
    | refine st_whileDoorbell e ?_ ?_
    | (cases e)
  all_goals repeat' (first
      | with_reducible assumption
      | with_reducible apply st_deliver hP
      | with_reducible apply st_readyArrives hP
      | with_reducible apply st_responded hP
      | split
      | (with_reducible intro _))

theorem st_execPrepare (hP : Stable P) {h : Hdr} {table : Nat} {epoch : Nat} {time : Nat} {desc : List Byte} {s : State} {t : State} (h_s : P s) (e : execPrepare h table epoch time desc s = .next t) : P t := by
  unfold execPrepare at e
  first
    | refine st_whileOn e ?_ ?_
    | refine st_whileServed e ?_ ?_
    | refine st_whileDoorbell e ?_ ?_
    | (cases e)
  all_goals repeat' (first
      | with_reducible assumption
      | with_reducible apply st_deliver hP
      | with_reducible apply st_prepareArrives hP
      | split
      | (with_reducible intro _))

theorem st_execPublishTable (hP : Stable P) {c : Cmd} {s : State} {t : State} (h_s : P s) (e : execPublishTable c s = .next t) : P t := by
  unfold execPublishTable at e
  first
    | refine st_whileOn e ?_ ?_
  all_goals repeat' (first
      | with_reducible assumption
      | with_reducible apply st_publishTable hP)

theorem st_execCommit (hP : Stable P) {h : Hdr} {table : Nat} {epoch : Nat} {time : Nat} {s : State} {t : State} (h_s : P s) (e : execCommit h table epoch time s = .next t) : P t := by
  unfold execCommit at e
  first
    | refine st_whileOn e ?_ ?_
    | refine st_whileServed e ?_ ?_
    | refine st_whileDoorbell e ?_ ?_
    | (cases e)
  all_goals repeat' (first
      | with_reducible assumption
      | with_reducible apply st_commitArrives hP
      | with_reducible apply st_deliver hP
      | split
      | (with_reducible intro _))

theorem st_execRetireTable (hP : Stable P) {c : Cmd} {s : State} {t : State} (h_s : P s) (e : execRetireTable c s = .next t) : P t := by
  unfold execRetireTable at e
  first
    | refine st_whileOn e ?_ ?_
  all_goals repeat' (first
      | with_reducible assumption
      | with_reducible apply st_retireTable hP)

end Sys2Proof.Machine
end

