-- ==== Sys2Proof/Laws/StablePool.lean ====
section
/-!
SUPPORT. The operations of Machine/Pool keep every stable predicate.
-/

set_option linter.unusedVariables false

namespace Sys2Proof.Machine

variable {P : State → Prop}

theorem st_slotEvents (hP : Stable P) {code : Nat} {a : Nat} {n : Nat} {s : State} (h_s : P s) : P (slotEvents code a n s) := by
  unfold slotEvents
  repeat' (first
      | with_reducible assumption
      | with_reducible apply st_evt hP
      | split
      | (with_reducible intro _)
      | with_reducible apply st_foldl)

theorem st_hotLog (hP : Stable P) {ch : Nat} {t : Nat} {e : Nat} {row : Nat} {est : Nat} {s : State} (h_s : P s) : P (hotLog ch t e row est s) := by
  unfold hotLog
  repeat' (first
      | with_reducible assumption
      | with_reducible apply st_count hP
      | with_reducible apply st_memWrite hP
      | with_reducible apply st_regPut hP
      | split
      | (with_reducible intro _)
      | with_reducible apply st_foldl
      | with_reducible apply st_foldl_snd
      | dsimp only)

theorem st_sketchCount (hP : Stable P) {ch : Nat} {t : Nat} {e : Nat} {row : Nat} {s : State} (h_s : P s) : P (sketchCount ch t e row s) := by
  unfold sketchCount
  repeat' (first
      | with_reducible assumption
      | with_reducible apply st_hotLog hP
      | with_reducible apply hP.tbl
      | split
      | (with_reducible intro _)
      | with_reducible apply st_foldl
      | with_reducible apply st_foldl_snd
      | dsimp only)

theorem st_slotRead (hP : Stable P) {d : List Byte} {row : Nat} {s : State} (h_s : P s) : P (slotRead d row s).2 := by
  unfold slotRead
  repeat' (first
      | with_reducible assumption
      | with_reducible apply st_meetErrors hP
      | with_reducible apply st_sketchCount hP
      | with_reducible apply st_slotEvents hP
      | split)

theorem st_rowRead (hP : Stable P) {d : List Byte} {row : Nat} {s : State} (h_s : P s) : P (rowRead d row s).2 := by
  unfold rowRead
  repeat' (first
      | with_reducible assumption
      | with_reducible apply st_slotRead hP)

theorem st_ownRow (hP : Stable P) {got : List (RowRef × List Byte)} {d : List Byte} {row : Nat} {s : State} (h_s : P s) : P (ownRow got d row s).2 := by
  unfold ownRow
  repeat' (first
      | with_reducible assumption
      | with_reducible apply st_rowRead hP
      | split
      | (with_reducible intro _)
      | with_reducible apply st_foldl
      | with_reducible apply st_foldl_snd
      | dsimp only)

theorem st_indexValue (hP : Stable P) {got : List (RowRef × List Byte)} {d : List Byte} {rows : Nat × Nat} {s : State} (h_s : P s) :
    P (indexValue got d rows s).2 := by
  unfold indexValue
  split
  · exact h_s
  · have h1 : P (ownRow got d rows.1 s).2 := st_ownRow hP h_s
    generalize ownRow got d rows.1 s = r at h1
    obtain ⟨x, s1⟩ := r
    cases x with
    | error f => exact h1
    | ok x =>
      dsimp only
      split
      · exact h1
      · have h2 : P (rowRead ((currentDesc s1 (tdPartner d)).getD []) rows.2 s1).2 := st_rowRead hP h1
        revert h2
        generalize rowRead ((currentDesc s1 (tdPartner d)).getD []) rows.2 s1 = r
        obtain ⟨y, s2⟩ := r
        intro h2
        cases y with
        | error f => exact h2
        | ok y => exact h2


theorem st_partValues (hP : Stable P) {got : List (RowRef × List Byte)} {d : List Byte} {a2 : List (Nat × Nat)} {a3 : State} (h_a3 : P a3) : P (partValues got d a2 a3).2 := by
  induction a2 generalizing a3 with
  | nil =>
    unfold partValues
    repeat' (first
        | with_reducible assumption)
  | cons _ _ ih =>
    unfold partValues
    repeat' (first
        | with_reducible assumption
        | with_reducible apply ih
        | with_reducible apply st_indexValue hP
        | split
        | (with_reducible intro _)
        | with_reducible apply st_foldl
        | with_reducible apply st_foldl_snd
        | dsimp only
        | (refine st_pair (by assumption) ?_))

theorem st_sumFree (hP : Stable P) {a0 : Nat} {a1 : List (List Fx)} {a2 : State} (h_a2 : P a2) : P (sumFree a0 a1 a2).2 := by
  induction a0 generalizing a1 a2 with
  | zero =>
    unfold sumFree
    repeat' (first
        | with_reducible assumption)
  | succ _ ih =>
    unfold sumFree
    repeat' (first
        | with_reducible assumption
        | with_reducible apply ih
        | with_reducible apply st_choose hP
        | split)

theorem st_poolRows (hP : Stable P) {op : Nat} {exact : Bool} {d : Nat} {rows : List (List Fx)} {ws : List Fx} {s : State} (h_s : P s) : P (poolRows op exact d rows ws s).2 := by
  unfold poolRows
  repeat' (first
      | with_reducible assumption
      | with_reducible apply st_sumFree hP
      | split
      | (with_reducible intro _)
      | with_reducible apply st_foldl
      | with_reducible apply st_foldl_snd
      | dsimp only)

theorem st_rowFault (hP : Stable P) {t : Nat} {row : Nat} {requester : Nat} {code : Nat} {update : Bool} {s : State} (h_s : P s) : P (rowFault t row requester code update s) := by
  unfold rowFault
  repeat' (first
      | with_reducible assumption
      | with_reducible apply st_count hP
      | with_reducible apply st_regPut hP)

theorem st_freeBytes (hP : Stable P) {n : Nat} {s : State} (h_s : P s) : P (freeBytes n s).2 := by
  unfold freeBytes
  repeat' (first
      | with_reducible assumption
      | with_reducible apply st_drawFree hP
      | with_reducible apply hP.free)

theorem st_poolPart (hP : Stable P) {m : BatchMsg} {got : List (RowRef × List Byte)} {g : SegBlock} {d : List Byte} {split : Bool} {idx : List (Nat × Nat)} {s : State} (h_s : P s) : P (poolPart m got g d split idx s).2 := by
  unfold poolPart
  repeat' (first
      | with_reducible assumption
      | with_reducible apply st_freeBytes hP
      | with_reducible apply st_partValues hP
      | with_reducible apply st_poolRows hP
      | with_reducible apply st_rowFault hP
      | split
      | (with_reducible intro _)
      | with_reducible apply st_foldl
      | with_reducible apply st_foldl_snd
      | dsimp only
      | (refine st_pair (by assumption) ?_))

theorem st_poolBatch (hP : Stable P) {o : OwnBatch} {s : State} (h_s : P s) : P (poolBatch o s).2 := by
  unfold poolBatch
  repeat' (first
      | with_reducible assumption
      | with_reducible apply st_poolPart hP
      | split
      | (with_reducible intro _)
      | with_reducible apply st_foldl
      | with_reducible apply st_foldl_snd)

theorem st_ownerPool (hP : Stable P) {o : OwnBatch} {s : State} (h_s : P s) : P (ownerPool o s) := by
  unfold ownerPool
  repeat' (first
      | with_reducible assumption
      | with_reducible apply st_poolBatch hP
      | with_reducible apply hP.xch
      | split)

theorem st_dropOwned (hP : Stable P) {requester : Nat} {id : Nat} {s : State} (h_s : P s) : P (dropOwned requester id s) := by
  unfold dropOwned
  repeat' (first
      | with_reducible assumption
      | with_reducible apply hP.xch)

theorem st_rowDataArrives (hP : Stable P) {r : RowRef} {l : List Byte} {s : State} (h_s : P s) : P (rowDataArrives r l s) := by
  unfold rowDataArrives
  repeat' (first
      | with_reducible assumption
      | with_reducible apply st_dropOwned hP
      | with_reducible apply st_ownerPool hP
      | split
      | (with_reducible intro _)
      | with_reducible apply st_foldl)

theorem st_sketchDecay (hP : Stable P) {s : State} (h_s : P s) : P (sketchDecay s) := by
  unfold sketchDecay
  repeat' (first
      | with_reducible assumption
      | with_reducible apply hP.tbl)

theorem st_ownerDeadline (hP : Stable P) {requester : Nat} {id : Nat} {s : State} (h_s : P s) : P (ownerDeadline requester id s) := by
  unfold ownerDeadline
  repeat' (first
      | with_reducible assumption
      | with_reducible apply st_count hP
      | with_reducible apply st_dropOwned hP
      | with_reducible apply st_reachTime hP
      | split)

theorem st_fragReady (hP : Stable P) {requester : Nat} {id : Nat} {n : Nat} {s : State} (h_s : P s) : P (fragReady requester id n s) := by
  unfold fragReady
  repeat' (first
      | with_reducible assumption
      | with_reducible apply st_count hP
      | with_reducible apply st_dropOwned hP
      | with_reducible apply st_evt hP
      | with_reducible apply st_send hP
      | with_reducible apply hP.xch
      | split
      | (with_reducible intro _)
      | with_reducible apply st_foldl
      | with_reducible apply st_foldl_snd
      | dsimp only)

theorem st_batchArrives (hP : Stable P) {m : BatchMsg} {s : State} (h_s : P s) : P (batchArrives m s) := by
  unfold batchArrives
  repeat' (first
      | with_reducible assumption
      | with_reducible apply st_count hP
      | with_reducible apply st_dirRead hP
      | with_reducible apply st_dropOwned hP
      | with_reducible apply st_ownerPool hP
      | with_reducible apply st_send hP
      | split
      | (with_reducible intro _)
      | with_reducible apply st_foldl
      | with_reducible apply st_foldl_snd
      | dsimp only)

theorem st_execSketchDecay (hP : Stable P) {s : State} {t : State} (h_s : P s) (e : execSketchDecay s = .next t) : P t := by
  unfold execSketchDecay at e
  first
    | refine st_whileOn e ?_ ?_
  all_goals repeat' (first
      | with_reducible assumption
      | with_reducible apply st_sketchDecay hP)

theorem st_execOwnerBatchDeadline (hP : Stable P) {requester : Nat} {id : Nat} {s : State} {t : State} (h_s : P s) (e : execOwnerBatchDeadline requester id s = .next t) : P t := by
  unfold execOwnerBatchDeadline at e
  first
    | refine st_whileOn e ?_ ?_
  all_goals repeat' (first
      | with_reducible assumption
      | with_reducible apply st_ownerDeadline hP)

theorem st_execRowData (hP : Stable P) {h : Hdr} {r : RowRef} {tag : Nat} {slot : List Byte} {s : State} {t : State} (h_s : P s) (e : execRowData h r tag slot s = .next t) : P t := by
  unfold execRowData at e
  first
    | refine st_whileOn e ?_ ?_
    | refine st_whileServed e ?_ ?_
    | refine st_whileDoorbell e ?_ ?_
    | (cases e)
  all_goals repeat' (first
      | with_reducible assumption
      | with_reducible apply st_deliver hP
      | with_reducible apply st_responded hP
      | with_reducible apply st_rowDataArrives hP
      | split
      | (with_reducible intro _))

theorem st_execBatch (hP : Stable P) {h : Hdr} {m : BatchMsg} {s : State} {t : State} (h_s : P s) (e : execBatch h m s = .next t) : P t := by
  unfold execBatch at e
  first
    | refine st_whileOn e ?_ ?_
    | refine st_whileServed e ?_ ?_
    | refine st_whileDoorbell e ?_ ?_
    | (cases e)
  all_goals repeat' (first
      | with_reducible assumption
      | with_reducible apply st_batchArrives hP
      | with_reducible apply st_deliver hP
      | split
      | (with_reducible intro _))

theorem st_execOwnerFragmentReady (hP : Stable P) {requester : Nat} {id : Nat} {count : Nat} {s : State} {t : State} (h_s : P s) (e : execOwnerFragmentReady requester id count s = .next t) : P t := by
  unfold execOwnerFragmentReady at e
  first
    | refine st_whileOn e ?_ ?_
  all_goals repeat' (first
      | with_reducible assumption
      | with_reducible apply st_fragReady hP)

theorem st_execCancel (hP : Stable P) {h : Hdr} {id : Nat} {s : State} {t : State} (h_s : P s) (e : execCancel h id s = .next t) : P t := by
  unfold execCancel at e
  first
    | refine st_whileOn e ?_ ?_
    | refine st_whileServed e ?_ ?_
    | refine st_whileDoorbell e ?_ ?_
    | (cases e)
  all_goals repeat' (first
      | with_reducible assumption
      | with_reducible apply st_deliver hP
      | with_reducible apply st_dropOwned hP
      | split
      | (with_reducible intro _))

end Sys2Proof.Machine
end

