-- ==== Sys2Proof/Laws/StableExchange.lean ====
section
/-!
SUPPORT. The operations of Machine/Exchange keep every stable predicate.
-/

set_option linter.unusedVariables false

namespace Sys2Proof.Machine

variable {P : State → Prop}

theorem st_updBatchOf (hP : Stable P) {id : Nat} {f : ReqBatch → ReqBatch} {s : State} (h_s : P s) : P (updBatchOf id f s) := by
  unfold updBatchOf
  repeat' (first
      | with_reducible assumption
      | with_reducible apply hP.xch)

theorem st_batchEndRecord (hP : Stable P) {o : ReqBatch} {responder : Nat} {gone : Bool} {s : State} (h_s : P s) : P (batchEndRecord o responder gone s) := by
  unfold batchEndRecord
  repeat' (first
      | with_reducible assumption
      | with_reducible apply st_emit hP)

theorem st_cancelBatch (hP : Stable P) {b : ReqBatch} {s : State} (h_s : P s) : P (cancelBatch b s) := by
  unfold cancelBatch
  repeat' (first
      | with_reducible assumption
      | with_reducible apply st_send hP
      | split)

theorem st_overlayAcks (hP : Stable P) {s : State} (h_s : P s) : P (overlayAcks s) := by
  unfold overlayAcks
  repeat' (first
      | with_reducible assumption
      | with_reducible apply st_send hP
      | with_reducible apply hP.tbl
      | split
      | (with_reducible intro _)
      | with_reducible apply st_foldl)

theorem st_shipBatch (hP : Stable P) {id : Nat} {s : State} (h_s : P s) : P (shipBatch id s) := by
  unfold shipBatch
  repeat' (first
      | with_reducible assumption
      | with_reducible apply st_emit hP
      | with_reducible apply st_evt hP
      | with_reducible apply st_send hP
      | with_reducible apply st_updBatchOf hP
      | split)

theorem st_missParts (hP : Stable P) {o : Nat} {ps : List Nat} {s : State} (h_s : P s) : P (missParts o ps s) := by
  unfold missParts
  repeat' (first
      | with_reducible assumption
      | with_reducible apply st_updBatchOf hP)

theorem st_sendBatch (hP : Stable P) {id : Nat} {s : State} (h_s : P s) : P (sendBatch id s) := by
  unfold sendBatch
  repeat' (first
      | with_reducible assumption
      | with_reducible apply st_count hP
      | with_reducible apply st_missParts hP
      | with_reducible apply st_shipBatch hP
      | with_reducible apply st_updBatchOf hP
      | with_reducible apply hP.xch
      | split
      | (with_reducible intro _)
      | with_reducible apply st_foldl
      | with_reducible apply st_foldl_snd
      | dsimp only)

theorem st_pumpBatches (hP : Stable P) {a0 : Nat} {a1 : State} (h_a1 : P a1) : P (pumpBatches a0 a1) := by
  induction a0 generalizing a1 with
  | zero =>
    unfold pumpBatches
    repeat' (first
        | with_reducible assumption)
  | succ _ ih =>
    unfold pumpBatches
    repeat' (first
        | with_reducible assumption
        | with_reducible apply ih
        | with_reducible apply st_sendBatch hP
        | split
        | (with_reducible intro _)
        | with_reducible apply st_foldl
        | with_reducible apply st_foldl_snd
        | dsimp only)

theorem st_lookPump (hP : Stable P) {s : State} (h_s : P s) : P (lookPump s) := by
  unfold lookPump
  repeat' (first
      | with_reducible assumption
      | with_reducible apply st_pumpBatches hP)

theorem st_bagVector (hP : Stable P) {exact : Bool} {g : LSeg} {b : Bag} {s : State} (h_s : P s) : P (bagVector exact g b s).2 := by
  unfold bagVector
  repeat' (first
      | with_reducible assumption
      | with_reducible apply st_sumFree hP
      | split
      | (with_reducible intro _)
      | with_reducible apply st_foldl
      | with_reducible apply st_foldl_snd
      | dsimp only)

theorem st_lookVectors (hP : Stable P) {l : Look} {s : State} (h_s : P s) : P (lookVectors l s).2 := by
  unfold lookVectors
  repeat' (first
      | with_reducible assumption
      | with_reducible apply st_bagVector hP
      | split
      | (with_reducible intro _)
      | with_reducible apply st_foldl
      | with_reducible apply st_foldl_snd)

theorem st_undefOuts (hP : Stable P) {a0 : List (Nat × List Byte)} {a1 : State} (h_a1 : P a1) : P (undefOuts a0 a1).2 := by
  induction a0 generalizing a1 with
  | nil =>
    unfold undefOuts
    repeat' (first
        | with_reducible assumption)
  | cons _ _ ih =>
    unfold undefOuts
    repeat' (first
        | with_reducible assumption
        | with_reducible apply ih
        | with_reducible apply st_freeBytes hP)

theorem st_outputAcc (hP : Stable P) {l : Look} {mask : List Byte}  : AccSt P (outputAcc l mask) := by
  unfold outputAcc
  repeat' (first
      | with_reducible assumption
      | with_reducible apply st_ctxWrite hP
      | with_reducible apply accRes_ok
      | with_reducible apply accRes_wait
      | with_reducible apply accRes_fail
      | with_reducible apply accSt_bind
      | with_reducible apply accSt_pure
      | with_reducible apply accSt_foldlM
      | with_reducible apply accSt_map
      | with_reducible apply accSt_mapM
      | split
      | (with_reducible intro _))

theorem st_setLook (hP : Stable P) {l : Look} {s : State} (h_s : P s) : P (setLook l s) := by
  unfold setLook
  repeat' (first
      | with_reducible assumption
      | with_reducible apply hP.xch)

theorem st_dropLook (hP : Stable P) {c : Cmd} {s : State} (h_s : P s) : P (dropLook c s) := by
  unfold dropLook
  repeat' (first
      | with_reducible assumption
      | with_reducible apply hP.xch)

theorem st_releaseRing (hP : Stable P) {l : Look} {s : State} (h_s : P s) : P (releaseRing l s) := by
  unfold releaseRing
  repeat' (first
      | with_reducible assumption
      | with_reducible apply st_setRingId hP
      | split)

theorem st_lookWrite (hP : Stable P) {c : Cmd} {s : State} (h_s : P s) : P (lookWrite c s) := by
  unfold lookWrite
  repeat' (first
      | with_reducible assumption
      | with_reducible apply st_dropLook hP
      | with_reducible apply st_faultAt hP
      | with_reducible apply st_outputAcc hP
      | with_reducible apply st_releaseRing hP
      | with_reducible apply st_runAcc hP
      | with_reducible apply st_setLook hP
      | with_reducible apply accRes_ok
      | with_reducible apply accRes_wait
      | with_reducible apply accRes_fail
      | with_reducible apply accSt_bind
      | with_reducible apply accSt_pure
      | with_reducible apply accSt_foldlM
      | with_reducible apply accSt_map
      | with_reducible apply accSt_mapM
      | split
      | (with_reducible intro _))

theorem st_lookFinish (hP : Stable P) {c : Cmd} {s : State} (h_s : P s) : P (lookFinish c s) := by
  unfold lookFinish
  repeat' (first
      | with_reducible assumption
      | with_reducible apply st_countN hP
      | with_reducible apply st_evt hP
      | with_reducible apply st_lookVectors hP
      | with_reducible apply st_lookWrite hP
      | with_reducible apply st_ringGive hP
      | with_reducible apply st_setLook hP
      | with_reducible apply st_undefOuts hP
      | with_reducible apply hP.free
      | split
      | (with_reducible intro _)
      | with_reducible apply st_foldl)

theorem st_partsEnded (hP : Stable P) {o : Nat} {responder : Nat} {gone : Bool} {s : State} (h_s : P s) : P (partsEnded o responder gone s) := by
  unfold partsEnded
  repeat' (first
      | with_reducible assumption
      | with_reducible apply st_batchEndRecord hP
      | with_reducible apply st_cancelBatch hP
      | with_reducible apply st_lookFinish hP
      | with_reducible apply st_lookPump hP
      | with_reducible apply st_overlayAcks hP
      | split
      | (with_reducible intro _)
      | with_reducible apply st_foldl
      | with_reducible apply st_foldl_snd
      | dsimp only)

theorem st_freshBatch (hP : Stable P) {s : State} (h_s : P s) : P (freshBatch s).2 := by
  unfold freshBatch
  repeat' (first
      | with_reducible assumption
      | with_reducible apply hP.xch)

theorem st_copyBatch (hP : Stable P) {b : ReqBatch} {dest : Nat} {hedge : Bool} {s : State} (h_s : P s) : P (copyBatch b dest hedge s) := by
  unfold copyBatch
  repeat' (first
      | with_reducible assumption
      | with_reducible apply st_freshBatch hP
      | with_reducible apply st_shipBatch hP
      | with_reducible apply hP.xch)

theorem st_lookDown (hP : Stable P) {dev : Nat} {s : State} (h_s : P s) : P (lookDown dev s) := by
  unfold lookDown
  repeat' (first
      | with_reducible assumption
      | with_reducible apply st_copyBatch hP
      | with_reducible apply st_missParts hP
      | with_reducible apply st_partsEnded hP
      | with_reducible apply st_updBatchOf hP
      | split
      | (with_reducible intro _)
      | with_reducible apply st_foldl
      | with_reducible apply st_foldl_snd
      | dsimp only)

theorem st_lkGet (hP : Stable P) {c : Cmd} {off : Nat} {n : Nat}  : AccSt P (lkGet c off n) := by
  unfold lkGet
  repeat' (first
      | with_reducible assumption
      | with_reducible apply st_ctxRead hP
      | with_reducible apply accRes_ok
      | with_reducible apply accRes_wait
      | with_reducible apply accRes_fail
      | with_reducible apply accSt_bind
      | with_reducible apply accSt_pure
      | with_reducible apply accSt_foldlM
      | with_reducible apply accSt_map
      | with_reducible apply accSt_mapM
      | split
      | (with_reducible intro _))

theorem st_segRead (hP : Stable P) {c : Cmd} {d : List Byte}  : AccSt P (segRead c d) := by
  unfold segRead
  repeat' (first
      | with_reducible assumption
      | with_reducible apply st_lkGet hP
      | with_reducible apply accRes_ok
      | with_reducible apply accRes_wait
      | with_reducible apply accRes_fail
      | with_reducible apply accSt_bind
      | with_reducible apply accSt_pure
      | with_reducible apply accSt_foldlM
      | with_reducible apply accSt_map
      | with_reducible apply accSt_mapM
      | split
      | (with_reducible intro _))

theorem st_blockRead (hP : Stable P) {c : Cmd}  : AccSt P (blockRead c) := by
  unfold blockRead
  repeat' (first
      | with_reducible assumption
      | with_reducible apply st_accAsk hP
      | with_reducible apply st_lkGet hP
      | with_reducible apply st_segRead hP
      | with_reducible apply accRes_ok
      | with_reducible apply accRes_wait
      | with_reducible apply accRes_fail
      | with_reducible apply accSt_bind
      | with_reducible apply accSt_pure
      | with_reducible apply accSt_foldlM
      | with_reducible apply accSt_map
      | with_reducible apply accSt_mapM
      | split
      | (with_reducible intro _)
      | with_reducible apply st_foldl
      | with_reducible apply st_foldl_snd
      | dsimp only)

theorem st_repFill (hP : Stable P) {d : List Byte} {row : Nat} {s : State} (h_s : P s) : P (repFill d row s) := by
  unfold repFill
  repeat' (first
      | with_reducible assumption
      | with_reducible apply st_send hP
      | with_reducible apply hP.tbl
      | split
      | (with_reducible intro _)
      | with_reducible apply st_foldl
      | with_reducible apply st_foldl_snd
      | dsimp only)

theorem st_formBatch (hP : Stable P) {l : Look} {ones : List Bool} {p : Nat × Nat} {es : List Entry} {s : State} (h_s : P s) : P (formBatch l ones p es s) := by
  unfold formBatch
  repeat' (first
      | with_reducible assumption
      | with_reducible apply st_freshBatch hP
      | with_reducible apply hP.xch)

theorem st_lookFault (hP : Stable P) {c : Cmd} {code : Nat} {s : State} (h_s : P s) : P (lookFault c code s) := by
  unfold lookFault
  repeat' (first
      | with_reducible assumption
      | with_reducible apply st_cancelBatch hP
      | with_reducible apply st_lookFinish hP
      | with_reducible apply st_lookPump hP
      | with_reducible apply st_setLook hP
      | with_reducible apply hP.xch
      | split
      | (with_reducible intro _)
      | with_reducible apply st_foldl)

theorem st_localPart (hP : Stable P) {c : Cmd} {ds : List (List Byte)} {es : List Entry} {s : State} (h_s : P s) : P (localPart c ds es s) := by
  unfold localPart
  repeat' (first
      | with_reducible assumption
      | with_reducible apply st_lookFault hP
      | with_reducible apply st_poolRows hP
      | with_reducible apply st_rowRead hP
      | with_reducible apply st_setLook hP
      | split
      | (with_reducible intro _)
      | with_reducible apply st_foldl
      | with_reducible apply st_foldl_snd
      | dsimp only)

theorem st_bucket (hP : Stable P) {c : Cmd} {gs : List SegIn} {ds : List (List Byte)} {s : State} (h_s : P s) : P (bucket c gs ds s) := by
  unfold bucket
  repeat' (first
      | with_reducible assumption
      | with_reducible apply st_countN hP
      | with_reducible apply st_formBatch hP
      | with_reducible apply st_localPart hP
      | with_reducible apply st_repFill hP
      | split
      | (with_reducible intro _)
      | with_reducible apply st_foldl)

theorem st_freeWindow (hP : Stable P) {id : Nat} {s : State} (h_s : P s) : P (freeWindow id s) := by
  unfold freeWindow
  repeat' (first
      | with_reducible assumption
      | with_reducible apply st_lookPump hP
      | with_reducible apply st_partsEnded hP
      | with_reducible apply st_updBatchOf hP
      | split
      | (with_reducible intro _)
      | with_reducible apply st_foldl
      | with_reducible apply st_foldl_snd
      | dsimp only)

theorem st_lookStart (hP : Stable P) {c : Cmd} {gs : List SegIn} {s : State} (h_s : P s) : P (lookStart c gs s) := by
  unfold lookStart
  repeat' (first
      | with_reducible assumption
      | with_reducible apply st_bucket hP
      | with_reducible apply st_count hP
      | with_reducible apply st_lookFinish hP
      | with_reducible apply st_lookPump hP
      | with_reducible apply st_ringClaim hP
      | with_reducible apply hP.xch
      | split
      | (with_reducible intro _)
      | with_reducible apply st_foldl
      | with_reducible apply st_foldl_snd
      | dsimp only)

theorem st_lookWith (hP : Stable P) {c : Cmd} {r : Option (List SegIn)} {s : State} (h_s : P s) : P (lookWith c r s) := by
  unfold lookWith
  repeat' (first
      | with_reducible assumption
      | with_reducible apply st_badPacket hP
      | with_reducible apply st_dirRead hP
      | with_reducible apply st_lookStart hP
      | with_reducible apply hP.xch
      | split
      | (with_reducible intro _)
      | with_reducible apply st_foldl
      | with_reducible apply st_foldl_snd
      | dsimp only)

theorem st_lookup (hP : Stable P) {c : Cmd} {s : State} (h_s : P s) : P (lookup c s) := by
  unfold lookup
  repeat' (first
      | with_reducible assumption
      | with_reducible apply st_badPacket hP
      | with_reducible apply st_blockRead hP
      | with_reducible apply st_faultAt hP
      | with_reducible apply st_lookWith hP
      | with_reducible apply st_lookWrite hP
      | with_reducible apply st_runAcc hP
      | with_reducible apply st_startCmd hP
      | with_reducible apply accRes_ok
      | with_reducible apply accRes_wait
      | with_reducible apply accRes_fail
      | with_reducible apply accSt_bind
      | with_reducible apply accSt_pure
      | with_reducible apply accSt_foldlM
      | with_reducible apply accSt_map
      | with_reducible apply accSt_mapM
      | split
      | (with_reducible intro _)
      | with_reducible apply st_foldl
      | with_reducible apply st_foldl_snd
      | dsimp only)

theorem st_lookRingStart (hP : Stable P) {c : Cmd} {s : State} (h_s : P s) : P (lookRingStart c s) := by
  unfold lookRingStart
  repeat' (first
      | with_reducible assumption
      | with_reducible apply st_dropLook hP
      | with_reducible apply st_lookup hP
      | split)

theorem st_fragPart (hP : Stable P) {h : ReqBatch} {m : FragMsg} {i : Nat} {acc : (Nat × Nat) × State} (h_acc : P acc.2) : P (fragPart h m i acc).2 := by
  unfold fragPart
  repeat' (first
      | with_reducible assumption
      | with_reducible apply st_setLook hP
      | with_reducible apply st_updBatchOf hP
      | split
      | (with_reducible intro _)
      | with_reducible apply st_foldl
      | with_reducible apply st_foldl_snd
      | dsimp only)

theorem st_fragArrives (hP : Stable P) {m : FragMsg} {s : State} (h_s : P s) : P (fragArrives m s) := by
  unfold fragArrives
  repeat' (first
      | with_reducible assumption
      | with_reducible apply st_count hP
      | with_reducible apply st_countN hP
      | with_reducible apply st_evt hP
      | with_reducible apply st_fragPart hP
      | with_reducible apply st_lookFault hP
      | with_reducible apply st_partsEnded hP
      | with_reducible apply st_setLook hP
      | split
      | (with_reducible intro _)
      | with_reducible apply st_foldl
      | with_reducible apply st_foldl_snd
      | dsimp only
      | (refine st_pair (by assumption) ?_))

theorem st_lookDone (hP : Stable P) {c : Cmd} {s : State} (h_s : P s) : P (lookDone c s) := by
  unfold lookDone
  repeat' (first
      | with_reducible assumption
      | with_reducible apply st_complete hP
      | with_reducible apply st_countN hP
      | with_reducible apply st_dropLook hP
      | with_reducible apply st_faultAt hP
      | with_reducible apply st_releaseRing hP
      | split
      | (with_reducible intro _)
      | with_reducible apply st_foldl
      | with_reducible apply st_foldl_snd
      | dsimp only)

theorem st_hedgeDelay (hP : Stable P) {id : Nat} {s : State} (h_s : P s) : P (hedgeDelay id s) := by
  unfold hedgeDelay
  repeat' (first
      | with_reducible assumption
      | with_reducible apply st_copyBatch hP
      | with_reducible apply st_count hP
      | with_reducible apply st_reachTime hP
      | with_reducible apply st_setLook hP
      | with_reducible apply st_updBatchOf hP
      | with_reducible apply hP.xch
      | split
      | (with_reducible intro _)
      | with_reducible apply st_foldl
      | with_reducible apply st_foldl_snd
      | dsimp only)

theorem st_lookDeadline (hP : Stable P) {c : Cmd} {s : State} (h_s : P s) : P (lookDeadline c s) := by
  unfold lookDeadline
  repeat' (first
      | with_reducible assumption
      | with_reducible apply st_batchEndRecord hP
      | with_reducible apply st_lookFinish hP
      | with_reducible apply st_lookPump hP
      | with_reducible apply st_overlayAcks hP
      | with_reducible apply st_reachTime hP
      | with_reducible apply hP.xch
      | split
      | (with_reducible intro _)
      | with_reducible apply st_foldl)

theorem st_goneArrives (hP : Stable P) {id : Nat} {responder : Nat} {s : State} (h_s : P s) : P (goneArrives id responder s) := by
  unfold goneArrives
  repeat' (first
      | with_reducible assumption
      | with_reducible apply st_missParts hP
      | with_reducible apply st_partsEnded hP
      | with_reducible apply st_updBatchOf hP
      | split
      | (with_reducible intro _)
      | with_reducible apply st_foldl
      | with_reducible apply st_foldl_snd
      | dsimp only)

theorem st_execLookupOutputWritten (hP : Stable P) {c : Cmd} {s : State} {t : State} (h_s : P s) (e : execLookupOutputWritten c s = .next t) : P t := by
  unfold execLookupOutputWritten at e
  first
    | refine st_whileOn e ?_ ?_
  all_goals repeat' (first
      | with_reducible assumption
      | with_reducible apply st_lookDone hP)

theorem st_execHedgeDelayExpire (hP : Stable P) {id : Nat} {s : State} {t : State} (h_s : P s) (e : execHedgeDelayExpire id s = .next t) : P t := by
  unfold execHedgeDelayExpire at e
  first
    | refine st_whileOn e ?_ ?_
  all_goals repeat' (first
      | with_reducible assumption
      | with_reducible apply st_hedgeDelay hP)

theorem st_execEpochGone (hP : Stable P) {h : Hdr} {id : Nat} {responder : Nat} {s : State} {t : State} (h_s : P s) (e : execEpochGone h id responder s = .next t) : P t := by
  unfold execEpochGone at e
  first
    | refine st_whileOn e ?_ ?_
    | refine st_whileServed e ?_ ?_
    | refine st_whileDoorbell e ?_ ?_
    | (cases e)
  all_goals repeat' (first
      | with_reducible assumption
      | with_reducible apply st_deliver hP
      | with_reducible apply st_goneArrives hP
      | split
      | (with_reducible intro _))

theorem st_execFragment (hP : Stable P) {h : Hdr} {m : FragMsg} {s : State} {t : State} (h_s : P s) (e : execFragment h m s = .next t) : P t := by
  unfold execFragment at e
  first
    | refine st_whileOn e ?_ ?_
    | refine st_whileServed e ?_ ?_
    | refine st_whileDoorbell e ?_ ?_
    | (cases e)
  all_goals repeat' (first
      | with_reducible assumption
      | with_reducible apply st_deliver hP
      | with_reducible apply st_fragArrives hP
      | split
      | (with_reducible intro _))

theorem st_execBatchFreeWindowExpire (hP : Stable P) {id : Nat} {s : State} {t : State} (h_s : P s) (e : execBatchFreeWindowExpire id s = .next t) : P t := by
  unfold execBatchFreeWindowExpire at e
  first
    | refine st_whileOn e ?_ ?_
  all_goals repeat' (first
      | with_reducible assumption
      | with_reducible apply st_freeWindow hP)

theorem st_execLookupDeadline (hP : Stable P) {c : Cmd} {s : State} {t : State} (h_s : P s) (e : execLookupDeadline c s = .next t) : P t := by
  unfold execLookupDeadline at e
  first
    | refine st_whileOn e ?_ ?_
  all_goals repeat' (first
      | with_reducible assumption
      | with_reducible apply st_lookDeadline hP)

theorem st_execLookup (hP : Stable P) {c : Cmd} {s : State} {t : State} (h_s : P s) (e : execLookup c s = .next t) : P t := by
  unfold execLookup at e
  first
    | refine st_whileOn e ?_ ?_
  all_goals repeat' (first
      | with_reducible assumption
      | with_reducible apply st_lookup hP)

theorem st_execLookupRingStart (hP : Stable P) {c : Cmd} {s : State} {t : State} (h_s : P s) (e : execLookupRingStart c s = .next t) : P t := by
  unfold execLookupRingStart at e
  first
    | refine st_whileOn e ?_ ?_
  all_goals repeat' (first
      | with_reducible assumption
      | with_reducible apply st_lookRingStart hP)

end Sys2Proof.Machine
end

