-- ==== Sys2Proof/Laws/StableUpdates.lean ====
section
/-!
SUPPORT. The operations of Machine/Updates keep every stable predicate.
-/

set_option linter.unusedVariables false

namespace Sys2Proof.Machine

variable {P : State → Prop}

theorem st_restoreAcks (hP : Stable P) {s : State} (h_s : P s) : P (restoreAcks s) := by
  unfold restoreAcks
  repeat' (first
      | with_reducible assumption
      | with_reducible apply st_send hP
      | with_reducible apply hP.fab
      | split
      | (with_reducible intro _)
      | with_reducible apply st_foldl)

theorem st_updForward (hP : Stable P) {src : Nat} {batch : Nat} {m : UpdMsg} {b : Nat} {s : State} (h_s : P s) : P (updForward src batch m b s) := by
  unfold updForward
  repeat' (first
      | with_reducible assumption
      | with_reducible apply st_count hP
      | with_reducible apply st_send hP
      | with_reducible apply hP.tbl)

theorem st_updMigs (hP : Stable P) {r : RowRef} {f : Mig → Mig} {s : State} (h_s : P s) : P (updMigs r f s) := by
  unfold updMigs
  repeat' (first
      | with_reducible assumption
      | with_reducible apply hP.tbl)

theorem st_updServed (hP : Stable P) {v : UpdServe} {s : State} (h_s : P s) : P (updServed v s) := by
  unfold updServed
  repeat' (first
      | with_reducible assumption
      | with_reducible apply st_send hP
      | with_reducible apply hP.tbl
      | split)

theorem st_updRead (hP : Stable P) {c : Cmd} {d : List Byte}  : AccSt P (updRead c d) := by
  unfold updRead
  repeat' (first
      | with_reducible assumption
      | with_reducible apply st_ctxRead hP
      | with_reducible apply accRes_ok
      | with_reducible apply accRes_wait
      | with_reducible apply accRes_fail
      | with_reducible apply accSt_bind
      | with_reducible apply accSt_pure
      | with_reducible apply accSt_foldlM
      | with_reducible apply accSt_map
      | with_reducible apply accSt_mapM
      | split
      | (with_reducible intro _))

theorem st_updUpds (hP : Stable P) {c : Cmd} {f : UpdOp → UpdOp} {s : State} (h_s : P s) : P (updUpds c f s) := by
  unfold updUpds
  repeat' (first
      | with_reducible assumption
      | with_reducible apply hP.tbl)

theorem st_updShip (hP : Stable P) {c : Cmd} {b : UpdSent} {s : State} (h_s : P s) : P (updShip c b s) := by
  unfold updShip
  repeat' (first
      | with_reducible assumption
      | with_reducible apply st_send hP
      | with_reducible apply st_updUpds hP
      | split
      | (with_reducible intro _)
      | with_reducible apply st_foldl
      | with_reducible apply st_foldl_snd
      | dsimp only)

theorem st_updBatches (hP : Stable P) {c : Cmd} {m : UpdMsg} {d : List Byte} {rows : List Nat} {pairs : List (Nat × Nat)} {deltas : List Byte} {p : Nat × Nat} {s : State} (h_s : P s) : P (updBatches c m d rows pairs deltas p s) := by
  unfold updBatches
  repeat' (first
      | with_reducible assumption
      | with_reducible apply st_updShip hP
      | with_reducible apply st_updUpds hP
      | with_reducible apply hP.tbl
      | split
      | (with_reducible intro _)
      | with_reducible apply st_foldl)

theorem st_updFinish (hP : Stable P) {c : Cmd} {s : State} (h_s : P s) : P (updFinish c s) := by
  unfold updFinish
  repeat' (first
      | with_reducible assumption
      | with_reducible apply st_complete hP
      | with_reducible apply st_faultWith hP
      | with_reducible apply hP.tbl
      | split)

theorem st_updEnded (hP : Stable P) {u : UpdOp} {dev : Nat} {id : Nat} {s : State} (h_s : P s) : P (updEnded u dev id s) := by
  unfold updEnded
  repeat' (first
      | with_reducible assumption
      | with_reducible apply st_overlayAcks hP
      | with_reducible apply st_restoreAcks hP
      | with_reducible apply st_updFinish hP
      | with_reducible apply st_updUpds hP)

theorem st_updLost (hP : Stable P) {dst : Nat} {id : Nat} {s : State} (h_s : P s) : P (updLost dst id s) := by
  unfold updLost
  repeat' (first
      | with_reducible assumption
      | with_reducible apply st_updEnded hP
      | split)

theorem st_updLocal (hP : Stable P) {desc : List Byte} {m : UpdMsg} {i : Nat} {s : State} (h_s : P s) : P (updLocal desc m i s).2 := by
  unfold updLocal
  repeat' (first
      | with_reducible assumption
      | with_reducible apply st_canInvalidate hP
      | with_reducible apply st_meetErrors hP
      | with_reducible apply st_memWrite hP
      | with_reducible apply st_sketchCount hP
      | with_reducible apply st_slotEvents hP
      | with_reducible apply st_updMigs hP
      | split
      | (with_reducible intro _)
      | with_reducible apply st_foldl
      | with_reducible apply st_foldl_snd
      | dsimp only)

theorem st_updHolders (hP : Stable P) {r : RowRef} {s : State} (h_s : P s) : P (updHolders r s).2 := by
  unfold updHolders
  repeat' (first
      | with_reducible assumption
      | with_reducible apply st_count hP
      | with_reducible apply st_send hP
      | split
      | (with_reducible intro _)
      | with_reducible apply st_foldl)

theorem st_updRow (hP : Stable P) {desc : List Byte} {m : UpdMsg} {i : Nat} {v : UpdServe} {s : State} (h_s : P s) : P (updRow desc m i v s).2 := by
  unfold updRow
  repeat' (first
      | with_reducible assumption
      | with_reducible apply st_count hP
      | with_reducible apply st_countN hP
      | with_reducible apply st_rowFault hP
      | with_reducible apply st_updHolders hP
      | with_reducible apply st_updLocal hP
      | split
      | (with_reducible intro _)
      | with_reducible apply st_foldl
      | with_reducible apply st_foldl_snd
      | dsimp only
      | (refine st_pair (by assumption) ?_))

theorem st_updWith (hP : Stable P) {c : Cmd} {e : Nat} {d : List Byte} {r : Option (List Nat × List Byte)} {s : State} (h_s : P s) : P (updWith c e d r s) := by
  unfold updWith
  repeat' (first
      | with_reducible assumption
      | with_reducible apply st_badPacket hP
      | with_reducible apply st_drawFree hP
      | with_reducible apply st_updBatches hP
      | with_reducible apply st_updFinish hP
      | with_reducible apply hP.tbl
      | split
      | (with_reducible intro _)
      | with_reducible apply st_foldl)

theorem st_updServeAll (hP : Stable P) {f : UpdServe → UpdServe} {s : State} (h_s : P s) : P (updServeAll f s) := by
  unfold updServeAll
  repeat' (first
      | with_reducible assumption
      | with_reducible apply st_updServed hP
      | with_reducible apply hP.tbl
      | split
      | (with_reducible intro _)
      | with_reducible apply st_foldl)

theorem st_invAcked (hP : Stable P) {dev : Nat} {r : RowRef} {s : State} (h_s : P s) : P (invAcked dev r s) := by
  unfold invAcked
  repeat' (first
      | with_reducible assumption
      | with_reducible apply st_updServeAll hP
      | with_reducible apply hP.tbl)

theorem st_updRowAt (hP : Stable P) {desc : List Byte} {m : UpdMsg} {i : Nat} {v : UpdServe} {s : State} (h_s : P s) : P (updRowAt desc m i v s).2 := by
  unfold updRowAt
  repeat' (first
      | with_reducible assumption
      | with_reducible apply st_updForward hP
      | with_reducible apply st_updMigs hP
      | with_reducible apply st_updRow hP
      | split
      | (with_reducible intro _)
      | with_reducible apply st_foldl
      | with_reducible apply st_foldl_snd
      | dsimp only)

theorem st_updateRows (hP : Stable P) {c : Cmd} {s : State} (h_s : P s) : P (updateRows c s) := by
  unfold updateRows
  repeat' (first
      | with_reducible assumption
      | with_reducible apply st_badPacket hP
      | with_reducible apply st_dirRead hP
      | with_reducible apply st_faultAt hP
      | with_reducible apply st_runAcc hP
      | with_reducible apply st_startCmd hP
      | with_reducible apply st_updRead hP
      | with_reducible apply st_updWith hP
      | with_reducible apply accRes_ok
      | with_reducible apply accRes_wait
      | with_reducible apply accRes_fail
      | with_reducible apply accSt_bind
      | with_reducible apply accSt_pure
      | with_reducible apply accSt_foldlM
      | with_reducible apply accSt_map
      | with_reducible apply accSt_mapM
      | split
      | (with_reducible intro _)
      | with_reducible apply st_foldl
      | with_reducible apply st_foldl_snd
      | dsimp only)

theorem st_ackOwn (hP : Stable P) {src : Nat} {m : UpdAckMsg} {s : State} (h_s : P s) : P (ackOwn src m s) := by
  unfold ackOwn
  repeat' (first
      | with_reducible assumption
      | with_reducible apply st_updEnded hP
      | split)

theorem st_joinAck (hP : Stable P) {src : Nat} {batch : Nat} {row : Nat} {a : UpdAckMsg} {inv : List (Nat × Nat)} {s : State} (h_s : P s) : P (joinAck src batch row a inv s) := by
  unfold joinAck
  repeat' (first
      | with_reducible assumption
      | with_reducible apply st_updServeAll hP)

theorem st_updRelease (hP : Stable P) {s : State} (h_s : P s) : P (updRelease s) := by
  unfold updRelease
  repeat' (first
      | with_reducible assumption
      | with_reducible apply st_updFinish hP
      | with_reducible apply st_updShip hP
      | with_reducible apply st_updUpds hP
      | split
      | (with_reducible intro _)
      | with_reducible apply st_foldl
      | with_reducible apply st_foldl_snd
      | dsimp only)

theorem st_holderLost (hP : Stable P) {dev : Nat} {s : State} (h_s : P s) : P (holderLost dev s) := by
  unfold holderLost
  repeat' (first
      | with_reducible assumption
      | with_reducible apply st_updServeAll hP)

theorem st_ackArrives (hP : Stable P) {src : Nat} {m : UpdAckMsg} {s : State} (h_s : P s) : P (ackArrives src m s) := by
  unfold ackArrives
  repeat' (first
      | with_reducible assumption
      | with_reducible apply st_ackOwn hP
      | with_reducible apply st_joinAck hP
      | with_reducible apply hP.tbl
      | split)

theorem st_updArrives (hP : Stable P) {src : Nat} {m : UpdMsg} {s : State} (h_s : P s) : P (updArrives src m s) := by
  unfold updArrives
  repeat' (first
      | with_reducible assumption
      | with_reducible apply st_count hP
      | with_reducible apply st_dirRead hP
      | with_reducible apply st_send hP
      | with_reducible apply st_updRowAt hP
      | with_reducible apply st_updServed hP
      | split
      | (with_reducible intro _)
      | with_reducible apply st_foldl
      | with_reducible apply st_foldl_snd
      | dsimp only)

theorem st_updOwe (hP : Stable P) {r : RowRef} {n : Nat} {s : State} (h_s : P s) : P (updOwe r n s) := by
  unfold updOwe
  repeat' (first
      | with_reducible assumption
      | with_reducible apply st_updMigs hP)

theorem st_updBatch (hP : Stable P) {h : Hdr} {m : UpdMsg} {s : State} (h_s : P s) : P (updBatch h m s) := by
  unfold updBatch
  repeat' (first
      | with_reducible assumption
      | with_reducible apply st_deliver hP
      | with_reducible apply st_deliverHeld hP
      | with_reducible apply st_updArrives hP
      | with_reducible apply st_updOwe hP
      | split
      | (with_reducible intro _))

theorem st_invalidateArrives (hP : Stable P) {src : Nat} {r : RowRef} {s : State} (h_s : P s) : P (invalidateArrives src r s) := by
  unfold invalidateArrives
  repeat' (first
      | with_reducible assumption
      | with_reducible apply st_send hP
      | with_reducible apply hP.tbl)

theorem st_execUpdateRows (hP : Stable P) {c : Cmd} {s : State} {t : State} (h_s : P s) (e : execUpdateRows c s = .next t) : P t := by
  unfold execUpdateRows at e
  first
    | refine st_whileOn e ?_ ?_
  all_goals repeat' (first
      | with_reducible assumption
      | with_reducible apply st_updateRows hP)

theorem st_execUpdBatch (hP : Stable P) {h : Hdr} {m : UpdMsg} {s : State} {t : State} (h_s : P s) (e : execUpdBatch h m s = .next t) : P t := by
  unfold execUpdBatch at e
  first
    | refine st_whileOn e ?_ ?_
    | refine st_whileServed e ?_ ?_
    | refine st_whileDoorbell e ?_ ?_
    | (cases e)
  all_goals repeat' (first
      | with_reducible assumption
      | with_reducible apply st_updBatch hP)

theorem st_execInvalidate (hP : Stable P) {h : Hdr} {r : RowRef} {s : State} {t : State} (h_s : P s) (e : execInvalidate h r s = .next t) : P t := by
  unfold execInvalidate at e
  first
    | refine st_whileOn e ?_ ?_
    | refine st_whileServed e ?_ ?_
    | refine st_whileDoorbell e ?_ ?_
    | (cases e)
  all_goals repeat' (first
      | with_reducible assumption
      | with_reducible apply st_deliver hP
      | with_reducible apply st_invalidateArrives hP
      | split
      | (with_reducible intro _))

theorem st_execInvAck (hP : Stable P) {h : Hdr} {r : RowRef} {s : State} {t : State} (h_s : P s) (e : execInvAck h r s = .next t) : P t := by
  unfold execInvAck at e
  first
    | refine st_whileOn e ?_ ?_
    | refine st_whileServed e ?_ ?_
    | refine st_whileDoorbell e ?_ ?_
    | (cases e)
  all_goals repeat' (first
      | with_reducible assumption
      | with_reducible apply st_deliver hP
      | with_reducible apply st_invAcked hP
      | with_reducible apply st_responded hP
      | split
      | (with_reducible intro _))

theorem st_execUpdAck (hP : Stable P) {h : Hdr} {m : UpdAckMsg} {s : State} {t : State} (h_s : P s) (e : execUpdAck h m s = .next t) : P t := by
  unfold execUpdAck at e
  first
    | refine st_whileOn e ?_ ?_
    | refine st_whileServed e ?_ ?_
    | refine st_whileDoorbell e ?_ ?_
    | (cases e)
  all_goals repeat' (first
      | with_reducible assumption
      | with_reducible apply st_ackArrives hP
      | with_reducible apply st_deliver hP
      | with_reducible apply st_responded hP
      | split
      | (with_reducible intro _))

end Sys2Proof.Machine
end

