-- ==== Sys2Proof/Laws/StableGraft.lean ====
section
/-!
SUPPORT. The operations of Machine/Graft keep every stable predicate.
-/

set_option linter.unusedVariables false

namespace Sys2Proof.Machine

variable {P : State → Prop}

theorem st_setOverlay (hP : Stable P) {a0 : Overlay} {s : State} (h_s : P s) : P (setOverlay a0 s) := by
  unfold setOverlay
  repeat' (first
      | with_reducible assumption
      | with_reducible apply hP.tbl)

theorem st_overlaySetArrives (hP : Stable P) {r : RowRef} {b : Nat} {s : State} (h_s : P s) : P (overlaySetArrives r b s) := by
  unfold overlaySetArrives
  repeat' (first
      | with_reducible assumption
      | with_reducible apply st_overlayAcks hP
      | with_reducible apply st_setOverlay hP)

theorem st_setGraft (hP : Stable P) {g : GraftOp} {s : State} (h_s : P s) : P (setGraft g s) := by
  unfold setGraft
  repeat' (first
      | with_reducible assumption
      | with_reducible apply hP.tbl)

theorem st_migStart (hP : Stable P) {g : GraftOp} {s : State} (h_s : P s) : P (migStart g s) := by
  unfold migStart
  repeat' (first
      | with_reducible assumption
      | with_reducible apply st_sendAll hP)

theorem st_graftTakeover (hP : Stable P) {s : State} (h_s : P s) : P (graftTakeover s) := by
  unfold graftTakeover
  repeat' (first
      | with_reducible assumption
      | with_reducible apply st_migStart hP
      | with_reducible apply hP.tbl
      | split
      | (with_reducible intro _)
      | with_reducible apply st_foldl)

theorem st_graftEnd (hP : Stable P) {g : GraftOp} {act : Cmd → State → State} {s : State} (h_act : ∀ (y0 : Cmd) (y1 : State), P y1 → P (act y0 y1)) (h_s : P s) : P (graftEnd g act s) := by
  unfold graftEnd
  repeat' (first
      | with_reducible assumption
      | with_reducible apply hP.tbl
      | with_reducible apply h_act
      | split)

theorem st_migFinish (hP : Stable P) {g : GraftOp} {s : State} (h_s : P s) : P (migFinish g s) := by
  unfold migFinish
  repeat' (first
      | with_reducible assumption
      | with_reducible apply st_completeOk hP
      | with_reducible apply st_graftEnd hP
      | with_reducible apply st_sendAll hP
      | with_reducible apply hP.tbl
      | split
      | (with_reducible intro _))

theorem st_migCheck (hP : Stable P) {r : RowRef} {s : State} (h_s : P s) : P (migCheck r s) := by
  unfold migCheck
  repeat' (first
      | with_reducible assumption
      | with_reducible apply st_mgrCopy hP
      | with_reducible apply st_migFinish hP
      | split
      | (with_reducible intro _))

theorem st_migSpread (hP : Stable P) {g : GraftOp} {s : State} (h_s : P s) : P (migSpread g s) := by
  unfold migSpread
  repeat' (first
      | with_reducible assumption
      | with_reducible apply st_migCheck hP
      | with_reducible apply st_sendAll hP
      | with_reducible apply st_setGraft hP)

theorem st_migCopiedArrives (hP : Stable P) {r : RowRef} {s : State} (h_s : P s) : P (migCopiedArrives r s) := by
  unfold migCopiedArrives
  repeat' (first
      | with_reducible assumption
      | with_reducible apply st_migSpread hP
      | split)

theorem st_giveOwed (hP : Stable P) {u : UpdHeld} {s : State} (h_s : P s) : P (giveOwed u s) := by
  unfold giveOwed
  repeat' (first
      | with_reducible assumption
      | with_reducible apply st_send hP
      | split)

theorem st_applyHeld (hP : Stable P) {r : RowRef} {u : UpdHeld} {s : State} (h_s : P s) : P (applyHeld r u s) := by
  unfold applyHeld
  repeat' (first
      | with_reducible assumption
      | with_reducible apply st_giveOwed hP
      | with_reducible apply st_joinAck hP
      | with_reducible apply st_updRow hP
      | split)

theorem st_migForward (hP : Stable P) {r : RowRef} {s : State} (h_s : P s) : P (migForward r s) := by
  unfold migForward
  repeat' (first
      | with_reducible assumption
      | with_reducible apply st_giveOwed hP
      | with_reducible apply st_send hP
      | with_reducible apply st_updForward hP
      | with_reducible apply st_updMigs hP
      | split
      | (with_reducible intro _)
      | with_reducible apply st_foldl)

theorem st_fwdAcked (hP : Stable P) {r : RowRef} {s : State} (h_s : P s) : P (fwdAcked r s) := by
  unfold fwdAcked
  repeat' (first
      | with_reducible assumption
      | with_reducible apply st_migForward hP
      | with_reducible apply st_updMigs hP
      | split)

theorem st_graftStart (hP : Stable P) {c : Cmd} {d : List Byte} {op : Nat} {target : Nat} {r : RowRef} {s : State} (h_s : P s) : P (graftStart c d op target r s) := by
  unfold graftStart
  repeat' (first
      | with_reducible assumption
      | with_reducible apply st_faultCmd hP
      | with_reducible apply st_mgrCopy hP
      | with_reducible apply st_migStart hP
      | with_reducible apply st_send hP
      | with_reducible apply hP.tbl
      | split
      | (with_reducible intro _)
      | with_reducible apply st_foldl
      | with_reducible apply st_foldl_snd
      | dsimp only)

theorem st_graftRow (hP : Stable P) {c : Cmd} {s : State} (h_s : P s) : P (graftRow c s) := by
  unfold graftRow
  repeat' (first
      | with_reducible assumption
      | with_reducible apply st_badPacket hP
      | with_reducible apply st_complete hP
      | with_reducible apply st_completeOk hP
      | with_reducible apply st_dirRead hP
      | with_reducible apply st_graftStart hP
      | with_reducible apply st_setDirWord hP
      | with_reducible apply st_startCmd hP
      | split
      | (with_reducible intro _)
      | with_reducible apply st_foldl
      | with_reducible apply st_foldl_snd
      | dsimp only)

theorem st_dropMig (hP : Stable P) {r : RowRef} {s : State} (h_s : P s) : P (dropMig r s) := by
  unfold dropMig
  repeat' (first
      | with_reducible assumption
      | with_reducible apply hP.tbl)

theorem st_migAbandon (hP : Stable P) {r : RowRef} {s : State} (h_s : P s) : P (migAbandon r s) := by
  unfold migAbandon
  repeat' (first
      | with_reducible assumption
      | with_reducible apply st_applyHeld hP
      | with_reducible apply st_dropMig hP
      | with_reducible apply st_faultCmd hP
      | with_reducible apply st_graftEnd hP
      | with_reducible apply st_mgrCopy hP
      | split
      | (with_reducible intro _)
      | with_reducible apply st_foldl
      | with_reducible apply st_foldl_snd
      | dsimp only
      | (refine st_pair (by assumption) ?_)
      | assumption)

theorem st_migSend (hP : Stable P) {r : RowRef} {s : State} (h_s : P s) : P (migSend r s) := by
  unfold migSend
  repeat' (first
      | with_reducible assumption
      | with_reducible apply st_send hP
      | with_reducible apply st_slotRead hP
      | split
      | (with_reducible intro _)
      | with_reducible apply st_foldl
      | with_reducible apply st_foldl_snd
      | dsimp only
      | (refine st_pair (by assumption) ?_))

theorem st_repRevokeArrives (hP : Stable P) {src : Nat} {r : RowRef} {s : State} (h_s : P s) : P (repRevokeArrives src r s) := by
  unfold repRevokeArrives
  repeat' (first
      | with_reducible assumption
      | with_reducible apply st_send hP
      | with_reducible apply hP.tbl)

theorem st_setMig (hP : Stable P) {m : Mig} {s : State} (h_s : P s) : P (setMig m s) := by
  unfold setMig
  repeat' (first
      | with_reducible assumption
      | with_reducible apply hP.tbl)

theorem st_updOverlay (hP : Stable P) {r : RowRef} {f : Overlay → Overlay} {s : State} (h_s : P s) : P (updOverlay r f s) := by
  unfold updOverlay
  repeat' (first
      | with_reducible assumption
      | with_reducible apply hP.tbl)

theorem st_fillLost (hP : Stable P) {r : RowRef} {s : State} (h_s : P s) : P (fillLost r s) := by
  unfold fillLost
  repeat' (first
      | with_reducible assumption
      | with_reducible apply st_updOverlay hP)

theorem st_migReadyArrives (hP : Stable P) {r : RowRef} {s : State} (h_s : P s) : P (migReadyArrives r s) := by
  unfold migReadyArrives
  repeat' (first
      | with_reducible assumption
      | with_reducible apply st_migForward hP
      | with_reducible apply st_send hP
      | with_reducible apply st_updMigs hP
      | split
      | (with_reducible intro _)
      | with_reducible apply st_foldl
      | with_reducible apply st_foldl_snd
      | dsimp only)

theorem st_setHolders (hP : Stable P) {h : Holders} {s : State} (h_s : P s) : P (setHolders h s) := by
  unfold setHolders
  repeat' (first
      | with_reducible assumption
      | with_reducible apply hP.tbl)

theorem st_unregister (hP : Stable P) {r : RowRef} {holder : Nat} {s : State} (h_s : P s) : P (unregister r holder s) := by
  unfold unregister
  repeat' (first
      | with_reducible assumption
      | with_reducible apply st_setHolders hP)

theorem st_repLost (hP : Stable P) {r : RowRef} {holder : Nat} {s : State} (h_s : P s) : P (repLost r holder s) := by
  unfold repLost
  repeat' (first
      | with_reducible assumption
      | with_reducible apply st_faultCmd hP
      | with_reducible apply st_graftEnd hP
      | split
      | (with_reducible intro _))

theorem st_fillArrives (hP : Stable P) {r : RowRef} {l : List Byte} {s : State} (h_s : P s) : P (fillArrives r l s) := by
  unfold fillArrives
  repeat' (first
      | with_reducible assumption
      | with_reducible apply st_count hP
      | with_reducible apply st_updOverlay hP
      | split)

theorem st_repDoneTo (hP : Stable P) {r : RowRef} {holder : Nat} {s : State} (h_s : P s) : P (repDoneTo r holder s) := by
  unfold repDoneTo
  repeat' (first
      | with_reducible assumption
      | with_reducible apply st_send hP)

theorem st_repDropArrives (hP : Stable P) {r : RowRef} {holder : Nat} {s : State} (h_s : P s) : P (repDropArrives r holder s) := by
  unfold repDropArrives
  repeat' (first
      | with_reducible assumption
      | with_reducible apply st_repDoneTo hP
      | with_reducible apply st_send hP
      | with_reducible apply st_setHolders hP
      | with_reducible apply st_unregister hP
      | split
      | (with_reducible intro _)
      | with_reducible apply st_foldl
      | with_reducible apply st_foldl_snd
      | dsimp only)

theorem st_repDoneArrives (hP : Stable P) {r : RowRef} {holder : Nat} {s : State} (h_s : P s) : P (repDoneArrives r holder s) := by
  unfold repDoneArrives
  repeat' (first
      | with_reducible assumption
      | with_reducible apply st_completeOk hP
      | with_reducible apply st_graftEnd hP
      | with_reducible apply hP.tbl
      | split
      | (with_reducible intro _))

theorem st_repAcked (hP : Stable P) {dev : Nat} {r : RowRef} {s : State} (h_s : P s) : P (repAcked dev r s) := by
  unfold repAcked
  repeat' (first
      | with_reducible assumption
      | with_reducible apply st_migSend hP
      | with_reducible apply st_repDoneTo hP
      | with_reducible apply st_unregister hP
      | with_reducible apply st_updMigs hP
      | split)

theorem st_migEnds (hP : Stable P) {r : RowRef} {s : State} (h_s : P s) : P (migEnds r s) := by
  unfold migEnds
  repeat' (first
      | with_reducible assumption
      | with_reducible apply st_updMigs hP)

theorem st_migStores (hP : Stable P) {r : RowRef} {l : List Byte} {s : State} (h_s : P s) : P (migStores r l s) := by
  unfold migStores
  repeat' (first
      | with_reducible assumption
      | with_reducible apply st_send hP
      | with_reducible apply st_updMigs hP
      | split)

theorem st_overlayAckArrives (hP : Stable P) {src : Nat} {r : RowRef} {s : State} (h_s : P s) : P (overlayAckArrives src r s) := by
  unfold overlayAckArrives
  repeat' (first
      | with_reducible assumption
      | with_reducible apply st_migCheck hP
      | with_reducible apply st_setGraft hP
      | split)

theorem st_migBegins (hP : Stable P) {r : RowRef} {b : Nat} {a : Nat} {c : Nat} {s : State} (h_s : P s) : P (migBegins r b a c s) := by
  unfold migBegins
  repeat' (first
      | with_reducible assumption
      | with_reducible apply st_migSend hP
      | with_reducible apply st_send hP
      | with_reducible apply st_sendAll hP
      | with_reducible apply st_setMig hP
      | with_reducible apply st_unregister hP
      | split
      | (with_reducible intro _)
      | with_reducible apply st_foldl)

theorem st_repFillArrives (hP : Stable P) {src : Nat} {r : RowRef} {s : State} (h_s : P s) : P (repFillArrives src r s) := by
  unfold repFillArrives
  repeat' (first
      | with_reducible assumption
      | with_reducible apply st_send hP
      | with_reducible apply st_slotRead hP
      | split
      | (with_reducible intro _)
      | with_reducible apply st_foldl
      | with_reducible apply st_foldl_snd
      | dsimp only
      | (refine st_pair (by assumption) ?_))

theorem st_graftDown (hP : Stable P) {dev : Nat} {s : State} (h_s : P s) : P (graftDown dev s) := by
  unfold graftDown
  repeat' (first
      | with_reducible assumption
      | with_reducible apply st_fwdAcked hP
      | with_reducible apply st_holderLost hP
      | with_reducible apply st_migAbandon hP
      | with_reducible apply st_migCheck hP
      | with_reducible apply st_repAcked hP
      | with_reducible apply st_repLost hP
      | split
      | (with_reducible intro _)
      | with_reducible apply st_foldl)

theorem st_repGrantArrives (hP : Stable P) {src : Nat} {r : RowRef} {s : State} (h_s : P s) : P (repGrantArrives src r s) := by
  unfold repGrantArrives
  repeat' (first
      | with_reducible assumption
      | with_reducible apply st_send hP
      | with_reducible apply st_setOverlay hP
      | split)

theorem st_migFwdArrives (hP : Stable P) {src : Nat} {r : RowRef} {s : State} (h_s : P s) : P (migFwdArrives src r s) := by
  unfold migFwdArrives
  repeat' (first
      | with_reducible assumption
      | with_reducible apply st_send hP
      | with_reducible apply st_updMigs hP)

theorem st_rowFetchArrives (hP : Stable P) {src : Nat} {r : RowRef} {tag : Nat} {s : State} (h_s : P s) : P (rowFetchArrives src r tag s) := by
  unfold rowFetchArrives
  repeat' (first
      | with_reducible assumption
      | with_reducible apply st_send hP
      | split)

theorem st_execRepAck (hP : Stable P) {h : Hdr} {r : RowRef} {s : State} {t : State} (h_s : P s) (e : execRepAck h r s = .next t) : P t := by
  unfold execRepAck at e
  first
    | refine st_whileOn e ?_ ?_
    | refine st_whileServed e ?_ ?_
    | refine st_whileDoorbell e ?_ ?_
    | (cases e)
  all_goals repeat' (first
      | with_reducible assumption
      | with_reducible apply st_deliver hP
      | with_reducible apply st_repAcked hP
      | with_reducible apply st_responded hP
      | split
      | (with_reducible intro _))

theorem st_execRepFill (hP : Stable P) {h : Hdr} {r : RowRef} {s : State} {t : State} (h_s : P s) (e : execRepFill h r s = .next t) : P t := by
  unfold execRepFill at e
  first
    | refine st_whileOn e ?_ ?_
    | refine st_whileServed e ?_ ?_
    | refine st_whileDoorbell e ?_ ?_
    | (cases e)
  all_goals repeat' (first
      | with_reducible assumption
      | with_reducible apply st_deliver hP
      | with_reducible apply st_repFillArrives hP
      | split
      | (with_reducible intro _))

theorem st_execMigrationAbandon (hP : Stable P) {r : RowRef} {s : State} {t : State} (h_s : P s) (e : execMigrationAbandon r s = .next t) : P t := by
  unfold execMigrationAbandon at e
  first
    | refine st_whileOn e ?_ ?_
  all_goals repeat' (first
      | with_reducible assumption
      | with_reducible apply st_migAbandon hP)

theorem st_execMigBegin (hP : Stable P) {h : Hdr} {r : RowRef} {newOwner : Nat} {oldOwner : Nat} {replica : Nat} {s : State} {t : State} (h_s : P s) (e : execMigBegin h r newOwner oldOwner replica s = .next t) : P t := by
  unfold execMigBegin at e
  first
    | refine st_whileOn e ?_ ?_
    | refine st_whileServed e ?_ ?_
    | refine st_whileDoorbell e ?_ ?_
    | (cases e)
  all_goals repeat' (first
      | with_reducible assumption
      | with_reducible apply st_deliver hP
      | with_reducible apply st_migBegins hP
      | split
      | (with_reducible intro _))

theorem st_execRepDone (hP : Stable P) {h : Hdr} {r : RowRef} {holder : Nat} {s : State} {t : State} (h_s : P s) (e : execRepDone h r holder s = .next t) : P t := by
  unfold execRepDone at e
  first
    | refine st_whileOn e ?_ ?_
    | refine st_whileServed e ?_ ?_
    | refine st_whileDoorbell e ?_ ?_
    | (cases e)
  all_goals repeat' (first
      | with_reducible assumption
      | with_reducible apply st_deliver hP
      | with_reducible apply st_repDoneArrives hP
      | with_reducible apply st_responded hP
      | split
      | (with_reducible intro _))

theorem st_execMigEnd (hP : Stable P) {h : Hdr} {r : RowRef} {newOwner : Nat} {oldOwner : Nat} {replica : Nat} {s : State} {t : State} (h_s : P s) (e : execMigEnd h r newOwner oldOwner replica s = .next t) : P t := by
  unfold execMigEnd at e
  first
    | refine st_whileOn e ?_ ?_
    | refine st_whileServed e ?_ ?_
    | refine st_whileDoorbell e ?_ ?_
    | (cases e)
  all_goals repeat' (first
      | with_reducible assumption
      | with_reducible apply st_deliver hP
      | with_reducible apply st_migEnds hP
      | split
      | (with_reducible intro _))

theorem st_execOverlaySet (hP : Stable P) {h : Hdr} {r : RowRef} {newOwner : Nat} {s : State} {t : State} (h_s : P s) (e : execOverlaySet h r newOwner s = .next t) : P t := by
  unfold execOverlaySet at e
  first
    | refine st_whileOn e ?_ ?_
    | refine st_whileServed e ?_ ?_
    | refine st_whileDoorbell e ?_ ?_
    | (cases e)
  all_goals repeat' (first
      | with_reducible assumption
      | with_reducible apply st_deliver hP
      | with_reducible apply st_overlaySetArrives hP
      | split
      | (with_reducible intro _))

theorem st_execFillData (hP : Stable P) {h : Hdr} {r : RowRef} {slot : List Byte} {s : State} {t : State} (h_s : P s) (e : execFillData h r slot s = .next t) : P t := by
  unfold execFillData at e
  first
    | refine st_whileOn e ?_ ?_
    | refine st_whileServed e ?_ ?_
    | refine st_whileDoorbell e ?_ ?_
    | (cases e)
  all_goals repeat' (first
      | with_reducible assumption
      | with_reducible apply st_deliver hP
      | with_reducible apply st_fillArrives hP
      | with_reducible apply st_responded hP
      | split
      | (with_reducible intro _))

theorem st_execRepGrant (hP : Stable P) {h : Hdr} {r : RowRef} {s : State} {t : State} (h_s : P s) (e : execRepGrant h r s = .next t) : P t := by
  unfold execRepGrant at e
  first
    | refine st_whileOn e ?_ ?_
    | refine st_whileServed e ?_ ?_
    | refine st_whileDoorbell e ?_ ?_
    | (cases e)
  all_goals repeat' (first
      | with_reducible assumption
      | with_reducible apply st_deliver hP
      | with_reducible apply st_repGrantArrives hP
      | split
      | (with_reducible intro _))

theorem st_execMigData (hP : Stable P) {h : Hdr} {r : RowRef} {slot : List Byte} {s : State} {t : State} (h_s : P s) (e : execMigData h r slot s = .next t) : P t := by
  unfold execMigData at e
  first
    | refine st_whileOn e ?_ ?_
    | refine st_whileServed e ?_ ?_
    | refine st_whileDoorbell e ?_ ?_
    | (cases e)
  all_goals repeat' (first
      | with_reducible assumption
      | with_reducible apply st_deliver hP
      | with_reducible apply st_migStores hP
      | split
      | (with_reducible intro _))

theorem st_execMigReady (hP : Stable P) {h : Hdr} {r : RowRef} {s : State} {t : State} (h_s : P s) (e : execMigReady h r s = .next t) : P t := by
  unfold execMigReady at e
  first
    | refine st_whileOn e ?_ ?_
    | refine st_whileServed e ?_ ?_
    | refine st_whileDoorbell e ?_ ?_
    | (cases e)
  all_goals repeat' (first
      | with_reducible assumption
      | with_reducible apply st_deliver hP
      | with_reducible apply st_migReadyArrives hP
      | split
      | (with_reducible intro _))

theorem st_execRepRevoke (hP : Stable P) {h : Hdr} {r : RowRef} {s : State} {t : State} (h_s : P s) (e : execRepRevoke h r s = .next t) : P t := by
  unfold execRepRevoke at e
  first
    | refine st_whileOn e ?_ ?_
    | refine st_whileServed e ?_ ?_
    | refine st_whileDoorbell e ?_ ?_
    | (cases e)
  all_goals repeat' (first
      | with_reducible assumption
      | with_reducible apply st_deliver hP
      | with_reducible apply st_repRevokeArrives hP
      | split
      | (with_reducible intro _))

theorem st_execOverlayAck (hP : Stable P) {h : Hdr} {r : RowRef} {s : State} {t : State} (h_s : P s) (e : execOverlayAck h r s = .next t) : P t := by
  unfold execOverlayAck at e
  first
    | refine st_whileOn e ?_ ?_
    | refine st_whileServed e ?_ ?_
    | refine st_whileDoorbell e ?_ ?_
    | (cases e)
  all_goals repeat' (first
      | with_reducible assumption
      | with_reducible apply st_deliver hP
      | with_reducible apply st_overlayAckArrives hP
      | with_reducible apply st_responded hP
      | split
      | (with_reducible intro _))

theorem st_execRepDrop (hP : Stable P) {h : Hdr} {r : RowRef} {holder : Nat} {s : State} {t : State} (h_s : P s) (e : execRepDrop h r holder s = .next t) : P t := by
  unfold execRepDrop at e
  first
    | refine st_whileOn e ?_ ?_
    | refine st_whileServed e ?_ ?_
    | refine st_whileDoorbell e ?_ ?_
    | (cases e)
  all_goals repeat' (first
      | with_reducible assumption
      | with_reducible apply st_deliver hP
      | with_reducible apply st_repDropArrives hP
      | split
      | (with_reducible intro _))

theorem st_execMigCopied (hP : Stable P) {h : Hdr} {r : RowRef} {s : State} {t : State} (h_s : P s) (e : execMigCopied h r s = .next t) : P t := by
  unfold execMigCopied at e
  first
    | refine st_whileOn e ?_ ?_
    | refine st_whileServed e ?_ ?_
    | refine st_whileDoorbell e ?_ ?_
    | (cases e)
  all_goals repeat' (first
      | with_reducible assumption
      | with_reducible apply st_deliver hP
      | with_reducible apply st_migCopiedArrives hP
      | split
      | (with_reducible intro _))

theorem st_execMigFwd (hP : Stable P) {h : Hdr} {r : RowRef} {s : State} {t : State} (h_s : P s) (e : execMigFwd h r s = .next t) : P t := by
  unfold execMigFwd at e
  first
    | refine st_whileOn e ?_ ?_
    | refine st_whileServed e ?_ ?_
    | refine st_whileDoorbell e ?_ ?_
    | (cases e)
  all_goals repeat' (first
      | with_reducible assumption
      | with_reducible apply st_deliver hP
      | with_reducible apply st_migFwdArrives hP
      | split
      | (with_reducible intro _))

theorem st_execRepAdd (hP : Stable P) {h : Hdr} {r : RowRef} {holder : Nat} {s : State} {t : State} (h_s : P s) (e : execRepAdd h r holder s = .next t) : P t := by
  unfold execRepAdd at e
  first
    | refine st_whileOn e ?_ ?_
    | refine st_whileServed e ?_ ?_
    | refine st_whileDoorbell e ?_ ?_
    | (cases e)
  all_goals repeat' (first
      | with_reducible assumption
      | with_reducible apply st_deliver hP
      | with_reducible apply st_repDoneTo hP
      | with_reducible apply st_send hP
      | with_reducible apply st_setHolders hP
      | split
      | (with_reducible intro _)
      | with_reducible apply st_foldl
      | with_reducible apply st_foldl_snd
      | dsimp only)

theorem st_execMigFwdAck (hP : Stable P) {h : Hdr} {r : RowRef} {s : State} {t : State} (h_s : P s) (e : execMigFwdAck h r s = .next t) : P t := by
  unfold execMigFwdAck at e
  first
    | refine st_whileOn e ?_ ?_
    | refine st_whileServed e ?_ ?_
    | refine st_whileDoorbell e ?_ ?_
    | (cases e)
  all_goals repeat' (first
      | with_reducible assumption
      | with_reducible apply st_deliver hP
      | with_reducible apply st_fwdAcked hP
      | with_reducible apply st_responded hP
      | split
      | (with_reducible intro _))

theorem st_execRowFetch (hP : Stable P) {h : Hdr} {r : RowRef} {tag : Nat} {s : State} {t : State} (h_s : P s) (e : execRowFetch h r tag s = .next t) : P t := by
  unfold execRowFetch at e
  first
    | refine st_whileOn e ?_ ?_
    | refine st_whileServed e ?_ ?_
    | refine st_whileDoorbell e ?_ ?_
    | (cases e)
  all_goals repeat' (first
      | with_reducible assumption
      | with_reducible apply st_deliver hP
      | with_reducible apply st_rowFetchArrives hP
      | split
      | (with_reducible intro _))

theorem st_execGraftRow (hP : Stable P) {c : Cmd} {s : State} {t : State} (h_s : P s) (e : execGraftRow c s = .next t) : P t := by
  unfold execGraftRow at e
  first
    | refine st_whileOn e ?_ ?_
  all_goals repeat' (first
      | with_reducible assumption
      | with_reducible apply st_graftRow hP)

end Sys2Proof.Machine
end

