-- ==== Sys2Proof/Laws/StableVector.lean ====
section
/-!
SUPPORT. The operations of Machine/Vector keep every stable predicate.
-/

set_option linter.unusedVariables false

namespace Sys2Proof.Machine

variable {P : State → Prop}

theorem st_redRow (hP : Stable P) {k : Nat} {c : VChain} {r : Nat} {l : List Nat} {slot : RedSlot} {s : State} (h_s : P s) : P (redRow k c r l slot s).2 := by
  unfold redRow
  repeat' (first
      | with_reducible assumption
      | with_reducible apply st_countN hP)

theorem st_setFront (hP : Stable P) {k : Nat} {c : VChain} {s : State} (h_s : P s) : P (setFront k c s) := by
  unfold setFront
  repeat' (first
      | with_reducible assumption
      | with_reducible apply st_updGrove hP)

theorem st_redPerRow (hP : Stable P) {k : Nat} {exact : Bool} {c : VChain} {r : Nat} {l : List Nat} {s : State} (h_s : P s) : P (redPerRow k exact c r l s) := by
  unfold redPerRow
  repeat' (first
      | with_reducible assumption
      | with_reducible apply st_drawFree hP
      | with_reducible apply st_gsWrite hP
      | with_reducible apply st_redRow hP
      | with_reducible apply st_setFront hP
      | with_reducible apply st_sumPass hP
      | with_reducible apply hP.free
      | split)

theorem st_chainEscHeader (hP : Stable P) {k : Nat} {c : VChain} {s : State} (h_s : P s) : P (chainEscHeader k c s) := by
  unfold chainEscHeader
  repeat' (first
      | with_reducible assumption
      | with_reducible apply st_gsWrite hP
      | split)

theorem st_accExcept (hP : Stable P) {α : Type} {r : Except Flt α}  : AccSt P (accExcept r) := by
  unfold accExcept
  repeat' (first
      | with_reducible assumption
      | with_reducible apply st_accFail hP
      | with_reducible apply accRes_ok
      | with_reducible apply accRes_wait
      | with_reducible apply accRes_fail
      | with_reducible apply accSt_bind
      | with_reducible apply accSt_pure
      | with_reducible apply accSt_foldlM
      | with_reducible apply accSt_map
      | with_reducible apply accSt_mapM
      | split)

theorem st_narrowRow (hP : Stable P) {k : Nat} {c : VChain} {f : Fmt} {l : List (Nat × Option Nat)}  : AccSt P (narrowRow k c f l) := by
  unfold narrowRow
  repeat' (first
      | with_reducible assumption
      | with_reducible apply st_accExcept hP
      | with_reducible apply accRes_ok
      | with_reducible apply accRes_wait
      | with_reducible apply accRes_fail
      | with_reducible apply accSt_bind
      | with_reducible apply accSt_pure
      | with_reducible apply accSt_foldlM
      | with_reducible apply accSt_map
      | with_reducible apply accSt_mapM
      | split
      | (with_reducible intro _)
      | with_reducible apply st_foldl
      | with_reducible apply st_foldl_snd
      | dsimp only
      | (refine st_pair (by assumption) ?_)
      | assumption
      | with_reducible apply accSt_fun
      | (with_reducible refine accRes_run ?_ ?_))

theorem st_operandRow (hP : Stable P) {k : Nat} {c : VChain} {r : Nat} {i : Nat}  : AccSt P (operandRow k c r i) := by
  unfold operandRow
  repeat' (first
      | with_reducible assumption
      | with_reducible apply st_gsReadAcc hP
      | with_reducible apply accRes_ok
      | with_reducible apply accRes_wait
      | with_reducible apply accRes_fail
      | with_reducible apply accSt_bind
      | with_reducible apply accSt_pure
      | with_reducible apply accSt_foldlM
      | with_reducible apply accSt_map
      | with_reducible apply accSt_mapM
      | split
      | (with_reducible intro _)
      | with_reducible apply st_foldl
      | with_reducible apply st_foldl_snd
      | dsimp only)

theorem st_stageRow (hP : Stable P) {k : Nat} {c : VChain} {exact : Bool} {r : Nat} {w : Nat} {l : List Nat}  : AccSt P (stageRow k c exact r w l) := by
  unfold stageRow
  repeat' (first
      | with_reducible assumption
      | with_reducible apply st_operandRow hP
      | with_reducible apply st_rowOp hP
      | with_reducible apply accRes_ok
      | with_reducible apply accRes_wait
      | with_reducible apply accRes_fail
      | with_reducible apply accSt_bind
      | with_reducible apply accSt_pure
      | with_reducible apply accSt_foldlM
      | with_reducible apply accSt_map
      | with_reducible apply accSt_mapM
      | split
      | (with_reducible intro _)
      | with_reducible apply st_foldl
      | with_reducible apply st_foldl_snd
      | dsimp only
      | (refine st_pair (by assumption) ?_)
      | assumption
      | with_reducible apply accSt_fun)

theorem st_stagesRow (hP : Stable P) {k : Nat} {c : VChain} {exact : Bool} {r : Nat} {a4 : List Nat} {a5 : List Nat}  : AccSt P (stagesRow k c exact r a4 a5) := by
  induction a4 generalizing a5 with
  | nil =>
    unfold stagesRow
    repeat' (first
        | with_reducible assumption
        | with_reducible apply st_stageRow hP
        | with_reducible apply accRes_ok
        | with_reducible apply accRes_wait
        | with_reducible apply accRes_fail
        | with_reducible apply accSt_bind
        | with_reducible apply accSt_pure)
  | cons _ _ ih =>
    unfold stagesRow
    repeat' (first
        | with_reducible assumption
        | with_reducible apply ih
        | with_reducible apply st_stageRow hP
        | with_reducible apply accRes_ok
        | with_reducible apply accRes_wait
        | with_reducible apply accRes_fail
        | with_reducible apply accSt_bind)

theorem st_redSlotRow (hP : Stable P) {k : Nat} {exact : Bool} {c : VChain} {r : Nat} {l : List Nat} {s : State} (h_s : P s) : P (redSlotRow k exact c r l s) := by
  unfold redSlotRow
  repeat' (first
      | with_reducible assumption
      | with_reducible apply st_freePartials hP
      | with_reducible apply st_redRow hP
      | with_reducible apply st_setFront hP
      | with_reducible apply st_updGrove hP
      | split)

theorem st_reduceRow (hP : Stable P) {k : Nat} {exact : Bool} {c : VChain} {r : Nat} {l : List Nat} {s : State} (h_s : P s) : P (reduceRow k exact c r l s) := by
  unfold reduceRow
  repeat' (first
      | with_reducible assumption
      | with_reducible apply st_redPerRow hP
      | with_reducible apply st_redSlotRow hP
      | split)

theorem st_outputRow (hP : Stable P) {k : Nat} {c : VChain} {r : Nat} {l : List Nat}  : AccSt P (outputRow k c r l) := by
  unfold outputRow
  repeat' (first
      | with_reducible assumption
      | with_reducible apply st_accDo hP
      | with_reducible apply st_accExcept hP
      | with_reducible apply st_countN hP
      | with_reducible apply st_gsWrite hP
      | with_reducible apply accRes_ok
      | with_reducible apply accRes_wait
      | with_reducible apply accRes_fail
      | with_reducible apply accSt_bind
      | with_reducible apply accSt_pure
      | with_reducible apply accSt_foldlM
      | with_reducible apply accSt_map
      | with_reducible apply accSt_mapM
      | split
      | (with_reducible intro _)
      | with_reducible apply st_foldl
      | with_reducible apply st_foldl_snd
      | dsimp only
      | (refine st_pair (by assumption) ?_)
      | assumption
      | with_reducible apply accSt_fun
      | (with_reducible refine accRes_run ?_ ?_))

theorem st_chainRow (hP : Stable P) {k : Nat} {xs : List Nat}  : AccSt P (chainRow k xs) := by
  unfold chainRow
  repeat' (first
      | with_reducible assumption
      | with_reducible apply st_accDo hP
      | with_reducible apply st_countN hP
      | with_reducible apply st_evt hP
      | with_reducible apply st_outputRow hP
      | with_reducible apply st_reduceRow hP
      | with_reducible apply st_setFront hP
      | with_reducible apply st_stagesRow hP
      | with_reducible apply accRes_ok
      | with_reducible apply accRes_wait
      | with_reducible apply accRes_fail
      | with_reducible apply accSt_bind
      | with_reducible apply accSt_pure
      | with_reducible apply accSt_foldlM
      | with_reducible apply accSt_map
      | with_reducible apply accSt_mapM
      | split
      | (with_reducible intro _)
      | with_reducible apply st_foldl
      | with_reducible apply st_foldl_snd
      | dsimp only
      | (refine st_pair (by assumption) ?_)
      | assumption
      | with_reducible apply accSt_fun
      | (with_reducible refine accRes_run ?_ ?_))

theorem st_storeRow (hP : Stable P) {k : Nat} {c : VChain}  : AccSt P (storeRow k c) := by
  unfold storeRow
  repeat' (first
      | with_reducible assumption
      | with_reducible apply st_chainRow hP
      | with_reducible apply st_gsReadAcc hP
      | with_reducible apply st_narrowRow hP
      | with_reducible apply accRes_ok
      | with_reducible apply accRes_wait
      | with_reducible apply accRes_fail
      | with_reducible apply accSt_bind
      | with_reducible apply accSt_pure
      | with_reducible apply accSt_foldlM
      | with_reducible apply accSt_map
      | with_reducible apply accSt_mapM
      | split
      | (with_reducible intro _))

theorem st_chainFault (hP : Stable P) {k : Nat} {f : Flt} {s : State} (h_s : P s) : P (chainFault k f s) := by
  unfold chainFault
  repeat' (first
      | with_reducible assumption
      | with_reducible apply st_groveFault hP
      | split)

theorem st_runChain (hP : Stable P) {k : Nat} {a : Acc Unit} {s : State} (h_a : AccSt P a) (h_s : P s) : P (runChain k a s).2 := by
  unfold runChain
  repeat' (first
      | with_reducible assumption
      | with_reducible apply st_chainFault hP
      | with_reducible apply accRes_ok
      | with_reducible apply accRes_wait
      | with_reducible apply accRes_fail
      | with_reducible apply accSt_bind
      | with_reducible apply accSt_pure
      | with_reducible apply accSt_foldlM
      | with_reducible apply accSt_map
      | with_reducible apply accSt_mapM
      | with_reducible apply h_a
      | split
      | (with_reducible intro _)
      | with_reducible apply st_foldl
      | with_reducible apply st_foldl_snd
      | dsimp only
      | (refine st_pair (by assumption) ?_)
      | assumption
      | with_reducible apply accSt_fun
      | (with_reducible refine accRes_run ?_ ?_)
      | (refine accSt_ok ?_ (by assumption) ?_)
      | (refine accSt_fail ?_ (by assumption) ?_)
      | (refine accSt_wait ?_ (by assumption) ?_))

theorem st_mergeRow (hP : Stable P) {k : Nat} {c : VChain}  : AccSt P (mergeRow k c) := by
  unfold mergeRow
  repeat' (first
      | with_reducible assumption
      | with_reducible apply st_accDo hP
      | with_reducible apply st_gsReadAcc hP
      | with_reducible apply st_gsWrite hP
      | with_reducible apply st_setFront hP
      | with_reducible apply st_updGrove hP
      | with_reducible apply hP.free
      | with_reducible apply accRes_ok
      | with_reducible apply accRes_wait
      | with_reducible apply accRes_fail
      | with_reducible apply accSt_bind
      | with_reducible apply accSt_pure
      | with_reducible apply accSt_foldlM
      | with_reducible apply accSt_map
      | with_reducible apply accSt_mapM
      | split
      | (with_reducible intro _)
      | with_reducible apply st_foldl
      | with_reducible apply st_foldl_snd
      | dsimp only)

theorem st_helixRow (hP : Stable P) {k : Nat} {c : VChain} {s : State} (h_s : P s) : P (helixRow k c s).2 := by
  unfold helixRow
  repeat' (first
      | with_reducible assumption
      | with_reducible apply st_chainRow hP
      | with_reducible apply st_feedBytes hP
      | with_reducible apply st_feedCodes hP
      | with_reducible apply st_helixFault hP
      | with_reducible apply st_narrowRow hP
      | with_reducible apply st_runChain hP
      | with_reducible apply accRes_ok
      | with_reducible apply accRes_wait
      | with_reducible apply accRes_fail
      | with_reducible apply accSt_bind
      | with_reducible apply accSt_pure
      | with_reducible apply accSt_foldlM
      | with_reducible apply accSt_map
      | with_reducible apply accSt_mapM
      | with_reducible apply feedSt_ok
      | exact feedSt_late
      | exact feedSt_bad
      | split
      | (with_reducible intro _)
      | with_reducible apply st_foldl
      | with_reducible apply st_foldl_snd
      | dsimp only
      | (refine st_pair (by assumption) ?_)
      | (refine feedSt_elim (by assumption) ?_))

theorem st_chainRows (hP : Stable P) {k : Nat} {a1 : Nat} {a2 : State} (h_a2 : P a2) : P (chainRows k a1 a2) := by
  induction a1 generalizing a2 with
  | zero =>
    unfold chainRows
    repeat' (first
        | with_reducible assumption)
  | succ _ ih =>
    unfold chainRows
    repeat' (first
        | with_reducible assumption
        | with_reducible apply ih
        | with_reducible apply st_helixRow hP
        | with_reducible apply st_mergeRow hP
        | with_reducible apply st_runChain hP
        | with_reducible apply st_storeRow hP
        | with_reducible apply accRes_ok
        | with_reducible apply accRes_wait
        | with_reducible apply accRes_fail
        | with_reducible apply accSt_bind
        | with_reducible apply accSt_pure
        | with_reducible apply accSt_foldlM
        | with_reducible apply accSt_map
        | with_reducible apply accSt_mapM
        | split
        | (with_reducible intro _)
        | with_reducible apply st_foldl
        | with_reducible apply st_foldl_snd
        | dsimp only
        | (refine st_pair (by assumption) ?_))

theorem st_chainSumEnd (hP : Stable P) {k : Nat} {c : VChain} {s : State} (h_s : P s) : P (chainSumEnd k c s) := by
  unfold chainSumEnd
  repeat' (first
      | with_reducible assumption
      | with_reducible apply st_freeTotal hP
      | with_reducible apply st_updGrove hP
      | split)

theorem st_chainFinish (hP : Stable P) {k : Nat} {c : VChain} {s : State} (h_s : P s) : P (chainFinish k c s) := by
  unfold chainFinish
  repeat' (first
      | with_reducible assumption
      | with_reducible apply st_chainEscHeader hP
      | with_reducible apply st_chainSumEnd hP
      | with_reducible apply st_count hP
      | with_reducible apply st_gsWrite hP
      | with_reducible apply st_releaseToken hP
      | with_reducible apply st_updGrove hP
      | split)

theorem st_chainComplete (hP : Stable P) {k : Nat} {s : State} (h_s : P s) : P (chainComplete k s) := by
  unfold chainComplete
  repeat' (first
      | with_reducible assumption
      | with_reducible apply st_chainFinish hP
      | with_reducible apply st_chainRows hP
      | split
      | (with_reducible intro _)
      | with_reducible apply st_foldl
      | with_reducible apply st_foldl_snd
      | dsimp only)

theorem st_chainStart (hP : Stable P) {k : Nat} {s : State} (h_s : P s) : P (chainStart k s) := by
  unfold chainStart
  repeat' (first
      | with_reducible assumption
      | with_reducible apply st_setFront hP
      | with_reducible apply st_updGrove hP
      | with_reducible apply hP.free
      | split)

theorem st_execChainComplete (hP : Stable P) {k : Nat} {s : State} {t : State} (h_s : P s) (e : execChainComplete k s = .next t) : P t := by
  unfold execChainComplete at e
  first
    | refine st_whileOn e ?_ ?_
  all_goals repeat' (first
      | with_reducible assumption
      | with_reducible apply st_chainComplete hP)

theorem st_execChainStart (hP : Stable P) {k : Nat} {s : State} {t : State} (h_s : P s) (e : execChainStart k s = .next t) : P t := by
  unfold execChainStart at e
  first
    | refine st_whileOn e ?_ ?_
  all_goals repeat' (first
      | with_reducible assumption
      | with_reducible apply st_chainStart hP)

end Sys2Proof.Machine
end

