-- ==== Sys2Proof/Laws/StableLattice.lean ====
section
/-!
SUPPORT. The operations of Machine/Lattice keep every stable predicate.
-/

set_option linter.unusedVariables false

namespace Sys2Proof.Machine

variable {P : State → Prop}

/-- A result whose states have `P`. -/
def GotSt (P : State → Prop) {α : Type} : Got α → Prop
  | .ok _ t => P t
  | .stop t => P t
  | .late => True

theorem gotSt_ok {α : Type} {x : α} {t : State} (h : P t) : GotSt P (.ok x t) := h
theorem gotSt_stop {α : Type} {t : State} (h : P t) : GotSt P (.stop t : Got α) := h
theorem gotSt_late {α : Type} : GotSt P (.late : Got α) := trivial
theorem gotSt_elim {α : Type} {r : Got α} {x : α} {t : State} (e : r = .ok x t) (h : GotSt P r) : P t := by subst e; exact h
theorem gotSt_elim_stop {α : Type} {r : Got α} {t : State} (e : r = .stop t) (h : GotSt P r) : P t := by subst e; exact h

theorem st_tileDone (hP : Stable P) {k : Nat} {t : Tile} {s : State} (h_s : P s) : P (tileDone k t s) := by
  unfold tileDone
  repeat' (first
      | with_reducible assumption
      | with_reducible apply st_count hP
      | with_reducible apply st_countN hP
      | with_reducible apply st_releaseToken hP
      | with_reducible apply st_updGrove hP)

theorem st_drainBlock (hP : Stable P) {k : Nat} {L : Nat} {hit : Option Nat} {t : Tile} {s : State} (h_s : P s) : P (drainBlock k L hit t s).2 := by
  unfold drainBlock
  repeat' (first
      | with_reducible assumption
      | with_reducible apply st_regField hP
      | split)

theorem st_writeNarrow (hP : Stable P) {k : Nat} {t : Tile} {f : Fmt} {bias : List Nat} {s : State} (h_s : P s) : P (writeNarrow k t f bias s) := by
  unfold writeNarrow
  repeat' (first
      | with_reducible assumption
      | with_reducible apply st_countN hP
      | with_reducible apply st_gsWrite hP
      | split
      | (with_reducible intro _)
      | with_reducible apply st_foldl)

theorem st_writeFloat (hP : Stable P) {k : Nat} {t : Tile} {f : FloatFmt} {bytes : Nat} {bias : List Nat} {s : State} (h_s : P s) : P (writeFloat k t f bytes bias s) := by
  unfold writeFloat
  repeat' (first
      | with_reducible assumption
      | with_reducible apply st_countN hP
      | with_reducible apply st_gsWrite hP
      | split
      | (with_reducible intro _)
      | with_reducible apply st_foldl)

theorem st_feedChain (hP : Stable P) {k : Nat} {a1 : List (List Nat)} {a2 : State} (h_a2 : P a2) : P (feedChain k a1 a2).2 := by
  induction a1 generalizing a2 with
  | nil =>
    unfold feedChain
    repeat' (first
        | with_reducible assumption)
  | cons _ _ ih =>
    unfold feedChain
    repeat' (first
        | with_reducible assumption
        | with_reducible apply ih
        | with_reducible apply st_chainRow hP
        | with_reducible apply st_runChain hP
        | with_reducible apply accRes_ok
        | with_reducible apply accRes_wait
        | with_reducible apply accRes_fail
        | with_reducible apply accSt_bind
        | with_reducible apply accSt_pure
        | with_reducible apply accSt_foldlM
        | with_reducible apply accSt_map
        | with_reducible apply accSt_mapM
        | split
        | (with_reducible intro _)
        | with_reducible apply st_foldl
        | with_reducible apply st_foldl_snd
        | dsimp only
        | (refine st_pair (by assumption) ?_))

theorem st_tileWrite (hP : Stable P) {k : Nat} {t : Tile} {s : State} (h_s : P s) : P (tileWrite k t s) := by
  unfold tileWrite
  repeat' (first
      | with_reducible assumption
      | with_reducible apply st_countN hP
      | with_reducible apply st_feedChain hP
      | with_reducible apply st_groveFault hP
      | with_reducible apply st_gsReadAcc hP
      | with_reducible apply st_tileDone hP
      | with_reducible apply st_writeFloat hP
      | with_reducible apply st_writeNarrow hP
      | with_reducible apply hP.free
      | with_reducible apply accRes_ok
      | with_reducible apply accRes_wait
      | with_reducible apply accRes_fail
      | with_reducible apply accSt_bind
      | with_reducible apply accSt_pure
      | with_reducible apply accSt_foldlM
      | with_reducible apply accSt_map
      | with_reducible apply accSt_mapM
      | split
      | (with_reducible intro _)
      | with_reducible apply st_foldl
      | with_reducible apply st_foldl_snd
      | dsimp only
      | (refine st_pair (by assumption) ?_)
      | assumption
      | with_reducible apply accSt_fun
      | (with_reducible refine accRes_run ?_ ?_)
      | (refine accSt_ok ?_ (by assumption) ?_)
      | (refine accSt_fail ?_ (by assumption) ?_)
      | (refine accSt_wait ?_ (by assumption) ?_))

theorem st_setTile (hP : Stable P) {k : Nat} {i : Nat} {t : Tile} {s : State} (h_s : P s) : P (setTile k i t s) := by
  unfold setTile
  repeat' (first
      | with_reducible assumption
      | with_reducible apply st_updGrove hP)

theorem st_tileUse (hP : Stable P) {k : Nat} {i : Nat} {t : Tile} {a : List (List (Nat × Option Nat))} {b : List (List (Nat × Option Nat))} {s : State} (h_s : P s) : P (tileUse k i t a b s) := by
  unfold tileUse
  repeat' (first
      | with_reducible assumption
      | with_reducible apply st_countN hP
      | with_reducible apply st_evt hP
      | with_reducible apply st_groveFault hP
      | with_reducible apply st_setTile hP
      | split
      | (with_reducible intro _)
      | with_reducible apply st_foldl
      | with_reducible apply st_foldl_snd
      | dsimp only)

theorem st_tileIssue (hP : Stable P) {k : Nat} {t : Tile} {s : State} (h_s : P s) : P (tileIssue k t s) := by
  unfold tileIssue
  repeat' (first
      | with_reducible assumption
      | with_reducible apply st_probeAbandon hP
      | with_reducible apply st_updGrove hP)

theorem st_tileRetry (hP : Stable P) {k : Nat} {lattice : Nat} {s : State} (h_s : P s) : P (tileRetry k lattice s) := by
  unfold tileRetry
  repeat' (first
      | with_reducible assumption
      | with_reducible apply st_count hP
      | with_reducible apply st_drainBlock hP
      | with_reducible apply st_groveFault hP
      | with_reducible apply st_intLog hP
      | with_reducible apply st_latDrained hP
      | with_reducible apply st_latQuarantine hP
      | with_reducible apply st_latStrike hP
      | with_reducible apply st_setTile hP
      | split
      | (with_reducible intro _)
      | with_reducible apply st_foldl
      | with_reducible apply st_foldl_snd
      | dsimp only)

theorem st_checkBlocks (hP : Stable P) {k : Nat} {t : Tile} {hit : Option (Nat × Nat)} {a3 : List Nat} {a4 : State} (h_a4 : P a4) : P (checkBlocks k t hit a3 a4).2 := by
  induction a3 generalizing a4 with
  | nil =>
    unfold checkBlocks
    repeat' (first
        | with_reducible assumption)
  | cons _ _ ih =>
    unfold checkBlocks
    repeat' (first
        | with_reducible assumption
        | with_reducible apply ih
        | with_reducible apply st_count hP
        | with_reducible apply st_drainBlock hP
        | with_reducible apply st_latDrained hP
        | split
        | (with_reducible intro _)
        | with_reducible apply st_foldl
        | with_reducible apply st_foldl_snd
        | dsimp only)

theorem st_tileCheck (hP : Stable P) {k : Nat} {t : Tile} {s : State} (h_s : P s) : P (tileCheck k t s).2 := by
  unfold tileCheck
  repeat' (first
      | with_reducible assumption
      | with_reducible apply st_checkBlocks hP)

theorem st_sideRead (hP : Stable P) {k : Nat} {t : Tile} {d : TSide} {s : State} (h_s : P s) : GotSt P (sideRead k t d s) := by
  unfold sideRead
  repeat' (first
      | with_reducible assumption
      | with_reducible apply st_feedCodes hP
      | with_reducible apply st_groveFault hP
      | with_reducible apply st_gsReadAcc hP
      | with_reducible apply st_helixFault hP
      | with_reducible apply accRes_ok
      | with_reducible apply accRes_wait
      | with_reducible apply accRes_fail
      | with_reducible apply accSt_bind
      | with_reducible apply accSt_pure
      | with_reducible apply accSt_foldlM
      | with_reducible apply accSt_map
      | with_reducible apply accSt_mapM
      | with_reducible apply feedSt_ok
      | exact feedSt_late
      | exact feedSt_bad
      | with_reducible apply gotSt_ok
      | exact gotSt_late
      | with_reducible apply gotSt_stop
      | split
      | (with_reducible intro _)
      | with_reducible apply st_foldl
      | with_reducible apply st_foldl_snd
      | dsimp only
      | (refine st_pair (by assumption) ?_)
      | (refine feedSt_elim (by assumption) ?_)
      | (refine gotSt_elim (by assumption) ?_)
      | (refine gotSt_elim_stop (by assumption) ?_)
      | assumption
      | with_reducible apply accSt_fun
      | (with_reducible refine accRes_run ?_ ?_)
      | (refine accSt_ok ?_ (by assumption) ?_)
      | (refine accSt_fail ?_ (by assumption) ?_)
      | (refine accSt_wait ?_ (by assumption) ?_))

theorem st_tileSlots (hP : Stable P) {k : Nat} {t : Tile} {s : State} (h_s : P s) : P (tileSlots k t s) := by
  unfold tileSlots
  repeat' (first
      | with_reducible assumption
      | with_reducible apply st_releaseHead hP
      | split
      | (with_reducible intro _)
      | with_reducible apply st_foldl
      | with_reducible apply st_foldl_snd
      | dsimp only)

theorem st_tileWriteback (hP : Stable P) {k : Nat} {s : State} (h_s : P s) : P (tileWriteback k s) := by
  unfold tileWriteback
  repeat' (first
      | with_reducible assumption
      | with_reducible apply st_setTile hP
      | with_reducible apply st_tileCheck hP
      | with_reducible apply st_tileSlots hP
      | with_reducible apply st_tileWrite hP
      | split
      | (with_reducible intro _)
      | with_reducible apply st_foldl
      | with_reducible apply st_foldl_snd
      | dsimp only
      | (refine st_pair (by assumption) ?_))

theorem st_tileStep (hP : Stable P) {k : Nat} {s : State} (h_s : P s) : P (tileStep k s) := by
  unfold tileStep
  repeat' (first
      | with_reducible assumption
      | with_reducible apply st_setTile hP
      | with_reducible apply st_sideRead hP
      | with_reducible apply st_tileUse hP
      | with_reducible apply gotSt_ok
      | exact gotSt_late
      | with_reducible apply gotSt_stop
      | split
      | (with_reducible intro _)
      | with_reducible apply st_foldl
      | with_reducible apply st_foldl_snd
      | dsimp only
      | (refine st_pair (by assumption) ?_)
      | (refine gotSt_elim (by assumption) ?_)
      | (refine gotSt_elim_stop (by assumption) ?_))

theorem st_execTileWriteback (hP : Stable P) {k : Nat} {s : State} {t : State} (h_s : P s) (e : execTileWriteback k s = .next t) : P t := by
  unfold execTileWriteback at e
  first
    | refine st_whileOn e ?_ ?_
  all_goals repeat' (first
      | with_reducible assumption
      | with_reducible apply st_tileWriteback hP)

theorem st_execTileStep (hP : Stable P) {k : Nat} {s : State} {t : State} (h_s : P s) (e : execTileStep k s = .next t) : P t := by
  unfold execTileStep at e
  first
    | refine st_whileOn e ?_ ?_
  all_goals repeat' (first
      | with_reducible assumption
      | with_reducible apply st_tileStep hP)

theorem st_execTileRetry (hP : Stable P) {k : Nat} {lattice : Nat} {s : State} {t : State} (h_s : P s) (e : execTileRetry k lattice s = .next t) : P t := by
  unfold execTileRetry at e
  first
    | refine st_whileOn e ?_ ?_
  all_goals repeat' (first
      | with_reducible assumption
      | with_reducible apply st_tileRetry hP)

end Sys2Proof.Machine
end

