-- ==== Sys2Proof/Laws/StableGroveCore.lean ====
section
/-!
SUPPORT. The operations of Machine/GroveCore keep every stable predicate.
-/

set_option linter.unusedVariables false

namespace Sys2Proof.Machine

variable {P : State → Prop}

theorem st_coreNext (hP : Stable P) {k : Nat} {g : Grove} {s : State} (h_s : P s) : P (coreNext k g s) := by
  unfold coreNext
  repeat' (first
      | with_reducible assumption
      | with_reducible apply st_count hP
      | with_reducible apply st_setGrove hP)

theorem st_coreTrap (hP : Stable P) {k : Nat} {f : Flt} {s : State} (h_s : P s) : P (coreTrap k f s) := by
  unfold coreTrap
  repeat' (first
      | with_reducible assumption
      | with_reducible apply st_groveFault hP)

theorem st_coreAlu (hP : Stable P) {a0 : Nat} {a1 : Grove} {a2 : Nat} {a3 : State} (h_a3 : P a3) : P (coreAlu a0 a1 a2 a3) := by
  unfold coreAlu
  repeat' (first
      | with_reducible assumption
      | with_reducible apply st_coreNext hP
      | with_reducible apply st_coreTrap hP
      | split)

theorem st_coreSet (hP : Stable P) {f : Grove → Nat → W64} {a1 : Nat} {a2 : Grove} {a3 : Nat} {a4 : State} (h_a4 : P a4) : P (coreSet f a1 a2 a3 a4) := by
  unfold coreSet
  repeat' (first
      | with_reducible assumption
      | with_reducible apply st_coreNext hP)

theorem st_coreAddi (hP : Stable P) {a0 : Nat} {a1 : Grove} {a2 : Nat} {a3 : State} (h_a3 : P a3) : P (coreAddi a0 a1 a2 a3) := by
  unfold coreAddi
  repeat' (first
      | with_reducible assumption
      | with_reducible apply st_coreSet hP)

theorem st_coreAndi (hP : Stable P) {a0 : Nat} {a1 : Grove} {a2 : Nat} {a3 : State} (h_a3 : P a3) : P (coreAndi a0 a1 a2 a3) := by
  unfold coreAndi
  repeat' (first
      | with_reducible assumption
      | with_reducible apply st_coreSet hP)

theorem st_coreOri (hP : Stable P) {a0 : Nat} {a1 : Grove} {a2 : Nat} {a3 : State} (h_a3 : P a3) : P (coreOri a0 a1 a2 a3) := by
  unfold coreOri
  repeat' (first
      | with_reducible assumption
      | with_reducible apply st_coreSet hP)

theorem st_coreXori (hP : Stable P) {a0 : Nat} {a1 : Grove} {a2 : Nat} {a3 : State} (h_a3 : P a3) : P (coreXori a0 a1 a2 a3) := by
  unfold coreXori
  repeat' (first
      | with_reducible assumption
      | with_reducible apply st_coreSet hP)

theorem st_coreShi (hP : Stable P) {a0 : Nat} {a1 : Grove} {a2 : Nat} {a3 : State} (h_a3 : P a3) : P (coreShi a0 a1 a2 a3) := by
  unfold coreShi
  repeat' (first
      | with_reducible assumption
      | with_reducible apply st_coreNext hP
      | with_reducible apply st_coreTrap hP
      | split)

theorem st_coreLui (hP : Stable P) {a0 : Nat} {a1 : Grove} {a2 : Nat} {a3 : State} (h_a3 : P a3) : P (coreLui a0 a1 a2 a3) := by
  unfold coreLui
  repeat' (first
      | with_reducible assumption
      | with_reducible apply st_coreSet hP)

theorem st_coreSlti (hP : Stable P) {a0 : Nat} {a1 : Grove} {a2 : Nat} {a3 : State} (h_a3 : P a3) : P (coreSlti a0 a1 a2 a3) := by
  unfold coreSlti
  repeat' (first
      | with_reducible assumption
      | with_reducible apply st_coreSet hP)

theorem st_coreLoad (hP : Stable P) {n : Nat} {a1 : Nat} {a2 : Grove} {a3 : Nat} {a4 : State} (h_a4 : P a4) : P (coreLoad n a1 a2 a3 a4) := by
  unfold coreLoad
  repeat' (first
      | with_reducible assumption
      | with_reducible apply st_coreNext hP
      | with_reducible apply st_coreTrap hP
      | with_reducible apply st_groveFault hP
      | with_reducible apply st_gsRead hP
      | split
      | (with_reducible intro _)
      | with_reducible apply st_foldl
      | with_reducible apply st_foldl_snd
      | dsimp only
      | (refine st_pair (by assumption) ?_))

theorem st_coreStore (hP : Stable P) {n : Nat} {a1 : Nat} {a2 : Grove} {a3 : Nat} {a4 : State} (h_a4 : P a4) : P (coreStore n a1 a2 a3 a4) := by
  unfold coreStore
  repeat' (first
      | with_reducible assumption
      | with_reducible apply st_coreNext hP
      | with_reducible apply st_coreTrap hP
      | with_reducible apply st_gsWrite hP
      | split)

theorem st_amoAcc (hP : Stable P) {k : Nat} {m : MemReq} {va : Nat}  : AccSt P (amoAcc k m va) := by
  unfold amoAcc
  repeat' (first
      | with_reducible assumption
      | with_reducible apply st_accAsk hP
      | with_reducible apply st_accDo hP
      | with_reducible apply st_accFail hP
      | with_reducible apply st_count hP
      | with_reducible apply st_memopIssue hP
      | with_reducible apply st_memopRemote hP
      | with_reducible apply st_xlate hP
      | with_reducible apply accRes_ok
      | with_reducible apply accRes_wait
      | with_reducible apply accRes_fail
      | with_reducible apply accSt_bind
      | with_reducible apply accSt_pure
      | with_reducible apply accSt_foldlM
      | with_reducible apply accSt_map
      | with_reducible apply accSt_mapM
      | split
      | (with_reducible intro _)
      | with_reducible apply st_foldl
      | with_reducible apply st_foldl_snd
      | dsimp only
      | (refine st_pair (by assumption) ?_)
      | assumption
      | with_reducible apply accSt_fun)

theorem st_coreHold (hP : Stable P) {k : Nat} {w : CoreWait} {s : State} (h_s : P s) : P (coreHold k w s) := by
  unfold coreHold
  repeat' (first
      | with_reducible assumption
      | with_reducible apply st_updGrove hP)

theorem st_coreAmo (hP : Stable P) {a0 : Nat} {a1 : Grove} {a2 : Nat} {a3 : State} (h_a3 : P a3) : P (coreAmo a0 a1 a2 a3) := by
  unfold coreAmo
  repeat' (first
      | with_reducible assumption
      | with_reducible apply st_amoAcc hP
      | with_reducible apply st_coreHold hP
      | with_reducible apply st_coreNext hP
      | with_reducible apply st_coreTrap hP
      | with_reducible apply st_count hP
      | with_reducible apply st_runAcc hP
      | with_reducible apply accRes_ok
      | with_reducible apply accRes_wait
      | with_reducible apply accRes_fail
      | with_reducible apply accSt_bind
      | with_reducible apply accSt_pure
      | with_reducible apply accSt_foldlM
      | with_reducible apply accSt_map
      | with_reducible apply accSt_mapM
      | split
      | (with_reducible intro _)
      | with_reducible apply st_foldl
      | with_reducible apply st_foldl_snd
      | dsimp only)

theorem st_coreJump (hP : Stable P) {k : Nat} {g : Grove} {pc : Nat} {s : State} (h_s : P s) : P (coreJump k g pc s) := by
  unfold coreJump
  repeat' (first
      | with_reducible assumption
      | with_reducible apply st_count hP
      | with_reducible apply st_setGrove hP)

theorem st_coreBranch (hP : Stable P) {c : Cond} {a1 : Nat} {a2 : Grove} {a3 : Nat} {a4 : State} (h_a4 : P a4) : P (coreBranch c a1 a2 a3 a4) := by
  unfold coreBranch
  repeat' (first
      | with_reducible assumption
      | with_reducible apply st_coreJump hP
      | with_reducible apply st_coreNext hP
      | split)

theorem st_coreJal (hP : Stable P) {a0 : Nat} {a1 : Grove} {a2 : Nat} {a3 : State} (h_a3 : P a3) : P (coreJal a0 a1 a2 a3) := by
  unfold coreJal
  repeat' (first
      | with_reducible assumption
      | with_reducible apply st_coreJump hP)

theorem st_coreJalr (hP : Stable P) {a0 : Nat} {a1 : Grove} {a2 : Nat} {a3 : State} (h_a3 : P a3) : P (coreJalr a0 a1 a2 a3) := by
  unfold coreJalr
  repeat' (first
      | with_reducible assumption
      | with_reducible apply st_coreJump hP
      | with_reducible apply st_coreTrap hP
      | split
      | (with_reducible intro _)
      | with_reducible apply st_foldl
      | with_reducible apply st_foldl_snd
      | dsimp only)

theorem st_coreBsum (hP : Stable P) {a0 : Nat} {a1 : Grove} {a2 : Nat} {a3 : State} (h_a3 : P a3) : P (coreBsum a0 a1 a2 a3) := by
  unfold coreBsum
  repeat' (first
      | with_reducible assumption
      | with_reducible apply st_coreJump hP
      | with_reducible apply st_coreNext hP
      | split
      | (with_reducible intro _)
      | with_reducible apply st_foldl
      | with_reducible apply st_foldl_snd
      | dsimp only)

theorem st_coreMvs (hP : Stable P) {a0 : Nat} {a1 : Grove} {a2 : Nat} {a3 : State} (h_a3 : P a3) : P (coreMvs a0 a1 a2 a3) := by
  unfold coreMvs
  repeat' (first
      | with_reducible assumption
      | with_reducible apply st_coreSet hP)

theorem st_coreCsrr (hP : Stable P) {a0 : Nat} {a1 : Grove} {a2 : Nat} {a3 : State} (h_a3 : P a3) : P (coreCsrr a0 a1 a2 a3) := by
  unfold coreCsrr
  repeat' (first
      | with_reducible assumption
      | with_reducible apply st_coreNext hP
      | with_reducible apply st_coreTrap hP
      | with_reducible apply hP.free
      | split)

theorem st_coreCsrw (hP : Stable P) {a0 : Nat} {a1 : Grove} {a2 : Nat} {a3 : State} (h_a3 : P a3) : P (coreCsrw a0 a1 a2 a3) := by
  unfold coreCsrw
  repeat' (first
      | with_reducible assumption
      | with_reducible apply st_coreNext hP
      | with_reducible apply st_coreTrap hP
      | split)

theorem st_coreIssue (hP : Stable P) {full : Grove → Bool} {f : Nat → Nat → Nat → State → State} {a2 : Nat} {a3 : Grove} {a4 : Nat} {a5 : State} (h_f : ∀ (y0 : Nat) (y1 : Nat) (y2 : Nat) (y3 : State), P y3 → P (f y0 y1 y2 y3)) (h_a5 : P a5) : P (coreIssue full f a2 a3 a4 a5) := by
  unfold coreIssue
  repeat' (first
      | with_reducible assumption
      | with_reducible apply st_coreHold hP
      | with_reducible apply h_f
      | split)

theorem st_issueRead (hP : Stable P) {k : Nat} {off : Nat} {n : Nat} {ok : State → State} {s : State} (h_ok : ∀ (y0 : State), P y0 → P (ok y0)) (h_s : P s) : P (issueRead k off n ok s) := by
  unfold issueRead
  repeat' (first
      | with_reducible assumption
      | with_reducible apply st_groveFault hP
      | with_reducible apply st_gsRead hP
      | with_reducible apply h_ok
      | split
      | (with_reducible intro _)
      | with_reducible apply st_foldl
      | with_reducible apply st_foldl_snd
      | dsimp only
      | (refine st_pair (by assumption) ?_))

theorem st_coreIssued (hP : Stable P) {k : Nat} {t : Nat} {e : Eng} {s : State} (h_s : P s) : P (coreIssued k t e s) := by
  unfold coreIssued
  repeat' (first
      | with_reducible assumption
      | with_reducible apply st_coreNext hP)

theorem st_coreLtile (hP : Stable P) {a0 : Nat} {a1 : Grove} {a2 : Nat} {a3 : State} (h_a3 : P a3) : P (coreLtile a0 a1 a2 a3) := by
  unfold coreLtile
  repeat' (first
      | with_reducible assumption
      | with_reducible apply st_coreIssue hP
      | with_reducible apply st_coreIssued hP
      | with_reducible apply st_coreTrap hP
      | with_reducible apply st_issueRead hP
      | with_reducible apply st_tileIssue hP
      | split
      | (with_reducible intro _)
      | with_reducible apply st_foldl
      | with_reducible apply st_foldl_snd
      | dsimp only)

theorem st_coreVchain (hP : Stable P) {a0 : Nat} {a1 : Grove} {a2 : Nat} {a3 : State} (h_a3 : P a3) : P (coreVchain a0 a1 a2 a3) := by
  unfold coreVchain
  repeat' (first
      | with_reducible assumption
      | with_reducible apply st_coreIssue hP
      | with_reducible apply st_coreIssued hP
      | with_reducible apply st_coreTrap hP
      | with_reducible apply st_issueRead hP
      | with_reducible apply st_updGrove hP
      | split
      | (with_reducible intro _)
      | with_reducible apply st_foldl
      | with_reducible apply st_foldl_snd
      | dsimp only)

theorem st_coreHstart (hP : Stable P) {a0 : Nat} {a1 : Grove} {a2 : Nat} {a3 : State} (h_a3 : P a3) : P (coreHstart a0 a1 a2 a3) := by
  unfold coreHstart
  repeat' (first
      | with_reducible assumption
      | with_reducible apply st_coreIssue hP
      | with_reducible apply st_coreIssued hP
      | with_reducible apply st_coreTrap hP
      | with_reducible apply st_hstartRun hP
      | with_reducible apply st_issueRead hP
      | split
      | (with_reducible intro _)
      | with_reducible apply st_foldl
      | with_reducible apply st_foldl_snd
      | dsimp only)

theorem st_coreGdma (hP : Stable P) {a0 : Nat} {a1 : Grove} {a2 : Nat} {a3 : State} (h_a3 : P a3) : P (coreGdma a0 a1 a2 a3) := by
  unfold coreGdma
  repeat' (first
      | with_reducible assumption
      | with_reducible apply st_coreIssue hP
      | with_reducible apply st_coreIssued hP
      | with_reducible apply st_coreTrap hP
      | with_reducible apply st_issueRead hP
      | with_reducible apply st_setGdma hP
      | split
      | (with_reducible intro _)
      | with_reducible apply st_foldl
      | with_reducible apply st_foldl_snd
      | dsimp only)

theorem st_coreWait (hP : Stable P) {a0 : Nat} {a1 : Grove} {a2 : Nat} {a3 : State} (h_a3 : P a3) : P (coreWait a0 a1 a2 a3) := by
  unfold coreWait
  repeat' (first
      | with_reducible assumption
      | with_reducible apply st_coreHold hP
      | with_reducible apply st_coreNext hP
      | split)

theorem st_coreToks (hP : Stable P) {a0 : Nat} {a1 : Grove} {a2 : Nat} {a3 : State} (h_a3 : P a3) : P (coreToks a0 a1 a2 a3) := by
  unfold coreToks
  repeat' (first
      | with_reducible assumption
      | with_reducible apply st_coreSet hP)

theorem st_turnOut (hP : Stable P) {n : Node} {k : Nat} {ended : Bool} {s : State} (h_s : P s) : P (turnOut n k ended s) := by
  unfold turnOut
  repeat' (first
      | with_reducible assumption
      | with_reducible apply st_groveClearWork hP
      | with_reducible apply st_saveWrite hP
      | with_reducible apply st_unbindGrove hP
      | with_reducible apply hP.gro)

theorem st_turnNext (hP : Stable P) {ctx : Nat} {k : Nat} {s : State} (h_s : P s) : P (turnNext ctx k s) := by
  unfold turnNext
  repeat' (first
      | with_reducible assumption
      | with_reducible apply st_restoreGrove hP
      | with_reducible apply st_turnOut hP
      | with_reducible apply st_updNode hP
      | split
      | (with_reducible intro _)
      | with_reducible apply st_foldl
      | with_reducible apply st_foldl_snd
      | dsimp only)

theorem st_barrierDone (hP : Stable P) {n : Node} {s : State} (h_s : P s) : P (barrierDone n s) := by
  unfold barrierDone
  repeat' (first
      | with_reducible assumption
      | with_reducible apply st_count hP
      | with_reducible apply st_emit hP
      | with_reducible apply st_progress hP
      | with_reducible apply st_turnNext hP
      | with_reducible apply st_updGrove hP
      | with_reducible apply st_updNode hP
      | with_reducible apply hP.gro
      | split
      | (with_reducible intro _)
      | with_reducible apply st_foldl)

theorem st_coreBar (hP : Stable P) {a0 : Nat} {a1 : Grove} {a2 : Nat} {a3 : State} (h_a3 : P a3) : P (coreBar a0 a1 a2 a3) := by
  unfold coreBar
  repeat' (first
      | with_reducible assumption
      | with_reducible apply st_barrierDone hP
      | with_reducible apply st_coreHold hP
      | with_reducible apply st_coreTrap hP
      | with_reducible apply st_turnNext hP
      | with_reducible apply st_updNode hP
      | split
      | (with_reducible intro _)
      | with_reducible apply st_foldl
      | with_reducible apply st_foldl_snd
      | dsimp only)

theorem st_coreFence (hP : Stable P) {a0 : Nat} {a1 : Grove} {a2 : Nat} {a3 : State} (h_a3 : P a3) : P (coreFence a0 a1 a2 a3) := by
  unfold coreFence
  repeat' (first
      | with_reducible assumption
      | with_reducible apply st_coreHold hP
      | with_reducible apply st_coreNext hP
      | split)

theorem st_coreWork (hP : Stable P) {a0 : Nat} {a1 : Grove} {a2 : Nat} {a3 : State} (h_a3 : P a3) : P (coreWork a0 a1 a2 a3) := by
  unfold coreWork
  repeat' (first
      | with_reducible assumption
      | with_reducible apply st_coreNext hP
      | with_reducible apply st_updNode hP
      | split)

theorem st_coreTag (hP : Stable P) {a0 : Nat} {a1 : Grove} {a2 : Nat} {a3 : State} (h_a3 : P a3) : P (coreTag a0 a1 a2 a3) := by
  unfold coreTag
  repeat' (first
      | with_reducible assumption
      | with_reducible apply st_coreNext hP
      | with_reducible apply st_coreTrap hP
      | with_reducible apply st_count hP
      | with_reducible apply st_dumpFire hP
      | with_reducible apply st_emit hP
      | with_reducible apply st_updGrove hP
      | split
      | (with_reducible intro _)
      | with_reducible apply st_foldl
      | with_reducible apply st_foldl_snd
      | dsimp only
      | (refine st_pair (by assumption) ?_))

theorem st_nodeComplete (hP : Stable P) {n : Node} {s : State} (h_s : P s) : P (nodeComplete n s) := by
  unfold nodeComplete
  repeat' (first
      | with_reducible assumption
      | with_reducible apply st_closeDumps hP
      | with_reducible apply st_completeOk hP
      | with_reducible apply st_emit hP
      | with_reducible apply st_groveClearWork hP
      | with_reducible apply st_pinSettleAll hP
      | with_reducible apply st_progress hP
      | with_reducible apply st_setGdma hP
      | with_reducible apply st_setGrove hP
      | with_reducible apply st_unbindGrove hP
      | with_reducible apply hP.sched
      | with_reducible apply hP.gro
      | split
      | (with_reducible intro _)
      | with_reducible apply st_foldl)

theorem st_coreEnd (hP : Stable P) {a0 : Nat} {a1 : Grove} {a2 : Nat} {a3 : State} (h_a3 : P a3) : P (coreEnd a0 a1 a2 a3) := by
  unfold coreEnd
  repeat' (first
      | with_reducible assumption
      | with_reducible apply st_coreHold hP
      | with_reducible apply st_coreTrap hP
      | with_reducible apply st_count hP
      | with_reducible apply st_nodeComplete hP
      | with_reducible apply st_setGrove hP
      | with_reducible apply st_turnNext hP
      | with_reducible apply st_updNode hP
      | with_reducible apply hP.free
      | split
      | (with_reducible intro _)
      | with_reducible apply st_foldl
      | with_reducible apply st_foldl_snd
      | dsimp only)

theorem st_coreInstr (hP : Stable P) {op : Nat} {a1 : Nat} {a2 : Grove} {a3 : Nat} {a4 : State} (h_a4 : P a4) : P (coreInstr op a1 a2 a3 a4) := by
  unfold coreInstr
  repeat' (first
      | with_reducible assumption
      | with_reducible apply st_coreAddi hP
      | with_reducible apply st_coreAlu hP
      | with_reducible apply st_coreAmo hP
      | with_reducible apply st_coreAndi hP
      | with_reducible apply st_coreBar hP
      | with_reducible apply st_coreBranch hP
      | with_reducible apply st_coreBsum hP
      | with_reducible apply st_coreCsrr hP
      | with_reducible apply st_coreCsrw hP
      | with_reducible apply st_coreEnd hP
      | with_reducible apply st_coreFence hP
      | with_reducible apply st_coreGdma hP
      | with_reducible apply st_coreHstart hP
      | with_reducible apply st_coreJal hP
      | with_reducible apply st_coreJalr hP
      | with_reducible apply st_coreLoad hP
      | with_reducible apply st_coreLtile hP
      | with_reducible apply st_coreLui hP
      | with_reducible apply st_coreMvs hP
      | with_reducible apply st_coreOri hP
      | with_reducible apply st_coreShi hP
      | with_reducible apply st_coreSlti hP
      | with_reducible apply st_coreStore hP
      | with_reducible apply st_coreTag hP
      | with_reducible apply st_coreToks hP
      | with_reducible apply st_coreVchain hP
      | with_reducible apply st_coreWait hP
      | with_reducible apply st_coreWork hP
      | with_reducible apply st_coreXori hP
      | split)

theorem st_coreFetch (hP : Stable P) {k : Nat} {f : Nat → Nat → Grove → Nat → State → State} {s : State} (h_f : ∀ (y0 : Nat) (y1 : Nat) (y2 : Grove) (y3 : Nat) (y4 : State), P y4 → P (f y0 y1 y2 y3 y4)) (h_s : P s) : P (coreFetch k f s) := by
  unfold coreFetch
  repeat' (first
      | with_reducible assumption
      | with_reducible apply st_coreHold hP
      | with_reducible apply st_coreTrap hP
      | with_reducible apply h_f
      | split
      | (with_reducible intro _)
      | with_reducible apply st_foldl
      | with_reducible apply st_foldl_snd
      | dsimp only)

theorem st_coreAgain (hP : Stable P) {k : Nat} {s : State} (h_s : P s) : P (coreAgain k s) := by
  unfold coreAgain
  repeat' (first
      | with_reducible assumption
      | with_reducible apply st_coreFetch hP
      | with_reducible apply st_coreHold hP
      | with_reducible apply st_coreInstr hP
      | split
      | (with_reducible intro _))

theorem st_coreRow (hP : Stable P) {op : Nat} {k : Nat} {f : Nat → Grove → Nat → State → State} {s : State} (h_f : ∀ (y0 : Nat) (y1 : Grove) (y2 : Nat) (y3 : State), P y3 → P (f y0 y1 y2 y3)) (h_s : P s) : P (coreRow op k f s) := by
  unfold coreRow
  repeat' (first
      | with_reducible assumption
      | with_reducible apply st_coreFetch hP
      | with_reducible apply h_f
      | split
      | (with_reducible intro _))

theorem st_coreResume (hP : Stable P) {k : Nat} {s : State} (h_s : P s) : P (coreResume k s) := by
  unfold coreResume
  repeat' (first
      | with_reducible assumption
      | with_reducible apply st_coreAgain hP
      | split
      | (with_reducible intro _)
      | with_reducible apply st_foldl
      | with_reducible apply st_foldl_snd
      | dsimp only)

theorem st_barrierTimeout (hP : Stable P) {ctx : Nat} {s : State} (h_s : P s) : P (barrierTimeout ctx s) := by
  unfold barrierTimeout
  repeat' (first
      | with_reducible assumption
      | with_reducible apply st_groveFault hP
      | with_reducible apply st_reachTime hP
      | split)

theorem st_coreWatchdog (hP : Stable P) {k : Nat} {s : State} (h_s : P s) : P (coreWatchdog k s) := by
  unfold coreWatchdog
  repeat' (first
      | with_reducible assumption
      | with_reducible apply st_coreTrap hP
      | with_reducible apply st_reachTime hP
      | split
      | (with_reducible intro _)
      | with_reducible apply st_foldl
      | with_reducible apply st_foldl_snd
      | dsimp only)

theorem st_tagCopyDone (hP : Stable P) {k : Nat} {s : State} (h_s : P s) : P (tagCopyDone k s) := by
  unfold tagCopyDone
  repeat' (first
      | with_reducible assumption
      | with_reducible apply st_coreNext hP
      | with_reducible apply st_ctxWrite hP
      | with_reducible apply st_groveFault hP
      | with_reducible apply st_gsRead hP
      | with_reducible apply st_putDump hP
      | with_reducible apply st_runAcc hP
      | with_reducible apply accRes_ok
      | with_reducible apply accRes_wait
      | with_reducible apply accRes_fail
      | with_reducible apply accSt_bind
      | with_reducible apply accSt_pure
      | with_reducible apply accSt_foldlM
      | with_reducible apply accSt_map
      | with_reducible apply accSt_mapM
      | split
      | (with_reducible intro _)
      | with_reducible apply st_foldl
      | with_reducible apply st_foldl_snd
      | dsimp only)

theorem st_execAmo (hP : Stable P) {k : Nat} {s : State} {t : State} (h_s : P s) (e : execAmo k s = .next t) : P t := by
  unfold execAmo at e
  first
    | refine st_whileOn e ?_ ?_
  all_goals repeat' (first
      | with_reducible assumption
      | with_reducible apply st_coreAmo hP
      | with_reducible apply st_coreRow hP
      | split
      | (with_reducible intro _))

theorem st_execSd (hP : Stable P) {k : Nat} {s : State} {t : State} (h_s : P s) (e : execSd k s = .next t) : P t := by
  unfold execSd at e
  first
    | refine st_whileOn e ?_ ?_
  all_goals repeat' (first
      | with_reducible assumption
      | with_reducible apply st_coreRow hP
      | with_reducible apply st_coreStore hP
      | split
      | (with_reducible intro _))

theorem st_execAndi (hP : Stable P) {k : Nat} {s : State} {t : State} (h_s : P s) (e : execAndi k s = .next t) : P t := by
  unfold execAndi at e
  first
    | refine st_whileOn e ?_ ?_
  all_goals repeat' (first
      | with_reducible assumption
      | with_reducible apply st_coreAndi hP
      | with_reducible apply st_coreRow hP
      | split
      | (with_reducible intro _))

theorem st_execBne (hP : Stable P) {k : Nat} {s : State} {t : State} (h_s : P s) (e : execBne k s = .next t) : P t := by
  unfold execBne at e
  first
    | refine st_whileOn e ?_ ?_
  all_goals repeat' (first
      | with_reducible assumption
      | with_reducible apply st_coreBranch hP
      | with_reducible apply st_coreRow hP
      | split
      | (with_reducible intro _))

theorem st_execLw (hP : Stable P) {k : Nat} {s : State} {t : State} (h_s : P s) (e : execLw k s = .next t) : P t := by
  unfold execLw at e
  first
    | refine st_whileOn e ?_ ?_
  all_goals repeat' (first
      | with_reducible assumption
      | with_reducible apply st_coreLoad hP
      | with_reducible apply st_coreRow hP
      | split
      | (with_reducible intro _))

theorem st_execBarrierTimeout (hP : Stable P) {ctx : Nat} {s : State} {t : State} (h_s : P s) (e : execBarrierTimeout ctx s = .next t) : P t := by
  unfold execBarrierTimeout at e
  first
    | refine st_whileOn e ?_ ?_
  all_goals repeat' (first
      | with_reducible assumption
      | with_reducible apply st_barrierTimeout hP)

theorem st_execXori (hP : Stable P) {k : Nat} {s : State} {t : State} (h_s : P s) (e : execXori k s = .next t) : P t := by
  unfold execXori at e
  first
    | refine st_whileOn e ?_ ?_
  all_goals repeat' (first
      | with_reducible assumption
      | with_reducible apply st_coreRow hP
      | with_reducible apply st_coreXori hP
      | split
      | (with_reducible intro _))

theorem st_execBar (hP : Stable P) {k : Nat} {s : State} {t : State} (h_s : P s) (e : execBar k s = .next t) : P t := by
  unfold execBar at e
  first
    | refine st_whileOn e ?_ ?_
  all_goals repeat' (first
      | with_reducible assumption
      | with_reducible apply st_coreBar hP
      | with_reducible apply st_coreRow hP
      | split
      | (with_reducible intro _))

theorem st_execAlu (hP : Stable P) {k : Nat} {s : State} {t : State} (h_s : P s) (e : execAlu k s = .next t) : P t := by
  unfold execAlu at e
  first
    | refine st_whileOn e ?_ ?_
  all_goals repeat' (first
      | with_reducible assumption
      | with_reducible apply st_coreAlu hP
      | with_reducible apply st_coreRow hP
      | split
      | (with_reducible intro _))

theorem st_execJal (hP : Stable P) {k : Nat} {s : State} {t : State} (h_s : P s) (e : execJal k s = .next t) : P t := by
  unfold execJal at e
  first
    | refine st_whileOn e ?_ ?_
  all_goals repeat' (first
      | with_reducible assumption
      | with_reducible apply st_coreJal hP
      | with_reducible apply st_coreRow hP
      | split
      | (with_reducible intro _))

theorem st_execLd (hP : Stable P) {k : Nat} {s : State} {t : State} (h_s : P s) (e : execLd k s = .next t) : P t := by
  unfold execLd at e
  first
    | refine st_whileOn e ?_ ?_
  all_goals repeat' (first
      | with_reducible assumption
      | with_reducible apply st_coreLoad hP
      | with_reducible apply st_coreRow hP
      | split
      | (with_reducible intro _))

theorem st_execOri (hP : Stable P) {k : Nat} {s : State} {t : State} (h_s : P s) (e : execOri k s = .next t) : P t := by
  unfold execOri at e
  first
    | refine st_whileOn e ?_ ?_
  all_goals repeat' (first
      | with_reducible assumption
      | with_reducible apply st_coreOri hP
      | with_reducible apply st_coreRow hP
      | split
      | (with_reducible intro _))

theorem st_execBgeu (hP : Stable P) {k : Nat} {s : State} {t : State} (h_s : P s) (e : execBgeu k s = .next t) : P t := by
  unfold execBgeu at e
  first
    | refine st_whileOn e ?_ ?_
  all_goals repeat' (first
      | with_reducible assumption
      | with_reducible apply st_coreBranch hP
      | with_reducible apply st_coreRow hP
      | split
      | (with_reducible intro _))

theorem st_execWait (hP : Stable P) {k : Nat} {s : State} {t : State} (h_s : P s) (e : execWait k s = .next t) : P t := by
  unfold execWait at e
  first
    | refine st_whileOn e ?_ ?_
  all_goals repeat' (first
      | with_reducible assumption
      | with_reducible apply st_coreRow hP
      | with_reducible apply st_coreWait hP
      | split
      | (with_reducible intro _))

theorem st_execWork (hP : Stable P) {k : Nat} {s : State} {t : State} (h_s : P s) (e : execWork k s = .next t) : P t := by
  unfold execWork at e
  first
    | refine st_whileOn e ?_ ?_
  all_goals repeat' (first
      | with_reducible assumption
      | with_reducible apply st_coreRow hP
      | with_reducible apply st_coreWork hP
      | split
      | (with_reducible intro _))

theorem st_execSlti (hP : Stable P) {k : Nat} {s : State} {t : State} (h_s : P s) (e : execSlti k s = .next t) : P t := by
  unfold execSlti at e
  first
    | refine st_whileOn e ?_ ?_
  all_goals repeat' (first
      | with_reducible assumption
      | with_reducible apply st_coreRow hP
      | with_reducible apply st_coreSlti hP
      | split
      | (with_reducible intro _))

theorem st_execCsrw (hP : Stable P) {k : Nat} {s : State} {t : State} (h_s : P s) (e : execCsrw k s = .next t) : P t := by
  unfold execCsrw at e
  first
    | refine st_whileOn e ?_ ?_
  all_goals repeat' (first
      | with_reducible assumption
      | with_reducible apply st_coreCsrw hP
      | with_reducible apply st_coreRow hP
      | split
      | (with_reducible intro _))

theorem st_execMvs (hP : Stable P) {k : Nat} {s : State} {t : State} (h_s : P s) (e : execMvs k s = .next t) : P t := by
  unfold execMvs at e
  first
    | refine st_whileOn e ?_ ?_
  all_goals repeat' (first
      | with_reducible assumption
      | with_reducible apply st_coreMvs hP
      | with_reducible apply st_coreRow hP
      | split
      | (with_reducible intro _))

theorem st_execCsrr (hP : Stable P) {k : Nat} {s : State} {t : State} (h_s : P s) (e : execCsrr k s = .next t) : P t := by
  unfold execCsrr at e
  first
    | refine st_whileOn e ?_ ?_
  all_goals repeat' (first
      | with_reducible assumption
      | with_reducible apply st_coreCsrr hP
      | with_reducible apply st_coreRow hP
      | split
      | (with_reducible intro _))

theorem st_execVchain (hP : Stable P) {k : Nat} {s : State} {t : State} (h_s : P s) (e : execVchain k s = .next t) : P t := by
  unfold execVchain at e
  first
    | refine st_whileOn e ?_ ?_
  all_goals repeat' (first
      | with_reducible assumption
      | with_reducible apply st_coreRow hP
      | with_reducible apply st_coreVchain hP
      | split
      | (with_reducible intro _))

theorem st_execBsum (hP : Stable P) {k : Nat} {s : State} {t : State} (h_s : P s) (e : execBsum k s = .next t) : P t := by
  unfold execBsum at e
  first
    | refine st_whileOn e ?_ ?_
  all_goals repeat' (first
      | with_reducible assumption
      | with_reducible apply st_coreBsum hP
      | with_reducible apply st_coreRow hP
      | split
      | (with_reducible intro _))

theorem st_execBltu (hP : Stable P) {k : Nat} {s : State} {t : State} (h_s : P s) (e : execBltu k s = .next t) : P t := by
  unfold execBltu at e
  first
    | refine st_whileOn e ?_ ?_
  all_goals repeat' (first
      | with_reducible assumption
      | with_reducible apply st_coreBranch hP
      | with_reducible apply st_coreRow hP
      | split
      | (with_reducible intro _))

theorem st_execToks (hP : Stable P) {k : Nat} {s : State} {t : State} (h_s : P s) (e : execToks k s = .next t) : P t := by
  unfold execToks at e
  first
    | refine st_whileOn e ?_ ?_
  all_goals repeat' (first
      | with_reducible assumption
      | with_reducible apply st_coreRow hP
      | with_reducible apply st_coreToks hP
      | split
      | (with_reducible intro _))

theorem st_execGdma (hP : Stable P) {k : Nat} {s : State} {t : State} (h_s : P s) (e : execGdma k s = .next t) : P t := by
  unfold execGdma at e
  first
    | refine st_whileOn e ?_ ?_
  all_goals repeat' (first
      | with_reducible assumption
      | with_reducible apply st_coreGdma hP
      | with_reducible apply st_coreRow hP
      | split
      | (with_reducible intro _))

theorem st_execSw (hP : Stable P) {k : Nat} {s : State} {t : State} (h_s : P s) (e : execSw k s = .next t) : P t := by
  unfold execSw at e
  first
    | refine st_whileOn e ?_ ?_
  all_goals repeat' (first
      | with_reducible assumption
      | with_reducible apply st_coreRow hP
      | with_reducible apply st_coreStore hP
      | split
      | (with_reducible intro _))

theorem st_execCoreWatchdog (hP : Stable P) {k : Nat} {s : State} {t : State} (h_s : P s) (e : execCoreWatchdog k s = .next t) : P t := by
  unfold execCoreWatchdog at e
  first
    | refine st_whileOn e ?_ ?_
  all_goals repeat' (first
      | with_reducible assumption
      | with_reducible apply st_coreWatchdog hP)

theorem st_execLui (hP : Stable P) {k : Nat} {s : State} {t : State} (h_s : P s) (e : execLui k s = .next t) : P t := by
  unfold execLui at e
  first
    | refine st_whileOn e ?_ ?_
  all_goals repeat' (first
      | with_reducible assumption
      | with_reducible apply st_coreLui hP
      | with_reducible apply st_coreRow hP
      | split
      | (with_reducible intro _))

theorem st_execJalr (hP : Stable P) {k : Nat} {s : State} {t : State} (h_s : P s) (e : execJalr k s = .next t) : P t := by
  unfold execJalr at e
  first
    | refine st_whileOn e ?_ ?_
  all_goals repeat' (first
      | with_reducible assumption
      | with_reducible apply st_coreJalr hP
      | with_reducible apply st_coreRow hP
      | split
      | (with_reducible intro _))

theorem st_execShi (hP : Stable P) {k : Nat} {s : State} {t : State} (h_s : P s) (e : execShi k s = .next t) : P t := by
  unfold execShi at e
  first
    | refine st_whileOn e ?_ ?_
  all_goals repeat' (first
      | with_reducible assumption
      | with_reducible apply st_coreRow hP
      | with_reducible apply st_coreShi hP
      | split
      | (with_reducible intro _))

theorem st_execBge (hP : Stable P) {k : Nat} {s : State} {t : State} (h_s : P s) (e : execBge k s = .next t) : P t := by
  unfold execBge at e
  first
    | refine st_whileOn e ?_ ?_
  all_goals repeat' (first
      | with_reducible assumption
      | with_reducible apply st_coreBranch hP
      | with_reducible apply st_coreRow hP
      | split
      | (with_reducible intro _))

theorem st_execCoreResume (hP : Stable P) {k : Nat} {s : State} {t : State} (h_s : P s) (e : execCoreResume k s = .next t) : P t := by
  unfold execCoreResume at e
  first
    | refine st_whileOn e ?_ ?_
  all_goals repeat' (first
      | with_reducible assumption
      | with_reducible apply st_coreResume hP)

theorem st_execBlt (hP : Stable P) {k : Nat} {s : State} {t : State} (h_s : P s) (e : execBlt k s = .next t) : P t := by
  unfold execBlt at e
  first
    | refine st_whileOn e ?_ ?_
  all_goals repeat' (first
      | with_reducible assumption
      | with_reducible apply st_coreBranch hP
      | with_reducible apply st_coreRow hP
      | split
      | (with_reducible intro _))

theorem st_execAddi (hP : Stable P) {k : Nat} {s : State} {t : State} (h_s : P s) (e : execAddi k s = .next t) : P t := by
  unfold execAddi at e
  first
    | refine st_whileOn e ?_ ?_
  all_goals repeat' (first
      | with_reducible assumption
      | with_reducible apply st_coreAddi hP
      | with_reducible apply st_coreRow hP
      | split
      | (with_reducible intro _))

theorem st_execEndProg (hP : Stable P) {k : Nat} {s : State} {t : State} (h_s : P s) (e : execEndProg k s = .next t) : P t := by
  unfold execEndProg at e
  first
    | refine st_whileOn e ?_ ?_
  all_goals repeat' (first
      | with_reducible assumption
      | with_reducible apply st_coreEnd hP
      | with_reducible apply st_coreRow hP
      | split
      | (with_reducible intro _))

theorem st_execHstart (hP : Stable P) {k : Nat} {s : State} {t : State} (h_s : P s) (e : execHstart k s = .next t) : P t := by
  unfold execHstart at e
  first
    | refine st_whileOn e ?_ ?_
  all_goals repeat' (first
      | with_reducible assumption
      | with_reducible apply st_coreHstart hP
      | with_reducible apply st_coreRow hP
      | split
      | (with_reducible intro _))

theorem st_execCoreFence (hP : Stable P) {k : Nat} {s : State} {t : State} (h_s : P s) (e : execCoreFence k s = .next t) : P t := by
  unfold execCoreFence at e
  first
    | refine st_whileOn e ?_ ?_
  all_goals repeat' (first
      | with_reducible assumption
      | with_reducible apply st_coreFence hP
      | with_reducible apply st_coreRow hP
      | split
      | (with_reducible intro _))

theorem st_execTag (hP : Stable P) {k : Nat} {s : State} {t : State} (h_s : P s) (e : execTag k s = .next t) : P t := by
  unfold execTag at e
  first
    | refine st_whileOn e ?_ ?_
  all_goals repeat' (first
      | with_reducible assumption
      | with_reducible apply st_coreRow hP
      | with_reducible apply st_coreTag hP
      | split
      | (with_reducible intro _))

theorem st_execTagCopyDone (hP : Stable P) {k : Nat} {s : State} {t : State} (h_s : P s) (e : execTagCopyDone k s = .next t) : P t := by
  unfold execTagCopyDone at e
  first
    | refine st_whileOn e ?_ ?_
  all_goals repeat' (first
      | with_reducible assumption
      | with_reducible apply st_tagCopyDone hP)

theorem st_execBeq (hP : Stable P) {k : Nat} {s : State} {t : State} (h_s : P s) (e : execBeq k s = .next t) : P t := by
  unfold execBeq at e
  first
    | refine st_whileOn e ?_ ?_
  all_goals repeat' (first
      | with_reducible assumption
      | with_reducible apply st_coreBranch hP
      | with_reducible apply st_coreRow hP
      | split
      | (with_reducible intro _))

theorem st_execLtile (hP : Stable P) {k : Nat} {s : State} {t : State} (h_s : P s) (e : execLtile k s = .next t) : P t := by
  unfold execLtile at e
  first
    | refine st_whileOn e ?_ ?_
  all_goals repeat' (first
      | with_reducible assumption
      | with_reducible apply st_coreLtile hP
      | with_reducible apply st_coreRow hP
      | split
      | (with_reducible intro _))

end Sys2Proof.Machine
end

