-- ==== Sys2Proof/Laws/StableXylem.lean ====
section
/-!
SUPPORT. The operations of Machine/Xylem keep every stable predicate.
-/

set_option linter.unusedVariables false

namespace Sys2Proof.Machine

variable {P : State → Prop}

theorem st_tapDataRead (hP : Stable P) {s : State} (h_s : P s) : P (tapDataRead s) := by
  unfold tapDataRead
  repeat' (first
      | with_reducible assumption
      | with_reducible apply st_drawFree hP
      | with_reducible apply st_regPut hP
      | split)

theorem st_undefSector (hP : Stable P) {k : Nat} {s : State} (h_s : P s) : P (undefSector k s) := by
  unfold undefSector
  repeat' (first
      | with_reducible assumption
      | with_reducible apply st_memWrite hP
      | with_reducible apply hP.free)

theorem st_repairSectors (hP : Stable P) {r : Repair} {s : State} (h_s : P s) : P (repairSectors r s) := by
  unfold repairSectors
  repeat' (first
      | with_reducible assumption
      | with_reducible apply st_canInvalidate hP
      | with_reducible apply st_count hP
      | with_reducible apply hP.mem
      | with_reducible apply memWf_mk
      | with_reducible exact id
      | with_reducible apply mwf_filter
      | with_reducible apply mwf_mset
      | with_reducible apply mwf_msetMany
      | with_reducible apply risingFrom_filter
      | with_reducible apply risingFrom_keyInsert0
      | split
      | (with_reducible intro _)
      | with_reducible apply st_foldl)

theorem st_repairNext (hP : Stable P) {s : State} (h_s : P s) : P (repairNext s) := by
  unfold repairNext
  repeat' (first
      | with_reducible assumption
      | with_reducible apply hP.xyl
      | split)

theorem st_repairDone (hP : Stable P) {soft : Bool} {s : State} (h_s : P s) : P (repairDone soft s) := by
  unfold repairDone
  repeat' (first
      | with_reducible assumption
      | with_reducible apply st_count hP
      | with_reducible apply st_repairLog hP
      | with_reducible apply st_repairNext hP
      | with_reducible apply st_repairSectors hP
      | with_reducible apply hP.xyl
      | split)

theorem st_memopOutcome (hP : Stable P) {remote : Bool} {m : MemReq} {r : Except Flt Nat} {s : State} (h_s : P s) : P (memopOutcome remote m r s) := by
  unfold memopOutcome
  repeat' (first
      | with_reducible assumption
      | with_reducible apply st_dmaMemopResult hP
      | with_reducible apply st_groveFault hP
      | with_reducible apply st_send hP
      | with_reducible apply st_setGrove hP
      | split)

theorem st_memopOutcomes (hP : Stable P) {l : MemOut} {s : State} (h_s : P s) : P (memopOutcomes l s) := by
  unfold memopOutcomes
  repeat' (first
      | with_reducible assumption
      | with_reducible apply st_memopOutcome hP
      | split
      | (with_reducible intro _)
      | with_reducible apply st_foldl)

theorem st_memopApplied (hP : Stable P) {j : Nat} {s : State} (h_s : P s) : P (memopApplied j s) := by
  unfold memopApplied
  repeat' (first
      | with_reducible assumption
      | with_reducible apply st_memopOutcomes hP
      | with_reducible apply st_memopReach hP
      | with_reducible apply hP.xyl
      | split)

theorem st_setGranted (hP : Stable P) {g : Bool} {s : State} (h_s : P s) : P (setGranted g s) := by
  unfold setGranted
  repeat' (first
      | with_reducible assumption
      | with_reducible apply st_regField hP
      | with_reducible apply hP.xyl)

theorem st_testCtlWrite (hP : Stable P) {value : Nat} {s : State} (h_s : P s) : P (testCtlWrite value s) := by
  unfold testCtlWrite
  repeat' (first
      | with_reducible assumption
      | with_reducible apply st_regWrite hP
      | with_reducible apply st_repairNext hP
      | with_reducible apply st_setGranted hP
      | with_reducible apply hP.xyl
      | split
      | (with_reducible intro _)
      | with_reducible apply st_foldl
      | with_reducible apply st_foldl_snd
      | dsimp only)

theorem st_patrolScrub (hP : Stable P) {sector : Nat} {err : Nat} {s : State} (h_s : P s) : P (patrolScrub sector err s) := by
  unfold patrolScrub
  repeat' (first
      | with_reducible assumption
      | with_reducible apply st_canInvalidate hP
      | with_reducible apply st_count hP
      | with_reducible apply st_meetErrors hP
      | with_reducible apply hP.mem
      | with_reducible apply memWf_mk
      | with_reducible exact id
      | with_reducible apply mwf_filter
      | with_reducible apply mwf_mset
      | with_reducible apply mwf_msetMany
      | with_reducible apply risingFrom_filter
      | with_reducible apply risingFrom_keyInsert0
      | split
      | (with_reducible intro _)
      | with_reducible apply st_foldl
      | with_reducible apply st_foldl_snd
      | dsimp only)

theorem st_wayClear (hP : Stable P) {w : Nat} {s : State} (h_s : P s) : P (wayClear w s) := by
  unfold wayClear
  repeat' (first
      | with_reducible assumption
      | with_reducible apply st_canDrop hP
      | with_reducible apply st_memZero hP
      | split
      | (with_reducible intro _)
      | with_reducible apply st_foldl)

theorem st_stagingReserve (hP : Stable P) {channel : Nat} {s : State} (h_s : P s) : P (stagingReserve channel s) := by
  unfold stagingReserve
  repeat' (first
      | with_reducible assumption
      | with_reducible apply st_memopOutcomes hP
      | with_reducible apply st_memopStage hP
      | with_reducible apply hP.xyl
      | split
      | (with_reducible intro _)
      | with_reducible apply st_foldl
      | with_reducible apply st_foldl_snd
      | dsimp only
      | (refine st_pair (by assumption) ?_))

theorem st_maintGrant (hP : Stable P) {s : State} (h_s : P s) : P (maintGrant s) := by
  unfold maintGrant
  repeat' (first
      | with_reducible assumption
      | with_reducible apply st_setGranted hP
      | split)

theorem st_wayModeWrite (hP : Stable P) {value : Nat} {s : State} (h_s : P s) : P (wayModeWrite value s) := by
  unfold wayModeWrite
  repeat' (first
      | with_reducible assumption
      | with_reducible apply st_count hP
      | with_reducible apply st_regField hP
      | with_reducible apply st_wayClear hP
      | split
      | (with_reducible intro _)
      | with_reducible apply st_foldl)

theorem st_instrWrite (hP : Stable P) {value : Nat} {s : State} (h_s : P s) : P (instrWrite value s) := by
  unfold instrWrite
  repeat' (first
      | with_reducible assumption
      | with_reducible apply hP.xyl
      | split)

theorem st_pprDone (hP : Stable P) {status : Nat} {s : State} (h_s : P s) : P (pprDone status s) := by
  unfold pprDone
  repeat' (first
      | with_reducible assumption
      | with_reducible apply st_regField hP
      | with_reducible apply st_regOr hP
      | with_reducible apply st_undefSector hP
      | with_reducible apply hP.xyl
      | split
      | (with_reducible intro _)
      | with_reducible apply st_foldl)

theorem st_pprGo (hP : Stable P) {value : Nat} {s : State} (h_s : P s) : P (pprGo value s) := by
  unfold pprGo
  repeat' (first
      | with_reducible assumption
      | with_reducible apply st_regField hP
      | with_reducible apply st_regWrite hP
      | with_reducible apply hP.xyl
      | split
      | (with_reducible intro _)
      | with_reducible apply st_foldl
      | with_reducible apply st_foldl_snd
      | dsimp only)

theorem st_groupTimeout (hP : Stable P) {part : Nat} {group : Nat} {sector : Nat} {s : State} (h_s : P s) : P (groupTimeout part group sector s) := by
  unfold groupTimeout
  repeat' (first
      | with_reducible assumption
      | with_reducible apply st_count hP
      | with_reducible apply st_memopOutcomes hP
      | with_reducible apply st_reachTime hP
      | with_reducible apply hP.xyl
      | split)

theorem st_tapDataWrite (hP : Stable P) {value : Nat} {s : State} (h_s : P s) : P (tapDataWrite value s) := by
  unfold tapDataWrite
  repeat' (first
      | with_reducible assumption
      | with_reducible apply st_regWrite hP
      | with_reducible apply hP.xyl
      | split)

theorem st_execMem1500DataWrite (hP : Stable P) {value : Nat} {s : State} {t : State} (h_s : P s) (e : execMem1500DataWrite value s = .next t) : P t := by
  unfold execMem1500DataWrite at e
  first
    | refine st_whileOn e ?_ ?_
    | refine st_whileServed e ?_ ?_
  all_goals repeat' (first
      | with_reducible assumption
      | with_reducible apply st_tapDataWrite hP)

theorem st_execMaintGrant (hP : Stable P) {s : State} {t : State} (h_s : P s) (e : execMaintGrant s = .next t) : P t := by
  unfold execMaintGrant at e
  first
    | refine st_whileOn e ?_ ?_
  all_goals repeat' (first
      | with_reducible assumption
      | with_reducible apply st_maintGrant hP)

theorem st_execXylemMemopApply (hP : Stable P) {j : Nat} {s : State} {t : State} (h_s : P s) (e : execXylemMemopApply j s = .next t) : P t := by
  unfold execXylemMemopApply at e
  first
    | refine st_whileOn e ?_ ?_
  all_goals repeat' (first
      | with_reducible assumption
      | with_reducible apply st_memopApplied hP)

theorem st_execRedGroupTimeout (hP : Stable P) {part : Nat} {group : Nat} {sector : Nat} {s : State} {t : State} (h_s : P s) (e : execRedGroupTimeout part group sector s = .next t) : P t := by
  unfold execRedGroupTimeout at e
  first
    | refine st_whileOn e ?_ ?_
  all_goals repeat' (first
      | with_reducible assumption
      | with_reducible apply st_groupTimeout hP)

theorem st_execPatrolScrub (hP : Stable P) {sector : Nat} {err : Nat} {s : State} {t : State} (h_s : P s) (e : execPatrolScrub sector err s = .next t) : P t := by
  unfold execPatrolScrub at e
  first
    | refine st_whileOn e ?_ ?_
  all_goals repeat' (first
      | with_reducible assumption
      | with_reducible apply st_patrolScrub hP)

theorem st_execPprDone (hP : Stable P) {status : Nat} {s : State} {t : State} (h_s : P s) (e : execPprDone status s = .next t) : P t := by
  unfold execPprDone at e
  first
    | refine st_whileOn e ?_ ?_
  all_goals repeat' (first
      | with_reducible assumption
      | with_reducible apply st_pprDone hP)

theorem st_execMem1500DataRead (hP : Stable P) {s : State} {t : State} (h_s : P s) (e : execMem1500DataRead s = .next t) : P t := by
  unfold execMem1500DataRead at e
  first
    | refine st_whileOn e ?_ ?_
    | refine st_whileServed e ?_ ?_
  all_goals repeat' (first
      | with_reducible assumption
      | with_reducible apply st_tapDataRead hP)

theorem st_execMaintRequest (hP : Stable P) {value : Nat} {s : State} {t : State} (h_s : P s) (e : execMaintRequest value s = .next t) : P t := by
  unfold execMaintRequest at e
  first
    | refine st_whileOn e ?_ ?_
    | refine st_whileServed e ?_ ?_
  all_goals repeat' (first
      | with_reducible assumption
      | with_reducible apply st_testCtlWrite hP)

theorem st_execRedStagingReserve (hP : Stable P) {channel : Nat} {s : State} {t : State} (h_s : P s) (e : execRedStagingReserve channel s = .next t) : P t := by
  unfold execRedStagingReserve at e
  first
    | refine st_whileOn e ?_ ?_
  all_goals repeat' (first
      | with_reducible assumption
      | with_reducible apply st_stagingReserve hP)

theorem st_execTaprootRepairDone (hP : Stable P) {soft : Bool} {s : State} {t : State} (h_s : P s) (e : execTaprootRepairDone soft s = .next t) : P t := by
  unfold execTaprootRepairDone at e
  first
    | refine st_whileOn e ?_ ?_
  all_goals repeat' (first
      | with_reducible assumption
      | with_reducible apply st_repairDone hP)

theorem st_execPprGo (hP : Stable P) {value : Nat} {s : State} {t : State} (h_s : P s) (e : execPprGo value s = .next t) : P t := by
  unfold execPprGo at e
  first
    | refine st_whileOn e ?_ ?_
    | refine st_whileServed e ?_ ?_
  all_goals repeat' (first
      | with_reducible assumption
      | with_reducible apply st_pprGo hP)

theorem st_execCanWayModeWrite (hP : Stable P) {value : Nat} {s : State} {t : State} (h_s : P s) (e : execCanWayModeWrite value s = .next t) : P t := by
  unfold execCanWayModeWrite at e
  first
    | refine st_whileOn e ?_ ?_
    | refine st_whileServed e ?_ ?_
  all_goals repeat' (first
      | with_reducible assumption
      | with_reducible apply st_wayModeWrite hP)

theorem st_execMaintRelease (hP : Stable P) {value : Nat} {s : State} {t : State} (h_s : P s) (e : execMaintRelease value s = .next t) : P t := by
  unfold execMaintRelease at e
  first
    | refine st_whileOn e ?_ ?_
    | refine st_whileServed e ?_ ?_
  all_goals repeat' (first
      | with_reducible assumption
      | with_reducible apply st_testCtlWrite hP)

theorem st_execMem1500InstrWrite (hP : Stable P) {value : Nat} {s : State} {t : State} (h_s : P s) (e : execMem1500InstrWrite value s = .next t) : P t := by
  unfold execMem1500InstrWrite at e
  first
    | refine st_whileOn e ?_ ?_
    | refine st_whileServed e ?_ ?_
  all_goals repeat' (first
      | with_reducible assumption
      | with_reducible apply st_instrWrite hP)

end Sys2Proof.Machine
end

