-- ==== Sys2Proof/Laws/StableLinks.lean ====
section
/-!
SUPPORT. The operations of Machine/Links keep every stable predicate.
-/

set_option linter.unusedVariables false

namespace Sys2Proof.Machine

variable {P : State → Prop}

theorem st_helloKind (hP : Stable P) {n : Nat} {m : HelloMsg} {s : State} (h_s : P s) : P (helloKind n m s) := by
  unfold helloKind
  repeat' (first
      | with_reducible assumption
      | with_reducible apply st_setChord hP
      | with_reducible apply hP.fab
      | split)

theorem st_hear (hP : Stable P) {uid : Nat} {candidate : Bool} {reserve : Bool} {term : Nat} {s : State} (h_s : P s) : P (hear uid candidate reserve term s) := by
  unfold hear
  repeat' (first
      | with_reducible assumption
      | with_reducible apply hP.fab)

theorem st_helloArrives (hP : Stable P) {n : Nat} {m : HelloMsg} {s : State} (h_s : P s) : P (helloArrives n m s) := by
  unfold helloArrives
  repeat' (first
      | with_reducible assumption
      | with_reducible apply st_count hP
      | with_reducible apply st_hear hP
      | with_reducible apply st_helloKind hP
      | with_reducible apply st_inboxTake hP
      | with_reducible apply st_pumpWaiting hP
      | with_reducible apply hP.fab
      | split)

theorem st_chordRetrain (hP : Stable P) {n : Nat} {s : State} (h_s : P s) : P (chordRetrain n s) := by
  unfold chordRetrain
  repeat' (first
      | with_reducible assumption
      | with_reducible apply st_count hP
      | with_reducible apply st_setChord hP)

theorem st_flitBad (hP : Stable P) {n : Nat} {s : State} (h_s : P s) : P (flitBad n s) := by
  unfold flitBad
  repeat' (first
      | with_reducible assumption
      | with_reducible apply st_chordRetrain hP
      | with_reducible apply st_count hP
      | with_reducible apply st_setChord hP
      | split
      | (with_reducible intro _)
      | with_reducible apply st_foldl
      | with_reducible apply st_foldl_snd
      | dsimp only)

theorem st_sendHello (hP : Stable P) {n : Nat} {s : State} (h_s : P s) : P (sendHello n s) := by
  unfold sendHello
  repeat' (first
      | with_reducible assumption
      | with_reducible apply st_sendOn hP)

theorem st_helloTimer (hP : Stable P) {n : Nat} {s : State} (h_s : P s) : P (helloTimer n s) := by
  unfold helloTimer
  repeat' (first
      | with_reducible assumption
      | with_reducible apply st_sendHello hP
      | split
      | (with_reducible intro _)
      | with_reducible apply st_foldl
      | with_reducible apply st_foldl_snd
      | dsimp only)

theorem st_helloAll (hP : Stable P) {s : State} (h_s : P s) : P (helloAll s) := by
  unfold helloAll
  repeat' (first
      | with_reducible assumption
      | with_reducible apply st_sendHello hP
      | split
      | (with_reducible intro _)
      | with_reducible apply st_foldl)

theorem st_chordRegsReset (hP : Stable P) {n : Nat} {s : State} (h_s : P s) : P (chordRegsReset n s) :=
  hP.regs _ _ (fun w => Registers.wf_filter _ w) h_s


theorem st_chordDrainEnd (hP : Stable P) {n : Nat} {s : State} (h_s : P s) : P (chordDrainEnd n s) := by
  unfold chordDrainEnd
  repeat' (first
      | with_reducible assumption
      | with_reducible apply st_chordRegsReset hP
      | with_reducible apply st_setChord hP
      | split
      | (with_reducible intro _)
      | with_reducible apply st_foldl
      | with_reducible apply st_foldl_snd
      | dsimp only)

theorem st_bodyLost_waitLost (hP : Stable P) {tag : Nat} {s : State} (h_s : P s) : P (bodyLost.waitLost tag s) := by
  unfold bodyLost.waitLost
  repeat' (first
      | with_reducible assumption
      | with_reducible apply st_recordFail hP
      | with_reducible apply st_takeWaits hP
      | split
      | (with_reducible intro _)
      | with_reducible apply st_foldl
      | with_reducible apply st_foldl_snd
      | dsimp only
      | (refine st_pair (by assumption) ?_))

theorem st_bodyLost (hP : Stable P) {dst : Nat} {b : Body} {s : State} (h_s : P s) : P (bodyLost dst b s) := by
  unfold bodyLost
  repeat' (first
      | with_reducible assumption
      | with_reducible apply st_bodyLost_waitLost hP
      | with_reducible apply st_fillLost hP
      | with_reducible apply st_memopOutcome hP
      | with_reducible apply st_repLost hP
      | with_reducible apply st_updLost hP
      | with_reducible apply hP.tbl
      | with_reducible apply hP.xyl
      | split)

theorem st_timedLost (hP : Stable P) {t : Timed} {s : State} (h_s : P s) : P (timedLost t s) := by
  unfold timedLost
  repeat' (first
      | with_reducible assumption
      | with_reducible apply st_bodyLost hP
      | with_reducible apply st_pumpWaiting hP
      | with_reducible apply hP.fab)

theorem st_chordFail (hP : Stable P) {n : Nat} {s : State} (h_s : P s) : P (chordFail n s) := by
  unfold chordFail
  repeat' (first
      | with_reducible assumption
      | with_reducible apply st_countN hP
      | with_reducible apply st_setChord hP
      | with_reducible apply st_timedLost hP
      | split
      | (with_reducible intro _)
      | with_reducible apply st_foldl
      | with_reducible apply st_foldl_snd
      | dsimp only)

theorem st_chordEnable1 (hP : Stable P) {n : Nat} {s : State} (h_s : P s) : P (chordEnable1 n s) := by
  unfold chordEnable1
  repeat' (first
      | with_reducible assumption
      | with_reducible apply st_regField hP
      | with_reducible apply st_setChord hP
      | split
      | (with_reducible intro _)
      | with_reducible apply st_foldl
      | with_reducible apply st_foldl_snd
      | dsimp only)

theorem st_chordTrained (hP : Stable P) {n : Nat} {ok : Bool} {s : State} (h_s : P s) : P (chordTrained n ok s) := by
  unfold chordTrained
  repeat' (first
      | with_reducible assumption
      | with_reducible apply st_chordPump hP
      | with_reducible apply st_count hP
      | with_reducible apply st_pumpWaiting hP
      | with_reducible apply st_setChord hP
      | split
      | (with_reducible intro _)
      | with_reducible apply st_foldl
      | with_reducible apply st_foldl_snd
      | dsimp only)

theorem st_forward (hP : Stable P) {n : Nat} {dst : Nat} {vc : Nat} {l : List Byte} {s : State} (h_s : P s) : P (forward n dst vc l s) := by
  unfold forward
  repeat' (first
      | with_reducible assumption
      | with_reducible apply st_queueBytes hP
      | split
      | (with_reducible intro _)
      | with_reducible apply st_foldl
      | with_reducible apply st_foldl_snd
      | dsimp only)

theorem st_chordDisable1 (hP : Stable P) {n : Nat} {s : State} (h_s : P s) : P (chordDisable1 n s) := by
  unfold chordDisable1
  repeat' (first
      | with_reducible assumption
      | with_reducible apply st_regField hP
      | with_reducible apply st_setChord hP
      | split
      | (with_reducible intro _)
      | with_reducible apply st_foldl
      | with_reducible apply st_foldl_snd
      | dsimp only)

theorem st_msgIn (hP : Stable P) {n : Nat} {vc : Nat} {l : List Byte} {s : State} (h_s : P s) : P (msgIn n vc l s) := by
  unfold msgIn
  repeat' (first
      | with_reducible assumption
      | with_reducible apply st_count hP
      | with_reducible apply st_forward hP
      | with_reducible apply hP.fab
      | split
      | (with_reducible intro _)
      | with_reducible apply st_foldl
      | with_reducible apply st_foldl_snd
      | dsimp only)

theorem st_retrainTimeout (hP : Stable P) {n : Nat} {s : State} (h_s : P s) : P (retrainTimeout n s) := by
  unfold retrainTimeout
  repeat' (first
      | with_reducible assumption
      | with_reducible apply st_chordFail hP
      | split)

theorem st_flitReplay (hP : Stable P) {n : Nat} {s : State} (h_s : P s) : P (flitReplay n s) := by
  unfold flitReplay
  repeat' (first
      | with_reducible assumption
      | with_reducible apply st_chordRetrain hP
      | with_reducible apply st_count hP
      | with_reducible apply st_countN hP
      | with_reducible apply st_setChord hP
      | split
      | (with_reducible intro _)
      | with_reducible apply st_foldl
      | with_reducible apply st_foldl_snd
      | dsimp only)

theorem st_areaIn (hP : Stable P) {n : Nat} {w : Nat} {area : List Byte} {s : State} (h_s : P s) : P (areaIn n w area s) := by
  unfold areaIn
  repeat' (first
      | with_reducible assumption
      | with_reducible apply st_msgIn hP
      | with_reducible apply st_setChord hP
      | split
      | (with_reducible intro _)
      | with_reducible apply st_foldl
      | with_reducible apply st_foldl_snd
      | dsimp only)

theorem st_flitIn (hP : Stable P) {n : Nat} {bytes : List Byte} {s : State} (h_s : P s) : P (flitIn n bytes s) := by
  unfold flitIn
  repeat' (first
      | with_reducible assumption
      | with_reducible apply st_areaIn hP
      | with_reducible apply st_chordPump hP
      | with_reducible apply st_count hP
      | with_reducible apply st_evt hP
      | with_reducible apply st_flitBad hP
      | with_reducible apply st_flitReplay hP
      | with_reducible apply st_setChord hP
      | split
      | (with_reducible intro _)
      | with_reducible apply st_foldl
      | with_reducible apply st_foldl_snd
      | dsimp only)

theorem st_withHello (hP : Stable P) {f : State → State} {s : State} (h_f : ∀ (y0 : State), P y0 → P (f y0)) (h_s : P s) : P (withHello f s) := by
  unfold withHello
  repeat' (first
      | with_reducible assumption
      | with_reducible apply st_helloAll hP
      | with_reducible apply h_f
      | split
      | (with_reducible intro _)
      | with_reducible apply st_foldl
      | with_reducible apply st_foldl_snd
      | dsimp only)

theorem st_waitingLost (hP : Stable P) {dev : Nat} {s : State} (h_s : P s) : P (waitingLost dev s) := by
  unfold waitingLost
  repeat' (first
      | with_reducible assumption
      | with_reducible apply st_bodyLost hP
      | with_reducible apply hP.fab
      | split
      | (with_reducible intro _)
      | with_reducible apply st_foldl)

theorem st_execChordDisable (hP : Stable P) {h : Hdr} {mask : Nat} {s : State} {t : State} (h_s : P s) (e : execChordDisable h mask s = .next t) : P t := by
  unfold execChordDisable at e
  first
    | refine st_whileOn e ?_ ?_
    | refine st_whileServed e ?_ ?_
    | refine st_whileDoorbell e ?_ ?_
    | (cases e)
  all_goals repeat' (first
      | with_reducible assumption
      | with_reducible apply st_chordDisable1 hP
      | with_reducible apply st_deliver hP
      | split
      | (with_reducible intro _)
      | with_reducible apply st_foldl)

theorem st_execHelloTimer (hP : Stable P) {n : Nat} {s : State} {t : State} (h_s : P s) (e : execHelloTimer n s = .next t) : P t := by
  unfold execHelloTimer at e
  first
    | refine st_whileOn e ?_ ?_
  all_goals repeat' (first
      | with_reducible assumption
      | with_reducible apply st_helloTimer hP)

theorem st_execHello (hP : Stable P) {n : Nat} {m : HelloMsg} {s : State} {t : State} (h_s : P s) (e : execHello n m s = .next t) : P t := by
  unfold execHello at e
  first
    | refine st_whileOn e ?_ ?_
  all_goals repeat' (first
      | with_reducible assumption
      | with_reducible apply st_helloArrives hP)

theorem st_execFlit (hP : Stable P) {n : Nat} {bytes : List Byte} {s : State} {t : State} (h_s : P s) (e : execFlit n bytes s = .next t) : P t := by
  unfold execFlit at e
  first
    | refine st_whileOn e ?_ ?_
  all_goals repeat' (first
      | with_reducible assumption
      | with_reducible apply st_flitIn hP)

theorem st_execChordDrainEnd (hP : Stable P) {n : Nat} {s : State} {t : State} (h_s : P s) (e : execChordDrainEnd n s = .next t) : P t := by
  unfold execChordDrainEnd at e
  first
    | refine st_whileOn e ?_ ?_
  all_goals repeat' (first
      | with_reducible assumption
      | with_reducible apply st_chordDrainEnd hP)

theorem st_execChordTrainDone (hP : Stable P) {n : Nat} {ok : Bool} {s : State} {t : State} (h_s : P s) (e : execChordTrainDone n ok s = .next t) : P t := by
  unfold execChordTrainDone at e
  first
    | refine st_whileOn e ?_ ?_
  all_goals repeat' (first
      | with_reducible assumption
      | with_reducible apply st_chordTrained hP)

theorem st_execChordEnable (hP : Stable P) {h : Hdr} {mask : Nat} {s : State} {t : State} (h_s : P s) (e : execChordEnable h mask s = .next t) : P t := by
  unfold execChordEnable at e
  first
    | refine st_whileOn e ?_ ?_
    | refine st_whileServed e ?_ ?_
    | refine st_whileDoorbell e ?_ ?_
    | (cases e)
  all_goals repeat' (first
      | with_reducible assumption
      | with_reducible apply st_chordEnable1 hP
      | with_reducible apply st_deliver hP
      | split
      | (with_reducible intro _)
      | with_reducible apply st_foldl)

end Sys2Proof.Machine
end

