-- ==== Sys2Proof/Laws/StableDomain.lean ====
section
/-!
SUPPORT. The operations of Machine/Domain keep every stable predicate.
-/

set_option linter.unusedVariables false

namespace Sys2Proof.Machine

variable {P : State → Prop}

theorem st_routesArrive (hP : Stable P) {rs : List (Nat × Nat)} {s : State} (h_s : P s) : P (routesArrive rs s) := by
  unfold routesArrive
  repeat' (first
      | with_reducible assumption
      | with_reducible apply st_pumpWaiting hP
      | with_reducible apply hP.fab
      | split)

theorem st_addMember (hP : Stable P) {m : Member} {s : State} (h_s : P s) : P (addMember m s) := by
  unfold addMember
  repeat' (first
      | with_reducible assumption
      | with_reducible apply hP.fab)

theorem st_sendRoutes (hP : Stable P) {s : State} (h_s : P s) : P (sendRoutes s) := by
  unfold sendRoutes
  repeat' (first
      | with_reducible assumption
      | with_reducible apply st_send hP
      | with_reducible apply hP.fab
      | split
      | (with_reducible intro _)
      | with_reducible apply st_foldl)

theorem st_sendAssign (hP : Stable P) {u : Nat} {d : Nat} {s : State} (h_s : P s) : P (sendAssign u d s) := by
  unfold sendAssign
  repeat' (first
      | with_reducible assumption
      | with_reducible apply st_send hP)

theorem st_switchStart (hP : Stable P) {failed : Nat} {reserve : Nat} {s : State} (h_s : P s) : P (switchStart failed reserve s) := by
  unfold switchStart
  repeat' (first
      | with_reducible assumption
      | with_reducible apply st_addMember hP
      | with_reducible apply st_sendAssign hP
      | with_reducible apply st_sendRoutes hP
      | with_reducible apply hP.fab
      | split)

theorem st_becomeManager (hP : Stable P) {term : Nat} {s : State} (h_s : P s) : P (becomeManager term s) := by
  unfold becomeManager
  repeat' (first
      | with_reducible assumption
      | with_reducible apply hP.fab)

theorem st_keepCopy (hP : Stable P) {i : MgrItem} {s : State} (h_s : P s) : P (keepCopy i s) := by
  unfold keepCopy
  repeat' (first
      | with_reducible assumption
      | with_reducible apply st_addMember hP
      | with_reducible apply hP.fab
      | split)

theorem st_downLocal (hP : Stable P) {dev : Nat} {s : State} (h_s : P s) : P (downLocal dev s) := by
  unfold downLocal
  repeat' (first
      | with_reducible assumption
      | with_reducible apply st_graftDown hP
      | with_reducible apply st_lookDown hP
      | with_reducible apply st_restoreAcks hP
      | with_reducible apply st_tablesDown hP
      | with_reducible apply st_updRelease hP
      | with_reducible apply st_waitingLost hP
      | with_reducible apply hP.fab)

theorem st_deviceDown (hP : Stable P) {dev : Nat} {s : State} (h_s : P s) : P (deviceDown dev s) := by
  unfold deviceDown
  repeat' (first
      | with_reducible assumption
      | with_reducible apply st_addMember hP
      | with_reducible apply st_downLocal hP
      | with_reducible apply st_raiseVector hP
      | split)

theorem st_grantImage (hP : Stable P) {s : State} (h_s : P s) : P (grantImage s) := by
  unfold grantImage
  repeat' (first
      | with_reducible assumption
      | with_reducible apply st_send hP
      | with_reducible apply hP.sec
      | split)

theorem st_sendJoined (hP : Stable P) {s : State} (h_s : P s) : P (sendJoined s) := by
  unfold sendJoined
  repeat' (first
      | with_reducible assumption
      | with_reducible apply st_send hP)

theorem st_assignArrives (hP : Stable P) {h : Hdr} {uid : Nat} {dev : Nat} {reserve : Bool} {term : Nat} {members : Nat} {s : State} (h_s : P s) : P (assignArrives h uid dev reserve term members s) := by
  unfold assignArrives
  repeat' (first
      | with_reducible assumption
      | with_reducible apply st_count hP
      | with_reducible apply st_grantImage hP
      | with_reducible apply st_sendJoined hP
      | with_reducible apply hP.fab
      | split)

theorem st_updMember (hP : Stable P) {d : Nat} {f : Member → Member} {s : State} (h_s : P s) : P (updMember d f s) := by
  unfold updMember
  repeat' (first
      | with_reducible assumption
      | with_reducible apply hP.fab)

theorem st_sendImage (hP : Stable P) {dev : Nat} {s : State} (h_s : P s) : P (sendImage dev s) := by
  unfold sendImage
  repeat' (first
      | with_reducible assumption
      | with_reducible apply st_send hP
      | split
      | (with_reducible intro _)
      | with_reducible apply st_foldl)

theorem st_copyItem (hP : Stable P) {d : Nat} {i : MgrItem} {s : State} (h_s : P s) : P (copyItem d i s) := by
  unfold copyItem
  repeat' (first
      | with_reducible assumption
      | with_reducible apply st_send hP
      | with_reducible apply hP.fab)

theorem st_copyState (hP : Stable P) {d : Nat} {s : State} (h_s : P s) : P (copyState d s) := by
  unfold copyState
  repeat' (first
      | with_reducible assumption
      | with_reducible apply st_copyItem hP
      | split
      | (with_reducible intro _)
      | with_reducible apply st_foldl)

theorem st_rebuild (hP : Stable P) {s : State} (h_s : P s) : P (rebuild s) := by
  unfold rebuild
  repeat' (first
      | with_reducible assumption
      | with_reducible apply st_migAbandon hP
      | with_reducible apply st_migSpread hP
      | with_reducible apply st_sendAll hP
      | with_reducible apply hP.tbl
      | split
      | (with_reducible intro _)
      | with_reducible apply st_foldl)

theorem st_formCheck (hP : Stable P) {s : State} (h_s : P s) : P (formCheck s) := by
  unfold formCheck
  repeat' (first
      | with_reducible assumption
      | with_reducible apply st_raiseVector hP
      | with_reducible apply st_rebuild hP
      | with_reducible apply hP.fab
      | split
      | (with_reducible intro _)
      | with_reducible apply st_foldl
      | with_reducible apply st_foldl_snd
      | dsimp only)

theorem st_switchCheck (hP : Stable P) {failed : Nat} {s : State} (h_s : P s) : P (switchCheck failed s) := by
  unfold switchCheck
  repeat' (first
      | with_reducible assumption
      | with_reducible apply st_send hP
      | with_reducible apply hP.fab
      | split
      | (with_reducible intro _)
      | with_reducible apply st_foldl)

theorem st_restoreBegin (hP : Stable P) {dev : Nat} {s : State} (h_s : P s) : P (restoreBegin dev s) := by
  unfold restoreBegin
  repeat' (first
      | with_reducible assumption
      | with_reducible apply st_lookDown hP
      | with_reducible apply st_restoreAcks hP
      | with_reducible apply st_send hP
      | with_reducible apply st_switchCheck hP
      | with_reducible apply hP.fab
      | split)

theorem st_joinedArrives (hP : Stable P) {uid : Nat} {dev : Nat} {report : Option (List JoinEntry)} {s : State} (h_s : P s) : P (joinedArrives uid dev report s) := by
  unfold joinedArrives
  repeat' (first
      | with_reducible assumption
      | with_reducible apply st_copyState hP
      | with_reducible apply st_formCheck hP
      | with_reducible apply st_restoreBegin hP
      | with_reducible apply st_sendImage hP
      | with_reducible apply st_updMember hP
      | with_reducible apply hP.fab
      | split)

theorem st_switchEnd (hP : Stable P) {o : SwitchOp} {act : Cmd → State → State} {s : State} (h_act : ∀ (y0 : Cmd) (y1 : State), P y1 → P (act y0 y1)) (h_s : P s) : P (switchEnd o act s) := by
  unfold switchEnd
  repeat' (first
      | with_reducible assumption
      | with_reducible apply hP.fab
      | with_reducible apply h_act)

theorem st_switchLost (hP : Stable P) {dev : Nat} {s : State} (h_s : P s) : P (switchLost dev s) := by
  unfold switchLost
  repeat' (first
      | with_reducible assumption
      | with_reducible apply st_faultCmd hP
      | with_reducible apply st_switchCheck hP
      | with_reducible apply st_switchEnd hP
      | split
      | (with_reducible intro _)
      | with_reducible apply st_foldl)

theorem st_pubsLost (hP : Stable P) {dev : Nat} {s : State} (h_s : P s) : P (pubsLost dev s) := by
  unfold pubsLost
  repeat' (first
      | with_reducible assumption
      | with_reducible apply st_pubAbort hP
      | split
      | (with_reducible intro _)
      | with_reducible apply st_foldl)

theorem st_nameDeputy (hP : Stable P) {s : State} (h_s : P s) : P (nameDeputy s) := by
  unfold nameDeputy
  repeat' (first
      | with_reducible assumption
      | with_reducible apply st_copyState hP
      | with_reducible apply st_send hP
      | with_reducible apply hP.fab
      | split
      | (with_reducible intro _)
      | with_reducible apply st_foldl
      | with_reducible apply st_foldl_snd
      | dsimp only)

theorem st_ackAct (hP : Stable P) {i : MgrItem} {s : State} (h_s : P s) : P (ackAct i s) := by
  unfold ackAct
  repeat' (first
      | with_reducible assumption
      | with_reducible apply st_migFinish hP
      | with_reducible apply st_migStart hP
      | with_reducible apply st_sendAssign hP
      | with_reducible apply st_sendCommit hP
      | with_reducible apply st_switchStart hP
      | split)

theorem st_deputyLost (hP : Stable P) {s : State} (h_s : P s) : P (deputyLost s) := by
  unfold deputyLost
  repeat' (first
      | with_reducible assumption
      | with_reducible apply st_ackAct hP
      | with_reducible apply st_nameDeputy hP
      | with_reducible apply hP.fab
      | split
      | (with_reducible intro _)
      | with_reducible apply st_foldl)

theorem st_declareDown (hP : Stable P) {dev : Nat} {s : State} (h_s : P s) : P (declareDown dev s) := by
  unfold declareDown
  repeat' (first
      | with_reducible assumption
      | with_reducible apply st_deputyLost hP
      | with_reducible apply st_downLocal hP
      | with_reducible apply st_pubsLost hP
      | with_reducible apply st_raiseVector hP
      | with_reducible apply st_send hP
      | with_reducible apply st_switchLost hP
      | with_reducible apply st_updMember hP
      | split
      | (with_reducible intro _)
      | with_reducible apply st_foldl
      | with_reducible apply st_foldl_snd
      | dsimp only)

theorem st_settleStand (hP : Stable P) {s : State} (h_s : P s) : P (settleStand s) := by
  unfold settleStand
  repeat' (first
      | with_reducible assumption
      | with_reducible apply hP.fab)

theorem st_claimArrives (hP : Stable P) {m : ClaimMsg} {s : State} (h_s : P s) : P (claimArrives m s) := by
  unfold claimArrives
  repeat' (first
      | with_reducible assumption
      | with_reducible apply st_count hP
      | with_reducible apply st_settleStand hP
      | with_reducible apply hP.fab
      | split
      | (with_reducible intro _)
      | with_reducible apply st_foldl
      | with_reducible apply st_foldl_snd
      | dsimp only)

theorem st_freshElection (hP : Stable P) {s : State} (h_s : P s) : P (freshElection s) := by
  unfold freshElection
  repeat' (first
      | with_reducible assumption
      | with_reducible apply st_reachTime hP
      | with_reducible apply st_settleStand hP
      | with_reducible apply hP.fab
      | split)

theorem st_assignId (hP : Stable P) {u : Nat} {s : State} (h_s : P s) : P (assignId u s) := by
  unfold assignId
  repeat' (first
      | with_reducible assumption
      | with_reducible apply st_addMember hP
      | with_reducible apply hP.fab)

theorem st_keepaliveMiss (hP : Stable P) {dev : Nat} {s : State} (h_s : P s) : P (keepaliveMiss dev s) := by
  unfold keepaliveMiss
  repeat' (first
      | with_reducible assumption
      | with_reducible apply st_declareDown hP
      | with_reducible apply st_reachTime hP
      | split)

theorem st_keepaliveTimer (hP : Stable P) {s : State} (h_s : P s) : P (keepaliveTimer s) := by
  unfold keepaliveTimer
  repeat' (first
      | with_reducible assumption
      | with_reducible apply st_send hP
      | split)

theorem st_mgrStateAcked (hP : Stable P) {copy : Nat} {s : State} (h_s : P s) : P (mgrStateAcked copy s) := by
  unfold mgrStateAcked
  repeat' (first
      | with_reducible assumption
      | with_reducible apply st_ackAct hP
      | with_reducible apply hP.fab
      | split)

theorem st_takeover (hP : Stable P) {s : State} (h_s : P s) : P (takeover s) := by
  unfold takeover
  repeat' (first
      | with_reducible assumption
      | with_reducible apply st_becomeManager hP
      | with_reducible apply st_declareDown hP
      | with_reducible apply st_graftTakeover hP
      | with_reducible apply st_nameDeputy hP
      | with_reducible apply st_tablesTakeover hP
      | with_reducible apply hP.fab)

theorem st_deputyTakeover (hP : Stable P) {s : State} (h_s : P s) : P (deputyTakeover s) := by
  unfold deputyTakeover
  repeat' (first
      | with_reducible assumption
      | with_reducible apply st_reachTime hP
      | with_reducible apply st_takeover hP
      | with_reducible apply st_withHello hP
      | split
      | (with_reducible intro _))

theorem st_departArrives (hP : Stable P) {src : Nat} {s : State} (h_s : P s) : P (departArrives src s) := by
  unfold departArrives
  repeat' (first
      | with_reducible assumption
      | with_reducible apply st_declareDown hP
      | with_reducible apply st_takeover hP
      | with_reducible apply st_withHello hP
      | split
      | (with_reducible intro _))

theorem st_announceTimer (hP : Stable P) {s : State} (h_s : P s) : P (announceTimer s) := by
  unfold announceTimer
  repeat' (first
      | with_reducible assumption
      | with_reducible apply st_send hP
      | split)

theorem st_claimDomain (hP : Stable P) {s : State} (h_s : P s) : P (claimDomain s) := by
  unfold claimDomain
  repeat' (first
      | with_reducible assumption
      | with_reducible apply st_assignId hP
      | with_reducible apply st_becomeManager hP
      | with_reducible apply st_formCheck hP
      | with_reducible apply st_hear hP
      | with_reducible apply st_mgrCopy hP
      | with_reducible apply st_send hP
      | with_reducible apply st_sendAssign hP
      | with_reducible apply st_sendRoutes hP
      | with_reducible apply hP.fab
      | split
      | (with_reducible intro _)
      | with_reducible apply st_foldl)

theorem st_announceArrives (hP : Stable P) {uid : Nat} {candidate : Bool} {reserve : Bool} {dev : Nat} {term : Nat} {s : State} (h_s : P s) : P (announceArrives uid candidate reserve dev term s) := by
  unfold announceArrives
  repeat' (first
      | with_reducible assumption
      | with_reducible apply st_assignId hP
      | with_reducible apply st_count hP
      | with_reducible apply st_hear hP
      | with_reducible apply st_mgrCopy hP
      | with_reducible apply st_sendAssign hP
      | with_reducible apply st_sendRoutes hP
      | with_reducible apply hP.fab
      | split
      | (with_reducible intro _)
      | with_reducible apply st_foldl
      | with_reducible apply st_foldl_snd
      | dsimp only)

theorem st_electionWindow (hP : Stable P) {s : State} (h_s : P s) : P (electionWindow s) := by
  unfold electionWindow
  repeat' (first
      | with_reducible assumption
      | with_reducible apply st_claimDomain hP
      | with_reducible apply st_withHello hP
      | split
      | (with_reducible intro _))

theorem st_execClaim (hP : Stable P) {h : Hdr} {m : ClaimMsg} {s : State} {t : State} (h_s : P s) (e : execClaim h m s = .next t) : P t := by
  unfold execClaim at e
  first
    | refine st_whileOn e ?_ ?_
    | refine st_whileServed e ?_ ?_
    | refine st_whileDoorbell e ?_ ?_
    | (cases e)
  all_goals repeat' (first
      | with_reducible assumption
      | with_reducible apply st_claimArrives hP
      | with_reducible apply st_deliver hP
      | with_reducible apply st_withHello hP
      | split
      | (with_reducible intro _))

theorem st_execElectionWindow (hP : Stable P) {s : State} {t : State} (h_s : P s) (e : execElectionWindow s = .next t) : P t := by
  unfold execElectionWindow at e
  first
    | refine st_whileOn e ?_ ?_
  all_goals repeat' (first
      | with_reducible assumption
      | with_reducible apply st_electionWindow hP)

theorem st_execRouteSet (hP : Stable P) {h : Hdr} {routes : List (Nat × Nat)} {s : State} {t : State} (h_s : P s) (e : execRouteSet h routes s = .next t) : P t := by
  unfold execRouteSet at e
  first
    | refine st_whileOn e ?_ ?_
    | refine st_whileServed e ?_ ?_
    | refine st_whileDoorbell e ?_ ?_
    | (cases e)
  all_goals repeat' (first
      | with_reducible assumption
      | with_reducible apply st_deliver hP
      | with_reducible apply st_routesArrive hP
      | split
      | (with_reducible intro _))

theorem st_execAnnounceTimer (hP : Stable P) {s : State} {t : State} (h_s : P s) (e : execAnnounceTimer s = .next t) : P t := by
  unfold execAnnounceTimer at e
  first
    | refine st_whileOn e ?_ ?_
  all_goals repeat' (first
      | with_reducible assumption
      | with_reducible apply st_announceTimer hP)

theorem st_execAssign (hP : Stable P) {h : Hdr} {uid : Nat} {dev : Nat} {reserve : Bool} {term : Nat} {members : Nat} {s : State} {t : State} (h_s : P s) (e : execAssign h uid dev reserve term members s = .next t) : P t := by
  unfold execAssign at e
  first
    | refine st_whileOn e ?_ ?_
    | refine st_whileServed e ?_ ?_
    | refine st_whileDoorbell e ?_ ?_
    | (cases e)
  all_goals repeat' (first
      | with_reducible assumption
      | with_reducible apply st_assignArrives hP
      | with_reducible apply st_deliver hP
      | with_reducible apply st_withHello hP
      | split
      | (with_reducible intro _))

theorem st_execKeepalive (hP : Stable P) {h : Hdr} {time : Nat} {s : State} {t : State} (h_s : P s) (e : execKeepalive h time s = .next t) : P t := by
  unfold execKeepalive at e
  first
    | refine st_whileOn e ?_ ?_
    | refine st_whileServed e ?_ ?_
    | refine st_whileDoorbell e ?_ ?_
    | (cases e)
  all_goals repeat' (first
      | with_reducible assumption
      | with_reducible apply st_deliver hP
      | with_reducible apply st_updMember hP
      | split
      | (with_reducible intro _))

theorem st_execKeepaliveTimer (hP : Stable P) {s : State} {t : State} (h_s : P s) (e : execKeepaliveTimer s = .next t) : P t := by
  unfold execKeepaliveTimer at e
  first
    | refine st_whileOn e ?_ ?_
  all_goals repeat' (first
      | with_reducible assumption
      | with_reducible apply st_keepaliveTimer hP)

theorem st_execAnnounce (hP : Stable P) {uid : Nat} {mgrCapable : Bool} {candidate : Bool} {reserve : Bool} {dev : Nat} {term : Nat} {s : State} {t : State} (h_s : P s) (e : execAnnounce uid mgrCapable candidate reserve dev term s = .next t) : P t := by
  unfold execAnnounce at e
  first
    | refine st_whileOn e ?_ ?_
  all_goals repeat' (first
      | with_reducible assumption
      | with_reducible apply st_announceArrives hP
      | with_reducible apply st_inboxTake hP)

theorem st_execFreshElection (hP : Stable P) {s : State} {t : State} (h_s : P s) (e : execFreshElection s = .next t) : P t := by
  unfold execFreshElection at e
  first
    | refine st_whileOn e ?_ ?_
  all_goals repeat' (first
      | with_reducible assumption
      | with_reducible apply st_freshElection hP
      | with_reducible apply st_withHello hP
      | split
      | (with_reducible intro _))

theorem st_execCredit (hP : Stable P) {h : Hdr} {s : State} {t : State} (h_s : P s) (e : execCredit h s = .next t) : P t := by
  unfold execCredit at e
  first
    | refine st_whileOn e ?_ ?_
    | refine st_whileServed e ?_ ?_
    | refine st_whileDoorbell e ?_ ?_
    | (cases e)
  all_goals repeat' (first
      | with_reducible assumption
      | with_reducible apply st_deliver hP
      | split
      | (with_reducible intro _)
      | with_reducible apply st_foldl
      | with_reducible apply st_foldl_snd
      | dsimp only
      | (refine st_pair (by assumption) ?_)
      | assumption)

theorem st_execMgrState (hP : Stable P) {h : Hdr} {item : MgrItem} {copy : Nat} {s : State} {t : State} (h_s : P s) (e : execMgrState h item copy s = .next t) : P t := by
  unfold execMgrState at e
  first
    | refine st_whileOn e ?_ ?_
    | refine st_whileServed e ?_ ?_
    | refine st_whileDoorbell e ?_ ?_
    | (cases e)
  all_goals repeat' (first
      | with_reducible assumption
      | with_reducible apply st_deliver hP
      | with_reducible apply st_keepCopy hP
      | with_reducible apply st_send hP
      | split
      | (with_reducible intro _))

theorem st_execMgrStateAck (hP : Stable P) {h : Hdr} {kind : Nat} {copy : Nat} {s : State} {t : State} (h_s : P s) (e : execMgrStateAck h kind copy s = .next t) : P t := by
  unfold execMgrStateAck at e
  first
    | refine st_whileOn e ?_ ?_
    | refine st_whileServed e ?_ ?_
    | refine st_whileDoorbell e ?_ ?_
    | (cases e)
  all_goals repeat' (first
      | with_reducible assumption
      | with_reducible apply st_deliver hP
      | with_reducible apply st_mgrStateAcked hP
      | with_reducible apply st_responded hP
      | split
      | (with_reducible intro _))

theorem st_execJoined (hP : Stable P) {h : Hdr} {uid : Nat} {dev : Nat} {report : Option (List JoinEntry)} {s : State} {t : State} (h_s : P s) (e : execJoined h uid dev report s = .next t) : P t := by
  unfold execJoined at e
  first
    | refine st_whileOn e ?_ ?_
    | refine st_whileServed e ?_ ?_
    | refine st_whileDoorbell e ?_ ?_
    | (cases e)
  all_goals repeat' (first
      | with_reducible assumption
      | with_reducible apply st_deliver hP
      | with_reducible apply st_joinedArrives hP
      | split
      | (with_reducible intro _))

end Sys2Proof.Machine
end

