-- ==== Sys2Proof/Laws/StableTimes.lean ====
section
/-!
SUPPORT. The operations of Machine/Times keep every stable predicate.
-/

set_option linter.unusedVariables false

namespace Sys2Proof.Machine

variable {P : State → Prop}

theorem st_delayTimer (hP : Stable P) {n : Nat} {s : State} (h_s : P s) : P (delayTimer n s) := by
  unfold delayTimer
  repeat' (first
      | with_reducible assumption
      | with_reducible apply st_sendOn hP
      | split)

theorem st_adjustRate (hP : Stable P) {s : State} (h_s : P s) : P (adjustRate s) := by
  unfold adjustRate
  repeat' (first
      | with_reducible assumption
      | with_reducible apply st_drawFree hP
      | with_reducible apply hP.fab)

theorem st_estimateTaken (hP : Stable P) {e : Int} {s : State} (h_s : P s) : P (estimateTaken e s) := by
  unfold estimateTaken
  repeat' (first
      | with_reducible assumption
      | with_reducible apply st_adjustRate hP
      | with_reducible apply hP.fab
      | split
      | (with_reducible intro _)
      | with_reducible apply st_foldl
      | with_reducible apply st_foldl_snd
      | dsimp only)

theorem st_delayRsp (hP : Stable P) {n : Nat} {t1 : Nat} {t2 : Nat} {t3 : Nat} {t4 : Nat} {s : State} (h_s : P s) : P (delayRsp n t1 t2 t3 t4 s) := by
  unfold delayRsp
  repeat' (first
      | with_reducible assumption
      | with_reducible apply st_count hP
      | with_reducible apply st_inboxTake hP
      | with_reducible apply st_regPut hP
      | split)

theorem st_beaconArrives (hP : Stable P) {plane : Nat} {origin : Nat} {correction : Int} {term : Nat} {stamp : Nat} {s : State} (h_s : P s) : P (beaconArrives plane origin correction term stamp s) := by
  unfold beaconArrives
  repeat' (first
      | with_reducible assumption
      | with_reducible apply st_count hP
      | with_reducible apply hP.fab
      | split
      | (with_reducible intro _)
      | with_reducible apply st_foldl
      | with_reducible apply st_foldl_snd
      | dsimp only)

theorem st_beaconMissed (hP : Stable P) {s : State} (h_s : P s) : P (beaconMissed s) := by
  unfold beaconMissed
  repeat' (first
      | with_reducible assumption
      | with_reducible apply st_count hP
      | with_reducible apply hP.fab)

theorem st_timeDiscipline (hP : Stable P) {s : State} (h_s : P s) : P (timeDiscipline s) := by
  unfold timeDiscipline
  repeat' (first
      | with_reducible assumption
      | with_reducible apply st_beaconMissed hP
      | with_reducible apply st_estimateTaken hP
      | with_reducible apply hP.fab
      | split)

theorem st_beaconTimer (hP : Stable P) {s : State} (h_s : P s) : P (beaconTimer s) := by
  unfold beaconTimer
  repeat' (first
      | with_reducible assumption
      | with_reducible apply st_sendOn hP
      | split
      | (with_reducible intro _)
      | with_reducible apply st_foldl)

theorem st_delayReq (hP : Stable P) {n : Nat} {t1 : Nat} {t2 : Nat} {t3 : Nat} {s : State} (h_s : P s) : P (delayReq n t1 t2 t3 s) := by
  unfold delayReq
  repeat' (first
      | with_reducible assumption
      | with_reducible apply st_count hP
      | with_reducible apply st_inboxTake hP
      | with_reducible apply st_sendOn hP
      | split)

theorem st_execDelayReq (hP : Stable P) {n : Nat} {t1 : Nat} {t2 : Nat} {t3 : Nat} {s : State} {t : State} (h_s : P s) (e : execDelayReq n t1 t2 t3 s = .next t) : P t := by
  unfold execDelayReq at e
  first
    | refine st_whileOn e ?_ ?_
  all_goals repeat' (first
      | with_reducible assumption
      | with_reducible apply st_delayReq hP)

theorem st_execBeaconTimer (hP : Stable P) {s : State} {t : State} (h_s : P s) (e : execBeaconTimer s = .next t) : P t := by
  unfold execBeaconTimer at e
  first
    | refine st_whileOn e ?_ ?_
  all_goals repeat' (first
      | with_reducible assumption
      | with_reducible apply st_beaconTimer hP)

theorem st_execBeacon (hP : Stable P) {h : Hdr} {origin : Nat} {correction : Int} {term : Nat} {stamp : Nat} {s : State} {t : State} (h_s : P s) (e : execBeacon h origin correction term stamp s = .next t) : P t := by
  unfold execBeacon at e
  first
    | refine st_whileOn e ?_ ?_
    | refine st_whileServed e ?_ ?_
    | refine st_whileDoorbell e ?_ ?_
    | (cases e)
  all_goals repeat' (first
      | with_reducible assumption
      | with_reducible apply st_beaconArrives hP
      | with_reducible apply st_deliver hP
      | split
      | (with_reducible intro _))

theorem st_execDelayTimer (hP : Stable P) {n : Nat} {s : State} {t : State} (h_s : P s) (e : execDelayTimer n s = .next t) : P t := by
  unfold execDelayTimer at e
  first
    | refine st_whileOn e ?_ ?_
  all_goals repeat' (first
      | with_reducible assumption
      | with_reducible apply st_delayTimer hP)

theorem st_execTimeDiscipline (hP : Stable P) {s : State} {t : State} (h_s : P s) (e : execTimeDiscipline s = .next t) : P t := by
  unfold execTimeDiscipline at e
  first
    | refine st_whileOn e ?_ ?_
  all_goals repeat' (first
      | with_reducible assumption
      | with_reducible apply st_timeDiscipline hP)

theorem st_execDelayRsp (hP : Stable P) {n : Nat} {t1 : Nat} {t2 : Nat} {t3 : Nat} {t4 : Nat} {s : State} {t : State} (h_s : P s) (e : execDelayRsp n t1 t2 t3 t4 s = .next t) : P t := by
  unfold execDelayRsp at e
  first
    | refine st_whileOn e ?_ ?_
  all_goals repeat' (first
      | with_reducible assumption
      | with_reducible apply st_delayRsp hP)

end Sys2Proof.Machine
end

