-- ==== Sys2Proof/Laws/StableSync.lean ====
section
/-!
SUPPORT. The operations of Machine/Sync keep every stable predicate.
-/

set_option linter.unusedVariables false

namespace Sys2Proof.Machine

variable {P : State → Prop}

theorem st_preRamp (hP : Stable P) {power : Nat} {time : Nat} {s : State} (h_s : P s) : P (preRamp power time s) := by
  unfold preRamp
  repeat' (first
      | with_reducible assumption
      | with_reducible apply st_drawFree hP
      | with_reducible apply st_raiseVector hP
      | with_reducible apply st_regOr hP
      | with_reducible apply hP.pwr
      | split
      | (with_reducible intro _)
      | with_reducible apply st_foldl
      | with_reducible apply st_foldl_snd
      | dsimp only
      | (refine st_pair (by assumption) ?_))

theorem st_armSync (hP : Stable P) {c : Cmd} {target : Option Cmd} {nodes : List Nat} {s : State} (h_s : P s) : P (armSync c target nodes s) := by
  unfold armSync
  repeat' (first
      | with_reducible assumption
      | with_reducible apply st_preRamp hP
      | with_reducible apply hP.fab
      | split
      | (with_reducible intro _)
      | with_reducible apply st_foldl
      | with_reducible apply st_foldl_snd
      | dsimp only)

theorem st_syncGraph (hP : Stable P) {c : Cmd} {l : Nat} {n : Nat} {s : State} (h_s : P s) : P (syncGraph c l n s) := by
  unfold syncGraph
  repeat' (first
      | with_reducible assumption
      | with_reducible apply st_armSync hP
      | with_reducible apply st_badPacket hP
      | split
      | (with_reducible intro _)
      | with_reducible apply st_foldl
      | with_reducible apply st_foldl_snd
      | dsimp only)

theorem st_syncFetch (hP : Stable P) {ctx : Nat} {q : Nat} {r : Ring}  : AccSt P (syncFetch ctx q r) := by
  unfold syncFetch
  repeat' (first
      | with_reducible assumption
      | with_reducible apply st_accTry hP
      | with_reducible apply st_fetchAcc hP
      | with_reducible apply st_headerRead hP
      | with_reducible apply accRes_ok
      | with_reducible apply accRes_wait
      | with_reducible apply accRes_fail
      | with_reducible apply accSt_bind
      | with_reducible apply accSt_pure
      | with_reducible apply accSt_foldlM
      | with_reducible apply accSt_map
      | with_reducible apply accSt_mapM
      | split
      | (with_reducible intro _))

theorem st_syncTarget (hP : Stable P) {c : Cmd} {t : Cmd} {head : Nat} {q : Nat} {s : State} (h_s : P s) : P (syncTarget c t head q s) := by
  unfold syncTarget
  repeat' (first
      | with_reducible assumption
      | with_reducible apply st_armSync hP
      | with_reducible apply st_badPacket hP
      | with_reducible apply st_moveHead hP
      | with_reducible apply st_startCmd hP
      | split
      | (with_reducible intro _)
      | with_reducible apply st_foldl
      | with_reducible apply st_foldl_snd
      | dsimp only)

theorem st_syncRing (hP : Stable P) {c : Cmd} {q : Nat} {s : State} (h_s : P s) : P (syncRing c q s) := by
  unfold syncRing
  repeat' (first
      | with_reducible assumption
      | with_reducible apply st_badPacket hP
      | with_reducible apply st_faultCmd hP
      | with_reducible apply st_moveHead hP
      | with_reducible apply st_ringFetchFault hP
      | with_reducible apply st_runAcc hP
      | with_reducible apply st_startCmd hP
      | with_reducible apply st_syncFetch hP
      | with_reducible apply st_syncTarget hP
      | with_reducible apply accRes_ok
      | with_reducible apply accRes_wait
      | with_reducible apply accRes_fail
      | with_reducible apply accSt_bind
      | with_reducible apply accSt_pure
      | with_reducible apply accSt_foldlM
      | with_reducible apply accSt_map
      | with_reducible apply accSt_mapM
      | split
      | (with_reducible intro _))

theorem st_syncStart (hP : Stable P) {c : Cmd} {s : State} (h_s : P s) : P (syncStart c s) := by
  unfold syncStart
  repeat' (first
      | with_reducible assumption
      | with_reducible apply st_badPacket hP
      | with_reducible apply st_startCmd hP
      | with_reducible apply st_syncGraph hP
      | with_reducible apply st_syncRing hP
      | split
      | (with_reducible intro _)
      | with_reducible apply st_foldl
      | with_reducible apply st_foldl_snd
      | dsimp only)

theorem st_dropLaunch (hP : Stable P) {l : GLaunch} {s : State} (h_s : P s) : P (dropLaunch l s) := by
  unfold dropLaunch
  repeat' (first
      | with_reducible assumption
      | with_reducible apply st_clearWork hP
      | with_reducible apply st_faultCmd hP
      | with_reducible apply st_freeGens hP
      | with_reducible apply st_leaveStarted hP
      | with_reducible apply hP.crn
      | split
      | (with_reducible intro _)
      | with_reducible apply st_foldl)

theorem st_issueNode (hP : Stable P) {n : Node} {s : State} (h_s : P s) : P (issueNode n s) := by
  unfold issueNode
  repeat' (first
      | with_reducible assumption
      | with_reducible apply st_updGrove hP
      | with_reducible apply st_updNode hP
      | split
      | (with_reducible intro _)
      | with_reducible apply st_foldl)

theorem st_dropNode (hP : Stable P) {n : Node} {s : State} (h_s : P s) : P (dropNode n s) := by
  unfold dropNode
  repeat' (first
      | with_reducible assumption
      | with_reducible apply st_groveClearWork hP
      | with_reducible apply st_groveScrub hP
      | with_reducible apply st_unbindGrove hP
      | with_reducible apply hP.sched
      | with_reducible apply hP.gro
      | split
      | (with_reducible intro _)
      | with_reducible apply st_foldl)

theorem st_syncMissed (hP : Stable P) {a : Armed} {s : State} (h_s : P s) : P (syncMissed a s) := by
  unfold syncMissed
  repeat' (first
      | with_reducible assumption
      | with_reducible apply st_complete hP
      | with_reducible apply st_count hP
      | with_reducible apply st_dropLaunch hP
      | with_reducible apply st_dropNode hP
      | split
      | (with_reducible intro _)
      | with_reducible apply st_foldl)

theorem st_syncStartTime (hP : Stable P) {c : Cmd} {s : State} (h_s : P s) : P (syncStartTime c s) := by
  unfold syncStartTime
  repeat' (first
      | with_reducible assumption
      | with_reducible apply st_completeOk hP
      | with_reducible apply st_issueNode hP
      | with_reducible apply st_reachTime hP
      | with_reducible apply st_syncMissed hP
      | with_reducible apply hP.fab
      | split
      | (with_reducible intro _)
      | with_reducible apply st_foldl
      | with_reducible apply st_foldl_snd
      | dsimp only)

theorem st_execSyncStartTime (hP : Stable P) {c : Cmd} {s : State} {t : State} (h_s : P s) (e : execSyncStartTime c s = .next t) : P t := by
  unfold execSyncStartTime at e
  first
    | refine st_whileOn e ?_ ?_
  all_goals repeat' (first
      | with_reducible assumption
      | with_reducible apply st_syncStartTime hP)

theorem st_execSyncStart (hP : Stable P) {c : Cmd} {s : State} {t : State} (h_s : P s) (e : execSyncStart c s = .next t) : P t := by
  unfold execSyncStart at e
  first
    | refine st_whileOn e ?_ ?_
  all_goals repeat' (first
      | with_reducible assumption
      | with_reducible apply st_syncStart hP)

end Sys2Proof.Machine
end

