-- ==== Sys2Proof/Laws/StableHostLink.lean ====
section
/-!
SUPPORT. The operations of Machine/HostLink keep every stable predicate.
-/

set_option linter.unusedVariables false

namespace Sys2Proof.Machine

variable {P : State → Prop}

theorem st_linkRate (hP : Stable P) {speed : Nat} {width : Nat} {s : State} (h_s : P s) : P (linkRate speed width s) := by
  unfold linkRate
  repeat' (first
      | with_reducible assumption
      | with_reducible apply st_regField hP)

theorem st_flushHost (hP : Stable P) {s : State} (h_s : P s) : P (flushHost s) := by
  unfold flushHost
  repeat' (first
      | with_reducible assumption
      | with_reducible apply st_postHost hP
      | with_reducible apply hP.hl)

theorem st_linkRetrain (hP : Stable P) {ended : Bool} {speed : Nat} {width : Nat} {s : State} (h_s : P s) : P (linkRetrain ended speed width s) := by
  unfold linkRetrain
  repeat' (first
      | with_reducible assumption
      | with_reducible apply st_count hP
      | with_reducible apply st_flushHost hP
      | with_reducible apply st_hlEvent hP
      | with_reducible apply st_linkRate hP
      | with_reducible apply hP.hl
      | split)

theorem st_sendPending (hP : Stable P) {v : Nat} {s : State} (h_s : P s) : P (sendPending v s) := by
  unfold sendPending
  repeat' (first
      | with_reducible assumption
      | with_reducible apply st_count hP
      | with_reducible apply st_setMsix hP
      | with_reducible apply hP.hl
      | split
      | (with_reducible intro _)
      | with_reducible apply st_foldl
      | with_reducible apply st_foldl_snd
      | dsimp only)

theorem st_sendAllPending (hP : Stable P) {s : State} (h_s : P s) : P (sendAllPending s) := by
  unfold sendAllPending
  repeat' (first
      | with_reducible assumption
      | with_reducible apply st_sendPending hP
      | split
      | (with_reducible intro _)
      | with_reducible apply st_foldl)

theorem st_configApply (hP : Stable P) {s : State} (h_s : P s) : P (configApply s) := by
  unfold configApply
  repeat' (first
      | with_reducible assumption
      | with_reducible apply st_sendAllPending hP
      | with_reducible apply hP.hl)

theorem st_putPState (hP : Stable P) {p : PState} {s : State} (h_s : P s) : P (putPState p s) := by
  unfold putPState
  repeat' (first
      | with_reducible assumption
      | with_reducible apply st_regField hP
      | with_reducible apply hP.pwr)

theorem st_d3hotEntry (hP : Stable P) {s : State} (h_s : P s) : P (d3hotEntry s) := by
  unfold d3hotEntry
  repeat' (first
      | with_reducible assumption
      | with_reducible apply st_preempt hP
      | with_reducible apply st_putPState hP
      | with_reducible apply st_syncMissed hP
      | with_reducible apply hP.fab
      | split
      | (with_reducible intro _)
      | with_reducible apply st_foldl)

theorem st_aerSet (hP : Stable P) {b : Nat} {s : State} (h_s : P s) : P (aerSet b s) := by
  unfold aerSet
  repeat' (first
      | with_reducible assumption
      | with_reducible apply hP.hl)

theorem st_inboundUnsupported (hP : Stable P) {posted : Bool} {s : State} (h_s : P s) : P (inboundUnsupported posted s) := by
  unfold inboundUnsupported
  repeat' (first
      | with_reducible assumption
      | with_reducible apply st_aerSet hP
      | with_reducible apply st_count hP
      | with_reducible apply st_hlEvent hP
      | split)

theorem st_cxlSnoop (hP : Stable P) {_addr : Nat} {s : State} (h_s : P s) : P (cxlSnoop _addr s) := by
  unfold cxlSnoop
  repeat' (first
      | with_reducible assumption)

theorem st_crashCtlWrite (hP : Stable P) {value : Nat} {s : State} (h_s : P s) : P (crashCtlWrite value s) := by
  unfold crashCtlWrite
  repeat' (first
      | with_reducible assumption
      | with_reducible apply st_crashClear hP
      | split)

theorem st_msixUnmask (hP : Stable P) {v : Nat} {s : State} (h_s : P s) : P (msixUnmask v s) := by
  unfold msixUnmask
  repeat' (first
      | with_reducible assumption
      | with_reducible apply st_sendPending hP
      | with_reducible apply st_setMsix hP
      | split)

theorem st_d0Entry (hP : Stable P) {s : State} (h_s : P s) : P (d0Entry s) := by
  unfold d0Entry
  repeat' (first
      | with_reducible assumption
      | with_reducible apply st_putPState hP
      | split)

theorem st_configWrite (hP : Stable P) {off : Nat} {size : Nat} {value : Nat} {s : State} (h_s : P s) : P (configWrite off size value s) := by
  unfold configWrite
  repeat' (first
      | with_reducible assumption
      | with_reducible apply st_configApply hP
      | with_reducible apply st_d0Entry hP
      | with_reducible apply st_d3hotEntry hP
      | with_reducible apply st_flr hP
      | with_reducible apply hP.hl
      | split
      | (with_reducible intro _)
      | with_reducible apply st_foldl
      | with_reducible apply st_foldl_snd
      | dsimp only)

theorem st_hostLinkTrained (hP : Stable P) {speed : Nat} {width : Nat} {flit : Bool} {cxl : Bool} {s : State} (h_s : P s) : P (hostLinkTrained speed width flit cxl s) := by
  unfold hostLinkTrained
  repeat' (first
      | with_reducible assumption
      | with_reducible apply st_configApply hP
      | with_reducible apply st_flushHost hP
      | with_reducible apply st_linkRate hP
      | with_reducible apply st_regField hP
      | with_reducible apply hP.hl
      | split)

theorem st_msixTableWrite (hP : Stable P) {off : Nat} {value : Nat} {s : State} (h_s : P s) : P (msixTableWrite off value s) := by
  unfold msixTableWrite
  repeat' (first
      | with_reducible assumption
      | with_reducible apply st_sendPending hP
      | with_reducible apply st_setMsix hP
      | split)

theorem st_execMsixUnmask (hP : Stable P) {v : Nat} {s : State} {t : State} (h_s : P s) (e : execMsixUnmask v s = .next t) : P t := by
  unfold execMsixUnmask at e
  first
    | refine st_whileOn e ?_ ?_
    | refine st_whileServed e ?_ ?_
  all_goals repeat' (first
      | with_reducible assumption
      | with_reducible apply st_msixUnmask hP)

theorem st_execPcieConfigWrite (hP : Stable P) {off : Nat} {size : Nat} {value : Nat} {s : State} {t : State} (h_s : P s) (e : execPcieConfigWrite off size value s = .next t) : P t := by
  unfold execPcieConfigWrite at e
  first
    | refine st_whileOn e ?_ ?_
    | refine st_whileServed e ?_ ?_
    | refine st_whileDoorbell e ?_ ?_
    | (cases e)
  all_goals repeat' (first
      | with_reducible assumption
      | with_reducible apply st_configWrite hP)

theorem st_execHlCrashCtlWrite (hP : Stable P) {value : Nat} {s : State} {t : State} (h_s : P s) (e : execHlCrashCtlWrite value s = .next t) : P t := by
  unfold execHlCrashCtlWrite at e
  first
    | refine st_whileOn e ?_ ?_
    | refine st_whileServed e ?_ ?_
  all_goals repeat' (first
      | with_reducible assumption
      | with_reducible apply st_crashCtlWrite hP)

theorem st_execHostLinkTrained (hP : Stable P) {speed : Nat} {width : Nat} {flit : Bool} {cxl : Bool} {s : State} {t : State} (h_s : P s) (e : execHostLinkTrained speed width flit cxl s = .next t) : P t := by
  unfold execHostLinkTrained at e
  first
    | refine st_whileOn e ?_ ?_
    | refine st_whileServed e ?_ ?_
    | refine st_whileDoorbell e ?_ ?_
    | (cases e)
  all_goals repeat' (first
      | with_reducible assumption
      | with_reducible apply st_hostLinkTrained hP)

theorem st_execInboundUnsupported (hP : Stable P) {posted : Bool} {s : State} {t : State} (h_s : P s) (e : execInboundUnsupported posted s = .next t) : P t := by
  unfold execInboundUnsupported at e
  first
    | refine st_whileOn e ?_ ?_
    | refine st_whileServed e ?_ ?_
    | refine st_whileDoorbell e ?_ ?_
    | (cases e)
  all_goals repeat' (first
      | with_reducible assumption
      | with_reducible apply st_inboundUnsupported hP)

theorem st_execLinkRetrain (hP : Stable P) {ended : Bool} {speed : Nat} {width : Nat} {s : State} {t : State} (h_s : P s) (e : execLinkRetrain ended speed width s = .next t) : P t := by
  unfold execLinkRetrain at e
  first
    | refine st_whileOn e ?_ ?_
    | refine st_whileServed e ?_ ?_
    | refine st_whileDoorbell e ?_ ?_
    | (cases e)
  all_goals repeat' (first
      | with_reducible assumption
      | with_reducible apply st_linkRetrain hP)

theorem st_execD0Entry (hP : Stable P) {s : State} {t : State} (h_s : P s) (e : execD0Entry s = .next t) : P t := by
  unfold execD0Entry at e
  first
    | refine st_whileOn e ?_ ?_
    | refine st_whileServed e ?_ ?_
    | refine st_whileDoorbell e ?_ ?_
    | (cases e)
  all_goals repeat' (first
      | with_reducible assumption
      | with_reducible apply st_d0Entry hP)

theorem st_execD3hotEntry (hP : Stable P) {s : State} {t : State} (h_s : P s) (e : execD3hotEntry s = .next t) : P t := by
  unfold execD3hotEntry at e
  first
    | refine st_whileOn e ?_ ?_
    | refine st_whileServed e ?_ ?_
    | refine st_whileDoorbell e ?_ ?_
    | (cases e)
  all_goals repeat' (first
      | with_reducible assumption
      | with_reducible apply st_d3hotEntry hP)

theorem st_execCxlSnoop (hP : Stable P) {addr : Nat} {s : State} {t : State} (h_s : P s) (e : execCxlSnoop addr s = .next t) : P t := by
  unfold execCxlSnoop at e
  first
    | refine st_whileOn e ?_ ?_
    | refine st_whileServed e ?_ ?_
    | refine st_whileDoorbell e ?_ ?_
    | (cases e)
  all_goals repeat' (first
      | with_reducible assumption
      | with_reducible apply st_cxlSnoop hP)

end Sys2Proof.Machine
end

