-- ==== Sys2Proof/Laws/StableRemote.lean ====
section
/-!
SUPPORT. The operations of Machine/Remote keep every stable predicate.
-/

set_option linter.unusedVariables false

namespace Sys2Proof.Machine

variable {P : State → Prop}

theorem st_countRefused (hP : Stable P) {f : Flt} {s : State} (h_s : P s) : P (countRefused f s) := by
  unfold countRefused
  repeat' (first
      | with_reducible assumption
      | with_reducible apply st_count hP
      | split)

theorem st_serveRead (hP : Stable P) {src : Nat} {o : Nat} {n : Nat} {tag : Nat} {s : State} (h_s : P s) : P (serveRead src o n tag s) := by
  unfold serveRead
  repeat' (first
      | with_reducible assumption
      | with_reducible apply st_countRefused hP
      | with_reducible apply st_localRead hP
      | with_reducible apply st_send hP
      | split
      | (with_reducible intro _)
      | with_reducible apply st_foldl
      | with_reducible apply st_foldl_snd
      | dsimp only
      | (refine st_pair (by assumption) ?_))

theorem st_accessAnswered (hP : Stable P) {tag : Nat} {status : Nat} {fault : Nat} {l : List Byte} {s : State} (h_s : P s) : P (accessAnswered tag status fault l s) := by
  unfold accessAnswered
  repeat' (first
      | with_reducible assumption
      | with_reducible apply st_keepArrived hP
      | with_reducible apply st_recordFail hP
      | with_reducible apply st_takeWaits hP
      | split
      | (with_reducible intro _)
      | with_reducible apply st_foldl
      | with_reducible apply st_foldl_snd
      | dsimp only
      | (refine st_pair (by assumption) ?_))

theorem st_grdataArrives (hP : Stable P) {h : Hdr} {tag : Nat} {status : Nat} {fault : Nat} {data : List Byte} {s : State} (h_s : P s) : P (grdataArrives h tag status fault data s) := by
  unfold grdataArrives
  repeat' (first
      | with_reducible assumption
      | with_reducible apply st_accessAnswered hP
      | with_reducible apply st_deliver hP
      | with_reducible apply st_responded hP
      | split
      | (with_reducible intro _))

theorem st_serveWrite (hP : Stable P) {src : Nat} {o : Nat} {tag : Nat} {l : List Byte} {s : State} (h_s : P s) : P (serveWrite src o tag l s) := by
  unfold serveWrite
  repeat' (first
      | with_reducible assumption
      | with_reducible apply st_countRefused hP
      | with_reducible apply st_localWrite hP
      | with_reducible apply st_send hP
      | split)

theorem st_memopAnswered (hP : Stable P) {tag : Nat} {status : Nat} {fault : Nat} {old : Nat} {s : State} (h_s : P s) : P (memopAnswered tag status fault old s) := by
  unfold memopAnswered
  repeat' (first
      | with_reducible assumption
      | with_reducible apply st_accessAnswered hP
      | with_reducible apply st_memopOutcome hP
      | with_reducible apply hP.xyl
      | split)

theorem st_memopAckArrives (hP : Stable P) {h : Hdr} {tag : Nat} {status : Nat} {fault : Nat} {old : Nat} {s : State} (h_s : P s) : P (memopAckArrives h tag status fault old s) := by
  unfold memopAckArrives
  repeat' (first
      | with_reducible assumption
      | with_reducible apply st_deliver hP
      | with_reducible apply st_memopAnswered hP
      | with_reducible apply st_responded hP
      | split
      | (with_reducible intro _))

theorem st_gwAckArrives (hP : Stable P) {h : Hdr} {tag : Nat} {status : Nat} {fault : Nat} {s : State} (h_s : P s) : P (gwAckArrives h tag status fault s) := by
  unfold gwAckArrives
  repeat' (first
      | with_reducible assumption
      | with_reducible apply st_accessAnswered hP
      | with_reducible apply st_deliver hP
      | with_reducible apply st_responded hP
      | split
      | (with_reducible intro _))

theorem st_e2eTimeout (hP : Stable P) {tag : Nat} {s : State} (h_s : P s) : P (e2eTimeout tag s) := by
  unfold e2eTimeout
  repeat' (first
      | with_reducible assumption
      | with_reducible apply st_count hP
      | with_reducible apply st_reachTime hP
      | with_reducible apply st_timedLost hP
      | split)

theorem st_serveMemop (hP : Stable P) {src : Nat} {m : MemopMsg} {s : State} (h_s : P s) : P (serveMemop src m s) := by
  unfold serveMemop
  repeat' (first
      | with_reducible assumption
      | with_reducible apply st_countRefused hP
      | with_reducible apply st_memopIssue hP
      | with_reducible apply st_send hP
      | split)

theorem st_execGwrite (hP : Stable P) {h : Hdr} {offset : Nat} {tag : Nat} {data : List Byte} {s : State} {t : State} (h_s : P s) (e : execGwrite h offset tag data s = .next t) : P t := by
  unfold execGwrite at e
  first
    | refine st_whileOn e ?_ ?_
    | refine st_whileServed e ?_ ?_
    | refine st_whileDoorbell e ?_ ?_
    | (cases e)
  all_goals repeat' (first
      | with_reducible assumption
      | with_reducible apply st_deliver hP
      | with_reducible apply st_serveWrite hP
      | split
      | (with_reducible intro _))

theorem st_execGread (hP : Stable P) {h : Hdr} {offset : Nat} {bytes : Nat} {tag : Nat} {s : State} {t : State} (h_s : P s) (e : execGread h offset bytes tag s = .next t) : P t := by
  unfold execGread at e
  first
    | refine st_whileOn e ?_ ?_
    | refine st_whileServed e ?_ ?_
    | refine st_whileDoorbell e ?_ ?_
    | (cases e)
  all_goals repeat' (first
      | with_reducible assumption
      | with_reducible apply st_deliver hP
      | with_reducible apply st_serveRead hP
      | split
      | (with_reducible intro _))

theorem st_execMemop (hP : Stable P) {h : Hdr} {m : MemopMsg} {s : State} {t : State} (h_s : P s) (e : execMemop h m s = .next t) : P t := by
  unfold execMemop at e
  first
    | refine st_whileOn e ?_ ?_
    | refine st_whileServed e ?_ ?_
    | refine st_whileDoorbell e ?_ ?_
    | (cases e)
  all_goals repeat' (first
      | with_reducible assumption
      | with_reducible apply st_deliver hP
      | with_reducible apply st_serveMemop hP
      | split
      | (with_reducible intro _))

end Sys2Proof.Machine
end

