-- ==== Sys2Proof/Laws/StableSwitch.lean ====
section
/-!
SUPPORT. The operations of Machine/Switch keep every stable predicate.
-/

set_option linter.unusedVariables false

namespace Sys2Proof.Machine

variable {P : State → Prop}

theorem st_stand (hP : Stable P) {s : State} (h_s : P s) : P (stand s) := by
  unfold stand
  repeat' (first
      | with_reducible assumption
      | with_reducible apply hP.fab
      | split)

theorem st_withdraw (hP : Stable P) {s : State} (h_s : P s) : P (withdraw s) := by
  unfold withdraw
  repeat' (first
      | with_reducible assumption
      | with_reducible apply st_sendDepart hP
      | with_reducible apply hP.fab
      | split)

theorem st_restoreFinish (hP : Stable P) {s : State} (h_s : P s) : P (restoreFinish s) := by
  unfold restoreFinish
  repeat' (first
      | with_reducible assumption
      | with_reducible apply st_send hP
      | with_reducible apply hP.fab
      | split)

theorem st_restoreNext (hP : Stable P) {ok : Bool} {s : State} (h_s : P s) : P (restoreNext ok s) := by
  unfold restoreNext
  repeat' (first
      | with_reducible assumption
      | with_reducible apply hP.fab)

theorem st_restoreApply (hP : Stable P) {r : RestoreRec} {l : List Byte} {s : State} (h_s : P s) : P (restoreApply r l s) := by
  unfold restoreApply
  repeat' (first
      | with_reducible assumption
      | with_reducible apply st_installTable hP
      | with_reducible apply st_localWrite hP
      | with_reducible apply st_restoreNext hP
      | split)

theorem st_restoreRead (hP : Stable P) {r : RestoreRec} {i : Nat} {n : Nat}  : AccSt P (restoreRead r i n) := by
  unfold restoreRead
  repeat' (first
      | with_reducible assumption
      | with_reducible apply st_globRead hP
      | with_reducible apply st_localRead hP
      | with_reducible apply accRes_ok
      | with_reducible apply accRes_wait
      | with_reducible apply accRes_fail
      | with_reducible apply accSt_bind
      | with_reducible apply accSt_pure
      | with_reducible apply accSt_foldlM
      | with_reducible apply accSt_map
      | with_reducible apply accSt_mapM
      | split
      | (with_reducible intro _)
      | with_reducible apply st_foldl
      | with_reducible apply st_foldl_snd
      | dsimp only
      | (refine st_pair (by assumption) ?_)
      | assumption
      | with_reducible apply accSt_fun
      | (with_reducible refine accRes_run ?_ ?_))

theorem st_restoreRun (hP : Stable P) {a0 : Nat} {a1 : State} (h_a1 : P a1) : P (restoreRun a0 a1) := by
  induction a0 generalizing a1 with
  | zero =>
    unfold restoreRun
    repeat' (first
        | with_reducible assumption)
  | succ _ ih =>
    unfold restoreRun
    repeat' (first
        | with_reducible assumption
        | with_reducible apply ih
        | with_reducible apply st_restoreApply hP
        | with_reducible apply st_restoreFinish hP
        | with_reducible apply st_restoreNext hP
        | with_reducible apply st_restoreRead hP
        | with_reducible apply st_runAcc hP
        | with_reducible apply hP.fab
        | with_reducible apply accRes_ok
        | with_reducible apply accRes_wait
        | with_reducible apply accRes_fail
        | with_reducible apply accSt_bind
        | with_reducible apply accSt_pure
        | with_reducible apply accSt_foldlM
        | with_reducible apply accSt_map
        | with_reducible apply accSt_mapM
        | split
        | (with_reducible intro _)
        | with_reducible apply st_foldl
        | with_reducible apply st_foldl_snd
        | dsimp only)

theorem st_restoreGoOn (hP : Stable P) {s : State} (h_s : P s) : P (restoreGoOn s) := by
  unfold restoreGoOn
  repeat' (first
      | with_reducible assumption
      | with_reducible apply st_restoreRun hP
      | split)

theorem st_restoreRecs (hP : Stable P) {recs : List RestoreRec} {s : State} (h_s : P s) : P (restoreRecs recs s) := by
  unfold restoreRecs
  repeat' (first
      | with_reducible assumption
      | with_reducible apply st_restoreGoOn hP
      | with_reducible apply hP.fab)

theorem st_switchWith (hP : Stable P) {c : Cmd} {l : List Byte} {s : State} (h_s : P s) : P (switchWith c l s) := by
  unfold switchWith
  repeat' (first
      | with_reducible assumption
      | with_reducible apply st_badPacket hP
      | with_reducible apply st_complete hP
      | with_reducible apply st_mgrCopy hP
      | with_reducible apply st_switchStart hP
      | with_reducible apply hP.fab
      | split
      | (with_reducible intro _)
      | with_reducible apply st_foldl
      | with_reducible apply st_foldl_snd
      | dsimp only)

theorem st_switchIn (hP : Stable P) {c : Cmd} {s : State} (h_s : P s) : P (switchIn c s) := by
  unfold switchIn
  repeat' (first
      | with_reducible assumption
      | with_reducible apply st_badPacket hP
      | with_reducible apply st_ctxRead hP
      | with_reducible apply st_faultCmd hP
      | with_reducible apply st_runAcc hP
      | with_reducible apply st_startCmd hP
      | with_reducible apply st_switchWith hP
      | with_reducible apply accRes_ok
      | with_reducible apply accRes_wait
      | with_reducible apply accRes_fail
      | with_reducible apply accSt_bind
      | with_reducible apply accSt_pure
      | with_reducible apply accSt_foldlM
      | with_reducible apply accSt_map
      | with_reducible apply accSt_mapM
      | split
      | (with_reducible intro _)
      | with_reducible apply st_foldl
      | with_reducible apply st_foldl_snd
      | dsimp only)

theorem st_restoreEnds (hP : Stable P) {dev : Nat} {s : State} (h_s : P s) : P (restoreEnds dev s) := by
  unfold restoreEnds
  repeat' (first
      | with_reducible assumption
      | with_reducible apply st_updMember hP
      | with_reducible apply st_updRelease hP
      | with_reducible apply hP.fab)

theorem st_restoreDone (hP : Stable P) {src : Nat} {failed : Nat} {first : Nat} {s : State} (h_s : P s) : P (restoreDone src failed first s) := by
  unfold restoreDone
  repeat' (first
      | with_reducible assumption
      | with_reducible apply st_completeOk hP
      | with_reducible apply st_restoreEnds hP
      | with_reducible apply st_send hP
      | with_reducible apply st_switchEnd hP
      | split
      | (with_reducible intro _))

theorem st_restoreBegins (hP : Stable P) {dev : Nat} {s : State} (h_s : P s) : P (restoreBegins dev s) := by
  unfold restoreBegins
  repeat' (first
      | with_reducible assumption
      | with_reducible apply st_lookDown hP
      | with_reducible apply st_restoreAcks hP
      | with_reducible apply st_updMember hP
      | with_reducible apply hP.fab
      | split)

theorem st_restoreAcked (hP : Stable P) {src : Nat} {dev : Nat} {s : State} (h_s : P s) : P (restoreAcked src dev s) := by
  unfold restoreAcked
  repeat' (first
      | with_reducible assumption
      | with_reducible apply st_switchCheck hP
      | with_reducible apply hP.fab)

theorem st_fabricStatus (hP : Stable P) {c : Cmd} {s : State} (h_s : P s) : P (fabricStatus c s) := by
  unfold fabricStatus
  repeat' (first
      | with_reducible assumption
      | with_reducible apply st_badPacket hP
      | with_reducible apply st_completeOk hP
      | with_reducible apply st_ctxWrite hP
      | with_reducible apply st_faultCmd hP
      | with_reducible apply st_runAcc hP
      | with_reducible apply st_stand hP
      | with_reducible apply st_startCmd hP
      | with_reducible apply st_withHello hP
      | with_reducible apply st_withdraw hP
      | with_reducible apply accRes_ok
      | with_reducible apply accRes_wait
      | with_reducible apply accRes_fail
      | with_reducible apply accSt_bind
      | with_reducible apply accSt_pure
      | with_reducible apply accSt_foldlM
      | with_reducible apply accSt_map
      | with_reducible apply accSt_mapM
      | split
      | (with_reducible intro _)
      | with_reducible apply st_foldl
      | with_reducible apply st_foldl_snd
      | dsimp only)

theorem st_execRestoreDone (hP : Stable P) {h : Hdr} {failed : Nat} {first : Nat} {s : State} {t : State} (h_s : P s) (e : execRestoreDone h failed first s = .next t) : P t := by
  unfold execRestoreDone at e
  first
    | refine st_whileOn e ?_ ?_
    | refine st_whileServed e ?_ ?_
    | refine st_whileDoorbell e ?_ ?_
    | (cases e)
  all_goals repeat' (first
      | with_reducible assumption
      | with_reducible apply st_deliver hP
      | with_reducible apply st_restoreDone hP
      | split
      | (with_reducible intro _))

theorem st_execRestoreEnd (hP : Stable P) {h : Hdr} {dev : Nat} {s : State} {t : State} (h_s : P s) (e : execRestoreEnd h dev s = .next t) : P t := by
  unfold execRestoreEnd at e
  first
    | refine st_whileOn e ?_ ?_
    | refine st_whileServed e ?_ ?_
    | refine st_whileDoorbell e ?_ ?_
    | (cases e)
  all_goals repeat' (first
      | with_reducible assumption
      | with_reducible apply st_deliver hP
      | with_reducible apply st_restoreEnds hP
      | split
      | (with_reducible intro _))

theorem st_execFabricStatus (hP : Stable P) {c : Cmd} {s : State} {t : State} (h_s : P s) (e : execFabricStatus c s = .next t) : P t := by
  unfold execFabricStatus at e
  first
    | refine st_whileOn e ?_ ?_
  all_goals repeat' (first
      | with_reducible assumption
      | with_reducible apply st_fabricStatus hP)

theorem st_execRestoreRec (hP : Stable P) {h : Hdr} {recs : List RestoreRec} {s : State} {t : State} (h_s : P s) (e : execRestoreRec h recs s = .next t) : P t := by
  unfold execRestoreRec at e
  first
    | refine st_whileOn e ?_ ?_
    | refine st_whileServed e ?_ ?_
    | refine st_whileDoorbell e ?_ ?_
    | (cases e)
  all_goals repeat' (first
      | with_reducible assumption
      | with_reducible apply st_deliver hP
      | with_reducible apply st_restoreRecs hP
      | split
      | (with_reducible intro _))

theorem st_execRestoreAck (hP : Stable P) {h : Hdr} {dev : Nat} {s : State} {t : State} (h_s : P s) (e : execRestoreAck h dev s = .next t) : P t := by
  unfold execRestoreAck at e
  first
    | refine st_whileOn e ?_ ?_
    | refine st_whileServed e ?_ ?_
    | refine st_whileDoorbell e ?_ ?_
    | (cases e)
  all_goals repeat' (first
      | with_reducible assumption
      | with_reducible apply st_deliver hP
      | with_reducible apply st_restoreAcked hP
      | split
      | (with_reducible intro _))

theorem st_execSwitchIn (hP : Stable P) {c : Cmd} {s : State} {t : State} (h_s : P s) (e : execSwitchIn c s = .next t) : P t := by
  unfold execSwitchIn at e
  first
    | refine st_whileOn e ?_ ?_
  all_goals repeat' (first
      | with_reducible assumption
      | with_reducible apply st_switchIn hP)

theorem st_execRestoreBegin (hP : Stable P) {h : Hdr} {dev : Nat} {s : State} {t : State} (h_s : P s) (e : execRestoreBegin h dev s = .next t) : P t := by
  unfold execRestoreBegin at e
  first
    | refine st_whileOn e ?_ ?_
    | refine st_whileServed e ?_ ?_
    | refine st_whileDoorbell e ?_ ?_
    | (cases e)
  all_goals repeat' (first
      | with_reducible assumption
      | with_reducible apply st_deliver hP
      | with_reducible apply st_restoreBegins hP
      | split
      | (with_reducible intro _))

end Sys2Proof.Machine
end

