-- ==== Sys2Proof/Laws/StableProbe.lean ====
section
/-!
SUPPORT. The operations of Machine/Probe keep every stable predicate.
-/

set_option linter.unusedVariables false

namespace Sys2Proof.Machine

variable {P : State → Prop}

theorem st_digestPlaces (hP : Stable P) {w : Work} {ctx : Nat} {va : Nat} {n : Nat}  : AccSt P (digestPlaces w ctx va n) := by
  unfold digestPlaces
  repeat' (first
      | with_reducible assumption
      | with_reducible apply st_accAsk hP
      | with_reducible apply st_accCheck hP
      | with_reducible apply st_accFail hP
      | with_reducible apply st_accTry hP
      | with_reducible apply st_xlate hP
      | with_reducible apply accRes_ok
      | with_reducible apply accRes_wait
      | with_reducible apply accRes_fail
      | with_reducible apply accSt_bind
      | with_reducible apply accSt_pure
      | with_reducible apply accSt_foldlM
      | with_reducible apply accSt_map
      | with_reducible apply accSt_mapM
      | split
      | (with_reducible intro _))

theorem st_digestRead (hP : Stable P) {w : Work} {ctx : Nat} {va : Nat} {n : Nat}  : AccSt P (digestRead w ctx va n) := by
  unfold digestRead
  repeat' (first
      | with_reducible assumption
      | with_reducible apply st_accCheck hP
      | with_reducible apply st_digestPlaces hP
      | with_reducible apply st_localRead hP
      | with_reducible apply accRes_ok
      | with_reducible apply accRes_wait
      | with_reducible apply accRes_fail
      | with_reducible apply accSt_bind
      | with_reducible apply accSt_pure
      | with_reducible apply accSt_foldlM
      | with_reducible apply accSt_map
      | with_reducible apply accSt_mapM
      | split
      | (with_reducible intro _)
      | with_reducible apply st_foldl
      | with_reducible apply st_foldl_snd
      | dsimp only
      | (refine st_pair (by assumption) ?_)
      | assumption
      | with_reducible apply accSt_fun)

theorem st_digestAcc (hP : Stable P) {c : Cmd}  : AccSt P (digestAcc c) := by
  unfold digestAcc
  repeat' (first
      | with_reducible assumption
      | with_reducible apply st_ctxRead hP
      | with_reducible apply st_ctxWrite hP
      | with_reducible apply st_digestRead hP
      | with_reducible apply accRes_ok
      | with_reducible apply accRes_wait
      | with_reducible apply accRes_fail
      | with_reducible apply accSt_bind
      | with_reducible apply accSt_pure
      | with_reducible apply accSt_foldlM
      | with_reducible apply accSt_map
      | with_reducible apply accSt_mapM
      | split
      | (with_reducible intro _))

theorem st_probeStrike (hP : Stable P) {k : Nat} {L : Nat} {n : Nat} {s : State} (h_s : P s) : P (probeStrike k L n s) := by
  unfold probeStrike
  repeat' (first
      | with_reducible assumption
      | with_reducible apply st_intLog hP
      | with_reducible apply st_latStrike hP
      | with_reducible apply st_raiseVector hP)

theorem st_probeVote (hP : Stable P) {p : ProbePair} {sig : List Nat} {L : Nat} {s : State} (h_s : P s) : P (probeVote p sig L s).2 := by
  unfold probeVote
  repeat' (first
      | with_reducible assumption
      | with_reducible apply st_count hP
      | with_reducible apply st_intLog hP
      | with_reducible apply st_probeStrike hP
      | with_reducible apply st_raiseVector hP
      | split
      | (with_reducible intro _)
      | with_reducible apply st_foldl
      | with_reducible apply st_foldl_snd
      | dsimp only)

theorem st_probeResolve (hP : Stable P) {p : ProbePair} {sig : List Nat} {s : State} (h_s : P s) : P (probeResolve p sig s) := by
  unfold probeResolve
  repeat' (first
      | with_reducible assumption
      | with_reducible apply st_count hP
      | with_reducible apply st_probeVote hP
      | with_reducible apply hP.prb
      | split
      | (with_reducible intro _)
      | with_reducible apply st_foldl
      | with_reducible apply st_foldl_snd
      | dsimp only)

theorem st_probeEnded (hP : Stable P) {k : Nat} {n : Nat} {sig : List Nat} {s : State} (h_s : P s) : P (probeEnded k n sig s) := by
  unfold probeEnded
  repeat' (first
      | with_reducible assumption
      | with_reducible apply st_count hP
      | with_reducible apply st_probeResolve hP
      | with_reducible apply hP.prb
      | split
      | (with_reducible intro _)
      | with_reducible apply st_foldl
      | with_reducible apply st_foldl_snd
      | dsimp only)

theorem st_probeChecked (hP : Stable P) {k : Nat} {n : Nat} {errors : List (Nat × Nat)} {t : Tile} {s : State} (h_s : P s) : P (probeChecked k n errors t s) := by
  unfold probeChecked
  repeat' (first
      | with_reducible assumption
      | with_reducible apply st_count hP
      | with_reducible apply st_latStrike hP
      | with_reducible apply st_probeEnded hP
      | with_reducible apply st_tileCheck hP
      | split
      | (with_reducible intro _)
      | with_reducible apply st_foldl
      | with_reducible apply st_foldl_snd
      | dsimp only
      | (refine st_pair (by assumption) ?_))

theorem st_probeRunEnd (hP : Stable P) {k : Nat} {errors : List (Nat × Nat)} {s : State} (h_s : P s) : P (probeRunEnd k errors s) := by
  unfold probeRunEnd
  repeat' (first
      | with_reducible assumption
      | with_reducible apply st_probeChecked hP
      | with_reducible apply hP.prb
      | split)

theorem st_probeExpire (hP : Stable P) {n : Nat} {s : State} (h_s : P s) : P (probeExpire n s) := by
  unfold probeExpire
  repeat' (first
      | with_reducible assumption
      | with_reducible apply st_count hP
      | with_reducible apply st_reachTime hP
      | with_reducible apply hP.prb
      | split)

theorem st_probeStart (hP : Stable P) {k : Nat} {s : State} (h_s : P s) : P (probeStart k s) := by
  unfold probeStart
  repeat' (first
      | with_reducible assumption
      | with_reducible apply st_reachTime hP
      | with_reducible apply hP.prb
      | split
      | (with_reducible intro _)
      | with_reducible apply st_foldl
      | with_reducible apply st_foldl_snd
      | dsimp only)

theorem st_digestRegion (hP : Stable P) {c : Cmd} {s : State} (h_s : P s) : P (digestRegion c s) := by
  unfold digestRegion
  repeat' (first
      | with_reducible assumption
      | with_reducible apply st_badPacket hP
      | with_reducible apply st_completeOk hP
      | with_reducible apply st_count hP
      | with_reducible apply st_countN hP
      | with_reducible apply st_digestAcc hP
      | with_reducible apply st_faultCmd hP
      | with_reducible apply st_runAcc hP
      | with_reducible apply st_startCmd hP
      | with_reducible apply accRes_ok
      | with_reducible apply accRes_wait
      | with_reducible apply accRes_fail
      | with_reducible apply accSt_bind
      | with_reducible apply accSt_pure
      | with_reducible apply accSt_foldlM
      | with_reducible apply accSt_map
      | with_reducible apply accSt_mapM
      | split
      | (with_reducible intro _))

theorem st_execDigestRegion (hP : Stable P) {c : Cmd} {s : State} {t : State} (h_s : P s) (e : execDigestRegion c s = .next t) : P t := by
  unfold execDigestRegion at e
  first
    | refine st_whileOn e ?_ ?_
  all_goals repeat' (first
      | with_reducible assumption
      | with_reducible apply st_digestRegion hP)

theorem st_execProbeStart (hP : Stable P) {k : Nat} {s : State} {t : State} (h_s : P s) (e : execProbeStart k s = .next t) : P t := by
  unfold execProbeStart at e
  first
    | refine st_whileOn e ?_ ?_
  all_goals repeat' (first
      | with_reducible assumption
      | with_reducible apply st_probeStart hP)

theorem st_execProbeExpire (hP : Stable P) {n : Nat} {s : State} {t : State} (h_s : P s) (e : execProbeExpire n s = .next t) : P t := by
  unfold execProbeExpire at e
  first
    | refine st_whileOn e ?_ ?_
  all_goals repeat' (first
      | with_reducible assumption
      | with_reducible apply st_probeExpire hP)

theorem st_execProbeRunEnd (hP : Stable P) {k : Nat} {errors : List (Nat × Nat)} {s : State} {t : State} (h_s : P s) (e : execProbeRunEnd k errors s = .next t) : P t := by
  unfold execProbeRunEnd at e
  first
    | refine st_whileOn e ?_ ?_
  all_goals repeat' (first
      | with_reducible assumption
      | with_reducible apply st_probeRunEnd hP)

end Sys2Proof.Machine
end

