-- ==== Sys2Proof/Laws/StablePower.lean ====
section
/-!
SUPPORT. The operations of Machine/Power keep every stable predicate.
-/

set_option linter.unusedVariables false

namespace Sys2Proof.Machine

variable {P : State → Prop}

theorem st_dropRamps (hP : Stable P) {s : State} (h_s : P s) : P (dropRamps s) := by
  unfold dropRamps
  repeat' (first
      | with_reducible assumption
      | with_reducible apply hP.pwr)

theorem st_powerFlags (hP : Stable P) {s : State} (h_s : P s) : P (powerFlags s) := by
  unfold powerFlags
  repeat' (first
      | with_reducible assumption
      | with_reducible apply st_regField hP)

theorem st_pwrEvent (hP : Stable P) {b : Nat} {s : State} (h_s : P s) : P (pwrEvent b s) := by
  unfold pwrEvent
  repeat' (first
      | with_reducible assumption
      | with_reducible apply st_raiseVector hP
      | with_reducible apply st_regOr hP
      | split)

theorem st_rampGovernorTick (hP : Stable P) {mv : Nat} {load : Nat} {held : Nat} {s : State} (h_s : P s) : P (rampGovernorTick mv load held s) := by
  unfold rampGovernorTick
  repeat' (first
      | with_reducible assumption
      | with_reducible apply st_countN hP
      | with_reducible apply st_dropRamps hP
      | with_reducible apply st_powerFlags hP
      | with_reducible apply st_pwrEvent hP
      | with_reducible apply st_regField hP
      | with_reducible apply hP.pwr
      | split)

theorem st_clocksOff (hP : Stable P) {s : State} (h_s : P s) : P (clocksOff s) := by
  unfold clocksOff
  repeat' (first
      | with_reducible assumption
      | with_reducible apply st_regPut hP)

theorem st_prerampStart (hP : Stable P) {k : Nat} {s : State} (h_s : P s) : P (prerampStart k s) := by
  unfold prerampStart
  repeat' (first
      | with_reducible assumption
      | with_reducible apply st_reachTime hP
      | with_reducible apply hP.pwr
      | split)

theorem st_putDuty (hP : Stable P) {d : Nat} {thermal : Nat} {cap : Nat} {s : State} (h_s : P s) : P (putDuty d thermal cap s) := by
  unfold putDuty
  repeat' (first
      | with_reducible assumption
      | with_reducible apply st_regPut hP)

theorem st_capEnforced (hP : Stable P) {s : State} (h_s : P s) : P (capEnforced s) := by
  unfold capEnforced
  repeat' (first
      | with_reducible assumption
      | with_reducible apply st_completeOk hP
      | with_reducible apply hP.pwr
      | split
      | (with_reducible intro _)
      | with_reducible apply st_foldl)

theorem st_capControlTick (hP : Stable P) {avg : Nat} {withheld : Nat} {s : State} (h_s : P s) : P (capControlTick avg withheld s) := by
  unfold capControlTick
  repeat' (first
      | with_reducible assumption
      | with_reducible apply st_capEnforced hP
      | with_reducible apply st_count hP
      | with_reducible apply st_countN hP
      | with_reducible apply st_powerFlags hP
      | with_reducible apply st_putDuty hP
      | with_reducible apply st_regField hP
      | split
      | (with_reducible intro _)
      | with_reducible apply st_foldl)

theorem st_sideAnswer (hP : Stable P) {a : Option (List Byte)} {s : State} (h_s : P s) : P (sideAnswer a s) := by
  unfold sideAnswer
  repeat' (first
      | with_reducible assumption
      | with_reducible apply hP.pwr)

theorem st_tracePower (hP : Stable P) {a : Nat} {s : State} (h_s : P s) : P (tracePower a s) := by
  unfold tracePower
  repeat' (first
      | with_reducible assumption
      | with_reducible apply st_emit hP)

theorem st_thermalDie (hP : Stable P) {d : Nat} {s : State} (h_s : P s) : P (thermalDie d s) := by
  unfold thermalDie
  repeat' (first
      | with_reducible assumption
      | with_reducible apply st_putDuty hP
      | with_reducible apply st_pwrEvent hP
      | with_reducible apply st_tracePower hP
      | split
      | (with_reducible intro _)
      | with_reducible apply st_foldl
      | with_reducible apply st_foldl_snd
      | dsimp only)

theorem st_thermalTick (hP : Stable P) {s : State} (h_s : P s) : P (thermalTick s) := by
  unfold thermalTick
  repeat' (first
      | with_reducible assumption
      | with_reducible apply st_powerFlags hP
      | with_reducible apply st_thermalDie hP
      | split)

theorem st_putParked (hP : Stable P) {rows : List Nat} {s : State} (h_s : P s) : P (putParked rows s) := by
  unfold putParked
  repeat' (first
      | with_reducible assumption
      | with_reducible apply st_powerFlags hP
      | with_reducible apply st_regPut hP
      | with_reducible apply hP.pwr)

theorem st_parkRow (hP : Stable P) {r : Nat} {s : State} (h_s : P s) : P (parkRow r s) := by
  unfold parkRow
  repeat' (first
      | with_reducible assumption
      | with_reducible apply st_count hP
      | with_reducible apply st_preempt hP
      | with_reducible apply st_probeAbandon hP
      | with_reducible apply st_putParked hP
      | with_reducible apply st_pwrEvent hP
      | split
      | (with_reducible intro _)
      | with_reducible apply st_foldl)

theorem st_pllLock (hP : Stable P) {pll : Nat} {s : State} (h_s : P s) : P (pllLock pll s) := by
  unfold pllLock
  repeat' (first
      | with_reducible assumption
      | with_reducible apply st_regOr hP
      | with_reducible apply st_startTraining hP
      | split)

theorem st_setCap (hP : Stable P) {slot : Nat} {w : Nat} {s : State} (h_s : P s) : P (setCap slot w s) := by
  unfold setCap
  repeat' (first
      | with_reducible assumption
      | with_reducible apply st_pwrEvent hP
      | with_reducible apply st_regPut hP
      | with_reducible apply st_tracePower hP
      | split
      | (with_reducible intro _)
      | with_reducible apply st_foldl
      | with_reducible apply st_foldl_snd
      | dsimp only)

theorem st_powerCap (hP : Stable P) {c : Cmd} {s : State} (h_s : P s) : P (powerCap c s) := by
  unfold powerCap
  repeat' (first
      | with_reducible assumption
      | with_reducible apply st_badPacket hP
      | with_reducible apply st_setCap hP
      | with_reducible apply st_startCmd hP
      | with_reducible apply hP.pwr
      | split
      | (with_reducible intro _)
      | with_reducible apply st_foldl
      | with_reducible apply st_foldl_snd
      | dsimp only)

theorem st_eventsClear (hP : Stable P) {value : Nat} {s : State} (h_s : P s) : P (eventsClear value s) := by
  unfold eventsClear
  repeat' (first
      | with_reducible assumption
      | with_reducible apply st_regWrite hP
      | with_reducible apply st_sideAnswer hP)

theorem st_stopRecord (hP : Stable P) {s : State} (h_s : P s) : P (stopRecord s) := by
  unfold stopRecord
  repeat' (first
      | with_reducible assumption
      | with_reducible apply st_crashWrite hP
      | with_reducible apply st_linkWord hP
      | split)

theorem st_emergencyStop (hP : Stable P) {cause : Nat} {sensor : Nat} {s : State} (h_s : P s) : P (emergencyStop cause sensor s) := by
  unfold emergencyStop
  repeat' (first
      | with_reducible assumption
      | with_reducible apply st_clocksOff hP
      | with_reducible apply st_persistent hP
      | with_reducible apply st_putPState hP
      | with_reducible apply st_regPut hP
      | with_reducible apply st_stopRecord hP
      | split)

theorem st_bmcCap (hP : Stable P) {w : Nat} {s : State} (h_s : P s) : P (bmcCap w s) := by
  unfold bmcCap
  repeat' (first
      | with_reducible assumption
      | with_reducible apply st_setCap hP
      | with_reducible apply st_sideAnswer hP
      | split)

theorem st_thermalUnpark (hP : Stable P) {die : Nat} {s : State} (h_s : P s) : P (thermalUnpark die s) := by
  unfold thermalUnpark
  repeat' (first
      | with_reducible assumption
      | with_reducible apply st_putParked hP
      | with_reducible apply st_pwrEvent hP
      | with_reducible apply st_reachTime hP
      | with_reducible apply hP.pwr
      | split
      | (with_reducible intro _)
      | with_reducible apply st_foldl
      | with_reducible apply st_foldl_snd
      | dsimp only)

theorem st_rootUnlock (hP : Stable P) {s : State} (h_s : P s) : P (rootUnlock s) := by
  unfold rootUnlock
  repeat' (first
      | with_reducible assumption
      | with_reducible apply st_emergencyStop hP
      | with_reducible apply st_regField hP
      | split
      | (with_reducible intro _)
      | with_reducible apply st_foldl
      | with_reducible apply st_foldl_snd
      | dsimp only)

theorem st_thermalPark (hP : Stable P) {n : Nat} {s : State} (h_s : P s) : P (thermalPark n s) := by
  unfold thermalPark
  repeat' (first
      | with_reducible assumption
      | with_reducible apply st_parkRow hP
      | with_reducible apply st_reachTime hP
      | with_reducible apply hP.pwr
      | split
      | (with_reducible intro _)
      | with_reducible apply st_foldl
      | with_reducible apply st_foldl_snd
      | dsimp only)

theorem st_restart (hP : Stable P) {emstopHigh : Bool} {mv : Nat} {temps : List Nat} {s : State} (h_s : P s) : P (restart emstopHigh mv temps s) := by
  unfold restart
  repeat' (first
      | with_reducible assumption
      | with_reducible apply st_putPState hP
      | with_reducible apply st_putStage hP
      | with_reducible apply st_sideAnswer hP
      | split
      | (with_reducible intro _)
      | with_reducible apply st_foldl
      | with_reducible apply st_foldl_snd
      | dsimp only)

theorem st_inputPowerUp (hP : Stable P) {s : State} (h_s : P s) : P (inputPowerUp s) := by
  unfold inputPowerUp
  repeat' (first
      | with_reducible assumption
      | with_reducible apply hP.pwr
      | split)

theorem st_sensorReadTick (hP : Stable P) {temps : List Nat} {s : State} (h_s : P s) : P (sensorReadTick temps s) := by
  unfold sensorReadTick
  repeat' (first
      | with_reducible assumption
      | with_reducible apply st_emergencyStop hP
      | with_reducible apply st_regPut hP
      | with_reducible apply hP.pwr
      | split
      | (with_reducible intro _)
      | with_reducible apply st_foldl
      | with_reducible apply st_foldl_snd
      | dsimp only)

theorem st_inputPowerLoss (hP : Stable P) {s : State} (h_s : P s) : P (inputPowerLoss s) := by
  unfold inputPowerLoss
  repeat' (first
      | with_reducible assumption
      | with_reducible apply st_clocksOff hP
      | with_reducible apply st_persistent hP
      | with_reducible apply st_putPState hP)

theorem st_mainConvertersUp (hP : Stable P) {s : State} (h_s : P s) : P (mainConvertersUp s) := by
  unfold mainConvertersUp
  repeat' (first
      | with_reducible assumption
      | with_reducible apply st_putPState hP
      | with_reducible apply st_startTraining hP
      | split)

theorem st_inrushDone (hP : Stable P) {smbAddr : Nat} {s : State} (h_s : P s) : P (inrushDone smbAddr s) := by
  unfold inrushDone
  repeat' (first
      | with_reducible assumption
      | with_reducible apply st_clocksOff hP
      | with_reducible apply st_putPState hP
      | with_reducible apply hP.pwr
      | split)

theorem st_execOverVoltage (hP : Stable P) {s : State} {t : State} (h_s : P s) (e : execOverVoltage s = .next t) : P t := by
  unfold execOverVoltage at e
  first
    | refine st_whileOn e ?_ ?_
    | refine st_whileServed e ?_ ?_
    | refine st_whileDoorbell e ?_ ?_
    | (cases e)
  all_goals repeat' (first
      | with_reducible assumption
      | with_reducible apply st_emergencyStop hP)

theorem st_execPllLock (hP : Stable P) {pll : Nat} {s : State} {t : State} (h_s : P s) (e : execPllLock pll s = .next t) : P t := by
  unfold execPllLock at e
  first
    | refine st_whileOn e ?_ ?_
    | refine st_whileServed e ?_ ?_
    | refine st_whileDoorbell e ?_ ?_
    | (cases e)
  all_goals repeat' (first
      | with_reducible assumption
      | with_reducible apply st_pllLock hP)

theorem st_execIdent (hP : Stable P) {pec : Bool} {s : State} {t : State} (h_s : P s) (e : execIdent pec s = .next t) : P t := by
  unfold execIdent at e
  first
    | refine st_whileOn e ?_ ?_
    | refine st_whileServed e ?_ ?_
    | refine st_whileDoorbell e ?_ ?_
    | (cases e)
  all_goals repeat' (first
      | with_reducible assumption
      | with_reducible apply st_sideAnswer hP
      | split)

theorem st_execThermalPark (hP : Stable P) {sensor : Nat} {s : State} {t : State} (h_s : P s) (e : execThermalPark sensor s = .next t) : P t := by
  unfold execThermalPark at e
  first
    | refine st_whileOn e ?_ ?_
    | refine st_whileServed e ?_ ?_
    | refine st_whileDoorbell e ?_ ?_
    | (cases e)
  all_goals repeat' (first
      | with_reducible assumption
      | with_reducible apply st_thermalPark hP)

theorem st_execEventsClear (hP : Stable P) {pec : Bool} {value : Nat} {s : State} {t : State} (h_s : P s) (e : execEventsClear pec value s = .next t) : P t := by
  unfold execEventsClear at e
  first
    | refine st_whileOn e ?_ ?_
    | refine st_whileServed e ?_ ?_
    | refine st_whileDoorbell e ?_ ?_
    | (cases e)
  all_goals repeat' (first
      | with_reducible assumption
      | with_reducible apply st_eventsClear hP
      | split)

theorem st_execPowerCap (hP : Stable P) {c : Cmd} {s : State} {t : State} (h_s : P s) (e : execPowerCap c s = .next t) : P t := by
  unfold execPowerCap at e
  first
    | refine st_whileOn e ?_ ?_
  all_goals repeat' (first
      | with_reducible assumption
      | with_reducible apply st_powerCap hP)

theorem st_execSensor (hP : Stable P) {pec : Bool} {n : Nat} {s : State} {t : State} (h_s : P s) (e : execSensor pec n s = .next t) : P t := by
  unfold execSensor at e
  first
    | refine st_whileOn e ?_ ?_
    | refine st_whileServed e ?_ ?_
    | refine st_whileDoorbell e ?_ ?_
    | (cases e)
  all_goals repeat' (first
      | with_reducible assumption
      | with_reducible apply st_sideAnswer hP
      | split)

theorem st_execPowerStageFault (hP : Stable P) {s : State} {t : State} (h_s : P s) (e : execPowerStageFault s = .next t) : P t := by
  unfold execPowerStageFault at e
  first
    | refine st_whileOn e ?_ ?_
    | refine st_whileServed e ?_ ?_
    | refine st_whileDoorbell e ?_ ?_
    | (cases e)
  all_goals repeat' (first
      | with_reducible assumption
      | with_reducible apply st_emergencyStop hP)

theorem st_execOverCurrent (hP : Stable P) {s : State} {t : State} (h_s : P s) (e : execOverCurrent s = .next t) : P t := by
  unfold execOverCurrent at e
  first
    | refine st_whileOn e ?_ ?_
    | refine st_whileServed e ?_ ?_
    | refine st_whileDoorbell e ?_ ?_
    | (cases e)
  all_goals repeat' (first
      | with_reducible assumption
      | with_reducible apply st_emergencyStop hP)

theorem st_execRampGovernorTick (hP : Stable P) {mv : Nat} {load : Nat} {held : Nat} {s : State} {t : State} (h_s : P s) (e : execRampGovernorTick mv load held s = .next t) : P t := by
  unfold execRampGovernorTick at e
  first
    | refine st_whileOn e ?_ ?_
    | refine st_whileServed e ?_ ?_
    | refine st_whileDoorbell e ?_ ?_
    | (cases e)
  all_goals repeat' (first
      | with_reducible assumption
      | with_reducible apply st_rampGovernorTick hP)

theorem st_execRootPllUnlock (hP : Stable P) {s : State} {t : State} (h_s : P s) (e : execRootPllUnlock s = .next t) : P t := by
  unfold execRootPllUnlock at e
  first
    | refine st_whileOn e ?_ ?_
    | refine st_whileServed e ?_ ?_
    | refine st_whileDoorbell e ?_ ?_
    | (cases e)
  all_goals repeat' (first
      | with_reducible assumption
      | with_reducible apply st_rootUnlock hP)

theorem st_execMainConvertersUp (hP : Stable P) {s : State} {t : State} (h_s : P s) (e : execMainConvertersUp s = .next t) : P t := by
  unfold execMainConvertersUp at e
  first
    | refine st_whileOn e ?_ ?_
    | refine st_whileServed e ?_ ?_
    | refine st_whileDoorbell e ?_ ?_
    | (cases e)
  all_goals repeat' (first
      | with_reducible assumption
      | with_reducible apply st_mainConvertersUp hP)

theorem st_execInrushDone (hP : Stable P) {smbAddr : Nat} {s : State} {t : State} (h_s : P s) (e : execInrushDone smbAddr s = .next t) : P t := by
  unfold execInrushDone at e
  first
    | refine st_whileOn e ?_ ?_
    | refine st_whileServed e ?_ ?_
    | refine st_whileDoorbell e ?_ ?_
    | (cases e)
  all_goals repeat' (first
      | with_reducible assumption
      | with_reducible apply st_inrushDone hP)

theorem st_execInputPowerUp (hP : Stable P) {s : State} {t : State} (h_s : P s) (e : execInputPowerUp s = .next t) : P t := by
  unfold execInputPowerUp at e
  first
    | refine st_whileOn e ?_ ?_
    | refine st_whileServed e ?_ ?_
    | refine st_whileDoorbell e ?_ ?_
    | (cases e)
  all_goals repeat' (first
      | with_reducible assumption
      | with_reducible apply st_inputPowerUp hP)

theorem st_execEmstopNLow (hP : Stable P) {s : State} {t : State} (h_s : P s) (e : execEmstopNLow s = .next t) : P t := by
  unfold execEmstopNLow at e
  first
    | refine st_whileOn e ?_ ?_
    | refine st_whileServed e ?_ ?_
    | refine st_whileDoorbell e ?_ ?_
    | (cases e)
  all_goals repeat' (first
      | with_reducible assumption
      | with_reducible apply st_emergencyStop hP)

theorem st_execEvents (hP : Stable P) {pec : Bool} {s : State} {t : State} (h_s : P s) (e : execEvents pec s = .next t) : P t := by
  unfold execEvents at e
  first
    | refine st_whileOn e ?_ ?_
    | refine st_whileServed e ?_ ?_
    | refine st_whileDoorbell e ?_ ?_
    | (cases e)
  all_goals repeat' (first
      | with_reducible assumption
      | with_reducible apply st_sideAnswer hP
      | split)

theorem st_execThermalTick (hP : Stable P) {s : State} {t : State} (h_s : P s) (e : execThermalTick s = .next t) : P t := by
  unfold execThermalTick at e
  first
    | refine st_whileOn e ?_ ?_
    | refine st_whileServed e ?_ ?_
    | refine st_whileDoorbell e ?_ ?_
    | (cases e)
  all_goals repeat' (first
      | with_reducible assumption
      | with_reducible apply st_thermalTick hP)

theorem st_execInputPowerLoss (hP : Stable P) {s : State} {t : State} (h_s : P s) (e : execInputPowerLoss s = .next t) : P t := by
  unfold execInputPowerLoss at e
  first
    | refine st_whileOn e ?_ ?_
    | refine st_whileServed e ?_ ?_
    | refine st_whileDoorbell e ?_ ?_
    | (cases e)
  all_goals repeat' (first
      | with_reducible assumption
      | with_reducible apply st_inputPowerLoss hP)

theorem st_execSensorReadTick (hP : Stable P) {temps : List Nat} {s : State} {t : State} (h_s : P s) (e : execSensorReadTick temps s = .next t) : P t := by
  unfold execSensorReadTick at e
  first
    | refine st_whileOn e ?_ ?_
    | refine st_whileServed e ?_ ?_
    | refine st_whileDoorbell e ?_ ?_
    | (cases e)
  all_goals repeat' (first
      | with_reducible assumption
      | with_reducible apply st_sensorReadTick hP)

theorem st_execCapSet (hP : Stable P) {pec : Bool} {value : Nat} {s : State} {t : State} (h_s : P s) (e : execCapSet pec value s = .next t) : P t := by
  unfold execCapSet at e
  first
    | refine st_whileOn e ?_ ?_
    | refine st_whileServed e ?_ ?_
    | refine st_whileDoorbell e ?_ ?_
    | (cases e)
  all_goals repeat' (first
      | with_reducible assumption
      | with_reducible apply st_bmcCap hP
      | split)

theorem st_execCrash (hP : Stable P) {pec : Bool} {n : Nat} {s : State} {t : State} (h_s : P s) (e : execCrash pec n s = .next t) : P t := by
  unfold execCrash at e
  first
    | refine st_whileOn e ?_ ?_
    | refine st_whileServed e ?_ ?_
    | refine st_whileDoorbell e ?_ ?_
    | (cases e)
  all_goals repeat' (first
      | with_reducible assumption
      | with_reducible apply st_sideAnswer hP
      | split)

theorem st_execSmbusAlertResponse (hP : Stable P) {s : State} {t : State} (h_s : P s) (e : execSmbusAlertResponse s = .next t) : P t := by
  unfold execSmbusAlertResponse at e
  first
    | refine st_whileOn e ?_ ?_
    | refine st_whileServed e ?_ ?_
    | refine st_whileDoorbell e ?_ ?_
    | (cases e)
  all_goals repeat' (first
      | with_reducible assumption
      | with_reducible apply st_sideAnswer hP
      | split)

theorem st_execTelemetry (hP : Stable P) {pec : Bool} {s : State} {t : State} (h_s : P s) (e : execTelemetry pec s = .next t) : P t := by
  unfold execTelemetry at e
  first
    | refine st_whileOn e ?_ ?_
    | refine st_whileServed e ?_ ?_
    | refine st_whileDoorbell e ?_ ?_
    | (cases e)
  all_goals repeat' (first
      | with_reducible assumption
      | with_reducible apply st_sideAnswer hP
      | split)

theorem st_execCapControlTick (hP : Stable P) {avg : Nat} {withheld : Nat} {s : State} {t : State} (h_s : P s) (e : execCapControlTick avg withheld s = .next t) : P t := by
  unfold execCapControlTick at e
  first
    | refine st_whileOn e ?_ ?_
    | refine st_whileServed e ?_ ?_
    | refine st_whileDoorbell e ?_ ?_
    | (cases e)
  all_goals repeat' (first
      | with_reducible assumption
      | with_reducible apply st_capControlTick hP)

theorem st_execCapGet (hP : Stable P) {pec : Bool} {s : State} {t : State} (h_s : P s) (e : execCapGet pec s = .next t) : P t := by
  unfold execCapGet at e
  first
    | refine st_whileOn e ?_ ?_
    | refine st_whileServed e ?_ ?_
    | refine st_whileDoorbell e ?_ ?_
    | (cases e)
  all_goals repeat' (first
      | with_reducible assumption
      | with_reducible apply st_sideAnswer hP
      | split)

theorem st_execThermalUnpark (hP : Stable P) {die : Nat} {s : State} {t : State} (h_s : P s) (e : execThermalUnpark die s = .next t) : P t := by
  unfold execThermalUnpark at e
  first
    | refine st_whileOn e ?_ ?_
    | refine st_whileServed e ?_ ?_
    | refine st_whileDoorbell e ?_ ?_
    | (cases e)
  all_goals repeat' (first
      | with_reducible assumption
      | with_reducible apply st_thermalUnpark hP)

theorem st_execBallastPrerampStart (hP : Stable P) {k : Nat} {s : State} {t : State} (h_s : P s) (e : execBallastPrerampStart k s = .next t) : P t := by
  unfold execBallastPrerampStart at e
  first
    | refine st_whileOn e ?_ ?_
  all_goals repeat' (first
      | with_reducible assumption
      | with_reducible apply st_prerampStart hP)

theorem st_execCrashClear (hP : Stable P) {pec : Bool} {s : State} {t : State} (h_s : P s) (e : execCrashClear pec s = .next t) : P t := by
  unfold execCrashClear at e
  first
    | refine st_whileOn e ?_ ?_
    | refine st_whileServed e ?_ ?_
    | refine st_whileDoorbell e ?_ ?_
    | (cases e)
  all_goals repeat' (first
      | with_reducible assumption
      | with_reducible apply st_crashClear hP
      | with_reducible apply st_sideAnswer hP
      | split)

theorem st_execRestart (hP : Stable P) {pec : Bool} {emstopHigh : Bool} {mv : Nat} {temps : List Nat} {s : State} {t : State} (h_s : P s) (e : execRestart pec emstopHigh mv temps s = .next t) : P t := by
  unfold execRestart at e
  first
    | refine st_whileOn e ?_ ?_
    | refine st_whileServed e ?_ ?_
    | refine st_whileDoorbell e ?_ ?_
    | (cases e)
  all_goals repeat' (first
      | with_reducible assumption
      | with_reducible apply st_restart hP
      | split)

end Sys2Proof.Machine
end

