-- ==== Sys2Proof/Laws/StableBoot.lean ====
section
/-!
SUPPORT. The operations of Machine/Boot keep every stable predicate.
-/

set_option linter.unusedVariables false

namespace Sys2Proof.Machine

variable {P : State → Prop}

theorem st_loadAcc (hP : Stable P) {list : Nat} {len : Nat}  : AccSt P (loadAcc list len) := by
  unfold loadAcc
  repeat' (first
      | with_reducible assumption
      | with_reducible apply st_hostRead hP
      | with_reducible apply accRes_ok
      | with_reducible apply accRes_wait
      | with_reducible apply accRes_fail
      | with_reducible apply accSt_bind
      | with_reducible apply accSt_pure
      | with_reducible apply accSt_foldlM
      | with_reducible apply accSt_map
      | with_reducible apply accSt_mapM
      | split
      | (with_reducible intro _))

theorem st_imageLoadRun (hP : Stable P) {s : State} (h_s : P s) : P (imageLoadRun s) := by
  unfold imageLoadRun
  repeat' (first
      | with_reducible assumption
      | with_reducible apply st_loadAcc hP
      | with_reducible apply st_runAcc hP
      | with_reducible apply hP.sec
      | with_reducible apply accRes_ok
      | with_reducible apply accRes_wait
      | with_reducible apply accRes_fail
      | with_reducible apply accSt_bind
      | with_reducible apply accSt_pure
      | with_reducible apply accSt_foldlM
      | with_reducible apply accSt_map
      | with_reducible apply accSt_mapM
      | split
      | (with_reducible intro _))

theorem st_mboxDone (hP : Stable P) {result : Nat} {s : State} (h_s : P s) : P (mboxDone result s) := by
  unfold mboxDone
  repeat' (first
      | with_reducible assumption
      | with_reducible apply st_regPut hP)

theorem st_svnCommit (hP : Stable P) {ok : Bool} {s : State} (h_s : P s) : P (svnCommit ok s) := by
  unfold svnCommit
  repeat' (first
      | with_reducible assumption
      | with_reducible apply st_mboxDone hP
      | with_reducible apply st_regPut hP
      | split
      | (with_reducible intro _)
      | with_reducible apply st_foldl
      | with_reducible apply st_foldl_snd
      | dsimp only)

theorem st_doeAnswer (hP : Stable P) {status : Nat} {l : List Byte} {s : State} (h_s : P s) : P (doeAnswer status l s) := by
  unfold doeAnswer
  repeat' (first
      | with_reducible assumption
      | with_reducible apply hP.sec)

theorem st_putIdStat (hP : Stable P) {flashOk : Bool} {s : State} (h_s : P s) : P (putIdStat flashOk s) := by
  unfold putIdStat
  repeat' (first
      | with_reducible assumption
      | with_reducible apply st_regPut hP)

theorem st_takeIndex (hP : Stable P) {flash : Bool} {s t : State} {i : Nat} (e : takeIndex flash s = .ok (i, t)) (h : P s) : P t := by
  unfold takeIndex at e
  dsimp only at e
  split at e
  · cases e
  · split at e
    · cases e
    · cases e; exact st_putIdStat hP (hP.sec _ _ h)


theorem st_signReport (hP : Stable P) {path : Nat} {nonce l : List Byte} {flash : Bool} {s t : State}
    (e : signReport path nonce flash s = .ok (l, t)) (h : P s) : P t := by
  unfold signReport at e
  split at e
  · cases e
  · cases e; exact st_takeIndex hP ‹_› h


theorem st_indexRefused (hP : Stable P) {code : Nat} {s : State} (h_s : P s) : P (indexRefused code s) := by
  unfold indexRefused
  repeat' (first
      | with_reducible assumption
      | with_reducible apply st_putIdStat hP
      | split)

theorem st_doeRequest (hP : Stable P) {req : List Byte} {flash : Bool} {s : State} (h_s : P s) : P (doeRequest req flash s) := by
  unfold doeRequest
  repeat' (first
      | with_reducible assumption
      | with_reducible apply st_doeAnswer hP
      | with_reducible apply st_indexRefused hP
      | (refine st_signReport hP (by assumption) ?_)
      | split
      | (with_reducible intro _)
      | with_reducible apply st_foldl
      | with_reducible apply st_foldl_snd
      | dsimp only)

theorem st_halt (hP : Stable P) {reason : Nat} {s : State} (h_s : P s) : P (halt reason s) := by
  unfold halt
  repeat' (first
      | with_reducible assumption
      | with_reducible apply st_putStage hP
      | with_reducible apply st_regField hP)

theorem st_romCheckDone (hP : Stable P) {fuseOk : Bool} {flashOk : Bool} {s : State} (h_s : P s) : P (romCheckDone fuseOk flashOk s) := by
  unfold romCheckDone
  repeat' (first
      | with_reducible assumption
      | with_reducible apply st_halt hP
      | with_reducible apply st_putStage hP
      | with_reducible apply st_startTraining hP
      | split)

theorem st_closeRws (hP : Stable P) {s : State} (h_s : P s) : P (closeRws s) := by
  unfold closeRws
  repeat' (first
      | with_reducible assumption
      | with_reducible apply st_regPut hP
      | split
      | (with_reducible intro _)
      | with_reducible apply st_foldl)

theorem st_sealCmd (hP : Stable P) {ok : Bool} {s : State} (h_s : P s) : P (sealCmd ok s) := by
  unfold sealCmd
  repeat' (first
      | with_reducible assumption
      | with_reducible apply st_closeRws hP
      | with_reducible apply st_mboxDone hP
      | with_reducible apply st_regOr hP
      | split)

theorem st_attestWrite (hP : Stable P) {c : Cmd} {a : Nat} {l : List Byte}  : AccSt P (attestWrite c a l) := by
  unfold attestWrite
  repeat' (first
      | with_reducible assumption
      | with_reducible apply st_accFail hP
      | with_reducible apply st_ctxWrite hP
      | with_reducible apply st_globWrite hP
      | with_reducible apply st_placeWrite hP
      | with_reducible apply accRes_ok
      | with_reducible apply accRes_wait
      | with_reducible apply accRes_fail
      | with_reducible apply accSt_bind
      | with_reducible apply accSt_pure
      | with_reducible apply accSt_foldlM
      | with_reducible apply accSt_map
      | with_reducible apply accSt_mapM
      | split
      | (with_reducible intro _))

theorem st_attestEnd (hP : Stable P) {c : Cmd} {st : Nat} {fault : Nat} {result : Nat} {s : State} (h_s : P s) : P (attestEnd c st fault result s) := by
  unfold attestEnd
  repeat' (first
      | with_reducible assumption
      | with_reducible apply st_complete hP
      | with_reducible apply hP.sec)

theorem st_attestFault (hP : Stable P) {c : Cmd} {f : Flt} {s : State} (h_s : P s) : P (attestFault c f s) := by
  unfold attestFault
  repeat' (first
      | with_reducible assumption
      | with_reducible apply st_faultCmd hP
      | with_reducible apply hP.sec)

theorem st_attestOut (hP : Stable P) {c : Cmd} {l : List Byte} {result : Nat} {s : State} (h_s : P s) : P (attestOut c l result s) := by
  unfold attestOut
  repeat' (first
      | with_reducible assumption
      | with_reducible apply st_attestEnd hP
      | with_reducible apply st_attestFault hP
      | with_reducible apply st_attestWrite hP
      | with_reducible apply st_runAcc hP
      | with_reducible apply accRes_ok
      | with_reducible apply accRes_wait
      | with_reducible apply accRes_fail
      | with_reducible apply accSt_bind
      | with_reducible apply accSt_pure
      | with_reducible apply accSt_foldlM
      | with_reducible apply accSt_map
      | with_reducible apply accSt_mapM
      | split
      | (with_reducible intro _))

theorem st_hardenRepair (hP : Stable P) {i : Nat} {s : State} (h_s : P s) : P (hardenRepair i s) := by
  unfold hardenRepair
  repeat' (first
      | with_reducible assumption
      | with_reducible apply st_drawFree hP
      | with_reducible apply st_regField hP
      | split
      | (with_reducible intro _)
      | with_reducible apply st_foldl
      | with_reducible apply st_foldl_snd
      | dsimp only
      | (refine st_pair (by assumption) ?_))

theorem st_attestSign (hP : Stable P) {c : Cmd} {nonce : List Byte} {s : State} (h_s : P s) : P (attestSign c nonce s) := by
  unfold attestSign
  repeat' (first
      | with_reducible assumption
      | with_reducible apply st_attestEnd hP
      | with_reducible apply st_attestOut hP
      | with_reducible apply st_indexRefused hP
      | (refine st_signReport hP (by assumption) ?_)
      | with_reducible apply hP.sec
      | split
      | (with_reducible intro _)
      | with_reducible apply st_foldl
      | with_reducible apply st_foldl_snd
      | dsimp only)

theorem st_imageComplete (hP : Stable P) {src : Nat} {l : List Byte} {s : State} (h_s : P s) : P (imageComplete src l s) := by
  unfold imageComplete
  repeat' (first
      | with_reducible assumption
      | with_reducible apply st_putStage hP
      | with_reducible apply hP.sec
      | split)

theorem st_attestRead (hP : Stable P) {c : Cmd} {a : Nat} {n : Nat}  : AccSt P (attestRead c a n) := by
  unfold attestRead
  repeat' (first
      | with_reducible assumption
      | with_reducible apply st_accFail hP
      | with_reducible apply st_ctxRead hP
      | with_reducible apply st_placeRead hP
      | with_reducible apply accRes_ok
      | with_reducible apply accRes_wait
      | with_reducible apply accRes_fail
      | with_reducible apply accSt_bind
      | with_reducible apply accSt_pure
      | with_reducible apply accSt_foldlM
      | with_reducible apply accSt_map
      | with_reducible apply accSt_mapM
      | split)

theorem st_attestRun (hP : Stable P) {c : Cmd} {s : State} (h_s : P s) : P (attestRun c s) := by
  unfold attestRun
  repeat' (first
      | with_reducible assumption
      | with_reducible apply st_attestEnd hP
      | with_reducible apply st_attestFault hP
      | with_reducible apply st_attestOut hP
      | with_reducible apply st_attestRead hP
      | with_reducible apply st_attestSign hP
      | with_reducible apply st_runAcc hP
      | with_reducible apply accRes_ok
      | with_reducible apply accRes_wait
      | with_reducible apply accRes_fail
      | with_reducible apply accSt_bind
      | with_reducible apply accSt_pure
      | with_reducible apply accSt_foldlM
      | with_reducible apply accSt_map
      | with_reducible apply accSt_mapM
      | split
      | (with_reducible intro _))

theorem st_attest (hP : Stable P) {c : Cmd} {flash : Bool} {s : State} (h_s : P s) : P (attest c flash s) := by
  unfold attest
  repeat' (first
      | with_reducible assumption
      | with_reducible apply st_attestRun hP
      | with_reducible apply st_badPacket hP
      | with_reducible apply st_startCmd hP
      | with_reducible apply hP.sec
      | split)

theorem st_firmwareRuns (hP : Stable P) {src : Nat} {l : List Byte} {s : State} (h_s : P s) : P (firmwareRuns src l s) := by
  unfold firmwareRuns
  repeat' (first
      | with_reducible assumption
      | with_reducible apply st_drawFree hP
      | with_reducible apply st_putStage hP
      | with_reducible apply st_regField hP
      | with_reducible apply st_regPut hP
      | with_reducible apply st_sendJoined hP
      | with_reducible apply hP.sec
      | with_reducible apply hP.mem
      | exact fun _ => rfl
      | with_reducible apply memWf_mk
      | with_reducible exact id
      | with_reducible apply mwf_filter
      | with_reducible apply mwf_mset
      | with_reducible apply mwf_msetMany
      | with_reducible apply risingFrom_filter
      | with_reducible apply risingFrom_keyInsert0
      | split
      | (with_reducible intro _)
      | with_reducible apply st_foldl
      | with_reducible apply st_foldl_snd
      | dsimp only
      | (refine st_pair (by assumption) ?_))

theorem st_imageSegment (hP : Stable P) {off : Nat} {total : Nat} {data : List Byte} {s : State} (h_s : P s) : P (imageSegment off total data s) := by
  unfold imageSegment
  repeat' (first
      | with_reducible assumption
      | with_reducible apply st_imageComplete hP
      | with_reducible apply hP.sec
      | split
      | (with_reducible intro _)
      | with_reducible apply st_foldl
      | with_reducible apply st_foldl_snd
      | dsimp only)

theorem st_imageArrives (hP : Stable P) {h : Hdr} {l : List Byte} {s : State} (h_s : P s) : P (imageArrives h l s) := by
  unfold imageArrives
  repeat' (first
      | with_reducible assumption
      | with_reducible apply st_count hP
      | with_reducible apply st_imageSegment hP
      | split
      | (with_reducible intro _)
      | with_reducible apply st_foldl
      | with_reducible apply st_foldl_snd
      | dsimp only)

theorem st_imageRefused (hP : Stable P) {src : Nat} {reason : Nat} {s : State} (h_s : P s) : P (imageRefused src reason s) := by
  unfold imageRefused
  repeat' (first
      | with_reducible assumption
      | with_reducible apply st_grantImage hP
      | with_reducible apply st_imageComplete hP
      | with_reducible apply st_putStage hP
      | with_reducible apply st_regField hP
      | with_reducible apply st_sendJoined hP
      | with_reducible apply hP.sec
      | split
      | (with_reducible intro _)
      | with_reducible apply st_foldl
      | with_reducible apply st_foldl_snd
      | dsimp only)

theorem st_startDone (hP : Stable P) {ok : Bool} {s : State} (h_s : P s) : P (startDone ok s) := by
  unfold startDone
  repeat' (first
      | with_reducible assumption
      | with_reducible apply st_firmwareRuns hP
      | with_reducible apply st_imageRefused hP
      | split)

theorem st_hbmTrainDone (hP : Stable P) {ok : Bool} {s : State} (h_s : P s) : P (hbmTrainDone ok s) := by
  unfold hbmTrainDone
  repeat' (first
      | with_reducible assumption
      | with_reducible apply st_grantImage hP
      | with_reducible apply st_halt hP
      | with_reducible apply st_hardenRepair hP
      | with_reducible apply st_putStage hP
      | split
      | (with_reducible intro _)
      | with_reducible apply st_foldl)

theorem st_imageVerifyDone (hP : Stable P) {s : State} (h_s : P s) : P (imageVerifyDone s) := by
  unfold imageVerifyDone
  repeat' (first
      | with_reducible assumption
      | with_reducible apply st_imageRefused hP
      | with_reducible apply st_putStage hP
      | with_reducible apply st_regField hP
      | split)

theorem st_imageReadDone (hP : Stable P) {s : State} (h_s : P s) : P (imageReadDone s) := by
  unfold imageReadDone
  repeat' (first
      | with_reducible assumption
      | with_reducible apply st_imageComplete hP
      | with_reducible apply st_mboxDone hP
      | with_reducible apply st_regField hP
      | with_reducible apply hP.sec
      | split)

theorem st_ownerProgram (hP : Stable P) {ok : Bool} {s : State} (h_s : P s) : P (ownerProgram ok s) := by
  unfold ownerProgram
  repeat' (first
      | with_reducible assumption
      | with_reducible apply st_mboxDone hP
      | with_reducible apply st_regPut hP
      | split
      | (with_reducible intro _)
      | with_reducible apply st_foldl)

theorem st_mboxLoad (hP : Stable P) {s : State} (h_s : P s) : P (mboxLoad s) := by
  unfold mboxLoad
  repeat' (first
      | with_reducible assumption
      | with_reducible apply st_imageLoadRun hP
      | with_reducible apply st_mboxDone hP
      | with_reducible apply st_regPut hP
      | with_reducible apply hP.sec
      | split
      | (with_reducible intro _)
      | with_reducible apply st_foldl
      | with_reducible apply st_foldl_snd
      | dsimp only)

theorem st_perstDeassert (hP : Stable P) {mgrCapable : Bool} {reserve : Bool} {smbAddr : Nat} {s : State} (h_s : P s) : P (perstDeassert mgrCapable reserve smbAddr s) := by
  unfold perstDeassert
  repeat' (first
      | with_reducible assumption
      | with_reducible apply st_regField hP
      | with_reducible apply st_startTraining hP
      | with_reducible apply hP.hl
      | with_reducible apply hP.pwr
      | split)

theorem st_execAttest (hP : Stable P) {c : Cmd} {flash : Bool} {s : State} {t : State} (h_s : P s) (e : execAttest c flash s = .next t) : P t := by
  unfold execAttest at e
  first
    | refine st_whileOn e ?_ ?_
  all_goals repeat' (first
      | with_reducible assumption
      | with_reducible apply st_attest hP)

theorem st_execPerstNDeassert (hP : Stable P) {mgrCapable : Bool} {reserve : Bool} {smbAddr : Nat} {s : State} {t : State} (h_s : P s) (e : execPerstNDeassert mgrCapable reserve smbAddr s = .next t) : P t := by
  unfold execPerstNDeassert at e
  first
    | refine st_whileOn e ?_ ?_
    | refine st_whileServed e ?_ ?_
    | refine st_whileDoorbell e ?_ ?_
    | (cases e)
  all_goals repeat' (first
      | with_reducible assumption
      | with_reducible apply st_perstDeassert hP)

theorem st_execLoad (hP : Stable P) {s : State} {t : State} (h_s : P s) (e : execLoad s = .next t) : P t := by
  unfold execLoad at e
  first
    | refine st_whileOn e ?_ ?_
    | refine st_whileServed e ?_ ?_
  all_goals repeat' (first
      | with_reducible assumption
      | with_reducible apply st_mboxLoad hP
      | split)

theorem st_execImageVerifyDone (hP : Stable P) {s : State} {t : State} (h_s : P s) (e : execImageVerifyDone s = .next t) : P t := by
  unfold execImageVerifyDone at e
  first
    | refine st_whileOn e ?_ ?_
    | refine st_whileServed e ?_ ?_
    | refine st_whileDoorbell e ?_ ?_
    | (cases e)
  all_goals repeat' (first
      | with_reducible assumption
      | with_reducible apply st_imageVerifyDone hP)

theorem st_execSvnCommit (hP : Stable P) {ok : Bool} {s : State} {t : State} (h_s : P s) (e : execSvnCommit ok s = .next t) : P t := by
  unfold execSvnCommit at e
  first
    | refine st_whileOn e ?_ ?_
    | refine st_whileServed e ?_ ?_
  all_goals repeat' (first
      | with_reducible assumption
      | with_reducible apply st_svnCommit hP
      | split)

theorem st_execOwnerProgram (hP : Stable P) {ok : Bool} {s : State} {t : State} (h_s : P s) (e : execOwnerProgram ok s = .next t) : P t := by
  unfold execOwnerProgram at e
  first
    | refine st_whileOn e ?_ ?_
    | refine st_whileServed e ?_ ?_
  all_goals repeat' (first
      | with_reducible assumption
      | with_reducible apply st_ownerProgram hP
      | split)

theorem st_execRomCheckDone (hP : Stable P) {fuseOk : Bool} {flashOk : Bool} {s : State} {t : State} (h_s : P s) (e : execRomCheckDone fuseOk flashOk s = .next t) : P t := by
  unfold execRomCheckDone at e
  first
    | refine st_whileOn e ?_ ?_
    | refine st_whileServed e ?_ ?_
    | refine st_whileDoorbell e ?_ ?_
    | (cases e)
  all_goals repeat' (first
      | with_reducible assumption
      | with_reducible apply st_romCheckDone hP)

theorem st_execSealFuse (hP : Stable P) {ok : Bool} {s : State} {t : State} (h_s : P s) (e : execSealFuse ok s = .next t) : P t := by
  unfold execSealFuse at e
  first
    | refine st_whileOn e ?_ ?_
    | refine st_whileServed e ?_ ?_
  all_goals repeat' (first
      | with_reducible assumption
      | with_reducible apply st_sealCmd hP
      | split)

theorem st_execStartDone (hP : Stable P) {ok : Bool} {s : State} {t : State} (h_s : P s) (e : execStartDone ok s = .next t) : P t := by
  unfold execStartDone at e
  first
    | refine st_whileOn e ?_ ?_
    | refine st_whileServed e ?_ ?_
    | refine st_whileDoorbell e ?_ ?_
    | (cases e)
  all_goals repeat' (first
      | with_reducible assumption
      | with_reducible apply st_startDone hP)

theorem st_execImage (hP : Stable P) {h : Hdr} {payload : List Byte} {s : State} {t : State} (h_s : P s) (e : execImage h payload s = .next t) : P t := by
  unfold execImage at e
  first
    | refine st_whileOn e ?_ ?_
    | refine st_whileServed e ?_ ?_
    | refine st_whileDoorbell e ?_ ?_
    | (cases e)
  all_goals repeat' (first
      | with_reducible assumption
      | with_reducible apply st_deliver hP
      | with_reducible apply st_imageArrives hP
      | split
      | (with_reducible intro _))

theorem st_execImageReadDone (hP : Stable P) {s : State} {t : State} (h_s : P s) (e : execImageReadDone s = .next t) : P t := by
  unfold execImageReadDone at e
  first
    | refine st_whileOn e ?_ ?_
    | refine st_whileServed e ?_ ?_
    | refine st_whileDoorbell e ?_ ?_
    | (cases e)
  all_goals repeat' (first
      | with_reducible assumption
      | with_reducible apply st_imageReadDone hP)

theorem st_execHbmTrainDone (hP : Stable P) {ok : Bool} {s : State} {t : State} (h_s : P s) (e : execHbmTrainDone ok s = .next t) : P t := by
  unfold execHbmTrainDone at e
  first
    | refine st_whileOn e ?_ ?_
    | refine st_whileServed e ?_ ?_
    | refine st_whileDoorbell e ?_ ?_
    | (cases e)
  all_goals repeat' (first
      | with_reducible assumption
      | with_reducible apply st_hbmTrainDone hP)

theorem st_execDoeRequest (hP : Stable P) {request : List Byte} {flash : Bool} {s : State} {t : State} (h_s : P s) (e : execDoeRequest request flash s = .next t) : P t := by
  unfold execDoeRequest at e
  first
    | refine st_whileOn e ?_ ?_
    | refine st_whileServed e ?_ ?_
    | refine st_whileDoorbell e ?_ ?_
    | (cases e)
  all_goals repeat' (first
      | with_reducible assumption
      | with_reducible apply st_doeRequest hP)

end Sys2Proof.Machine
end

