-- ==== Sys2Proof/Laws/StableObserve.lean ====
section
/-!
SUPPORT. The operations of Machine/Observe keep every stable predicate.
-/

set_option linter.unusedVariables false

namespace Sys2Proof.Machine

variable {P : State → Prop}

theorem st_counterAct (hP : Stable P) {a : CounterAct} {late : Bool} {s : State} (h_s : P s) : P (counterAct a late s) := by
  unfold counterAct
  repeat' (first
      | with_reducible assumption
      | with_reducible apply st_count hP
      | with_reducible apply st_regField hP
      | with_reducible apply st_regOr hP
      | with_reducible apply st_regPut hP
      | with_reducible apply st_traceFire hP
      | with_reducible apply hP.obs
      | split
      | (with_reducible intro _)
      | with_reducible apply st_foldl
      | with_reducible apply st_foldl_snd
      | dsimp only)

theorem st_syncTrigger (hP : Stable P) {time : Nat} {id : Nat} {s : State} (h_s : P s) : P (syncTrigger time id s) := by
  unfold syncTrigger
  repeat' (first
      | with_reducible assumption
      | with_reducible apply st_counterAct hP
      | with_reducible apply hP.obs
      | split
      | (with_reducible intro _)
      | with_reducible apply st_foldl
      | with_reducible apply st_foldl_snd
      | dsimp only)

theorem st_dumpTensor (hP : Stable P) {c : Cmd} {s : State} (h_s : P s) : P (dumpTensor c s) := by
  unfold dumpTensor
  repeat' (first
      | with_reducible assumption
      | with_reducible apply st_badPacket hP
      | with_reducible apply st_closeDump hP
      | with_reducible apply st_complete hP
      | with_reducible apply st_completeOk hP
      | with_reducible apply st_ctxWrite hP
      | with_reducible apply st_faultCmd hP
      | with_reducible apply st_runAcc hP
      | with_reducible apply st_startCmd hP
      | with_reducible apply hP.obs
      | with_reducible apply accRes_ok
      | with_reducible apply accRes_wait
      | with_reducible apply accRes_fail
      | with_reducible apply accSt_bind
      | with_reducible apply accSt_pure
      | with_reducible apply accSt_foldlM
      | with_reducible apply accSt_map
      | with_reducible apply accSt_mapM
      | split
      | (with_reducible intro _)
      | with_reducible apply st_foldl
      | with_reducible apply st_foldl_snd
      | dsimp only)

theorem st_tracePostLimit (hP : Stable P) {s : State} (h_s : P s) : P (tracePostLimit s) := by
  unfold tracePostLimit
  repeat' (first
      | with_reducible assumption
      | with_reducible apply st_reachTime hP
      | with_reducible apply st_traceClose hP
      | split
      | (with_reducible intro _)
      | with_reducible apply st_foldl
      | with_reducible apply st_foldl_snd
      | dsimp only)

theorem st_counterActDone (hP : Stable P) {a : CounterAct} {s : State} (h_s : P s) : P (counterActDone a s) := by
  unfold counterActDone
  repeat' (first
      | with_reducible assumption
      | with_reducible apply st_completeOk hP
      | with_reducible apply st_counterAct hP
      | split)

theorem st_dumpExpire (hP : Stable P) {ctx : Nat} {slot : Nat} {s : State} (h_s : P s) : P (dumpExpire ctx slot s) := by
  unfold dumpExpire
  repeat' (first
      | with_reducible assumption
      | with_reducible apply st_closeDump hP
      | with_reducible apply st_reachTime hP
      | split)

theorem st_evtSelWrite (hP : Stable P) {u : Nat} {i : Nat} {value : Nat} {s : State} (h_s : P s) : P (evtSelWrite u i value s) := by
  unfold evtSelWrite
  repeat' (first
      | with_reducible assumption
      | with_reducible apply st_count hP
      | with_reducible apply st_regPut hP
      | split)

theorem st_freezeTime (hP : Stable P) {k : Nat} {s : State} (h_s : P s) : P (freezeTime k s) := by
  unfold freezeTime
  repeat' (first
      | with_reducible assumption
      | with_reducible apply st_counterActDone hP
      | with_reducible apply st_reachTime hP
      | with_reducible apply hP.obs
      | split
      | (with_reducible intro _)
      | with_reducible apply st_foldl
      | with_reducible apply st_foldl_snd
      | dsimp only)

theorem st_traceFireWrite (hP : Stable P) {value : Nat} {s : State} (h_s : P s) : P (traceFireWrite value s) := by
  unfold traceFireWrite
  repeat' (first
      | with_reducible assumption
      | with_reducible apply st_traceFire hP
      | split)

theorem st_counterFreeze (hP : Stable P) {c : Cmd} {s : State} (h_s : P s) : P (counterFreeze c s) := by
  unfold counterFreeze
  repeat' (first
      | with_reducible assumption
      | with_reducible apply st_badPacket hP
      | with_reducible apply st_counterActDone hP
      | with_reducible apply st_send hP
      | with_reducible apply st_startCmd hP
      | with_reducible apply hP.obs
      | split
      | (with_reducible intro _)
      | with_reducible apply st_foldl
      | with_reducible apply st_foldl_snd
      | dsimp only)

theorem st_traceArm (hP : Stable P) {c : Cmd} {s : State} (h_s : P s) : P (traceArm c s) := by
  unfold traceArm
  repeat' (first
      | with_reducible assumption
      | with_reducible apply st_State_setTrace hP
      | with_reducible apply st_cancelDeferred hP
      | with_reducible apply st_complete hP
      | with_reducible apply st_completeOk hP
      | with_reducible apply st_startCmd hP
      | with_reducible apply st_traceArmRun hP
      | with_reducible apply st_traceClose hP
      | split
      | (with_reducible intro _)
      | with_reducible apply st_foldl
      | with_reducible apply st_foldl_snd
      | dsimp only)

theorem st_tracePostEnd (hP : Stable P) {s : State} (h_s : P s) : P (tracePostEnd s) := by
  unfold tracePostEnd
  repeat' (first
      | with_reducible assumption
      | with_reducible apply st_traceClose hP
      | split
      | (with_reducible intro _)
      | with_reducible apply st_foldl
      | with_reducible apply st_foldl_snd
      | dsimp only)

theorem st_execSyncTrigger (hP : Stable P) {h : Hdr} {time : Nat} {id : Nat} {s : State} {t : State} (h_s : P s) (e : execSyncTrigger h time id s = .next t) : P t := by
  unfold execSyncTrigger at e
  first
    | refine st_whileOn e ?_ ?_
    | refine st_whileServed e ?_ ?_
    | refine st_whileDoorbell e ?_ ?_
    | (cases e)
  all_goals repeat' (first
      | with_reducible assumption
      | with_reducible apply st_deliver hP
      | with_reducible apply st_syncTrigger hP
      | split
      | (with_reducible intro _))

theorem st_execTraceArm (hP : Stable P) {c : Cmd} {s : State} {t : State} (h_s : P s) (e : execTraceArm c s = .next t) : P t := by
  unfold execTraceArm at e
  first
    | refine st_whileOn e ?_ ?_
  all_goals repeat' (first
      | with_reducible assumption
      | with_reducible apply st_traceArm hP)

theorem st_execFreezeTime (hP : Stable P) {k : Nat} {s : State} {t : State} (h_s : P s) (e : execFreezeTime k s = .next t) : P t := by
  unfold execFreezeTime at e
  first
    | refine st_whileOn e ?_ ?_
  all_goals repeat' (first
      | with_reducible assumption
      | with_reducible apply st_freezeTime hP)

theorem st_execDumpExpire (hP : Stable P) {ctx : Nat} {slot : Nat} {s : State} {t : State} (h_s : P s) (e : execDumpExpire ctx slot s = .next t) : P t := by
  unfold execDumpExpire at e
  first
    | refine st_whileOn e ?_ ?_
  all_goals repeat' (first
      | with_reducible assumption
      | with_reducible apply st_dumpExpire hP)

theorem st_execDumpTensor (hP : Stable P) {c : Cmd} {s : State} {t : State} (h_s : P s) (e : execDumpTensor c s = .next t) : P t := by
  unfold execDumpTensor at e
  first
    | refine st_whileOn e ?_ ?_
  all_goals repeat' (first
      | with_reducible assumption
      | with_reducible apply st_dumpTensor hP)

theorem st_execTracePostLimit (hP : Stable P) {s : State} {t : State} (h_s : P s) (e : execTracePostLimit s = .next t) : P t := by
  unfold execTracePostLimit at e
  first
    | refine st_whileOn e ?_ ?_
  all_goals repeat' (first
      | with_reducible assumption
      | with_reducible apply st_tracePostLimit hP)

theorem st_execTraceFire (hP : Stable P) {value : Nat} {s : State} {t : State} (h_s : P s) (e : execTraceFire value s = .next t) : P t := by
  unfold execTraceFire at e
  first
    | refine st_whileOn e ?_ ?_
    | refine st_whileServed e ?_ ?_
  all_goals repeat' (first
      | with_reducible assumption
      | with_reducible apply st_traceFireWrite hP)

theorem st_execEvtSelWrite (hP : Stable P) {u : Nat} {i : Nat} {value : Nat} {s : State} {t : State} (h_s : P s) (e : execEvtSelWrite u i value s = .next t) : P t := by
  unfold execEvtSelWrite at e
  first
    | refine st_whileOn e ?_ ?_
    | refine st_whileServed e ?_ ?_
  all_goals repeat' (first
      | with_reducible assumption
      | with_reducible apply st_evtSelWrite hP)

theorem st_execTracePostEnd (hP : Stable P) {s : State} {t : State} (h_s : P s) (e : execTracePostEnd s = .next t) : P t := by
  unfold execTracePostEnd at e
  first
    | refine st_whileOn e ?_ ?_
  all_goals repeat' (first
      | with_reducible assumption
      | with_reducible apply st_tracePostEnd hP)

theorem st_execCounterFreeze (hP : Stable P) {c : Cmd} {s : State} {t : State} (h_s : P s) (e : execCounterFreeze c s = .next t) : P t := by
  unfold execCounterFreeze at e
  first
    | refine st_whileOn e ?_ ?_
  all_goals repeat' (first
      | with_reducible assumption
      | with_reducible apply st_counterFreeze hP)

end Sys2Proof.Machine
end

