-- ==== Sys2Proof/Laws/StableRegisters.lean ====
section
/-!
SUPPORT. The operations of Machine/Registers keep every stable predicate.
-/

set_option linter.unusedVariables false

namespace Sys2Proof.Machine

variable {P : State → Prop}

theorem st_badAccess (hP : Stable P) {off : Nat} {size : Nat} {s : State} (h_s : P s) : P (badAccess off size s) := by
  unfold badAccess
  repeat' (first
      | with_reducible assumption
      | with_reducible apply st_count hP
      | split)

theorem st_mboxWrite (hP : Stable P) {v : Nat} {s : State} (h_s : P s) : P (mboxWrite v s) := by
  unfold mboxWrite
  repeat' (first
      | with_reducible assumption
      | with_reducible apply st_mboxDone hP
      | with_reducible apply st_mboxLoad hP
      | with_reducible apply st_ownerProgram hP
      | with_reducible apply st_sealCmd hP
      | with_reducible apply st_svnCommit hP
      | split)

theorem st_regReadArrives (hP : Stable P) {h : Hdr} {off : Nat} {width : Nat} {tag : Nat} {s : State} (h_s : P s) : P (regReadArrives h off width tag s) := by
  unfold regReadArrives
  repeat' (first
      | with_reducible assumption
      | with_reducible apply st_send hP
      | with_reducible apply st_tapDataRead hP
      | split)

theorem st_wordWrite (hP : Stable P) {eff : Nat → Nat → State → State} {off : Nat} {v : Nat} {s : State} (h_eff : ∀ (y0 : Nat) (y1 : Nat) (y2 : State), P y2 → P (eff y0 y1 y2)) (h_s : P s) : P (wordWrite eff off v s) := by
  unfold wordWrite
  repeat' (first
      | with_reducible assumption
      | with_reducible apply st_msixTableWrite hP
      | with_reducible apply h_eff
      | split)

theorem st_accessWrite (hP : Stable P) {eff : Nat → Nat → State → State} {off : Nat} {size : Nat} {v : Nat} {s : State} (h_eff : ∀ (y0 : Nat) (y1 : Nat) (y2 : State), P y2 → P (eff y0 y1 y2)) (h_s : P s) : P (accessWrite eff off size v s) := by
  unfold accessWrite
  repeat' (first
      | with_reducible assumption
      | with_reducible apply st_wordWrite hP
      | with_reducible apply h_eff
      | split)

theorem st_mgrCfgCopy (hP : Stable P) {s : State} (h_s : P s) : P (mgrCfgCopy s) := by
  unfold mgrCfgCopy
  repeat' (first
      | with_reducible assumption
      | with_reducible apply st_send hP
      | split)

theorem st_plainWrite (hP : Stable P) {base : Nat} {off : Nat} {v : Nat} {s : State} (h_s : P s) : P (plainWrite base off v s) := by
  unfold plainWrite
  repeat' (first
      | with_reducible assumption
      | with_reducible apply st_regWrite hP
      | split)

theorem st_regEffect (hP : Stable P) {off : Nat} {v : Nat} {s : State} (h_s : P s) : P (regEffect off v s) := by
  unfold regEffect
  repeat' (first
      | with_reducible assumption
      | with_reducible apply st_adminCreate hP
      | with_reducible apply st_adminDestroy hP
      | with_reducible apply st_crashCtlWrite hP
      | with_reducible apply st_dmaTailWrite hP
      | with_reducible apply st_evtSelWrite hP
      | with_reducible apply st_gdmaDisable hP
      | with_reducible apply st_gdmaEnable hP
      | with_reducible apply st_injectArm hP
      | with_reducible apply st_instrWrite hP
      | with_reducible apply st_mboxWrite hP
      | with_reducible apply st_plainWrite hP
      | with_reducible apply st_pprGo hP
      | with_reducible apply st_spanRead hP
      | with_reducible apply st_spanWrite hP
      | with_reducible apply st_tapDataWrite hP
      | with_reducible apply st_testCtlWrite hP
      | with_reducible apply st_traceFireWrite hP
      | with_reducible apply st_uclPop hP
      | with_reducible apply st_wayModeWrite hP
      | with_reducible apply st_ite
      | split)

theorem st_hostEffect (hP : Stable P) {off : Nat} {v : Nat} {s : State} (h_s : P s) : P (hostEffect off v s) := by
  unfold hostEffect
  repeat' (first
      | with_reducible assumption
      | with_reducible apply st_mgrCfgCopy hP
      | with_reducible apply st_regEffect hP
      | split)

theorem st_hostRegisterWrite (hP : Stable P) {off : Nat} {size : Nat} {value : Nat} {s : State} (h_s : P s) : P (hostRegisterWrite off size value s) := by
  unfold hostRegisterWrite
  repeat' (first
      | with_reducible assumption
      | with_reducible apply st_accessWrite hP
      | with_reducible apply st_badAccess hP
      | with_reducible apply st_hostEffect hP
      | split
      | (with_reducible intro _))

theorem st_regWriteArrives (hP : Stable P) {h : Hdr} {off : Nat} {width : Nat} {tag : Nat} {value : Nat} {s : State} (h_s : P s) : P (regWriteArrives h off width tag value s) := by
  unfold regWriteArrives
  repeat' (first
      | with_reducible assumption
      | with_reducible apply st_accessWrite hP
      | with_reducible apply st_regEffect hP
      | with_reducible apply st_send hP
      | split
      | (with_reducible intro _))

theorem st_regRspArrives (hP : Stable P) {tag : Nat} {status : Nat} {value : Nat} {s : State} (h_s : P s) : P (regRspArrives tag status value s) := by
  unfold regRspArrives
  repeat' (first
      | with_reducible assumption
      | with_reducible apply hP.fab
      | split)

theorem st_execHostRegisterWrite (hP : Stable P) {off : Nat} {size : Nat} {value : Nat} {s : State} {t : State} (h_s : P s) (e : execHostRegisterWrite off size value s = .next t) : P t := by
  unfold execHostRegisterWrite at e
  first
    | refine st_whileOn e ?_ ?_
    | refine st_whileServed e ?_ ?_
  all_goals repeat' (first
      | with_reducible assumption
      | with_reducible apply st_hostRegisterWrite hP)

theorem st_execRegRead (hP : Stable P) {h : Hdr} {off : Nat} {width : Nat} {tag : Nat} {s : State} {t : State} (h_s : P s) (e : execRegRead h off width tag s = .next t) : P t := by
  unfold execRegRead at e
  first
    | refine st_whileOn e ?_ ?_
    | refine st_whileServed e ?_ ?_
    | refine st_whileDoorbell e ?_ ?_
    | (cases e)
  all_goals repeat' (first
      | with_reducible assumption
      | with_reducible apply st_deliver hP
      | with_reducible apply st_regReadArrives hP
      | split
      | (with_reducible intro _))

theorem st_execBadBarAccess (hP : Stable P) {_write : Bool} {off : Nat} {size : Nat} {s : State} {t : State} (h_s : P s) (e : execBadBarAccess _write off size s = .next t) : P t := by
  unfold execBadBarAccess at e
  first
    | refine st_whileOn e ?_ ?_
    | refine st_whileServed e ?_ ?_
    | refine st_whileDoorbell e ?_ ?_
    | (cases e)
  all_goals repeat' (first
      | with_reducible assumption
      | with_reducible apply st_badAccess hP
      | split)

theorem st_execRegWrite (hP : Stable P) {h : Hdr} {off : Nat} {width : Nat} {tag : Nat} {value : Nat} {s : State} {t : State} (h_s : P s) (e : execRegWrite h off width tag value s = .next t) : P t := by
  unfold execRegWrite at e
  first
    | refine st_whileOn e ?_ ?_
    | refine st_whileServed e ?_ ?_
    | refine st_whileDoorbell e ?_ ?_
    | (cases e)
  all_goals repeat' (first
      | with_reducible assumption
      | with_reducible apply st_deliver hP
      | with_reducible apply st_regWriteArrives hP
      | split
      | (with_reducible intro _))

theorem st_execRegRsp (hP : Stable P) {h : Hdr} {tag : Nat} {status : Nat} {fault : Nat} {value : Nat} {s : State} {t : State} (h_s : P s) (e : execRegRsp h tag status fault value s = .next t) : P t := by
  unfold execRegRsp at e
  first
    | refine st_whileOn e ?_ ?_
    | refine st_whileServed e ?_ ?_
    | refine st_whileDoorbell e ?_ ?_
    | (cases e)
  all_goals repeat' (first
      | with_reducible assumption
      | with_reducible apply st_deliver hP
      | with_reducible apply st_regRspArrives hP
      | with_reducible apply st_responded hP
      | split
      | (with_reducible intro _))

end Sys2Proof.Machine
end

