-- ==== Sys2Proof/Laws/StableResume.lean ====
section
/-!
SUPPORT. The operations of Machine/Resume keep every stable predicate.
-/

set_option linter.unusedVariables false

namespace Sys2Proof.Machine

variable {P : State → Prop}

theorem st_commandGoOn (hP : Stable P) {c : Cmd} {s : State} (h_s : P s) : P (commandGoOn c s) := by
  unfold commandGoOn
  repeat' (first
      | with_reducible assumption
      | with_reducible apply st_attestRun hP
      | with_reducible apply st_createRun hP
      | with_reducible apply st_digestRegion hP
      | with_reducible apply st_dumpTensor hP
      | with_reducible apply st_fabricStatus hP
      | with_reducible apply st_faultCmd hP
      | with_reducible apply st_loadRun hP
      | with_reducible apply st_lookup hP
      | with_reducible apply st_nodeStart hP
      | with_reducible apply st_publishTable hP
      | with_reducible apply st_storeRun hP
      | with_reducible apply st_switchIn hP
      | with_reducible apply st_updateRows hP
      | with_reducible apply st_waitRead hP
      | with_reducible apply st_writeInline hP
      | split
      | (with_reducible intro _))

theorem st_commandBegin (hP : Stable P) {c : Cmd} {s : State} (h_s : P s) : P (commandBegin c s) := by
  unfold commandBegin
  repeat' (first
      | with_reducible assumption
      | with_reducible apply st_graphNodeStart hP
      | with_reducible apply st_managerPacket hP
      | split)

theorem st_goOn (hP : Stable P) {w : Work} {s : State} (h_s : P s) : P (goOn w s) := by
  unfold goOn
  repeat' (first
      | with_reducible assumption
      | with_reducible apply st_adminRead hP
      | with_reducible apply st_bulkComplete hP
      | with_reducible apply st_bulkStart hP
      | with_reducible apply st_commandBegin hP
      | with_reducible apply st_commandGoOn hP
      | with_reducible apply st_coreResume hP
      | with_reducible apply st_groveComplete hP
      | with_reducible apply st_helixGoOn hP
      | with_reducible apply st_imageLoadRun hP
      | with_reducible apply st_packetFetch hP
      | with_reducible apply st_recordWrite hP
      | with_reducible apply st_restoreGoOn hP
      | with_reducible apply st_resumeFinish hP
      | with_reducible apply st_syncStart hP
      | with_reducible apply st_tagCopyDone hP
      | split)

theorem st_goOnAll (hP : Stable P) {ws : List Work} {s : State} (h_s : P s) : P (goOnAll ws s) := by
  unfold goOnAll
  repeat' (first
      | with_reducible assumption
      | with_reducible apply st_goOn hP
      | split
      | (with_reducible intro _)
      | with_reducible apply st_foldl)

theorem st_answered (hP : Stable P) {r : List Work × State} (h_r : P r.2) : P (answered r) := by
  unfold answered
  repeat' (first
      | with_reducible assumption
      | with_reducible apply st_goOnAll hP)

theorem st_resumeReady (hP : Stable P) {s : State} (h_s : P s) : P (resumeReady s) := by
  unfold resumeReady
  repeat' (first
      | with_reducible assumption
      | with_reducible apply st_goOnAll hP)

theorem st_serdesUnlock (hP : Stable P) {q : Nat} {s : State} (h_s : P s) : P (serdesUnlock q s) := by
  unfold serdesUnlock
  repeat' (first
      | with_reducible assumption
      | with_reducible apply st_chordFail hP
      | with_reducible apply st_regField hP
      | with_reducible apply st_resumeReady hP
      | split
      | (with_reducible intro _)
      | with_reducible apply st_foldl)

theorem st_hostReadEnds (hP : Stable P) {tag : Nat} {data : Except Flt (List Byte)} {s : State} (h_s : P s) : P (hostReadEnds tag data s) := by
  unfold hostReadEnds
  repeat' (first
      | with_reducible assumption
      | with_reducible apply st_keepArrived hP
      | with_reducible apply st_recordFail hP
      | with_reducible apply st_resumeReady hP
      | with_reducible apply st_takeWaits hP
      | with_reducible apply hP.hl
      | split
      | (with_reducible intro _)
      | with_reducible apply st_foldl)

theorem st_hostCplTimeout (hP : Stable P) {tag : Nat} {s : State} (h_s : P s) : P (hostCplTimeout tag s) := by
  unfold hostCplTimeout
  repeat' (first
      | with_reducible assumption
      | with_reducible apply st_aerSet hP
      | with_reducible apply st_count hP
      | with_reducible apply st_hlEvent hP
      | with_reducible apply st_hostReadEnds hP
      | split)

theorem st_hostReadCompletion (hP : Stable P) {tag : Nat} {status : Nat} {data : List Byte} {s : State} (h_s : P s) : P (hostReadCompletion tag status data s) := by
  unfold hostReadCompletion
  repeat' (first
      | with_reducible assumption
      | with_reducible apply st_aerSet hP
      | with_reducible apply st_count hP
      | with_reducible apply st_countN hP
      | with_reducible apply st_hlEvent hP
      | with_reducible apply st_hostReadEnds hP
      | split)

theorem st_execPrgResponse (hP : Stable P) {index : Nat} {code : Nat} {s : State} {t : State} (h_s : P s) (e : execPrgResponse index code s = .next t) : P t := by
  unfold execPrgResponse at e
  first
    | refine st_whileOn e ?_ ?_
  all_goals repeat' (first
      | with_reducible assumption
      | with_reducible apply st_answered hP
      | with_reducible apply st_prgResponse hP)

theorem st_execMemopAck (hP : Stable P) {h : Hdr} {tag : Nat} {status : Nat} {fault : Nat} {old : Nat} {s : State} {t : State} (h_s : P s) (e : execMemopAck h tag status fault old s = .next t) : P t := by
  unfold execMemopAck at e
  first
    | refine st_whileOn e ?_ ?_
    | refine st_whileServed e ?_ ?_
    | refine st_whileDoorbell e ?_ ?_
    | (cases e)
  all_goals repeat' (first
      | with_reducible assumption
      | with_reducible apply st_memopAckArrives hP
      | with_reducible apply st_resumeReady hP)

theorem st_execAbsentLoadDone (hP : Stable P) {ctx : Nat} {va : Nat} {ok : Bool} {data : List Byte} {s : State} {t : State} (h_s : P s) (e : execAbsentLoadDone ctx va ok data s = .next t) : P t := by
  unfold execAbsentLoadDone at e
  first
    | refine st_whileOn e ?_ ?_
  all_goals repeat' (first
      | with_reducible assumption
      | with_reducible apply st_absentLoadDone hP
      | with_reducible apply st_answered hP)

theorem st_execKeepaliveMiss (hP : Stable P) {dev : Nat} {s : State} {t : State} (h_s : P s) (e : execKeepaliveMiss dev s = .next t) : P t := by
  unfold execKeepaliveMiss at e
  first
    | refine st_whileOn e ?_ ?_
  all_goals repeat' (first
      | with_reducible assumption
      | with_reducible apply st_keepaliveMiss hP
      | with_reducible apply st_resumeReady hP)

theorem st_execE2eTimeout (hP : Stable P) {tag : Nat} {s : State} {t : State} (h_s : P s) (e : execE2eTimeout tag s = .next t) : P t := by
  unfold execE2eTimeout at e
  first
    | refine st_whileOn e ?_ ?_
  all_goals repeat' (first
      | with_reducible assumption
      | with_reducible apply st_e2eTimeout hP
      | with_reducible apply st_resumeReady hP)

theorem st_execGrdata (hP : Stable P) {h : Hdr} {tag : Nat} {status : Nat} {fault : Nat} {data : List Byte} {s : State} {t : State} (h_s : P s) (e : execGrdata h tag status fault data s = .next t) : P t := by
  unfold execGrdata at e
  first
    | refine st_whileOn e ?_ ?_
    | refine st_whileServed e ?_ ?_
    | refine st_whileDoorbell e ?_ ?_
    | (cases e)
  all_goals repeat' (first
      | with_reducible assumption
      | with_reducible apply st_grdataArrives hP
      | with_reducible apply st_resumeReady hP)

theorem st_execChordRetrainTimeout (hP : Stable P) {n : Nat} {s : State} {t : State} (h_s : P s) (e : execChordRetrainTimeout n s = .next t) : P t := by
  unfold execChordRetrainTimeout at e
  first
    | refine st_whileOn e ?_ ?_
  all_goals repeat' (first
      | with_reducible assumption
      | with_reducible apply st_resumeReady hP
      | with_reducible apply st_retrainTimeout hP)

theorem st_execHostCplTimeout (hP : Stable P) {tag : Nat} {s : State} {t : State} (h_s : P s) (e : execHostCplTimeout tag s = .next t) : P t := by
  unfold execHostCplTimeout at e
  first
    | refine st_whileOn e ?_ ?_
  all_goals repeat' (first
      | with_reducible assumption
      | with_reducible apply st_hostCplTimeout hP)

theorem st_execGwAck (hP : Stable P) {h : Hdr} {tag : Nat} {status : Nat} {fault : Nat} {s : State} {t : State} (h_s : P s) (e : execGwAck h tag status fault s = .next t) : P t := by
  unfold execGwAck at e
  first
    | refine st_whileOn e ?_ ?_
    | refine st_whileServed e ?_ ?_
    | refine st_whileDoorbell e ?_ ?_
    | (cases e)
  all_goals repeat' (first
      | with_reducible assumption
      | with_reducible apply st_gwAckArrives hP
      | with_reducible apply st_resumeReady hP)

theorem st_execDepart (hP : Stable P) {h : Hdr} {reason : Nat} {s : State} {t : State} (h_s : P s) (e : execDepart h reason s = .next t) : P t := by
  unfold execDepart at e
  first
    | refine st_whileOn e ?_ ?_
    | refine st_whileServed e ?_ ?_
    | refine st_whileDoorbell e ?_ ?_
    | (cases e)
  all_goals repeat' (first
      | with_reducible assumption
      | with_reducible apply st_deliver hP
      | with_reducible apply st_departArrives hP
      | with_reducible apply st_resumeReady hP
      | split
      | (with_reducible intro _))

theorem st_execDeputyTakeover (hP : Stable P) {s : State} {t : State} (h_s : P s) (e : execDeputyTakeover s = .next t) : P t := by
  unfold execDeputyTakeover at e
  first
    | refine st_whileOn e ?_ ?_
  all_goals repeat' (first
      | with_reducible assumption
      | with_reducible apply st_deputyTakeover hP
      | with_reducible apply st_resumeReady hP)

theorem st_execPriTimeout (hP : Stable P) {index : Nat} {s : State} {t : State} (h_s : P s) (e : execPriTimeout index s = .next t) : P t := by
  unfold execPriTimeout at e
  first
    | refine st_whileOn e ?_ ?_
  all_goals repeat' (first
      | with_reducible assumption
      | with_reducible apply st_answered hP
      | with_reducible apply st_priTimeout hP)

theorem st_execSerdesPllUnlock (hP : Stable P) {q : Nat} {s : State} {t : State} (h_s : P s) (e : execSerdesPllUnlock q s = .next t) : P t := by
  unfold execSerdesPllUnlock at e
  first
    | refine st_whileOn e ?_ ?_
  all_goals repeat' (first
      | with_reducible assumption
      | with_reducible apply st_serdesUnlock hP)

theorem st_execDeviceDown (hP : Stable P) {h : Hdr} {dev : Nat} {s : State} {t : State} (h_s : P s) (e : execDeviceDown h dev s = .next t) : P t := by
  unfold execDeviceDown at e
  first
    | refine st_whileOn e ?_ ?_
    | refine st_whileServed e ?_ ?_
    | refine st_whileDoorbell e ?_ ?_
    | (cases e)
  all_goals repeat' (first
      | with_reducible assumption
      | with_reducible apply st_deliver hP
      | with_reducible apply st_deviceDown hP
      | with_reducible apply st_resumeReady hP
      | split
      | (with_reducible intro _))

theorem st_execSetBiasDone (hP : Stable P) {c : Cmd} {ok : Bool} {s : State} {t : State} (h_s : P s) (e : execSetBiasDone c ok s = .next t) : P t := by
  unfold execSetBiasDone at e
  first
    | refine st_whileOn e ?_ ?_
  all_goals repeat' (first
      | with_reducible assumption
      | with_reducible apply st_answered hP
      | with_reducible apply st_setBiasDone hP)

theorem st_execAtsCompletion (hP : Stable P) {pasid : Nat} {page : Nat} {size : Nat} {target : Nat} {read : Bool} {write : Bool} {s : State} {t : State} (h_s : P s) (e : execAtsCompletion pasid page size target read write s = .next t) : P t := by
  unfold execAtsCompletion at e
  first
    | refine st_whileOn e ?_ ?_
  all_goals repeat' (first
      | with_reducible assumption
      | with_reducible apply st_answered hP
      | with_reducible apply st_atsCompletion hP)

theorem st_execHostFault (hP : Stable P) {pasid : Nat} {page : Nat} {write : Bool} {s : State} {t : State} (h_s : P s) (e : execHostFault pasid page write s = .next t) : P t := by
  unfold execHostFault at e
  first
    | refine st_whileOn e ?_ ?_
  all_goals repeat' (first
      | with_reducible assumption
      | with_reducible apply st_answered hP
      | with_reducible apply st_hostFault hP)

theorem st_execHostReadCompletion (hP : Stable P) {tag : Nat} {status : Nat} {data : List Byte} {s : State} {t : State} (h_s : P s) (e : execHostReadCompletion tag status data s = .next t) : P t := by
  unfold execHostReadCompletion at e
  first
    | refine st_whileOn e ?_ ?_
  all_goals repeat' (first
      | with_reducible assumption
      | with_reducible apply st_hostReadCompletion hP)

end Sys2Proof.Machine
end

