-- ==== Sys2Proof/Laws/StableTick.lean ====
section
/-!
SUPPORT. The operations of Machine/Tick keep every stable predicate.
-/

set_option linter.unusedVariables false

namespace Sys2Proof.Machine

variable {P : State → Prop}

theorem st_idleFlits (hP : Stable P) {s : State} (h_s : P s) : P (idleFlits s) := by
  unfold idleFlits
  repeat' (first
      | with_reducible assumption
      | with_reducible apply hP.fab)

theorem st_clockTick (hP : Stable P) {s : State} (h_s : P s) : P (clockTick s) := by
  unfold clockTick
  repeat' (first
      | with_reducible assumption
      | with_reducible apply hP.fab)

theorem st_nCycle (hP : Stable P) {s : State} (h_s : P s) : P (nCycle s) := by
  unfold nCycle
  repeat' (first
      | with_reducible assumption
      | with_reducible apply st_clockTick hP
      | with_reducible apply st_idleFlits hP
      | with_reducible apply st_traceStore hP
      | split)

end Sys2Proof.Machine
end

