-- ==== Sys2Proof/Laws/Steps.lean ====
section
/-!
SUPPORT. What the operations that many commands share can do, for proofs that cite it: a core row whose instruction is at the program
counter, a message that is served, what reads and writes of memory leave alone, and a probe's check.
-/

namespace Sys2Proof.Machine

/-! ### Core rows and messages -/

/-- A core row whose instruction the core executes acts by its function on the Grove. -/
theorem executes_row {s : State} {k w op : Nat} {f : CoreFn} (h : executes s k w = true) (ho : fOp w = op) :
    whileOn (coreRow op k f) s = .next (f k (groveOf s k) w s) := by
  simp only [executes, Bool.and_eq_true, beq_iff_eq, Bool.not_eq_true'] at h
  obtain ⟨⟨⟨⟨⟨h1, h2⟩, h3⟩, h4⟩, h5⟩, h6⟩ := h
  simp [whileOn, coreRow, coreFetch, h1, h2, h3, h4, h5, h6, ho]
/-! ### Memory accesses: what they leave alone -/

/-- Two states that differ at most in memory, registers and what the Xylem units hold. -/
def FrmMRX (s u : State) : Prop := u = { s with mem := u.mem, regs := u.regs, xyl := u.xyl }
theorem FrmMRX.step {s u v : State} (h : FrmMRX s u) (hv : FrmMRX u v) : FrmMRX s v := by
  unfold FrmMRX at *; rw [hv, h]
theorem FrmMRX.refl (s : State) : FrmMRX s s := rfl
theorem FrmMRX.foldl {α : Type} {f : State → α → State} (hf : ∀ u a, FrmMRX u (f u a)) : ∀ (l : List α) {s u : State}, FrmMRX s u → FrmMRX s (l.foldl f u)
  | [], _, _, h => h
  | a :: l, _, _, h => FrmMRX.foldl hf l (h.step (hf _ a))
theorem FrmMRX.countN (o n : Nat) (s : State) : FrmMRX s (countN o n s) := by rw [countN_frame]; rfl
theorem FrmMRX.regPut (o v) (s : State) : FrmMRX s (regPut o v s) := rfl
theorem FrmMRX.evt (u code key n : Nat) (c) (s : State) : FrmMRX s (evt u code key n c s) := by
  unfold Machine.evt; split
  · rfl
  · refine FrmMRX.foldl (fun u a => ?_) _ (FrmMRX.refl s); split
    · exact FrmMRX.countN _ _ _
    · rfl
theorem FrmMRX.repairTrigger (r) (s : State) : FrmMRX s (repairTrigger r s) := by
  unfold Machine.repairTrigger; split
  · rfl
  · split
    · unfold Machine.repairLog; dsimp only; split
      · exact FrmMRX.step (u := s.setXyl _) (by exact rfl) (FrmMRX.regPut _ _ _)
      · exact FrmMRX.step (u := s.setXyl _) (by exact rfl) (FrmMRX.step (FrmMRX.regPut _ _ _) (FrmMRX.regPut _ _ _))
    · split <;> exact rfl
theorem FrmMRX.noteErrors (a b) (s : State) : FrmMRX s (noteErrors a b s) := by
  unfold Machine.noteErrors
  refine FrmMRX.foldl (fun u a => ?_) _ (FrmMRX.foldl (fun u a => ?_) _ (FrmMRX.refl s))
  · split
    · exact FrmMRX.repairTrigger _ _
    · rfl
  · split
    · unfold Machine.noteCorrected; dsimp only; split
      · exact FrmMRX.step (by exact rfl) (FrmMRX.repairTrigger _ _)
      · rfl
    · rfl
theorem FrmMRX.partCheck (k) (s : State) : FrmMRX s (partCheck k s) := by
  unfold Machine.partCheck; split
  · rfl
  · dsimp only; split <;> exact (FrmMRX.step (FrmMRX.step (by exact rfl) (FrmMRX.countN _ _ _)) (FrmMRX.noteErrors _ _ _))
theorem FrmMRX.localWrite (a l) (s : State) : FrmMRX s (localWrite a l s) := by
  unfold Machine.localWrite; dsimp only
  refine FrmMRX.step (FrmMRX.foldl (fun u a => ?_) _ (FrmMRX.foldl (fun u a => FrmMRX.partCheck a u) _ (FrmMRX.refl s))) rfl
  split
  · exact FrmMRX.evt _ _ _ _ _ _
  · rfl
theorem noteErrors_bytes (a b) (s : State) : (noteErrors a b s).mem = s.mem := by
  have st : ∀ (r) (s : State), (repairTrigger r s).mem = s.mem := by
    have rp : ∀ o v (s : State), (regPut o v s).mem = s.mem := fun _ _ _ => rfl
    intro r s; unfold repairTrigger; split
    · rfl
    · split
      · unfold repairLog regField regOr; dsimp only; split <;> simp only [rp] <;> rfl
      · split <;> rfl
  have nc : ∀ k (s : State), (noteCorrected k s).mem = s.mem := by
    intro k s; unfold noteCorrected; dsimp only; split
    · rw [st]; rfl
    · rfl
  have fl : ∀ (f : State → Nat → State) (hf : ∀ u a, (f u a).mem = u.mem) (l : List Nat) (u : State), (l.foldl f u).mem = u.mem := by
    intro f hf l; induction l with
    | nil => intro u; rfl
    | cons a l ih => intro u; rw [List.foldl_cons, ih, hf]
  unfold noteErrors
  rw [fl, fl]
  · intro u a; split
    · exact nc _ _
    · rfl
  · intro u a; split
    · exact st _ _
    · rfl
theorem partCheck_bytes (k) (s : State) : (partCheck k s).mem.bytes = s.mem.bytes := by
  unfold partCheck; split
  · rfl
  · dsimp only; split <;> rw [noteErrors_bytes] <;> unfold count <;> rw [countN_frame] <;> rfl
/-- A write puts its bytes at its address and nowhere else. -/
theorem localWrite_bytes (a l) (s : State) : (localWrite a l s).mem.bytes = msetMany 0 s.mem.bytes a l := by
  have fl : ∀ (f : State → Nat → State) (hf : ∀ u a, (f u a).mem.bytes = u.mem.bytes) (l : List Nat) (u : State), (l.foldl f u).mem.bytes = u.mem.bytes := by
    intro f hf l; induction l with
    | nil => intro u; rfl
    | cons a l ih => intro u; rw [List.foldl_cons, ih, hf]
  have ev : ∀ u c key n x (s : State), (evt u c key n x s).mem.bytes = s.mem.bytes := by
    intro u c key n x s
    unfold evt; split
    · rfl
    · apply fl; intro u a; split
      · rw [countN_frame]; rfl
      · rfl
  unfold localWrite; dsimp only
  show msetMany 0 _ _ _ = _
  rw [fl, fl]
  · intro u a; exact partCheck_bytes _ _
  · intro u a; split
    · exact ev _ _ _ _ _ _
    · rfl
theorem markChunks_bytes (k o n) (s : State) : (markChunks k o n s).mem = s.mem := by
  unfold markChunks; split <;> rfl
/-- A read changes no byte. -/
theorem localRead_bytes (o n) (s : State) : (localRead o n s).2.mem.bytes = s.mem.bytes := by
  have fl : ∀ {α : Type} (f : State → α → State) (hf : ∀ u a, (f u a).mem.bytes = u.mem.bytes) (l : List α) (u : State), (l.foldl f u).mem.bytes = u.mem.bytes := by
    intro α f hf l; induction l with
    | nil => intro u; rfl
    | cons a l ih => intro u; rw [List.foldl_cons, ih, hf]
  have cn : ∀ o n (s : State), (countN o n s).mem = s.mem := by intro o n s; rw [countN_frame]; rfl
  have ev : ∀ u c key n x (s : State), (evt u c key n x s).mem.bytes = s.mem.bytes := by
    intro u c key n x s
    unfold evt; split
    · rfl
    · apply fl; intro u a; split
      · rw [cn]
      · rfl
  have cf : ∀ o (s : State), (canFill o s).mem.bytes = s.mem.bytes := by
    intro o s; unfold canFill; dsimp only
    split
    · rfl
    · split
      · rfl
      · split <;> rfl
  have c1 : ∀ (s : State) k, (canRead1 k s).mem.bytes = s.mem.bytes := by
    intro s k; unfold canRead1; dsimp only
    split
    · rfl
    · split
      · exact ev _ _ _ _ _ _
      · rw [cf, ev, ev]
  unfold localRead meetErrors; dsimp only
  rw [cn, cn, cn]
  have h0 : ∀ s' : State, (List.foldl (fun s k => canRead1 k s) s (sectorsOf o n)).mem.bytes = s.mem.bytes := fun _ => fl _ (fun u a => c1 u a) _ _
  split
  · exact h0 s
  · rw [noteErrors_bytes]; exact h0 s
/-- A message that the part accepts is served by its row. -/
theorem deliver_accepts {h : Hdr} {b : Body} {s : State} (f : State → State) (ha : accepts h b s = true) : deliver h b f s = served h b f s := by
  simp only [accepts, isOn, Bool.and_eq_true, Bool.or_eq_true, Bool.not_eq_true', bne_iff_ne, beq_iff_eq, ne_eq] at ha
  obtain ⟨⟨h1, h2⟩, h3⟩ := ha
  unfold deliver served takenIn
  rw [if_neg (by simp [h1, Option.isNone_iff_eq_none.mp h2])]
  by_cases ho : s.fab.devId = some h.src
  · simp [ho]
  · simp only [beq_iff_eq, ho, if_false]
    obtain ⟨⟨h4, h5⟩, h6⟩ := h3.resolve_left ho
    rw [if_neg (by rcases h4 with h|h <;> simp [h])]
    by_cases hc : b.info.2.1 = 0
    · have := h5.resolve_left (by simp [hc]); simp only [hc, this, h6, if_true, Bool.false_eq_true, if_false]
    · simp [hc, h6]

/-! ### Probes -/

/-- A probe run by what its residue check gives. -/
theorem probeChecked_of {k n : Nat} {er : List (Nat × Nat)} {t t' : Tile} {s v : State} (h : tileCheck k t s = (t', v)) :
    probeChecked k n er t s = if !t'.checked then t'.retry.foldl (fun s P => latStrike k P s) v
      else probeEnded k n ((List.range 16).map fun L => ((er.find? fun e => e.1 == L).map (·.2)).getD (probeSig t L)) (count Reg.INT_CNT_PROBE_RUN v) := by
  unfold probeChecked; rw [h]
/-- The end of a probe run is the check of its tile. -/
theorem probeRunEnd_of {k : Nat} {er : List (Nat × Nat)} {r : ProbeRun} {s : State} (h : (s.prb.runs.find? fun r => r.grove == k) = some r) :
    probeRunEnd k er s = probeChecked k r.n er (probeRun (regGet s Reg.PRB_SEED) r.n) (s.setPrb { s.prb with runs := s.prb.runs.filter fun x => x.grove != k }) := by
  unfold probeRunEnd; rw [h]; generalize probeRun = pr; rfl

end Sys2Proof.Machine
end

