-- ==== Sys2Proof/WellFormed.lean ====
section
/-!
DEFINITION. Which commands are well formed: each operand lies within the field or the number of units that the spec gives it.
The machine gives every command a meaning, well formed or not.
-/

namespace Sys2Proof

/-- A number fits a field of `w` bits. -/
def fits (w x : Nat) : Bool := decide (x < 2 ^ w)
/-- A unit number lies below the count of units. -/
def below (n x : Nat) : Bool := decide (x < n)
/-- An access size that a bus carries (R5). -/
def accessSize (n : Nat) : Bool := n == 1 || n == 2 || n == 4 || n == 8
/-- A width code of one bit (R453). -/
def oneBit (n : Nat) : Bool := decide (n < 2)
/-- Bytes of an exact count. -/
def lenIs (n : Nat) (l : List Byte) : Bool := l.length == n
/-- Bytes of a count up to a limit. -/
def lenUpTo (n : Nat) (l : List Byte) : Bool := decide (l.length ≤ n)

/-- R382, R369: where a command can come from. -/
def Src.wf : Src → Bool
  | .ring q => below 6 q
  | .node _ n => below 4096 n
  | .mgr dev => fits 16 dev

/-- R373, R374: a command's header fields, parameters and inline data. -/
def Cmd.wf (c : Cmd) : Bool :=
  Src.wf c.src && fits 14 c.ctx && fits 32 c.seq && fits 8 c.opcode && below 4 c.chainCond && fits 64 c.chain && decide (c.params.length ≤ 16) &&
  lenUpTo 4096 c.data

/-- R445, R446, R447: a network header. -/
def Hdr.wf (h : Hdr) : Bool := fits 16 h.src && below 16 h.plane && fits 16 h.cseq && fits 3 h.crVc && fits 8 h.crFlits

/-- R125: the table prefix and the row. -/
def RowRef.wf (r : RowRef) : Bool := fits 16 r.table && fits 16 r.epoch && fits 40 r.row

/-- R97: a segment block. -/
def SegBlock.wf (b : SegBlock) : Bool :=
  fits 16 b.table && fits 16 b.epoch && fits 2 b.poolOp && fits 4 b.outFmt && fits 2 b.outKind && fits 7 b.outShift && b.indices.all (fits 40)

/-- R97: a batch. -/
def BatchMsg.wf (m : BatchMsg) : Bool := fits 16 m.requester && fits 32 m.id && fits 64 m.deadline && m.segs.all SegBlock.wf

/-- R98: a fragment. -/
def FragMsg.wf (m : FragMsg) : Bool := fits 32 m.batch && fits 16 m.firstPart && fits 16 m.responder && fits 8 m.faultCode

/-- R451: a batch of updates. -/
def UpdMsg.wf (m : UpdMsg) : Bool := fits 16 m.table && fits 16 m.epoch && fits 32 m.id && fits 4 m.op && fits 4 m.dfmt && m.rows.all (fits 40)

/-- R451: its acknowledgement. -/
def UpdAckMsg.wf (m : UpdAckMsg) : Bool := fits 16 m.table && fits 16 m.epoch && fits 32 m.id && fits 8 m.status && fits 8 m.fault

/-- R451: HELLO. -/
def HelloMsg.wf (m : HelloMsg) : Bool := fits 64 m.uid && below 16 m.chord && fits 16 m.dev && fits 32 m.term && fits 64 m.mgrUid

/-- R451: CLAIM. -/
def ClaimMsg.wf (m : ClaimMsg) : Bool := fits 32 m.term && fits 16 m.members && fits 64 m.mgrUid && fits 16 m.mgrId && fits 16 m.depId

/-- R452: a remote memory-side operation; its operand has 8, 16 or 64 bytes. -/
def MemopMsg.wf (m : MemopMsg) : Bool :=
  fits 46 m.offset && fits 8 m.code && (m.operand.length == 8 || m.operand.length == 16 || m.operand.length == 64)

/-- R387: a completion record. -/
def Record.wf (r : Record) : Bool :=
  fits 32 r.seq && fits 14 r.ctx && fits 8 r.status && fits 8 r.fault && fits 64 r.ftime && fits 64 r.result && below 8 r.cls && fits 8 r.opcode

/-- Whether a command is well formed. -/
def wellFormed : Instr → Bool
  | .hostRegisterWrite off size value => fits 26 off && accessSize size && fits 64 value
  | .badBarAccess _ off _ => fits 26 off
  | .lookup c => Cmd.wf c
  | .lookupRingStart c => Cmd.wf c
  | .batchFreeWindowExpire id => fits 32 id
  | .batch h m => Hdr.wf h && BatchMsg.wf m
  | .ownerFragmentReady requester id count => fits 16 requester && fits 32 id && fits 32 count
  | .ownerBatchDeadline requester id => fits 16 requester && fits 32 id
  | .fragment h m => Hdr.wf h && FragMsg.wf m
  | .epochGone h id responder => Hdr.wf h && fits 32 id && fits 16 responder
  | .cancel h id => Hdr.wf h && fits 32 id
  | .hedgeDelayExpire id => fits 32 id
  | .lookupDeadline c => Cmd.wf c
  | .lookupOutputWritten c => Cmd.wf c
  | .loadTable c => Cmd.wf c
  | .publishTable c => Cmd.wf c
  | .prepare h table epoch time desc => Hdr.wf h && fits 16 table && fits 16 epoch && fits 64 time && lenIs 64 desc
  | .ready h table epoch => Hdr.wf h && fits 16 table && fits 16 epoch
  | .refuse h table epoch reason => Hdr.wf h && fits 16 table && fits 16 epoch && fits 8 reason
  | .publishReplyDeadline table => fits 16 table
  | .commit h table epoch time => Hdr.wf h && fits 16 table && fits 16 epoch && fits 64 time
  | .commitTimeReached table => fits 16 table
  | .abort h table epoch => Hdr.wf h && fits 16 table && fits 16 epoch
  | .memberDrainDone table epoch => fits 16 table && fits 16 epoch
  | .drained h table epoch _ => Hdr.wf h && fits 16 table && fits 16 epoch
  | .drop h table epoch => Hdr.wf h && fits 16 table && fits 16 epoch
  | .ownerEpochWorkEnd table epoch => fits 16 table && fits 16 epoch
  | .retireTable c => Cmd.wf c
  | .retireAfterPublish c => Cmd.wf c
  | .retire h table time => Hdr.wf h && fits 16 table && fits 64 time
  | .retireTimeReached table => fits 16 table
  | .updateRows c => Cmd.wf c
  | .updBatch h m => Hdr.wf h && UpdMsg.wf m
  | .updAck h m => Hdr.wf h && UpdAckMsg.wf m
  | .invalidate h r => Hdr.wf h && RowRef.wf r
  | .invAck h r => Hdr.wf h && RowRef.wf r
  | .sketchDecay => true
  | .graftRow c => Cmd.wf c
  | .repAdd h r holder => Hdr.wf h && RowRef.wf r && fits 16 holder
  | .repDrop h r holder => Hdr.wf h && RowRef.wf r && fits 16 holder
  | .repGrant h r => Hdr.wf h && RowRef.wf r
  | .repRevoke h r => Hdr.wf h && RowRef.wf r
  | .repAck h r => Hdr.wf h && RowRef.wf r
  | .repDone h r holder => Hdr.wf h && RowRef.wf r && fits 16 holder
  | .repFill h r => Hdr.wf h && RowRef.wf r
  | .fillData h r slot => Hdr.wf h && RowRef.wf r && lenUpTo 2048 slot
  | .migBegin h r newOwner oldOwner replica => Hdr.wf h && RowRef.wf r && fits 16 newOwner && fits 16 oldOwner && fits 16 replica
  | .migData h r slot => Hdr.wf h && RowRef.wf r && lenUpTo 2048 slot
  | .migReady h r => Hdr.wf h && RowRef.wf r
  | .migFwd h r => Hdr.wf h && RowRef.wf r
  | .migFwdAck h r => Hdr.wf h && RowRef.wf r
  | .migCopied h r => Hdr.wf h && RowRef.wf r
  | .overlaySet h r newOwner => Hdr.wf h && RowRef.wf r && fits 16 newOwner
  | .overlayAck h r => Hdr.wf h && RowRef.wf r
  | .migEnd h r newOwner oldOwner replica => Hdr.wf h && RowRef.wf r && fits 16 newOwner && fits 16 oldOwner && fits 16 replica
  | .rowFetch h r tag => Hdr.wf h && RowRef.wf r && fits 32 tag
  | .rowData h r tag slot => Hdr.wf h && RowRef.wf r && fits 32 tag && lenUpTo 2048 slot
  | .migrationAbandon r => RowRef.wf r
  | .groupScrubDone => true
  | .canWayModeWrite value => fits 64 value
  | .xylemMemopApply _ => true
  | .redStagingReserve channel => below 256 channel
  | .redGroupTimeout part group sector => fits 6 part && fits 16 group && fits 40 sector
  | .patrolScrub sector err => fits 40 sector && below 4 err
  | .maintRequest value => fits 64 value
  | .maintGrant => true
  | .maintRelease value => fits 64 value
  | .pprGo value => fits 64 value
  | .pprDone status => fits 8 status
  | .mem1500InstrWrite value => fits 64 value
  | .mem1500DataWrite value => fits 64 value
  | .mem1500DataRead => true
  | .taprootRepairDone _ => true
  | .tileStep k => below 128 k
  | .tileWriteback k => below 128 k
  | .tileRetry k lattice => below 128 k && below 16 lattice
  | .strikeClear k lattice => below 128 k && below 16 lattice
  | .latInjectArm k value => below 128 k && fits 64 value
  | .chainStart k => below 128 k
  | .chainComplete k => below 128 k
  | .alu k => below 128 k
  | .addi k => below 128 k
  | .andi k => below 128 k
  | .ori k => below 128 k
  | .xori k => below 128 k
  | .shi k => below 128 k
  | .lui k => below 128 k
  | .slti k => below 128 k
  | .ld k => below 128 k
  | .lw k => below 128 k
  | .sd k => below 128 k
  | .sw k => below 128 k
  | .amo k => below 128 k
  | .beq k => below 128 k
  | .bne k => below 128 k
  | .blt k => below 128 k
  | .bge k => below 128 k
  | .bltu k => below 128 k
  | .bgeu k => below 128 k
  | .jal k => below 128 k
  | .jalr k => below 128 k
  | .bsum k => below 128 k
  | .mvs k => below 128 k
  | .csrr k => below 128 k
  | .csrw k => below 128 k
  | .ltile k => below 128 k
  | .vchain k => below 128 k
  | .hstart k => below 128 k
  | .gdma k => below 128 k
  | .wait k => below 128 k
  | .toks k => below 128 k
  | .bar k => below 128 k
  | .barrierTimeout ctx => fits 14 ctx
  | .coreFence k => below 128 k
  | .work k => below 128 k
  | .tag k => below 128 k
  | .tagCopyDone k => below 128 k
  | .endProg k => below 128 k
  | .coreResume k => below 128 k
  | .coreWatchdog k => below 128 k
  | .loop k ch => below 128 k && below 8 ch
  | .endl k ch => below 128 k && below 8 ch
  | .stride k ch => below 128 k && below 8 ch
  | .lda k ch => below 128 k && below 8 ch
  | .adda k ch => below 128 k && below 8 ch
  | .read k ch => below 128 k && below 8 ch
  | .read2 k ch => below 128 k && below 8 ch
  | .gather k ch => below 128 k && below 8 ch
  | .zero k ch => below 128 k && below 8 ch
  | .take k ch => below 128 k && below 8 ch
  | .barw k ch => below 128 k && below 8 ch
  | .hend k ch => below 128 k && below 8 ch
  | .helixRequestArrive k ch _ => below 128 k && below 8 ch
  | .helixProgramEnd k ch => below 128 k && below 8 ch
  | .extProducerWrite ctx ring _ => fits 14 ctx && fits 16 ring
  | .helixFaultHalt k ch => below 128 k && below 8 ch
  | .spanWrite value => fits 64 value
  | .spanRead value => fits 64 value
  | .spanWriteDone => true
  | .atsCompletion pasid page _ target _ _ => fits 20 pasid && fits 52 page && fits 64 target
  | .atsInvalidate tag pasid addr _ _ => fits 32 tag && fits 20 pasid && fits 64 addr
  | .atsInvalidateComplete tag => fits 32 tag
  | .hostFault pasid page _ => fits 20 pasid && fits 52 page
  | .priGroupWindow pasid => fits 20 pasid
  | .prgResponse index code => fits 9 index && fits 8 code
  | .priTimeout index => fits 9 index
  | .absentSpanFault ctx va => fits 14 ctx && fits 57 va
  | .absentLoadDone ctx va _ _ => fits 14 ctx && fits 57 va
  | .setBias c => Cmd.wf c
  | .setBiasDone c _ => Cmd.wf c
  | .dmaSubmit c => Cmd.wf c
  | .dmaStop c => Cmd.wf c
  | .dmaChTailWrite n value => below 64 n && fits 64 value
  | .bulkDescStart n => below 64 n
  | .bulkDescComplete n => below 64 n
  | .groveDescStart k => below 128 k
  | .groveDescComplete k => below 128 k
  | .gdmaDisable k => below 128 k
  | .gdmaEnable k => below 128 k
  | .dbTail ctx q value => fits 14 ctx && below 6 q && fits 64 value
  | .dbCplHead ctx value => fits 14 ctx && fits 64 value
  | .packetFetch ctx q => fits 14 ctx && below 6 q
  | .ringFetchFault ctx q _ fault _ => fits 14 ctx && below 6 q && fits 8 fault
  | .nop c => Cmd.wf c
  | .fence c => Cmd.wf c
  | .writeInline c => Cmd.wf c
  | .waitValue c => Cmd.wf c
  | .waitValuePoll c => Cmd.wf c
  | .waitValueTimeout c => Cmd.wf c
  | .completionRecordWrite ctx => fits 14 ctx
  | .irqHoldoffExpire ctx => fits 14 ctx
  | .launch c => Cmd.wf c
  | .launchGraph c => Cmd.wf c
  | .graphNodeStart _ _ => true
  | .storeGraph c => Cmd.wf c
  | .patchGraph c => Cmd.wf c
  | .retireGraph c => Cmd.wf c
  | .uclPop value => fits 64 value
  | .cmd h payload => Hdr.wf h && lenUpTo 4272 payload
  | .cmdCpl h r => Hdr.wf h && Record.wf r
  | .adminCreate pasid => fits 20 pasid
  | .adminDestroy pasid => fits 20 pasid
  | .ctxPartition c _ => Cmd.wf c
  | .ctxCreate c _ => Cmd.wf c
  | .ctxDestroy c _ => Cmd.wf c
  | .contextTeardownEnd ctx => fits 14 ctx
  | .ctxPin c _ => Cmd.wf c
  | .nodeStart ctx => fits 14 ctx
  | .sliceExpire waiter runner => fits 14 waiter && fits 14 runner
  | .softEscalate ctx grove => fits 14 ctx && below 128 grove
  | .preemptStopped ctx => fits 14 ctx
  | .groveSaveDone grove => below 128 grove
  | .nodeRestore ctx => fits 14 ctx
  | .swapIn ctx => fits 14 ctx
  | .evictionDone ctx => fits 14 ctx
  | .swapInDone ctx => fits 14 ctx
  | .chordTrainDone n _ => below 16 n
  | .flit n bytes => below 16 n && lenIs 256 bytes
  | .chordRetrainTimeout n => below 16 n
  | .helloTimer n => below 16 n
  | .hello n m => below 16 n && HelloMsg.wf m
  | .announceTimer => true
  | .announce uid _ _ _ dev term => fits 64 uid && fits 16 dev && fits 32 term
  | .electionWindow => true
  | .claim h m => Hdr.wf h && ClaimMsg.wf m
  | .assign h uid dev _ term members => Hdr.wf h && fits 64 uid && fits 16 dev && fits 32 term && fits 16 members
  | .joined h uid dev _ => Hdr.wf h && fits 64 uid && fits 16 dev
  | .routeSet h _ => Hdr.wf h
  | .keepaliveTimer => true
  | .keepalive h time => Hdr.wf h && fits 64 time
  | .keepaliveMiss dev => fits 16 dev
  | .depart h reason => Hdr.wf h && fits 8 reason
  | .deviceDown h dev => Hdr.wf h && fits 16 dev
  | .chordEnable h mask => Hdr.wf h && fits 16 mask
  | .chordDisable h mask => Hdr.wf h && fits 16 mask
  | .chordDrainEnd n => below 16 n
  | .mgrState h _ copy => Hdr.wf h && fits 32 copy
  | .mgrStateAck h kind copy => Hdr.wf h && fits 8 kind && fits 32 copy
  | .deputyTakeover => true
  | .freshElection => true
  | .credit h => Hdr.wf h
  | .e2eTimeout tag => fits 32 tag
  | .regWrite h off width tag value => Hdr.wf h && fits 26 off && oneBit width && fits 32 tag && fits 64 value
  | .regRead h off width tag => Hdr.wf h && fits 26 off && oneBit width && fits 32 tag
  | .regRsp h tag status fault value => Hdr.wf h && fits 32 tag && fits 8 status && fits 8 fault && fits 64 value
  | .beaconTimer => true
  | .beacon h origin _ term stamp => Hdr.wf h && fits 64 origin && fits 32 term && fits 64 stamp
  | .timeDiscipline => true
  | .delayTimer n => below 16 n
  | .delayReq n t1 t2 t3 => below 16 n && fits 64 t1 && fits 64 t2 && fits 64 t3
  | .delayRsp n t1 t2 t3 t4 => below 16 n && fits 64 t1 && fits 64 t2 && fits 64 t3 && fits 64 t4
  | .gread h offset bytes tag => Hdr.wf h && fits 46 offset && fits 16 bytes && fits 32 tag
  | .grdata h tag status fault data => Hdr.wf h && fits 32 tag && fits 8 status && fits 8 fault && lenUpTo 4096 data
  | .gwrite h offset tag data => Hdr.wf h && fits 46 offset && fits 32 tag && lenUpTo 4096 data
  | .gwAck h tag status fault => Hdr.wf h && fits 32 tag && fits 8 status && fits 8 fault
  | .memop h m => Hdr.wf h && MemopMsg.wf m
  | .memopAck h tag status fault old => Hdr.wf h && fits 32 tag && fits 8 status && fits 8 fault && fits 64 old
  | .syncStart c => Cmd.wf c
  | .syncStartTime c => Cmd.wf c
  | .syncTrigger h time id => Hdr.wf h && fits 64 time && fits 32 id
  | .fabricStatus c => Cmd.wf c
  | .switchIn c => Cmd.wf c
  | .restoreBegin h dev => Hdr.wf h && fits 16 dev
  | .restoreAck h dev => Hdr.wf h && fits 16 dev
  | .restoreRec h _ => Hdr.wf h
  | .restoreDone h failed first => Hdr.wf h && fits 32 failed && fits 32 first
  | .restoreEnd h dev => Hdr.wf h && fits 16 dev
  | .image h payload => Hdr.wf h && lenUpTo 4096 payload
  | .pcieConfigWrite off size value => fits 12 off && accessSize size && fits 64 value
  | .inboundUnsupported _ => true
  | .cxlSnoop addr => fits 64 addr
  | .msixUnmask v => below 2048 v
  | .linkRetrain _ speed width => fits 4 speed && fits 5 width
  | .hostReadCompletion tag status data => fits 32 tag && fits 8 status && lenUpTo 4096 data
  | .hostCplTimeout tag => fits 32 tag
  | .linkDown => true
  | .perstNAssert => true
  | .hotReset => true
  | .flr => true
  | .perstNDeassert _ _ smbAddr => fits 7 smbAddr
  | .hlCrashCtlWrite value => fits 64 value
  | .d3hotEntry => true
  | .d0Entry => true
  | .digestRegion c => Cmd.wf c
  | .probeStart k => below 128 k
  | .probeRunEnd k _ => below 128 k
  | .probeExpire _ => true
  | .evtSelWrite _ ai value => below 8 ai && fits 64 value
  | .counterFreeze c => Cmd.wf c
  | .freezeTime k => below 128 k
  | .traceArm c => Cmd.wf c
  | .traceFire value => fits 64 value
  | .tracePostLimit => true
  | .tracePostEnd => true
  | .dumpTensor c => Cmd.wf c
  | .dumpExpire ctx slot => fits 14 ctx && below 4 slot
  | .inputPowerUp => true
  | .inrushDone smbAddr => fits 7 smbAddr
  | .inputPowerLoss => true
  | .rampGovernorTick mv _ _ => fits 32 mv
  | .ballastPrerampStart k => below 128 k
  | .powerCap c => Cmd.wf c
  | .capControlTick avg _ => fits 32 avg
  | .sensorReadTick _ => true
  | .thermalTick => true
  | .thermalPark sensor => below 48 sensor
  | .thermalUnpark die => below 2 die
  | .emstopNLow => true
  | .overVoltage => true
  | .overCurrent => true
  | .powerStageFault => true
  | .rootPllUnlock => true
  | .pllLock pll => below 5 pll
  | .serdesPllUnlock q => below 4 q
  | .ident _ => true
  | .telemetry _ => true
  | .sensor _ n => fits 8 n
  | .capSet _ value => fits 32 value
  | .capGet _ => true
  | .events _ => true
  | .eventsClear _ value => fits 16 value
  | .crash _ n => fits 8 n
  | .crashClear _ => true
  | .restart _ _ mv _ => fits 32 mv
  | .smbusAlertResponse => true
  | .romCheckDone _ _ => true
  | .hbmTrainDone _ => true
  | .load => true
  | .imageReadDone => true
  | .imageVerifyDone => true
  | .startDone _ => true
  | .svnCommit _ => true
  | .ownerProgram _ => true
  | .sealFuse _ => true
  | .attest c _ => Cmd.wf c
  | .doeRequest request _ => lenUpTo 4096 request
  | .hostLossResetDone => true
  | .mainConvertersUp => true
  | .hostLinkTrained speed width _ _ => fits 4 speed && fits 5 width
  | .residencySliceExpire ctx => fits 14 ctx

end Sys2Proof
end

-- The settling of the scope family: what every command keeps, the host's register accesses, and the host-loss reset.
section

namespace Sys2Proof.Machine

/-! ### Every command: what it keeps, and that it answers -/

/-- A command keeps every stable predicate: each arm cites the law of its meaning. -/
theorem st_exec {P : State → Prop} (hP : Stable P) {s t : State} (hs : P s) : ∀ {c : Instr}, exec c s = .next t → P t
  | .hostRegisterWrite _ _ _, h => st_execHostRegisterWrite hP hs h
  | .badBarAccess write _ _, h => st_execBadBarAccess hP (_write := write) hs h
  | .lookup _, h => st_execLookup hP hs h
  | .lookupRingStart _, h => st_execLookupRingStart hP hs h
  | .batchFreeWindowExpire _, h => st_execBatchFreeWindowExpire hP hs h
  | .batch _ _, h => st_execBatch hP hs h
  | .ownerFragmentReady _ _ _, h => st_execOwnerFragmentReady hP hs h
  | .ownerBatchDeadline _ _, h => st_execOwnerBatchDeadline hP hs h
  | .fragment _ _, h => st_execFragment hP hs h
  | .epochGone _ _ _, h => st_execEpochGone hP hs h
  | .cancel _ _, h => st_execCancel hP hs h
  | .hedgeDelayExpire _, h => st_execHedgeDelayExpire hP hs h
  | .lookupDeadline _, h => st_execLookupDeadline hP hs h
  | .lookupOutputWritten _, h => st_execLookupOutputWritten hP hs h
  | .loadTable _, h => st_execLoadTable hP hs h
  | .publishTable _, h => st_execPublishTable hP hs h
  | .prepare _ _ _ _ _, h => st_execPrepare hP hs h
  | .ready _ _ _, h => st_execReady hP hs h
  | .refuse _ _ _ _, h => st_execRefuse hP hs h
  | .publishReplyDeadline _, h => st_execPublishReplyDeadline hP hs h
  | .commit _ _ _ _, h => st_execCommit hP hs h
  | .commitTimeReached _, h => st_execCommitTimeReached hP hs h
  | .abort _ _ _, h => st_execAbort hP hs h
  | .memberDrainDone _ _, h => st_execMemberDrainDone hP hs h
  | .drained _ _ _ _, h => st_execDrained hP hs h
  | .drop _ _ _, h => st_execDrop hP hs h
  | .ownerEpochWorkEnd _ _, h => st_execOwnerEpochWorkEnd hP hs h
  | .retireTable _, h => st_execRetireTable hP hs h
  | .retireAfterPublish _, h => st_execRetireAfterPublish hP hs h
  | .retire _ _ _, h => st_execRetire hP hs h
  | .retireTimeReached _, h => st_execRetireTimeReached hP hs h
  | .updateRows _, h => st_execUpdateRows hP hs h
  | .updBatch _ _, h => st_execUpdBatch hP hs h
  | .updAck _ _, h => st_execUpdAck hP hs h
  | .invalidate _ _, h => st_execInvalidate hP hs h
  | .invAck _ _, h => st_execInvAck hP hs h
  | .sketchDecay, h => st_execSketchDecay hP hs h
  | .graftRow _, h => st_execGraftRow hP hs h
  | .repAdd _ _ _, h => st_execRepAdd hP hs h
  | .repDrop _ _ _, h => st_execRepDrop hP hs h
  | .repGrant _ _, h => st_execRepGrant hP hs h
  | .repRevoke _ _, h => st_execRepRevoke hP hs h
  | .repAck _ _, h => st_execRepAck hP hs h
  | .repDone _ _ _, h => st_execRepDone hP hs h
  | .repFill _ _, h => st_execRepFill hP hs h
  | .fillData _ _ _, h => st_execFillData hP hs h
  | .migBegin _ _ _ _ _, h => st_execMigBegin hP hs h
  | .migData _ _ _, h => st_execMigData hP hs h
  | .migReady _ _, h => st_execMigReady hP hs h
  | .migFwd _ _, h => st_execMigFwd hP hs h
  | .migFwdAck _ _, h => st_execMigFwdAck hP hs h
  | .migCopied _ _, h => st_execMigCopied hP hs h
  | .overlaySet _ _ _, h => st_execOverlaySet hP hs h
  | .overlayAck _ _, h => st_execOverlayAck hP hs h
  | .migEnd _ _ _ _ _, h => st_execMigEnd hP hs h
  | .rowFetch _ _ _, h => st_execRowFetch hP hs h
  | .rowData _ _ _ _, h => st_execRowData hP hs h
  | .migrationAbandon _, h => st_execMigrationAbandon hP hs h
  | .groupScrubDone, h => st_execGroupScrubDone hP hs h
  | .canWayModeWrite _, h => st_execCanWayModeWrite hP hs h
  | .xylemMemopApply _, h => st_execXylemMemopApply hP hs h
  | .redStagingReserve _, h => st_execRedStagingReserve hP hs h
  | .redGroupTimeout _ _ _, h => st_execRedGroupTimeout hP hs h
  | .patrolScrub _ _, h => st_execPatrolScrub hP hs h
  | .maintRequest _, h => st_execMaintRequest hP hs h
  | .maintGrant, h => st_execMaintGrant hP hs h
  | .maintRelease _, h => st_execMaintRelease hP hs h
  | .pprGo _, h => st_execPprGo hP hs h
  | .pprDone _, h => st_execPprDone hP hs h
  | .mem1500InstrWrite _, h => st_execMem1500InstrWrite hP hs h
  | .mem1500DataWrite _, h => st_execMem1500DataWrite hP hs h
  | .mem1500DataRead, h => st_execMem1500DataRead hP hs h
  | .taprootRepairDone _, h => st_execTaprootRepairDone hP hs h
  | .tileStep _, h => st_execTileStep hP hs h
  | .tileWriteback _, h => st_execTileWriteback hP hs h
  | .tileRetry _ _, h => st_execTileRetry hP hs h
  | .strikeClear _ _, h => st_execStrikeClear hP hs h
  | .latInjectArm _ _, h => st_execLatInjectArm hP hs h
  | .chainStart _, h => st_execChainStart hP hs h
  | .chainComplete _, h => st_execChainComplete hP hs h
  | .alu _, h => st_execAlu hP hs h
  | .addi _, h => st_execAddi hP hs h
  | .andi _, h => st_execAndi hP hs h
  | .ori _, h => st_execOri hP hs h
  | .xori _, h => st_execXori hP hs h
  | .shi _, h => st_execShi hP hs h
  | .lui _, h => st_execLui hP hs h
  | .slti _, h => st_execSlti hP hs h
  | .ld _, h => st_execLd hP hs h
  | .lw _, h => st_execLw hP hs h
  | .sd _, h => st_execSd hP hs h
  | .sw _, h => st_execSw hP hs h
  | .amo _, h => st_execAmo hP hs h
  | .beq _, h => st_execBeq hP hs h
  | .bne _, h => st_execBne hP hs h
  | .blt _, h => st_execBlt hP hs h
  | .bge _, h => st_execBge hP hs h
  | .bltu _, h => st_execBltu hP hs h
  | .bgeu _, h => st_execBgeu hP hs h
  | .jal _, h => st_execJal hP hs h
  | .jalr _, h => st_execJalr hP hs h
  | .bsum _, h => st_execBsum hP hs h
  | .mvs _, h => st_execMvs hP hs h
  | .csrr _, h => st_execCsrr hP hs h
  | .csrw _, h => st_execCsrw hP hs h
  | .ltile _, h => st_execLtile hP hs h
  | .vchain _, h => st_execVchain hP hs h
  | .hstart _, h => st_execHstart hP hs h
  | .gdma _, h => st_execGdma hP hs h
  | .wait _, h => st_execWait hP hs h
  | .toks _, h => st_execToks hP hs h
  | .bar _, h => st_execBar hP hs h
  | .barrierTimeout _, h => st_execBarrierTimeout hP hs h
  | .coreFence _, h => st_execCoreFence hP hs h
  | .work _, h => st_execWork hP hs h
  | .tag _, h => st_execTag hP hs h
  | .tagCopyDone _, h => st_execTagCopyDone hP hs h
  | .endProg _, h => st_execEndProg hP hs h
  | .coreResume _, h => st_execCoreResume hP hs h
  | .coreWatchdog _, h => st_execCoreWatchdog hP hs h
  | .loop _ _, h => st_execLoop hP hs h
  | .endl _ _, h => st_execEndl hP hs h
  | .stride _ _, h => st_execStride hP hs h
  | .lda _ _, h => st_execLda hP hs h
  | .adda _ _, h => st_execAdda hP hs h
  | .read _ _, h => st_execRead hP hs h
  | .read2 _ _, h => st_execRead2 hP hs h
  | .gather _ _, h => st_execGather hP hs h
  | .zero _ _, h => st_execZero hP hs h
  | .take _ _, h => st_execTake hP hs h
  | .barw _ _, h => st_execBarw hP hs h
  | .hend _ _, h => st_execHend hP hs h
  | .helixRequestArrive _ _ _, h => st_execHelixRequestArrive hP hs h
  | .helixProgramEnd _ _, h => st_execHelixProgramEnd hP hs h
  | .extProducerWrite _ _ _, h => st_execExtProducerWrite hP hs h
  | .helixFaultHalt _ _, h => st_execHelixFaultHalt hP hs h
  | .spanWrite _, h => st_execSpanWrite hP hs h
  | .spanRead _, h => st_execSpanRead hP hs h
  | .spanWriteDone, h => st_execSpanWriteDone hP hs h
  | .atsCompletion _ _ _ _ _ _, h => st_execAtsCompletion hP hs h
  | .atsInvalidate _ _ _ _ _, h => st_execAtsInvalidate hP hs h
  | .atsInvalidateComplete _, h => st_execAtsInvalidateComplete hP hs h
  | .hostFault _ _ _, h => st_execHostFault hP hs h
  | .priGroupWindow _, h => st_execPriGroupWindow hP hs h
  | .prgResponse _ _, h => st_execPrgResponse hP hs h
  | .priTimeout _, h => st_execPriTimeout hP hs h
  | .absentSpanFault _ _, h => st_execAbsentSpanFault hP hs h
  | .absentLoadDone _ _ _ _, h => st_execAbsentLoadDone hP hs h
  | .setBias _, h => st_execSetBias hP hs h
  | .setBiasDone _ _, h => st_execSetBiasDone hP hs h
  | .dmaSubmit _, h => st_execDmaSubmit hP hs h
  | .dmaStop _, h => st_execDmaStop hP hs h
  | .dmaChTailWrite _ _, h => st_execDmaChTailWrite hP hs h
  | .bulkDescStart _, h => st_execBulkDescStart hP hs h
  | .bulkDescComplete _, h => st_execBulkDescComplete hP hs h
  | .groveDescStart _, h => st_execGroveDescStart hP hs h
  | .groveDescComplete _, h => st_execGroveDescComplete hP hs h
  | .gdmaDisable _, h => st_execGdmaDisable hP hs h
  | .gdmaEnable _, h => st_execGdmaEnable hP hs h
  | .dbTail _ _ _, h => st_execDbTail hP hs h
  | .dbCplHead _ _, h => st_execDbCplHead hP hs h
  | .packetFetch _ _, h => st_execPacketFetch hP hs h
  | .ringFetchFault _ _ _ _ _, h => st_execRingFetchFault hP hs h
  | .nop _, h => st_execNop hP hs h
  | .fence _, h => st_execFence hP hs h
  | .writeInline _, h => st_execWriteInline hP hs h
  | .waitValue _, h => st_execWaitValue hP hs h
  | .waitValuePoll _, h => st_execWaitValuePoll hP hs h
  | .waitValueTimeout _, h => st_execWaitValueTimeout hP hs h
  | .completionRecordWrite _, h => st_execCompletionRecordWrite hP hs h
  | .irqHoldoffExpire _, h => st_execIrqHoldoffExpire hP hs h
  | .launch _, h => st_execLaunch hP hs h
  | .launchGraph _, h => st_execLaunchGraph hP hs h
  | .graphNodeStart _ _, h => st_execGraphNodeStart hP hs h
  | .storeGraph _, h => st_execStoreGraph hP hs h
  | .patchGraph _, h => st_execPatchGraph hP hs h
  | .retireGraph _, h => st_execRetireGraph hP hs h
  | .uclPop _, h => st_execUclPop hP hs h
  | .cmd _ _, h => st_execCmd hP hs h
  | .cmdCpl _ _, h => st_execCmdCpl hP hs h
  | .adminCreate _, h => st_execAdminCreate hP hs h
  | .adminDestroy _, h => st_execAdminDestroy hP hs h
  | .ctxPartition _ _, h => st_execCtxPartition hP hs h
  | .ctxCreate _ _, h => st_execCtxCreate hP hs h
  | .ctxDestroy _ _, h => st_execCtxDestroy hP hs h
  | .contextTeardownEnd _, h => st_execContextTeardownEnd hP hs h
  | .ctxPin _ _, h => st_execCtxPin hP hs h
  | .nodeStart _, h => st_execNodeStart hP hs h
  | .sliceExpire _ _, h => st_execSliceExpire hP hs h
  | .softEscalate _ _, h => st_execSoftEscalate hP hs h
  | .preemptStopped _, h => st_execPreemptStopped hP hs h
  | .groveSaveDone _, h => st_execGroveSaveDone hP hs h
  | .nodeRestore _, h => st_execNodeRestore hP hs h
  | .swapIn _, h => st_execSwapIn hP hs h
  | .evictionDone _, h => st_execEvictionDone hP hs h
  | .swapInDone _, h => st_execSwapInDone hP hs h
  | .chordTrainDone _ _, h => st_execChordTrainDone hP hs h
  | .flit _ _, h => st_execFlit hP hs h
  | .chordRetrainTimeout _, h => st_execChordRetrainTimeout hP hs h
  | .helloTimer _, h => st_execHelloTimer hP hs h
  | .hello _ _, h => st_execHello hP hs h
  | .announceTimer, h => st_execAnnounceTimer hP hs h
  | .announce _ _ _ _ _ _, h => st_execAnnounce hP hs h
  | .electionWindow, h => st_execElectionWindow hP hs h
  | .claim _ _, h => st_execClaim hP hs h
  | .assign _ _ _ _ _ _, h => st_execAssign hP hs h
  | .joined _ _ _ _, h => st_execJoined hP hs h
  | .routeSet _ _, h => st_execRouteSet hP hs h
  | .keepaliveTimer, h => st_execKeepaliveTimer hP hs h
  | .keepalive _ _, h => st_execKeepalive hP hs h
  | .keepaliveMiss _, h => st_execKeepaliveMiss hP hs h
  | .depart _ _, h => st_execDepart hP hs h
  | .deviceDown _ _, h => st_execDeviceDown hP hs h
  | .chordEnable _ _, h => st_execChordEnable hP hs h
  | .chordDisable _ _, h => st_execChordDisable hP hs h
  | .chordDrainEnd _, h => st_execChordDrainEnd hP hs h
  | .mgrState _ _ _, h => st_execMgrState hP hs h
  | .mgrStateAck _ _ _, h => st_execMgrStateAck hP hs h
  | .deputyTakeover, h => st_execDeputyTakeover hP hs h
  | .freshElection, h => st_execFreshElection hP hs h
  | .credit _, h => st_execCredit hP hs h
  | .e2eTimeout _, h => st_execE2eTimeout hP hs h
  | .regWrite _ _ _ _ _, h => st_execRegWrite hP hs h
  | .regRead _ _ _ _, h => st_execRegRead hP hs h
  | .regRsp _ _ _ _ _, h => st_execRegRsp hP hs h
  | .beaconTimer, h => st_execBeaconTimer hP hs h
  | .beacon _ _ _ _ _, h => st_execBeacon hP hs h
  | .timeDiscipline, h => st_execTimeDiscipline hP hs h
  | .delayTimer _, h => st_execDelayTimer hP hs h
  | .delayReq _ _ _ _, h => st_execDelayReq hP hs h
  | .delayRsp _ _ _ _ _, h => st_execDelayRsp hP hs h
  | .gread _ _ _ _, h => st_execGread hP hs h
  | .grdata _ _ _ _ _, h => st_execGrdata hP hs h
  | .gwrite _ _ _ _, h => st_execGwrite hP hs h
  | .gwAck _ _ _ _, h => st_execGwAck hP hs h
  | .memop _ _, h => st_execMemop hP hs h
  | .memopAck _ _ _ _ _, h => st_execMemopAck hP hs h
  | .syncStart _, h => st_execSyncStart hP hs h
  | .syncStartTime _, h => st_execSyncStartTime hP hs h
  | .syncTrigger _ _ _, h => st_execSyncTrigger hP hs h
  | .fabricStatus _, h => st_execFabricStatus hP hs h
  | .switchIn _, h => st_execSwitchIn hP hs h
  | .restoreBegin _ _, h => st_execRestoreBegin hP hs h
  | .restoreAck _ _, h => st_execRestoreAck hP hs h
  | .restoreRec _ _, h => st_execRestoreRec hP hs h
  | .restoreDone _ _ _, h => st_execRestoreDone hP hs h
  | .restoreEnd _ _, h => st_execRestoreEnd hP hs h
  | .image _ _, h => st_execImage hP hs h
  | .pcieConfigWrite _ _ _, h => st_execPcieConfigWrite hP hs h
  | .inboundUnsupported _, h => st_execInboundUnsupported hP hs h
  | .cxlSnoop _, h => st_execCxlSnoop hP hs h
  | .msixUnmask _, h => st_execMsixUnmask hP hs h
  | .linkRetrain _ _ _, h => st_execLinkRetrain hP hs h
  | .hostReadCompletion _ _ _, h => st_execHostReadCompletion hP hs h
  | .hostCplTimeout _, h => st_execHostCplTimeout hP hs h
  | .linkDown, h => st_execLinkDown hP hs h
  | .perstNAssert, h => st_execPerstNAssert hP hs h
  | .hotReset, h => st_execHotReset hP hs h
  | .flr, h => st_execFlr hP hs h
  | .perstNDeassert _ _ _, h => st_execPerstNDeassert hP hs h
  | .hlCrashCtlWrite _, h => st_execHlCrashCtlWrite hP hs h
  | .d3hotEntry, h => st_execD3hotEntry hP hs h
  | .d0Entry, h => st_execD0Entry hP hs h
  | .digestRegion _, h => st_execDigestRegion hP hs h
  | .probeStart _, h => st_execProbeStart hP hs h
  | .probeRunEnd _ _, h => st_execProbeRunEnd hP hs h
  | .probeExpire _, h => st_execProbeExpire hP hs h
  | .evtSelWrite _ _ _, h => st_execEvtSelWrite hP hs h
  | .counterFreeze _, h => st_execCounterFreeze hP hs h
  | .freezeTime _, h => st_execFreezeTime hP hs h
  | .traceArm _, h => st_execTraceArm hP hs h
  | .traceFire _, h => st_execTraceFire hP hs h
  | .tracePostLimit, h => st_execTracePostLimit hP hs h
  | .tracePostEnd, h => st_execTracePostEnd hP hs h
  | .dumpTensor _, h => st_execDumpTensor hP hs h
  | .dumpExpire _ _, h => st_execDumpExpire hP hs h
  | .inputPowerUp, h => st_execInputPowerUp hP hs h
  | .inrushDone _, h => st_execInrushDone hP hs h
  | .inputPowerLoss, h => st_execInputPowerLoss hP hs h
  | .rampGovernorTick _ _ _, h => st_execRampGovernorTick hP hs h
  | .ballastPrerampStart _, h => st_execBallastPrerampStart hP hs h
  | .powerCap _, h => st_execPowerCap hP hs h
  | .capControlTick _ _, h => st_execCapControlTick hP hs h
  | .sensorReadTick _, h => st_execSensorReadTick hP hs h
  | .thermalTick, h => st_execThermalTick hP hs h
  | .thermalPark _, h => st_execThermalPark hP hs h
  | .thermalUnpark _, h => st_execThermalUnpark hP hs h
  | .emstopNLow, h => st_execEmstopNLow hP hs h
  | .overVoltage, h => st_execOverVoltage hP hs h
  | .overCurrent, h => st_execOverCurrent hP hs h
  | .powerStageFault, h => st_execPowerStageFault hP hs h
  | .rootPllUnlock, h => st_execRootPllUnlock hP hs h
  | .pllLock _, h => st_execPllLock hP hs h
  | .serdesPllUnlock _, h => st_execSerdesPllUnlock hP hs h
  | .ident _, h => st_execIdent hP hs h
  | .telemetry _, h => st_execTelemetry hP hs h
  | .sensor _ _, h => st_execSensor hP hs h
  | .capSet _ _, h => st_execCapSet hP hs h
  | .capGet _, h => st_execCapGet hP hs h
  | .events _, h => st_execEvents hP hs h
  | .eventsClear _ _, h => st_execEventsClear hP hs h
  | .crash _ _, h => st_execCrash hP hs h
  | .crashClear _, h => st_execCrashClear hP hs h
  | .restart _ _ _ _, h => st_execRestart hP hs h
  | .smbusAlertResponse, h => st_execSmbusAlertResponse hP hs h
  | .romCheckDone _ _, h => st_execRomCheckDone hP hs h
  | .hbmTrainDone _, h => st_execHbmTrainDone hP hs h
  | .load, h => st_execLoad hP hs h
  | .imageReadDone, h => st_execImageReadDone hP hs h
  | .imageVerifyDone, h => st_execImageVerifyDone hP hs h
  | .startDone _, h => st_execStartDone hP hs h
  | .svnCommit _, h => st_execSvnCommit hP hs h
  | .ownerProgram _, h => st_execOwnerProgram hP hs h
  | .sealFuse _, h => st_execSealFuse hP hs h
  | .attest _ _, h => st_execAttest hP hs h
  | .doeRequest _ _, h => st_execDoeRequest hP hs h
  | .hostLossResetDone, h => st_execHostLossResetDone hP hs h
  | .mainConvertersUp, h => st_execMainConvertersUp hP hs h
  | .hostLinkTrained _ _ _ _, h => st_execHostLinkTrained hP hs h
  | .residencySliceExpire _, h => st_execResidencySliceExpire hP hs h

/-- Every meaning is one next state outright; only that of CMD chooses between two, by whether a host-loss reset is under way. -/
theorem exec_answers (c : Instr) (s : State) : ∃ t, exec c s = .next t := by
  cases c
  case cmd h payload =>
    by_cases hl : s.hl.loss.isSome = true
    · exact ⟨_, if_pos hl⟩
    · exact ⟨_, if_neg hl⟩
  all_goals exact ⟨_, rfl⟩

/-- The waiting commands are no part of memory or registers. -/
theorem Canonical.withPending {s : State} (h : Canonical s) (q : List Instr) : Canonical { s with pending := q } := ⟨h.mem, h.regs⟩

/-- Settles O57: a stable predicate is kept by the command at the front of the queue (`st_exec`) and by an N-cycle (`st_nCycle`),
and the canonical form is one. -/
theorem stepsKeepCanonicalForms : Obligations.StepsKeepCanonicalForms := by
  intro s t hs e
  unfold step at e
  split at e
  case h_1 =>
    cases e
    exact st_nCycle stable_canonical hs
  case h_2 c rest hq => exact st_exec stable_canonical (hs.withPending rest) e

/-- Settles O58: every command answers (`exec_answers`), and what the queue holds is a stable predicate (`stable_pending`). -/
theorem everyCommandIsServed : Obligations.EveryCommandIsServed := by
  intro c s
  obtain ⟨t, ht⟩ := exec_answers c s
  exact ⟨t, ht, st_exec (stable_pending s.pending) rfl ht⟩

/-! ### Accesses by size, alignment and width (R5, R6) -/

section
variable {off size value v : Nat} {s : State} {r : RegRow} {f : State → State} {eff : Nat → Nat → State → State}

theorem whileServed_of_served (h : hostServed s off = true) : whileServed off f s = .next (f s) := congrArg _ (if_pos h)

theorem whileServed_of_not_served (h : hostServed s off = false) : whileServed off f s = .next s :=
  congrArg _ (if_neg (Bool.eq_false_iff.mp h))

/-- R574: a served write of BAR 0. -/
theorem exec_hostRegisterWrite_of_served (h : hostServed s off = true) :
    exec (.hostRegisterWrite off size value) s = .next (hostRegisterWrite off size value s) := whileServed_of_served h

theorem accessOk_four (h : off % 4 = 0) : accessOk off 4 = true := by simp [accessOk, h]

theorem accessOk_eight (h : off % 8 = 0) : accessOk off 8 = true := by simp [accessOk, h]

/-- R5: an access of the wrong size or alignment is counted. -/
theorem badAccess_of_bad (h : accessOk off size = false) : badAccess off size s = count Reg.HL_CNT_BAD_ACCESS s :=
  if_neg (Bool.eq_false_iff.mp h)

theorem badAccess_of_ok (h : accessOk off size = true) : badAccess off size s = s := if_pos h

theorem hostRegisterWrite_of_bad (h : accessOk off size = false) :
    hostRegisterWrite off size value s = count Reg.HL_CNT_BAD_ACCESS s := by
  simp [hostRegisterWrite, h, badAccess_of_bad h]

theorem hostRegisterWrite_of_ok (h : accessOk off size = true) (hb : off < 0x4000000) :
    hostRegisterWrite off size value s = accessWrite hostEffect off size value s := by
  simp [hostRegisterWrite, h, Nat.not_le.mpr hb]

theorem accessWrite_four : accessWrite eff off 4 v s = wordWrite eff off (v % 2 ^ 32) s := if_pos rfl

theorem accessRead_four : accessRead s off 4 = wordRead s off := if_pos rfl

theorem accessWrite_eight_reg64 (hr : regRow off = some r) (hw : r.width = 64) : accessWrite eff off 8 v s = eff off (v % 2 ^ 64) s := by
  simp [accessWrite, hr, hw]

theorem accessWrite_eight_words (h : ∀ r, regRow off = some r → r.width ≠ 64) :
    accessWrite eff off 8 v s = wordWrite eff (off + 4) (v / 2 ^ 32 % 2 ^ 32) (wordWrite eff off (v % 2 ^ 32) s) := by
  cases hr : regRow off with
  | none => simp [accessWrite, hr]
  | some r => simp [accessWrite, hr, h r hr]

theorem wordWrite_reg32 (hm : off < 0x20000 ∨ 0x28000 ≤ off) (hr : regRow off = some r) (hw : r.width ≠ 64) :
    wordWrite eff off v s = eff off v s := by
  have hm : ¬(0x20000 ≤ off ∧ off < 0x28000) := by omega
  simp [wordWrite, hm, hr, hw]

/-- R6: neither a register nor the upper half of one lies at the word. -/
theorem wordWrite_unassigned (hm : off < 0x20000 ∨ 0x28000 ≤ off) (hr : regRow off = none)
    (hu : 4 ≤ off → ∀ r, regRow (off - 4) = some r → r.width ≠ 64) : wordWrite eff off v s = s := by
  have hm : ¬(0x20000 ≤ off ∧ off < 0x28000) := by omega
  by_cases h4 : 4 ≤ off
  · cases hl : regRow (off - 4) with
    | none => simp [wordWrite, hm, hr, h4, hl]
    | some r => simp [wordWrite, hm, hr, h4, hl, hu h4 r hl]
  · simp [wordWrite, hm, hr, h4]

theorem wordRead_unassigned (hm : off < 0x20000 ∨ 0x28100 ≤ off) (hr : regRow off = none)
    (hu : 4 ≤ off → ∀ r, regRow (off - 4) = some r → r.width ≠ 64) : wordRead s off = 0 := by
  have hm : ¬(0x20000 ≤ off ∧ off < 0x28100) := by omega
  by_cases h4 : 4 ≤ off
  · cases hl : regRow (off - 4) with
    | none => simp [wordRead, hm, hr, h4, hl]
    | some r => simp [wordRead, hm, hr, h4, hl, hu h4 r hl]
  · simp [wordRead, hm, hr, h4]

theorem hostRegisterWrite_unassigned (ha : off % 4 = 0) (hm : off < 0x20000 ∨ 0x28000 ≤ off) (hr : regRow off = none)
    (hu : 4 ≤ off → ∀ r, regRow (off - 4) = some r → r.width ≠ 64) : hostRegisterWrite off 4 value s = s := by
  by_cases hb : off < 0x4000000
  · rw [hostRegisterWrite_of_ok (accessOk_four ha) hb, accessWrite_four, wordWrite_unassigned hm hr hu]
  · simp [hostRegisterWrite, accessOk_four ha, Nat.le_of_not_lt hb]

end

/-- Settles O59: the word is neither read as a register nor written as one (`wordRead_unassigned`, `wordWrite_unassigned`). -/
theorem unassignedOffsets : Obligations.UnassignedOffsets := by
  intro s off ha hm hr hu
  have hm' : off < 0x20000 ∨ 0x28000 ≤ off := by omega
  refine ⟨?_, fun value => ?_, fun value hs => ?_⟩
  · rw [accessRead_four, wordRead_unassigned hm hr hu]
  · rw [accessWrite_four, wordWrite_unassigned hm' hr hu]
  · rw [exec_hostRegisterWrite_of_served hs, hostRegisterWrite_unassigned ha hm' hr hu]

/-! ### A write of a plain register (R4, R594) -/

theorem bit_eq_testBit (w i : Nat) : bit w i = w.testBit i := by
  rw [bit, Nat.shiftRight_eq_div_pow, Nat.testBit_eq_decide_div_mod_eq]
  rfl

theorem bit_mod_two_pow {w i n : Nat} (h : i < n) : bit (w % 2 ^ n) i = bit w i := by
  rw [bit_eq_testBit, bit_eq_testBit, Nat.testBit_mod_two_pow, decide_eq_true h, Bool.true_and]

/-- R4, R594: what a write leaves in a register, bit by bit. -/
theorem bit_regWritten {s : State} {off v n : Nat} {r : RegRow} (hr : regRow off = some r) (hn : n < 64) :
    bit (regWritten s off v) n =
      if bit r.rw n || (bit r.rws n && !isSealed s) then bit v n
      else if bit r.rw1c n && bit v n then false else bit (regGet s off) n := by
  simp only [regWritten, hr, bit_eq_testBit, Nat.testBit_or, Nat.testBit_and, Nat.testBit_xor, Nat.testBit_two_pow_sub_one, hn, decide_true]
  have hz : (if isSealed s then 0 else r.rws).testBit n = (r.rws.testBit n && !isSealed s) := by
    cases isSealed s <;> simp
  rw [hz]
  cases r.rw.testBit n || (r.rws.testBit n && !isSealed s) <;> cases r.rw1c.testBit n <;> cases v.testBit n <;> simp

/-- A plain register has no effect and no range rule: a write of it goes by the access kinds alone. -/
theorem regEffect_plain {s : State} {off v : Nat} {r : RegRow} (hr : regRow off = some r) (hp : plainRegister r.off = true) :
    regEffect off v s = regWrite off v s := by
  simp only [plainRegister, List.contains_cons, List.contains_nil, Bool.or_false, Bool.not_eq_true', Bool.or_eq_false_iff, beq_eq_false_iff_ne] at hp
  simp only [regEffect, hr, plainWrite, writeIgnored, settle, hp, if_false, or_self, Bool.false_eq_true]

/-- R37: the registers that the host does not own are not plain. -/
theorem plainRegister_managers : (regRow Reg.TBL_GRAFT_CFG).any (fun r => plainRegister r.off) = false ∧
    (regRow Reg.FAB_MGR_CFG).any (fun r => plainRegister r.off) = false := by decide

theorem hostEffect_plain {s : State} {off v : Nat} {r : RegRow} (hr : regRow off = some r) (hp : plainRegister r.off = true) :
    hostEffect off v s = regWrite off v s := by
  obtain ⟨hgraft, hmgr⟩ := plainRegister_managers
  have hg : off ≠ Reg.TBL_GRAFT_CFG := by
    rintro rfl
    simp [hr, hp] at hgraft
  have hf : off ≠ Reg.FAB_MGR_CFG := by
    rintro rfl
    simp [hr, hp] at hmgr
  rw [hostEffect, if_neg hg, if_neg hf, regEffect_plain hr hp]

/-- Settles O33: the write reaches the register and leaves `regWritten` in it (`hostEffect_plain`, `bit_regWritten`). -/
theorem hostRegisterBits : Obligations.HostRegisterBits := by
  intro s off value r hs hr hp hw ha hb hm
  have hx : exec (.hostRegisterWrite off 4 value) s = .next (regPut off (regWritten s off (value % 2 ^ 32)) s) := by
    rw [exec_hostRegisterWrite_of_served hs, hostRegisterWrite_of_ok (accessOk_four ha) hb, accessWrite_four, wordWrite_reg32 hm hr (by omega), hostEffect_plain hr hp]
    simp [regWrite, hr]
  refine ⟨_, hx, fun hc n hn => ?_, fun o ho => regGet_regPut_ne _ ho, rfl⟩
  rw [regGet_regPut off _ hc, bit_mod_two_pow (by omega), bit_regWritten hr (by omega), bit_mod_two_pow hn]

/-! ### Register accesses between devices (R37, R453) -/

theorem regWriteArrives_eq (h : Hdr) (off width tag value : Nat) (u : State) : regWriteArrives h off width tag value u =
    if isMgrOf u h = false ∨ managerOwns off = false ∨ (width = 8 ∧ (regRow (off + 4)).isSome = true ∧ managerOwns (off + 4) = false) then
      send h.src (.regRsp tag stFault Flt.perm.code 0) u
    else if accessOk off width = false then send h.src (.regRsp tag stFault Flt.illegal.code 0) u
    else send h.src (.regRsp tag 0 0 0) (accessWrite regEffect off width value u) := by
  simp [regWriteArrives, or_assoc, and_assoc]

theorem regReadArrives_eq {off : Nat} (ho : off ≠ Reg.MEM_1500_DATA) (h : Hdr) (width tag : Nat) (u : State) :
    regReadArrives h off width tag u =
    if isMgrOf u h = false ∧ isDepOf u h = false then send h.src (.regRsp tag stFault Flt.perm.code 0) u
    else if accessOk off width = false ∨ 0x4000000 ≤ off then send h.src (.regRsp tag stFault Flt.illegal.code 0) u
    else send h.src (.regRsp tag 0 0 (accessRead u off width)) u := by
  simp [regReadArrives, ho]

theorem managerOwns_iff (o : Nat) : managerOwns o = true ↔ ∃ r, regRow o = some r ∧
    (r.off = Reg.TBL_GRAFT_CFG ∨ r.off = Reg.FAB_MGR_CFG ∨ r.off = Reg.CHORD_CTL 0) := by
  cases hr : regRow o with
  | none => simp [managerOwns, hr]
  | some r => simp [managerOwns, hr, or_assoc]

/-- R453: a message that is accepted runs its row's effect. -/
theorem next_deliver_accepts {h : Hdr} {b : Body} {s : State} {f g : State → State} (ha : accepts h b s = true) (hfg : ∀ u, f u = g u) :
    (Host.Outcome.next (deliver h b f s) : Host.Outcome State Fault Refusal) = .next (served h b g s) := by
  rw [deliver_accepts f ha, funext hfg]

/-- Settles O34: the host's accesses by their size, alignment and register; a device's by who sent it and what it names. -/
theorem registerAccesses : Obligations.RegisterAccesses := by
  refine ⟨fun s off size value => ⟨?_, ?_, ?_, ?_, ?_, ?_⟩, fun h off width tag value s => ⟨?_, ?_, ?_, managerOwns_iff⟩⟩
  · exact fun hs => whileServed_of_not_served hs
  · intro hs hb
    rw [exec_hostRegisterWrite_of_served hs, hostRegisterWrite_of_bad hb]
  · intro hs ha hm hr hu
    rw [exec_hostRegisterWrite_of_served hs, hostRegisterWrite_unassigned ha hm hr hu]
  · intro hs ha hb hr
    rw [exec_hostRegisterWrite_of_served hs, hostRegisterWrite_of_ok (accessOk_eight ha) hb, accessWrite_eight_words hr]
  · intro r hs ha hb hr hw
    rw [exec_hostRegisterWrite_of_served hs, hostRegisterWrite_of_ok (accessOk_eight ha) hb, accessWrite_eight_reg64 hr hw]
  · intro write hup hloss
    have hon : (s.hl.up && s.hl.loss.isNone) = true := by simp [hup, hloss]
    have hx : exec (.badBarAccess write off size) s = .next (badAccess off size s) := congrArg _ (if_pos hon)
    exact ⟨fun hb => hx.trans (congrArg _ (badAccess_of_bad hb)), fun hk => hx.trans (congrArg _ (badAccess_of_ok hk))⟩
  · exact fun ha => next_deliver_accepts ha (regWriteArrives_eq h off width tag value)
  · exact fun ha ho => next_deliver_accepts ha (regReadArrives_eq ho h width tag)
  · exact fun status fault ha => next_deliver_accepts ha fun _ => rfl

/-! ### The host-loss reset (R491 to R496) -/

/-- R494: what the record of a reset holds when its cause comes. -/
def lossRecord (cause fault block : Nat) (s : State) : Loss :=
  { cause := cause, fault := fault, block := block, time := s.now, dropped := s.hl.queued.length,
    droppedBytes := (s.hl.queued.map fun x => x.data.length).foldl (· + ·) 0, reads := s.hl.reads.length,
    outstanding := s.crn.started.length,
    resident := (s.sched.ctxs.filter fun x =>
      x.id != 0 && (x.state == .resident || x.state == .evicting || x.state == .swappingIn)).length,
    link := (linkWord s).1 }

/-- R496: a cause during a reset, or in a part that is off, in the ROM or halted, starts none. -/
theorem hostLoss_of_idle {cause fault block : Nat} {cs : List Cmd} {s : State}
    (h : isOn s = false ∨ s.sec.stage = .rom ∨ s.sec.stage = .halted) : hostLoss cause fault block cs s = s :=
  if_pos (by simpa [or_assoc] using h)

theorem hostLoss_of_running {cause fault block : Nat} {cs : List Cmd} {s : State} (hon : isOn s = true) (hrom : s.sec.stage ≠ .rom)
    (hhalt : s.sec.stage ≠ .halted) : hostLoss cause fault block cs s =
      let u := dropHost cause { s with free := s.free + 1 }
      let v := sendDepart (if cause = 5 then 2 else 1) (u.setHl { u.hl with loss := some (lossRecord cause fault block s) })
      cs.foldl (fun t c => complete c stDeviceError 0 0 t) (divertWaiting (loseMgrPackets v)) :=
  if_neg (by simp [hon, hrom, hhalt])

theorem dropHost_queued (cause : Nat) (s : State) : (dropHost cause s).hl.queued = [] := by
  unfold dropHost; dsimp only; split <;> rfl

theorem dropHost_reads (cause : Nat) (s : State) : (dropHost cause s).hl.reads = [] := by
  unfold dropHost; dsimp only; split <;> rfl

/-- R491: causes 1 to 3 take the link down. -/
theorem dropHost_up (cause : Nat) (s : State) : (dropHost cause s).hl.up = true ↔ s.hl.up = true ∧ 3 < cause := by
  by_cases h : cause ≤ 3
  · simp [dropHost, h, regField, regPut]
  · simp [dropHost, h, Nat.lt_of_not_le h]

theorem hostLossDone_none {s : State} (h : s.hl.loss = none) : hostLossDone s = s := by simp [hostLossDone, h]

theorem hostLossDone_some {s : State} {l : Loss} (h : s.hl.loss = some l) :
    hostLossDone s = startTraining (putStage .power (persistent true (crashWrite l s))) := by simp [hostLossDone, h]

theorem canonical_reset : Canonical State.reset := ⟨rfl, rfl⟩

theorem regGet_reset (off : Nat) : regGet State.reset off = regReset off % 2 ^ 64 := BitVec.toNat_ofNat _ _

theorem memRead_reset (a n : Nat) : memRead State.reset a n = List.replicate n 0 := by
  induction n generalizing a with
  | zero => rfl
  | succ n ih => exact congrArg (List.cons 0) (ih (a + 1))

/-- Settles O51: the causes, the start of a reset (`hostLoss_of_running`), what it drops, its end, and the state after reset. -/
theorem resetAndHostLoss : Obligations.ResetAndHostLoss := by
  refine ⟨fun s => ⟨?_, ?_, ?_, ?_, ?_, ?_, ?_, ?_, ?_, ?_, ?_, ?_⟩, ?_⟩
  · exact fun hup => ⟨congrArg _ (if_pos hup), congrArg _ (if_pos hup), congrArg _ (if_pos hup)⟩
  · intro hup
    have hup : ¬s.hl.up = true := Bool.eq_false_iff.mp hup
    exact ⟨congrArg _ (if_neg hup), congrArg _ (if_neg hup), congrArg _ (if_neg hup)⟩
  · exact fun hlow => congrArg _ (if_pos hlow)
  · exact fun hlow => congrArg _ (if_neg (Bool.eq_false_iff.mp hlow))
  · exact fun _ _ _ _ h => hostLoss_of_idle h
  · exact fun cause fault block _ hon hrom hhalt =>
      ⟨lossRecord cause fault block s, rfl, rfl, rfl, rfl, rfl, rfl, rfl, hostLoss_of_running hon hrom hhalt⟩
  · exact fun cause => ⟨dropHost_queued cause s, dropHost_reads cause s, dropHost_up cause s⟩
  · exact fun h => congrArg _ (hostLossDone_none h)
  · exact fun _ h => congrArg _ (hostLossDone_some h)
  · exact fun _ => ⟨rfl, rfl, rfl, rfl, rfl, rfl, rfl⟩
  · exact fun _ h => whileServed_of_served h
  · exact fun _ h => whileServed_of_not_served h
  · exact ⟨canonical_reset, rfl, rfl, rfl, rfl, rfl, rfl, regGet_reset, memRead_reset⟩

end Sys2Proof.Machine
end

-- The settling of the part's own family: memory writes and the arbitration of orders.
section

namespace Sys2Proof.Machine

/-! ### A write of memory (R49, R185) -/

/-- R185: a sector is written whole exactly when its 64 bytes lie within the write. -/
theorem mem_wholeSectors {a n k : Nat} : k ∈ wholeSectors a n ↔ a ≤ k * 64 ∧ k * 64 + 64 ≤ a + n := by
  have touched : a ≤ k * 64 → k * 64 + 64 ≤ a + n → k ∈ sectorsOf a n := by
    intro hlo hhi
    rw [sectorsOf, if_neg (by omega), List.mem_map]
    exact ⟨k - a / 64, List.mem_range.mpr (by omega), by omega⟩
  simp only [wholeSectors, List.mem_filter, Bool.and_eq_true, decide_eq_true_eq]
  exact ⟨And.right, fun h => ⟨touched h.1 h.2, h⟩⟩

theorem mem_memWrite_poison {s : State} {a k : Nat} {l : List Byte} :
    k ∈ (memWrite a l s).mem.poison ↔ k ∈ s.mem.poison ∧ ¬(a ≤ k * 64 ∧ k * 64 + 64 ≤ a + l.length) := by
  simp only [memWrite, State.setMem_mem, List.mem_filter, Bool.not_eq_true', List.contains_eq_mem, decide_eq_false_iff_not, mem_wholeSectors]

theorem mem_memWrite_latent {s : State} {a k e : Nat} {l : List Byte} :
    (k, e) ∈ (memWrite a l s).mem.latent ↔ (k, e) ∈ s.mem.latent ∧ ¬(a ≤ k * 64 ∧ k * 64 + 64 ≤ a + l.length) := by
  simp only [memWrite, State.setMem_mem, List.mem_filter, Bool.not_eq_true', List.contains_eq_mem, decide_eq_false_iff_not, mem_wholeSectors]

/-- Settles O16: reading back and the bytes outside are the laws of memory; poison and latent errors go by `mem_wholeSectors`. -/
theorem memoryWrites : Obligations.MemoryWrites := by
  intro s a l hs
  refine ⟨st_memWrite stable_canonical hs, memRead_memWrite a l hs.mem, fun b => memWrite_outside l, fun k hlo hhi => ?_, fun k hk => ?_, rfl⟩
  · exact ⟨fun h => (mem_memWrite_poison.mp h).2 ⟨hlo, hhi⟩, fun e h => (mem_memWrite_latent.mp h).2 ⟨hlo, hhi⟩⟩
  · exact ⟨mem_memWrite_poison.trans (and_iff_left hk), fun e => mem_memWrite_latent.trans (and_iff_left hk)⟩

/-! ### Orders of one window (R37, R39, R595) -/

/-- R595: the kinds of two orders contradict in either sequence; only of two partitions does it matter whether each sets. -/
theorem contradicts_comm (k l : OrderKind) : contradicts k l = contradicts l k := by
  cases k <;> cases l
  case partition.partition p set exact groups ways groves p' set' exact' groups' ways' groves' =>
    simp only [contradicts, BEq.comm (a := p), bne_comm (a := groups), bne_comm (a := ways), bne_comm (a := groves),
      bne_comm (a := exact), Nat.and_comm groups, Nat.and_comm ways, Nat.and_comm groves]
    cases set <;> cases set' <;> rfl
  all_goals simp only [contradicts, BEq.comm, bne_comm, Nat.and_comm]

/-- R595: contradictory orders act on resources of one owner, unless one of them parks. -/
theorem orderOwner_eq_of_contradicts {k l : OrderKind} (h : contradicts k l = true) :
    orderOwner k = orderOwner l ∨ (∃ g, k = .park g) ∨ ∃ g, l = .park g := by
  cases k <;> cases l <;> simp_all [contradicts, orderOwner]

/-- R39: an order of Taproot to park is a thermal order. -/
theorem orderThermal_of_park {o : Order} {g : Nat} (hk : o.kind = .park g) (hm : o.master = .taproot) : orderThermal o = true := by
  simp [orderThermal, hk, hm]

theorem master_of_orderThermal {o : Order} (h : orderThermal o = true) : o.master = .taproot := by
  simp only [orderThermal, Bool.and_eq_true, beq_iff_eq] at h
  exact h.1

theorem masterRank_injective {m n : Master} (h : masterRank m = masterRank n) : m = n := by
  cases m <;> cases n <;> simp_all [masterRank]

section
variable {a b : Order}

theorem beats_of_same (h : a.master = b.master) : beats a b = false := by simp [beats, h]

theorem beats_of_thermal (hne : a.master ≠ b.master) (h : orderThermal a = true) : beats a b = true := by simp [beats, hne, h]

theorem beats_of_rival_thermal (ha : orderThermal a = false) (hb : orderThermal b = true) : beats a b = false := by simp [beats, ha, hb]

/-- R39: without a thermal order the owner of the resource decides, then the list of masters. -/
theorem beats_of_not_thermal (hne : a.master ≠ b.master) (ha : orderThermal a = false) (hb : orderThermal b = false) :
    beats a b = if a.master = orderOwner b.kind then true else if b.master = orderOwner b.kind then false
      else decide (masterRank a.master < masterRank b.master) := by
  simp [beats, hne, ha, hb]

/-- R39: of two orders of different masters on one owner's resource, exactly one wins. -/
theorem beats_eq_not_of_owner (hne : a.master ≠ b.master) (ha : orderThermal a = false) (hb : orderThermal b = false)
    (ho : orderOwner a.kind = orderOwner b.kind) : beats a b = !beats b a := by
  have hrank : masterRank a.master ≠ masterRank b.master := fun h => hne (masterRank_injective h)
  rw [beats_of_not_thermal hne ha hb, beats_of_not_thermal hne.symm hb ha, ho]
  by_cases hao : a.master = orderOwner b.kind
  · have hbo : b.master ≠ orderOwner b.kind := fun h => hne (hao.trans h.symm)
    simp [hao, hbo]
  · by_cases hbo : b.master = orderOwner b.kind
    · simp [hao, hbo]
    · rw [if_neg hao, if_neg hbo, if_neg hbo, if_neg hao, ← decide_not]
      exact decide_eq_decide.mpr (by omega)

/-- R39: of two orders of different masters, one of them thermal, exactly one wins. -/
theorem beats_eq_not_of_thermal (hne : a.master ≠ b.master) (h : orderThermal a = true) : beats a b = !beats b a := by
  have hb : orderThermal b = false :=
    Bool.eq_false_iff.mpr fun hb => hne ((master_of_orderThermal h).trans (master_of_orderThermal hb).symm)
  rw [beats_of_thermal hne h, beats_of_rival_thermal hb h]
  rfl

end

/-- Settles O41: a thermal order decides (`beats_eq_not_of_thermal`); with none, neither order parks, so the resource has one owner
(`orderOwner_eq_of_contradicts`) and `beats_eq_not_of_owner` decides. -/
theorem orderArbitration : Obligations.OrderArbitration := by
  intro a b
  refine ⟨contradicts_comm _ _, beats_of_same, fun hne hc pa pb => ⟨?_, beats_of_thermal hne, fun ha hb ho => ?_⟩⟩
  · by_cases ha : orderThermal a = true
    · exact beats_eq_not_of_thermal hne ha
    by_cases hb : orderThermal b = true
    · rw [beats_eq_not_of_thermal (Ne.symm hne) hb, Bool.not_not]
    refine beats_eq_not_of_owner hne (Bool.eq_false_iff.mpr ha) (Bool.eq_false_iff.mpr hb) ?_
    rcases orderOwner_eq_of_contradicts hc with ho | ⟨g, hk⟩ | ⟨g, hk⟩
    · exact ho
    · exact absurd (orderThermal_of_park hk (pa ⟨g, .inl hk⟩)) ha
    · exact absurd (orderThermal_of_park hk (pb ⟨g, .inl hk⟩)) hb
  · rw [beats_of_not_thermal hne ha hb, if_pos ho]

end Sys2Proof.Machine
end

-- The settling of the part's own family: the DMA channels and the engines of the Groves.
section

namespace Sys2Proof.Machine

/-- R492: a part that is on carries out the effect. -/
theorem whileOn_next {f : State → State} {s t : State} (hon : isOn s = true) (h : f s = t) : whileOn f s = .next t :=
  congrArg _ ((if_pos hon).trans h)

/-- R5, R574: a write of the host that is served has its effect. -/
theorem whileServed_next {off : Nat} {f : State → State} {s t : State} (hserved : hostServed s off = true) (h : f s = t) :
    whileServed off f s = .next t := (whileServed_of_served hserved).trans (congrArg _ h)

/-! ### Enables and disables in each state (R43) -/

section
variable {fn : Fn} {c : Cmd}

theorem fnEnable_of_disabled (h : fn.state = .disabled) : fnEnable fn c = (fn, .carryOut) := by simp only [fnEnable, h]
theorem fnEnable_of_enabled (h : fn.state = .enabled) : fnEnable fn c = (fn, .okNow) := by simp only [fnEnable, h]
theorem fnEnable_of_draining (h : fn.state = .draining) :
    fnEnable fn c = ({ fn with state := .drainingDeferred, deferred := [c] }, .deferred) := by simp only [fnEnable, h]
theorem fnEnable_of_drainingDeferred (h : fn.state = .drainingDeferred) :
    fnEnable fn c = ({ fn with deferred := fn.deferred ++ [c] }, .deferred) := by simp only [fnEnable, h]
theorem fnDisable_of_disabled (h : fn.state = .disabled) : fnDisable fn c = (fn, .okNow) := by simp only [fnDisable, h]
theorem fnDisable_of_enabled (h : fn.state = .enabled) :
    fnDisable fn c = ({ fn with state := .draining, disables := [c] }, .start) := by simp only [fnDisable, h]
theorem fnDisable_of_draining (h : fn.state = .draining) :
    fnDisable fn c = ({ fn with disables := fn.disables ++ [c] }, .joins []) := by simp only [fnDisable, h]
theorem fnDisable_of_drainingDeferred (h : fn.state = .drainingDeferred) :
    fnDisable fn c = ({ state := .draining, deferred := [], disables := fn.disables ++ [c] }, .joins fn.deferred) := by
  simp only [fnDisable, h]

end

/-! ### DMA_SUBMIT and DMA_STOP (R354, R355, R358) -/

/-- The channel that a command names, once the command has started. -/
abbrev chanNamed (c : Cmd) (s : State) : Bulk := bulkOf (startCmd c s) (bits (par c 0) 5 0)

section
variable {c : Cmd} {s : State}

/-- R354: the channel is free, or the command's own context has it. -/
def ownChannel (c : Cmd) (s : State) : Prop := (chanNamed c s).fn.state = .disabled ∨ (chanNamed c s).ctx = some c.ctx

theorem dmaSubmit_of_bad (h : submitBad c = true) : dmaSubmit c s = badPacket c 0 (startCmd c s) := if_pos h

theorem dmaSubmit_of_other (h : submitBad c = false) (ho : ¬ownChannel c s) :
    dmaSubmit c s = complete c stNoResource 0 0 (startCmd c s) := by
  obtain ⟨hd, hc⟩ := not_or.mp ho
  simp only [dmaSubmit, h, Bool.false_eq_true, if_false]
  exact if_pos (by simp [hd, hc])

/-- R43, R354: DMA_SUBMIT of an own channel is an enable of its function. -/
theorem dmaSubmit_of_own (h : submitBad c = false) (ho : ownChannel c s) :
    dmaSubmit c s = match fnEnable (chanNamed c s).fn c with
      | (_, .carryOut) => bulkEnable c (startCmd c s)
      | (_, .okNow) => completeOk c 0 (startCmd c s)
      | (fn, .deferred) => complete c stDeferred 0 0 (setBulk (bits (par c 0) 5 0) { chanNamed c s with fn := fn } (startCmd c s)) := by
  simp only [dmaSubmit, h, Bool.false_eq_true, if_false]
  exact if_neg (by rcases ho with ho | ho <;> simp [ho])

/-- R43, R358: DMA_STOP of an own channel is a disable of its function. -/
theorem dmaStop_of_own (h : bits (par c 0) 63 6 = 0) (ho : ownChannel c s) :
    dmaStop c s = match fnDisable (chanNamed c s).fn c with
      | (_, .okNow) => completeOk c 0 (startCmd c s)
      | (fn, .start) =>
        let v := setBulk (bits (par c 0) 5 0) { chanNamed c s with fn := fn } (startCmd c s)
        if (chanNamed c s).held.isNone && !isWaiting v (.bulk (bits (par c 0) 5 0)) then bulkStopped (bits (par c 0) 5 0) v else v
      | (fn, .joins cs) => cancelDeferred cs (setBulk (bits (par c 0) 5 0) { chanNamed c s with fn := fn } (startCmd c s)) := by
  simp only [dmaStop, h, ne_eq, not_true_eq_false, if_false]
  exact if_neg (by rcases ho with ho | ho <;> simp [ho])

end

/-! ### The channels' rings (R344, R356) -/

theorem dmaTailWrite_of_enabled {n value : Nat} {s : State} (h : (bulkOf s n).fn.state = .enabled) :
    dmaTailWrite n value s = setBulk n { bulkOf s n with tail := value % 2 ^ 16 % (bulkOf s n).size } s := if_neg (by simp [h])

theorem runAcc_of_ok {α : Type} {w : Work} {a : Acc α} {ok : α → State → State} {bad : Flt → State → State} {s u : State} {x : α}
    (h : a s = .ok (x, u)) : runAcc w a ok bad s = ok x (clearWork w u) := by simp only [runAcc, h]

/-- R356: an enabled channel that holds no entry fetches the one at its head. -/
theorem bulkStart_of_read {n : Nat} {l : List Byte} {s u : State} (ha : accepting s = true) (he : (bulkOf s n).fn.state = .enabled)
    (hh : (bulkOf s n).held = none) (ht : (bulkOf s n).head ≠ (bulkOf s n).tail)
    (hr : ctxRead (.bulk n) ((bulkOf s n).ctx.getD 0) ((bulkOf s n).base + 64 * (bulkOf s n).head) 64 s = .ok (l, u)) :
    let d := descOf ((bulkOf s n).base + 64 * (bulkOf s n).head) l none
    bulkStart n s = setBulk n { bulkOf s n with held := some { d with
      started := true
      crc := crcInit d.crcSel
      out := if d.malformed false then some (stDescBad, Flt.illegal.code) else none } } (clearWork (.bulk n) u) := by
  have hgo : (!accepting s || (bulkOf s n).fn.state == .disabled || (bulkOf s n).held.isSome || (bulkOf s n).head == (bulkOf s n).tail ||
      ((bulkOf s n).fn.state != .enabled && !isWaiting s (.bulk n))) = false := by simp [ha, he, hh, ht]
  simp only [bulkStart, hgo, Bool.false_eq_true, if_false, runAcc_of_ok hr]

/-! ### The engines of the Groves (R360 to R362) -/

/-- R360: an engine that is on and enabled starts the descriptor at its head; one for a ring needs the ring ID. -/
theorem groveStart_of_head {k : Nat} {d : Desc} {rest : List Desc} {s : State} (hq : (gdmaOf s k).queue = d :: rest)
    (hd : (gdmaOf s k).disabled = false) (hs : d.started = false) (he : engineOn s k = true)
    (hr : d.dstRing = true → ringIdFree s ((groveOf s k).ctx.getD 0) (d.dst % 2 ^ 16) (.gdma k) = true) :
    groveStart k s = setGdma k { gdmaOf s k with queue := { d with started := true, crc := crcInit d.crcSel } :: rest }
      (if d.dstRing then ringClaim ((groveOf s k).ctx.getD 0) (d.dst % 2 ^ 16) (.gdma k) s else s) := by
  have hgo : ((gdmaOf s k).disabled || d.started || !engineOn s k ||
      (d.dstRing && !ringIdFree s ((groveOf s k).ctx.getD 0) (d.dst % 2 ^ 16) (.gdma k))) = false := by simpa [hd, hs, he] using hr
  simp only [groveStart, hq, hgo, Bool.false_eq_true, if_false]

/-- R362: the engine of a Grove that runs or is being saved is not disabled. -/
theorem gdmaDisable_of_busy {k : Nat} {s : State} (h : (groveOf s k).ctx.isSome = true ∨ k ∈ s.sched.saving) :
    gdmaDisable k s = count (Reg.GDMA_CNT_DISABLE_REFUSED k) s := if_pos (by simpa using h)

theorem gdmaDisable_of_idle {k : Nat} {s : State} (hc : (groveOf s k).ctx = none) (hs : k ∉ s.sched.saving) :
    gdmaDisable k s = regPut (Reg.GDMA_CNT_BYTES k) (Config.undef s.free).toNat
      (regField (Reg.GDMA_CTL k) 0 0 1 (clearWork (.gdma k) (setGdma k { disabled := true } (s.setFree (s.free + 1))))) :=
  if_neg (by simp [hc, hs])

/-- Settles O25: DMA_SUBMIT and DMA_STOP by the state of the channel's function (`dmaSubmit_of_own`, `dmaStop_of_own`), then the rings
and the engines of the Groves. -/
theorem dmaChannelsAndGroveEngines : Obligations.DmaChannelsAndGroveEngines := by
  refine ⟨fun s hon => ⟨fun c => ⟨?_, ?_, ?_, ?_, ?_, ?_⟩, fun c hz => ⟨?_, ?_, ?_, ?_⟩, ?_, ?_⟩,
    fun s k => ⟨?_, ?_, fun hserved => ⟨?_, ?_, ?_, ?_⟩⟩⟩
  · exact fun hb => whileOn_next hon (dmaSubmit_of_bad hb)
  · exact fun hb hd hc => whileOn_next hon (dmaSubmit_of_other hb (not_or.mpr ⟨hd, hc⟩))
  · exact fun hb hst => whileOn_next hon (by rw [dmaSubmit_of_own hb (.inl hst), fnEnable_of_disabled hst])
  · exact fun hb hst hc => whileOn_next hon (by rw [dmaSubmit_of_own hb (.inr hc), fnEnable_of_enabled hst])
  · exact fun hb hst hc => whileOn_next hon (by rw [dmaSubmit_of_own hb (.inr hc), fnEnable_of_draining hst])
  · exact fun hb hst hc => whileOn_next hon (by rw [dmaSubmit_of_own hb (.inr hc), fnEnable_of_drainingDeferred hst])
  · exact fun hst => whileOn_next hon (by rw [dmaStop_of_own hz (.inl hst), fnDisable_of_disabled hst])
  · intro hst hc
    have hx := whileOn_next hon (dmaStop_of_own hz (.inr hc))
    rw [fnDisable_of_enabled hst] at hx
    refine ⟨fun hh => hx.trans (congrArg _ (if_neg fun hidle => ?_)), fun hh hw => hx.trans (congrArg _ (if_pos ?_))⟩
    · exact Option.not_isSome_iff_eq_none.mpr (Option.isNone_iff_eq_none.mp (Bool.and_eq_true_iff.mp hidle).1) hh
    · exact Bool.and_eq_true_iff.mpr ⟨Option.isNone_iff_eq_none.mpr hh, (Bool.not_eq_true' _).mpr hw⟩
  · intro hst hc
    refine whileOn_next hon ?_
    rw [dmaStop_of_own hz (.inr hc), fnDisable_of_draining hst]
    rfl
  · intro hst hc
    refine whileOn_next hon ?_
    rw [dmaStop_of_own hz (.inr hc), fnDisable_of_drainingDeferred hst]
    rfl
  · exact fun n value hserved he => whileServed_next hserved (dmaTailWrite_of_enabled he)
  · exact fun n l u ha he hh ht hr => whileOn_next hon (bulkStart_of_read ha he hh ht hr)
  · intro d rest hon hq hd hs he hr
    refine whileOn_next hon ?_
    rw [groveStart_of_head hq hd hs he (by simp [hr]), hr]
    rfl
  · intro d rest hon hq hd hs he hr hfree
    refine whileOn_next hon ?_
    rw [groveStart_of_head hq hd hs he (fun _ => hfree), hr]
    rfl
  · exact fun hbusy => whileServed_next hserved (gdmaDisable_of_busy hbusy)
  · exact fun hc hs => ⟨_, _, whileServed_next hserved (gdmaDisable_of_idle hc hs)⟩
  · exact fun hd => whileServed_next hserved (if_pos hd)
  · exact fun hd => whileServed_next hserved (if_neg (by simp [hd]))

end Sys2Proof.Machine
end

-- The settling of the part's own family: enables and disables, and the commands on contexts and partitions.
section

namespace Sys2Proof.Machine

/-! ### Orders that a command is (R38 to R40) -/

section
variable {c : Cmd} {k : OrderKind} {rivals : List Order} {effect : State → State} {s : State}

theorem ordered_of_loses {w : Order} (h : losesTo (cmdOrder c k) rivals = some w) :
    ordered c k rivals effect s = complete c stConflict 0 (winnerWord w) s := by simp only [ordered, h]

theorem ordered_of_wins (h : losesTo (cmdOrder c k) rivals = none) : ordered c k rivals effect s = effect s := by
  simp only [ordered, h]

end

section
variable {c : Cmd} {s : State}

/-! ### CTX_CREATE and CTX_DESTROY (R415 to R419) -/

theorem ctxCreateRun_of_refused (h : fromAdmin c = false ∨ bits (par c 0) 13 0 = 0) : ctxCreateRun c s = badPacket c 0 s :=
  if_pos (by simpa using h)

section
variable (ha : fromAdmin c = true) (hid : bits (par c 0) 13 0 ≠ 0) (hm : s.xyl.maint = false)
include ha hid hm

theorem ctxCreateRun_of_none (hst : (getCtx s (bits (par c 0) 13 0)).state = .none) : ctxCreateRun c s = createRun c s := by
  simp [ctxCreateRun, ha, hid, hm, hst]

theorem ctxCreateRun_of_faulted (hst : (getCtx s (bits (par c 0) 13 0)).state = .faulted) :
    ctxCreateRun c s = complete c stNoResource 0 5 s := by
  simp [ctxCreateRun, ha, hid, hm, hst]

theorem ctxCreateRun_of_draining (hst : (getCtx s (bits (par c 0) 13 0)).state = .draining) :
    ctxCreateRun c s = complete c stDeferred 0 0
      (updCtx (bits (par c 0) 13 0) (fun x => { x with state := .drainingDeferred, deferred := x.deferred ++ [c] }) s) := by
  simp [ctxCreateRun, ha, hid, hm, hst]

theorem ctxCreateRun_of_existing (hst : (getCtx s (bits (par c 0) 13 0)).state = .resident ∨ (getCtx s (bits (par c 0) 13 0)).state = .out) :
    ctxCreateRun c s = completeOk c 0 s := by
  rcases hst with hst | hst <;> simp [ctxCreateRun, ha, hid, hm, hst]

end

theorem ctxDestroyRun_of_refused (h : fromAdmin c = false ∨ bits (par c 0) 13 0 = 0 ∨ bits (par c 0) 63 14 ≠ 0) :
    ctxDestroyRun c s = badPacket c 0 s :=
  if_pos (by simpa [or_assoc] using h)

theorem ctxDestroyRun_of_admin (ha : fromAdmin c = true) (hid : bits (par c 0) 13 0 ≠ 0) (hz : bits (par c 0) 63 14 = 0)
    (hc : c ∉ (getCtx s (bits (par c 0) 13 0)).destroys) : ctxDestroyRun c s = destroyRun (bits (par c 0) 13 0) (some c) s := by
  simp [ctxDestroyRun, ha, hid, hz, hc]

theorem destroyRun_of_none {id : Nat} (h : (getCtx s id).state = .none) : destroyRun id (some c) s = completeOk c 0 s := by
  simp only [destroyRun, h]

/-- R417: the destroy of a context that exists tears it down. -/
theorem destroyRun_of_existing {id : Nat} {o : Option Cmd} (h : (getCtx s id).state = .resident ∨ (getCtx s id).state = .out) :
    destroyRun id o s = updCtx id (fun x => { x with destroys := x.destroys ++ o.toList }) (tear id none .draining s) := by
  rcases h with h | h <;> simp only [destroyRun, h]

/-! ### CTX_PARTITION (R413, R414) -/

/-- R412, R413: the source or the fields of a CTX_PARTITION are not allowed. -/
def partRefused (c : Cmd) : Bool :=
  !fromAdmin c || bits (par c 0) 63 6 ≠ 0 || (!bit (par c 0) 4 && (bits (par c 1) 63 48 ≠ 0 || bit (partAsked c).ways 31 ||
    (partAsked c).groups == 0 || (partAsked c).groves == 0))

theorem partRefused_of_member (h : fromAdmin c = false) : partRefused c = true := by simp [partRefused, h]

theorem partRefused_eq_false (ha : fromAdmin c = true) (hz : bits (par c 0) 63 6 = 0)
    (hq : bit (par c 0) 4 = true ∨ (bits (par c 1) 63 48 = 0 ∧ bit (partAsked c).ways 31 = false ∧ (partAsked c).groups ≠ 0 ∧
      (partAsked c).groves ≠ 0)) : partRefused c = false := by
  rcases hq with hq | ⟨hw, hways, hgroups, hgroves⟩
  · simp [partRefused, ha, hz, hq]
  · simp [partRefused, ha, hz, hw, hways, hgroups, hgroves]

theorem ctxPartitionRun_of_refused (h : partRefused c = true) : ctxPartitionRun c s = badPacket c 0 s := if_pos h

section
variable (hf : partRefused c = false)
include hf

theorem ctxPartitionRun_of_held {j : Nat} (hj : heldByOther s (bits (par c 0) 3 0) (partAsked c) = some j) :
    ctxPartitionRun c s = complete c stNoResource 0 (j + 16) s := by
  refine (if_neg (Bool.eq_false_iff.mp hf)).trans ?_
  simp only [hj]
  rfl

theorem ctxPartitionRun_of_used (hj : heldByOther s (bits (par c 0) 3 0) (partAsked c) = none)
    (hu : ∃ x ∈ s.sched.ctxs, x.part = bits (par c 0) 3 0 ∧ x.id ≠ 0 ∧ x.state ≠ .none) :
    ctxPartitionRun c s = complete c stNoResource 0 32 s := by
  refine (if_neg (Bool.eq_false_iff.mp hf)).trans ?_
  simp only [hj]
  exact if_pos (by simpa [and_assoc] using hu)

/-- R414, R165: an assignment takes effect at once unless groups that it gives up are to be scrubbed. -/
theorem ctxPartitionRun_of_unused (hj : heldByOther s (bits (par c 0) 3 0) (partAsked c) = none)
    (hu : ∀ x ∈ s.sched.ctxs, x.part = bits (par c 0) 3 0 → x.id ≠ 0 → x.state = .none)
    (he : bit (par c 0) 4 = false ∨ (partOf s (bits (par c 0) 3 0)).exist = true) :
    ctxPartitionRun c s =
      let old := partOf s (bits (par c 0) 3 0)
      let leave := maskBits 16 (old.groups &&& (0xFFFF ^^^ (partAsked c).groups))
      let v := endTraceIn (old.groups ^^^ (partAsked c).groups) s
      if leave = [] then partApply ⟨c, bits (par c 0) 3 0, partAsked c, [], 0⟩ v
      else v.setSched { v.sched with partOps := v.sched.partOps ++ [⟨c, bits (par c 0) 3 0, partAsked c, leave, leave.length⟩] } := by
  have hused : (s.sched.ctxs.any fun x => x.part == bits (par c 0) 3 0 && x.id != 0 && x.state != .none) = false := by simpa using hu
  have habsent : (bit (par c 0) 4 && !(partOf s (bits (par c 0) 3 0)).exist) = false := by rcases he with he | he <;> simp [he]
  refine (if_neg (Bool.eq_false_iff.mp hf)).trans ?_
  simp only [hj, hused, habsent, Bool.false_eq_true, if_false, List.isEmpty_iff]
  split
  · simp only [*, List.length_nil]
  · rfl

end

/-- R414: no CTX_PARTITION of the partition waits for its scrubs. -/
theorem ctxPartition_of_free {rivals : List Order} (h : ∀ o ∈ (startCmd c s).sched.partOps, o.part ≠ bits (par c 0) 3 0) :
    ctxPartition c rivals s = ordered c (.partition (bits (par c 0) 3 0) (partAsked c).exist (partAsked c).exact (partAsked c).groups
      (partAsked c).ways (partAsked c).groves) rivals (ctxPartitionRun c) (startCmd c s) := if_neg (by simpa using h)

/-! ### CTX_PIN (R434) -/

/-- The context that a CTX_PIN names. -/
abbrev pinCtx (c : Cmd) (s : State) : Ctx := getCtx s (bits (par c 0) 13 0)

/-- R434: the fields or the source of a CTX_PIN are not allowed. -/
def pinBad (c : Cmd) (s : State) : Prop :=
  bits (par c 0) 63 15 ≠ 0 ∨ bits (par c 0) 13 0 = 0 ∨ ctxExists s (bits (par c 0) 13 0) = false ∨
    (fromAdmin c = false ∧ c.ctx ≠ bits (par c 0) 13 0) ∨
    2 ^ (partGroves (partOf s (pinCtx c s).part)).length ≤ par c 1 + par c 2 * 2 ^ 64

/-- The Boolean that the model tests is `pinBad`. -/
theorem pinBad_iff : (bits (par c 0) 63 15 ≠ 0 || bits (par c 0) 13 0 = 0 || !ctxExists s (bits (par c 0) 13 0) ||
      !(fromAdmin c || c.ctx == bits (par c 0) 13 0) ||
      decide (2 ^ (partGroves (partOf s (getCtx s (bits (par c 0) 13 0)).part)).length ≤ par c 1 + par c 2 * 2 ^ 64)) = true ↔ pinBad c s := by
  simp [pinBad, or_assoc]

theorem ctxPinRun_of_bad (h : pinBad c s) : ctxPinRun c s = badPacket c 0 s := if_pos (pinBad_iff.mpr h)

section
variable (hb : ¬pinBad c s)
include hb

theorem ctxPinRun_of_ending (hst : (pinCtx c s).state = .faulted ∨ (pinCtx c s).state = .draining ∨ (pinCtx c s).state = .drainingDeferred) :
    ctxPinRun c s = complete c stNoResource 0 0 s :=
  (if_neg (mt pinBad_iff.mp hb)).trans (if_pos (by simpa [or_assoc] using hst))

variable (hst : (pinCtx c s).state = .resident ∨ (pinCtx c s).state = .out)
include hst

/-- R434: a CTX_PIN of a context that runs. -/
theorem ctxPinRun_of_running :
    ctxPinRun c s =
      if bit (par c 0) 14 && (decide (resLimit s ≤ (s.sched.ctxs.filter fun y => y.pinned && y.id != bits (par c 0) 13 0).length + 1) ||
          (pinGroves (partOf s (pinCtx c s).part) (par c 1 + par c 2 * 2 ^ 64)).any (reservedForOther s (bits (par c 0) 13 0))) then
        complete c stNoResource 0 0 s
      else if !bit (par c 0) 14 then completeOk c 0 (updCtx (bits (par c 0) 13 0) (fun x => { x with pinned := false, pinMask := 0 }) s)
      else
        let v := updCtx (bits (par c 0) 13 0)
          (fun x => { x with pinned := true, pinMask := par c 1 + par c 2 * 2 ^ 64, pinCmds := x.pinCmds ++ [c] }) s
        pinSettle (bits (par c 0) 13 0)
          ((holders v (bits (par c 0) 13 0) (pinGroves (partOf s (pinCtx c s).part) (par c 1 + par c 2 * 2 ^ 64))).foldl
            (fun s m => preempt m.ctx false s) v) :=
  (if_neg (mt pinBad_iff.mp hb)).trans (if_neg (by rcases hst with h | h <;> simp [h]))

theorem ctxPinRun_of_off (hoff : bit (par c 0) 14 = false) :
    ctxPinRun c s = completeOk c 0 (updCtx (bits (par c 0) 13 0) (fun x => { x with pinned := false, pinMask := 0 }) s) := by
  rw [ctxPinRun_of_running hb hst, if_neg (by simp [hoff]), if_pos (by simp [hoff])]

variable (hon : bit (par c 0) 14 = true)
include hon

theorem ctxPinRun_of_full
    (hfull : resLimit s ≤ (s.sched.ctxs.filter fun y => y.pinned && y.id != bits (par c 0) 13 0).length + 1 ∨
      ∃ k ∈ pinGroves (partOf s (pinCtx c s).part) (par c 1 + par c 2 * 2 ^ 64), reservedForOther s (bits (par c 0) 13 0) k = true) :
    ctxPinRun c s = complete c stNoResource 0 0 s :=
  (ctxPinRun_of_running hb hst).trans (if_pos (by simpa [hon] using hfull))

theorem ctxPinRun_of_room
    (hroom : (s.sched.ctxs.filter fun y => y.pinned && y.id != bits (par c 0) 13 0).length + 1 < resLimit s)
    (hgs : ∀ k ∈ pinGroves (partOf s (pinCtx c s).part) (par c 1 + par c 2 * 2 ^ 64), reservedForOther s (bits (par c 0) 13 0) k = false) :
    ctxPinRun c s =
      let v := updCtx (bits (par c 0) 13 0)
        (fun x => { x with pinned := true, pinMask := par c 1 + par c 2 * 2 ^ 64, pinCmds := x.pinCmds ++ [c] }) s
      pinSettle (bits (par c 0) 13 0)
        ((holders v (bits (par c 0) 13 0) (pinGroves (partOf s (pinCtx c s).part) (par c 1 + par c 2 * 2 ^ 64))).foldl
          (fun s m => preempt m.ctx false s) v) := by
  rw [ctxPinRun_of_running hb hst, if_neg (by simpa [hon, Nat.not_le.mpr hroom] using hgs), if_neg (by simp [hon])]

end

/-- R434: a pin that does not wait already is an order of its window. -/
theorem ctxPin_of_new {rivals : List Order} (h : ∀ x ∈ s.sched.ctxs, c ∉ x.pinCmds) :
    ctxPin c rivals s = ordered c (pinOrder (startCmd c s) c) rivals (ctxPinRun c) (startCmd c s) := if_neg (by simpa using h)

/-! ### The administrative context (R411) and a teardown's end (R417) -/

theorem updFirst_eq_self {α : Type} {p : α → Bool} {f : α → α} (h : ∀ x, f x = x) : ∀ l : List α, updFirst p f l = l
  | [] => rfl
  | x :: xs => by simp [updFirst, h, updFirst_eq_self h xs]

theorem updCtx_eq_self {ctx : Nat} {f : Ctx → Ctx} (h : ∀ x, f x = x) : updCtx ctx f s = s := by
  simp only [updCtx, updFirst_eq_self h]
  rfl

/-- R411: the destroy by the register adds no command to answer. -/
theorem destroyRun_of_register {id : Nat} (h : (getCtx s id).state = .resident) : destroyRun id none s = tear id none .draining s := by
  rw [destroyRun_of_existing (.inl h)]
  exact updCtx_eq_self fun x => by simp

theorem adminDestroy_of_none {pasid : Nat} (h : (getCtx (regField Reg.CTX_ADMIN_CTL 20 0 (pasid % 2 ^ 20) s) 0).state = .none) :
    adminDestroy pasid s = regField Reg.CTX_ADMIN_CTL 20 0 (pasid % 2 ^ 20) s := if_pos (beq_iff_eq.mpr h)

theorem adminDestroy_of_resident {pasid : Nat} (h : (getCtx (regField Reg.CTX_ADMIN_CTL 20 0 (pasid % 2 ^ 20) s) 0).state = .resident) :
    adminDestroy pasid s = tear 0 none .draining (regField Reg.CTX_ADMIN_CTL 20 0 (pasid % 2 ^ 20) s) :=
  (if_neg (by rw [h]; decide)).trans (destroyRun_of_register h)

theorem contextTeardownEnd_of_not_ended {ctx : Nat} (h : (getCtx s ctx).state ≠ .draining ∧ (getCtx s ctx).state ≠ .drainingDeferred ∨
    tearFinished s ctx = false) : contextTeardownEnd ctx s = s := if_pos (by simpa using h)

theorem contextTeardownEnd_of_ended {ctx : Nat} (hst : (getCtx s ctx).state = .draining) (hf : tearFinished s ctx = true) (h0 : ctx ≠ 0)
    (hd : (getCtx s ctx).deferred = []) :
    contextTeardownEnd ctx s =
      let x := getCtx s ctx
      let u := clearWork (.record ctx) s
      let u := freeCtxMemory x (u.setSched { u.sched with ctxs := u.sched.ctxs.filter fun y => y.id != ctx })
      concludeDisables x.destroys
        (x.records.foldl (fun s p => if p.silent then s else divert p.record 3 (x.cpl.base + 32 * x.cpl.prod) s) u) := by
  simp [contextTeardownEnd, hst, hf, h0, hd, beginFresh]

end

/-- Settles O27: R43's table (`fnEnable_of_disabled` and its like), then each order by who wins its window (`ordered_of_loses`,
`ordered_of_wins`) and by the context's or the partition's state. -/
theorem functionsAndContextOrders : Obligations.FunctionsAndContextOrders := by
  refine ⟨fun fn c => ⟨fun h => ?_, fun h => ?_, fun h => ?_, fun h => ?_⟩, fun s c rivals =>
    ⟨fun hon => ⟨fun w hw => ?_, fun hw => ?_, fun w hw => ?_, fun hw => ?_, fun hfree => ⟨fun w hw => ?_, fun hw => ?_⟩,
      fun hnew => ⟨fun w hw => ?_, fun hw => ?_⟩⟩, fun pasid hserved => ⟨?_, ?_, ?_, ?_, ?_⟩, fun ctx hon => ⟨?_, ?_⟩⟩⟩
  · exact ⟨fnEnable_of_disabled h, fnDisable_of_disabled h⟩
  · simp [fnEnable_of_enabled h, fnDisable_of_enabled h]
  · simp [fnEnable_of_draining h, fnDisable_of_draining h, h]
  · simp [fnEnable_of_drainingDeferred h, fnDisable_of_drainingDeferred h, h]
  · exact whileOn_next hon (ordered_of_loses hw)
  · have run : ctxCreate c rivals s = ctxCreateRun c (startCmd c s) := ordered_of_wins hw
    refine ⟨fun h => whileOn_next hon (run.trans (ctxCreateRun_of_refused h)), fun ha hid hm => ⟨?_, ?_, ?_, ?_⟩⟩
    · exact fun h => whileOn_next hon (run.trans (ctxCreateRun_of_none ha hid hm h))
    · exact fun h => whileOn_next hon (run.trans (ctxCreateRun_of_faulted ha hid hm h))
    · exact fun h => whileOn_next hon (run.trans (ctxCreateRun_of_draining ha hid hm h))
    · exact fun h => whileOn_next hon (run.trans (ctxCreateRun_of_existing ha hid hm h))
  · exact whileOn_next hon (ordered_of_loses hw)
  · have run : ctxDestroy c rivals s = ctxDestroyRun c (startCmd c s) := ordered_of_wins hw
    refine ⟨fun h => whileOn_next hon (run.trans (ctxDestroyRun_of_refused h)), fun ha hid hz hc => ?_⟩
    have admin := run.trans (ctxDestroyRun_of_admin ha hid hz hc)
    exact ⟨fun h => whileOn_next hon (admin.trans (destroyRun_of_none h)), fun h => whileOn_next hon (admin.trans (destroyRun_of_existing h))⟩
  · exact whileOn_next hon ((ctxPartition_of_free hfree).trans (ordered_of_loses hw))
  · have run : ctxPartition c rivals s = ctxPartitionRun c (startCmd c s) := (ctxPartition_of_free hfree).trans (ordered_of_wins hw)
    refine ⟨fun h => whileOn_next hon (run.trans (ctxPartitionRun_of_refused (partRefused_of_member h))), fun ha hz hq => ?_⟩
    have hf := partRefused_eq_false ha hz hq
    exact ⟨fun j hj => whileOn_next hon (run.trans (ctxPartitionRun_of_held hf hj)),
      fun hj hu => whileOn_next hon (run.trans (ctxPartitionRun_of_used hf hj hu)),
      fun hj hu he => whileOn_next hon (run.trans (ctxPartitionRun_of_unused hf hj hu he))⟩
  · exact whileOn_next hon ((ctxPin_of_new hnew).trans (ordered_of_loses hw))
  · have run : ctxPin c rivals s = ctxPinRun c (startCmd c s) := (ctxPin_of_new hnew).trans (ordered_of_wins hw)
    refine ⟨fun hb => whileOn_next hon (run.trans (ctxPinRun_of_bad hb)), fun hb hst => whileOn_next hon (run.trans (ctxPinRun_of_ending hb hst)),
      fun hb hst => ⟨?_, ?_, ?_⟩⟩
    · exact fun hoff => whileOn_next hon (run.trans (ctxPinRun_of_off hb hst hoff))
    · exact fun hpin hfull => whileOn_next hon (run.trans (ctxPinRun_of_full hb hst hpin hfull))
    · exact fun hpin hroom hgs => whileOn_next hon (run.trans (ctxPinRun_of_room hb hst hpin hroom hgs))
  · exact fun h => whileServed_next hserved (by simp only [adminCreate, h])
  · exact fun h => whileServed_next hserved (by simp only [adminCreate, h])
  · exact fun h => whileServed_next hserved (by simp only [adminCreate, h])
  · exact fun h => whileServed_next hserved (adminDestroy_of_none h)
  · exact fun h => whileServed_next hserved (adminDestroy_of_resident h)
  · exact fun h => whileOn_next hon (contextTeardownEnd_of_not_ended h)
  · exact fun hst hf h0 hd => whileOn_next hon (contextTeardownEnd_of_ended hst hf h0 hd)

end Sys2Proof.Machine
end

-- The settling of the part's own family: the Chords, discovery and election.
section

namespace Sys2Proof.Machine

/-! ### Training (R439, R442) -/

section
variable {s : State} {n : Nat}

/-- R439: a Chord that is off, or whose link cannot run, does not train. -/
theorem chordTrained_of_off {ok : Bool}
    (h : (chordOf s n).fn.state = .disabled ∨ s.hl.perstLow = true ∨ serdesLocked s n = false) : chordTrained n ok s = s :=
  if_pos (by rcases h with h | h | h <;> simp [h])

section
variable (hn : n < 16) (hp : s.hl.perstLow = false) (hf : (chordOf s n).fn.state ≠ .disabled) (hl : serdesLocked s n = true)
include hn hp hf hl

theorem chordTrained_of_down {ok : Bool} (hu : (chordOf s n).up = false) (hr : (chordOf s n).retraining = false) :
    chordTrained n ok s = if ok then pumpWaiting (chordPump 512 n
        (setChord n { fn := (chordOf s n).fn, up := true, credits := linkBuffers, txq := (chordOf s n).txq } (count (Reg.CHORD_CNT_RETRAIN n) s)))
      else count (Reg.CHORD_CNT_RETRAIN n) s := by
  cases ok <;> simp [chordTrained, hn, hp, hf, hl, hu, hr]

theorem chordTrained_of_retraining (hr : (chordOf s n).retraining = true) :
    chordTrained n true s =
      pumpWaiting (chordPump 512 n (setChord n { chordOf s n with retraining := false, badRun := 0, replays := [] } s)) := by
  simp [chordTrained, hn, hp, hf, hl, hr]

end

/-- R442: a retrain that has not completed in time takes the Chord down. -/
theorem retrainTimeout_of_retraining (h : (chordOf s n).retraining = true) : retrainTimeout n s = chordFail n s := if_pos h

theorem retrainTimeout_of_trained (h : (chordOf s n).retraining = false) : retrainTimeout n s = s := if_neg (Bool.eq_false_iff.mp h)

theorem exec_chordRetrainTimeout_of_on (hon : isOn s = true) :
    exec (.chordRetrainTimeout n) s = .next (resumeReady (retrainTimeout n s)) := congrArg _ (if_pos hon)

/-! ### Flits (R442 to R445) -/

theorem flitIn_of_unreceived {b : List Byte} (h : (chordOf s n).up = false ∨ (chordOf s n).retraining = true ∨ b.length ≠ 256) :
    flitIn n b s = s := if_pos (by rcases h with h | h | h <;> simp [h])

section
variable {b : List Byte} (hn : n < 16) (hup : (chordOf s n).up = true) (hr : (chordOf s n).retraining = false) (hlen : b.length = 256)
include hn hup hr hlen

theorem flitIn_of_bad (hcrc : leAt b 248 8 ≠ crc64 (b.take 248)) : flitIn n b s = flitBad n s := by
  simp [flitIn, hn, hup, hr, hlen, hcrc]

variable (hcrc : leAt b 248 8 = crc64 (b.take 248)) (hnak : bit (leAt b 0 8) 24 = false)
  (hgo : (chordOf (setChord n ((chordOf s n).acked (bits (leAt b 0 8) 23 12)) s) n).retraining = false)
include hcrc hnak hgo

/-- R443: a flit that carries credits alone. -/
theorem flitIn_of_credits (hw : bit (leAt b 0 8) 30 = true) :
    let u := setChord n ((chordOf s n).acked (bits (leAt b 0 8) 23 12)) s
    flitIn n b s = chordPump 512 n (setChord n ((chordOf u n).granted (leAt b 0 8)) u) := by
  simp [flitIn, hn, hup, hr, hlen, hcrc, hnak, hgo, hw]

/-- R442: a flit out of sequence is discarded, but what it acknowledges is taken. -/
theorem flitIn_of_other (hw : bit (leAt b 0 8) 30 = false)
    (ho : bits (leAt b 0 8) 11 0 ≠ (chordOf (setChord n ((chordOf s n).acked (bits (leAt b 0 8) 23 12)) s) n).rxSeq ∨
      5 < bits (leAt b 0 8) 29 27) :
    flitIn n b s = setChord n ((chordOf s n).acked (bits (leAt b 0 8) 23 12)) s := by
  simp [flitIn, hn, hup, hr, hlen, hcrc, hnak, hgo, hw, ho]

/-- R444: the flit that is expected next. -/
theorem flitIn_of_next (hw : bit (leAt b 0 8) 30 = false)
    (hseq : bits (leAt b 0 8) 11 0 = (chordOf (setChord n ((chordOf s n).acked (bits (leAt b 0 8) 23 12)) s) n).rxSeq)
    (hvc : bits (leAt b 0 8) 29 27 ≤ 5) :
    let w := leAt b 0 8
    let u := setChord n ((chordOf s n).acked (bits w 23 12)) s
    let vc := bits w 29 27
    let e := (chordOf u n).granted w
    flitIn n b s = chordPump 512 n (areaIn n w (slice 8 240 b) (evt 132 0x81 (vc + n * 16) 1 none (count (Reg.CHORD_CNT_RX_FLITS n)
      (setChord n { e with rxSeq := (e.rxSeq + 1) % 4096, nak := false, badRun := 0, owe := e.owe.set vc (e.owe.getD vc 0 + 1) } u)))) := by
  simp [flitIn, hn, hup, hr, hlen, hcrc, hnak, hgo, hw, hseq, Nat.not_lt.mpr hvc, flitArea, Chord.granted]

end

/-- R442: up to the seventh failure in a row the flit is only asked for again. -/
theorem flitBad_of_few (h : (chordOf s n).badRun < 7) :
    flitBad n s = count (Reg.CHORD_CNT_CRC n) (setChord n { chordOf s n with nak := true, badRun := (chordOf s n).badRun + 1 } s) :=
  if_neg (by omega)

theorem flitBad_of_eight (h : 7 ≤ (chordOf s n).badRun) :
    flitBad n s = chordRetrain n
      (count (Reg.CHORD_CNT_CRC n) (setChord n { chordOf s n with nak := true, badRun := (chordOf s n).badRun + 1 } s)) :=
  if_pos (by omega)

/-! ### Enabling and draining of a Chord (R43, R44, R46) -/

theorem chordEnable1_of_disabled (h : (chordOf s n).fn.state = .disabled) :
    chordEnable1 n s = setChord n {} (regField (Reg.CHORD_CTL n) 0 0 1 s) := by simp only [chordEnable1, h]

theorem chordDisable1_of_disabled (h : (chordOf s n).fn.state = .disabled) : chordDisable1 n s = s := by simp only [chordDisable1, h]

theorem chordEnable1_of_enabled (h : (chordOf s n).fn.state = .enabled) : chordEnable1 n s = s := by simp only [chordEnable1, h]

theorem chordDisable1_of_enabled (h : (chordOf s n).fn.state = .enabled) :
    chordDisable1 n s = setChord n { chordOf s n with fn := { (chordOf s n).fn with state := .draining } }
      (regField (Reg.CHORD_CTL n) 0 0 0 s) := by simp only [chordDisable1, h]

/-- R46: a Chord that still has flits to send goes on draining. -/
theorem chordDrainEnd_of_queued (hu : (chordOf s n).up = true) (hq : (chordOf s n).txq ≠ []) : chordDrainEnd n s = s :=
  if_pos (by simp [hu, hq])

section
variable (he : (chordOf s n).up = true → (chordOf s n).txq = [] ∧ (chordOf s n).replay = [])
include he

theorem chordDrainEnd_of_empty : ¬((chordOf s n).up && (!(chordOf s n).txq.isEmpty || !(chordOf s n).replay.isEmpty)) = true := by
  by_cases hu : (chordOf s n).up = true
  · obtain ⟨htx, hre⟩ := he hu
    simp [htx, hre]
  · simp [hu]

theorem chordDrainEnd_of_draining (h : (chordOf s n).fn.state = .draining) : chordDrainEnd n s = setChord n { fn := {} } s :=
  (if_neg (chordDrainEnd_of_empty he)).trans (by simp only [h])

theorem chordDrainEnd_of_drainingDeferred (h : (chordOf s n).fn.state = .drainingDeferred) :
    chordDrainEnd n s = setChord n {} (chordRegsReset n s) :=
  (if_neg (chordDrainEnd_of_empty he)).trans (by simp only [h])

end
end

/-! ### HELLO, ANNOUNCE and the election (R456, R457, R464) -/

section
variable {s : State}

/-- R456: HELLO is not sent again when nothing changes. -/
theorem withHello_of_eq {f : State → State} (h : f s = s) : withHello f s = s := by
  simp [withHello, h]

theorem withHello_congr {f g : State → State} (h : f s = g s) : withHello f s = withHello g s := by
  simp only [withHello, h]

theorem count_fab (off : Nat) (s : State) : (count off s).fab = s.fab := by
  rw [count, countN_frame, State.setRegs_fab]

theorem helloTimer_of_due {n : Nat} (hn : n < 16) (hu : (chordOf s n).up = true) (hd : (chordOf s n).helloDue = true) :
    helloTimer n s = sendOn n 0xFFFF (.hello (helloOf s n)) s := if_pos (by simp [hn, hu, hd])

theorem helloTimer_of_not_due {n : Nat} (h : 16 ≤ n ∨ (chordOf s n).up = false ∨ (chordOf s n).helloDue = false) : helloTimer n s = s := by
  refine if_neg ?_
  rcases h with h | h | h
  · simp [Nat.not_lt.mpr h]
  · simp [h]
  · simp [h]

theorem helloArrives_of_up {n : Nat} {m : HelloMsg} (hn : n < 16) (hu : (chordOf s n).up = true) :
    helloArrives n m s =
      let u := helloKind n m (count Reg.FAB_CNT_MSG_RX (inboxTake { src := m.dev } (.hello m) s))
      pumpWaiting (if m.isSwitch then u.setFab { u.fab with topTerm := max u.fab.topTerm m.term }
        else hear m.uid m.candidate m.reserve m.term u) := if_neg (by simp [hn, hu])

theorem announceTimer_of_new (hu : upChords s ≠ []) (hd : s.fab.devId = none) :
    announceTimer s = send 0xFFFF (.announce (ownUid s) (mgrCapable s) s.fab.candidate (isReserve s) (ownId s) s.fab.term) s :=
  if_neg (by simp [hu, hd])

theorem announceTimer_of_known (h : upChords s = [] ∨ (s.fab.devId.isSome = true ∧ s.fab.fresh = false)) : announceTimer s = s := by
  refine if_pos ?_
  rcases h with h | ⟨hd, hf⟩
  · simp [h]
  · simp [hd, hf]

theorem exec_announce_of_on {uid dev term : Nat} {cap cand res : Bool} (hon : isOn s = true) :
    exec (.announce uid cap cand res dev term) s =
      .next (announceArrives uid cand res dev term (inboxTake { src := dev } (.announce uid cap cand res dev term) s)) :=
  congrArg _ (if_pos hon)

/-- R457: a device that is not the manager only hears an ANNOUNCE without an ID. -/
theorem announceArrives_of_member {uid term : Nat} {cand res : Bool} (hm : isManager s = false) :
    announceArrives uid cand res 0xFFFF term s = hear uid cand res term (count Reg.FAB_CNT_MSG_RX s) := by
  have hm' : isManager (hear uid cand res term (count Reg.FAB_CNT_MSG_RX s)) = false := by
    simpa [isManager, hear, count_fab] using hm
  simp [announceArrives, hm']

/-- R457: a ready candidate that is not the manager claims when no lower candidate has been heard. -/
def mayClaim (s : State) : Prop :=
  isReady s = true ∧ s.fab.candidate = true ∧ isManager s = false ∧ upChords s ≠ [] ∧ ∀ h ∈ s.fab.heard, h.2.1 = true → ownUid s ≤ h.1

theorem mayClaim_iff : mayClaim s ↔ (!isReady s || !s.fab.candidate || isManager s || (upChords s).isEmpty ||
    (s.fab.heard.any fun h => h.2.1 && decide (h.1 < ownUid s))) = false := by
  simp [mayClaim, and_assoc]

theorem electionWindow_of_not_mayClaim (h : ¬mayClaim s) : electionWindow s = s :=
  if_pos (by simpa only [Bool.not_eq_false] using mt mayClaim_iff.mpr h)

theorem electionWindow_of_mayClaim (h : mayClaim s) : electionWindow s = withHello claimDomain s :=
  if_neg (Bool.eq_false_iff.mp (mayClaim_iff.mp h))

theorem freshElection_of_led (h : isManager s = true ∨ s.fab.devId = none) : freshElection s = s := if_pos (by simpa using h)

theorem freshElection_of_leaderless (hm : isManager s = false) (hd : s.fab.devId.isSome = true) :
    freshElection s =
      let u := settleStand (reachTime ((s.fab.lastBeacon + bits (regGet s Reg.FAB_CFG) 7 0 * 256000000) % 2 ^ 64) s)
      u.setFab { u.fab with fresh := true, mgrUid := 0, heard := [] } := by
  have ht : bits (regGet s Reg.FAB_CFG) 7 0 * 1000 * usUnits = bits (regGet s Reg.FAB_CFG) 7 0 * 256000000 := Nat.mul_assoc _ 1000 256000
  simp [freshElection, hm, Option.ne_none_iff_isSome.mpr hd, ht]

/-! ### CLAIM (R457, R459) -/

section
variable {m : ClaimMsg}

/-- R457: the state in which a CLAIM is judged: the highest term heard is noted. -/
def claimHeard (m : ClaimMsg) (s : State) : State := s.setFab { s.fab with topTerm := max s.fab.topTerm m.term }

theorem claimArrives_of_own (h : m.mgrUid = ownUid (claimHeard m s)) : claimArrives m s = claimHeard m s :=
  if_pos (beq_iff_eq.mpr h)

variable (hu : m.mgrUid ≠ ownUid (claimHeard m s))
include hu

theorem claimArrives_of_better
    (h : s.fab.term < m.term ∨ (s.fab.term = m.term ∧ (s.fab.mgrUid = 0 ∨ m.mgrUid < s.fab.mgrUid))) :
    claimArrives m s =
      let v := settleStand (claimHeard m s)
      v.setFab { v.fab with
        term := m.term, mgrUid := m.mgrUid, mgrId := m.mgrId, depUid := m.depUid, depId := m.depId, count := m.members,
        role := roleOf v m.depUid, fresh := false, lastBeacon := v.now, unacked := [] } := by
  have hb : (decide (s.fab.term < m.term) || (s.fab.term == m.term && (s.fab.mgrUid == 0 || decide (m.mgrUid < s.fab.mgrUid)))) = true := by
    simpa using h
  exact (if_neg (mt beq_iff_eq.mp hu)).trans (if_pos hb)

/-- R459: a CLAIM of an earlier term is stale. -/
theorem claimArrives_of_stale (h : m.term < s.fab.term) : claimArrives m s = count Reg.FAB_CNT_STALE_TERM (claimHeard m s) := by
  refine (if_neg (mt beq_iff_eq.mp hu)).trans ((if_neg ?_).trans ((if_neg ?_).trans (if_pos h)))
  · simp [Nat.not_lt.mpr (Nat.le_of_lt h), Nat.ne_of_gt h]
  · simp [Nat.ne_of_gt h]

theorem claimArrives_of_higher (ht : s.fab.term = m.term) (h0 : s.fab.mgrUid ≠ 0) (h : s.fab.mgrUid < m.mgrUid) :
    claimArrives m s = claimHeard m s := by
  refine (if_neg (mt beq_iff_eq.mp hu)).trans ((if_neg ?_).trans ((if_neg ?_).trans (if_neg ?_)))
  · simp [ht, h0, Nat.le_of_lt h]
  · simp [Nat.ne_of_lt h]
  · simp [ht]

end

/-! ### ASSIGN, JOINED and routes (R455, R458) -/

theorem assignArrives_of_stale {h : Hdr} {uid dev term k : Nat} {res : Bool} (ht : term < s.fab.term) :
    assignArrives h uid dev res term k s = count Reg.FAB_CNT_STALE_TERM s := if_pos ht

theorem assignArrives_of_other {h : Hdr} {uid dev term k : Nat} {res : Bool} (ht : s.fab.term ≤ term) (hu : uid ≠ ownUid s) :
    assignArrives h uid dev res term k s = s := (if_neg (Nat.not_lt.mpr ht)).trans (if_pos (by simp [hu]))

/-- R458: the device takes the ID that it is assigned, and its role. -/
theorem assignArrives_of_own {h : Hdr} {uid dev term k : Nat} {res : Bool} (ht : s.fab.term ≤ term) (hu : uid = ownUid s) :
    ∃ u, assignArrives h uid dev res term k s = grantImage (sendJoined u) ∧
      u = s.setFab u.fab ∧ u.fab.devId = some dev ∧ u.fab.mgrId = h.src ∧ u.fab.term = term ∧
      u.fab.role = (if res then .reserve else if s.fab.depUid = ownUid s then .deputy else .member) := by
  refine ⟨_, (if_neg (Nat.not_lt.mpr ht)).trans (if_neg (by simp [hu])), rfl, rfl, rfl, rfl, ?_⟩
  simp only [State.setFab_fab, beq_iff_eq]
  rfl

theorem joinedArrives_of_unknown {uid dev : Nat} {rep : Option (List JoinEntry)}
    (h : isManager s = false ∨ ∀ m ∈ s.fab.members, m.id = dev → m.uid ≠ uid) : joinedArrives uid dev rep s = s :=
  if_pos (by simpa [imp_iff_not_or] using h)

end

/-- Settles O43: the link layer by the Chord's state and the flit's checks, then discovery by each message and timer. -/
theorem chordsAndDiscovery : Obligations.ChordsAndDiscovery := by
  refine ⟨fun s n hon hn => ⟨?_, ?_, ?_, ?_, ?_, ?_, ?_, ?_, ?_, ?_, ?_, ?_⟩,
    fun s => ⟨?_, ?_, ?_, ?_, ?_, ?_, ?_, ?_, ?_, ?_, ?_, ?_, ?_⟩⟩
  · intro hp hf hl
    exact ⟨fun hu hr => whileOn_next hon (chordTrained_of_down hn hp hf hl hu hr),
      fun hu hr => whileOn_next hon (chordTrained_of_down hn hp hf hl hu hr),
      fun hr => whileOn_next hon (chordTrained_of_retraining hn hp hf hl hr)⟩
  · exact fun h ok => whileOn_next hon (chordTrained_of_off h)
  · intro b hu hr hlen hcrc
    have bad := flitIn_of_bad hn hu hr hlen hcrc
    exact ⟨fun h => whileOn_next hon (bad.trans (flitBad_of_few h)), fun h => whileOn_next hon (bad.trans (flitBad_of_eight h))⟩
  · intro b hu hr hlen hcrc hnak w u d vc hgo
    exact ⟨fun hw => whileOn_next hon (flitIn_of_credits hn hu hr hlen hcrc hnak hgo hw),
      fun hw ho => whileOn_next hon (flitIn_of_other hn hu hr hlen hcrc hnak hgo hw ho),
      fun hw hseq hvc => whileOn_next hon (flitIn_of_next hn hu hr hlen hcrc hnak hgo hw hseq hvc)⟩
  · exact fun b h => whileOn_next hon (flitIn_of_unreceived h)
  · exact fun h => by rw [exec_chordRetrainTimeout_of_on hon, retrainTimeout_of_retraining h]
  · exact fun h => by rw [exec_chordRetrainTimeout_of_on hon, retrainTimeout_of_trained h]
  · exact fun h mask => ⟨fun ha => next_deliver_accepts ha fun _ => rfl, fun ha => next_deliver_accepts ha fun _ => rfl⟩
  · exact fun h => ⟨chordEnable1_of_disabled h, chordDisable1_of_disabled h⟩
  · exact fun h => ⟨chordEnable1_of_enabled h, chordDisable1_of_enabled h⟩
  · exact fun he => ⟨fun h => whileOn_next hon (chordDrainEnd_of_draining he h),
      fun h => whileOn_next hon (chordDrainEnd_of_drainingDeferred he h)⟩
  · exact fun hu hq => whileOn_next hon (chordDrainEnd_of_queued hu hq)
  · refine fun n hon => ⟨fun hn hu hd => whileOn_next hon (helloTimer_of_due hn hu hd),
      fun h => whileOn_next hon (helloTimer_of_not_due h), fun m hn hu => ?_⟩
    have arrives := helloArrives_of_up (m := m) hn hu
    exact ⟨fun hs => whileOn_next hon (arrives.trans (congrArg pumpWaiting (if_pos hs))),
      fun hs => whileOn_next hon (arrives.trans (congrArg pumpWaiting (if_neg (Bool.eq_false_iff.mp hs))))⟩
  · exact fun hon => ⟨fun hu hd => whileOn_next hon (announceTimer_of_new hu hd),
      fun h => whileOn_next hon (announceTimer_of_known h)⟩
  · intro uid cap cand res dev term hon
    refine ⟨exec_announce_of_on hon, fun hm hd => ?_⟩
    subst hd
    exact announceArrives_of_member hm
  · exact fun hon => ⟨fun h => whileOn_next hon (electionWindow_of_not_mayClaim h),
      fun h => whileOn_next hon (electionWindow_of_mayClaim h)⟩
  · exact fun h m ha => next_deliver_accepts ha fun _ => rfl
  · exact fun m => ⟨claimArrives_of_own, claimArrives_of_better, claimArrives_of_stale, claimArrives_of_higher⟩
  · exact fun h uid dev res term k ha => next_deliver_accepts ha fun _ => rfl
  · exact fun h uid dev res term k => ⟨assignArrives_of_stale, assignArrives_of_other, assignArrives_of_own⟩
  · exact fun h uid dev rep ha => next_deliver_accepts ha fun _ => rfl
  · exact fun uid dev rep => joinedArrives_of_unknown
  · exact fun h rs ha => next_deliver_accepts ha fun _ => rfl
  · exact fun rs h => if_neg (Bool.eq_false_iff.mp h)
  · exact fun hon => ⟨fun h => whileOn_next hon (withHello_of_eq (freshElection_of_led h)),
      fun hm hd => whileOn_next hon (withHello_congr (freshElection_of_leaderless hm hd))⟩

end Sys2Proof.Machine
end

-- The settling of the narrow numbers' family: where a packed code lies.
section

namespace Sys2Proof.Machine

/-! ### The codes of a byte (R49): digits in base `2 ^ w`, so the field of a code is one digit -/

/-- R49: the codes that lie in byte `b`, by rising bit; zero where no code is left. -/
def byteCodes (w : Nat) (codes : List Nat) (b : Nat) : List Nat :=
  (List.range (8 / w)).map fun j => codes.getD (b * (8 / w) + j) 0

@[simp] theorem length_byteCodes (w : Nat) (codes : List Nat) (b : Nat) : (byteCodes w codes b).length = 8 / w := by
  simp [byteCodes]

/-- Each code of a byte fits the width when each code of the list does. -/
theorem lt_of_mem_byteCodes {w : Nat} {codes : List Nat} (h : ∀ c ∈ codes, c < 2 ^ w) {b : Nat} :
    ∀ c ∈ byteCodes w codes b, c < 2 ^ w := by
  intro c hc
  obtain ⟨j, -, rfl⟩ := List.mem_map.mp hc
  rw [List.getD_eq_getElem?_getD]
  cases hj : codes[b * (8 / w) + j]? with
  | none => exact Nat.two_pow_pos w
  | some d => exact h d (List.mem_of_getElem? hj)

/-- Code `i` of the list is code `i % (8 / w)` of byte `i / (8 / w)`. -/
theorem byteCodes_getElem? {w : Nat} (hp : 0 < 8 / w) {codes : List Nat} {i c : Nat} (h : codes[i]? = some c) :
    (byteCodes w codes (i / (8 / w)))[i % (8 / w)]? = some c := by
  simp [byteCodes, List.getElem?_range (Nat.mod_lt i hp), Nat.div_add_mod', h]

/-- The sum that packs a byte is the number whose digits in base `2 ^ w` are the codes. -/
theorem foldl_codes_eq_ofDigits (w : Nat) (g : Nat → Nat) (n : Nat) :
    (List.range n).foldl (fun acc j => acc + g j * 2 ^ (w * j)) 0 = Nat.ofDigits (2 ^ w) ((List.range n).map g) := by
  induction n with
  | zero => rfl
  | succ n ih =>
    rw [List.range_succ, List.foldl_append, ih]
    simp [Nat.ofDigits_append, pow_mul, Nat.mul_comm]

/-- The byte of an element lies below the count of bytes, which is rounded up. -/
theorem div_lt_roundUp {p i n : Nat} (hp : 0 < p) (hi : i < n) : i / p < (n + p - 1) / p := by
  rw [Nat.lt_iff_add_one_le, Nat.le_div_iff_mul_le hp, Nat.add_mul, Nat.one_mul]
  have := Nat.div_mul_le_self i p
  omega

/-- The byte that holds element `i` packs the codes of that byte. -/
theorem packCodes_getElem? {w : Nat} (hp : 0 < 8 / w) {codes : List Nat} {i : Nat} (hi : i < codes.length) :
    (packCodes w codes)[i / (8 / w)]? = some (BitVec.ofNat 8 (Nat.ofDigits (2 ^ w) (byteCodes w codes (i / (8 / w))))) := by
  simp [packCodes, byteCodes, List.getElem?_range (div_lt_roundUp hp hi), foldl_codes_eq_ofDigits]

/-- A field of `w` bits at a multiple of `w` is a digit in base `2 ^ w`. -/
theorem bits_ofDigits {w : Nat} (hw : 0 < w) {L : List Nat} (hL : ∀ d ∈ L, d < 2 ^ w) {j d : Nat} (hd : L[j]? = some d) :
    bits (Nat.ofDigits (2 ^ w) L) (w * j + w - 1) (w * j) = d := by
  have hlen : w * j + w - 1 + 1 - w * j = w := by omega
  obtain ⟨hj, rfl⟩ := List.getElem?_eq_some_iff.mp hd
  rw [bits, hlen, Nat.shiftRight_eq_div_pow, pow_mul,
    Nat.ofDigits_div_pow_eq_ofDigits_drop j (Nat.two_pow_pos w) L hL, List.drop_eq_getElem_cons hj, Nat.ofDigits_cons,
    Nat.add_mul_mod_self_left, Nat.mod_eq_of_lt (hL _ (List.getElem_mem hj))]

/-- R47: the codes of a format fill a byte with no bit over. -/
theorem Fmt.width_mul_per (f : Fmt) : f.width * (8 / f.width) = 8 := by cases f <;> rfl

theorem Fmt.width_pos (f : Fmt) : 0 < f.width := by cases f <;> decide

theorem Fmt.per_pos (f : Fmt) : 0 < 8 / f.width := by cases f <;> decide

/-- R49: byte `⌊i × w ÷ 8⌋` is the byte `i ÷ (8 ÷ w)`. -/
theorem Fmt.byte_of_index (f : Fmt) (i : Nat) : i * f.width / 8 = i / (8 / f.width) := by
  conv_lhs => rw [← f.width_mul_per, Nat.mul_comm]
  exact Nat.mul_div_mul_left _ _ f.width_pos

/-- The number of a byte's codes fits the byte. -/
theorem Fmt.toNat_byte (f : Fmt) {L : List Nat} (hlen : L.length = 8 / f.width) (hL : ∀ d ∈ L, d < 2 ^ f.width) :
    (BitVec.ofNat 8 (Nat.ofDigits (2 ^ f.width) L)).toNat = Nat.ofDigits (2 ^ f.width) L := by
  have hlt := Nat.ofDigits_lt_base_pow_length (Nat.one_lt_two_pow f.width_pos.ne') hL
  rw [hlen, ← pow_mul, f.width_mul_per] at hlt
  exact Nat.mod_eq_of_lt hlt

/-- The reader of codes takes the field of the byte at the code's index. -/
theorem codeAt_of_getElem? {f : Fmt} {l : List Byte} {i : Nat} {b : Byte} (h : l[i * f.width / 8]? = some b) :
    codeAt f l i = bits b.toNat (f.width * (i % (8 / f.width)) + f.width - 1) (f.width * (i % (8 / f.width))) := by
  simp [codeAt, h]

/-- Settles O60: the byte at the code's index is the number whose digits are that byte's codes (`packCodes_getElem?`), and the code's field is
its digit there (`bits_ofDigits`, `byteCodes_getElem?`). -/
theorem codesPacked : Obligations.CodesPacked := by
  intro f codes hc i c hi
  have hbyte := packCodes_getElem? f.per_pos (List.getElem?_eq_some_iff.mp hi).1
  rw [← f.byte_of_index] at hbyte
  have hfield : bits (BitVec.ofNat 8 (Nat.ofDigits (2 ^ f.width) (byteCodes f.width codes (i * f.width / 8)))).toNat
      (f.width * (i % (8 / f.width)) + f.width - 1) (f.width * (i % (8 / f.width))) = c := by
    rw [f.toNat_byte (length_byteCodes ..) (lt_of_mem_byteCodes hc), f.byte_of_index]
    exact bits_ofDigits f.width_pos (lt_of_mem_byteCodes hc) (byteCodes_getElem? f.per_pos hi)
  exact ⟨⟨_, hbyte, hfield⟩, (codeAt_of_getElem? hbyte).trans hfield⟩

end Sys2Proof.Machine
end

-- The settling of the lookups' family: LOOKUP at its requester, its batches at their owner, and their fragments.
section

namespace Sys2Proof.Machine

/-! ### LOOKUP and its wait for a ring ID (R84, R89, R287) -/

theorem runAcc_of_fail {α : Type} {w : Work} {a : Acc α} {ok : α → State → State} {bad : Flt → State → State} {s u : State} {f : Flt}
    (h : a s = .error (.fail f u)) : runAcc w a ok bad s = bad f (clearWork w u) := by simp only [runAcc, h]

section
variable {c : Cmd} {s : State}

theorem lookup_of_badParams (hn : lookOf (startCmd c s) c = none) (hp : lkParamsBad (startCmd c s) c = true) :
    lookup c s = badPacket c 0 (startCmd c s) := by
  simp [lookup, hn, hp]

/-- R84, R89: a LOOKUP with good parameters that has not begun reads its block. -/
theorem lookup_of_goodParams (hn : lookOf (startCmd c s) c = none) (hp : lkParamsBad (startCmd c s) c = false) :
    lookup c s = runAcc (.cmd c) (blockRead c) (lookWith c) (faultAt 0x0A 0 c) (startCmd c s) := by
  simp [lookup, hn, hp]

theorem lookRingStart_of_waiting {l : Look} {r : Nat} (hl : lookOf s c = some l) (hr : lkRing c = some r) (hw : l.waitsRing = true) :
    lookRingStart c s = if ringIdFree s c.ctx r (.cmd c) then lookup c (dropLook c s) else s := by
  simp [lookRingStart, hl, hr, hw]

/-! ### The completion (R91, R93) -/

theorem lookDone_of_unwritten {l : Look} (hl : lookOf s c = some l) (hw : l.written = false) : lookDone c s = s := by
  simp [lookDone, hl, hw]

/-- R93, R287: with its outputs issued and nothing held for its ring ID, a LOOKUP completes by its row fault. -/
theorem lookDone_of_written {l : Look} (hl : lookOf s c = some l) (hw : l.written = true)
    (hr : ∀ r, l.ring = some r → (ringIdOf s c.ctx r).held = []) :
    lookDone c s = match l.fault.bind Flt.ofCode with
      | some f => faultAt 0x0A 0 c f (dropLook c (releaseRing l s))
      | none => complete c (if l.missing.isEmpty then stOk else stPartial) 0 (lookResult l)
          (countN Reg.XCH_CNT_SATURATE l.saturated (dropLook c (releaseRing l s))) := by
  cases hring : l.ring with
  | none => simp only [lookDone, hl, hw, hring]; rfl
  | some r => simp only [lookDone, hl, hw, hring, hr r hring]; rfl

end

/-! ### The batch window (R94) and the hedge delay (R108, R110) -/

section
variable {id : Nat} {b : ReqBatch} {s : State}

theorem freeWindow_of_unknown (hb : batchOf s id = none) : freeWindow id s = s := by simp only [freeWindow, hb]

theorem freeWindow_of_waiting (hb : batchOf s id = some b) (hd : b.due = false) :
    freeWindow id s =
      let u := lookPump (updBatchOf id (fun b => { b with due := true }) s)
      match batchOf u id with
      | some b => if b.state.contains 0 then u else partsEnded id (ownId u) false u
      | none => u := by
  simp only [freeWindow, hb]
  exact if_neg (Bool.eq_false_iff.mp hd)

/-- R108: a batch may be hedged: it has been sent and is no copy, its LOOKUP is inexact with a hedge delay, it is neither hedged nor
redirected yet, it still has unanswered parts, and its replica serves. -/
def mayHedge (l : Look) (b : ReqBatch) (u : State) : Prop :=
  b.sent = true ∧ b.copyOf = none ∧ l.hedge ≠ 0 ∧ l.exact = false ∧ b.hedged = false ∧ b.redirected = false ∧
    b.replica ≠ 0xFFFF ∧ servesAsOwner u b.replica = true ∧ b.state.contains 0 = true

theorem mayHedge_iff {l : Look} {u : State} : mayHedge l b u ↔
    (!b.sent || b.copyOf.isSome || l.hedge = 0 || l.exact || b.hedged || b.redirected || b.replica = 0xFFFF ||
      !servesAsOwner u b.replica || !b.state.contains 0) = false := by
  simp [mayHedge, and_assoc]

/-- The state in which the hedge delay of a batch has passed. -/
abbrev hedgeTime (l : Look) (b : ReqBatch) (s : State) : State := reachTime ((b.sentAt + l.hedge * 256) % 2 ^ 64) s

variable {l : Look} (hb : batchOf s id = some b) (hl : lookOf s b.cmd = some l)
include hb hl

theorem hedgeDelay_of_not_mayHedge (h : ¬mayHedge l b (hedgeTime l b s)) : hedgeDelay id s = hedgeTime l b s := by
  simp only [hedgeDelay, hb, hl]
  exact if_pos (by simpa only [Bool.not_eq_false] using mt mayHedge_iff.mpr h)

/-- R108, R110: the limit on hedges decides whether a batch that may be hedged is. -/
theorem hedgeDelay_of_mayHedge (h : mayHedge l b (hedgeTime l b s)) :
    hedgeDelay id s =
      let u := hedgeTime l b s
      if bits (regGet u Reg.XCH_HEDGE_CFG) 15 0 ≤ hedgesSent u then count Reg.XCH_CNT_HEDGE_SUPPRESSED u
      else
        let v := count Reg.XCH_CNT_HEDGES (u.setXch { u.xch with
          window := match u.xch.window with | x :: xs => (x + 1) :: xs | [] => [] })
        copyBatch b b.replica true (setLook { l with hedged := l.hedged + 1 } (updBatchOf id (fun b => { b with hedged := true }) v)) := by
  simp only [hedgeDelay, hb, hl]
  exact if_neg (Bool.eq_false_iff.mp (mayHedge_iff.mp h))

end

/-! ### The deadline (R91, R111) -/

section
variable {c : Cmd} {s : State}

/-- R111: the unanswered parts of a LOOKUP's batches are missing. -/
def missAll (c : Cmd) (s : State) : State :=
  s.setXch { s.xch with batches := s.xch.batches.map fun b =>
    if b.cmd == c then { b with state := b.state.map fun x => if x == 0 then 2 else x } else b }

/-- R111, R524: the state at a LOOKUP's deadline, with its unanswered parts missing and the batches that this ends recorded. -/
def deadlineMet (c : Cmd) (l : Look) (s : State) : State :=
  ((s.xch.batches.filter fun b => b.cmd == c).filter fun b => b.copyOf.isNone && b.state.contains 0).foldl
    (fun s b => batchEndRecord { b with state := [2] } b.dest false s) (missAll c (reachTime l.deadline s))

theorem lookDeadline_of_running {l : Look} (hl : lookOf s c = some l) (hw : l.waitsRing = false)
    (hm : (lookOf (deadlineMet c l s) c).map (·.waitsRing) = some false) :
    lookDeadline c s =
      let x := lookFinish c (deadlineMet c l s)
      overlayAcks (lookPump (x.setXch { x.xch with batches := x.xch.batches.filter fun b => b.cmd != c })) := by
  obtain ⟨l', hl', hw'⟩ := Option.map_eq_some_iff.mp hm
  unfold deadlineMet missAll at hl' ⊢
  simp only [lookDeadline, hl, hw, Bool.false_eq_true, if_false, hl', hw']

end

/-- Settles O35: LOOKUP by its checks and its block (`lookup_of_goodParams`), its wait for a ring ID, its completion
(`lookDone_of_written`), the batch window, the hedge (`hedgeDelay_of_mayHedge`) and the deadline (`lookDeadline_of_running`). -/
theorem lookups : Obligations.Lookups := by
  refine fun s c hon => ⟨?_, ?_, ?_, ?_, ?_, ?_, ?_, ?_⟩
  · refine fun hn => ⟨fun hp => whileOn_next hon (lookup_of_badParams hn hp), fun hp v => ⟨?_, ?_, ?_⟩⟩
    · exact fun hr => whileOn_next hon ((lookup_of_goodParams hn hp).trans (runAcc_of_ok hr))
    · exact fun gs hr => whileOn_next hon ((lookup_of_goodParams hn hp).trans (runAcc_of_ok hr))
    · exact fun f hr => whileOn_next hon ((lookup_of_goodParams hn hp).trans (runAcc_of_fail hr))
  · intro l r hl hr hw
    have start := lookRingStart_of_waiting hl hr hw
    exact ⟨fun hf => whileOn_next hon (start.trans (if_pos hf)),
      fun hf => whileOn_next hon (start.trans (if_neg (Bool.eq_false_iff.mp hf)))⟩
  · intro l hl hw hr u
    have done := lookDone_of_written hl hw hr
    refine ⟨fun hf => whileOn_next hon ?_, fun f hf => whileOn_next hon ?_⟩
    · rw [done, hf]
      rfl
    · rw [done, hf]
  · exact fun l hl hw => whileOn_next hon (lookDone_of_unwritten hl hw)
  · exact fun id b hb hd => whileOn_next hon (freeWindow_of_waiting hb hd)
  · exact fun id hb => whileOn_next hon (freeWindow_of_unknown hb)
  · refine fun id b l hb hl => ⟨fun hm => whileOn_next hon (hedgeDelay_of_not_mayHedge hb hl hm), fun hm hlim => ?_, fun hm hlim => ?_⟩
    · exact whileOn_next hon ((hedgeDelay_of_mayHedge hb hl hm).trans (if_pos hlim))
    · exact whileOn_next hon ((hedgeDelay_of_mayHedge hb hl hm).trans (if_neg (Nat.not_le.mpr hlim)))
  · exact fun l hl hw hm => whileOn_next hon (lookDeadline_of_running hl hw hm)

/-! ### A batch at its owner (R98, R105, R121, R154) -/

section
variable {m : BatchMsg} {s : State}

/-- R117: the directory entries of a batch's tables are read. -/
abbrev tablesRead (m : BatchMsg) (s : State) : State := (m.segs.map (·.table)).eraseDups.foldl (fun s t => dirRead [] t s) s

theorem batchArrives_of_late (h : batchLate s m = true) : batchArrives m s = count Reg.XCH_CNT_OWNER_EXPIRED s := if_pos h

/-- R121, R154: a batch in time is answered with EPOCH_GONE, or its moved rows are fetched and it is pooled. -/
theorem batchArrives_of_timely (h : batchLate s m = false) (hloss : (tablesRead m s).hl.loss = none) :
    batchArrives m s =
      let u := tablesRead m s
      if batchGone u m then send m.requester (.epochGone m.id (ownId u)) (count Reg.TBL_CNT_EPOCH_NOTICE u)
      else
        let v := (fetchRows u m).foldl (fun s f => send f.2 (.rowFetch f.1 m.id) (count Reg.TBL_CNT_FWD_LOOKUP s)) u
        ownerPool { msg := m, start := v.now, fetch := (fetchRows u m).map (·.1) } (dropOwned m.requester m.id v) := by
  refine (if_neg (Bool.eq_false_iff.mp h)).trans (if_neg ?_)
  simpa using hloss

end

section
variable {requester id n : Nat} {o : OwnBatch} {s : State}

theorem fragReady_of_late (ho : ownedOf s requester id = some o) (h : batchLate s o.msg = true) :
    fragReady requester id n s = count Reg.XCH_CNT_OWNER_EXPIRED (dropOwned requester id s) := by
  simp only [fragReady, ho, h, if_true]

theorem ownerDeadline_of_owned (ho : ownedOf s requester id = some o) :
    ownerDeadline requester id s = count Reg.XCH_CNT_OWNER_EXPIRED (dropOwned requester id (reachTime o.msg.deadline s)) := by
  simp only [ownerDeadline, ho]

/-- R98: the results that one fragment takes when `r` is the next one. -/
abbrev fragResults (n : Nat) (r : PartRes) (rest : List PartRes) : List PartRes :=
  fragTake r.fault (min n 65535) (2 ^ 20 - 16) (r :: rest)

/-- R98: the fragment of the results `rs`, the first of them `r`, goes to the requester. -/
def sendFragment (requester id : Nat) (o : OwnBatch) (r : PartRes) (rs : List PartRes) (s : State) : State :=
  send requester (.fragment
    { batch := id, firstPart := o.next, responder := ownId s, fault := r.fault.isSome, faultCode := r.fault.getD 0,
      saturated := min 0xFFFF ((rs.map (·.saturated)).foldl (· + ·) 0), results := rs.map (·.data) }) s

variable {r : PartRes} {rest : List PartRes} (ho : ownedOf s requester id = some o) (hl : batchLate s o.msg = false)
  (hr : o.results.drop o.next = r :: rest)
include ho hl hr

theorem fragReady_of_nothing (h : fragResults n r rest = []) : fragReady requester id n s = s := by
  simp only [fragReady, ho, hl, hr, Bool.false_eq_true, if_false]
  exact if_pos (List.isEmpty_iff.mpr h)

/-- R98: a fragment ends its batch at the owner, or the batch goes on behind it. -/
theorem fragReady_of_results (h : fragResults n r rest ≠ []) :
    fragReady requester id n s =
      let rs := fragResults n r rest
      let u := sendFragment requester id o r rs s
      if o.results.length ≤ o.next + rs.length then
        evt 128 0x42 ((u.now + 2 ^ 64 - o.start) % 2 ^ 64) 1 none (dropOwned requester id u)
      else u.setXch { u.xch with owned := u.xch.owned.map fun x =>
        if x.msg.requester == requester && x.msg.id == id then { x with next := x.next + rs.length } else x } := by
  simp only [fragReady, ho, hl, hr, Bool.false_eq_true, if_false]
  exact if_neg (mt List.isEmpty_iff.mp h)

end

/-! ### Fragments and notices at the requester (R107, R109, R122) -/

section
variable {m : FragMsg} {b : ReqBatch} {s : State}

theorem fragArrives_of_unknown (hb : batchOf s m.batch = none) : fragArrives m s = count Reg.XCH_CNT_LATE_DISCARD s := by
  simp only [fragArrives, hb]

theorem fragArrives_of_late (hb : batchOf s m.batch = some b) (hl : batchLate s b.msg = true) :
    fragArrives m s = count Reg.XCH_CNT_LATE_DISCARD s := by
  simp only [fragArrives, hb, hl, if_true]

/-- R109: the parts of a fragment, taken one by one: counts of those won and of those already answered, and the state after them. -/
def partsTaken (b : ReqBatch) (m : FragMsg) (s : State) : (Nat × Nat) × State :=
  (List.range m.results.length).foldl (fun acc i => fragPart b m i acc) ((0, 0), s)

/-- R108, R516: parts won are counted where their batch is a hedge, and their arrival is an event. -/
def partsWon (b : ReqBatch) (won : Nat) (s : State) : State :=
  let u := if b.msg.hedge then countN Reg.XCH_CNT_HEDGE_WINS won s else s
  evt 128 0x41 ((u.now + 2 ^ 64 - b.sentAt) % 2 ^ 64) won (eventCtx b.cmd) u

variable (hb : batchOf s m.batch = some b) (hl : batchLate s b.msg = false)
include hb hl

/-- R107, R109: a fragment none of whose parts is open is a duplicate, if a part of it is answered already. -/
theorem fragArrives_of_lost (hw : (partsTaken b m s).1.1 = 0) :
    fragArrives m s =
      if (partsTaken b m s).1.2 = 0 then (partsTaken b m s).2 else count Reg.XCH_CNT_DUP_DISCARD (partsTaken b m s).2 := by
  simp only [fragArrives, hb, hl, Bool.false_eq_true, if_false]
  exact if_pos hw

/-- R109: a fragment without a row fault that wins parts adds its saturated elements, and may end its batch. -/
theorem fragArrives_of_won {l : Look} (hw : (partsTaken b m s).1.1 ≠ 0) (hf : m.fault = false)
    (hk : lookOf (partsWon b (partsTaken b m s).1.1 (partsTaken b m s).2) b.cmd = some l) :
    fragArrives m s =
      let w := setLook { l with saturated := l.saturated + m.saturated } (partsWon b (partsTaken b m s).1.1 (partsTaken b m s).2)
      partsEnded (origOf w b).id m.responder false w := by
  unfold partsWon partsTaken at hk ⊢
  simp only [fragArrives, hb, hl, hf, Bool.false_eq_true, if_false, hk]
  exact if_neg hw

end

/-- R122: an EPOCH_GONE notice in time makes the open parts of its batch missing. -/
theorem goneArrives_of_open {id responder : Nat} {b : ReqBatch} {s : State} (hb : batchOf s id = some b) (hl : batchLate s b.msg = false)
    (ho : (origOf s b).state.contains 0 = true) :
    goneArrives id responder s = partsEnded (origOf s b).id responder true
      (missParts (origOf s b).id ((List.range b.refs.length).map b.origPart)
        (updBatchOf (origOf s b).id (fun x => { x with redirected := true }) s)) := by
  simp only [goneArrives, hb, hl, ho, Bool.not_true, Bool.false_eq_true, if_false]

/-- Settles O36: each message by its row (`next_deliver_accepts`), a batch at its owner (`batchArrives_of_timely`,
`fragReady_of_results`), and fragments and notices at the requester (`fragArrives_of_lost`, `fragArrives_of_won`, `goneArrives_of_open`). -/
theorem lookupBatches : Obligations.LookupBatches := by
  refine fun s h => ⟨?_, ?_, ?_, ?_, ?_, ?_, ?_, ?_, ?_, ?_, ?_⟩
  · exact fun m ha => next_deliver_accepts ha fun _ => rfl
  · exact fun m => batchArrives_of_late
  · intro m hl u hloss
    have arrives := batchArrives_of_timely hl hloss
    exact ⟨fun hg => arrives.trans (if_pos hg), fun hg => arrives.trans (if_neg (Bool.eq_false_iff.mp hg))⟩
  · intro hon requester id n o ho
    refine ⟨fun hl => whileOn_next hon (fragReady_of_late ho hl), fun hl r rest hr => ⟨?_, fun hrs => ⟨fun hend => ?_, fun hmore => ?_⟩⟩,
      whileOn_next hon (ownerDeadline_of_owned ho)⟩
    · exact fun hrs => whileOn_next hon (fragReady_of_nothing ho hl hr hrs)
    · exact whileOn_next hon ((fragReady_of_results ho hl hr hrs).trans (if_pos hend))
    · exact whileOn_next hon ((fragReady_of_results ho hl hr hrs).trans (if_neg (Nat.not_le.mpr hmore)))
  · exact fun m ha => next_deliver_accepts ha fun _ => rfl
  · exact fun m => fragArrives_of_unknown
  · exact fun m b => fragArrives_of_late
  · refine fun m b hb hl => ⟨fun hw hd => ?_, fun hw hd => ?_, fun hw hf l hk => fragArrives_of_won hb hl hw hf hk⟩
    · exact (fragArrives_of_lost hb hl hw).trans (if_pos hd)
    · exact (fragArrives_of_lost hb hl hw).trans (if_neg hd)
  · exact fun id responder ha => next_deliver_accepts ha fun _ => rfl
  · exact fun id responder b => goneArrives_of_open
  · exact fun id ha => next_deliver_accepts ha fun _ => rfl

end Sys2Proof.Machine
end

-- The settling of the live tables' family: an overlay entry under a fill and an INVALIDATE in either order.
section

namespace Sys2Proof.Machine

/-! ### What sending leaves of the table machinery (R125, R446 to R448) -/

@[simp] theorem count_tbl (off : Nat) (s : State) : (count off s).tbl = s.tbl := by
  rw [count, countN_frame, State.setRegs_tbl]

/-- A fold of steps that leave the table machinery leaves it. -/
theorem foldl_tbl {α : Type} {f : State → α → State} (hf : ∀ s x, (f s x).tbl = s.tbl) (l : List α) (s : State) :
    (l.foldl f s).tbl = s.tbl :=
  st_foldl (P := fun u => u.tbl = s.tbl) f (fun u x h => (hf u x).trans h) l s rfl

theorem evt_tbl (u code key n : Nat) (ctx : Option Nat) (s : State) : (evt u code key n ctx s).tbl = s.tbl := by
  unfold evt
  split
  · rfl
  · refine foldl_tbl (fun s i => ?_) _ _
    split
    · rw [countN_frame, State.setRegs_tbl]
    · rfl

theorem chordPump_tbl (k n : Nat) (s : State) : (chordPump k n s).tbl = s.tbl := by
  induction k generalizing s with
  | zero => rfl
  | succ k ih =>
    rw [chordPump]
    split
    · rfl
    · split
      · rfl
      · rw [ih, evt_tbl, count_tbl]
        rfl

theorem queueBytes_tbl (n vc : Nat) (bytes : List Byte) (s : State) : (queueBytes n vc bytes s).tbl = s.tbl := chordPump_tbl _ _ _

theorem ontoChords_tbl (ns : List Nat) (m : Msg) (s : State) : (ontoChords ns m s).tbl = s.tbl := by
  refine (foldl_tbl (fun s n => queueBytes_tbl _ _ _ s) ns _).trans ?_
  split <;> rfl

theorem sendNow_tbl (n : Nat) (m : Msg) (s : State) : (sendNow n m s).tbl = s.tbl := by
  simp only [sendNow, apply_ite State.tbl, State.setFab_tbl, ontoChords_tbl, count_tbl, ite_self]

/-- Sending a message changes nothing of the table machinery. -/
@[simp] theorem send_tbl (dst : Nat) (b : Body) (s : State) : (send dst b s).tbl = s.tbl := by
  unfold send
  dsimp only
  split
  · rfl
  split
  · exact sendNow_tbl _ _ _
  split
  · rfl
  · rw [sendNow_tbl]
    split <;> rfl

/-! ### An overlay entry under FILL_DATA and INVALIDATE (R151, R152) -/

section
variable {s : State} {r : RowRef} {x : Overlay}

/-- An update of a row's entries that keeps their row changes the entry found. -/
theorem overlayOf_updOverlay {f : Overlay → Overlay} (hf : ∀ x, (f x).row = x.row) (s : State) (r : RowRef) :
    overlayOf (updOverlay r f s) r = (overlayOf s r).map fun x => if x.row == r then f x else x := by
  have hrow : (fun x : Overlay => x.row == r) ∘ (fun x => if x.row == r then f x else x) = fun x => x.row == r := by
    funext x
    by_cases h : x.row = r <;> simp [h, hf]
  simp only [overlayOf, updOverlay, State.setTbl_tbl, updWhere, List.find?_map, hrow]

theorem row_of_overlayOf (h : overlayOf s r = some x) : x.row = r := by
  simpa using List.find?_some h

/-- The state of the entry that an update of a row's entries leaves. -/
theorem overlayOf_updOverlay_of {f : Overlay → Overlay} (hf : ∀ x, (f x).row = x.row) (h : overlayOf s r = some x) :
    overlayOf (updOverlay r f s) r = some (f x) := by
  simp [overlayOf_updOverlay hf, h, row_of_overlayOf h]

/-- R151: what INVALIDATE makes of an entry. -/
def invalidated (x : Overlay) : Overlay :=
  match x.state with
  | .filling => { x with state := .fillStale }
  | .valid _ => { x with state := .invalid }
  | _ => x

theorem invalidated_row (x : Overlay) : (invalidated x).row = x.row := by
  unfold invalidated
  split <;> rfl

theorem invalidated_of_filling (h : x.state = .filling) : invalidated x = { x with state := .fillStale } := by
  simp only [invalidated, h]

theorem invalidated_of_valid {slot : List Byte} (h : x.state = .valid slot) : invalidated x = { x with state := .invalid } := by
  simp only [invalidated, h]

theorem invalidateArrives_eq (src : Nat) (r : RowRef) (s : State) :
    invalidateArrives src r s = send src (.invAck r) (updOverlay r invalidated s) := rfl

theorem overlayOf_invalidateArrives (src : Nat) (h : overlayOf s r = some x) :
    overlayOf (invalidateArrives src r s) r = some (invalidated x) := by
  rw [← overlayOf_updOverlay_of invalidated_row h, invalidateArrives_eq, overlayOf, send_tbl]
  rfl

theorem fillArrives_of_filling (slot : List Byte) (h : overlayOf s r = some x) (hx : x.state = .filling) :
    fillArrives r slot s = updOverlay r (fun x => { x with state := .valid slot }) s := by
  simp only [fillArrives, h, Option.map_some, hx]

theorem fillArrives_of_fillStale (slot : List Byte) (h : overlayOf s r = some x) (hx : x.state = .fillStale) :
    fillArrives r slot s = count Reg.TBL_CNT_STALE_FILL (updOverlay r (fun x => { x with state := .invalid }) s) := by
  simp only [fillArrives, h, Option.map_some, hx]

theorem overlayOf_fillArrives_of_filling (slot : List Byte) (h : overlayOf s r = some x) (hx : x.state = .filling) :
    overlayOf (fillArrives r slot s) r = some { x with state := .valid slot } := by
  rw [fillArrives_of_filling slot h hx]
  exact overlayOf_updOverlay_of (fun _ => rfl) h

theorem overlayOf_fillArrives_of_fillStale (slot : List Byte) (h : overlayOf s r = some x) (hx : x.state = .fillStale) :
    overlayOf (fillArrives r slot s) r = some { x with state := .invalid } := by
  rw [fillArrives_of_fillStale slot h hx, overlayOf, count_tbl]
  exact overlayOf_updOverlay_of (fun _ => rfl) h

theorem regGet_fillArrives_of_fillStale (slot : List Byte) (hs : Canonical s) (h : overlayOf s r = some x) (hx : x.state = .fillStale) :
    regGet (fillArrives r slot s) Reg.TBL_CNT_STALE_FILL = (regGet s Reg.TBL_CNT_STALE_FILL + 1) % 2 ^ 64 := by
  rw [fillArrives_of_fillStale slot h hx, regGet_count _ (st_updOverlay stable_canonical hs).regs]
  rfl

end

/-- Settles O40: an entry that is FILLING goes to VALID by the fill and from there to INVALID (`overlayOf_fillArrives_of_filling`,
`invalidated_of_valid`), or to FILL_STALE by the INVALIDATE and from there to INVALID by the stale fill, which is counted. -/
theorem staleFills : Obligations.StaleFills := by
  intro s src r x slot hx hfilling
  have filled := overlayOf_fillArrives_of_filling slot hx hfilling
  have stale : overlayOf (invalidateArrives src r s) r = some { x with state := .fillStale } := by
    rw [overlayOf_invalidateArrives src hx, invalidated_of_filling hfilling]
  refine ⟨?_, ?_, ?_, fun hs => ?_⟩
  · rw [filled]
    rfl
  · rw [overlayOf_invalidateArrives src filled, invalidated_of_valid rfl]
    rfl
  · rw [overlayOf_fillArrives_of_fillStale slot stale rfl]
    rfl
  · exact regGet_fillArrives_of_fillStale slot (st_invalidateArrives stable_canonical hs) stale rfl

end Sys2Proof.Machine
end

-- The settling of the live tables' family: the versions of a table and their publication.
section

namespace Sys2Proof.Machine

/-! ### PUBLISH_TABLE on the manager (R126 to R129) -/

section
variable {c : Cmd} {l : List Byte} {s : State}

/-- R126: a PUBLISH_TABLE is refused for its source, its lead time or the count of its records. -/
def pubBad (c : Cmd) (s : State) : Prop :=
  isManager s = false ∨ bits (par c 2) 63 32 ≠ 0 ∨ bits (par c 0) 63 32 < 100 ∨ 1000000 < bits (par c 0) 63 32 ∨
    bits (par c 2) 31 0 ≠ (domainMembers s).length

/-- The Boolean that the model tests is `pubBad`. -/
theorem pubBad_iff : (!isManager s || bits (par c 2) 63 32 ≠ 0 || bits (par c 0) 63 32 < 100 || 1000000 < bits (par c 0) 63 32 ||
      bits (par c 2) 31 0 != (domainMembers s).length) = true ↔ pubBad c s := by
  simp [pubBad, or_assoc]

theorem publishTable_of_bad (h : pubBad c (startCmd c s)) : publishTable c s = badPacket c 0 (startCmd c s) := if_pos (pubBad_iff.mpr h)

/-- R126: a new PUBLISH_TABLE that is not refused reads its records. -/
theorem publishTable_of_good (h : ¬pubBad c (startCmd c s)) (hnew : ∀ p ∈ (startCmd c s).tbl.pubs, p.cmd ≠ some c)
    (hloss : (dirRead [c] (bits (par c 0) 15 0) (startCmd c s)).hl.loss = none) :
    publishTable c s = runAcc (.cmd c) (ctxRead (.cmd c) c.ctx (par c 1) (80 * bits (par c 2) 31 0)) (publishWith c) (faultCmd c)
      (dirRead [c] (bits (par c 0) 15 0) (startCmd c s)) :=
  (if_neg (mt pubBad_iff.mp h)).trans ((if_neg (by simpa using hnew)).trans (if_neg (by simp [hloss])))

/-- R127: the member records among the bytes read. -/
abbrev pubRecords (c : Cmd) (l : List Byte) : List (List Byte) := (List.range (bits (par c 2) 31 0)).map fun i => slice (80 * i) 80 l

/-- R128: the records or the epoch of a publication do not fit. -/
def pubMisfit (c : Cmd) (l : List Byte) (s : State) : Bool :=
  recordsBad s (bits (par c 0) 15 0) (bits (par c 0) 31 16) (pubRecords c l) || pubEpochBad s (bits (par c 0) 15 0) (bits (par c 0) 31 16)

theorem publishWith_of_misfit (h : pubMisfit c l s = true) : publishWith c l s = badPacket c 0 s := if_pos h

section
variable (h : pubMisfit c l s = false)
include h

/-- R131: a publication of the table is under way already. -/
theorem publishWith_of_running (hp : (pubOf s (bits (par c 0) 15 0)).isSome = true) :
    publishWith c l s = complete c stNoResource 0 (0xFFFF + 5 * 2 ^ 16) s :=
  (if_neg (Bool.eq_false_iff.mp h)).trans (if_pos hp)

/-- R129 step 1: PREPARE goes to every member. -/
theorem publishWith_of_free (hp : pubOf s (bits (par c 0) 15 0) = none) :
    let t := bits (par c 0) 15 0
    let e := bits (par c 0) 31 16
    let lead := bits (par c 0) 63 32
    let x := (s.now + lead * 256000) % 2 ^ 64
    publishWith c l s = (pubRecords c l).foldl (fun s r => send (recDev r) (.prepare t e x (recDesc r)) s)
      (s.setTbl { s.tbl with pubs := s.tbl.pubs ++
        [{ cmd := some c, table := t, epoch := e, time := x, reply := (x + 2 ^ 64 - lead * 256000 / 2) % 2 ^ 64 }] }) :=
  (if_neg (Bool.eq_false_iff.mp h)).trans (if_neg (by simp [hp]))

end
end

/-! ### PREPARE on a member (R129 step 2) -/

section
variable {h : Hdr} {t e : Nat} {desc : List Byte} {s : State} (hloss : (dirRead [] t s).hl.loss = none)
include hloss

/-- R130: a slot is PENDING already: the PREPARE is of another epoch, or sent again, or differs from it. -/
theorem prepareArrives_of_pending {i : Nat} (hi : findSlot (dirRead [] t s) t (fun st _ => st == .pending) = some i) :
    prepareArrives h t e desc s =
      let u := dirRead [] t s
      if tdEpoch (slotDesc u t i) ≠ e then send h.src (.refuse t e 5) u
      else if slotDesc u t i = padTo 64 desc then send h.src (.ready t e) u
      else send h.src (.refuse t e 1) u := by
  simp only [prepareArrives, hloss, hi, Option.isSome_none, Bool.false_eq_true, if_false, bne_iff_ne, beq_iff_eq]

variable (hp : findSlot (dirRead [] t s) t (fun st _ => st == .pending) = none)
include hp

theorem prepareArrives_of_reason {r : Nat} (hr : prepareReason (dirRead [] t s) t e desc = some r) :
    prepareArrives h t e desc s = send h.src (.refuse t e r) (dirRead [] t s) := by
  simp only [prepareArrives, hloss, hp, hr, Option.isSome_none, Bool.false_eq_true, if_false]

/-- R129 step 2: the version goes into an EMPTY slot and is PENDING there. -/
theorem prepareArrives_of_fit {i : Nat} (hr : prepareReason (dirRead [] t s) t e desc = none)
    (hi : findSlot (dirRead [] t s) t (fun st _ => st == .empty) = some i) :
    prepareArrives h t e desc s =
      let v := setSlot t i .pending (setSlotDesc t i desc (dirRead [] t s))
      send h.src (.ready t e) (setDirWord t 0 (setBits (dirWord v t 0) 47 32 e) v) := by
  simp only [prepareArrives, hloss, hp, hr, hi, Option.isSome_none, Bool.false_eq_true, if_false, Option.getD_some]

end

/-! ### READY, REFUSE and the reply deadline on the manager (R129 step 3, R131, R132) -/

section
variable {h : Hdr} {t e reason : Nat} {p : Publication} {s : State}

theorem pubDecide_of_open (hw : p.committed = true ∨ ∃ m ∈ domainMembers s, m ∉ p.ready) : pubDecide p s = s :=
  if_pos (by simpa using hw)

/-- R131: READY from every member commits the publication, once the deputy has its copy. -/
theorem pubDecide_of_ready (hc : p.committed = false) (hr : ∀ m ∈ domainMembers s, m ∈ p.ready) :
    pubDecide p s = mgrCopy (.publication p.table p.epoch p.time) (sendCommit p.table p.epoch p.time) (setPub { p with committed := true } s) :=
  if_neg (by simpa [hc] using hr)

/-- R129 step 3: the publication with one more READY. -/
abbrev readied (h : Hdr) (p : Publication) : Publication := { p with ready := p.ready ++ [h.src] }

section
variable (hp : pubOf s t = some p)
include hp

theorem readyArrives_of_old (ho : p.epoch ≠ e ∨ h.src ∈ p.ready) : readyArrives h t e s = s := by
  simp only [readyArrives, hp]
  exact if_pos (by simpa using ho)

theorem readyArrives_of_new (he : p.epoch = e) (hn : h.src ∉ p.ready) :
    readyArrives h t e s = pubDecide (readied h p) (setPub (readied h p) s) := by
  simp only [readyArrives, hp]
  exact if_neg (by simp [he, hn])

/-- R132: a REFUSE of an uncommitted publication aborts it. -/
theorem refuseArrives_of_uncommitted (hc : p.committed = false) : refuseArrives h t p.epoch reason s = pubAbort p h.src reason s := by
  simp only [refuseArrives, hp]
  exact if_neg (by simp [hc])

theorem replyDeadline_of_committed (hc : p.committed = true) : replyDeadline t s = s := by
  simp only [replyDeadline, hp]
  exact if_pos hc

theorem replyDeadline_of_uncommitted (hc : p.committed = false) : replyDeadline t s = pubAbort p 0xFFFF 4 (reachTime p.reply s) := by
  simp only [replyDeadline, hp]
  exact if_neg (Bool.eq_false_iff.mp hc)

end
end

/-! ### COMMIT and its time (R129 step 4, R130) -/

section
variable {t e x : Nat} {s : State}

section
variable (hp : (findSlot s t fun st d => st == .pending && tdEpoch d == e).isSome = true)
include hp

theorem commitArrives_of_ahead (ha : ahead s x = true) : commitArrives t e x s = setWork { workOf s t with commit := some (e, x) } s :=
  (if_pos hp).trans (if_pos ha)

/-- R129 step 4: a COMMIT whose time has come flips the table; one whose time has passed is counted. -/
theorem commitArrives_of_due (ha : ahead s x = false) :
    commitArrives t e x s = flipTable t e (if s.now % 2 ^ 64 = x % 2 ^ 64 then s else count Reg.TBL_CNT_LATE_COMMIT s) := by
  refine (if_pos hp).trans ((if_neg (Bool.eq_false_iff.mp ha)).trans ?_)
  simp only [beq_iff_eq]

end

theorem commitTime_of_held (h : (workOf s t).commit = some (e, x)) : commitTime t s = flipTable t e (reachTime x s) := by
  simp only [commitTime, h]

theorem commitTime_of_none (h : (workOf s t).commit = none) : commitTime t s = s := by simp only [commitTime, h]

section
variable {i : Nat} (h : findSlot s t (fun st d => st == .pending && tdEpoch d == e) = some i)
include h

/-- R129 step 4: the first version of a table goes into service. -/
theorem flipTable_of_first (hj : currentSlot s t = none) :
    flipTable t e s =
      let v := setDirWord t 2 s.now (setSlot t i .current s)
      oweDrain t e (setWork { workOf v t with commit := none } v) := by
  simp only [flipTable, h, hj]

/-- R129 step 4: a version goes into service, and the one before it to PREVIOUS. -/
theorem flipTable_of_current {j : Nat} (hj : currentSlot s t = some j) :
    flipTable t e s =
      let u := setSlot t j .previous s
      let v := setDirWord t 2 u.now (setSlot t i .current u)
      oweDrain t e (setWork { workOf v t with commit := none } v) := by
  simp only [flipTable, h, hj]

end
/-- R129 step 5: the PENDING version of an aborted publication is let go. -/
theorem abortArrives_of_pending {i : Nat} (h : findSlot s t (fun st d => st == .pending && tdEpoch d == e) = some i) :
    abortArrives t e s = setWork { workOf s t with commit := none } (setSlot t i .empty s) := by
  simp only [abortArrives, h]

theorem abortArrives_of_none (h : findSlot s t (fun st d => st == .pending && tdEpoch d == e) = none) : abortArrives t e s = s := by
  simp only [abortArrives, h]

end

/-! ### Drains and drops (R129 steps 6 to 8, R134) -/

section
variable {t e : Nat} {s : State}

theorem drainDone_of_stamped (h : stampedWork s t e = true) : drainDone t e s = s := if_pos h

section
variable (h : stampedWork s t e = false)
include h

/-- R129 step 6: the drain that the manager waits for is reported. -/
theorem drainDone_of_owed (hd : e ∈ (workOf s t).drains)
    (hl : (workOf (send s.fab.mgrId (.drained t e false)
      (setWork { workOf s t with drains := (workOf s t).drains.filter fun x => x != e } s)) t).localDrains.contains e = false) :
    drainDone t e s = send s.fab.mgrId (.drained t e false)
      (setWork { workOf s t with drains := (workOf s t).drains.filter fun x => x != e } s) := by
  simp only [drainDone, h, Bool.false_eq_true, if_false, List.contains_iff_mem.mpr hd, if_true, hl]

/-- R134: the drain of a local retirement ends in a drop. -/
theorem drainDone_of_local (hd : e ∉ (workOf s t).drains) (hl : e ∈ (workOf s t).localDrains) :
    drainDone t e s = setWork { workOf s t with
      localDrains := (workOf s t).localDrains.filter fun x => x != e, drops := (workOf s t).drops ++ [e] } s := by
  simp only [drainDone, h, Bool.false_eq_true, if_false, List.contains_iff_mem, hd, hl, if_true]

end

theorem dropArrives_eq (t e : Nat) (s : State) : dropArrives t e s =
    if heldSlot s t e (fun st => st == .previous || st == .retiring) = none then s
    else setWork { workOf s t with drops := if e ∈ (workOf s t).drops then (workOf s t).drops else (workOf s t).drops ++ [e] } s := by
  simp only [dropArrives, Option.isNone_iff_eq_none, List.contains_iff_mem]

theorem epochWorkEnd_of_kept (h : (workOf s t).drops.contains e = false ∨ ownerWork s t e = true) :
    epochWorkEnd t e s = tableCheck t s := by
  have hkept : (!(workOf s t).drops.contains e || ownerWork s t e) = true := by simpa using h
  simp only [epochWorkEnd, epochDropped, hkept, if_true]

/-- R129 step 8: with the owner's work over, the slot of the epoch to drop becomes EMPTY. -/
theorem epochWorkEnd_of_dropped {i : Nat} (hd : (workOf s t).drops.contains e = true) (ho : ownerWork s t e = false)
    (hi : heldSlot (setWork { workOf s t with drops := (workOf s t).drops.filter fun x => x != e } s) t e
      (fun st => st == .previous || st == .retiring) = some i) :
    epochWorkEnd t e s =
      tableCheck t (emptySlot t i (setWork { workOf s t with drops := (workOf s t).drops.filter fun x => x != e } s)) := by
  simp only [epochWorkEnd, epochDropped, hd, ho, hi, Bool.not_true, Bool.or_self, Bool.false_eq_true, if_false]

theorem retireTime_of_set {x : Nat} (h : (workOf s t).retireAt = some x) : retireTime t s = retireNow t (reachTime x s) := by
  simp only [retireTime, h]

end

/-! ### RETIRE_TABLE and LOAD_TABLE (R123, R124, R134, R136) -/

section
variable {c : Cmd} {s : State}

theorem retireTable_of_reserved (h : bits (par c 0) 63 17 ≠ 0) : retireTable c s = badPacket c 0 (startCmd c s) := if_pos h

section
variable (hz : bits (par c 0) 63 17 = 0)
include hz

theorem retireTable_of_local (hd : bit (par c 0) 16 = false)
    (hloss : (dirRead [c] (bits (par c 0) 15 0) (startCmd c s)).hl.loss = none) :
    retireTable c s = retireLocal c (dirRead [c] (bits (par c 0) 15 0) (startCmd c s)) :=
  (if_neg (by simp [hz])).trans ((if_pos (by simp [hd])).trans (if_neg (by simp [hloss])))

variable (hd : bit (par c 0) 16 = true)
include hd

theorem retireTable_of_member (hm : isManager (startCmd c s) = false) : retireTable c s = badPacket c 0 (startCmd c s) :=
  (if_neg (by simp [hz])).trans ((if_neg (by simp [hd])).trans (if_pos (by simp [hm])))

/-- R134, R136: a new domain retirement waits for a publication of the table. -/
theorem retireTable_of_manager (hm : isManager (startCmd c s) = true) (hw : c ∉ (startCmd c s).tbl.waitRetire)
    (hr : ∀ r ∈ (startCmd c s).tbl.retires, c ∉ r.cmds) :
    retireTable c s =
      let u := startCmd c s
      if (pubOf u (bits (par c 0) 15 0)).isSome then u.setTbl { u.tbl with waitRetire := u.tbl.waitRetire ++ [c] } else retireDomain c u :=
  (if_neg (by simp [hz])).trans ((if_neg (by simp [hd])).trans ((if_neg (by simp [hm])).trans (if_neg (by simpa [hw] using hr))))

end

theorem retireAfter_of_running (hp : (pubOf s (bits (par c 0) 15 0)).isSome = true) : retireAfter c s = s := if_pos (by simp [hp])

theorem retireAfter_of_ended (hw : c ∈ s.tbl.waitRetire) (hp : pubOf s (bits (par c 0) 15 0) = none) :
    retireAfter c s = retireDomain c (s.setTbl { s.tbl with waitRetire := s.tbl.waitRetire.filter fun x => x != c }) :=
  if_neg (by simp [hp, hw])

/-- The state in which a LOAD_TABLE that is not a deferred one is judged. -/
abbrev loadRead (c : Cmd) (s : State) : State := dirRead [c] (bits (par c 0) 15 0) (startCmd c s)

section
variable (hf : ∀ x ∈ s.crn.fresh, x.1 ≠ c) (hloss : (loadRead c s).hl.loss = none)
include hf hloss

theorem loadTable_of_reserved (h : bits (par c 0) 63 16 ≠ 0) : loadTable c s = badPacket c 0 (loadRead c s) := by
  have hnew : (s.crn.fresh.any fun x => x.1 == c) = false := List.any_eq_false.mpr fun x hx => by simpa using hf x hx
  simp only [loadTable, hnew, hloss, h, Option.isSome_none, Bool.false_eq_true, if_false, ne_eq, not_false_eq_true, if_true]

variable (h : bits (par c 0) 63 16 = 0) (hp : findSlot (loadRead c s) (bits (par c 0) 15 0) (fun st _ => st == .pending) = none)
include h hp

/-- R43, R123: LOAD_TABLE is an enable of its table. -/
theorem loadTable_of_enable {fn : Fn} {act : EnableAct} (he : fnEnable (tableFn (loadRead c s) (bits (par c 0) 15 0)) c = (fn, act)) :
    loadTable c s = match act with
      | .carryOut => loadRun c (loadRead c s)
      | .okNow => completeOk c 0 (loadRead c s)
      | .deferred => complete c stDeferred 0 0 (setTableFn (bits (par c 0) 15 0) fn (loadRead c s)) := by
  have hnew : (s.crn.fresh.any fun x => x.1 == c) = false := List.any_eq_false.mpr fun x hx => by simpa using hf x hx
  cases act <;>
    simp only [loadTable, hnew, hloss, h, hp, he, Option.isSome_none, Bool.false_eq_true, if_false, ne_eq, not_true_eq_false]

end
end

/-- Settles O37: a publication on the manager (`publishTable_of_good`, `pubDecide_of_ready`) and on a member (`prepareArrives_of_fit`,
`flipTable_of_current`), then drains, drops and retirements, and LOAD_TABLE by the state of its table (`loadTable_of_enable`). -/
theorem tableVersionsAndPublication : Obligations.TableVersionsAndPublication := by
  refine ⟨fun s => ⟨fun c hon => ⟨?_, ?_⟩, ?_, fun h t e desc hloss => ⟨fun i hi => ⟨?_, ?_, ?_⟩, fun hp => ⟨?_, ?_⟩⟩, ?_,
      fun h t e p hp => ⟨?_, fun he hn => ⟨?_, ?_⟩⟩, ?_, ?_, fun t p hon hp => ⟨?_, ?_⟩⟩,
    fun s h t e => ⟨?_, fun x hp => ⟨?_, ?_, ?_⟩, ?_, ?_, ?_, ?_, fun hon => ⟨?_, ?_, ?_⟩, ?_, ?_, fun hon => ⟨?_, ?_⟩, ?_, ?_,
      fun c hon => ⟨?_, ?_, ?_, ?_, ?_, ?_⟩⟩⟩
  · exact fun hbad => whileOn_next hon (publishTable_of_bad hbad)
  · intro hgood hnew t e v hloss l w hread z rs
    have reads := (publishTable_of_good hgood hnew hloss).trans (runAcc_of_ok hread)
    exact ⟨fun hm => whileOn_next hon (reads.trans (publishWith_of_misfit hm)),
      fun hm => ⟨fun hp => whileOn_next hon (reads.trans (publishWith_of_running hm hp)),
        fun hp => whileOn_next hon (reads.trans (publishWith_of_free hm hp))⟩⟩
  · exact fun h t e time desc ha => next_deliver_accepts ha fun _ => rfl
  · exact fun he => (prepareArrives_of_pending hloss hi).trans (if_pos he)
  · exact fun he hd => (prepareArrives_of_pending hloss hi).trans ((if_neg (not_not.mpr he)).trans (if_pos hd))
  · exact fun he hd => (prepareArrives_of_pending hloss hi).trans ((if_neg (not_not.mpr he)).trans (if_neg hd))
  · exact fun r hr => prepareArrives_of_reason hloss hp hr
  · exact fun i hr hi => prepareArrives_of_fit hloss hp hr hi
  · exact fun h t e ha => next_deliver_accepts ha fun _ => rfl
  · exact readyArrives_of_old hp
  · exact fun hw => (readyArrives_of_new hp he hn).trans (pubDecide_of_open hw)
  · exact fun hc hr => (readyArrives_of_new hp he hn).trans (pubDecide_of_ready hc hr)
  · exact fun h t e reason ha => next_deliver_accepts ha fun _ => rfl
  · exact fun h t p reason hp hc => refuseArrives_of_uncommitted hp hc
  · exact fun hc => whileOn_next hon (replyDeadline_of_committed hp hc)
  · exact fun hc => whileOn_next hon (replyDeadline_of_uncommitted hp hc)
  · exact fun x ha => next_deliver_accepts ha fun _ => rfl
  · exact commitArrives_of_ahead hp
  · exact fun ha hx => (commitArrives_of_due hp ha).trans (congrArg _ (if_neg hx))
  · exact fun ha hx => (commitArrives_of_due hp ha).trans (congrArg _ (if_pos hx))
  · exact fun x hon hc => whileOn_next hon (commitTime_of_held hc)
  · exact fun hon hc => whileOn_next hon (commitTime_of_none hc)
  · intro i hi
    cases hj : currentSlot s t with
    | none => exact flipTable_of_first hi hj
    | some j => exact flipTable_of_current hi hj
  · refine fun ha => next_deliver_accepts ha fun u => ?_
    cases hi : findSlot u t fun st d => st == .pending && tdEpoch d == e with
    | none => exact abortArrives_of_none hi
    | some i => exact abortArrives_of_pending hi
  · exact fun hs => whileOn_next hon (drainDone_of_stamped hs)
  · exact fun hs hd _ hl => whileOn_next hon (drainDone_of_owed hs hd hl)
  · exact fun hs hd hl => whileOn_next hon (drainDone_of_local hs hd hl)
  · exact fun none ha => next_deliver_accepts ha fun _ => rfl
  · exact fun ha => next_deliver_accepts ha (dropArrives_eq t e)
  · exact fun hk => whileOn_next hon (epochWorkEnd_of_kept hk)
  · exact fun hd ho i hi => whileOn_next hon (epochWorkEnd_of_dropped hd ho hi)
  · exact fun time ha => next_deliver_accepts ha fun _ => rfl
  · exact fun x hon hr => whileOn_next hon (retireTime_of_set hr)
  · exact fun hz => whileOn_next hon (retireTable_of_reserved hz)
  · exact fun hz hd hloss => whileOn_next hon (retireTable_of_local hz hd hloss)
  · exact fun hz hd hm => whileOn_next hon (retireTable_of_member hz hd hm)
  · intro hz hd hm hw hr
    have manager := retireTable_of_manager hz hd hm hw hr
    exact ⟨fun hp => whileOn_next hon (manager.trans (if_pos hp)),
      fun hp => whileOn_next hon (manager.trans (if_neg (Option.not_isSome_iff_eq_none.mpr hp)))⟩
  · exact fun hw => ⟨fun hp => whileOn_next hon (retireAfter_of_running hp), fun hp => whileOn_next hon (retireAfter_of_ended hw hp)⟩
  · intro hf v hloss
    refine ⟨fun hz => whileOn_next hon (loadTable_of_reserved hf hloss hz), fun hz hp => ⟨fun hst => ?_, fun hst => ?_, fun hst => ?_⟩⟩
    · exact whileOn_next hon (loadTable_of_enable hf hloss hz hp (fnEnable_of_disabled hst))
    · exact whileOn_next hon (loadTable_of_enable hf hloss hz hp (fnEnable_of_enabled hst))
    · exact whileOn_next hon (loadTable_of_enable hf hloss hz hp (fnEnable_of_draining hst))

end Sys2Proof.Machine
end

-- The settling of the live tables' family: updates of rows, the sketch's decay and GRAFT_ROW.
section

namespace Sys2Proof.Machine

/-! ### UPDATE_ROWS at the requester (R137 to R140) -/

section
variable {c : Cmd} {d : List Byte} {s : State}

theorem updParamsBad_iff : updParamsBad c = true ↔
    bits (par c 0) 63 40 ≠ 0 ∨ bit (par c 0) 35 = true ∨ bit (par c 0) 39 = true ∨ bits (par c 1) 63 32 ≠ 0 ∨
      bits (par c 2) 63 48 ≠ 0 ∨ par c 1 = 0 ∨ 65536 < par c 1 := by
  simp [updParamsBad, or_assoc]

/-- The state in which the table of an UPDATE_ROWS has been read. -/
abbrev updTableRead (c : Cmd) (s : State) : State := dirRead [c] (bits (par c 0) 15 0) (startCmd c s)

/-- R138: the epoch that the batches of an UPDATE_ROWS are stamped with. -/
abbrev updStamp (c : Cmd) (s : State) : Nat :=
  if bit (par c 0) 32 then ((currentDesc s (bits (par c 0) 15 0)).map tdEpoch).getD 0 else bits (par c 0) 31 16

section
variable (hnew : ∀ x ∈ (startCmd c s).tbl.upds, x.cmd ≠ c)
include hnew

theorem updateRows_of_badParams (hp : updParamsBad c = true) : updateRows c s = badPacket c 0 (startCmd c s) :=
  (if_neg (by simpa using hnew)).trans (if_pos hp)

variable (hp : updParamsBad c = false) (hloss : (updTableRead c s).hl.loss = none)
include hp hloss

theorem updateRows_of_noDesc (hd : updDesc (updTableRead c s) (bits (par c 0) 15 0) (updStamp c (updTableRead c s)) = none) :
    updateRows c s = badPacket c 0 (updTableRead c s) := by
  have hold : ((startCmd c s).tbl.upds.any fun u => u.cmd == c) = false := by simpa using hnew
  simp only [updateRows, hold, hp, hloss, hd, Option.isSome_none, Bool.false_eq_true, if_false]

/-- R137, R139: the rows and deltas of an UPDATE_ROWS are read under the descriptor that buckets them. -/
theorem updateRows_of_desc (hd : updDesc (updTableRead c s) (bits (par c 0) 15 0) (updStamp c (updTableRead c s)) = some d) :
    updateRows c s = runAcc (.cmd c) (updRead c d) (updWith c (updStamp c (updTableRead c s)) d) (faultAt 0x0A 0 c) (updTableRead c s) := by
  have hold : ((startCmd c s).tbl.upds.any fun u => u.cmd == c) = false := by simpa using hnew
  simp only [updateRows, hold, hp, hloss, hd, Option.isSome_none, Bool.false_eq_true, if_false]

end

variable {e : Nat} {rows : List Nat} {deltas : List Byte}

theorem updWith_of_outside (h : ∃ x ∈ rows, tdRows d ≤ x) : updWith c e d (some (rows, deltas)) s = badPacket c 0 s :=
  if_pos (by simpa using h)

/-- R138, R140: a batch of an UPDATE_ROWS before its rows are put in, with the free value drawn at `n`. -/
abbrev updHead (c : Cmd) (d : List Byte) (e n : Nat) : UpdMsg :=
  { table := tdTable d, epoch := e, id := 0, op := bits (par c 0) 35 34, refit := bit (par c 0) 36, dfmt := bits (par c 0) 37 37,
    rnd := bits (par c 0) 39 38, updateId := bits (par c 2) 47 0, entropy := if tdExact d then 0 else (Config.entropy n).toNat,
    rows := [], deltas := [] }

/-- R139: the batches of an UPDATE_ROWS go out by owner pair. -/
theorem updWith_of_inside (h : ∀ x ∈ rows, x < tdRows d) :
    updWith c e d (some (rows, deltas)) s =
      let r := drawFree s
      let pairs := rows.map (updPair r.2 d e)
      updFinish c (pairs.eraseDups.foldl (fun s p => updBatches c (updHead c d e r.1) d rows pairs deltas p s)
        (r.2.setTbl { r.2.tbl with upds := r.2.tbl.upds ++ [{ cmd := c, table := tdTable d, epoch := e }] })) :=
  if_neg (by simpa using h)

end

/-! ### An update batch at its owner (R121, R143, R144, R154) -/

section
variable {src : Nat} {m : UpdMsg} {s : State}

theorem exec_updBatch_of_free {h : Hdr} (hw : updWithholds s m = none) :
    exec (.updBatch h m) s = .next (deliver h (.updBatch m) (updArrives h.src m) s) := by
  simp only [exec, execUpdBatch, updBatch, hw]

/-- R144: the acknowledgement of a batch of which no row has been served yet. -/
abbrev serveStart (src : Nat) (m : UpdMsg) : UpdServe := { src := src, ack := { table := m.table, epoch := m.epoch, id := m.id, applied := 0 } }

section
variable (hloss : (dirRead [] m.table s).hl.loss = none)
include hloss

theorem updArrives_of_gone (hg : updGone (dirRead [] m.table s) m = true) :
    updArrives src m s =
      send src (.updAck { (serveStart src m).ack with status := 1 }) (count Reg.TBL_CNT_UPD_EPOCH_GONE (dirRead [] m.table s)) :=
  (if_neg (by simp [hloss])).trans (if_pos hg)

/-- R143: the rows of a batch are served in order, then the batch is acknowledged or waits. -/
theorem updArrives_of_current {d : List Byte} (hg : updGone (dirRead [] m.table s) m = false)
    (hd : heldDesc (dirRead [] m.table s) m.table m.epoch (fun st => st == .current) = some d) :
    updArrives src m s =
      let r := (List.range m.rows.length).foldl (fun (a : UpdServe × State) i => updRowAt d m i a.1 a.2)
        (serveStart src m, dirRead [] m.table s)
      updServed r.1 r.2 := by
  simp only [updArrives, hloss, hg, hd, Option.isSome_none, Bool.false_eq_true, if_false]

end

theorem updServed_of_nothing {v : UpdServe} (hi : v.inv = []) (hr : v.rows = []) : updServed v s = send v.src (.updAck v.ack) s :=
  if_pos (by simp [hi, hr])

theorem updServed_of_waiting {v : UpdServe} (h : v.inv ≠ [] ∨ v.rows ≠ []) :
    updServed v s = s.setTbl { s.tbl with serves := s.tbl.serves ++ [v] } :=
  if_neg (by simpa [imp_iff_not_or] using h)

end

/-! ### GRAFT_ROW on the manager (R148, R149) -/

section
variable {c : Cmd} {d : List Byte} {s : State}

/-- R148: a GRAFT_ROW is refused for its source, its operation or its reserved fields. -/
def graftRefused (c : Cmd) (s : State) : Prop :=
  isManager s = false ∨ 4 < bits (par c 0) 3 0 ∨ bits (par c 0) 15 4 ≠ 0 ∨ bits (par c 0) 63 48 ≠ 0

/-- The Boolean that the model tests is `graftRefused`. -/
theorem graftRefused_iff : (!isManager s || 4 < bits (par c 0) 3 0 || bits (par c 0) 15 4 ≠ 0 || bits (par c 0) 63 48 ≠ 0) = true ↔
    graftRefused c s := by
  simp [graftRefused, or_assoc]

theorem graftRow_of_refused (h : graftRefused c (startCmd c s)) : graftRow c s = badPacket c 0 (startCmd c s) :=
  if_pos (graftRefused_iff.mpr h)

/-- The row that a GRAFT_ROW names. -/
abbrev graftRef (c : Cmd) : RowRef := ⟨bits (par c 0) 31 16, bits (par c 0) 47 32, bits (par c 1) 39 0⟩

/-- The state in which a GRAFT_ROW is judged. -/
abbrev graftRead (c : Cmd) (s : State) : State := dirRead [c] (bits (par c 0) 31 16) (startCmd c s)

section
variable (hr : ¬graftRefused c (startCmd c s)) (hnew : ∀ g ∈ (startCmd c s).tbl.grafts, g.cmd ≠ some c)
  (hloss : (graftRead c s).hl.loss = none)
include hr hnew hloss

theorem graftRow_of_noVersion (hd : currentDesc (graftRead c s) (bits (par c 0) 31 16) = none) :
    graftRow c s = complete c stEpochGone 0 0 (graftRead c s) := by
  have hold : ((startCmd c s).tbl.grafts.any fun g => g.cmd == some c) = false := by simpa using hnew
  simp only [graftRow, Bool.eq_false_iff.mpr (mt graftRefused_iff.mp hr), hold, hloss, hd, Option.isSome_none, Bool.false_eq_true, if_false]

/-- R149: the checks of a GRAFT_ROW against the table's CURRENT version, in their order. -/
theorem graftRow_of_current (hd : currentDesc (graftRead c s) (bits (par c 0) 31 16) = some d) :
    graftRow c s =
      let v := graftRead c s
      let op := bits (par c 0) 3 0
      let target := bits (par c 2) 15 0
      if 2 ≤ op ∧ graftBad v d op target (graftRef c) = true then badPacket c 0 v
      else if tdEpoch d ≠ bits (par c 0) 47 32 then complete c stEpochGone 0 0 v
      else if op ≤ 1 then
        completeOk c 0 (setDirWord (bits (par c 0) 31 16) 0 (setBits (dirWord v (bits (par c 0) 31 16) 0) 7 7 (1 - op)) v)
      else if graftBusy v op target (graftRef c) then complete c stNoResource 0 0 v
      else graftStart c d op target (graftRef c) v := by
  have hold : ((startCmd c s).tbl.grafts.any fun g => g.cmd == some c) = false := by simpa using hnew
  simp only [graftRow, Bool.eq_false_iff.mpr (mt graftRefused_iff.mp hr), hold, hloss, hd, Option.isSome_none, Bool.false_eq_true, if_false,
    Bool.and_eq_true, decide_eq_true_eq, bne_iff_ne]

end
end

/-- Settles O38: UPDATE_ROWS by its checks and its rows (`updateRows_of_desc`, `updWith_of_inside`), a batch at its owner
(`updArrives_of_current`, `updServed_of_waiting`), and GRAFT_ROW by its checks in their order (`graftRow_of_current`). -/
theorem rowUpdatesAndGraft : Obligations.RowUpdatesAndGraft := by
  refine ⟨fun s h => ⟨fun c hon hnew => ⟨fun hbad => ?_, fun hgood hloss => ⟨fun hd => ?_, fun d w hd => ?_⟩⟩,
      ?_, fun src m hloss => ⟨?_, ?_⟩, fun v => ⟨updServed_of_nothing, updServed_of_waiting⟩, ?_, ?_, ?_⟩,
    fun s hon => ⟨?_, fun c => ⟨fun hbad => ?_, fun hgood hnew hloss => ⟨fun hd => ?_, fun d hd => ?_⟩⟩⟩⟩
  · exact whileOn_next hon (updateRows_of_badParams hnew (updParamsBad_iff.mpr hbad))
  · exact whileOn_next hon (updateRows_of_noDesc hnew (Bool.eq_false_iff.mpr (mt updParamsBad_iff.mp hgood)) hloss hd)
  · have reads := updateRows_of_desc hnew (Bool.eq_false_iff.mpr (mt updParamsBad_iff.mp hgood)) hloss hd
    refine ⟨fun hr => ?_, fun rows deltas hr hx => ?_, fun rows deltas hr hx => ?_, fun f hr => ?_⟩
    · exact whileOn_next hon (reads.trans (runAcc_of_ok hr))
    · exact whileOn_next hon (reads.trans ((runAcc_of_ok hr).trans (updWith_of_outside hx)))
    · exact whileOn_next hon (reads.trans ((runAcc_of_ok hr).trans (updWith_of_inside hx)))
    · exact whileOn_next hon (reads.trans (runAcc_of_fail hr))
  · exact fun m ha hw => (exec_updBatch_of_free hw).trans (next_deliver_accepts ha fun _ => rfl)
  · exact updArrives_of_gone hloss
  · exact fun d => updArrives_of_current hloss
  · exact fun m ha => next_deliver_accepts ha fun _ => rfl
  · exact fun r ha => next_deliver_accepts ha fun _ => rfl
  · exact fun r ha => next_deliver_accepts ha fun _ => rfl
  · exact whileOn_next hon rfl
  · exact whileOn_next hon (graftRow_of_refused hbad)
  · exact whileOn_next hon (graftRow_of_noVersion hgood hnew hloss hd)
  · have checks := graftRow_of_current hgood hnew hloss hd
    refine ⟨fun hop hb => ?_, fun hb he => ?_, fun hop he => ?_, fun hop hb he => ?_⟩
    · exact whileOn_next hon (checks.trans (if_pos ⟨hop, hb⟩))
    · have hfits := fun hbad => hb.elim (Nat.not_le.mpr (And.left hbad)) fun hb => Bool.eq_false_iff.mp hb hbad.2
      exact whileOn_next hon (checks.trans ((if_neg hfits).trans (if_pos he)))
    · exact whileOn_next hon
        (checks.trans ((if_neg fun hbad => Nat.not_le.mpr hbad.1 hop).trans ((if_neg (not_not.mpr he)).trans (if_pos hop))))
    · have fits := checks.trans ((if_neg fun hbad => Bool.eq_false_iff.mp hb hbad.2).trans
        ((if_neg (not_not.mpr he)).trans (if_neg (Nat.not_le.mpr hop))))
      exact ⟨fun hbusy => whileOn_next hon (fits.trans (if_pos hbusy)),
        fun hbusy => whileOn_next hon (fits.trans (if_neg (Bool.eq_false_iff.mp hbusy)))⟩

end Sys2Proof.Machine
end

-- The settling of the live tables' family: read-only replicas and the migration of a row.
section

namespace Sys2Proof.Machine

/-! ### Replicas at their owner and their holder (R151, R152) -/

section
variable {r : RowRef} {s : State}

theorem repDropArrives_eq (r : RowRef) (holder : Nat) (s : State) : repDropArrives r holder s =
    if holder ∉ (holdersRow s r).devs ∨ isDown s holder = true then repDoneTo r holder (unregister r holder s)
    else send holder (.repRevoke r) (setHolders { holdersRow s r with
      dropping := if holder ∈ (holdersRow s r).dropping then (holdersRow s r).dropping else (holdersRow s r).dropping ++ [holder] } s) := by
  simp only [repDropArrives, Bool.or_eq_true, Bool.not_eq_true', ← Bool.not_eq_true, List.contains_iff_mem]

/-- R152, R153: REP_REVOKE leaves the entry of a row that has moved. -/
def outlastsRevoke (r : RowRef) (x : Overlay) : Bool :=
  x.row != r || (match x.state with
    | .moved _ => true
    | _ => false)

theorem outlastsRevoke_iff {x : Overlay} : outlastsRevoke r x = true ↔ (x.row = r → ∃ b, x.state = .moved b) := by
  cases hx : x.state <;> simp [outlastsRevoke, hx]

theorem repRevokeArrives_eq (src : Nat) (r : RowRef) (s : State) : repRevokeArrives src r s =
    send src (.repAck r) (s.setTbl { s.tbl with overlay := s.tbl.overlay.filter (outlastsRevoke r) }) := rfl

/-- R152: REP_ACK of a row that no migration copies: the holder is let go, or registered, or unknown. -/
theorem repAcked_of_uncopied {dev : Nat} (h : migOf s r = none ∨ ∃ m, migOf s r = some m ∧ m.state ≠ .copying) :
    repAcked dev r s =
      if dev ∈ (holdersRow s r).dropping then repDoneTo r dev (unregister r dev s)
      else if dev ∈ (holdersRow s r).devs then repDoneTo r dev s
      else s := by
  have hcopy : ((migOf s r).any fun m => m.state == .copying && m.revoking.contains dev) = false := by
    rcases h with h | ⟨m, h, hm⟩
    · simp [h]
    · simp [h, hm]
  simp only [repAcked, hcopy, Bool.false_eq_true, if_false, List.contains_iff_mem]

/-- R149, R152: REP_DONE ends the GRAFT_ROW of its holder, and the manager's list follows. -/
theorem repDoneArrives_of_graft {holder : Nat} {g : GraftOp}
    (h : graftOf s r (fun g => (g.op == 2 || g.op == 3) && g.target == holder) = some g) :
    repDoneArrives r holder s =
      let l := s.tbl.replicated.filter fun x => x != (r, holder)
      graftEnd g (completeOk · 0) (s.setTbl { s.tbl with replicated := if g.op = 2 then l ++ [(r, holder)] else l }) := by
  simp only [repDoneArrives, h, beq_iff_eq]

/-- R151: the owner answers REP_FILL of a holder with the row's slot. -/
theorem repFillArrives_of_holder {src a : Nat} {d l : List Byte} {u : State} (hh : src ∈ (holdersRow s r).devs) (hm : migOf s r = none)
    (ho : ownerClosed s = false) (hd : heldDesc s r.table r.epoch SlotState.serves = some d) (hl : slotRead d r.row s = (.ok (a, l), u)) :
    repFillArrives src r s = send src (.fillData r l) u := by
  simp only [repFillArrives, List.contains_iff_mem.mpr hh, hm, ho, hd, hl, Option.isSome_none, Bool.not_true, Bool.or_self,
    Bool.false_eq_true, if_false]

end

/-! ### A row's migration on its parties (R153, R154) -/

section
variable {r : RowRef} {s : State}

/-- R153: what a party of a new migration keeps of it. -/
abbrev migNew (r : RowRef) (b a c : Nat) : Mig := { row := r, state := .receiving, newOwner := b, oldOwner := a, replica := c }

section
variable {b a c : Nat} (hm : migOf s r = none)
include hm

theorem migBegins_of_new (hb : ownId s = b) (hba : b ≠ a) (hbc : b ≠ c) : migBegins r b a c s = setMig (migNew r b a c) s := by
  subst hb
  simp only [migBegins, hm, Option.isSome_none, Bool.false_eq_true, if_false, hba, hbc, if_true]

theorem migBegins_of_replica (hc : ownId s = c) (hca : c ≠ a) :
    migBegins r b a c s = setMig { migNew r b a c with state := .shadow } s := by
  subst hc
  simp only [migBegins, hm, Option.isSome_none, Bool.false_eq_true, if_false, hca, if_true]

/-- R153 step 2: the old owner revokes the row's replicas, and sends the slot once their holders have answered. -/
theorem migBegins_of_old (ha : ownId s = a) (hdown : (holdersRow s r).devs.filter (fun d => isDown s d) = []) :
    let live := (holdersRow s r).devs.filter fun d => !isDown s d
    migBegins r b a c s =
      migSend r (sendAll live (.repRevoke r) (setMig { migNew r b a c with state := .copying, revoking := live } s)) := by
  simp only [migBegins, hm, ha, hdown, Option.isSome_none, Bool.false_eq_true, if_false, if_true, List.foldl_nil]

end

section
variable {m : Mig} (hm : migOf s r = some m)
include hm

theorem migStores_of_receiving {l : List Byte} (hst : m.state = .receiving) :
    migStores r l s = send m.oldOwner (.migReady r) (updMigs r (fun m => { m with state := .owner l }) s) := by
  simp only [migStores, hm, hst]
  rfl

section
variable (hst : m.state = .copying)
include hst

theorem migReadyArrives_of_alone (h : m.replica = 0xFFFF ∨ isDown s m.replica = true) :
    migReadyArrives r s = migForward r (updMigs r (fun m => { m with state := .forwarding, revoking := [] }) s) := by
  have halone : (decide (m.replica = 0xFFFF) || isDown s m.replica) = true := by simpa using h
  simp only [migReadyArrives, hm, hst, halone, bne_self_eq_false, Bool.false_eq_true, if_false, if_true]

/-- R153 step 4: the shard replica is told before the held updates are forwarded. -/
theorem migReadyArrives_of_replica (hr : m.replica ≠ 0xFFFF) (hd : isDown s m.replica = false) :
    migReadyArrives r s =
      send m.replica (.migFwd r) (updMigs r (fun m => { m with state := .forwarding, revoking := [m.replica] }) s) := by
  have halone : (decide (m.replica = 0xFFFF) || isDown s m.replica) = false := by simp [hr, hd]
  simp only [migReadyArrives, hm, hst, halone, bne_self_eq_false, Bool.false_eq_true, if_false]

end

theorem fwdAcked_of_awaited (hst : m.state = .forwarding) (hw : m.revoking ≠ []) :
    fwdAcked r s = migForward r (updMigs r (fun m => { m with revoking := [] }) s) :=
  if_pos (by simp [hm, hst, hw])

theorem rowFetchArrives_of_owner {src tag : Nat} {l : List Byte} (hst : m.state = .owner l) (ho : ownerClosed s = false) :
    rowFetchArrives src r tag s = send src (.rowData r tag l) s := by
  simp only [rowFetchArrives, hm, Option.map_some, hst, ho, Bool.false_eq_true, if_false]

/-- R155: the state in which a party has gone back from a migration that copied no further. -/
def migUndone (r : RowRef) (m : Mig) (s : State) : State :=
  if m.state = .copying ∨ m.state = .shadow ∨ m.state = .receiving then m.held.foldl (fun s x => applyHeld r x s) (dropMig r s) else s

theorem migAbandon_of_unowned (hg : graftOf (migUndone r m s) r (fun g => g.op == 4 && !g.copied) = none) :
    migAbandon r s = migUndone r m s := by
  unfold migUndone at hg ⊢
  simp only [migAbandon, hm, Bool.or_eq_true, beq_iff_eq, or_assoc, hg]

/-- R155: the manager of an abandoned migration fails its GRAFT_ROW. -/
theorem migAbandon_of_graft {g : GraftOp} (hg : graftOf (migUndone r m s) r (fun g => g.op == 4 && !g.copied) = some g) :
    migAbandon r s = graftEnd g (fun c s => faultCmd c .fabric s) (mgrCopy (.migEnded r) id (migUndone r m s)) := by
  unfold migUndone at hg ⊢
  simp only [migAbandon, hm, Bool.or_eq_true, beq_iff_eq, or_assoc, hg]

end

theorem overlayAckArrives_of_graft {src : Nat} {g : GraftOp} (h : graftOf s r (fun g => g.op == 4 && g.copied) = some g) :
    overlayAckArrives src r s = migCheck r (setGraft { g with acks := if src ∈ g.acks then g.acks else g.acks ++ [src] } s) := by
  simp only [overlayAckArrives, h, List.contains_iff_mem]

theorem migCopiedArrives_of_graft {g : GraftOp} (h : graftOf s r (fun g => g.op == 4 && !g.copied) = some g) :
    migCopiedArrives r s = migSpread g s := by
  simp only [migCopiedArrives, h]

theorem migCopiedArrives_of_none (h : graftOf s r (fun g => g.op == 4 && !g.copied) = none) : migCopiedArrives r s = s := by
  simp only [migCopiedArrives, h]

end

/-- Settles O39: each message by its row (`next_deliver_accepts`), a holder by its entry (`outlastsRevoke_iff`, `repAcked_of_uncopied`),
and a migration step by step on its parties (`migBegins_of_old`, `migReadyArrives_of_replica`, `fwdAcked_of_awaited`) to its end or
its abandonment. -/
theorem replicasAndMigration : Obligations.ReplicasAndMigration := by
  refine ⟨fun s h r => ⟨?_, ?_, ?_, ?_, ?_, ?_, fun dev hm => ⟨?_, ?_, ?_⟩, ?_, ?_, ?_, ?_, ?_⟩,
    fun s h r => ⟨?_, fun b a c hm => ⟨?_, ?_, ?_⟩, ?_, ?_, ?_, fun m hm hst => ⟨?_, ?_⟩, ?_, ?_, ?_, ?_, ?_, ?_, ?_, ?_, ?_, ?_, ?_,
      fun hon m hm => ⟨?_, ?_⟩⟩⟩
  · exact fun holder ha => next_deliver_accepts ha fun u => by simp only [List.contains_iff_mem, repDoneTo]
  · exact fun holder ha => next_deliver_accepts ha (repDropArrives_eq r holder)
  · exact fun ha => next_deliver_accepts ha fun _ => rfl
  · exact fun ha => next_deliver_accepts ha fun _ => rfl
  · exact ⟨_, repRevokeArrives_eq h.src r s, rfl, fun x => List.mem_filter.trans (and_congr_right fun _ => outlastsRevoke_iff)⟩
  · exact fun ha => next_deliver_accepts ha fun _ => rfl
  · exact fun hd => (repAcked_of_uncopied hm).trans (if_pos hd)
  · exact fun hd hh => (repAcked_of_uncopied hm).trans ((if_neg hd).trans (if_pos hh))
  · exact fun hd hh => (repAcked_of_uncopied hm).trans ((if_neg hd).trans (if_neg hh))
  · exact fun holder ha => next_deliver_accepts ha fun _ => rfl
  · exact fun holder g => repDoneArrives_of_graft
  · exact fun ha => next_deliver_accepts ha fun _ => rfl
  · exact fun hh hm ho d a l u => repFillArrives_of_holder hh hm ho
  · exact fun slot ha => next_deliver_accepts ha fun _ => rfl
  · exact fun b a c ha => next_deliver_accepts ha fun _ => rfl
  · exact migBegins_of_new hm
  · exact migBegins_of_replica hm
  · exact migBegins_of_old hm
  · exact fun slot ha => next_deliver_accepts ha fun _ => rfl
  · exact fun m slot hm => migStores_of_receiving hm
  · exact fun ha => next_deliver_accepts ha fun _ => rfl
  · exact migReadyArrives_of_alone hm hst
  · exact migReadyArrives_of_replica hm hst
  · exact fun ha => next_deliver_accepts ha fun _ => rfl
  · exact fun ha => next_deliver_accepts ha fun _ => rfl
  · exact fun m hm => fwdAcked_of_awaited hm
  · refine fun ha => next_deliver_accepts ha fun u => ?_
    cases hg : graftOf u r fun g => g.op == 4 && !g.copied with
    | none => exact migCopiedArrives_of_none hg
    | some g => exact migCopiedArrives_of_graft hg
  · exact fun b ha => next_deliver_accepts ha fun _ => rfl
  · exact fun ha => next_deliver_accepts ha fun _ => rfl
  · exact fun src g => overlayAckArrives_of_graft
  · exact fun b a c ha => next_deliver_accepts ha fun _ => rfl
  · exact fun tag ha => next_deliver_accepts ha fun _ => rfl
  · exact fun m l src tag hm => rowFetchArrives_of_owner hm
  · exact fun tag slot ha => next_deliver_accepts ha fun _ => rfl
  · exact fun hg => whileOn_next hon (migAbandon_of_unowned hm hg)
  · exact fun g hg => whileOn_next hon (migAbandon_of_graft hm hg)

end Sys2Proof.Machine
end

-- The settling of the memory family: the arithmetic of memory-side operations and the order of a reduction group.
section

namespace Sys2Proof.Machine

/-! ### Numbers and their bytes -/

theorem ofLe_leBytes : ∀ n v : Nat, ofLe (leBytes n v) = v % 256 ^ n
  | 0, v => by simp [leBytes, ofLe, Nat.mod_one]
  | n + 1, v => by
    rw [leBytes, ofLe, ofLe_leBytes n, BitVec.toNat_ofNat, Nat.pow_succ' (m := 256)]
    exact Nat.mod_mul.symm

theorem leBytes_ofLe : ∀ l : List Byte, leBytes l.length (ofLe l) = l
  | [] => rfl
  | b :: bs => by
    have hlow : BitVec.ofNat 8 (b.toNat + 256 * ofLe bs) = b := BitVec.eq_of_toNat_eq (by simp; omega)
    have hhigh : (b.toNat + 256 * ofLe bs) / 256 = ofLe bs := by have := b.isLt; omega
    rw [List.length_cons, ofLe, leBytes, hlow, hhigh, leBytes_ofLe bs]

theorem ofLe_leBytes_of_lt {n v : Nat} (h : v < 256 ^ n) : ofLe (leBytes n v) = v := (ofLe_leBytes n v).trans (Nat.mod_eq_of_lt h)

/-- The bytes of a list hold its number without a remainder (`ofLe_leBytes`, `leBytes_ofLe`). -/
theorem ofLe_lt (l : List Byte) : ofLe l < 256 ^ l.length := by
  have hmod := ofLe_leBytes l.length (ofLe l)
  rw [leBytes_ofLe] at hmod
  exact hmod ▸ Nat.mod_lt _ (by positivity)

/-- Byte lists of one length are equal when their numbers are. -/
theorem ofLe_inj {l m : List Byte} (hlen : l.length = m.length) : ofLe l = ofLe m ↔ l = m :=
  ⟨fun h => by rw [← leBytes_ofLe l, ← leBytes_ofLe m, h, hlen], congrArg ofLe⟩

/-! ### The integer operations (R175) -/

section
variable {x y n : Nat}

/-- R175: the signed minimum keeps the target unless the operand lies below it. -/
theorem sext_signedMin : sext (if sext y n < sext x n then y else x) n = min (sext x n) (sext y n) := by
  rw [apply_ite (sext · n)]
  split <;> omega

theorem sext_signedMax : sext (if sext x n < sext y n then y else x) n = max (sext x n) (sext y n) := by
  rw [apply_ite (sext · n)]
  split <;> omega

end

/-- R175: CAS compares the target with the low half of its operand and stores the high half where they are equal. -/
theorem leBytes_cas {t a : List Byte} {n : Nat} (ht : t.length = n) (ha : a.length = 2 * n) :
    let stored := leBytes t.length (if ofLe t = leAt a 0 n then leAt a n n else ofLe t)
    (a.take n = t → stored = a.drop n) ∧ (a.take n ≠ t → stored = t) := by
  have hhigh : leAt a n n = ofLe (a.drop n) := by rw [leAt, slice, List.take_of_length_le (by simp; omega)]
  have heq : ofLe t = leAt a 0 n ↔ a.take n = t := (ofLe_inj (m := a.take n) (by simp; omega)).trans eq_comm
  have hdrop : t.length = (a.drop n).length := by simp; omega
  refine ⟨fun h => ?_, fun h => ?_⟩
  · rw [if_pos (heq.mpr h), hhigh, hdrop, leBytes_ofLe]
  · rw [if_neg (mt heq.mp h), leBytes_ofLe]

section
variable {t a : List Byte}

/-- R175: the operations on targets of 32 bits. -/
theorem memopApply_word (ht : t.length = 4) (ha : a.length = 4) :
    ofLe (memopApply 0x00 t a) = (ofLe t + ofLe a) % 2 ^ 32 ∧ ofLe (memopApply 0x02 t a) = min (ofLe t + ofLe a) 0xFFFFFFFF ∧
    sext (ofLe (memopApply 0x03 t a)) 32 = min (sext (ofLe t) 32) (sext (ofLe a) 32) ∧
    sext (ofLe (memopApply 0x04 t a)) 32 = max (sext (ofLe t) 32) (sext (ofLe a) 32) ∧
    ofLe (memopApply 0x05 t a) = min (ofLe t) (ofLe a) ∧ ofLe (memopApply 0x06 t a) = max (ofLe t) (ofLe a) := by
  have hx : ofLe t < 2 ^ 32 := by simpa [ht] using ofLe_lt t
  have hy : ofLe a < 2 ^ 32 := by simpa [ha] using ofLe_lt a
  have hput {v : Nat} (h : v < 2 ^ 32) : ofLe (leBytes 4 v) = v := ofLe_leBytes_of_lt h
  have htake : a.take 4 = a := List.take_of_length_le ha.le
  simp only [memopApply, ht, htake]
  refine ⟨ofLe_leBytes 4 _, hput (by omega), ?_, ?_, hput (by omega), hput (by omega)⟩
  · rw [hput (by split <;> assumption), sext_signedMin]
  · rw [hput (by split <;> assumption), sext_signedMax]

/-- R175: the operations on targets of 64 bits; SWAP stores the operand's bytes. -/
theorem memopApply_long (ht : t.length = 8) (ha : a.length = 8) :
    ofLe (memopApply 0x01 t a) = (ofLe t + ofLe a) % 2 ^ 64 ∧
    sext (ofLe (memopApply 0x07 t a)) 64 = min (sext (ofLe t) 64) (sext (ofLe a) 64) ∧
    sext (ofLe (memopApply 0x08 t a)) 64 = max (sext (ofLe t) 64) (sext (ofLe a) 64) ∧
    ofLe (memopApply 0x09 t a) = ofLe t &&& ofLe a ∧ ofLe (memopApply 0x0A t a) = ofLe t ||| ofLe a ∧
    ofLe (memopApply 0x0B t a) = ofLe t ^^^ ofLe a ∧ memopApply 0x0C t a = a := by
  have hx : ofLe t < 2 ^ 64 := by simpa [ht] using ofLe_lt t
  have hy : ofLe a < 2 ^ 64 := by simpa [ha] using ofLe_lt a
  have hput {v : Nat} (h : v < 2 ^ 64) : ofLe (leBytes 8 v) = v := ofLe_leBytes_of_lt h
  have htake : a.take 8 = a := List.take_of_length_le ha.le
  simp only [memopApply, ht, htake]
  refine ⟨ofLe_leBytes 8 _, ?_, ?_, hput (Nat.and_lt_two_pow _ hy), hput (Nat.or_lt_two_pow hx hy), hput (Nat.xor_lt_two_pow hx hy), ?_⟩
  · rw [hput (by split <;> assumption), sext_signedMin]
  · rw [hput (by split <;> assumption), sext_signedMax]
  · exact ha ▸ leBytes_ofLe a

end

/-- Settles O17: the operations of each width (`memopApply_word`, `memopApply_long`), and the two compare-and-swaps by `leBytes_cas`. -/
theorem memopArithmetic : Obligations.MemopArithmetic :=
  fun _ _ => ⟨memopApply_word, memopApply_long, fun ht ha => leBytes_cas ht ha, fun ht ha => leBytes_cas ht ha⟩

/-! ### The order of a reduction group (R179) -/

theorem stageIn_perm (m : MemReq) : ∀ l : List MemReq, (stageIn m l).Perm (m :: l)
  | [] => .refl _
  | x :: xs => by
    rw [stageIn]
    split
    · exact .refl _
    · exact ((stageIn_perm m xs).cons x).trans (.swap m x xs)

/-- R179: a contribution goes before the first one of a higher contrib. -/
theorem stageIn_ascending (m : MemReq) : ∀ {l : List MemReq}, (l.Pairwise fun x y => x.contrib ≤ y.contrib) →
    (stageIn m l).Pairwise fun x y => x.contrib ≤ y.contrib
  | [], _ => List.pairwise_singleton _ m
  | x :: xs, h => by
    obtain ⟨hx, hxs⟩ := List.pairwise_cons.mp h
    rw [stageIn]
    split
    next hlt =>
      refine List.pairwise_cons.mpr ⟨fun y hy => ?_, h⟩
      rcases List.mem_cons.mp hy with rfl | hy
      · exact hlt.le
      · exact hlt.le.trans (hx y hy)
    next hge =>
      refine List.pairwise_cons.mpr ⟨fun y hy => ?_, stageIn_ascending m hxs⟩
      rcases List.mem_cons.mp ((stageIn_perm m xs).mem_iff.mp hy) with rfl | hy
      · exact Nat.le_of_not_lt hge
      · exact hx y hy

/-- Settles O19: the order is kept by `stageIn_ascending`, and `stageIn_perm` says that nothing is lost. -/
theorem reductionGroupOrder : Obligations.ReductionGroupOrder := fun m l h => ⟨stageIn_ascending m h, stageIn_perm m l⟩

end Sys2Proof.Machine
end

-- The settling of the memory family: memory-side operations at their unit, and the accesses of other devices.
section

namespace Sys2Proof.Machine

/-! ### At the Xylem unit (R176 to R180, R185) -/

section
variable {m : MemReq} {s : State}

theorem memopApplied_of_req {j : Nat} (h : s.xyl.reqs[j]? = some m) :
    let u := s.setXyl { s.xyl with reqs := s.xyl.reqs.eraseIdx j }
    memopApplied j s = memopOutcomes (memopReach m u).1 (memopReach m u).2 := by simp only [memopApplied, h]

/-- R176: an operation that may not be done is refused. -/
theorem memopReach_of_fault {f : Flt} (h : (m.elems.findSome? fun e => memopFault m.code e.1 m.exact) = some f) :
    memopReach m s = ([(m, .error f)], s) := by simp only [memopReach, h]

section
variable (hf : (m.elems.findSome? fun e => memopFault m.code e.1 m.exact) = none)
include hf

/-- R179: in Exact mode a float add joins its group. -/
theorem memopReach_of_staged (h : (m.exact && memopFloatAdd (memopOp m.code)) = true) : memopReach m s = memopStage m s := by
  simp only [memopReach, hf, h, if_true]

theorem memopReach_of_alone (h : (m.exact && memopFloatAdd (memopOp m.code)) = false) :
    memopReach m s = ([(m, (memopRun m s).1)], (memopRun m s).2) := by
  simp only [memopReach, hf, h, Bool.false_eq_true, if_false]

end

/-- R185: a poisoned sector is read and refused. -/
theorem memopRun_of_poisoned (h : (meetErrors ((m.elems.map (·.1)).headD 0 / 64 * 64) 64 s).1 = true) :
    let o := (m.elems.map (·.1)).headD 0
    memopRun m s = (.error .ecc, evt (133 + channelOf o / 32) 0x90 (channelOf o % 32) 1 none (meetErrors (o / 64 * 64) 64 s).2) :=
  if_pos h

/-- R177, R173: a sector that is sound is read, modified and written, and its line leaves the Canopy. -/
theorem memopRun_of_sound (h : (meetErrors ((m.elems.map (·.1)).headD 0 / 64 * 64) 64 s).1 = false) :
    let o := (m.elems.map (·.1)).headD 0
    let v := evt (133 + channelOf o / 32) 0x90 (channelOf o % 32) 1 none (meetErrors (o / 64 * 64) 64 s).2
    memopRun m s = (.ok (memNat v o (min ((memopWidth (memopOp m.code)).getD 0) 8)),
      evt (133 + channelOf o / 32) 0x91 (channelOf o % 32) 1 none (canInvalidate o (memopElems (memopOp m.code) m.elems v))) :=
  if_neg (Bool.eq_false_iff.mp h)

/-- R180: the timeout of a group fails every contribution that it has. -/
theorem groupTimeout_of_group {part group sector : Nat} {g : RedGroup}
    (h : (s.xyl.groups.find? fun g => g.part == part && g.group == group && g.sector == sector) = some g) :
    groupTimeout part group sector s = memopOutcomes (g.staged.map fun m => (m, .error .watchdog)) (count Reg.MEM_CNT_RED_TIMEOUT
      (let v := reachTime ((g.start + bits (regGet s Reg.MEM_RED_CFG) 15 0 * 256000) % 2 ^ 64) s
       v.setXyl { v.xyl with groups := v.xyl.groups.erase g })) := by
  simp only [groupTimeout, h, usUnits]

end

/-! ### At the owner (R23, R188, R317, R452) -/

section
variable {s : State} {o n : Nat}

theorem globFault_of_shape (h : n = 0 ∨ 4096 < n ∨ (o + n - 1) / 4096 ≠ o / 4096) : globFault s o n = some .illegal :=
  if_pos (by simpa [or_assoc] using h)

/-- R317: the checks of a range that lies within one page, in their order. -/
theorem globFault_of_inPage (hpos : 1 ≤ n) (hmax : n ≤ 4096) (hpage : (o + n - 1) / 4096 = o / 4096) :
    globFault s o n =
      if populatedRange o n = false then some .xlate else if sharedRange s o n = false then some .perm else none := by
  have hn : n ≠ 0 := by omega
  simp [globFault, hn, Nat.not_lt.mpr hmax, hpage]

theorem countRefused_of_ne_perm {f : Flt} (h : f ≠ .perm) : countRefused f s = s := if_neg (by simpa using h)

section
variable {src tag : Nat}

theorem serveRead_of_fault {f : Flt} (h : globFault s o n = some f) :
    serveRead src o n tag s = send src (.grdata tag stFault f.code []) (countRefused f s) := by simp only [serveRead, h]

theorem serveRead_of_none (h : globFault s o n = none) :
    serveRead src o n tag s = send src (if (localRead o n s).1.2 then .grdata tag stFault Flt.ecc.code []
      else .grdata tag 0 0 (localRead o n s).1.1) (localRead o n s).2 := by
  simp only [serveRead, h, apply_ite (send src), ite_apply]

theorem serveWrite_of_fault {l : List Byte} {f : Flt} (h : globFault s o l.length = some f) :
    serveWrite src o tag l s = send src (.gwAck tag stFault f.code) (countRefused f s) := by simp only [serveWrite, h]

theorem serveWrite_of_none {l : List Byte} (h : globFault s o l.length = none) :
    serveWrite src o tag l s = send src (.gwAck tag 0 0) (localWrite o l s) := by simp only [serveWrite, h]

end

end

/-- R188: a request of another device to the stack under test waits at the port; another one that is accepted has its row's effect. -/
theorem next_atPort {stopped : Bool} {h : Hdr} {b : Body} {f : State → State} {s : State} :
    let port : Host.Outcome State Fault Refusal := .next (if stopped then s else deliver h b f s)
    (stopped = true → port = .next s) ∧ (stopped = false → accepts h b s = true → port = .next (served h b f s)) :=
  ⟨fun hst => congrArg _ (if_pos hst), fun hst ha => congrArg _ ((if_neg (Bool.eq_false_iff.mp hst)).trans (deliver_accepts f ha))⟩

/-- R329: works go on once an answer that is accepted has had its row's effect. -/
theorem next_resumed {h : Hdr} {b : Body} {f : State → State} {s : State} (ha : accepts h b s = true) :
    (Host.Outcome.next (resumeReady (deliver h b f s)) : Host.Outcome State Fault Refusal) = .next (resumeReady (served h b f s)) := by
  rw [deliver_accepts f ha]

/-- Settles O18: an operation at its unit (`memopReach_of_fault` and its like), the timeout of its group (`groupTimeout_of_group`), requests at
the owner's port (`next_atPort`) and its checks (`globFault_of_inPage`), and the answers, which the requester accepts. -/
theorem memopsAndGlobalAccesses : Obligations.MemopsAndGlobalAccesses := by
  refine ⟨fun s hon => ⟨fun j m hm => ⟨fun f hf => ?_, fun hf hx => ⟨fun hmet => ?_, fun hmet => ?_⟩, fun hf hx => ?_⟩, ?_, ?_⟩,
    fun s h tag => ⟨?_, ?_, ?_, ?_, ?_, fun src o n => ⟨?_, ?_, ?_, ?_, ?_, ?_, ?_, ?_⟩, ?_, ?_, ?_⟩⟩
  · exact whileOn_next hon (by rw [memopApplied_of_req hm, memopReach_of_fault hf])
  · exact whileOn_next hon (by rw [memopApplied_of_req hm, memopReach_of_alone hf hx, memopRun_of_poisoned hmet])
  · exact whileOn_next hon (by rw [memopApplied_of_req hm, memopReach_of_alone hf hx, memopRun_of_sound hmet])
  · exact whileOn_next hon (by rw [memopApplied_of_req hm, memopReach_of_staged hf hx])
  · exact fun channel => whileOn_next hon rfl
  · exact fun part group sector g hg => whileOn_next hon (groupTimeout_of_group hg)
  · exact fun o n hst => ⟨next_atPort.1 hst, fun l => next_atPort.1 hst⟩
  · exact fun m hst => next_atPort.1 hst
  · exact fun o n hst ha => next_atPort.2 hst ha
  · exact fun o l hst ha => next_atPort.2 hst ha
  · exact fun m hst ha => next_atPort.2 hst ha
  · exact globFault_of_shape
  · intro hpos hmax hpage
    rw [globFault_of_inPage hpos hmax hpage]
    exact ⟨fun hp => by simp [hp], fun hp hs => by simp [hp, hs], fun hp hs => by simp [hp, hs]⟩
  · exact fun hf => serveRead_of_fault hf
  · exact fun f hf hne => (serveRead_of_fault hf).trans (by rw [countRefused_of_ne_perm hne])
  · exact fun hf hbad => (serveRead_of_none hf).trans (by simp [hbad])
  · exact fun hf hbad => (serveRead_of_none hf).trans (by simp [hbad])
  · exact fun l => serveWrite_of_none
  · exact fun l f hf hne => (serveWrite_of_fault hf).trans (by rw [countRefused_of_ne_perm hne])
  · exact fun status fault data ha => next_resumed ha
  · exact fun status fault ha => next_resumed ha
  · exact fun status fault old ha => next_resumed ha

end Sys2Proof.Machine
end

-- The settling of the memory family: the memory system's own commands.
section

namespace Sys2Proof.Machine

/-! ### Group scrubs and way modes (R172, R413) -/

section
variable {s : State}

/-- R413: a scrub ends: the group's bytes are zero and its lines gone, then the next group is scrubbed or the assignment takes effect. -/
theorem groupScrubDone_of_scrub {op : PartOp} {rest : List PartOp} {g : Nat} {gs : List Nat} (hops : s.sched.partOps = op :: rest)
    (hscrub : op.scrub = g :: gs) :
    let u := canDrop (fun l => groupOf (l.line * 256) == g && !inDeviceArea (l.line * 256)) (memZero (g * 2 ^ 35) 0x7F8000000 s)
    groupScrubDone s = if gs = [] then partApply { op with scrub := [] } (u.setSched { u.sched with partOps := rest })
      else u.setSched { u.sched with partOps := { op with scrub := gs } :: rest } := by
  simp only [groupScrubDone, hops, hscrub, List.isEmpty_iff]

theorem testBit_bits_low {x n i : Nat} (h : i ≤ n) : (bits x n 0).testBit i = bit x i := by
  rw [bits, Nat.shiftRight_zero, Nat.testBit_mod_two_pow, bit_eq_testBit, decide_eq_true (by omega), Bool.true_and]

/-- Two words whose low 31 bits differ in one place differ there alone. -/
theorem changedBits_of_xor {x y i : Nat} (hi : i < 31) (h : bits x 30 0 ^^^ bits y 30 0 = 2 ^ i) :
    ((List.range 31).filter fun w => bit x w != bit y w) = [i] := by
  have hdiff : ∀ w ∈ List.range 31, (bit x w != bit y w) = (w == i) := by
    intro w hw
    have hw : w ≤ 30 := Nat.le_of_lt_succ (List.mem_range.mp hw)
    have hbit := congrArg (·.testBit w) h
    simp only [Nat.testBit_xor, testBit_bits_low hw, Nat.testBit_two_pow] at hbit
    rw [Bool.bne_eq_xor, hbit, beq_eq_decide]
    exact decide_eq_decide.mpr eq_comm
  rw [List.filter_congr hdiff, List.filter_beq]
  simp [List.nodup_range.count, hi]

/-- R172: a write that changes the mode of one way. -/
theorem wayModeWrite_of_one {value way : Nat} (hway : way < 31)
    (h : bits value 30 0 ^^^ bits (regGet s Reg.CAN_WAY_MODE) 30 0 = 2 ^ way) :
    wayModeWrite value s = if wayInUse s way then count Reg.CAN_CNT_MODE_REFUSED s
      else regField Reg.CAN_WAY_MODE way way (bits value way way) (wayClear way s) := by
  simp only [wayModeWrite, changedBits_of_xor hway h, List.foldl_cons, List.foldl_nil]

end

/-! ### Patrol scrub (R184, R186) -/

section
variable {s : State} {sector : Nat}

@[simp] theorem count_mem (off : Nat) : (count off s).mem = s.mem := by rw [count, countN_frame, State.setRegs_mem]

/-- R186: what the check finds beside what the model holds. -/
def patrolFinds (sector err : Nat) (s : State) : State :=
  let t := if err = 1 ∨ err = 2 then s.setMem { s.mem with latent := mset 0 s.mem.latent sector err } else s
  if err = 3 then count Reg.MEM_CNT_ODECC t else t

/-- R186: the scrub of a sector reads it, and a sector with an error leaves the Canopy. -/
theorem patrolScrub_of_enabled {err : Nat} (hen : bit (regGet s Reg.MEM_SCRUB_CFG) 8 = true) (hhbm : isHbm (sector * 64) = true) :
    let t := patrolFinds sector err s
    let u := (meetErrors (sector * 64) 64 t).2
    patrolScrub sector err s = if mget 0 t.mem.latent sector = 0 then u else canInvalidate (sector * 64) u := by
  simp only [patrolScrub, patrolFinds, hen, hhbm, Bool.not_true, Bool.or_self, Bool.false_eq_true, if_false, bne_iff_ne, ite_not]

end

/-! ### Raw test access (R188, R189) -/

section
variable {s : State} {value : Nat}

theorem testCtlWrite_of_request (hs : isSealed s = false) (hv : bit value 0 = true) (hm : s.xyl.maint = false)
    (hc : ∀ x ∈ s.sched.ctxs, x.state = .none) (hsame : bits value 3 1 = bits (regGet s Reg.MEM_TEST_CTL) 3 1) :
    testCtlWrite value s = regWrite Reg.MEM_TEST_CTL value (s.setXyl { s.xyl with maint := true }) := by
  have hidle : (s.sched.ctxs.any fun x => x.state != .none) = false := by simpa using hc
  simp only [testCtlWrite, hs, hv, hm, hidle, hsame, bne_self_eq_false, Bool.not_false, Bool.true_and, Bool.false_eq_true, if_false, if_true]

theorem testCtlWrite_of_release (hs : isSealed s = false) (hv : bit value 0 = false) : testCtlWrite value s =
    repairNext (setGranted false (regWrite Reg.MEM_TEST_CTL value (s.setXyl { s.xyl with maint := false }))) := by
  simp only [testCtlWrite, hs, hv, Bool.false_eq_true, if_false]

theorem maintGrant_of_idle (hm : s.xyl.maint = true) (hr : s.xyl.repair = none) : maintGrant s = setGranted true s :=
  if_pos (by simp [hm, hr])

theorem maintGrant_of_repair (hr : s.xyl.repair ≠ none) : maintGrant s = s := if_neg (by simp [hr])

@[simp] theorem regWrite_xyl (off v : Nat) : (regWrite off v s).xyl = s.xyl := by
  rw [regWrite]
  split <;> rfl

theorem pprGo_of_open (hgo : bit value 13 = true) (hp : s.xyl.ppr = false)
    (hopen : testOpen (regWrite Reg.MEM_PPR_REQ (setBits value 13 13 0) s) = true) :
    let u := regWrite Reg.MEM_PPR_REQ (setBits value 13 13 0) s
    pprGo value s = regField Reg.MEM_TEST_STAT 1 1 1 (u.setXyl { u.xyl with ppr := true }) :=
  if_pos (by simp [hgo, hopen, hp])

/-- R188: the end of a repair leaves its status; the sectors of a row that was repaired are undefined. -/
theorem pprDone_of_running {status : Nat} (hp : s.xyl.ppr = true) (hst : status ≤ 2) :
    let r := regGet s Reg.MEM_PPR_REQ
    let c := bits (regGet s Reg.MEM_TEST_CTL) 3 1 * 32 + bits r 4 0
    let u := regOr Reg.MEM_PPR_STAT (1 <<< status) (regField Reg.MEM_TEST_STAT 1 1 0 (s.setXyl { s.xyl with ppr := false }))
    pprDone status s = if status = 0 then
      (Config.rowSectors c (bits r 5 5) (bits r 11 6) (bits r 49 32)).foldl (fun s k => undefSector k s) u else u :=
  if_neg (by simp [hp, Nat.not_lt.mpr hst])

section
variable (hopen : tapOpen s = true)
include hopen

theorem instrWrite_of_open : instrWrite value s = s.setXyl { s.xyl with shiftIn := [value % 2 ^ 16] } := if_pos hopen

theorem tapDataWrite_of_open : tapDataWrite value s =
    regWrite Reg.MEM_1500_DATA value (s.setXyl { s.xyl with shiftIn := s.xyl.shiftIn ++ [value % 2 ^ 32] }) := if_pos hopen

/-- R188: the word shifted out is the next free value. -/
theorem tapDataRead_of_open :
    tapDataRead s = regPut Reg.MEM_1500_DATA ((Config.undef s.free).toNat % 2 ^ 32) (s.setFree (s.free + 1)) := if_pos hopen

end

end

/-! ### Taproot's repairs (R190) -/

theorem repairDone_of_running {s : State} {r : Repair} {soft : Bool} (h : s.xyl.repair = some r) :
    let u := repairLog r (if soft then 0 else 2) (repairSectors r (s.setXyl { s.xyl with repair := none }))
    repairDone soft s = repairNext (if soft then count Reg.MEM_CNT_REPAIR u else u) := by simp only [repairDone, h]

/-- Settles O20: each command by what it finds: a group that is scrubbed (`groupScrubDone_of_scrub`), the one way whose mode changes
(`wayModeWrite_of_one`), the sector that the patrol reads (`patrolScrub_of_enabled`), and raw test access and repairs by their states. -/
theorem memoryMaintenance : Obligations.MemoryMaintenance := by
  intro s
  refine ⟨fun op rest g gs hon hops hscrub => ⟨fun hgs => ?_, fun hgs => ?_⟩, fun value way hserved hway hone => ⟨fun huse => ?_, fun huse => ?_⟩,
    fun sector err hon hen hhbm => ⟨fun herr hlat => ?_, fun herr hlat => ?_, fun herr hwf => ?_⟩, ?_, ?_, ?_, ?_, ?_, ?_, ?_,
    fun value hopen => ⟨?_, ?_, fun hserved => ⟨(Config.undef s.free).toNat, s.free + 1, ?_⟩⟩, fun r hon hr => ⟨?_, ?_⟩⟩
  · exact whileOn_next hon ((groupScrubDone_of_scrub hops hscrub).trans (if_neg hgs))
  · exact whileOn_next hon ((groupScrubDone_of_scrub hops hscrub).trans (if_pos hgs))
  · exact whileServed_next hserved ((wayModeWrite_of_one hway hone).trans (if_pos huse))
  · exact whileServed_next hserved ((wayModeWrite_of_one hway hone).trans (if_neg (Bool.eq_false_iff.mp huse)))
  · subst herr
    exact whileOn_next hon ((patrolScrub_of_enabled hen hhbm).trans (if_pos hlat))
  · subst herr
    exact whileOn_next hon ((patrolScrub_of_enabled hen hhbm).trans (if_pos (by simpa [patrolFinds] using hlat)))
  · have hfinds : patrolFinds sector err s = s.setMem { s.mem with latent := mset 0 s.mem.latent sector err } := by
      rw [patrolFinds, if_pos herr, if_neg (by omega)]
    have hlat : mget 0 (patrolFinds sector err s).mem.latent sector ≠ 0 := by
      rw [hfinds, State.setMem_mem, mget_mset hwf, if_pos rfl]
      omega
    exact whileOn_next hon ((patrolScrub_of_enabled hen hhbm).trans ((if_neg hlat).trans (by rw [hfinds])))
  · exact fun value hserved hs hv hm hc hsame => whileServed_next hserved (testCtlWrite_of_request hs hv hm hc hsame)
  · exact fun hon hm hr => whileOn_next hon (maintGrant_of_idle hm hr)
  · exact fun hon _ hr => whileOn_next hon (maintGrant_of_repair hr)
  · exact fun value hserved hs hv => whileServed_next hserved (testCtlWrite_of_release hs hv)
  · exact fun value hserved hgo hp hopen => whileServed_next hserved (pprGo_of_open hgo hp hopen)
  · exact fun status hon hp hst => whileOn_next hon ((pprDone_of_running hp (by omega)).trans (if_neg (by omega)))
  · exact fun hon hp => whileOn_next hon (pprDone_of_running hp (Nat.zero_le 2))
  · exact fun hserved => whileServed_next hserved (instrWrite_of_open hopen)
  · exact fun hserved => whileServed_next hserved (tapDataWrite_of_open hopen)
  · exact whileServed_next hserved (tapDataRead_of_open hopen)
  · exact whileOn_next hon (repairDone_of_running hr)
  · exact whileOn_next hon (repairDone_of_running hr)

end Sys2Proof.Machine
end

-- The settling of the Lattices' family: the residue check, tiles and vector chains.
section

namespace Sys2Proof.Machine

/-! ### Sums as the model folds them -/

theorem foldl_range_eq_sum (f : Nat → Int) (n : Nat) : ((List.range n).map f).foldl (· + ·) 0 = ∑ i ∈ Finset.range n, f i :=
  List.sum_eq_foldl.symm

/-- A sum over a slice, when what lies past the list's end counts zero. -/
theorem foldl_slice_eq_sum {α : Type} {f : α → Int} {d : α} (hd : f d = 0) (i n : Nat) (l : List α) :
    ((slice i n l).map f).foldl (· + ·) 0 = ∑ j ∈ Finset.range n, f (l.getD (i + j) d) := by
  induction n with
  | zero => rfl
  | succ n ih =>
    rw [slice, List.take_add_one, List.map_append, List.foldl_append, ← slice, ih, Finset.sum_range_succ, List.getElem?_drop,
      List.getD_eq_getElem?_getD]
    cases l[i + n]? <;> simp [hd]

/-! ### Dot products and checksum lines (R196, R213) -/

/-- The k value at a position of a line; zero past the line's end. -/
def kAt (l : List LElem) (e : Nat) : Int := (l.getD e (0, none)).1

@[simp] theorem kAt_nil (e : Nat) : kAt [] e = 0 := rfl
@[simp] theorem kAt_cons_zero (x : LElem) (l : List LElem) : kAt (x :: l) 0 = x.1 := rfl
@[simp] theorem kAt_cons_succ (x : LElem) (l : List LElem) (e : Nat) : kAt (x :: l) (e + 1) = kAt l e := rfl

@[simp] theorem dotK_nil_left (b : List LElem) : dotK [] b = 0 := rfl
@[simp] theorem dotK_nil_right (a : List LElem) : dotK a [] = 0 := by rw [dotK, List.zip_nil_right, List.foldl_nil]

theorem dotK_eq_sum_zip (a b : List LElem) : dotK a b = ((a.zip b).map fun p => p.1.1 * p.2.1).sum := by
  rw [List.sum_eq_foldl, List.foldl_map, dotK]

theorem dotK_cons (x y : LElem) (a b : List LElem) : dotK (x :: a) (y :: b) = x.1 * y.1 + dotK a b := by
  rw [dotK_eq_sum_zip, dotK_eq_sum_zip, List.zip_cons_cons, List.map_cons, List.sum_cons]

/-- R196: a dot product, position by position. -/
theorem dotK_eq_sum {a b : List LElem} {n : Nat} (hb : b.length ≤ n) : dotK a b = ∑ e ∈ Finset.range n, kAt a e * kAt b e := by
  induction a generalizing b n with
  | nil => simp
  | cons x a ih =>
    cases b with
    | nil => simp
    | cons y b =>
      cases n with
      | zero => simp at hb
      | succ n => rw [dotK_cons, ih (Nat.le_of_succ_le_succ hb), Finset.sum_range_succ', add_comm]; rfl

theorem lineSums_length (ls : List (List LElem)) (len r : Nat) : (lineSums ls len r).length = len := by simp [lineSums]

/-- R213: a checksum line holds the sums of its eight lines at each position. -/
theorem kAt_lineSums {ls : List (List LElem)} {len r e : Nat} (he : e < len) :
    kAt (lineSums ls len r) e = ∑ i ∈ Finset.range 8, kAt (ls.getD (8 * r + i) []) e := by
  rw [← foldl_slice_eq_sum (f := fun l => kAt l e) (kAt_nil e)]
  simp [kAt, lineSums, he]

section
variable {ls : List (List LElem)} {len r : Nat}

theorem length_getD_le (h : ∀ l ∈ ls, l.length = len) (i : Nat) : (ls.getD i []).length ≤ len := by
  by_cases hi : i < ls.length
  · rw [List.getD_eq_getElem ls [] hi]
    exact (h _ (List.getElem_mem hi)).le
  · rw [List.getD_eq_default _ _ (Nat.le_of_not_lt hi)]
    exact Nat.zero_le len

/-- R213: the checksum line's product with a line is the sum of the products of its eight lines. -/
theorem dotK_lineSums_left {b : List LElem} (hb : b.length ≤ len) :
    dotK (lineSums ls len r) b = ∑ i ∈ Finset.range 8, dotK (ls.getD (8 * r + i) []) b := by
  simp only [dotK_eq_sum hb]
  rw [Finset.sum_comm]
  refine Finset.sum_congr rfl fun e he => ?_
  rw [kAt_lineSums (Finset.mem_range.mp he), Finset.sum_mul]

theorem dotK_lineSums_right (hls : ∀ l ∈ ls, l.length = len) (a : List LElem) :
    dotK a (lineSums ls len r) = ∑ j ∈ Finset.range 8, dotK a (ls.getD (8 * r + j) []) := by
  simp only [dotK_eq_sum (lineSums_length ls len r).le, dotK_eq_sum (length_getD_le hls _)]
  rw [Finset.sum_comm]
  refine Finset.sum_congr rfl fun e he => ?_
  rw [kAt_lineSums (Finset.mem_range.mp he), Finset.mul_sum]

end

/-! ### The residue check of a block (R214) -/

theorem mod15_eq_iff {x y : Int} : mod15 x = mod15 y ↔ x % 15 = y % 15 := by
  rw [mod15, mod15]
  omega

theorem mod15_mod15_add (x y : Int) : mod15 ((mod15 x : Nat) + y) = mod15 (x + y) := by
  rw [mod15, mod15, mod15]
  omega

/-- R214: a block agrees with its residues, column by column and row by row. -/
theorem blockOk_iff {t : Tile} {L : Nat} {blk : List Int} : blockOk t L blk = true ↔
    (∀ j < 8, mod15 (∑ i ∈ Finset.range 8, blk.getD (8 * i + j) 0) = t.colRes.getD (8 * L + j) 0) ∧
    (∀ i < 8, mod15 (∑ j ∈ Finset.range 8, blk.getD (8 * i + j) 0) = t.rowRes.getD (8 * L + i) 0) := by
  simp only [blockOk, foldl_range_eq_sum, Bool.and_eq_true, List.all_eq_true, List.mem_range, beq_iff_eq]

theorem block_getD (bank : List Int) (L : Nat) {i j : Nat} (hi : i < 8) (hj : j < 8) :
    (block bank L).getD (8 * i + j) 0 = blockAt bank L i j := by
  have hp : 8 * i + j < 64 := by omega
  have hrow : (8 * i + j) / 8 = i := by omega
  have hcol : (8 * i + j) % 8 = j := by omega
  simp [block, List.getD_eq_getElem?_getD, hp, hrow, hcol]

/-- R214: the check of a tile's own block. -/
theorem blockOk_block_iff {t : Tile} {L : Nat} {bank : List Int} : blockOk t L (block bank L) = true ↔
    (∀ j < 8, mod15 (∑ i ∈ Finset.range 8, blockAt bank L i j) = t.colRes.getD (8 * L + j) 0) ∧
    (∀ i < 8, mod15 (∑ j ∈ Finset.range 8, blockAt bank L i j) = t.rowRes.getD (8 * L + i) 0) := by
  have hrow {i : Nat} (hi : i < 8) : ∑ j ∈ Finset.range 8, (block bank L).getD (8 * i + j) 0 = ∑ j ∈ Finset.range 8, blockAt bank L i j :=
    Finset.sum_congr rfl fun j hj => block_getD bank L hi (Finset.mem_range.mp hj)
  have hcol {j : Nat} (hj : j < 8) : ∑ i ∈ Finset.range 8, (block bank L).getD (8 * i + j) 0 = ∑ i ∈ Finset.range 8, blockAt bank L i j :=
    Finset.sum_congr rfl fun i hi => block_getD bank L (Finset.mem_range.mp hi) hj
  rw [blockOk_iff]
  exact and_congr (forall₂_congr fun j hj => by rw [hcol hj]) (forall₂_congr fun i hi => by rw [hrow hi])

/-! ### A step's accumulation (R195, R204, R213) -/

section
variable {t : Tile} {a b : List (List LElem)} {p : Nat}

/-- R208: the cells outside the tile, by the numbers of its lines, hold zero. -/
def MaskedZero (m n : Nat) (bank : List Int) : Prop := ∀ p, p < 1024 → ¬(p / 32 < m ∧ p % 32 < n) → bank.getD p 0 = 0

theorem tileAccumulate_bank_getD (hp : p < 1024) : (tileAccumulate t a b).bank.getD p 0 =
    if p / 32 < a.length ∧ p % 32 < b.length then t.bank.getD p 0 + dotK (a.getD (p / 32) []) (b.getD (p % 32) []) else 0 := by
  simp [tileAccumulate, List.getD_eq_getElem?_getD, hp]

theorem maskedZero_tileAccumulate : MaskedZero a.length b.length (tileAccumulate t a b).bank := fun _ hp hmasked =>
  (tileAccumulate_bank_getD hp).trans (if_neg hmasked)

theorem dotK_of_masked (h : ¬(p / 32 < a.length ∧ p % 32 < b.length)) : dotK (a.getD (p / 32) []) (b.getD (p % 32) []) = 0 := by
  rcases not_and_or.mp h with ha | hb
  · rw [List.getD_eq_default _ _ (Nat.le_of_not_lt ha), dotK_nil_left]
  · rw [List.getD_eq_default _ _ (Nat.le_of_not_lt hb), dotK_nil_right]

/-- R195: each cell takes its dot product; that of a masked cell is zero. -/
theorem tileAccumulate_bank_add (hzero : MaskedZero a.length b.length t.bank) (hp : p < 1024) :
    (tileAccumulate t a b).bank.getD p 0 = t.bank.getD p 0 + dotK (a.getD (p / 32) []) (b.getD (p % 32) []) := by
  rw [tileAccumulate_bank_getD hp]
  split
  case isTrue => rfl
  case isFalse hmasked => rw [hzero p hp hmasked, dotK_of_masked hmasked, add_zero]

theorem blockAt_tileAccumulate (hzero : MaskedZero a.length b.length t.bank) {L i j : Nat} (hL : L < 16) (hi : i < 8) (hj : j < 8) :
    blockAt (tileAccumulate t a b).bank L i j =
      blockAt t.bank L i j + dotK (a.getD (8 * (L / 4) + i) []) (b.getD (8 * (L % 4) + j) []) := by
  have hrow : ((8 * (L / 4) + i) * 32 + 8 * (L % 4) + j) / 32 = 8 * (L / 4) + i := by omega
  have hcol : ((8 * (L / 4) + i) * 32 + 8 * (L % 4) + j) % 32 = 8 * (L % 4) + j := by omega
  rw [blockAt, tileAccumulate_bank_add hzero (by omega), hrow, hcol, blockAt]

theorem tileAccumulate_rowRes_getD {L i : Nat} (hL : L < 16) (hi : i < 8) : (tileAccumulate t a b).rowRes.getD (8 * L + i) 0 =
    mod15 (t.rowRes.getD (8 * L + i) 0 + dotK (a.getD (8 * (L / 4) + i) []) (lineSums b t.elems (L % 4))) := by
  have hp : 8 * L + i < 128 := by omega
  have hlat : (8 * L + i) / 8 = L := by omega
  have hline : (8 * L + i) % 8 = i := by omega
  have hc : L % 4 < 4 := Nat.mod_lt _ (by decide)
  simp [tileAccumulate, List.getD_eq_getElem?_getD, hp, hlat, hline, hc]

theorem tileAccumulate_colRes_getD {L j : Nat} (hL : L < 16) (hj : j < 8) : (tileAccumulate t a b).colRes.getD (8 * L + j) 0 =
    mod15 (t.colRes.getD (8 * L + j) 0 + dotK (lineSums a t.elems (L / 4)) (b.getD (8 * (L % 4) + j) [])) := by
  have hp : 8 * L + j < 128 := by omega
  have hlat : (8 * L + j) / 8 = L := by omega
  have hline : (8 * L + j) % 8 = j := by omega
  have hr : L / 4 < 4 := by omega
  simp [tileAccumulate, List.getD_eq_getElem?_getD, hp, hlat, hline, hr]

/-- R213, R214: a step moves the sum of a block's column, or row, and its predicted residue by the same sum of dot products. -/
theorem blockOk_tileAccumulate (hb : ∀ l ∈ b, l.length = t.elems) (hzero : MaskedZero a.length b.length t.bank) {L : Nat} (hL : L < 16)
    (hok : blockOk t L (block t.bank L) = true) : blockOk (tileAccumulate t a b) L (block (tileAccumulate t a b).bank L) = true := by
  obtain ⟨hcols, hrows⟩ := blockOk_block_iff.mp hok
  refine blockOk_block_iff.mpr ⟨fun j hj => ?_, fun i hi => ?_⟩
  · have hsum : ∑ i ∈ Finset.range 8, blockAt (tileAccumulate t a b).bank L i j =
        ∑ i ∈ Finset.range 8, blockAt t.bank L i j + dotK (lineSums a t.elems (L / 4)) (b.getD (8 * (L % 4) + j) []) := by
      rw [dotK_lineSums_left (length_getD_le hb _), ← Finset.sum_add_distrib]
      exact Finset.sum_congr rfl fun i hi => blockAt_tileAccumulate hzero hL (Finset.mem_range.mp hi) hj
    rw [tileAccumulate_colRes_getD hL hj, ← hcols j hj, mod15_mod15_add, hsum]
  · have hsum : ∑ j ∈ Finset.range 8, blockAt (tileAccumulate t a b).bank L i j =
        ∑ j ∈ Finset.range 8, blockAt t.bank L i j + dotK (a.getD (8 * (L / 4) + i) []) (lineSums b t.elems (L % 4)) := by
      rw [dotK_lineSums_right hb, ← Finset.sum_add_distrib]
      exact Finset.sum_congr rfl fun j hj => blockAt_tileAccumulate hzero hL hi (Finset.mem_range.mp hj)
    rw [tileAccumulate_rowRes_getD hL hi, ← hrows i hi, mod15_mod15_add, hsum]

end

/-- Settles O14: the masked cells stay zero (`maskedZero_tileAccumulate`), and each block keeps its agreement (`blockOk_tileAccumulate`). -/
theorem residueCheckPasses : Obligations.ResidueCheckPasses := by
  intro t a b _ _ _ hb hzero hok
  exact ⟨maskedZero_tileAccumulate, fun L hL => blockOk_tileAccumulate hb hzero hL (hok L hL)⟩

/-! ### One flipped bit (R204, R214) -/

/-- A flipped bit is one power of two more or less. -/
theorem xor_two_pow (x b : Nat) : x ^^^ 2 ^ b = x + 2 ^ b ∨ x = (x ^^^ 2 ^ b) + 2 ^ b := by
  have hhigh : (x ^^^ 2 ^ b) / 2 ^ b = x / 2 ^ b ^^^ 1 := by rw [Nat.xor_div_two_pow, Nat.div_self (Nat.two_pow_pos b)]
  have hlow : (x ^^^ 2 ^ b) % 2 ^ b = x % 2 ^ b := by rw [Nat.xor_mod_two_pow, Nat.mod_self, Nat.xor_zero]
  have hx := Nat.div_add_mod x (2 ^ b)
  have hy := Nat.div_add_mod (x ^^^ 2 ^ b) (2 ^ b)
  rw [hhigh, hlow] at hy
  rcases Nat.even_or_odd (x / 2 ^ b) with he | ho
  · rw [Nat.xor_one_of_even he, Nat.mul_add_one] at hy
    omega
  · rw [Nat.xor_one_of_odd ho, Nat.mul_sub_one] at hy
    have := Nat.le_mul_of_pos_right (2 ^ b) ho.pos
    omega

/-- A flip below the sign bit keeps the sign. -/
theorem xor_two_pow_lt_iff {x b n : Nat} (hb : b < n) : x ^^^ 2 ^ b < 2 ^ n ↔ x < 2 ^ n := by
  have hp : 2 ^ b < 2 ^ n := Nat.pow_lt_pow_right (by decide) hb
  refine ⟨fun h => ?_, fun h => Nat.xor_lt_two_pow h hp⟩
  have hback := Nat.xor_lt_two_pow h hp
  rwa [Nat.xor_assoc, Nat.xor_self, Nat.xor_zero] at hback

/-- R204: the code of a bank value reads back as the value. -/
theorem sext_eq_of_lt {y : Nat} (hy : y < 2 ^ 38) : sext y 38 = if y < 2 ^ 37 then (y : Int) else y - 2 ^ 38 := by
  simp only [sext, Nat.mod_eq_of_lt hy]
  rfl

/-- R214: a flip of bit `b` changes a bank value by `2 ^ b`. -/
theorem flipBit_eq {v : Int} {b : Nat} (hb : b < 38) (hlo : -(2 ^ 37 : Int) ≤ v) (hhi : v < 2 ^ 37) :
    flipBit v b = v + (2 ^ b : Nat) ∨ flipBit v b = v - (2 ^ b : Nat) := by
  have hx : unsext v 38 < 2 ^ 38 := by rw [unsext]; omega
  have hv : (unsext v 38 : Int) = if v < 0 then v + 2 ^ 38 else v := by rw [unsext]; split <;> omega
  have hflip := xor_two_pow (unsext v 38) b
  have hy : unsext v 38 ^^^ 2 ^ b < 2 ^ 38 := Nat.xor_lt_two_pow hx (Nat.pow_lt_pow_right (by decide) hb)
  rw [flipBit, sext_eq_of_lt hy]
  by_cases hsign : b = 37
  · subst hsign
    omega
  · have hkeep := xor_two_pow_lt_iff (x := unsext v 38) (show b < 37 by omega)
    omega

/-- No power of two is a multiple of 15. -/
theorem not_fifteen_dvd_two_pow (b : Nat) : ¬15 ∣ 2 ^ b := fun h =>
  absurd (Nat.prime_three.dvd_of_dvd_pow (Dvd.dvd.trans (by decide : 3 ∣ 15) h)) (by decide)

theorem mod15_flipBit_ne {v : Int} {b : Nat} (hb : b < 38) (hlo : -(2 ^ 37 : Int) ≤ v) (hhi : v < 2 ^ 37) (x : Int) :
    mod15 (x + (flipBit v b - v)) ≠ mod15 x := by
  have hdvd := not_fifteen_dvd_two_pow b
  rw [ne_eq, mod15_eq_iff]
  rcases flipBit_eq hb hlo hhi with h | h <;> rw [h] <;> omega

/-- A changed value moves the sum of its own column by the change. -/
theorem column_sum_set {blk : List Int} {p : Nat} (hlen : blk.length = 64) (hp : p < 64) (x : Int) :
    ∑ i ∈ Finset.range 8, (blk.set p x).getD (8 * i + p % 8) 0 =
      ∑ i ∈ Finset.range 8, blk.getD (8 * i + p % 8) 0 + (x - blk.getD p 0) := by
  have hcell (i : Nat) : (blk.set p x).getD (8 * i + p % 8) 0 =
      blk.getD (8 * i + p % 8) 0 + if i = p / 8 then x - blk.getD p 0 else 0 := by
    by_cases hi : i = p / 8
    · have hpos : 8 * i + p % 8 = p := by omega
      have hin : p < blk.length := by omega
      rw [hpos, if_pos hi, List.getD_eq_getElem?_getD, List.getElem?_set_self hin, Option.getD_some]
      omega
    · have hne : p ≠ 8 * i + p % 8 := by omega
      rw [if_neg hi, List.getD_eq_getElem?_getD, List.getElem?_set_ne hne, ← List.getD_eq_getElem?_getD, add_zero]
  simp only [hcell]
  rw [Finset.sum_add_distrib, Finset.sum_ite_eq', if_pos (Finset.mem_range.mpr (show p / 8 < 8 by omega))]

/-- Settles O15: the flip moves the sum of its column (`column_sum_set`) by a number that is no multiple of 15 (`mod15_flipBit_ne`). -/
theorem residueCheckDetects : Obligations.ResidueCheckDetects := by
  intro t L blk i b hlen hi hb hlo hhi hok
  have hcol : i % 8 < 8 := Nat.mod_lt i (by decide)
  obtain ⟨hcols, _⟩ := blockOk_iff.mp hok
  refine Bool.eq_false_iff.mpr fun hflipped => ?_
  obtain ⟨hcols', _⟩ := blockOk_iff.mp hflipped
  have hsame := (hcols' _ hcol).trans (hcols _ hcol).symm
  rw [column_sum_set hlen hi] at hsame
  exact mod15_flipBit_ne hb hlo hhi _ hsame

/-! ### What strikes and quarantines leave unchanged (R216, R510) -/

section
variable {s : State}

@[simp] theorem count_gro (off : Nat) : (count off s).gro = s.gro := by rw [count, countN_frame, State.setRegs_gro]

@[simp] theorem raiseVector_gro (v : Nat) : (raiseVector v s).gro = s.gro := by
  unfold raiseVector
  split
  · rfl
  · split
    · rfl
    · rw [count_gro, State.setHl_gro]

@[simp] theorem intLog_gro (kind grove lattice fault block detail : Nat) :
    (intLog kind grove lattice fault block detail s).gro = s.gro := rfl

@[simp] theorem groveQuarantine_gro (k block : Nat) : (groveQuarantine k block s).gro = s.gro := by
  unfold groveQuarantine
  split
  · rfl
  · rw [raiseVector_gro, intLog_gro, count_gro]
    split <;> rfl

@[simp] theorem latQuarantine_gro (k L : Nat) : (latQuarantine k L s).gro = s.gro := by
  unfold latQuarantine
  split
  · rfl
  · dsimp only
    split
    · rw [groveQuarantine_gro, raiseVector_gro, intLog_gro, count_gro]; rfl
    · rw [raiseVector_gro, intLog_gro, count_gro]; rfl

/-- R216: a strike counts in a register and restarts the count of drained tiles. -/
theorem groveOf_latStrike (k L k' : Nat) : groveOf (latStrike k L s) k' = groveOf s k' := by
  unfold latStrike
  dsimp only
  split
  · rw [groveOf, latQuarantine_gro]; rfl
  · rfl

end

/-! ### Steps and write-back (R197, R210, R214) -/

/-- R197: a tile at its first step notes where its streams stand. -/
def tileBegun (s : State) (k : Nat) (t : Tile) : Tile :=
  if t.started then t else
    { t with started := true, aPos := (chanOf s k (t.side false).chan).cons, bPos := (chanOf s k (t.side true).chan).cons }

section
variable {s : State} {k : Nat} {t : Tile} {ts : List Tile}

/-- R197: a step whose two operands have come uses them. -/
theorem tileStep_of_operands {i : Nat} {a b : List (List (Nat × Option Nat))} {s1 s2 : State} (he : engineOn s k = true)
    (hn : nextTile (groveOf s k) = some (i, t)) (hm : mayStart s k t = true)
    (ha : sideRead k (tileBegun s k t) ((tileBegun s k t).side false) (setTile k i (tileBegun s k t) s) = .ok a s1)
    (hb : sideRead k (tileBegun s k t) ((tileBegun s k t).side true) s1 = .ok b s2) :
    tileStep k s = tileUse k i (tileBegun s k t) a b s2 := by
  rw [tileBegun] at ha hb ⊢
  simp only [tileStep, hn, he, hm, Bool.not_true, Bool.or_self, Bool.false_eq_true, if_false, ha, hb]

theorem drainBlock_mem (k L : Nat) (hit : Option Nat) (t : Tile) : (drainBlock k L hit t s).2.mem = s.mem := by
  cases hit <;> rfl

/-- R214: the check of one block, which an injection may have met; a failing one is counted and listed by the Lattice that drained it. -/
theorem checkBlocks_cons (k L : Nat) (t : Tile) (hit : Option (Nat × Nat)) (ls : List Nat) : ∃ h, checkBlocks k t hit (L :: ls) s =
    let x := drainBlock k L h t s
    let P := latFor x.2 k L
    if blockOk t L x.1 then checkBlocks k t hit ls (latDrained k P x.2)
    else
      let y := checkBlocks k t hit ls (count (Reg.LAT_CNT_RES_MISMATCH k) x.2)
      (P :: y.1, y.2) := ⟨_, rfl⟩

theorem checkBlocks_mem (k : Nat) (t : Tile) (hit : Option (Nat × Nat)) (ls : List Nat) :
    (checkBlocks k t hit ls s).2.mem = s.mem := by
  induction ls generalizing s with
  | nil => rfl
  | cons L ls ih =>
    obtain ⟨h, hcons⟩ := checkBlocks_cons (s := s) k L t hit ls
    rw [hcons]
    dsimp only
    split
    · exact ih.trans (drainBlock_mem k L h t)
    · exact ih.trans ((count_mem _).trans (drainBlock_mem k L h t))

/-- R214: a check changes no byte of memory. -/
theorem tileCheck_mem (k : Nat) (t : Tile) : (tileCheck k t s).2.mem = s.mem := checkBlocks_mem ..

/-- R214: a tile has passed when no Lattice is listed for a retry. -/
theorem tileCheck_checked (k : Nat) (t : Tile) : (tileCheck k t s).1.checked = (tileCheck k t s).1.retry.isEmpty := rfl

/-- R210: the oldest tile, its steps done and no retry open, is written once it has been checked. -/
theorem tileWriteback_of_done (he : engineOn s k = true) (hts : (groveOf s k).tiles = t :: ts) (hst : t.started = true)
    (hsteps : t.kSteps ≤ t.steps) (hretry : t.retry = []) :
    tileWriteback k s =
      let x := if t.checked then (t, s) else tileCheck k t s
      if x.1.checked then tileWrite k x.1 (tileSlots k x.1 (setTile k 0 x.1 x.2)) else setTile k 0 x.1 x.2 := by
  simp only [tileWriteback, hts, he, hst, hretry, Nat.not_lt.mpr hsteps, List.isEmpty_nil, decide_false, Bool.not_true, Bool.or_self,
    Bool.false_eq_true, if_false]

/-! ### Retries and strikes (R215, R216) -/

/-- R215: what a failed retry counts and strikes leaves the Grove as it is. -/
theorem groveOf_retryFailed {L stand : Nat} :
    groveOf (latStrike k stand (latQuarantine k L (count (Reg.LAT_CNT_RES_MISMATCH k) s))) k = groveOf s k := by
  rw [groveOf_latStrike, groveOf, latQuarantine_gro, count_gro, ← groveOf]

/-- R215, R223: the failing Lattice of lowest index is retried on its stand-in, by the check of its own block. -/
theorem tileRetry_of_first {L : Nat} (he : engineOn s k = true) (hts : (groveOf s k).tiles = t :: ts) (hL : L ∈ t.retry)
    (hfirst : ∀ l ∈ t.retry, L ≤ l) (hact : L ∈ t.active) (hinj : injection s k = none) :
    tileRetry k L s =
      let stand := (standIn s k L).getD L
      if blockOk t L (block t.bank L) then
        let rest := t.retry.filter fun l => l != L
        latStrike k L (intLog 1 k L 0 0x05 0
          (setTile k 0 { t with retry := rest, checked := rest.isEmpty } (count (Reg.LAT_CNT_RES_RETRY_OK k) (latDrained k stand s))))
      else
        let u := latStrike k stand (latQuarantine k L (count (Reg.LAT_CNT_RES_MISMATCH k) s))
        groveFault 0x05 0 k .residue (intLog 2 k L Flt.residue.code 0x05 ((groveOf s k).ctx.getD 0) u) := by
  have hnone : (t.retry.any fun l => decide (l < L)) = false := by simpa using hfirst
  simp only [tileRetry, hts, he, hL, hnone, hact, hinj, drainBlock, groveOf_retryFailed, List.contains_eq_mem, decide_true,
    Bool.not_true, Bool.or_self, Bool.false_eq_true, if_false, if_true]

theorem strikeClear_of_drained {L : Nat} (hL : L < 16) (hs : strikesOf s k L ≠ 0) (hd : 2 ^ 24 ≤ drainedOf s k L) :
    strikeClear k L s = setDrained k L 0 (regField (Reg.LAT_STRIKES k) (4 * L + 3) (4 * L) (strikesOf s k L - 1) s) :=
  if_neg (by simpa [hs, hL] using hd)

theorem strikeClear_of_not_drained {L : Nat} (hd : drainedOf s k L < 2 ^ 24) : strikeClear k L s = s :=
  if_pos (by simpa using .inl (.inl hd))

/-- LAT_INJECT's three fields, side by side, are its low eleven bits. -/
theorem injectFields_eq (w : Nat) : bits w 3 0 + bits w 9 4 * 2 ^ 4 + bits w 10 10 * 2 ^ 10 = bits w 10 0 := by
  simp only [bits, Nat.shiftRight_eq_div_pow]
  omega

theorem injectArm_of_sealed {value : Nat} (h : isSealed s = true) : injectArm k value s = s := if_pos h

theorem injectArm_of_open {value : Nat} (h : isSealed s = false) : injectArm k value s = regPut (Reg.LAT_INJECT k)
    (bits value 3 0 + (if 37 < bits value 9 4 then bits (regGet s (Reg.LAT_INJECT k)) 9 4 else bits value 9 4) * 2 ^ 4 +
      bits value 10 10 * 2 ^ 10) s := if_neg (Bool.eq_false_iff.mp h)

end

/-! ### Vector chains (R231, R236, R246) -/

section
variable {s : State} {k : Nat} {c d : VChain}

/-- R231: in Free mode a chain that rounds stochastically takes a free sample. -/
def chainSample (s : State) (k : Nat) (c : VChain) : Nat :=
  if c.dstFmt.isSome && bits (c.w 2) 29 28 == 1 && !groveExact s k then (Config.entropy s.free).toNat else 0

theorem chainStart_of_idle (he : engineOn s k = true) (hc : frontChain s k = some c) (hidle : (groveOf s k).chainOn = false) :
    chainStart k s =
      let u := setFront k { c with sample := chainSample s k c } (s.setFree (s.free + 1))
      updGrove k (fun g => { g with
        chainOn := true
        slots := if c.usesSlot && (c.clear || (g.slots.getD c.slot {}).fn == 0) then g.slots.set c.slot (redInit c.redFn c.k (s.free + 1))
          else g.slots }) (u.setFree (s.free + 2)) := by
  simp only [chainStart, hc, hidle, he, Bool.not_true, Bool.or_self, Bool.false_eq_true, if_false]
  rfl

/-- R231, R236: a running chain takes its rows, and completes when the last has passed. -/
theorem chainComplete_of_running (he : engineOn s k = true) (hc : frontChain s k = some c) (hrun : (groveOf s k).chainOn = true)
    (hd : frontChain (chainRows k (c.count + 1) s) k = some d) (hon : (groveOf (chainRows k (c.count + 1) s) k).chainOn = true) :
    chainComplete k s = if d.count ≤ d.rows then chainFinish k d (chainRows k (c.count + 1) s) else chainRows k (c.count + 1) s := by
  simp only [chainComplete, hc, hrun, he, hd, hon, Bool.not_true, Bool.or_self, Bool.false_eq_true, if_false, Bool.true_and,
    decide_eq_true_eq]

end

/-- Settles O13: steps and write-back (`tileStep_of_operands`, `tileWriteback_of_done`), retries and strikes (`tileRetry_of_first`,
`strikeClear_of_drained`, `injectArm_of_open`), and the chains (`chainStart_of_idle`, `chainComplete_of_running`). -/
theorem tilesAndChains : Obligations.TilesAndChains := by
  refine ⟨fun s k hon he => ⟨?_, ?_, ?_⟩, fun s k L => ⟨?_, ?_, fun value hserved => ⟨?_, ?_, ?_⟩⟩, fun s k c hon he hc => ⟨?_, ?_⟩⟩
  · exact fun i t a b s1 s2 hn hm ha hb => whileOn_next hon (tileStep_of_operands he hn hm ha hb)
  · intro t ts u v hts hst hsteps hretry hchecked hcheck
    have hmem : v.mem = s.mem := by simpa only [hcheck] using tileCheck_mem (s := s) k t
    have hiff : u.checked = u.retry.isEmpty := by simpa only [hcheck] using tileCheck_checked (s := s) k t
    have hdone := tileWriteback_of_done he hts hst hsteps hretry
    simp only [hchecked, Bool.false_eq_true, if_false, hcheck] at hdone
    refine ⟨fun hpass => whileOn_next hon (hdone.trans (if_pos hpass)), fun hfail => ⟨?_, setTile k 0 u v, ?_, hmem, rfl⟩⟩
    · rw [hfail] at hiff
      exact List.isEmpty_eq_false_iff.mp hiff.symm
    · exact whileOn_next hon (hdone.trans (if_neg (Bool.eq_false_iff.mp hfail)))
  · intro t ts hts hst hsteps hretry hchecked
    have hdone := tileWriteback_of_done he hts hst hsteps hretry
    simp only [hchecked, if_true] at hdone
    exact whileOn_next hon hdone
  · intro hon he t ts hts hL hfirst hact hinj
    have hretry := tileRetry_of_first he hts hL hfirst hact hinj
    refine ⟨fun hok => whileOn_next hon (hretry.trans (if_pos hok)),
      fun hbad => whileOn_next hon (hretry.trans (if_neg (Bool.eq_false_iff.mp hbad)))⟩
  · exact fun hon hL hs => ⟨fun hd => whileOn_next hon (strikeClear_of_drained hL hs hd),
      fun hd => whileOn_next hon (strikeClear_of_not_drained hd)⟩
  · exact fun hsealed => whileServed_next hserved (injectArm_of_sealed hsealed)
  · intro hopen hbit
    exact whileServed_next hserved ((injectArm_of_open hopen).trans (by rw [if_neg (Nat.not_lt.mpr hbit), injectFields_eq]))
  · intro hopen hbit
    exact whileServed_next hserved ((injectArm_of_open hopen).trans (by rw [if_pos hbit]))
  · exact fun hidle => ⟨chainSample s k c, s.free + 1, s.free + 2, whileOn_next hon (chainStart_of_idle he hc hidle)⟩
  · intro hrun d hd hrunning
    have hcomplete := chainComplete_of_running he hc hrun hd hrunning
    exact ⟨fun hend => whileOn_next hon (hcomplete.trans (if_pos hend)),
      fun hmore => whileOn_next hon (hcomplete.trans (if_neg (Nat.not_le.mpr hmore)))⟩

end Sys2Proof.Machine
end

-- The settling of the programs' family: the registers, arithmetic, branches and accesses of the control core, and the ends of its programs.
section

namespace Sys2Proof.Machine

/-! ### Scalar registers (R252) -/

section
variable {g : Grove} {i j : Nat} {v : W64}

@[simp] theorem Grove.xr_zero : g.xr 0 = 0 := if_pos rfl
@[simp] theorem Grove.setX_zero : g.setX 0 v = g := if_pos rfl
theorem Grove.setX_of_ne_zero (hi : i ≠ 0) : g.setX i v = { g with x := mset 0 g.x i v } := if_neg hi

/-- A write of a register shows in no other. -/
theorem Grove.xr_setX_other (hj : j ≠ i) : (g.setX i v).xr j = g.xr j := by
  by_cases hi : i = 0
  · rw [hi, Grove.setX_zero]
  · rw [Grove.setX_of_ne_zero hi, Grove.xr, Grove.xr, mget_mset_other v hj]

theorem Grove.xr_setX_same (hi : i ≠ 0) (hwf : mwf 0 g.x = true) : (g.setX i v).xr i = v := by
  rw [Grove.setX_of_ne_zero hi, Grove.xr, if_neg hi, mget_mset_same i v hwf]

theorem Grove.mwf_setX (hwf : mwf 0 g.x = true) : mwf 0 (g.setX i v).x = true := by
  by_cases hi : i = 0
  · rwa [hi, Grove.setX_zero]
  · rw [Grove.setX_of_ne_zero hi]
    exact mwf_mset i v hwf

end

/-- Settles O4: x0 by its two equations, the other registers by reading after a write. -/
theorem coreZeroRegister : Obligations.CoreZeroRegister := fun _ _ _ =>
  ⟨Grove.xr_zero, Grove.setX_zero, fun _ hj => Grove.xr_setX_other hj,
    fun hwf => ⟨Grove.mwf_setX hwf, fun hi => Grove.xr_setX_same hi hwf⟩⟩

/-! ### Products and quotients (R256) -/

/-- R256: quotient and remainder of unsigned words, in which no carry is lost. -/
theorem toNat_quotient_remainder {a b : W64} (hb : b ≠ 0) :
    (BitVec.ofNat 64 (a.toNat / b.toNat)).toNat * b.toNat + (BitVec.ofNat 64 (a.toNat % b.toNat)).toNat = a.toNat ∧
      (BitVec.ofNat 64 (a.toNat % b.toNat)).toNat < b.toNat := by
  have hpos : 0 < b.toNat := Nat.pos_of_ne_zero fun h => hb (BitVec.eq_of_toNat_eq h)
  have hrem : a.toNat % b.toNat < b.toNat := Nat.mod_lt _ hpos
  rw [BitVec.toNat_ofNat, BitVec.toNat_ofNat, Nat.mod_eq_of_lt ((Nat.div_le_self _ _).trans_lt a.isLt),
    Nat.mod_eq_of_lt (hrem.trans b.isLt), Nat.mul_comm]
  exact ⟨Nat.div_add_mod _ _, hrem⟩

/-- R256: a product's two halves, side by side, are the product. -/
theorem toNat_product_halves (a b : W64) :
    (BitVec.ofNat 64 (a.toNat * b.toNat / 2 ^ 64)).toNat * 2 ^ 64 + (a * b).toNat = a.toNat * b.toNat := by
  have hhigh : a.toNat * b.toNat / 2 ^ 64 < 2 ^ 64 := Nat.div_lt_of_lt_mul (Nat.mul_lt_mul'' a.isLt b.isLt)
  rw [BitVec.toNat_ofNat, Nat.mod_eq_of_lt hhigh, BitVec.toNat_mul, Nat.mul_comm _ (2 ^ 64)]
  exact Nat.div_add_mod _ _

/-- Settles O3: a division by a nonzero divisor is `toNat_quotient_remainder`, the product `toNat_product_halves`. -/
theorem coreDivideMultiply : Obligations.CoreDivideMultiply := fun a b =>
  ⟨⟨_, _, rfl, rfl, fun hb => by rw [if_neg hb, if_neg hb]; exact toNat_quotient_remainder hb,
    fun hb => ⟨if_pos hb, if_pos hb⟩⟩, ⟨_, _, rfl, rfl, toNat_product_halves a b⟩⟩

/-! ### Going on and jumping (R254, R273) -/

section
variable {s : State} {j k : Nat} {g : Grove}

theorem groveOf_setGrove_same (hwf : mwf {} s.gro.groves = true) : groveOf (setGrove k g s) k = g := mget_mset_same k g hwf
theorem groveOf_setGrove_other (hj : j ≠ k) : groveOf (setGrove k g s) j = groveOf s j := mget_mset_other g hj

@[simp] theorem groveOf_count (off : Nat) : groveOf (count off s) j = groveOf s j := by rw [groveOf, count_gro, ← groveOf]

@[simp] theorem count_io (off : Nat) : (count off s).io = s.io := by rw [count, countN_frame, State.setRegs_io]

/-- R254: a jump changes the Groves and the registers alone. -/
theorem coreJump_frame (pc : Nat) : coreJump k g pc s =
    { s with gro := { s.gro with groves := (coreJump k g pc s).gro.groves }, regs := (coreJump k g pc s).regs } := by
  rw [coreJump, count, countN_frame]
  rfl

@[simp] theorem coreNext_io : (coreNext k g s).io = s.io := count_io _

end

/-- Settles O5: the Grove's state is set and its counter counts; nothing else changes (`coreJump_frame`). -/
theorem coreAdvance : Obligations.CoreAdvance := fun _ _ _ pc =>
  ⟨⟨fun hwf => (groveOf_count _).trans (groveOf_setGrove_same hwf), fun _ hj => (groveOf_count _).trans (groveOf_setGrove_other hj),
    coreJump_frame pc, fun _ ho => regGet_count_ne ho, fun hs => regGet_count _ hs.regs⟩, rfl⟩

/-! ### The fetch (R254, R255, R273) -/

section
variable {s : State} {k : Nat}

/-- The fetch finds no well-formed word: it leaves the image, or the word has a reserved opcode or field. -/
def Grove.unfetchable (g : Grove) : Prop :=
  match g.code[g.pc / 4]? with
  | none => True
  | some w => formatOk w = false

theorem coreFetch_of_unfetchable {f : Nat → CoreFn} (h : (groveOf s k).unfetchable) : coreFetch k f s = coreTrap k .illegal s := by
  unfold Grove.unfetchable at h
  unfold coreFetch
  split at h
  next hnone => simp only [hnone]
  next w hsome => simp only [hsome, h, Bool.not_false, if_true]

/-- R273: a core that executes and fetches no well-formed word traps in every row. -/
theorem coreRow_of_unfetchable {op : Nat} {f : CoreFn} (hon : isOn s = true) (hcore : coreOn s k = true) (hwait : (groveOf s k).wait = .none)
    (h : (groveOf s k).unfetchable) : whileOn (coreRow op k f) s = .next (coreTrap k .illegal s) := by
  refine whileOn_next hon ?_
  simp only [coreRow, hcore, hwait, Bool.not_true, bne_self_eq_false, Bool.or_self, Bool.false_eq_true, if_false]
  exact coreFetch_of_unfetchable h

end

/-- Settles O8: each of these commands is a core row, and every core row traps (`coreRow_of_unfetchable`). -/
theorem coreFormats : Obligations.CoreFormats := by
  intro s k hon hcore hwait hbad
  have hrow : ∀ op f, whileOn (coreRow op k f) s = .next (coreTrap k .illegal s) := fun _ _ =>
    coreRow_of_unfetchable hon hcore hwait hbad
  simp only [List.forall_mem_cons, List.not_mem_nil, false_imp_iff, implies_true, and_true]
  and_intros <;> exact hrow _ _

/-! ### Arithmetic, immediates and control-state registers (R255, R256, R259) -/

section
variable {s : State} {k w : Nat} {g : Grove}

/-- A core row whose instruction the core executes leads to what its function gives. -/
theorem executes_next {op : Nat} {f : CoreFn} {t : State} (h : executes s k w = true) (ho : fOp w = op) (hf : f k (groveOf s k) w s = t) :
    whileOn (coreRow op k f) s = .next t := (executes_row h ho).trans (congrArg _ hf)

theorem coreAlu_of_some {v : W64} (h : aluFn (fFunc w) (g.xr (fRs1 w)) (g.xr (fRs2 w)) = some v) :
    coreAlu k g w s = coreNext k (g.setX (fRd w) v) s := by simp only [coreAlu, h]

theorem coreAlu_of_none (h : aluFn (fFunc w) (g.xr (fRs1 w)) (g.xr (fRs2 w)) = none) : coreAlu k g w s = coreTrap k .illegal s := by
  simp only [coreAlu, h]

/-- R255: of SHI's immediate, the bits above the amount give the kind of the shift, and those above the kind are zero. -/
theorem shiFn_of_kind {kind : Nat} (a : W64) (hkind : kind < 4) (h : bits w 15 6 = kind) :
    shiFn (fImm w) a = [a <<< bits w 5 0, a >>> bits w 5 0, a.sshiftRight (bits w 5 0)][kind]? := by
  have hhigh : fImm w / 256 = 0 := by simp only [fImm, bits, Nat.shiftRight_eq_div_pow] at h ⊢; omega
  have hfield : bits (fImm w) 7 6 = kind := by simp only [fImm, bits, Nat.shiftRight_eq_div_pow] at h ⊢; omega
  have hamount : fImm w % 64 = bits w 5 0 := by simp only [fImm, bits, Nat.shiftRight_eq_div_pow]; omega
  simp only [shiFn, hhigh, hfield, hamount, ne_eq, not_true_eq_false, if_false]
  interval_cases kind <;> rfl

theorem coreShi_of_some {v : W64} (h : shiFn (fImm w) (g.xr (fRs1 w)) = some v) : coreShi k g w s = coreNext k (g.setX (fRd w) v) s := by
  simp only [coreShi, h]

theorem coreSlti_eq : coreSlti k g w s =
    coreNext k (g.setX (fRd w) (if (g.xr (fRs1 w)).toInt < (fSimm w).toInt then 1 else 0)) s := by
  simp only [coreSlti, coreSet, BitVec.slt_iff_toInt_lt]

theorem coreCsrr_of_some {v : W64} {g' : Grove} (h : csrRead s k g (bits w 11 0) = some (v, g')) :
    coreCsrr k g w s = coreNext k (g'.setX (fRd w) v) (s.setFree (s.free + 1)) := by simp only [coreCsrr, h]

/-- R259: the value of `cycle` is the Grove's count, moved on by a free number of cycles. -/
theorem csrRead_of_cycle : csrRead s k g 0x003 =
    let c := (g.cycle + (Config.undef s.free).toNat) % 2 ^ 64
    some (BitVec.ofNat 64 c, { g with cycle := c }) := rfl

theorem csrRead_of_exact : csrRead s k g 0x006 = some (if groveExact s k then 1 else 0, g) :=
  congrArg (fun v => some (v, g)) (by cases groveExact s k <;> rfl)

theorem coreCsrr_of_none (h : csrRead s k g (bits w 11 0) = none) : coreCsrr k g w s = coreTrap k .illegal s := by simp only [coreCsrr, h]

/-- R259: nine control-state registers are assigned. -/
theorem csrRead_of_unassigned {i : Nat} (h : 8 < i) : csrRead s k g i = none := by
  match i, h with
  | i + 9, _ => rfl

end

/-- Settles O1: each instruction's function, by the value it computes (`coreAlu_of_some`, `shiFn_of_kind`, `coreCsrr_of_some`). -/
theorem coreArithmetic : Obligations.CoreArithmetic := by
  refine ⟨fun s k w h ho => ⟨fun v hv => executes_next h ho (coreAlu_of_some hv), fun hn => executes_next h ho (coreAlu_of_none hn)⟩,
    fun s k w h => ?_, fun s k w v h => ?_⟩
  · have hshi : ∀ {v}, fOp w = 0x05 → shiFn (fImm w) ((groveOf s k).xr (fRs1 w)) = some v →
        exec (.shi k) s = .next (coreNext k ((groveOf s k).setX (fRd w) v) s) := fun ho hv => executes_next h ho (coreShi_of_some hv)
    exact ⟨fun ho => executes_next h ho rfl, fun ho => executes_next h ho rfl, fun ho => executes_next h ho rfl,
      fun ho => executes_next h ho rfl, fun ho hk => hshi ho (shiFn_of_kind _ (by decide) hk),
      fun ho hk => hshi ho (shiFn_of_kind _ (by decide) hk), fun ho hk => hshi ho (shiFn_of_kind _ (by decide) hk),
      fun ho => executes_next h ho rfl, fun ho => executes_next h ho coreSlti_eq, fun ho => executes_next h ho rfl,
      fun ho => executes_next h ho rfl⟩
  · have hcsrr : ∀ {v g}, fOp w = 0x1A → csrRead s k (groveOf s k) (bits w 11 0) = some (v, g) →
        exec (.csrr k) s = .next (coreNext k (g.setX (fRd w) v) (s.setFree (s.free + 1))) := fun ho hv =>
      executes_next h ho (coreCsrr_of_some hv)
    refine ⟨fun ho hcsr => ⟨_, hcsrr (g := groveOf s k) ho ?_⟩, fun ho hi => ⟨_, _, hcsrr ho ((congrArg _ hi).trans csrRead_of_cycle)⟩,
      fun ho hi => executes_next h ho (coreCsrr_of_none (csrRead_of_unassigned hi)),
      fun ho hi => executes_next h ho (if_pos hi), fun ho hi => executes_next h ho (if_neg hi)⟩
    rcases hcsr with ⟨hi, rfl⟩ | ⟨hi, rfl⟩ | ⟨hi, rfl⟩ | ⟨hi, rfl⟩ | ⟨hi, rfl⟩ | ⟨hi, rfl⟩ | ⟨hi, rfl⟩ | ⟨hi, rfl⟩ <;> rw [hi]
    case inr.inr.inr.inr.inr.inl => exact csrRead_of_exact
    all_goals rfl

/-! ### Branches and jumps (R254, R255, R260) -/

section
variable {s : State} {k w : Nat} {g : Grove} {a b : W64} {c : Cond}

theorem Cond.holds_eq : Cond.eq.holds a b = true ↔ a = b := beq_iff_eq
theorem Cond.holds_ne : Cond.ne.holds a b = true ↔ a ≠ b := bne_iff_ne
theorem Cond.holds_lt : Cond.lt.holds a b = true ↔ a.toInt < b.toInt := BitVec.slt_iff_toInt_lt
theorem Cond.holds_ge : Cond.ge.holds a b = true ↔ b.toInt ≤ a.toInt := by simp [Cond.holds, BitVec.slt]
theorem Cond.holds_ltu : Cond.ltu.holds a b = true ↔ a.toNat < b.toNat := BitVec.ult_iff_toNat_lt
theorem Cond.holds_geu : Cond.geu.holds a b = true ↔ b.toNat ≤ a.toNat := by simp [Cond.holds, BitVec.ult]

/-- R255: a branch jumps if its condition holds of its two registers, and goes on if not. -/
theorem executes_branch {op : Nat} {taken : Prop} (h : executes s k w = true)
    (hc : c.holds ((groveOf s k).xr (fRd w)) ((groveOf s k).xr (fRs1 w)) = true ↔ taken) (ho : fOp w = op) :
    (taken → whileOn (coreRow op k (coreBranch c)) s =
      .next (coreJump k (groveOf s k) (branchTo (groveOf s k).pc (sext (bits w 15 0) 16)) s)) ∧
    (¬taken → whileOn (coreRow op k (coreBranch c)) s = .next (coreNext k (groveOf s k) s)) :=
  ⟨fun ht => executes_next h ho (if_pos (hc.mpr ht)), fun ht => executes_next h ho (if_neg (ht ∘ hc.mp))⟩

end

/-! ### The conditions of BSUM (R260) -/

section
variable {a b : Nat}

theorem sumAux_eq_sumOrdered (cond : Nat) : sumAux cond a b = sumOrdered cond (decide (a < b)) (decide (a = b)) := by
  rw [sumAux, beq_eq_decide]

theorem sumVal_of_nan (h : (fp32.decode a).isNan = true ∨ (fp32.decode b).isNan = true) (cond : Nat) :
    sumVal cond a b = (cond == 1 || cond == 6) := if_pos (by simpa using h)

theorem sumVal_of_ordered (ha : (fp32.decode a).isNan = false) (hb : (fp32.decode b).isNan = false) (cond : Nat) :
    sumVal cond a b = sumOrdered cond (f32Lt a b) (f32Eq a b) := if_neg (by simp [ha, hb])

/-- R226: a code that lies below another does not equal it. -/
theorem f32Eq_and_f32Lt : (f32Eq a b && f32Lt a b) = false := by
  cases h : f32Lt a b <;> simp [f32Eq, h]

end

/-- Settles O2: the branches by `executes_branch`, BSUM's conditions by the order of its operands. -/
theorem coreBranches : Obligations.CoreBranches := by
  refine ⟨fun s k w h => ?_, fun a b => ?_, fun a b hnan => ?_, fun a b ha hb => ?_⟩
  · refine ⟨executes_branch h Cond.holds_eq, executes_branch h Cond.holds_ne, executes_branch h Cond.holds_lt,
      executes_branch h Cond.holds_ge, executes_branch h Cond.holds_ltu, executes_branch h Cond.holds_geu,
      fun ho => executes_next h ho rfl, fun ho ha => executes_next h ho (if_neg (not_not.mpr ha)),
      fun ho ha => executes_next h ho (if_pos ha), fun ho => ⟨fun ht => ?_, fun ht => ?_⟩⟩
    · exact executes_next h ho (if_pos ht)
    · exact executes_next h ho (if_neg (Bool.eq_false_iff.mp ht))
  · simp only [sumAux_eq_sumOrdered, sumOrdered, ← decide_not, ← Bool.decide_or, ← Bool.decide_and, decide_eq_decide, ne_eq, and_true,
      true_and]
    exact ⟨Nat.le_iff_lt_or_eq.symm, by omega, Nat.not_lt⟩
  · simp only [sumVal_of_nan hnan]
    decide
  · simp only [sumVal_of_ordered ha hb, sumOrdered, true_and, Bool.not_or]
    exact f32Eq_and_f32Lt

/-! ### The Grove store (R257) -/

section
variable {s : State} {k w n a : Nat} {g : Grove}

theorem memRead_congr {s t : State} (h : s.mem.bytes = t.mem.bytes) (a n : Nat) : memRead s a n = memRead t a n := by
  rw [memRead, memRead, h]

/-- R184: a read of the grove store gives the bytes that stand there. -/
theorem gsRead_bytes (k a n : Nat) (s : State) : (gsRead k a n s).1.1 = memRead s (gsBase k + a) n := memRead_congr (localRead_bytes ..) _ _

/-- R257: the address of an access. -/
abbrev accessAddr (g : Grove) (w : Nat) : Nat := (g.xr (fRs1 w) + fSimm w).toNat

/-- R257: an access traps unless it is aligned and lies inside the grove store. -/
theorem misplaced_iff : (decide (a % n ≠ 0) || decide (gsEnd < a + n)) = true ↔ ¬(a % n = 0 ∧ a + n ≤ 0x400000) := by
  rw [Bool.or_eq_true, decide_eq_true_eq, decide_eq_true_eq, not_and_or, not_le, gsEnd]

theorem storeAt_of_inside (ha : accessAddr g w % n = 0) (he : accessAddr g w + n ≤ 0x400000) : storeAt g w n = some (accessAddr g w) :=
  if_neg fun h => misplaced_iff.mp h ⟨ha, he⟩

theorem storeAt_of_outside (h : ¬(accessAddr g w % n = 0 ∧ accessAddr g w + n ≤ 0x400000)) : storeAt g w n = none :=
  if_pos (misplaced_iff.mpr h)

theorem coreLoad_of_outside (h : storeAt g w n = none) : coreLoad n k g w s = coreTrap k .illegal s := by simp only [coreLoad, h]

theorem coreLoad_of_sound (h : storeAt g w n = some a) (hb : (gsRead k a n s).1.2 = false) : coreLoad n k g w s =
    coreNext k ((groveOf (gsRead k a n s).2 k).setX (fRd w) (BitVec.ofNat 64 (memNat s (gsBase k + a) n))) (gsRead k a n s).2 := by
  simp only [coreLoad, h, hb, gsRead_bytes, memNat, Bool.false_eq_true, if_false]

theorem coreLoad_of_poisoned (h : storeAt g w n = some a) (hb : (gsRead k a n s).1.2 = true) :
    coreLoad n k g w s = groveFault 0x03 (gsBase k + a) k .ecc (gsRead k a n s).2 := by
  simp only [coreLoad, h, hb, if_true]

/-- R257: the three ends of a load. -/
theorem executes_load {op : Nat} (h : executes s k w = true) (ho : fOp w = op) :
    let a := accessAddr (groveOf s k) w
    (a % n = 0 → a + n ≤ 0x400000 → (gsRead k a n s).1.2 = false → whileOn (coreRow op k (coreLoad n)) s =
      .next (coreNext k ((groveOf (gsRead k a n s).2 k).setX (fRd w) (BitVec.ofNat 64 (memNat s (gsBase k + a) n))) (gsRead k a n s).2)) ∧
    (a % n = 0 → a + n ≤ 0x400000 → (gsRead k a n s).1.2 = true →
      whileOn (coreRow op k (coreLoad n)) s = .next (groveFault 0x03 (gsBase k + a) k .ecc (gsRead k a n s).2)) ∧
    (¬(a % n = 0 ∧ a + n ≤ 0x400000) → whileOn (coreRow op k (coreLoad n)) s = .next (coreTrap k .illegal s)) :=
  ⟨fun ha he hb => executes_next h ho (coreLoad_of_sound (storeAt_of_inside ha he) hb),
    fun ha he hb => executes_next h ho (coreLoad_of_poisoned (storeAt_of_inside ha he) hb),
    fun hout => executes_next h ho (coreLoad_of_outside (storeAt_of_outside hout))⟩

theorem coreStore_of_outside (h : storeAt g w n = none) : coreStore n k g w s = coreTrap k .illegal s := by simp only [coreStore, h]

theorem coreStore_of_inside (h : storeAt g w n = some a) : coreStore n k g w s =
    let u := gsWrite k a (leBytes n (g.xr (fRd w)).toNat) s
    coreNext k (groveOf u k) u := by simp only [coreStore, h]

/-- R257: the two ends of a store. -/
theorem executes_store {op : Nat} (h : executes s k w = true) (ho : fOp w = op) :
    let a := accessAddr (groveOf s k) w
    (a % n = 0 → a + n ≤ 0x400000 → whileOn (coreRow op k (coreStore n)) s =
      .next (let u := gsWrite k a (leBytes n ((groveOf s k).xr (fRd w)).toNat) s; coreNext k (groveOf u k) u)) ∧
    (¬(a % n = 0 ∧ a + n ≤ 0x400000) → whileOn (coreRow op k (coreStore n)) s = .next (coreTrap k .illegal s)) :=
  ⟨fun ha he => executes_next h ho (coreStore_of_inside (storeAt_of_inside ha he)),
    fun hout => executes_next h ho (coreStore_of_outside (storeAt_of_outside hout))⟩

end

/-! ### AMO (R258) -/

section
variable {s u : State} {k : Nat}

/-- Work whose accesses are let go waits for none. -/
@[simp] theorem isWaiting_clearWork (w : Work) : isWaiting (clearWork w s) w = false := by
  simp [isWaiting, clearWork, State.setIo]

theorem isWaiting_congr {s t : State} (h : s.io = t.io) (w : Work) : isWaiting s w = isWaiting t w := by rw [isWaiting, isWaiting, h]

/-- R176: a request to this device's memory that no rule refuses sets out for its Xylem unit. -/
theorem amoAcc_of_local {m : MemReq} {va o : Nat} (hx : xlate (.core k) m.ctx va true s = .ok (.loc o, u))
    (hf : memopFault m.code o m.exact = none) :
    amoAcc k m va s = .ok ((), memopIssue { m with elems := m.elems.map fun e => (o, e.2) } u) := by
  simp only [amoAcc, bind, StateT.bind, Except.bind, hx, hf, accDo]

/-- R258: the operation is on its way, and the core goes on. -/
theorem coreAmo_of_local {w o : Nat} {g : Grove} (hcode : memopCodeBad (bits w 5 0) = false) (hvec : memopVector (memopOp (bits w 5 0)) = false)
    (hx : xlate (.core k) (amoReq s k g w).ctx (g.xr (fRs1 w)).toNat true s = .ok (.loc o, u))
    (hf : memopFault (amoReq s k g w).code o (amoReq s k g w).exact = none) :
    coreAmo k g w s =
      let t := clearWork (.core k) (memopIssue { amoReq s k g w with elems := (amoReq s k g w).elems.map fun e => (o, e.2) } u)
      count (Reg.CORE_CNT_AMO k) (coreNext k (groveOf t k) t) := by
  have hgone : ∀ (g : Grove) (t : State),
      isWaiting (count (Reg.CORE_CNT_AMO k) (coreNext k g (clearWork (.core k) t))) (.core k) = false := fun g t =>
    (isWaiting_congr ((count_io _).trans coreNext_io) _).trans (isWaiting_clearWork _)
  simp only [coreAmo, hcode, hvec, runAcc_of_ok (amoAcc_of_local hx hf), hgone, Bool.or_self, Bool.false_eq_true, if_false]

end

/-- Settles O6: loads by `executes_load`, stores by `executes_store`, an AMO to this device's memory by `coreAmo_of_local`. -/
theorem coreMemoryAccess : Obligations.CoreMemoryAccess :=
  ⟨fun _ _ _ h => ⟨executes_load h, executes_load h, executes_store h, executes_store h⟩,
    fun _ _ _ h ho => ⟨fun _ _ hcode hvec hx hf => executes_next h ho (coreAmo_of_local hcode hvec hx hf),
      fun hbad => executes_next h ho (if_pos hbad)⟩⟩

/-! ### Issue to the engines (R262 to R264) -/

section
variable {s : State} {k w off n : Nat} {g : Grove}

theorem coreIssue_of_pending {full : Grove → Bool} {f : Nat → Nat → Nat → State → State} (h : g.tokenPending (fToken w) = true) :
    coreIssue full f k g w s = coreHold k .held s := if_pos (by simp [h])

theorem coreIssue_of_free {full : Grove → Bool} {f : Nat → Nat → Nat → State → State} (ht : g.tokenPending (fToken w) = false)
    (hf : full g = false) : coreIssue full f k g w s = f k (g.xr (fRd w)).toNat (fToken w) s := if_neg (by simp [ht, hf])

/-- R184: `n` bytes lie inside the grove store, in no poisoned sector. -/
abbrev wholeAt (s : State) (k off n : Nat) : Prop := off + n ≤ 0x400000 ∧ (gsRead k off n s).1.2 = false

theorem issueRead_of_whole {ok : State → State} (h : wholeAt s k off n) : issueRead k off n ok s = ok (gsRead k off n s).2 := by
  obtain ⟨hend, hsound⟩ := h
  simp only [issueRead, gsEnd, Nat.not_lt.mpr hend, hsound, Bool.false_eq_true, if_false]

/-- R262: where the words of an issue stand. -/
abbrev issueOff (g : Grove) (w : Nat) : Nat := (g.xr (fRd w)).toNat

variable (ht : g.tokenPending (fToken w) = false)
include ht

/-- R262: an issue whose token is free, whose engine has room and whose words are whole is decided on what stands there. -/
theorem coreIssue_of_whole {full : Grove → Bool} {ok : Nat → Nat → Nat → State → State} (hf : full g = false)
    (hw : wholeAt s k (issueOff g w) n) : coreIssue full (fun k off t => issueRead k off n (ok k off t)) k g w s =
      ok k (issueOff g w) (fToken w) (gsRead k (issueOff g w) n s).2 := (coreIssue_of_free ht hf).trans (issueRead_of_whole hw)

theorem coreLtile_of_whole (hf : (g.tiles.filter fun t => !t.started).length < 8) (hw : wholeAt s k (issueOff g w) 64) :
    let u := (gsRead k (issueOff g w) 64 s).2
    let x := tileAt k (issueOff g w) (fToken w) u
    coreLtile k g w s = if tileBad u k x then coreTrap k .illegal u else coreIssued k (fToken w) .tile (tileIssue k x u) :=
  coreIssue_of_whole ht (decide_eq_false (Nat.not_le.mpr hf)) hw

theorem coreVchain_of_whole (hf : g.chains.length < 4) (hw : wholeAt s k (issueOff g w) 128) :
    let u := (gsRead k (issueOff g w) 128 s).2
    let c := chainAt k (issueOff g w) (fToken w) u
    coreVchain k g w s = if chainBad u k c then coreTrap k .illegal u
      else coreIssued k (fToken w) .chain (updGrove k (fun g => { g with chains := g.chains ++ [c] }) u) :=
  coreIssue_of_whole ht (decide_eq_false (Nat.not_le.mpr hf)) hw

theorem coreHstart_of_whole (hf : (mget ({} : HChan) g.chans (fChan w)).running = false) (hw : wholeAt s k (issueOff g w) 64) :
    let u := (gsRead k (issueOff g w) 64 s).2
    let c := hstartChan u k (issueOff g w) (fToken w)
    coreHstart k g w s = match hstartBad u k (fChan w) (issueOff g w) c with
      | some f => coreTrap k f u
      | none => coreIssued k (fToken w) (.helix (fChan w)) (hstartRun k (fChan w) c u) :=
  coreIssue_of_whole ht hf hw

theorem coreGdma_of_whole (hf : (gdmaOf s k).queue.length < 16) (hw : wholeAt s k (issueOff g w) 64) :
    let u := (gsRead k (issueOff g w) 64 s).2
    let d := descOf (issueOff g w) (gsPeek u k (issueOff g w) 64) (some (fToken w))
    coreGdma k g w s = if issueOff g w % 64 ≠ 0 ∨ d.malformed true = true then coreTrap k .illegal u
      else coreIssued k (fToken w) .gdma (setGdma k { gdmaOf u k with queue := (gdmaOf u k).queue ++ [d] } u) := by
  refine (coreIssue_of_whole ht (decide_eq_false (Nat.not_le.mpr hf)) hw).trans (if_congr ?_ rfl rfl)
  simp [gsEnd, Nat.not_lt.mpr hw.1]

end

/-! ### Work counters (R266) and TAG (R271) -/

section
variable {s : State} {k w : Nat} {g : Grove} {n : Node}

/-- R266: the item of a Grove's next draw in Exact mode. -/
abbrev workItem (g : Grove) (n : Node) (w : Nat) : Nat := g.logical + g.work.getD (bits w 1 0) 0 * n.groves.length

theorem coreWork_of_exact_below (hn : groveNode s k = some n) (he : groveExact s k = true)
    (hlt : workItem g n w < (g.xr (fRs1 w)).toNat) : coreWork k g w s =
      coreNext k ({ g with work := g.work.set (bits w 1 0) (g.work.getD (bits w 1 0) 0 + 1) }.setX (fRd w)
        (BitVec.ofNat 64 (workItem g n w))) s := by
  simp only [coreWork, hn, he, hlt, if_true]

theorem coreWork_of_exact_end (hn : groveNode s k = some n) (he : groveExact s k = true) (hge : (g.xr (fRs1 w)).toNat ≤ workItem g n w) :
    coreWork k g w s = coreNext k (g.setX (fRd w) (BitVec.allOnes 64)) s := by
  simp only [coreWork, hn, he, Nat.not_lt.mpr hge, if_true, if_false]

/-- R266: in Free mode the draws of the node's Groves come from one counter. -/
theorem coreWork_of_free (hn : groveNode s k = some n) (he : groveExact s k = false) :
    let c := bits w 1 0
    let v := n.work.getD c 0
    coreWork k g w s = coreNext k (g.setX (fRd w) (if v < (g.xr (fRs1 w)).toNat then BitVec.ofNat 64 v else BitVec.allOnes 64))
      (updNode n.ctx (fun x => { x with work := x.work.set c ((v + 1) % 2 ^ 64) }) s) := by
  simp only [coreWork, hn, he, Bool.false_eq_true, if_false]

/-- R271: the grove store's offset and the length that a TAG's register gives, and the tensor and step that it names. -/
abbrev tagOff (g : Grove) (w : Nat) : Nat := bits (g.xr (fRd w)).toNat 21 0
abbrev tagLen (g : Grove) (w : Nat) : Nat := bits (g.xr (fRd w)).toNat 54 32
abbrev tagTensor (g : Grove) (w : Nat) : Nat := (g.xr (fRs1 w)).toNat % 2 ^ 32
abbrev tagStep (g : Grove) (w : Nat) : Nat := (g.xr (fRs2 w)).toNat % 2 ^ 32

theorem tagOutside_iff {off len : Nat} : (decide (len = 0) || decide (gsEnd < off + len)) = true ↔ len = 0 ∨ 0x400000 < off + len := by
  rw [Bool.or_eq_true, decide_eq_true_eq, decide_eq_true_eq, gsEnd]

theorem coreTag_of_outside (h : tagLen g w = 0 ∨ 0x400000 < tagOff g w + tagLen g w) : coreTag k g w s = coreTrap k .illegal s :=
  if_pos (tagOutside_iff.mpr h)

theorem tagInside {off len : Nat} (h0 : len ≠ 0) (he : off + len ≤ 0x400000) : ¬(decide (len = 0) || decide (gsEnd < off + len)) = true :=
  fun h => (tagOutside_iff.mp h).elim h0 (Nat.not_lt.mpr he)

theorem coreTag_of_unmatched (h0 : tagLen g w ≠ 0) (he : tagOff g w + tagLen g w ≤ 0x400000)
    (hd : dumpMatch s (g.ctx.getD 0) (tagTensor g w) (tagStep g w) = none) :
    coreTag k g w s = coreNext k g (emit 0x0C k (g.ctx.getD 0) (tagTensor g w) (tagStep g w) 0 s) := by
  refine (if_neg (tagInside h0 he)).trans ?_
  simp only [hd]

/-- R271: an armed dump that matches fires, and the core waits for its copy. -/
theorem coreTag_of_fired {d : DumpSlot} {c : DumpCopy} {u : State} (h0 : tagLen g w ≠ 0) (he : tagOff g w + tagLen g w ≤ 0x400000)
    (hd : dumpMatch s (g.ctx.getD 0) (tagTensor g w) (tagStep g w) = some d)
    (hf : dumpFire k d (tagOff g w) (tagLen g w)
      (count (Reg.CORE_CNT_TAG_FIRE k) (emit 0x0C k (g.ctx.getD 0) (tagTensor g w) (tagStep g w) 1 s)) = (some c, u)) :
    coreTag k g w s = updGrove k (fun g => { g with dump := some c, wait := .tag }) u := by
  refine (if_neg (tagInside h0 he)).trans ?_
  simp only [hd, hf]

end

/-- Settles O9: the four issues by what stands in the grove store (`coreIssue_of_whole`), a held one by `coreIssue_of_pending`, then
the waits, the work counters and TAG. -/
theorem coreIssuesAndWaits : Obligations.CoreIssuesAndWaits := by
  refine ⟨fun s k w n h => ⟨?_, ?_, ?_, ?_, fun hpending => ?_⟩, fun s k w h => ⟨?_, ?_, ?_, ?_, ?_, ?_⟩⟩
  · rintro ho rfl hfree hroom hwhole
    have hissue := coreLtile_of_whole hfree hroom hwhole
    exact ⟨fun hok => executes_next h ho (hissue.trans (if_neg (Bool.eq_false_iff.mp hok))),
      fun hbad => executes_next h ho (hissue.trans (if_pos hbad))⟩
  · rintro ho rfl hfree hroom hwhole
    have hissue := coreVchain_of_whole hfree hroom hwhole
    exact ⟨fun hok => executes_next h ho (hissue.trans (if_neg (Bool.eq_false_iff.mp hok))),
      fun hbad => executes_next h ho (hissue.trans (if_pos hbad))⟩
  · rintro ho rfl hfree hroom hwhole
    have hissue := coreHstart_of_whole hfree hroom hwhole
    exact ⟨fun hok => executes_next h ho (by simpa only [fChan, fToken, hok] using hissue),
      fun f hbad => executes_next h ho (by simpa only [fChan, fToken, hbad] using hissue)⟩
  · rintro ho rfl hfree hroom hwhole
    have hissue := coreGdma_of_whole hfree hroom hwhole
    exact ⟨fun haligned hok => executes_next h ho (hissue.trans (if_neg (not_or.mpr ⟨not_not.mpr haligned, Bool.eq_false_iff.mp hok⟩))),
      fun hbad => executes_next h ho (hissue.trans (if_pos hbad))⟩
  · simp only [List.forall_mem_cons, List.not_mem_nil, false_imp_iff, implies_true, and_true]
    and_intros <;> exact fun ho => executes_next h ho (coreIssue_of_pending hpending)
  · exact fun ho hdone => executes_next h ho (if_pos hdone)
  · exact fun ho hopen => executes_next h ho (if_neg hopen)
  · exact fun ho hdone => executes_next h ho (if_neg (Bool.eq_false_iff.mp hdone))
  · exact fun ho hopen => executes_next h ho (if_pos hopen)
  · exact fun ho n hn => ⟨fun he hlt => executes_next h ho (coreWork_of_exact_below hn he hlt),
      fun he hge => executes_next h ho (coreWork_of_exact_end hn he hge), fun he => executes_next h ho (coreWork_of_free hn he)⟩
  · exact fun ho => ⟨fun hout => executes_next h ho (coreTag_of_outside hout),
      fun h0 he hd => executes_next h ho (coreTag_of_unmatched h0 he hd),
      fun h0 he d c u hd hf => executes_next h ho (coreTag_of_fired h0 he hd hf)⟩

/-! ### Barriers and the end of a program (R269, R270, R272) -/

section
variable {s : State} {k w : Nat} {g : Grove} {n : Node}

theorem coreBar_of_early (hn : groveNode s k = some n) (hm : mayArrive s k = false) :
    coreBar k g w s = coreHold k (.barrier (bits w 3 0)) s := by
  simp only [coreBar, hn, hm, Bool.not_false, if_true]

/-- R269, R270: after an END of the node, or with another barrier's id, an arrival traps. -/
theorem coreBar_of_mismatch (hn : groveNode s k = some n) (hm : mayArrive s k = true)
    (h : n.ended ≠ [] ∨ n.arrived ≠ [] ∧ n.barId ≠ bits w 3 0) : coreBar k g w s = coreTrap k .illegal s := by
  have hbad : (!n.ended.isEmpty || (!n.arrived.isEmpty && n.barId != bits w 3 0)) = true := by simpa using h
  simp only [coreBar, hn, hm, hbad, Bool.not_true, Bool.false_eq_true, if_false, if_true]

/-- R269: the first arrival opens the generation. -/
theorem coreBar_of_first (hn : groveNode s k = some n) (hm : mayArrive s k = true) (he : n.ended = []) (ha : n.arrived = []) :
    let m := { n with barId := bits w 3 0, barAt := s.now, barFirst := k, arrived := [g.logical] }
    let u := coreHold k (.barrier (bits w 3 0)) (updNode n.ctx (fun _ => m) s)
    coreBar k g w s = if n.groves.length = 1 then barrierDone m u else turnNext n.ctx k u := by
  simp only [coreBar, hn, hm, he, ha, List.isEmpty_nil, Bool.not_true, Bool.false_and, Bool.or_self, Bool.false_eq_true, if_false,
    if_true, List.nil_append, List.length_singleton, eq_comm (a := 1)]

/-- R269: a later arrival at the same barrier joins the generation. -/
theorem coreBar_of_later (hn : groveNode s k = some n) (hm : mayArrive s k = true) (he : n.ended = []) (ha : n.arrived ≠ [])
    (hid : n.barId = bits w 3 0) :
    let m := { n with arrived := n.arrived ++ [g.logical] }
    let u := coreHold k (.barrier (bits w 3 0)) (updNode n.ctx (fun _ => m) s)
    coreBar k g w s = if n.arrived.length + 1 = n.groves.length then barrierDone m u else turnNext n.ctx k u := by
  simp only [coreBar, hn, hm, he, hid, List.isEmpty_nil, List.isEmpty_eq_false_iff.mpr ha, bne_self_eq_false, Bool.not_true, Bool.and_false,
    Bool.or_self, Bool.false_eq_true, if_false, List.length_append, List.length_singleton]

/-- R272: a channel whose token the Grove holds waits at BARW. -/
def Grove.atBarw (g : Grove) (s : State) (k : Nat) : Bool := g.tokens.any fun t => match t.2 with
  | .helix ch => (chanOf s k ch).barw
  | _ => false

theorem Grove.atBarw_iff : g.atBarw s k = true ↔ ∃ t ch, (t, Eng.helix ch) ∈ g.tokens ∧ (chanOf s k ch).barw = true := by
  rw [Grove.atBarw, List.any_eq_true]
  constructor
  · rintro ⟨⟨t, e⟩, hmem, hbarw⟩
    cases e with
    | helix ch => exact ⟨t, ch, hmem, hbarw⟩
    | _ => exact absurd hbarw Bool.false_ne_true
  · exact fun ⟨t, ch, hmem, hbarw⟩ => ⟨_, hmem, hbarw⟩

/-- R270, R272: what an END comes to in its node: a trap, a wait, or the end of its Grove. -/
theorem coreEnd_of_node (hn : groveNode s k = some n) : coreEnd k g w s =
    if !n.arrived.isEmpty || g.atBarw s k then coreTrap k .illegal s
    else if !g.tokens.isEmpty || amoOpen s k then coreHold k .ending s
    else
      let cycle := (g.cycle + (Config.undef s.free).toNat) % 2 ^ 64
      let m := { n with ended := n.ended ++ [g.logical], maxCycle := max n.maxCycle cycle }
      let u := updNode n.ctx (fun _ => m) (count (Reg.CORE_CNT_INSTR k)
        (setGrove k { g with running := false, wait := .none, cycle := cycle } (s.setFree (s.free + 1))))
      if n.ended.length + 1 = n.groves.length then nodeComplete m u else turnNext n.ctx k u := by
  simp only [coreEnd, hn, List.length_append, List.length_singleton]
  rfl

end

/-! ### Resumption, time limits and a TAG's copy (R262, R265, R270, R273, R532) -/

section
variable {s : State} {k w : Nat} {g : Grove} {n : Node}

theorem groveOf_coreHold (c : CoreWait) (hwf : mwf {} s.gro.groves = true) : groveOf (coreHold k c s) k = { groveOf s k with wait := c } :=
  groveOf_setGrove_same hwf

theorem memopOpen_of_none {p : MemReq → Bool} (hp : ∀ m, p m = false) : memopOpen s p = false := by simp [memopOpen, hp]

/-- R258: an instruction that reads no register waits for no fetch. -/
theorem awaitsFetch_of_reads_nothing (h : readsOf w = []) : awaitsFetch s k w = false := memopOpen_of_none fun m => by
  split
  · rw [h, List.contains_nil, Bool.and_false]
  · rfl

theorem coreFetch_of_word {f : Nat → CoreFn} (hcode : (groveOf s k).code[(groveOf s k).pc / 4]? = some w) (hfmt : formatOk w = true)
    (hread : awaitsFetch s k w = false) : coreFetch k f s = f (fOp w) k (groveOf s k) w s := by
  simp only [coreFetch, hcode, hfmt, hread, Bool.not_true, Bool.false_eq_true, if_false]

theorem coreResume_of_tokens {mask : Nat} (hcore : coreOn s k = true) (hw : (groveOf s k).wait = .tokens mask) :
    coreResume k s = coreAgain k s := by simp only [coreResume, hcore, hw, Bool.not_true, Bool.false_eq_true, if_false]

theorem coreResume_of_held (hcore : coreOn s k = true) (hw : (groveOf s k).wait = .held) (hio : isWaiting s (.core k) = false) :
    coreResume k s = coreAgain k s := by simp only [coreResume, hcore, hw, hio, Bool.not_true, Bool.false_eq_true, if_false]

theorem coreResume_of_barrier {id : Nat} (hcore : coreOn s k = true) (hw : (groveOf s k).wait = .barrier id)
    (ha : ((groveNode s k).any fun n => n.arrived.contains (groveOf s k).logical) = true) : coreResume k s = s := by
  simp only [coreResume, hcore, hw, ha, Bool.not_true, Bool.false_eq_true, if_false, if_true]

/-- R265: a WAIT whose tokens are released goes on when it is executed again. -/
theorem coreAgain_of_wait (hcode : (groveOf s k).code[(groveOf s k).pc / 4]? = some w) (ho : fOp w = 0x34) (hfmt : formatOk w = true)
    (hwf : mwf {} s.gro.groves = true) (hdone : (groveOf s k).tokenMask &&& bits w 15 0 = 0) :
    coreAgain k s = coreNext k { groveOf s k with wait := .none } (coreHold k .none s) := by
  have hg := groveOf_coreHold (k := k) .none hwf
  have hfetch := coreFetch_of_word (f := coreInstr) (s := coreHold k .none s) (k := k) (w := w) (by rw [hg]; exact hcode) hfmt
    (awaitsFetch_of_reads_nothing (by simp only [readsOf, ho]))
  rw [coreAgain, hfetch, ho, hg]
  exact if_pos hdone

theorem coreWatchdog_of_limit (hcore : coreOn s k = true) (h : bits (regGet s (Reg.CORE_WDOG k)) 31 0 ≠ 0) :
    coreWatchdog k s = coreTrap k .watchdog (reachTime (((groveOf s k).since +
      (bits (regGet s (Reg.CORE_WDOG k)) 31 0 * 256000 - (groveOf s k).elapsed)) % 2 ^ 64) s) :=
  if_neg (by simp [hcore, h, usUnits])

theorem coreWatchdog_of_off (h : bits (regGet s (Reg.CORE_WDOG k)) 31 0 = 0) : coreWatchdog k s = s := if_pos (by simp [h])

theorem barrierTimeout_of_arrived {ctx : Nat} (hn : nodeOf s ctx = some n) (ha : n.arrived ≠ []) (hst : n.state = .running) :
    barrierTimeout ctx s = groveFault 0x06 0 n.barFirst .barrierTimeout
      (reachTime ((n.barAt + bits (regGet s (Reg.CORE_BAR_TIMEOUT n.barFirst)) 31 0 * 256000) % 2 ^ 64) s) := by
  simp only [barrierTimeout, hn, hst, List.isEmpty_eq_false_iff.mpr ha, bne_self_eq_false, Bool.or_self, Bool.false_eq_true, if_false, usUnits]

/-- R532: the dump that a TAG's copy belongs to counts the record. -/
def recordCounted (ctx : Nat) (c : DumpCopy) (u : State) : State :=
  match u.obs.dumps.find? fun d => d.ctx == ctx && d.slot == c.slot with
  | some d => putDump { d with records := d.records + 1 } u
  | none => u

/-- R532: a copy of unpoisoned data writes the data, then the header; the record counts and the TAG completes. -/
theorem tagCopyDone_of_sound {c : DumpCopy} (hd : (groveOf s k).dump = some c) (he : engineOn s k = true)
    (hb : (gsRead k c.off c.len s).1.2 = false) :
    let ctx := (groveOf s k).ctx.getD 0
    let l := (gsRead k c.off c.len s).1.1
    let v := (gsRead k c.off c.len s).2
    tagCopyDone k s = runAcc (.dump k) (do
        ctxWrite (.dump k) ctx (c.space + 64) (padTo (64 * ((c.len + 63) / 64)) l)
        ctxWrite (.dump k) ctx c.space (recordHeader v k c l false))
      (fun _ u => coreNext k { groveOf (recordCounted ctx c u) k with dump := none } (recordCounted ctx c u))
      (fun f u => groveFault 0x00 c.space k f u) v := by
  simp only [tagCopyDone, hd, he, hb, Bool.not_true, Bool.false_eq_true, if_false]
  rfl

end

/-- Settles O10: BAR by the state of its node's generation (`coreBar_of_first`, `coreBar_of_later`), END by `coreEnd_of_node`, a resumption
by what held the core, then the time limits and a TAG's copy (`tagCopyDone_of_sound`). -/
theorem coreBarriersEndAndEvents : Obligations.CoreBarriersEndAndEvents := by
  refine ⟨fun s k w n h hn => ⟨fun ho => ⟨?_, ?_, ?_, ?_⟩, fun ho => ?_⟩, fun s k w hon hcore => ⟨?_, ?_, ?_, ?_, ?_, ?_, ?_⟩⟩
  · exact fun hm => executes_next h ho (coreBar_of_early hn hm)
  · exact fun hm hbad => executes_next h ho (coreBar_of_mismatch hn hm hbad)
  · exact fun hm he ha => executes_next h ho (coreBar_of_first hn hm he ha)
  · exact fun hm he ha hid => executes_next h ho (coreBar_of_later hn hm he ha hid)
  · have hend := coreEnd_of_node (g := groveOf s k) (w := w) hn
    refine ⟨fun htrap => ?_, fun ha hb hopen => ?_, fun ha ht hopen =>
      ⟨((groveOf s k).cycle + (Config.undef s.free).toNat) % 2 ^ 64, s.free + 1, ?_⟩⟩
    · exact executes_next h ho (hend.trans (if_pos (by simpa [Grove.atBarw_iff] using htrap)))
    · have hgo : ¬(!n.arrived.isEmpty || (groveOf s k).atBarw s k) = true := by simpa [Grove.atBarw_iff, ha] using hb
      exact executes_next h ho (hend.trans ((if_neg hgo).trans (if_pos (by simpa using hopen))))
    · have hgo : ¬(!n.arrived.isEmpty || (groveOf s k).atBarw s k) = true := by simp [Grove.atBarw, ha, ht]
      exact executes_next h ho (hend.trans ((if_neg hgo).trans (if_neg (by simp [ht, hopen]))))
  · exact fun mask hw hcode ho hfmt hwf hdone =>
      whileOn_next hon ((coreResume_of_tokens hcore hw).trans (coreAgain_of_wait hcode ho hfmt hwf hdone))
  · exact fun hw hio => whileOn_next hon (coreResume_of_held hcore hw hio)
  · exact fun id hw ha => whileOn_next hon (coreResume_of_barrier hcore hw ha)
  · exact fun hlimit => whileOn_next hon (coreWatchdog_of_limit hcore hlimit)
  · exact fun hoff => whileOn_next hon (coreWatchdog_of_off hoff)
  · exact fun ctx n hn ha hst => whileOn_next hon (barrierTimeout_of_arrived hn ha hst)
  · exact fun c hd he hb => whileOn_next hon (tagCopyDone_of_sound hd he hb)

end Sys2Proof.Machine
end

-- The settling of the Helix family: the requests of READ and READ2, the other stream instructions, and the ring's arrivals and ends.
section

namespace Sys2Proof.Machine

/-! ### The instruction that a channel runs (R291, R304) -/

section
variable {s : State} {k ch w op : Nat} {f : HChan → Nat → State → State}

/-- An instruction that its channel runs acts by its function on the channel. -/
theorem hRun_of_streams (h : streams s k ch w = true) (ho : bits w 7 0 = op) : hRun op k ch f s = f (chanOf s k ch) w s := by
  simp only [streams, Bool.and_eq_true, beq_iff_eq] at h
  obtain ⟨⟨⟨_, he⟩, hl⟩, hw⟩ := h
  have hgo : (engineOn s k && (chanOf s k ch).live && hOp w == op) = true := by simp [he, hl, hOp, ho]
  simp only [hRun, hw, hgo, if_true]

theorem isOn_of_streams (h : streams s k ch w = true) : isOn s = true := by
  simp only [streams, Bool.and_eq_true] at h
  exact h.1.1.1

/-- A row of R291 whose instruction the channel runs leads to what its function gives. -/
theorem streams_next {t : State} (h : streams s k ch w = true) (ho : bits w 7 0 = op) (hf : f (chanOf s k ch) w s = t) :
    whileOn (hRun op k ch f) s = .next t := whileOn_next (isOn_of_streams h) ((hRun_of_streams h ho).trans hf)

end

/-! ### Requests of a run of rows (R284, R285) -/

theorem HChan.slotBytes_pos (c : HChan) : 0 < c.slotBytes := Nat.mul_pos (by decide) (Nat.succ_pos _)

@[simp] theorem HChan.max_slotBytes_one (c : HChan) : max c.slotBytes 1 = c.slotBytes := Nat.max_eq_left c.slotBytes_pos

/-- R284: the bytes of the next request of a row of `len` bytes that reads from `a`: it ends with the row, before a 256-byte boundary of
its source and before a boundary of the ring's slots. -/
def HChan.requestBytes (c : HChan) (len a : Nat) : Nat :=
  min (len - c.pos.done) (min (256 - a % 256) (c.slotBytes - c.pos.p % max c.slotBytes 1))

theorem HChan.requestBytes_pos {c : HChan} {len : Nat} (a : Nat) (h : c.pos.done < len) : 0 < c.requestBytes len a := by
  have hslot : c.pos.p % c.slotBytes < c.slotBytes := Nat.mod_lt _ c.slotBytes_pos
  simp only [HChan.requestBytes, HChan.max_slotBytes_one]
  omega

theorem HChan.requestBytes_le_256 (c : HChan) (len a : Nat) : c.requestBytes len a ≤ 256 :=
  (Nat.min_le_right ..).trans ((Nat.min_le_left ..).trans (Nat.sub_le ..))

theorem HChan.requestBytes_le_row (c : HChan) (len a : Nat) : c.requestBytes len a ≤ len - c.pos.done := Nat.min_le_left ..

/-- R291: the position after a request of `n` bytes of a row of `len` bytes. -/
def HPos.pastRequest (p : HPos) (len n : Nat) : HPos :=
  if p.done + n = len then { p with row := p.row + 1, done := 0, p := p.p + n } else { p with done := p.done + n, p := p.p + n }

section
variable {p : HPos} {len n : Nat}

@[simp] theorem HPos.pastRequest_pc : (p.pastRequest len n).pc = p.pc := by unfold HPos.pastRequest; split <;> rfl
@[simp] theorem HPos.pastRequest_p : (p.pastRequest len n).p = p.p + n := by unfold HPos.pastRequest; split <;> rfl

/-- Only the progress of the instruction and P move. -/
theorem HPos.pastRequest_frame (pc row done q : Nat) :
    { p.pastRequest len n with pc := pc, row := row, done := done, p := q } = { p with pc := pc, row := row, done := done, p := q } := by
  unfold HPos.pastRequest
  split <;> rfl

/-- A request that lies in its row moves the progress within the rows by its bytes, and leaves it within a row. -/
theorem HPos.pastRequest_progress (hlen : p.done < len) (h : n ≤ len - p.done) :
    (p.pastRequest len n).row * len + (p.pastRequest len n).done = p.row * len + p.done + n ∧ (p.pastRequest len n).done < len := by
  unfold HPos.pastRequest
  split
  · exact ⟨by simp only [Nat.add_mul]; omega, by simp only; omega⟩
  · exact ⟨by simp only; omega, by simp only; omega⟩

end

section
variable {rows len : Nat} {base : Nat → Nat}

theorem issueRows_of_done {c : HChan} {fuel : Nat} (h : rows ≤ c.pos.row) : issueRows rows len base (fuel + 1) c =
    { c with held := false, pos := { c.pos with pc := c.pos.pc + 1, row := 0, done := 0 } } := if_pos h

/-- R284: with credit for its bytes the next request is issued, and the rest follows. -/
theorem issueRows_of_credit {c : HChan} {fuel a : Nat} (h : c.pos.row < rows) (ha : (base c.pos.row + c.pos.done) % 2 ^ 64 = a)
    (hc : c.pos.p + c.requestBytes len a ≤ c.window) : issueRows rows len base (fuel + 1) c = issueRows rows len base fuel
      { c with reqs := c.reqs ++ [⟨c.pos, a, c.requestBytes len a⟩], pos := c.pos.pastRequest len (c.requestBytes len a) } := by
  subst ha
  exact (if_neg (Nat.not_le.mpr h)).trans (if_neg (Nat.not_lt.mpr hc))

/-- R284, R291: a request for bytes from number `q` on of rows of `len` bytes whose first byte has stream position `start`. -/
def RequestAt (len : Nat) (base : Nat → Nat) (start q : Nat) (r : HReq) : Prop :=
  0 < r.bytes ∧ r.bytes ≤ 256 ∧ r.pos.p = start + q ∧ r.addr = (base (q / len) + q % len) % 2 ^ 64 ∧ q % len + r.bytes ≤ len

/-- The requests `l` follow one another from byte `q` of the rows on. -/
def RequestsFrom (len : Nat) (base : Nat → Nat) (start q : Nat) (l : List HReq) : Prop :=
  ∀ i (hi : i < l.length), RequestAt len base start (q + ((l.take i).map (·.bytes)).sum) l[i]

theorem RequestsFrom.cons {start q : Nat} {r : HReq} {l : List HReq} (hr : RequestAt len base start q r)
    (hl : RequestsFrom len base start (q + r.bytes) l) : RequestsFrom len base start q (r :: l)
  | 0, _ => hr
  | i + 1, hi => by simpa [Nat.add_assoc] using hl i (by simpa using hi)

/-- The next request at progress `row * len + done` is for the bytes from there on. -/
theorem requestAt_next {c : HChan} {start q : Nat} (hd : c.pos.done < len) (hq : c.pos.row * len + c.pos.done = q)
    (hs : c.pos.p = start + q) : RequestAt len base start q
      ⟨c.pos, (base c.pos.row + c.pos.done) % 2 ^ 64, c.requestBytes len ((base c.pos.row + c.pos.done) % 2 ^ 64)⟩ := by
  obtain ⟨hrow, hdone⟩ : q / len = c.pos.row ∧ q % len = c.pos.done :=
    (Nat.div_mod_unique (Nat.zero_lt_of_lt hd)).mpr ⟨by rw [← hq, Nat.mul_comm, Nat.add_comm], hd⟩
  have hle := c.requestBytes_le_row len ((base c.pos.row + c.pos.done) % 2 ^ 64)
  refine ⟨c.requestBytes_pos _ hd, c.requestBytes_le_256 .., hs, ?_, ?_⟩
  · rw [hrow, hdone]
  · rw [hdone]
    simp only
    omega

/-- R284, R291: with credit for all the bytes that remain of the rows, from byte `q` on, requests are issued for exactly them. -/
theorem issueRows_covers {start : Nat} : ∀ {fuel q : Nat} {c : HChan}, c.pos.done < len → c.pos.row * len + c.pos.done = q →
    c.pos.p = start + q → q ≤ rows * len → rows * len < q + fuel → start + rows * len ≤ c.window →
    ∃ l, issueRows rows len base fuel c = { c with
        held := false
        reqs := c.reqs ++ l
        pos := { c.pos with pc := c.pos.pc + 1, row := 0, done := 0, p := start + rows * len } } ∧
      q + (l.map (·.bytes)).sum = rows * len ∧ RequestsFrom len base start q l
  | 0, q, c, _, _, _, hle, hfuel, _ => by omega
  | fuel + 1, q, c, hd, hq, hs, hle, hfuel, hw => by
    rcases Nat.lt_or_ge c.pos.row rows with hrow | hrow
    · obtain ⟨a, ha⟩ : ∃ a, (base c.pos.row + c.pos.done) % 2 ^ 64 = a := ⟨_, rfl⟩
      have hn := c.requestBytes_le_row len a
      have hpos := c.requestBytes_pos a hd
      obtain ⟨hprog, hdone⟩ := HPos.pastRequest_progress hd hn
      have hend : (c.pos.row + 1) * len ≤ rows * len := Nat.mul_le_mul_right _ hrow
      rw [Nat.add_mul] at hend
      obtain ⟨l, hl, hsum, hreqs⟩ := issueRows_covers (fuel := fuel) (q := q + c.requestBytes len a)
        (c := { c with reqs := c.reqs ++ [⟨c.pos, a, c.requestBytes len a⟩], pos := c.pos.pastRequest len (c.requestBytes len a) })
        hdone (by rw [hprog, hq]) (by rw [HPos.pastRequest_p, hs, Nat.add_assoc]) (by omega) (by omega) hw
      refine ⟨⟨c.pos, a, c.requestBytes len a⟩ :: l, ?_, ?_, .cons ?_ hreqs⟩
      · rw [issueRows_of_credit hrow ha (by omega), hl]
        simp [HPos.pastRequest_frame]
      · simpa [Nat.add_assoc] using hsum
      · subst ha
        exact requestAt_next hd hq hs
    · have hlast : rows * len ≤ c.pos.row * len := Nat.mul_le_mul_right _ hrow
      have hp : start + rows * len = c.pos.p := by omega
      refine ⟨[], ?_, by simp; omega, fun i hi => absurd hi (Nat.not_lt_zero i)⟩
      rw [issueRows_of_done hrow, hp, List.append_nil]

/-- R284, R291: what an instruction that starts with credit for all its bytes leaves: their requests, and P past them. -/
theorem putIssued_covers {s : State} {k ch fuel : Nat} {c : HChan} (hlen : 0 < len) (hfuel : rows * len < fuel) (hr : c.pos.row = 0)
    (hd : c.pos.done = 0) (hw : c.pos.p + rows * len ≤ c.window) :
    ∃ l : List HReq,
      putIssued k ch c (issueRows rows len base fuel c) s = countN (Reg.HLX_CNT_REQ k) l.length (setChan k ch { c with
        held := false
        reqs := c.reqs ++ l
        pos := { c.pos with pc := c.pos.pc + 1, p := c.pos.p + rows * len } } s) ∧
      (l.map (·.bytes)).sum = rows * len ∧ RequestsFrom len base c.pos.p 0 l := by
  obtain ⟨l, hl, hsum, hreqs⟩ := issueRows_covers (base := base) (start := c.pos.p) (fuel := fuel) (q := 0) (hd ▸ hlen)
    (by simp [hr, hd]) rfl (Nat.zero_le _) (by omega) hw
  exact ⟨l, by simp [hl, putIssued, hr, hd], by omega, hreqs⟩

end

/-- Settles O12: READ is one row and READ2 its rows; their requests are those of `putIssued_covers`. -/
theorem streamReads : Obligations.StreamReads := by
  intro s k ch w h c p a covers
  have hcovers : ∀ {op rows n fuel : Nat} {base : Nat → Nat} {i : Instr} {f : HChan → Nat → State → State},
      bits w 7 0 = op → exec i s = whileOn (hRun op k ch f) s → f c w s = putIssued k ch c (issueRows rows n base fuel c) s →
      0 < n → rows * n < fuel → covers rows n base i := fun ho hi hf hn hfuel hr hd hw => by
    obtain ⟨l, hl, hsum, hreqs⟩ := putIssued_covers hn hfuel hr hd hw
    exact ⟨l, hi.trans (streams_next h ho (hf.trans hl)), hsum, fun i hi => by simpa [RequestAt] using hreqs i hi⟩
  clear_value covers
  refine ⟨fun ho => hcovers ho rfl rfl ?_ ?_, fun ho => hcovers ho rfl rfl ?_ ?_⟩ <;> omega

/-! ### Instructions that move no data (R291, R298) -/

section
variable {s : State} {k ch w : Nat}

/-- R291: LDA of a sound doubleword takes its value from the grove store. -/
theorem execLda_of_sound (h : streams s k ch w = true) (ho : bits w 7 0 = 0x04) (hb : (gsRead k (bits w 31 10) 8 s).1.2 = false) :
    execLda k ch s = .next (hMove k ch (chanOf s k ch) { (chanOf s k ch).pos with
      pc := (chanOf s k ch).pos.pc + 1
      addr := (chanOf s k ch).pos.addr.set (hA w) (memNat s (gsBase k + bits w 31 10) 8) } (gsRead k (bits w 31 10) 8 s).2) := by
  refine streams_next h ho ?_
  simp only [hb, Bool.false_eq_true, if_false, gsRead_bytes]
  rfl

/-! ### GATHER (R291) -/

theorem gatherLoop_of_end {fuel : Nat} (h : streams s k ch w = true) (ho : bits w 7 0 = 0x0A)
    (hend : bits w 25 13 + 1 ≤ (chanOf s k ch).pos.row) : gatherLoop k ch (fuel + 1) s =
      hMove k ch (chanOf s k ch) { (chanOf s k ch).pos with pc := (chanOf s k ch).pos.pc + 1, row := 0, done := 0 } s :=
  (hRun_of_streams h ho).trans (if_pos hend)

/-- R291: the address from which GATHER reads its present index. -/
def HPos.indexAddress (p : HPos) (w : Nat) : Nat := (p.address (bits w 11 10) + (if bit w 12 then 8 else 4) * p.row) % 2 ^ 64

/-- R291: channel `c` once the requests for the element of index `x` are issued while credit lasts. -/
def HChan.gathered (c : HChan) (w row x : Nat) : HChan :=
  issueRows (row + 1) (bits w 45 26 + 1)
    (fun _ => (c.pos.address (bits w 9 8) + x * c.pos.stride.getD (8 * bits w 9 8 + 7) 0) % 2 ^ 64) (bits w 45 26 + 2) c

/-- R291: an index whose read answers is followed at once by its element's requests, and, once all are issued, by the next index. -/
theorem gatherLoop_of_index {fuel x : Nat} {u : State} (h : streams s k ch w = true) (ho : bits w 7 0 = 0x0A)
    (hrow : (chanOf s k ch).pos.row < bits w 25 13 + 1)
    (hr : ctxReadNat (.helix k ch (chanOf s k ch).pos.p) ((groveOf s k).ctx.getD 0) ((chanOf s k ch).pos.indexAddress w)
      (if bit w 12 then 8 else 4) s = .ok (x, u)) :
    let p := (chanOf s k ch).pos
    let t := clearWork (.helix k ch p.p) u
    let c1 := chanOf t k ch
    let c2 := c1.gathered w p.row x
    gatherLoop k ch (fuel + 1) s = if c2.held then putIssued k ch c1 c2 t
      else gatherLoop k ch fuel (putIssued k ch c1 { c2 with pos := { c2.pos with pc := p.pc, row := p.row + 1, done := 0 } } t) :=
  (hRun_of_streams h ho).trans ((if_neg (Nat.not_le.mpr hrow)).trans (runAcc_of_ok hr))

/-! ### ZERO, TAKE and BARW (R286, R291, R298) -/

/-- R291: with credit for all its bytes ZERO writes them and the program goes on. -/
theorem execZero_of_credit (h : streams s k ch w = true) (ho : bits w 7 0 = 0x0B) (hd : (chanOf s k ch).pos.done = 0)
    (hw : (chanOf s k ch).pos.p + bits w 31 12 + 1 ≤ (chanOf s k ch).window) :
    let c := chanOf s k ch
    let n := bits w 31 12 + 1
    execZero k ch s = .next (setChan k ch
      ({ c with held := false, pos := { c.pos with pc := c.pos.pc + 1, done := 0, p := c.pos.p + n } } : HChan).advanceTail
      (countN (Reg.HLX_CNT_BYTES k) n (ringPut k c c.pos.p (List.replicate n 0) s))) := by
  refine streams_next h ho ?_
  have hall : min (bits w 31 12 + 1 - 0) ((chanOf s k ch).window - (chanOf s k ch).pos.p) = bits w 31 12 + 1 := by omega
  simp only [hd, hall, Nat.zero_add, if_true]

/-- R286: TAKE accepts all its slots when they lie within the window. -/
theorem execTake_of_window (h : streams s k ch w = true) (ho : bits w 7 0 = 0x0C) (hd : (chanOf s k ch).pos.done = 0)
    (hw : ((chanOf s k ch).accepted + bits w 31 8) * (chanOf s k ch).slotBytes ≤ (chanOf s k ch).window) :
    let c := chanOf s k ch
    execTake k ch s = .next (setChan k ch { c with
      accepted := c.accepted + bits w 31 8
      taking := false
      pos := { c.pos with pc := c.pos.pc + 1, done := 0 } } s) := by
  refine streams_next h ho ?_
  have hroom : (chanOf s k ch).accepted + bits w 31 8 ≤ (chanOf s k ch).window / (chanOf s k ch).slotBytes :=
    (Nat.le_div_iff_mul_le (chanOf s k ch).slotBytes_pos).mpr hw
  have hall : min (bits w 31 8 - 0) ((chanOf s k ch).window / (chanOf s k ch).slotBytes - (chanOf s k ch).accepted) = bits w 31 8 := by
    omega
  simp only [hd, HChan.max_slotBytes_one, hall, Nat.zero_add, if_true]

end

/-! ### Arrivals, external producers, ends and halts (R282, R286, R293, R302) -/

section
variable {s : State} {k ch j : Nat}

/-- R282: the data of an outstanding request whose read answers comes into the ring. -/
theorem requestArrive_of_read {r : HReq} {l : List Byte} {u : State} (hj : (chanOf s k ch).reqs[j]? = some r)
    (hrun : (chanOf s k ch).running = true) (hp : (chanOf s k ch).parked = false) (hh : (chanOf s k ch).halted = none)
    (hio : isWaiting s (.helix k ch r.pos.p) = false)
    (hr : ctxRead (.helix k ch r.pos.p) ((groveOf s k).ctx.getD 0) r.addr r.bytes s = .ok (l, u)) :
    requestArrive k ch j s = requestArrived k ch r l (clearWork (.helix k ch r.pos.p) u) := by
  simp only [requestArrive, hj, hrun, hp, hh, hio, Option.isNone_none, Bool.not_false, Bool.and_self, if_true, requestRun, runAcc_of_ok hr]

/-- R293: a program of Helix's own that has ended, with every transfer arrived and no escape left: its last slot is filled and its
token released. -/
theorem programEnd_of_arrived {t : Nat} (hrun : (chanOf s k ch).running = true) (hend : (chanOf s k ch).ended = true)
    (hreqs : (chanOf s k ch).reqs = []) (hh : (chanOf s k ch).halted = none) (hext : (chanOf s k ch).ext = false)
    (hescs : (chanOf s k ch).escs = []) (ht : (chanOf s k ch).token = some t) :
    let c := chanOf s k ch
    let top := roundUp c.pos.p (max c.slotBytes 1)
    programEnd k ch s = consume k ch 0 (releaseToken k (some t) (
      setChan k ch { c with tail := top / max c.slotBytes 1, token := none, taking := false, held := false, got := [] }
        (ringPut k c c.pos.p (List.replicate (top - c.pos.p) 0) s))) := by
  simp [programEnd, hrun, hend, hreqs, hh, hext, hescs, ht]

/-- R88: the filling of a slot changes what a ring ID holds and where it goes on, nothing else. -/
theorem ringFill_frame (n : Nat) (r : RingId) : ringFill n r = { r with held := (ringFill n r).held, next := (ringFill n r).next } := by
  unfold ringFill
  split
  · dsimp only
    split <;> rfl
  · rfl

@[simp] theorem ringFill_bound (n : Nat) (r : RingId) : (ringFill n r).bound = r.bound := by rw [ringFill_frame]
@[simp] theorem ringFill_base (n : Nat) (r : RingId) : (ringFill n r).base = r.base := by rw [ringFill_frame]

/-- R286: bytes of a held piece that the bound channel allows are written to its ring, and the rest is held on. -/
theorem extWrite_of_allowed {ctx id off : Nat} {l : List Byte} (hb : (ringIdOf s ctx id).bound = some (k, ch))
    (hj : (ringFill (chanOf s k ch).slotBytes (ringIdOf s ctx id)).held[j]? = some (off, l)) (hrun : (chanOf s k ch).running = true)
    (hg : (groveOf s k).running = true) (hn : 0 < extAllowed (chanOf s k ch) (ringIdOf s ctx id).base off l.length) :
    let c := chanOf s k ch
    let r := ringFill c.slotBytes (ringIdOf s ctx id)
    let n := extAllowed c r.base off l.length
    let q := off - r.base
    extWrite ctx id j s = countN (Reg.HLX_CNT_BYTES k) n (setChan k ch
      ({ c with got := c.got ++ [(q, n)], pos := { c.pos with p := max c.pos.p (q + n) } } : HChan).advanceTail
      (setRingId { r with held := if n < l.length then r.held.set j (off + n, l.drop n) else r.held.eraseIdx j }
        (ringPut k c q (l.take n) s))) := by
  simp [extWrite, hb, hj, hrun, hg, hn.ne']

/-- R302: a running channel with a request that waits on a fault stops, at the address of the first such request. -/
theorem faultHalt_of_fault {x : Waiting} {xs : List Waiting} (hx : chanFaults s k ch = x :: xs) (hrun : (chanOf s k ch).running = true)
    (hh : (chanOf s k ch).halted = none) :
    let c := chanOf s k ch
    let waiting := fun (r : HReq) => (x :: xs).any fun y => y.work == .helix k ch r.pos.p
    faultHalt k ch s = setChan k ch { c with
      stopping := true
      parked := c.reqs.all waiting
      faultVa := ((c.reqs.filter waiting).map fun r => r.addr).headD (c.pos.address 0) } s := by
  simp only [faultHalt, hx, hrun, hh, Option.isSome_none, Bool.not_true, Bool.or_self, Bool.false_eq_true, if_false]

end

/-- Settles O11: the instructions that only move the position by `streams_next`, GATHER by `gatherLoop_of_index`, then the writes into
the ring, the slots accepted, and the ends of a run. -/
theorem helixStreams : Obligations.HelixStreams := by
  refine ⟨fun s k ch w h => ⟨fun ho => streams_next h ho rfl, fun ho => ⟨fun hv => ?_, fun hv => ?_⟩, fun ho => streams_next h ho rfl,
    fun ho hb => execLda_of_sound h ho hb, fun ho => streams_next h ho rfl, fun ho => ⟨fun hg => ?_, fun hg => ?_⟩,
    fun ho => streams_next h ho rfl⟩, fun s k ch w fuel h ho => ⟨?_, ?_, fun hrow x u hr => ⟨fun hheld => ?_, fun hheld => ?_⟩⟩,
    fun s k ch w hon => ⟨?_, ?_, ?_, ?_, ?_, ?_⟩⟩
  · exact streams_next h ho (if_pos hv)
  · exact streams_next h ho (if_neg (Nat.not_lt.mpr hv))
  · exact streams_next h ho (if_neg (Nat.not_lt.mpr hg))
  · exact streams_next h ho (if_pos hg)
  · exact whileOn_next (isOn_of_streams h) rfl
  · exact fun hend => gatherLoop_of_end h ho hend
  · exact (gatherLoop_of_index h ho hrow hr).trans (if_pos hheld)
  · exact (gatherLoop_of_index h ho hrow hr).trans (if_neg (Bool.eq_false_iff.mp hheld))
  · exact fun h ho hd hw => execZero_of_credit h ho hd hw
  · exact fun h ho hd hw => execTake_of_window h ho hd hw
  · exact fun j r l u hj hrun hp hh hio hr => whileOn_next hon (requestArrive_of_read hj hrun hp hh hio hr)
  · exact fun hrun hend hreqs hh hext hescs t ht => whileOn_next hon (programEnd_of_arrived hrun hend hreqs hh hext hescs ht)
  · rintro ctx id j _ off l rfl hb hj hrun hg hn
    exact whileOn_next hon (extWrite_of_allowed hb hj hrun hg hn)
  · exact fun x xs hx hrun hh => whileOn_next hon (faultHalt_of_fault hx hrun hh)

end Sys2Proof.Machine
end

-- The settling of the translation family: span writes, page request groups, SET_BIAS, ATS and the fault gatherer.
section

namespace Sys2Proof.Machine

/-! ### The order of a span write's checks (R315) -/

/-- An alignment is one of the device VA, bits [47:0], if the span size divides 2^48. -/
theorem bits_va_mod {size : Nat} (va : Nat) (h : size ∣ 2 ^ 48) : bits va 47 0 % size = va % size := Nat.mod_mod_of_dvd va h

section
variable {s : State} {ctx va entry source : Nat} {giant : Bool}

/-- R315: the window's address or entry is malformed, the model's reading of the conditions of result 1. -/
def spanMalformed (va entry : Nat) (giant : Bool) : Prop :=
  bit va 56 = false ∨ bits va 55 48 ≠ 0 ∨ va % (if giant then 2 ^ 30 else 2 ^ 21) ≠ 0 ∨ bits entry 20 5 ≠ 0 ∨
    (bit entry 0 = true ∧ bit entry 1 = false)

theorem spanMalformed_iff : spanMalformed va entry giant ↔
    (!bit va 56 || bits va 55 48 != 0 || bits va 47 0 % (if giant then 2 ^ 30 else 2 ^ 21) != 0 || bits entry 20 5 != 0 ||
      (bit entry 0 && !bit entry 1)) = true := by
  rw [bits_va_mod va (by cases giant <;> decide)]
  simp [spanMalformed, or_assoc]

theorem spanCheck_of_malformed (h : spanMalformed va entry giant) : spanCheck s ctx va entry source giant = 1 :=
  if_pos (spanMalformed_iff.mp h)

theorem spanCheck_of_absent_ctx (h : ¬spanMalformed va entry giant) (hc : ctxExists s ctx = false) :
    spanCheck s ctx va entry source giant = 4 :=
  (if_neg (mt spanMalformed_iff.mpr h)).trans (if_pos (by simp [hc]))

/-- R315: an invalid entry needs no more than a span table. -/
theorem spanCheck_of_invalid (h : ¬spanMalformed va entry giant) (hc : ctxExists s ctx = true) (hn : ⟨ctx, 1, 0⟩ ∈ s.xlt.nodes)
    (he : bit entry 0 = false) : spanCheck s ctx va entry source giant = 0 :=
  ((if_neg (mt spanMalformed_iff.mpr h)).trans (if_neg (by simp [hc, hn]))).trans (if_neg (by simp [he]))

end

/-- Settles O22: the first row decides where the window is malformed, and the second before any that needs the span table. -/
theorem spanFirstRefusal : Obligations.SpanFirstRefusal :=
  fun _ _ _ _ _ _ => ⟨spanCheck_of_malformed, spanCheck_of_absent_ctx, spanCheck_of_invalid⟩

/-! ### Indices of page request groups (R324) -/

/-- An operation that leaves all but memory, registers and the Xylem units leaves the translation unit. -/
theorem FrmMRX.xlt {s t : State} (h : FrmMRX s t) : t.xlt = s.xlt := by rw [h]

@[simp] theorem countN_xlt (off n : Nat) (s : State) : (countN off n s).xlt = s.xlt := (FrmMRX.countN off n s).xlt
@[simp] theorem count_xlt (off : Nat) (s : State) : (count off s).xlt = s.xlt := countN_xlt off 1 s
@[simp] theorem evt_xlt (u code key n : Nat) (ctx : Option Nat) (s : State) : (evt u code key n ctx s).xlt = s.xlt :=
  (FrmMRX.evt u code key n ctx s).xlt

/-- R324: the indices of the pool of 512 that no outstanding group has. -/
def freeIndices (s : State) : List Nat := (List.range 512).filter fun i => !(s.xlt.groups.filterMap (·.index)).contains i

/-- R324: the index that a group takes when it closes. -/
def drawnIndex (s : State) : Nat := (freeIndices s).getD (Config.choice s.free % (freeIndices s).length) 0

/-- R324: the groups once those of an identifier have been sent with an index. -/
def groupsSent (id index : Nat) (full : Bool) (l : List PageGroup) : List PageGroup :=
  l.map fun g => if g.id == id then { g with index := some index, full := full } else g

section
variable {s : State} {id index : Nat} {full : Bool} {g : PageGroup} {l : List PageGroup}

theorem mem_freeIndices : index ∈ freeIndices s ↔ index < 512 ∧ index ∉ s.xlt.groups.filterMap (·.index) := by
  simp only [freeIndices, List.mem_filter, List.mem_range, Bool.not_eq_true', List.contains_eq_mem, decide_eq_false_iff_not]

theorem drawnIndex_mem (h : freeIndices s ≠ []) : drawnIndex s ∈ freeIndices s := by
  have hlt := Nat.mod_lt (Config.choice s.free) (List.length_pos_iff.mpr h)
  rw [drawnIndex, List.getD_eq_getElem _ 0 hlt]
  exact List.getElem_mem hlt

theorem closeGroup_of_none (hg : (s.xlt.groups.find? fun g => g.id == id && g.index.isNone) = none) : closeGroup id full s = s := by
  simp only [closeGroup, hg]

theorem closeGroup_of_exhausted (h : freeIndices s = []) : closeGroup id full s = s := by
  unfold closeGroup
  split
  · rfl
  · exact if_pos (List.isEmpty_iff.mpr h)

/-- R324: while an index is free, closing gives a free one to the open group of the identifier. -/
theorem closeGroup_groups (hg : (s.xlt.groups.find? fun g => g.id == id && g.index.isNone) = some g) (h : freeIndices s ≠ []) :
    ∃ index ∈ freeIndices s, (closeGroup id full s).xlt.groups = groupsSent id index full s.xlt.groups := by
  refine ⟨drawnIndex s, drawnIndex_mem h, ?_⟩
  unfold freeIndices at h
  simp only [closeGroup, hg, List.isEmpty_iff, h, if_false, evt_xlt, count_xlt, countN_xlt]
  rfl

theorem groupsSent_ids : (groupsSent id index full l).map (·.id) = l.map (·.id) := by
  simp only [groupsSent, List.map_map]
  refine List.map_congr_left fun g _ => ?_
  dsimp only [Function.comp]
  split <;> rfl

theorem groupsSent_of_others (h : ∀ g ∈ l, g.id ≠ id) : groupsSent id index full l = l :=
  (List.map_congr_left fun g hg => if_neg (by simpa using h g hg)).trans (List.map_id l)

/-- R324: with distinct identifiers, sending the open group of one adds its index to those in use. -/
theorem groupsSent_indices (hids : (l.map (·.id)).Nodup) (hg : (l.find? fun g => g.id == id && g.index.isNone) = some g) :
    ((groupsSent id index full l).filterMap (·.index)).Perm (index :: l.filterMap (·.index)) := by
  obtain ⟨hopen, before, after, rfl, -⟩ := List.find?_eq_some_iff_append.mp hg
  simp only [Bool.and_eq_true, beq_iff_eq, Option.isNone_iff_eq_none] at hopen
  obtain ⟨rfl, hnone⟩ := hopen
  simp only [List.map_append, List.map_cons, List.nodup_middle, List.nodup_cons, List.mem_append, List.mem_map, not_or, not_exists,
    not_and] at hids
  obtain ⟨⟨hbefore, hafter⟩, -⟩ := hids
  have hsplit : groupsSent g.id index full (before ++ g :: after) = before ++ { g with index := some index, full := full } :: after := by
    conv_rhs =>
      rw [← groupsSent_of_others (index := index) (full := full) hbefore, ← groupsSent_of_others (index := index) (full := full) hafter]
    simp [groupsSent]
  simp only [hsplit, List.filterMap_append, List.filterMap_cons, hnone]
  exact List.perm_middle

end

/-- Settles O24: closing leaves the state, or gives the open group an index that no outstanding group has (`closeGroup_groups`,
`mem_freeIndices`). -/
theorem pageGroupIndices : Obligations.PageGroupIndices := by
  intro s id full hids hindices hpool
  dsimp only
  rcases hg : s.xlt.groups.find? (fun g => g.id == id && g.index.isNone) with _ | g
  · rw [closeGroup_of_none hg]
    exact ⟨hids, hindices, hpool⟩
  by_cases hfree : freeIndices s = []
  · rw [closeGroup_of_exhausted hfree]
    exact ⟨hids, hindices, hpool⟩
  obtain ⟨index, hindex, hgroups⟩ := closeGroup_groups (full := full) hg hfree
  obtain ⟨hlt, hnew⟩ := mem_freeIndices.mp hindex
  have hperm := groupsSent_indices (index := index) (full := full) hids hg
  rw [hgroups, groupsSent_ids]
  refine ⟨hids, hperm.nodup_iff.mpr (List.nodup_cons.mpr ⟨hnew, hindices⟩), fun i hi => ?_⟩
  rcases List.mem_cons.mp (hperm.mem_iff.mp hi) with rfl | hi
  · exact hlt
  · exact hpool i hi

/-- R492: in a part that is on, the works that an answer names go on. -/
theorem whileOn_answered {f : State → List Work × State} {s : State} {r : List Work × State} (hon : isOn s = true) (h : f s = r) :
    whileOn (fun u => answered (f u)) s = .next (goOnAll r.1 r.2) := whileOn_next hon (congrArg answered h)

/-! ### The span window (R315, R316) -/

section
variable {s : State} {go : Nat}

/-- The context and the device VA that the span window names. -/
abbrev windowSpan (s : State) : Nat × Nat := (bits (regGet s Reg.XLT_SPAN_CTX) 13 0, bits (regGet s Reg.XLT_SPAN_VA) 47 0)

/-- R315: the state in which a span write is checked, with no size of an earlier read. -/
abbrev windowCleared (s : State) : State := regField Reg.XLT_SPAN_STAT 6 6 0 s

/-- R315: the result code of the window's write. -/
def windowCheck (go : Nat) (s : State) : Nat :=
  spanCheck (windowCleared s) (windowSpan s).1 (regGet s Reg.XLT_SPAN_VA) (regGet s Reg.XLT_SPAN_DATA)
    (regGet (windowCleared s) Reg.XLT_SPAN_SRC) (bit go 2)

/-- R315, R316: a span write by its result code, and by the load of its span that it may have to wait for. -/
theorem spanWrite_of_idle (hop : s.xlt.spanOp = none) (hgo : bit go 0 = true) :
    spanWrite go s =
      if windowCheck go s ≠ 0 then
        spanStatus false true (windowCheck go s) (if bit go 1 then spanFetch (windowCleared s) else windowCleared s)
      else if s.xlt.loads.contains (windowSpan s) then
        spanStatus true false 0 ((windowCleared s).setXlt { s.xlt with spanOp := some { go := go, load := some (windowSpan s) } })
      else spanPerform go (windowCleared s) := by
  have hentry : regGet (windowCleared s) Reg.XLT_SPAN_DATA = regGet s Reg.XLT_SPAN_DATA := regGet_regPut_ne _ (by decide)
  rw [windowCheck, ← hentry]
  exact if_neg (by simp [hop, hgo])

/-- R315: a span read by its address, its context, and what maps the VA. -/
theorem spanRead_of_idle (hop : s.xlt.spanOp = none) (hw : bit go 0 = false) (hr : bit go 1 = true) :
    spanRead go s =
      let va := regGet s Reg.XLT_SPAN_VA
      if !bit va 56 || bits va 55 48 != 0 then spanStatus false true 1 s
      else if !ctxExists s (windowSpan s).1 || !s.xlt.nodes.contains ⟨(windowSpan s).1, 1, 0⟩ then spanStatus false true 4 s
      else spanStatus false true 0 (spanFetch s) := if_neg (by simp [hop, hw, hr])

theorem spanWriteDone_of_performed {op : SpanOp} (hop : s.xlt.spanOp = some op) (hl : op.load = none) :
    spanWriteDone s = spanStatus false true 0 (s.setXlt { s.xlt with spanOp := none }) := by
  simp [spanWriteDone, hop, hl]

end

/-! ### Absent spans (R328) -/

@[simp] theorem failWaiters_xlt (f : Flt) (l : List Waiting) (s : State) : (failWaiters f l s).xlt = s.xlt :=
  st_foldl (P := fun u => u.xlt = s.xlt) _ (fun u x h => by
    obtain ⟨work, need, tag⟩ := x
    cases work <;> exact h) l s rfl

@[simp] theorem loadSpan_xlt (p : Span) (data : List Byte) (s : State) : (loadSpan p data s).xlt = s.xlt := by
  unfold loadSpan
  dsimp only
  split <;> rfl

section
variable {s : State} {ctx va : Nat} {data : List Byte}

theorem absentSpanFault_of_waiting (h : ∃ x ∈ s.io.waits, x.need = .absent ctx va) :
    absentSpanFault ctx va s =
      let u := changeNeed (.absent ctx va) (.load ctx va) (countFaults 1 (s.io.waits.filter fun x => x.need == .absent ctx va) s)
      if u.xlt.loads.contains (ctx, va) then u
      else count Reg.XLT_CNT_ABSENT_LOAD (u.setXlt { u.xlt with loads := u.xlt.loads ++ [(ctx, va)] }) :=
  if_neg (by simpa using h)

/-- The state in which a load is no longer under way. -/
abbrev loadEnded (ctx va : Nat) (s : State) : State :=
  s.setXlt { s.xlt with loads := s.xlt.loads.filter fun p => p != (ctx, va) }

/-- R328: the state with a span loaded and present. -/
abbrev spanLoaded (ctx va : Nat) (p : Span) (data : List Byte) (s : State) : State :=
  let u := loadSpan p data s
  dropSpanEntries ctx va (u.setXlt { u.xlt with
    spans := updFirst (fun q => q == p) (fun q => { q with entry := setBits q.entry 4 4 0 }) u.xlt.spans })

theorem spanLoaded_spanOp (p : Span) : (spanLoaded ctx va p data s).xlt.spanOp = s.xlt.spanOp :=
  (congrArg Xlt.spanOp (loadSpan_xlt p data s) :)

/-- R316: a span write that waits for a load is performed. -/
def heldWritePerformed (ctx va : Nat) (s : State) : State :=
  match s.xlt.spanOp with
  | some op => if op.load == some (ctx, va) then spanPerform op.go s else s
  | none => s

theorem heldWritePerformed_of_idle (hop : s.xlt.spanOp = none) : heldWritePerformed ctx va s = s := by
  simp only [heldWritePerformed, hop]

/-- R328: a load of a readable source makes its span present, and its waiters translate again. -/
theorem absentLoadDone_of_good {p : Span} (hl : (ctx, va) ∈ s.xlt.loads)
    (hp : (s.xlt.spans.find? fun p => p.ctx == ctx && p.va == va && bit p.entry 4) = some p) (hs : sourceBad s p = false) :
    absentLoadDone ctx va true data s =
      let r := takeWaits (fun x => x.need == .load ctx va) (spanLoaded ctx va p data (loadEnded ctx va s))
      (worksOf r.1, heldWritePerformed ctx va r.2) := by
  refine (if_neg (by simpa using hl)).trans ?_
  simp only [hp, hs, Bool.not_false, Bool.and_true, if_true]
  rfl

/-- R328: a load that fails, fails its waiters. -/
theorem absentLoadDone_of_failed (hl : (ctx, va) ∈ s.xlt.loads) :
    absentLoadDone ctx va false data s =
      let r := takeWaits (fun x => x.need == .load ctx va) (loadEnded ctx va s)
      (worksOf r.1, heldWritePerformed ctx va (failWaiters .xlate r.1 r.2)) := by
  refine (if_neg (by simpa using hl)).trans ?_
  cases s.xlt.spans.find? fun p => p.ctx == ctx && p.va == va && bit p.entry 4 <;> rfl

end

/-! ### SET_BIAS (R335 to R339) -/

section
variable {c : Cmd} {s : State}

/-- R337 to R339: a SET_BIAS that is not in progress, by its checks. -/
theorem setBias_of_new (h : ∀ b ∈ (startCmd c s).xlt.biasOps, b.cmd ≠ c) :
    setBias c s =
      let u := startCmd c s
      if biasBad u c then badPacket c 0 u
      else if 65536 < ((biasOpOf u c).table u.xlt.bias).length then complete c stNoResource 0 0 u
      else u.setXlt { u.xlt with
        biasOps := u.xlt.biasOps ++ [{ biasOpOf u c with begun := !u.xlt.biasOps.any (·.meets (biasOpOf u c)) }] } :=
  if_neg (by simpa using h)

/-- R338: the bias table and the operations once an operation has ended. -/
abbrev biasEnded (c : Cmd) (b : BiasOp) (s : State) : State :=
  let lines := if b.flush then b.count * 64 else 0
  countN Reg.XLT_CNT_CLFLUSH lines (s.setXlt { s.xlt with
    sent := if lines = 0 then s.xlt.sent else s.xlt.sent ++ [.clFlush b.pasid (b.first * 4096) lines]
    bias := b.table s.xlt.bias
    biasOps := biasBegin (s.xlt.biasOps.filter fun x => x.cmd != c) })

/-- R338: a wait for a page that a SET_BIAS holds. -/
def BiasOp.holds (b : BiasOp) (x : Waiting) : Bool :=
  match x.need with
  | .bias p pg => p == b.pasid && decide (b.first ≤ pg) && decide (pg < b.first + b.count)
  | _ => false

theorem setBiasDone_of_drained {b : BiasOp} (hb : (s.xlt.biasOps.find? fun b => b.cmd == c) = some b) (hbegun : b.begun = true)
    (hbusy : biasBusy s b = false) (hroom : (b.table s.xlt.bias).length ≤ 65536) :
    setBiasDone c true s =
      let r := takeWaits b.holds (biasEnded c b s)
      (worksOf r.1, completeOk c 0 r.2) := by
  simp only [setBiasDone, hb, hbegun, hbusy, Nat.not_lt.mpr hroom]
  rfl

end

/-- Settles O21: the window by the order of its branches (`spanWrite_of_idle`, `spanRead_of_idle`), a load by whether its source can be
read (`absentLoadDone_of_good`), with no span write held for it, and SET_BIAS by its checks and its drain. -/
theorem spansAndBias : Obligations.SpansAndBias := by
  refine ⟨fun s go => ⟨fun hserved hop hgo => ?_, fun hserved hop hw hr => ?_, fun op hon hop hl => ?_⟩, fun s hon => ⟨?_, ?_, ?_, ?_, ?_⟩⟩
  · have write := spanWrite_of_idle hop hgo
    refine ⟨fun h => ?_, fun h hl => ?_, fun h hl => ?_⟩
    · exact whileServed_next hserved (write.trans (if_pos h))
    · exact whileServed_next hserved (write.trans ((if_neg (not_not.mpr h)).trans (if_neg (by simpa using hl))))
    · exact whileServed_next hserved (write.trans ((if_neg (not_not.mpr h)).trans (if_pos (by simpa using hl))))
  · have read := spanRead_of_idle hop hw hr
    refine ⟨fun h => ?_, fun h1 h2 hc => ?_, fun h1 h2 hc hn => ?_⟩
    · exact whileServed_next hserved (read.trans (if_pos (by simpa using h)))
    · exact whileServed_next hserved (read.trans ((if_neg (by simp [h1, h2])).trans (if_pos (by simp [hc]))))
    · exact whileServed_next hserved (read.trans ((if_neg (by simp [h1, h2])).trans (if_neg (by simp [hc, hn]))))
  · exact whileOn_next hon (spanWriteDone_of_performed hop hl)
  · intro ctx va hwait
    have fault := absentSpanFault_of_waiting hwait
    exact ⟨fun hl => whileOn_next hon (fault.trans (if_neg (by simpa using hl))),
      fun hl => whileOn_next hon (fault.trans (if_pos (by simpa using hl)))⟩
  · intro ctx va p data hl hp hs hop
    have hidle : (spanLoaded ctx va p data (loadEnded ctx va s)).xlt.spanOp = none := (spanLoaded_spanOp p).trans hop
    exact whileOn_answered hon ((absentLoadDone_of_good hl hp hs).trans (congrArg (Prod.mk _) (heldWritePerformed_of_idle hidle)))
  · intro ctx va data hl hop
    exact whileOn_answered hon ((absentLoadDone_of_failed hl).trans
      (congrArg (Prod.mk _) (heldWritePerformed_of_idle ((congrArg Xlt.spanOp (failWaiters_xlt _ _ _)).trans hop))))
  · intro c u hnew
    have bias := setBias_of_new hnew
    refine ⟨fun hbad => ?_, fun hbad hfull => ?_, fun hbad hroom => ?_⟩
    · exact whileOn_next hon (bias.trans (if_pos hbad))
    · exact whileOn_next hon (bias.trans ((if_neg (Bool.eq_false_iff.mp hbad)).trans (if_pos hfull)))
    · exact whileOn_next hon (bias.trans ((if_neg (Bool.eq_false_iff.mp hbad)).trans (if_neg (Nat.not_lt.mpr hroom))))
  · intro c b hb hbegun hbusy hroom lines u r
    exact whileOn_answered hon (setBiasDone_of_drained hb hbegun hbusy hroom)

/-! ### ATS (R319 to R322) -/

section
variable {s : State} {pasid page size target tag addr : Nat} {write all : Bool}

/-- R319: an access waits for the translation of a page. -/
def awaits (pasid page : Nat) (x : Waiting) : Bool :=
  match x.need with
  | .ats p pg _ => p == pasid && pg == page
  | _ => false

/-- R319: a translation that may be read, and written if `write`, grants what an access needs. -/
def grantedBy (write : Bool) (x : Waiting) : Bool :=
  match x.need with
  | .ats _ _ wr => if wr then write else true
  | _ => false

/-- R322: an access that waits for the translation of a page meets a host fault. -/
def refusedPage (pasid page : Nat) (x : Waiting) : Waiting :=
  match x.need with
  | .ats p pg wr => if p == pasid && pg == page then { x with need := .hostFault pasid page wr } else x
  | _ => x

theorem awaits_of_ats {x : Waiting} {wr : Bool} (h : x.need = .ats pasid page wr) : awaits pasid page x = true := by
  simp [awaits, h]

/-- R319, R322: a readable translation is cached, the accesses that it grants go on, and the others meet a host fault. -/
theorem atsCompletion_of_readable (h : ∃ x ∈ s.io.waits, ∃ wr, x.need = .ats pasid page wr) :
    atsCompletion pasid page size target true write s =
      let n := max 4096 size
      let filled := atcFill { pasid := pasid, page := page * 4096 / n * n, size := n, target := target, read := true, write := write } s
      let r := takeWaits (fun x => awaits pasid page x && grantedBy write x) filled
      (worksOf r.1, r.2.setIo { r.2.io with waits := r.2.io.waits.map (refusedPage pasid page) }) := by
  obtain ⟨x, hx, wr, hneed⟩ := h
  have hany : s.io.waits.any (awaits pasid page) = true := List.any_eq_true.mpr ⟨x, hx, awaits_of_ats hneed⟩
  exact if_neg (show ¬(!s.io.waits.any (awaits pasid page)) = true by rw [hany]; decide)

/-- R320 step 1: an invalidation removes exactly the entries of its range, of its PASID unless it is global. -/
theorem mem_atc_atsInvalidate {e : AtcEnt} : e ∈ (atsInvalidate tag pasid addr size all s).xlt.atc ↔
    e ∈ s.xlt.atc ∧ ((all || e.pasid == pasid) && overlaps addr size e.page e.size) = false := by
  simp only [atsInvalidate, State.setXlt_xlt, List.mem_filter, Bool.not_eq_true']

/-- R320: a read that an invalidation waits for, or a write in its range, is still on its way. -/
def AtsInv.pendingIn (v : AtsInv) (s : State) : Prop :=
  (∃ r ∈ s.hl.reads, r.tag ∈ v.reads) ∨
    ∃ w ∈ s.hl.queued, (v.all || w.pasid == v.pasid) = true ∧ overlaps v.addr v.size w.addr w.data.length = true

section
variable {v : AtsInv}

theorem AtsInv.pendingIn_iff : v.pendingIn s ↔
    ((s.hl.reads.any fun r => v.reads.contains r.tag) ||
      (s.hl.queued.any fun w => (v.all || w.pasid == v.pasid) && overlaps v.addr v.size w.addr w.data.length)) = true := by
  simp [pendingIn]

variable (hv : (s.xlt.invs.find? fun v => v.tag == tag) = some v)
include hv

theorem atsInvalidateComplete_of_pending (h : v.pendingIn s) : atsInvalidateComplete tag s = s := by
  simp only [atsInvalidateComplete, hv, AtsInv.pendingIn_iff.mp h, if_true]

/-- R320 steps 2 to 4: with its reads ended and its writes sent, an invalidation is answered. -/
theorem atsInvalidateComplete_of_drained (h : ¬v.pendingIn s) :
    atsInvalidateComplete tag s = count Reg.XLT_CNT_ATS_INV (s.setXlt { s.xlt with
      invs := s.xlt.invs.filter fun v => v.tag != tag
      sent := s.xlt.sent ++ [.invalidateDone tag] }) := by
  simp only [atsInvalidateComplete, hv]
  exact if_neg (mt AtsInv.pendingIn_iff.mpr h)

end

end

/-! ### The fault gatherer (R323 to R327) -/

/-- A failure's record neither reads nor changes the registers. -/
theorem failWaiters_setRegs (f : Flt) (l : List Waiting) (s : State) (r : Sparse W64) :
    failWaiters f l (s.setRegs r) = (failWaiters f l s).setRegs r :=
  List.foldl_hom (fun u : State => u.setRegs r) fun u x => by
    obtain ⟨work, need, tag⟩ := x
    cases work <;> rfl

theorem failWaiters_regs (f : Flt) (l : List Waiting) (s : State) : (failWaiters f l s).regs = s.regs :=
  (congrArg State.regs (failWaiters_setRegs f l s s.regs) :)

/-- Counting and failing waiters commute. -/
theorem failWaiters_countN (off n : Nat) (f : Flt) (l : List Waiting) (s : State) :
    failWaiters f l (countN off n s) = countN off n (failWaiters f l s) := by
  rw [countN_frame off n s, failWaiters_setRegs, countN_frame off n (failWaiters f l s)]
  simp only [countN, apply_ite State.regs, regPut, regGet, failWaiters_regs, State.setRegs]

section
variable {s : State} {pasid page index : Nat} {write : Bool}

/-- R321, R325, R326: the waiters of a host fault that fail at once, and the state without them. -/
abbrev failedAtOnce (pasid page : Nat) (write : Bool) (s : State) : List Waiting × State :=
  let u := countFaults 0 (s.io.waits.filter fun x => x.need == .hostFault pasid page write) s
  takeWaits (fun x => x.need == .hostFault pasid page write && failsAtOnce u x.work page) u

/-- The state in which their failure is recorded. -/
abbrev pastFailures (pasid page : Nat) (write : Bool) (s : State) : State :=
  let r := failedAtOnce pasid page write s
  failWaiters (hostFailure r.2 pasid page) r.1 r.2

/-- The waiters of a host fault that do not fail at once. -/
abbrev faultsLeft (pasid page : Nat) (write : Bool) (s : State) : Nat :=
  ((pastFailures pasid page write s).io.waits.filter fun x => x.need == .hostFault pasid page write).length

theorem hostFault_of_none_left (h : faultsLeft pasid page write s = 0) :
    hostFault pasid page write s = (worksOf (failedAtOnce pasid page write s).1, pastFailures pasid page write s) := if_pos h

/-- R323: a fault joins a request of its own kind. -/
theorem hostFault_of_joinable {q : PageReq} (h : faultsLeft pasid page write s ≠ 0)
    (hq : joinable (pastFailures pasid page write s) pasid page write = some q) (hw : q.write = write) :
    hostFault pasid page write s =
      (worksOf (failedAtOnce pasid page write s).1, changeNeed (.hostFault pasid page write) (.pri pasid page write)
        (countN Reg.XLT_CNT_COALESCED (faultsLeft pasid page write s) (pastFailures pasid page write s))) := by
  refine (if_neg h).trans ?_
  split
  case h_1 r hr =>
    obtain rfl := Option.some.inj (hr.symm.trans hq)
    exact congrArg (Prod.mk _) (if_pos (beq_iff_eq.mpr hw))
  case h_2 hr => cases hr.symm.trans hq

section
variable (h : faultsLeft pasid page write s ≠ 0) (hq : joinable (pastFailures pasid page write s) pasid page write = none)
include h hq

/-- R327: a fault that finds the gatherer full waits on. -/
theorem hostFault_of_full (hf : gathererFull (pastFailures pasid page write s) pasid (faultsLeft pasid page write s) = true) :
    hostFault pasid page write s = (worksOf (failedAtOnce pasid page write s).1, pastFailures pasid page write s) := by
  refine (if_neg h).trans ?_
  split
  case h_1 hr => cases hr.symm.trans hq
  case h_2 => exact if_pos hf

/-- R324: a fault that joins no request opens one while the gatherer has space. -/
theorem hostFault_of_new (hf : gathererFull (pastFailures pasid page write s) pasid (faultsLeft pasid page write s) = false) :
    hostFault pasid page write s =
      (worksOf (failedAtOnce pasid page write s).1, openRequest pasid page write
        (changeNeed (.hostFault pasid page write) (.pri pasid page write)
          (countN Reg.XLT_CNT_COALESCED (faultsLeft pasid page write s - 1) (pastFailures pasid page write s)))) := by
  refine (if_neg h).trans ?_
  split
  case h_1 hr => cases hr.symm.trans hq
  case h_2 => exact if_neg (Bool.eq_false_iff.mp hf)

end

theorem priGroupWindow_of_open {g : PageGroup} (hg : (s.xlt.groups.find? fun g => g.pasid == pasid && g.index.isNone) = some g) :
    priGroupWindow pasid s = closeGroup g.id false s := by simp only [priGroupWindow, hg]

/-- R324, R325: the end of a group whose answer is traced. -/
abbrev groupAnswered (g : PageGroup) (index code : Nat) (s : State) : List Waiting × State :=
  endGroup g (emit 0x0A 131 0 index g.pasid ((groupReqs s g.id).length + b2n g.full * 2 ^ 8 + code % 256 * 2 ^ 16) s)

/-- R325, R326: a saved engine does not go on with its group. -/
def Waiting.goesOn (x : Waiting) : Bool :=
  match x.work with
  | .saved _ => false
  | _ => true

section
variable {g : PageGroup} (hg : (s.xlt.groups.find? fun g => g.index == some index) = some g)
include hg

theorem prgResponse_of_success :
    prgResponse index 0 s =
      let r := groupAnswered g index 0 s
      (worksOf (r.1.filter Waiting.goesOn), (r.1.filter Waiting.goesOn).foldl (fun v x => addRound x.work x.need.page v) r.2) := by
  simp only [prgResponse, hg]
  rfl

theorem prgResponse_of_invalid :
    prgResponse index 1 s =
      let r := groupAnswered g index 1 s
      (worksOf r.1, countN Reg.XLT_CNT_PRI_FAIL (groupReqs s g.id).length (failWaiters .xlate r.1 r.2)) := by
  simp only [prgResponse, hg, ← failWaiters_countN]
  rfl

theorem priTimeout_of_outstanding :
    priTimeout index s =
      (worksOf (endGroup g s).1, failWaiters .xlate (endGroup g s).1 (count Reg.XLT_CNT_PRI_TIMEOUT (endGroup g s).2)) := by
  simp only [priTimeout, hg]

end

section
variable (hg : (s.xlt.groups.find? fun g => g.index == some index) = none)
include hg

theorem prgResponse_of_unknown (code : Nat) : prgResponse index code s = ([], s) := by simp only [prgResponse, hg]
theorem priTimeout_of_unknown : priTimeout index s = ([], s) := by simp only [priTimeout, hg]

end

end

/-- Settles O23: completions and invalidations first, then a host fault by what is left once some waiters have failed at once
(`hostFault_of_joinable`, `hostFault_of_new`), and the end of a group by its answer. The count of failed pages is taken before
the waiters fail, which is the same (`failWaiters_countN`). -/
theorem atsAndPageRequests : Obligations.AtsAndPageRequests := by
  refine ⟨fun s hon => ⟨?_, ?_, ?_⟩, fun s hon => ⟨?_, ?_, ?_, ?_⟩⟩
  · exact fun pasid page size target write hwait => whileOn_answered hon (atsCompletion_of_readable hwait)
  · exact fun tag pasid addr size all => ⟨_, whileOn_next hon rfl, fun e => mem_atc_atsInvalidate, rfl, rfl⟩
  · exact fun tag v hv => ⟨fun h => whileOn_next hon (atsInvalidateComplete_of_pending hv h),
      fun h => whileOn_next hon (atsInvalidateComplete_of_drained hv h)⟩
  · intro pasid page write
    refine ⟨fun h => ?_, fun q h hq hw => ?_, fun h hq hf => ?_, fun h hq hf => ?_⟩
    · exact whileOn_answered hon (hostFault_of_none_left h)
    · exact whileOn_answered hon (hostFault_of_joinable h hq hw)
    · exact whileOn_answered hon (hostFault_of_new h hq hf)
    · exact whileOn_answered hon (hostFault_of_full h hq hf)
  · exact fun pasid g hg => whileOn_next hon (priGroupWindow_of_open hg)
  · intro index g hg
    exact ⟨whileOn_answered hon (prgResponse_of_success hg), whileOn_answered hon (prgResponse_of_invalid hg),
      whileOn_answered hon (priTimeout_of_outstanding hg)⟩
  · intro index hg code
    exact ⟨whileOn_answered hon (prgResponse_of_unknown hg code), whileOn_answered hon (priTimeout_of_unknown hg)⟩

end Sys2Proof.Machine
end

-- The settling of the DMA family: a held descriptor's transfer, round by round, to its end.
section

namespace Sys2Proof.Machine

/-! ### The engines that run a descriptor (R351, R352) -/

theorem bulkComplete_of_held {n : Nat} {s : State} (h : (bulkOf s n).held.isSome = true) :
    bulkComplete n s = dmaMove (.bulk n) (2 ^ 28 + 2) s := (if_pos h : bulkComplete n s = dmaRun (.bulk n) s)

theorem groveComplete_of_on {k : Nat} {s : State} (he : engineOn s k = true) (hd : (gdmaOf s k).disabled = false) :
    groveComplete k s = dmaMove (.grove k) (2 ^ 28 + 2) s :=
  (if_pos (by simp [he, hd]) : groveComplete k s = dmaRun (.grove k) s)

/-! ### One round of a transfer (R343, R348, R364) -/

theorem not_out_or_moved {d : Desc} (hout : d.out = none) (hmoved : d.moved = false) : ¬(d.out.isSome || d.moved) = true := by
  simp [hout, hmoved]

section
variable {e : DmaEng} {fuel : Nat} {d : Desc} {s u : State} (hdesc : e.desc s = some d)
include hdesc

/-- R343, R348: a descriptor whose status is decided, or that moved whole, moves no further byte. -/
theorem dmaMove_of_decided (h : d.out.isSome = true ∨ d.moved = true) : dmaMove e (fuel + 1) s = dmaEnd e d s := by
  simp only [dmaMove, hdesc]
  exact if_pos (Bool.or_eq_true_iff.mpr h)

section
variable (hout : d.out = none) (hmoved : d.moved = false)
include hout hmoved

section
variable (hleft : d.bytesDone < d.length)
include hleft

/-- R343: with bytes left, a round is one request, and the transfer goes on after it. -/
theorem dmaMove_of_bytes_left : dmaMove e (fuel + 1) s =
    runAcc e.work (dmaChunk e (e.ctx s) d) (fun r v => dmaMove e fuel (DmaEng.put r.1 (DmaEng.countBytes r.2 v e) e))
      (fun f v => dmaEnd e { d with out := some (stDescBad, f.code) } (DmaEng.put { d with out := some (stDescBad, f.code) } v e)) s := by
  simp only [dmaMove, hdesc]
  exact (if_neg (not_out_or_moved hout hmoved)).trans (if_neg (Nat.not_le.mpr hleft))

theorem dmaMove_of_request {r : Desc × Nat} (h : dmaChunk e (e.ctx s) d s = .ok (r, u)) :
    dmaMove e (fuel + 1) s = dmaMove e fuel (DmaEng.put r.1 (DmaEng.countBytes r.2 (clearWork e.work u) e) e) :=
  (dmaMove_of_bytes_left hdesc hout hmoved hleft).trans (runAcc_of_ok h)

/-- R348: a request that fails decides the status and ends the descriptor. -/
theorem dmaMove_of_failed_request {f : Flt} (h : dmaChunk e (e.ctx s) d s = .error (.fail f u)) :
    dmaMove e (fuel + 1) s = dmaEnd e { d with out := some (stDescBad, f.code) }
      (DmaEng.put { d with out := some (stDescBad, f.code) } (clearWork e.work u) e) :=
  (dmaMove_of_bytes_left hdesc hout hmoved hleft).trans (runAcc_of_fail h)

end

/-- R343, R364: after the last byte the CRC that follows the data is stored, and the descriptor has moved whole. -/
theorem dmaMove_of_all_bytes (hall : d.length ≤ d.bytesDone) (h : dmaCrcStore e (e.ctx s) d s = .ok ((), u)) :
    dmaMove e (fuel + 1) s = dmaEnd e { d with moved := true }
      (DmaEng.put { d with moved := true } (DmaEng.countBytes d.storeBytes (clearWork e.work u) e) e) := by
  simp only [dmaMove, hdesc]
  exact ((if_neg (not_out_or_moved hout hmoved)).trans (if_pos hall)).trans (runAcc_of_ok h)

end

end

/-- R351, R352: a descriptor whose operations or ring bytes are still on their way does not end yet. -/
theorem dmaEnd_of_pending {e : DmaEng} {d : Desc} {s : State} (h : dmaPending s e (e.ctx s) d = true) : dmaEnd e d s = s := if_pos h

/-- Settles O26: the two commands are the held descriptor's rounds, and a round is the end of a decided descriptor
(`dmaMove_of_decided`), a request (`dmaMove_of_bytes_left`) or the store of the CRC (`dmaMove_of_all_bytes`). -/
theorem dmaTransfers : Obligations.DmaTransfers := by
  refine fun s hon => ⟨fun n hheld => ?_, fun k he hd => ?_, fun e fuel d hdesc => ⟨?_, ?_, ?_, ?_, ?_⟩⟩
  · exact whileOn_next hon (bulkComplete_of_held hheld)
  · exact whileOn_next hon (groveComplete_of_on he hd)
  · exact dmaMove_of_decided hdesc
  · exact fun hout hmoved hleft r u h => dmaMove_of_request hdesc hout hmoved hleft h
  · exact fun hout hmoved hleft f u h => dmaMove_of_failed_request hdesc hout hmoved hleft h
  · exact fun hout hmoved hall u h => dmaMove_of_all_bytes hdesc hout hmoved hall h
  · exact dmaEnd_of_pending

end Sys2Proof.Machine
end

-- The settling of the part's own family: the queue of commands, and slot patches of graphs.
section

namespace Sys2Proof.Machine

/-! ### The queue (R378) -/

/-- Settles O56: `step` by the queue's two forms. -/
theorem commandsRunInOrder : Obligations.CommandsRunInOrder :=
  ⟨fun s c rest h => by simp only [step, h], fun s h => by simp only [step, h]⟩

/-! ### Slot patches (R403, R404) -/

/-- R403: entry `i` of a SLOT patch: the slot it names and the value for it. -/
def patchEntry (c : Cmd) (i : Nat) : Nat × Nat := (bits (leAt c.data (16 * i) 8) 9 0, leAt c.data (16 * i + 8) 8)

/-- R403: one entry of a SLOT patch. -/
def withEntry (l : List (Nat × Nat × Nat)) (e : Nat × Nat) : List (Nat × Nat × Nat) :=
  match l[e.1]? with
  | some x => l.set e.1 (x.1, x.2.1, e.2)
  | none => l

/-- R403: the slots after the first `count` entries of a patch. -/
def withEntries (c : Cmd) (l : List (Nat × Nat × Nat)) (count : Nat) : List (Nat × Nat × Nat) :=
  ((List.range count).map (patchEntry c)).foldl withEntry l

section
variable {c : Cmd} {l : List (Nat × Nat × Nat)} {count n : Nat}

theorem length_withEntry (l : List (Nat × Nat × Nat)) (e : Nat × Nat) : (withEntry l e).length = l.length := by
  unfold withEntry
  split
  · exact List.length_set
  · rfl

theorem withEntry_getElem?_ne {e : Nat × Nat} (h : e.1 ≠ n) : (withEntry l e)[n]? = l[n]? := by
  unfold withEntry
  split
  · exact List.getElem?_set_ne h
  · rfl

theorem withEntry_getElem?_same {e : Nat × Nat} {a b v : Nat} (hn : l[e.1]? = some (a, b, v)) : (withEntry l e)[e.1]? = some (a, b, e.2) := by
  simp only [withEntry, hn]
  exact List.getElem?_set_self (List.getElem?_eq_some_iff.mp hn).1

theorem withEntries_succ (k : Nat) : withEntries c l (k + 1) = withEntry (withEntries c l k) (patchEntry c k) := by
  simp [withEntries, List.range_succ]

theorem length_withEntries (k : Nat) : (withEntries c l k).length = l.length := by
  induction k with
  | zero => rfl
  | succ k ih => rw [withEntries_succ, length_withEntry, ih]

/-- R404: a slot that no entry names keeps its value. -/
theorem withEntries_getElem?_unnamed (k : Nat) (h : ∀ i, i < k → (patchEntry c i).1 ≠ n) : (withEntries c l k)[n]? = l[n]? := by
  induction k with
  | zero => rfl
  | succ k ih =>
    rw [withEntries_succ, withEntry_getElem?_ne (h k (Nat.lt_succ_self k))]
    exact ih fun i hi => h i (Nat.lt_succ_of_lt hi)

/-- R398: a patch keeps each slot's node and parameter. -/
theorem withEntries_getElem?_place {a b v : Nat} (hn : l[n]? = some (a, b, v)) (k : Nat) : ∃ w, (withEntries c l k)[n]? = some (a, b, w) := by
  induction k with
  | zero => exact ⟨v, hn⟩
  | succ k ih =>
    obtain ⟨w, hw⟩ := ih
    rw [withEntries_succ]
    by_cases he : (patchEntry c k).1 = n
    · subst he
      exact ⟨_, withEntry_getElem?_same hw⟩
    · exact ⟨w, (withEntry_getElem?_ne he).trans hw⟩

/-- R404: of several entries for one slot the last one stays. -/
theorem withEntries_getElem?_named {a b v i : Nat} (hn : l[n]? = some (a, b, v)) (hi : (patchEntry c i).1 = n) (k : Nat) (hk : i < k)
    (hlast : ∀ j, i < j → j < k → (patchEntry c j).1 ≠ n) : (withEntries c l k)[n]? = some (a, b, (patchEntry c i).2) := by
  induction k with
  | zero => omega
  | succ k ih =>
    rw [withEntries_succ]
    rcases Nat.lt_succ_iff_lt_or_eq.mp hk with hlt | rfl
    · rw [withEntry_getElem?_ne (hlast k hlt (Nat.lt_succ_self k))]
      exact ih hlt fun j hj hjk => hlast j hj (Nat.lt_succ_of_lt hjk)
    · subst hi
      obtain ⟨w, hw⟩ := withEntries_getElem?_place (c := c) hn i
      exact withEntry_getElem?_same hw

theorem patchSlots_eq (g : Graph) (s : State) : patchSlots c g count s =
    if count = 0 || 256 < count || c.data.length < 16 * count ||
        ((List.range count).map (patchEntry c)).any (fun e => decide (g.slots.length ≤ e.1)) then badPacket c 0 s
    else completeOk c g.cur (putGraph c.ctx { g with slots := withEntries c g.slots count } s) := rfl

variable {g : Graph} {s : State}

/-- R404: an entry that names no slot refuses the whole patch. -/
theorem patchSlots_of_unnamed (h : ∃ i, i < count ∧ g.slots.length ≤ (patchEntry c i).1) : patchSlots c g count s = badPacket c 0 s := by
  rw [patchSlots_eq]
  exact if_pos (by simp [h])

variable (h1 : 1 ≤ count) (h256 : count ≤ 256) (hlen : 16 * count ≤ c.data.length)
include h1 h256 hlen

theorem patchSlots_of_named (h : ∀ i, i < count → (patchEntry c i).1 < g.slots.length) :
    patchSlots c g count s = completeOk c g.cur (putGraph c.ctx { g with slots := withEntries c g.slots count } s) := by
  rw [patchSlots_eq]
  exact if_neg (by simpa [Nat.not_lt.mpr h256, Nat.not_lt.mpr hlen, Nat.one_le_iff_ne_zero.mp h1] using h)

end

/-- Settles O32: the entries applied in order, by induction on their number (`withEntries_getElem?_named`,
`withEntries_getElem?_unnamed`). -/
theorem graphSlotPatch : Obligations.GraphSlotPatch := by
  intro s c g count entry value h1 h256 hlen
  refine ⟨patchSlots_of_unnamed, fun h => ⟨withEntries c g.slots count, patchSlots_of_named h1 h256 hlen h,
    length_withEntries count, fun n a b v hn => ⟨fun hu => ?_, fun i hi he hlast => ?_⟩⟩⟩
  · exact (withEntries_getElem?_unnamed count hu).trans hn
  · exact withEntries_getElem?_named hn he count hi hlast

end Sys2Proof.Machine
end

-- The settling of the commands' family: how a command starts and ends, FENCE and WAIT_VALUE.
section

namespace Sys2Proof.Machine

/-! ### What counting and tracing leave (R515, R524) -/

/-- A state that counting and tracing alone have changed. -/
def Traced (s u : State) : Prop := u = { s with regs := u.regs, obs := u.obs }

theorem Traced.refl (s : State) : Traced s s := rfl

theorem Traced.trans {s u v : State} (h : Traced s u) (hv : Traced u v) : Traced s v := by
  rw [Traced] at h hv ⊢
  rw [hv, h]

theorem Traced.countN (off n : Nat) (s : State) : Traced s (countN off n s) := by
  rw [countN_frame]
  rfl

theorem Traced.count (off : Nat) (s : State) : Traced s (count off s) := Traced.countN off 1 s

theorem Traced.setTrace (t : Trace) (s : State) : Traced s (s.setTrace t) := rfl

theorem foldl_setRegs {α : Type} {f : State → α → State} (hf : ∀ u x, f u x = u.setRegs (f u x).regs) :
    ∀ (l : List α) (s : State), l.foldl f s = s.setRegs (l.foldl f s).regs
  | [], _ => rfl
  | x :: xs, s => by
    rw [List.foldl_cons, foldl_setRegs hf xs (f s x), hf s x]
    rfl

theorem evt_frame (u code key n : Nat) (ctx : Option Nat) (s : State) : evt u code key n ctx s = s.setRegs (evt u code key n ctx s).regs := by
  unfold evt
  split
  · rfl
  · refine foldl_setRegs (fun u i => ?_) _ s
    split
    · exact countN_frame _ _ u
    · rfl

theorem Traced.evt (u code key n : Nat) (ctx : Option Nat) (s : State) : Traced s (evt u code key n ctx s) := by
  rw [evt_frame]
  rfl

theorem Traced.tracePush (limit : Nat) (r : TraceRec) (s : State) : Traced s (tracePush limit r s) := by
  unfold Machine.tracePush
  dsimp only
  split
  · exact Traced.setTrace _ s
  · exact (Traced.setTrace _ s).trans (Traced.count _ _)

theorem Traced.traceFire (kind b : Nat) (s : State) : Traced s (traceFire kind b s) := by
  unfold Machine.traceFire
  dsimp only
  split
  · exact Traced.refl s
  · exact (Traced.setTrace _ s).trans (Traced.tracePush _ _ _)

theorem Traced.tracePost (r : TraceRec) (s : State) : Traced s (tracePost r s) := by
  have pushed (n : Nat) : Traced s (if (Machine.tracePush 4096 r s).obs.trace.loss.isSome then Machine.tracePush 4096 r s
      else (Machine.tracePush 4096 r s).setTrace { (Machine.tracePush 4096 r s).obs.trace with accepted := n }) := by
    split
    · exact Traced.tracePush _ _ s
    · exact (Traced.tracePush _ _ s).trans (Traced.setTrace _ _)
  unfold Machine.tracePost
  dsimp only
  split
  · exact Traced.refl s
  · split
    · exact pushed _
    · split
      · exact (Traced.setTrace _ s).trans (Traced.count _ _)
      · exact pushed _

theorem Traced.emit (typ unit ctx a b c : Nat) (s : State) : Traced s (emit typ unit ctx a b c s) := by
  unfold Machine.emit
  dsimp only
  split
  · exact Traced.refl s
  · split
    · exact Traced.refl s
    · split
      · exact Traced.refl s
      · split
        · exact Traced.tracePost _ s
        · split
          · exact (Traced.tracePush _ _ s).trans (Traced.traceFire _ _ _)
          · exact Traced.tracePush _ _ s

/-! ### A command's start and end (R378, R387, R391) -/

section
variable {c : Cmd} {s : State}

theorem startCmd_of_started (h : isStarted s c = true) : startCmd c s = s := if_pos h

/-- R378: a command that starts is listed with its time; its start is traced, and its context has made progress. -/
theorem startCmd_of_new (h : isStarted s c = false) :
    ∃ v, startCmd c s = progress c.ctx v ∧ Traced (s.setCrn { s.crn with started := s.crn.started ++ [⟨c, s.now⟩] }) v :=
  ⟨_, if_neg (Bool.eq_false_iff.mp h), (Traced.count _ _).trans ((Traced.evt ..).trans (Traced.emit ..))⟩

/-- What starting a command leaves: everything but registers, the trace, the list of started commands and the contexts' progress. -/
theorem startCmd_frame (c : Cmd) (s : State) : startCmd c s =
    { s with
      regs := (startCmd c s).regs, obs := (startCmd c s).obs
      crn := { s.crn with started := (startCmd c s).crn.started }
      sched := { s.sched with ctxs := (startCmd c s).sched.ctxs } } := by
  by_cases h : isStarted s c = true
  · rw [startCmd_of_started h]
  · obtain ⟨v, hv, ht⟩ := startCmd_of_new (Bool.eq_false_iff.mpr h)
    rw [hv, ht]
    rfl

theorem startCmd_started (h : isStarted s c = false) : (startCmd c s).crn.started = s.crn.started ++ [⟨c, s.now⟩] := by
  obtain ⟨v, hv, ht⟩ := startCmd_of_new h
  rw [hv, ht]
  rfl

theorem isStarted_startCmd (c : Cmd) (s : State) : isStarted (startCmd c s) c = true := by
  by_cases h : isStarted s c = true
  · rwa [startCmd_of_started h]
  · simp [isStarted, startCmd_started (Bool.eq_false_iff.mpr h)]

variable {status fault result : Nat}

/-- R391: a command that is not in progress has ended already. -/
theorem complete_of_not_started (h : isStarted s c = false) : complete c status fault result s = s := if_pos (by simp [h])

section
variable (h : isStarted s c = true) (hf : ∀ f ∈ s.crn.finishing, f.cmd ≠ c)
include h hf

theorem complete_of_running : complete c status fault result s = runFinish endAny ⟨c, status, fault, result, false⟩ s :=
  if_neg (by simpa [h] using hf)

theorem complete_of_unchained (hc : chainFires c.chainCond status = false) :
    complete c status fault result s = endAny ⟨c, status, fault, result, false⟩ false s :=
  (complete_of_running h hf).trans (if_neg (by simp [hc]))

/-- R391, R353: the chain fires before the command ends. -/
theorem complete_of_chained (hc : chainFires c.chainCond status = true) {r : Bool × Bool} {v : State}
    (hr : chainAcc (.finish c) c.ctx c.chain (s.setCrn { s.crn with
      finishing := (s.crn.finishing.filter fun x => x.cmd != c) ++ [⟨c, status, fault, result, false⟩] }) = .ok (r, v)) :
    complete c status fault result s = endAny ⟨c, status, fault, result, false⟩ r.2 (countChain r (clearWork (.finish c) v)) :=
  (complete_of_running h hf).trans ((if_pos hc).trans (runAcc_of_ok hr))

end

section
variable {f : Fin} {refused : Bool}

theorem endAny_of_ring {q : Nat} (h : f.cmd.src = .ring q) (hq : f.cmd.quiet = false) :
    endAny f refused s =
      pushRecord { record := recordOf s f refused, irq := f.cmd.irq || decide (0x10 ≤ f.status) } (leaveStarted f s) := by
  simp [endAny, endTop, h, hq]

/-- R381: the record of a manager packet goes back to the manager. -/
theorem endAny_of_mgr {d : Nat} (h : f.cmd.src = .mgr d) (hq : f.cmd.quiet = false) :
    endAny f refused s = send d (.cmdCpl (recordOf s f refused)) (leaveStarted f s) := by
  simp [endAny, endTop, h, hq]

/-- R387: a quiet command that succeeds writes no record. -/
theorem endAny_of_quiet {q : Nat} (h : f.cmd.src = .ring q) (hq : f.cmd.quiet = true) (hi : f.cmd.irq = false) (hs : f.status = stOk) :
    endAny f refused s = leaveStarted f s := by
  simp [endAny, endTop, h, hq, hi, hs]

end

/-! ### FENCE, WRITE_INLINE and WAIT_VALUE (R384 to R386) -/

theorem fence_of_bad (h : 1 < par c 0) : fence c s = badPacket c 0 (startCmd c s) := if_pos h

section
variable (h : par c 0 ≤ 1)
include h

theorem fence_of_free (hw : fenceWaits (startCmd c s) c = []) : fence c s = completeOk c 0 (startCmd c s) :=
  (if_neg (Nat.not_lt.mpr h)).trans (if_pos (by simp [hw]))

theorem fence_of_held (hw : fenceWaits (startCmd c s) c ≠ []) : fence c s = startCmd c s :=
  (if_neg (Nat.not_lt.mpr h)).trans (if_neg (by simpa using hw))

end

theorem writeInline_of_bad (h : par c 1 = 0 ∨ 4096 < par c 1 ∨ c.data.length < par c 1) :
    writeInline c s = badPacket c 0 (startCmd c s) := if_pos (by simpa [or_assoc] using h)

theorem writeInline_of_good (h1 : 1 ≤ par c 1) (h2 : par c 1 ≤ 4096) (h3 : par c 1 ≤ c.data.length) :
    writeInline c s = runAcc (.cmd c) (ctxWrite (.cmd c) c.ctx (par c 0) (c.data.take (par c 1))) (fun _ s => completeOk c 0 s) (faultCmd c)
      (startCmd c s) :=
  if_neg (by simp [Nat.one_le_iff_ne_zero.mp h1, h2, h3])

theorem waitValue_of_bad (h : bit (par c 0) 56 = false ∨ par c 0 % 8 ≠ 0 ∨ 5 < bits (par c 3) 2 0 ∨ bits (par c 3) 31 3 ≠ 0) :
    waitValue c s = badPacket c 0 (startCmd c s) := if_pos (by simpa [or_assoc] using h)

theorem waitValue_of_good (h1 : bit (par c 0) 56 = true) (h2 : par c 0 % 8 = 0) (h3 : bits (par c 3) 2 0 ≤ 5)
    (h4 : bits (par c 3) 31 3 = 0) : waitValue c s = waitRead c (startCmd c s) :=
  if_neg (by simp [h1, h2, h3, h4])

/-- R386: the condition of a WAIT_VALUE on the word that it reads. -/
abbrev waitMet (c : Cmd) (w : Nat) : Bool := waitHolds (bits (par c 3) 2 0) w (par c 1) (par c 2)

section
variable {u : State} {w : Nat} (h : ctxReadNat (.cmd c) c.ctx (par c 0) 8 s = .ok (w, u))
include h

theorem waitRead_of_met (hw : waitMet c w = true) : waitRead c s = completeOk c w (clearWork (.cmd c) u) :=
  (runAcc_of_ok h).trans (if_pos hw)

theorem waitRead_of_unmet (hw : waitMet c w = false) : waitRead c s = clearWork (.cmd c) u :=
  (runAcc_of_ok h).trans (if_neg (Bool.eq_false_iff.mp hw))

end

theorem waitValuePoll_of_pending (h : isStarted s c = true) (ho : c.opcode = 3) : waitValuePoll c s = waitRead c s :=
  if_pos (by simp [h, ho])

section
variable {x : Started} (h : (s.crn.started.find? fun x => x.cmd == c) = some x)
include h

theorem waitValueTimeout_of_limit (ho : c.opcode = 3) (hl : bits (par c 3) 63 32 ≠ 0) :
    waitValueTimeout c s =
      faultCmd c .watchdog (clearWork (.cmd c) (reachTime ((x.time + bits (par c 3) 63 32 * 256000) % 2 ^ 64) s)) := by
  simp [waitValueTimeout, h, ho, hl, usUnits]

theorem waitValueTimeout_of_unlimited (hl : bits (par c 3) 63 32 = 0) : waitValueTimeout c s = s := by
  simp [waitValueTimeout, h, hl]

end
end

/-- The signed reading of a word's number is its integer. -/
theorem sext_toNat (a : W64) : sext a.toNat 64 = a.toInt := by
  have := a.isLt
  rw [sext, BitVec.toInt_eq_toNat_cond, Nat.mod_eq_of_lt this]
  split <;> split <;> omega

/-- R386: the six conditions, on words. -/
theorem waitHolds_iff (w v m : W64) :
    let a := w &&& m
    let b := v &&& m
    let holds := fun (cond : Nat) => waitHolds cond w.toNat v.toNat m.toNat
    (holds 0 = true ↔ a = b) ∧ (holds 1 = true ↔ a ≠ b) ∧ (holds 2 = true ↔ b.toNat ≤ a.toNat) ∧ (holds 3 = true ↔ a.toNat < b.toNat) ∧
    (holds 4 = true ↔ b.toInt ≤ a.toInt) ∧ (holds 5 = true ↔ a.toInt < b.toInt) := by
  simp [waitHolds, ← BitVec.toNat_and, sext_toNat, BitVec.toNat_inj]

/-- Settles O28: a command's end by its chain and its source, then each control command by its parameters. -/
theorem commandsStartWaitAndEnd : Obligations.CommandsStartWaitAndEnd := by
  refine ⟨fun s c status fault result => ⟨startCmd_of_started, startCmd_started, complete_of_not_started, fun h hf => ⟨fun hc => ?_,
    fun hc r v hr => complete_of_chained h hf hc hr⟩⟩, fun s c hon => ?_, waitHolds_iff⟩
  · have ends := complete_of_unchained (fault := fault) (result := result) h hf hc
    exact ⟨fun q hsrc hq => ends.trans (endAny_of_ring hsrc hq), fun d hsrc hq => ends.trans (endAny_of_mgr hsrc hq),
      fun q hsrc hq hi hst => ends.trans (endAny_of_quiet hsrc hq hi hst)⟩
  · refine ⟨whileOn_next hon rfl, fun h => whileOn_next hon (fence_of_bad h), fun h hw => whileOn_next hon (fence_of_free h hw),
      fun h hw => whileOn_next hon (fence_of_held h hw), fun h => whileOn_next hon (writeInline_of_bad h), fun h1 h2 h3 => ?_,
      fun h => whileOn_next hon (waitValue_of_bad h), fun h1 h2 h3 h4 w v hr => ?_, fun hs ho w v hr => ?_,
      fun x h ho hl => whileOn_next hon (waitValueTimeout_of_limit h ho hl),
      fun x h ho hl => whileOn_next hon (waitValueTimeout_of_unlimited h hl)⟩
    · have run := writeInline_of_good (s := s) h1 h2 h3
      exact ⟨fun v hv => whileOn_next hon (run.trans (runAcc_of_ok hv)), fun f v hv => whileOn_next hon (run.trans (runAcc_of_fail hv))⟩
    · have run := waitValue_of_good (s := s) h1 h2 h3 h4
      exact ⟨fun hw => whileOn_next hon (run.trans (waitRead_of_met hr hw)), fun hw => whileOn_next hon (run.trans (waitRead_of_unmet hr hw))⟩
    · have run := waitValuePoll_of_pending hs ho
      exact ⟨fun hw => whileOn_next hon (run.trans (waitRead_of_met hr hw)), fun hw => whileOn_next hon (run.trans (waitRead_of_unmet hr hw))⟩

end Sys2Proof.Machine
end

-- The settling of the commands' family: doorbells and fetches, launches and graphs.
section

namespace Sys2Proof.Machine

/-! ### Doorbells (R372, R407) -/

section
variable {s : State} {ctx q value : Nat}

theorem whileDoorbell_next {f : State → State} {t : State} (hserved : hostServed s 0x100000 = true) (h : f s = t) :
    whileDoorbell f s = .next t := whileServed_next hserved h

theorem bits_low (v n : Nat) : bits v n 0 = v % 2 ^ (n + 1) := rfl

section
variable (hr : isReady s = true)
include hr

theorem dbTail_of_none (h : ringOf s ctx q = none) : dbTail ctx q value s = count Reg.CRN_CNT_DB_IGNORED s := by
  simp [dbTail, hr, h]

theorem dbTail_of_ring {r : Ring} (h : ringOf s ctx q = some r) :
    dbTail ctx q value s = setRing ctx q { r with tail := bits value 19 0 % 2 ^ r.sizeLog } s := by
  simp [dbTail, hr, h, bits_low]

theorem dbCplHead_of_absent (h : ctxExists s ctx = false) : dbCplHead ctx value s = count Reg.CRN_CNT_DB_IGNORED s := by
  simp [dbCplHead, hr, h]

theorem dbCplHead_of_existing (h : ctxExists s ctx = true) :
    dbCplHead ctx value s = updCtx ctx (fun x => { x with cpl := { x.cpl with head := bits value 19 0 % 2 ^ x.cpl.sizeLog } }) s := by
  simp [dbCplHead, hr, h, bits_low]

end

theorem uclPop_of_entry (hv : bit value 0 = true) (hn : uclProd s ≠ uclCons s) :
    uclPop value s = regField Reg.CRN_UCL_CONS 15 0 ((uclCons s + 1) % 65536) s := if_pos (by simp [hv, hn])

theorem uclPop_of_nothing (h : bit value 0 = false ∨ uclProd s = uclCons s) : uclPop value s = s :=
  if_neg (by rcases h with h | h <;> simp [h])

/-! ### The fetch of a packet (R371, R376 to R380, R597) -/

/-- What Crown makes of a fetch. -/
def fetchDone (ctx q : Nat) (r : Ring) (s : State) : Fetched → State
  | .holds => s
  | .undelimited seq op n => discardUnits ctx q seq op n r s
  | .bad c head => badPacket c 0 (startCmd c (moveHead ctx q head s))
  | .indirect c head f => faultCmd c f (startCmd c (moveHead ctx q head s))
  | .start c head => startCmd c (moveHead ctx q head s)
  | .ringFault b f h => ringFetchFault ctx q b f h s

variable {r : Ring} (hring : ringOf s ctx q = some r)
include hring

/-- R378: a ring that is not open, or behind one of a higher class, is not served. -/
theorem packetFetch_of_closed (h : ringOpen s ctx q = false ∨ higherReady s q = true) : packetFetch ctx q s = s := by
  simp only [packetFetch, hring]
  exact if_pos (by simpa using h)

theorem packetFetch_of_read {out : Fetched} {u : State} (ho : ringOpen s ctx q = true) (hh : higherReady s q = false)
    (h : fetchAcc ctx q r s = .ok (out, u)) : packetFetch ctx q s = fetchDone ctx q r (clearWork (.fetch ctx q) u) out := by
  simp only [packetFetch, hring]
  refine (if_neg (by simp [ho, hh])).trans ((runAcc_of_ok h).trans ?_)
  cases out <;> rfl

/-- R597: the record of a ring whose fetch has failed; a context that can be torn down is. -/
theorem ringFetchFault_of_ring (b : Bool) (f : Flt) (header : Option W64) :
    ringFetchFault ctx q b f (header.map BitVec.toNat) s =
      let seq := match header with
        | some (h : W64) => bits h.toNat 63 32
        | none => 0xFFFFFFFF
      let op := match header with
        | some (h : W64) => bits h.toNat 7 0
        | none => 0
      let v := pushRecord { record := { seq := seq, ctx := ctx, status := stFault, fault := f.code, ftime := s.now,
                                        result := r.head + b2n b * 2 ^ 20, cls := q, opcode := op }, irq := true } s
      if (getCtx v ctx).tearable then tear ctx (some f) .faulted (emit 0x09 129 ctx f.code 0x0B 0 v) else v := by
  simp only [ringFetchFault, hring]
  cases header <;> rfl

omit hring in
theorem ringFetchEvent_of_code {b : Bool} {f : Flt} {header : Option W64} (hf : f = Flt.xlate ∨ f = .perm ∨ f = .bus) :
    ringFetchEvent ctx q b f.code header s = ringFetchFault ctx q b f (header.map BitVec.toNat) s := by
  rcases hf with rfl | rfl | rfl <;> rfl

end

/-- Settles O29: the doorbells by the ring or the context that they name, a fetch by what it came to (`packetFetch_of_read`). -/
theorem doorbellsAndFetches : Obligations.DoorbellsAndFetches := by
  refine ⟨fun s ctx q value => ⟨fun hs hr => ⟨?_, ?_, ?_, ?_⟩, ?_, ?_⟩, fun s u ctx q r hon hring => ⟨?_, fun ho hh => ?_, ?_⟩⟩
  · exact fun h => whileDoorbell_next hs (dbTail_of_none hr h)
  · exact fun r h => whileDoorbell_next hs (dbTail_of_ring hr h)
  · exact fun h => whileDoorbell_next hs (dbCplHead_of_absent hr h)
  · exact fun h => whileDoorbell_next hs (dbCplHead_of_existing hr h)
  · exact fun hs hv hn => whileServed_next hs (uclPop_of_entry hv hn)
  · exact fun hs h => whileServed_next hs (uclPop_of_nothing h)
  · exact fun h => whileOn_next hon (packetFetch_of_closed hring h)
  · have run {out : Fetched} (h : fetchAcc ctx q r s = .ok (out, u)) := whileOn_next hon (packetFetch_of_read hring ho hh h)
    exact ⟨fun c head h => run h, fun c head h => run h, fun c head f h => run h, fun seq op n h => run h, fun h => run h,
      fun b f header h => run h⟩
  · exact fun b f header hf => whileOn_next hon ((ringFetchEvent_of_code hf).trans (ringFetchFault_of_ring hring b f header))

/-! ### LAUNCH and LAUNCH_GRAPH (R393, R400) -/

section
variable {c : Cmd} {s : State}

theorem launch_of_bad (h : launchBad (startCmd c s) c = true) : launch c s = badPacket c 0 (startCmd c s) := if_pos h

/-- R393: the node that a LAUNCH makes. -/
def launchNode (c : Cmd) (s : State) : Node :=
  { ctx := c.ctx, cmd := c, cls := cmdClass s c, image := par c 0, pblock := par c 1, count := launchCount c, step := par c 3,
    seed := par c 4, groves := [], since := s.now }

theorem launch_of_good (h : launchBad (startCmd c s) c = false) (hn : ∀ n ∈ (startCmd c s).sched.nodes, n.cmd ≠ c) :
    launch c s = (startCmd c s).setSched
      { (startCmd c s).sched with nodes := (startCmd c s).sched.nodes ++ [launchNode c (startCmd c s)] } :=
  (if_neg (Bool.eq_false_iff.mp h)).trans (if_neg (by simpa using hn))

/-- R400: the state in which a new LAUNCH_GRAPH is judged. -/
abbrev launchCounted (c : Cmd) (s : State) : State := count Reg.CRN_CNT_GRAPH_LAUNCH (startCmd c s)

section
variable (hs : isStarted s c = false)
include hs

theorem launchGraph_of_bad (h : c.ctx = 0 ∨ bits (par c 0) 31 10 ≠ 0 ∨ (par c 1 ≠ 0 ∧ bit (par c 1) 56 = false)) :
    launchGraph c s = badPacket c 0 (launchCounted c s) :=
  (if_neg (by simp [hs])).trans (if_pos (by simpa [or_assoc] using h))

variable (hc : c.ctx ≠ 0) (hz : bits (par c 0) 31 10 = 0) (ha : par c 1 = 0 ∨ bit (par c 1) 56 = true)
include hc hz ha

theorem launchGraph_of_good : launchGraph c s = match enabledGraph (launchCounted c s) c with
    | none => badPacket c 0 (launchCounted c s)
    | some g => (launchCounted c s).setCrn { (launchCounted c s).crn with
        launches := (launchCounted c s).crn.launches ++ [{ id := (launchCounted c s).crn.nextLaunch, cmd := c, graph := g.id, gen := g.cur,
                                                           step := bits (par c 0) 63 32, argBase := par c 1 }]
        nextLaunch := (launchCounted c s).crn.nextLaunch + 1 } :=
  (if_neg (by simp [hs])).trans (if_neg (by rcases ha with h | h <;> simp [hc, hz, h]))

end

/-! ### A graph's nodes (R401) -/

section
variable {launch n : Nat} {l : GLaunch} {g : Graph} {gen : Gen} {node : GNode}
  (hl : (s.crn.launches.find? fun x => x.id == launch) = some l) (hg : graphOf s l.cmd.ctx l.graph = some g)
  (hgen : launchGen s l = some gen) (hn : gen.nodes[n]? = some node)
include hl hg hgen hn

theorem graphNodeStart_of_unready (h : nodeReady s l n node = false) : graphNodeStart launch n s = s := by
  simp [graphNodeStart, hl, hg, hgen, hn, h]

/-- R401: the node's command starts once its indirect parameters are read. -/
theorem graphNodeStart_of_read {r : Option Cmd} {v : State} (h : nodeReady s l n node = true) (ha : launchArmed s l = false)
    (hr : readIndirect (.cmd (nodeCmd l g gen n node).1) .graph l.argBase (pkIndirect (nodePacket gen.packets node)) (nodeCmd l g gen n node).1 s =
      .ok (r, v)) :
    graphNodeStart launch n s =
      let d := (nodeCmd l g gen n node).1
      let begun := fun (e : Cmd) (t : State) => startCmd e (countN Reg.CRN_CNT_IND_READ (nodeCmd l g gen n node).2
        (t.setCrn { t.crn with
          launches := updFirst (fun x => x.id == launch) (fun x => { x with started := x.started ++ [n] }) t.crn.launches }))
      r.elim (badPacket d 0 (begun d (clearWork (.cmd d) v))) fun e => begun (nodeLaunchParams l gen e) (clearWork (.cmd d) v) := by
  simp only [graphNodeStart, hl, hg, hgen, hn]
  refine (if_neg (by simp [h, ha])).trans ((runAcc_of_ok hr).trans ?_)
  cases r <;> rfl

end

/-! ### Stored graphs (R399, R403, R405) -/

section
variable (hc : c.ctx ≠ 0)
include hc

theorem storeGraph_of_enabled {g : Graph} (hg : graphOf (startCmd c s) c.ctx (bits (par c 0) 9 0) = some g) (h : g.fn.state = .enabled) :
    storeGraph c s = completeOk c 0 (startCmd c s) := by
  simp [storeGraph, hc, hg, fnEnable_of_enabled h]

/-- R43: an enable while the graph drains is deferred. -/
theorem storeGraph_of_draining {g : Graph} (hg : graphOf (startCmd c s) c.ctx (bits (par c 0) 9 0) = some g) (h : g.fn.state = .draining) :
    storeGraph c s = complete c stDeferred 0 0
      (putGraph c.ctx { g with fn := { g.fn with state := .drainingDeferred, deferred := [c] } } (startCmd c s)) := by
  simp [storeGraph, hc, hg, fnEnable_of_draining h]

theorem storeGraph_of_none (hg : graphOf (startCmd c s) c.ctx (bits (par c 0) 9 0) = none) (hz : bits (par c 0) 63 10 = 0)
    (ha : par c 1 % 64 = 0) :
    storeGraph c s = runAcc (.cmd c) (imageRead (.cmd c) c.ctx (par c 1)) (storeImage c (bits (par c 0) 9 0))
      (fun f s => faultCmd c f (dropGraph c.ctx (bits (par c 0) 9 0) s)) (startCmd c s) := by
  simp [storeGraph, storeRun, hc, hg, hz, ha]

theorem retireGraph_of_none (hz : bits (par c 0) 63 10 = 0) (hg : graphOf (startCmd c s) c.ctx (par c 0) = none) :
    retireGraph c s = completeOk c 0 (startCmd c s) := by
  simp [retireGraph, hc, hz, hg]

theorem retireGraph_of_enabled {g : Graph} (hz : bits (par c 0) 63 10 = 0) (hg : graphOf (startCmd c s) c.ctx (par c 0) = some g)
    (h : g.fn.state = .enabled) :
    retireGraph c s = freeGens faultCmd c.ctx g.id
      (putGraph c.ctx { g with fn := { g.fn with state := .draining, disables := [c] } } (startCmd c s)) := by
  simp [retireGraph, hc, hz, hg, fnDisable_of_enabled h]

theorem patchGraph_of_enabled {g : Graph} {gen : Gen} (hz : bits (par c 0) 31 11 = 0) (hz1 : bits (par c 1) 63 13 = 0)
    (hg : enabledGraph (startCmd c s) c = some g) (hgen : (g.gens.find? fun n => n.num == g.cur) = some gen) :
    patchGraph c s = if bit (par c 0) 10 then patchSlots c g (par c 1) (startCmd c s)
      else patchCopy c g gen (bits (par c 0) 63 32) (par c 1) (startCmd c s) := by
  simp [patchGraph, hc, hz, hz1, hg, hgen]

end
end

/-- Settles O31: each command by its checks and the graph's state; a node by whether it is ready. -/
theorem launchesAndGraphs : Obligations.LaunchesAndGraphs := by
  refine ⟨fun s c hon => ⟨⟨fun h => whileOn_next hon (launch_of_bad h), fun h hn => ?_⟩, fun hs => ⟨fun h => whileOn_next hon (launchGraph_of_bad hs h),
    fun hc hz ha => ?_⟩, fun launch n l g gen node v hl hg hgen hn => ⟨fun h => whileOn_next hon (graphNodeStart_of_unready hl hg hgen hn h),
      fun h ha => ?_⟩⟩, fun s c hon hc => ⟨fun hg hz ha => ?_, ?_, ?_, ?_, ?_, ?_⟩⟩
  · exact ⟨launchNode c (startCmd c s), rfl, rfl, rfl, rfl, rfl, rfl, rfl, rfl, rfl, whileOn_next hon (launch_of_good h hn)⟩
  · have run := launchGraph_of_good hs hc hz ha
    exact ⟨fun hg => whileOn_next hon (by rw [run, hg]), fun g hg => whileOn_next hon (by rw [run, hg])⟩
  · have run {r : Option Cmd} := graphNodeStart_of_read (r := r) (v := v) hl hg hgen hn h ha
    exact ⟨fun e hr => whileOn_next hon (run hr), fun hr => whileOn_next hon (run hr)⟩
  · have run := storeGraph_of_none hc hg hz ha
    exact ⟨fun x v hr => whileOn_next hon (run.trans (runAcc_of_ok hr)), fun f v hr => whileOn_next hon (run.trans (runAcc_of_fail hr))⟩
  · exact fun g hg h => whileOn_next hon (storeGraph_of_enabled hc hg h)
  · exact fun g hg h => whileOn_next hon (storeGraph_of_draining hc hg h)
  · exact fun hz hg => whileOn_next hon (retireGraph_of_none hc hz hg)
  · exact fun g hz hg h => whileOn_next hon (retireGraph_of_enabled hc hz hg h)
  · intro g gen hz hz1 hg hgen
    have run := patchGraph_of_enabled hc hz hz1 hg hgen
    exact ⟨fun hb => whileOn_next hon (run.trans (if_pos hb)), fun hb => whileOn_next hon (run.trans (if_neg (Bool.eq_false_iff.mp hb)))⟩

end Sys2Proof.Machine
end

-- The settling of the commands' family: completion records and the manager's packets.
section

namespace Sys2Proof.Machine

/-! ### Completion records (R388 to R390, R406) -/

section
variable {ctx : Nat} {s : State} {p : Pend} {ps : List Pend}

section
variable (he : ctxExists s ctx = true) (hr : (getCtx s ctx).records = p :: ps)
include he hr

/-- R390: a record that is only a vector. -/
theorem recordWrite_of_silent (h : p.silent = true) : recordWrite ctx s = ctxVector ctx (popRecord ctx s) := by
  simp [recordWrite, he, hr, h]

variable (h : p.silent = false)
include h

/-- R389: a record waits while the ring is full. -/
theorem recordWrite_of_full (hf : ((getCtx s ctx).cpl.prod + 1) % 2 ^ (getCtx s ctx).cpl.sizeLog = (getCtx s ctx).cpl.head) :
    recordWrite ctx s = s := by
  simp [recordWrite, he, hr, h, CplRing.full, hf]

variable (hf : ((getCtx s ctx).cpl.prod + 1) % 2 ^ (getCtx s ctx).cpl.sizeLog ≠ (getCtx s ctx).cpl.head)
include hf

/-- R406: without the link, a record of a ring in host memory is diverted. -/
theorem recordWrite_of_linkless (hb : bit (getCtx s ctx).cpl.base 56 = false) (hup : s.hl.up = false) :
    recordWrite ctx s = divert p.record 2 ((getCtx s ctx).cpl.base + 32 * (getCtx s ctx).cpl.prod) (popRecord ctx s) := by
  simp [recordWrite, he, hr, h, CplRing.full, hf, hb, hup]

theorem recordWrite_of_reachable (hb : bit (getCtx s ctx).cpl.base 56 = true ∨ s.hl.up = true) :
    recordWrite ctx s =
      runAcc (.record ctx) (ctxWrite (.record ctx) ctx ((getCtx s ctx).cpl.base + 32 * (getCtx s ctx).cpl.prod)
        (p.record.bytes (getCtx s ctx).cpl.phase))
        (fun _ u =>
          let t := count Reg.CRN_CNT_RECORDS (advanceProd ctx (popRecord ctx u))
          if p.irq then ctxVector ctx t else t)
        (fun _ u => divert p.record 1 ((getCtx s ctx).cpl.base + 32 * (getCtx s ctx).cpl.prod) (popRecord ctx u)) s := by
  have hreach : (!bit (getCtx s ctx).cpl.base 56 && !s.hl.up) = false := by rcases hb with hb | hb <;> simp [hb]
  simp [recordWrite, he, hr, h, CplRing.full, hf, hreach]

end

/-- R390: the holdoff is over, and nothing is owed. -/
abbrev holdoffOver (ctx : Nat) (s : State) : State := updCtx ctx (fun x => { x with cpl := { x.cpl with held := false, owed := false } }) s

theorem holdoffExpire_of_owed (hh : (getCtx s ctx).cpl.held = true) (ho : (getCtx s ctx).cpl.owed = true) :
    holdoffExpire ctx s = ctxVector ctx (holdoffOver ctx s) := by
  simp [holdoffExpire, hh, ho]

theorem holdoffExpire_of_nothing_owed (hh : (getCtx s ctx).cpl.held = true) (ho : (getCtx s ctx).cpl.owed = false) :
    holdoffExpire ctx s = holdoffOver ctx s := by
  simp [holdoffExpire, hh, ho]

theorem holdoffExpire_of_idle (hh : (getCtx s ctx).cpl.held = false) : holdoffExpire ctx s = s := by
  simp [holdoffExpire, hh]

end

/-! ### What a read of local memory depends on (R184) -/

/-- What serving a read changes: memory, registers, the free values' counter and the Xylem units. -/
def ReadStep (s u : State) : Prop := u = { s with mem := u.mem, regs := u.regs, free := u.free, xyl := u.xyl }

theorem ReadStep.trans {s u v : State} (h : ReadStep s u) (hv : ReadStep u v) : ReadStep s v := by
  rw [ReadStep] at h hv ⊢
  rw [hv, h]

theorem ReadStep.of_frame {s u : State} (h : FrmMRX s u) : ReadStep s u := by
  rw [ReadStep, h]

theorem ReadStep.canFill (o : Nat) (s : State) : ReadStep s (canFill o s) ∧ (canFill o s).mem = s.mem := by
  unfold Machine.canFill
  dsimp only
  split
  · exact ⟨rfl, rfl⟩
  · split
    · exact ⟨rfl, rfl⟩
    · split
      · exact ⟨rfl, rfl⟩
      · exact ⟨rfl, rfl⟩

theorem evt_mem (u code key n : Nat) (ctx : Option Nat) (s : State) : (evt u code key n ctx s).mem = s.mem := by
  rw [evt_frame, State.setRegs_mem]

theorem ReadStep.canRead1 (k : Nat) (s : State) : ReadStep s (canRead1 k s) ∧ (canRead1 k s).mem = s.mem := by
  unfold Machine.canRead1
  dsimp only
  split
  · exact ⟨rfl, rfl⟩
  · split
    · exact ⟨.of_frame (.evt ..), evt_mem ..⟩
    · obtain ⟨hstep, hmem⟩ := ReadStep.canFill (k * 64) (Machine.evt (133 + channelOf (k * 64) / 32) 0x93 0 1 none
        (Machine.evt (133 + channelOf (k * 64) / 32) 0x90 (channelOf (k * 64) % 32) 1 none s))
      exact ⟨(ReadStep.of_frame ((FrmMRX.evt ..).step (.evt ..))).trans hstep, by rw [hmem, evt_mem, evt_mem]⟩

theorem ReadStep.canReads : ∀ (l : List Nat) (s : State),
    ReadStep s (l.foldl (fun s k => Machine.canRead1 k s) s) ∧ (l.foldl (fun s k => Machine.canRead1 k s) s).mem = s.mem
  | [], _ => ⟨rfl, rfl⟩
  | k :: ks, s => by
    obtain ⟨hfirst, hmem⟩ := ReadStep.canRead1 k s
    obtain ⟨hrest, hmems⟩ := ReadStep.canReads ks (Machine.canRead1 k s)
    exact ⟨hfirst.trans hrest, hmems.trans hmem⟩

/-- R183: memory after a read of a range has met its latent errors. -/
def metMem (a n : Nat) (m : Mem) : Mem :=
  let ks := sectorsOf a n
  let ce := (m.latent.filter fun p => decide (p.2 = 1) && ks.contains p.1).map (·.1)
  let ue := (m.latent.filter fun p => decide (2 ≤ p.2) && ks.contains p.1).map (·.1)
  if ce.isEmpty && ue.isEmpty then m
  else { m with latent := m.latent.filter fun p => !ks.contains p.1, poison := ue.foldl (fun l k => keyInsert k l) m.poison }

theorem metMem_bytes (a n : Nat) (m : Mem) : (metMem a n m).bytes = m.bytes := by
  unfold metMem
  dsimp only
  split <;> rfl

theorem countN_mem (off n : Nat) (s : State) : (countN off n s).mem = s.mem := by
  rw [countN_frame, State.setRegs_mem]

theorem meetErrors_mem (a n : Nat) (s : State) : (meetErrors a n s).2.mem = metMem a n s.mem := by
  simp only [meetErrors, countN_mem, metMem]
  split
  · rfl
  · rw [noteErrors_bytes, State.setMem_mem]

/-- R184: whether a read is refused depends on memory alone. -/
theorem meetErrors_bad (a n : Nat) (s : State) :
    (meetErrors a n s).1 = (sectorsOf a n).any fun k => (metMem a n s.mem).poison.contains k := by
  rw [← meetErrors_mem]
  simp only [meetErrors, countN_mem]

theorem ReadStep.meetErrors (a n : Nat) (s : State) : ReadStep s (meetErrors a n s).2 := by
  refine .of_frame (FrmMRX.step (FrmMRX.step (FrmMRX.step ?_ (.countN ..)) (.countN ..)) (.countN ..))
  split
  · exact .refl s
  · exact FrmMRX.step (u := s.setMem _) rfl (.noteErrors ..)

theorem localRead_answer (o n : Nat) (s : State) :
    (localRead o n s).1 = (memRead s o n, (sectorsOf o n).any fun k => (metMem o n s.mem).poison.contains k) := by
  obtain ⟨-, hmem⟩ := ReadStep.canReads (sectorsOf o n) s
  simp only [localRead, meetErrors_bad, memRead, meetErrors_mem, metMem_bytes, hmem]

theorem localRead_mem (o n : Nat) (s : State) : (localRead o n s).2.mem = metMem o n s.mem := by
  obtain ⟨-, hmem⟩ := ReadStep.canReads (sectorsOf o n) s
  simp only [localRead, meetErrors_mem, hmem]

theorem ReadStep.localRead (o n : Nat) (s : State) : ReadStep s (localRead o n s).2 :=
  (ReadStep.canReads (sectorsOf o n) s).1.trans (ReadStep.meetErrors ..)

/-! ### Two states whose global reads answer alike (R22, R317, R452) -/

/-- The parts of a state that a global read looks at are the same in two states. -/
def SameReads (s t : State) : Prop := t.mem = s.mem ∧ t.fab = s.fab ∧ t.io = s.io ∧ t.sched = s.sched

/-- An access that answers in one state answers the same in another that its reads do not tell apart. -/
def ReadsOnly {α : Type} (a : Acc α) : Prop :=
  ∀ (s t u : State) (x : α), SameReads s t → a s = .ok (x, u) → ∃ v, a t = .ok (x, v) ∧ SameReads u v

theorem SameReads.setCrn (s : State) (x y : Crn) : SameReads (s.setCrn x) (s.setCrn y) := ⟨rfl, rfl, rfl, rfl⟩

theorem SameReads.step {s t u v : State} (h : SameReads s t) (hs : ReadStep s u) (ht : ReadStep t v) (hm : v.mem = u.mem) :
    SameReads u v := by
  obtain ⟨-, hfab, hio, hsched⟩ := h
  exact ⟨hm, by rw [ht, hs]; exact hfab, by rw [ht, hs]; exact hio, by rw [ht, hs]; exact hsched⟩

theorem SameReads.sharedRange {s t : State} (h : SameReads s t) (o n : Nat) : sharedRange t o n = sharedRange s o n := by
  obtain ⟨-, -, -, hsched⟩ := h
  simp only [Machine.sharedRange, inSharedPool, groupOwner, partOf, hsched]

theorem SameReads.localRead {s t : State} (h : SameReads s t) (o n : Nat) :
    (Machine.localRead o n t).1 = (Machine.localRead o n s).1 ∧ SameReads (Machine.localRead o n s).2 (Machine.localRead o n t).2 := by
  have hmem := h.1
  exact ⟨by simp only [localRead_answer, memRead, hmem], h.step (.localRead ..) (.localRead ..) (by simp only [localRead_mem, hmem])⟩

theorem readsOnly_globRead (w : Work) (d o n : Nat) : ReadsOnly (globRead w d o n) := by
  intro s t u x h hs
  have hshared := h.sharedRange o n
  obtain ⟨hanswer, hafter⟩ := h.localRead o n
  have hparts := h
  obtain ⟨-, hfab, hio, -⟩ := hparts
  simp only [globRead, hfab, hio, hshared, hanswer] at hs ⊢
  split at hs
  · next hown =>
    rw [if_pos hown]
    split at hs
    · cases hs
    · next hsh =>
      rw [if_neg hsh]
      split at hs
      · cases hs
      · next hbad =>
        cases hs
        exact ⟨_, if_neg hbad, hafter⟩
  · next hother =>
    rw [if_neg hother]
    split at hs
    · cases hs
      exact ⟨t, rfl, h⟩
    · split at hs <;> cases hs

theorem readsOnly_pure {α : Type} (x : α) : ReadsOnly (pure x : Acc α) := by
  intro s t u y h hs
  cases hs
  exact ⟨t, rfl, h⟩

theorem acc_bind_ok {α β : Type} {a : Acc α} {k : α → Acc β} {s u : State} {y : β} (h : (a >>= k) s = .ok (y, u)) :
    ∃ x v, a s = .ok (x, v) ∧ k x v = .ok (y, u) := by
  have h : ((a s).bind fun p => k p.1 p.2) = .ok (y, u) := h
  cases ha : a s with
  | error e => rw [ha] at h; cases h
  | ok p => rw [ha] at h; exact ⟨p.1, p.2, rfl, h⟩

theorem acc_bind_of_ok {α β : Type} {a : Acc α} {k : α → Acc β} {s v : State} {x : α} (h : a s = .ok (x, v)) :
    (a >>= k) s = k x v := by
  show ((a s).bind fun p => k p.1 p.2) = k x v
  rw [h]
  rfl

theorem readsOnly_bind {α β : Type} {a : Acc α} {k : α → Acc β} (ha : ReadsOnly a) (hk : ∀ x, ReadsOnly (k x)) :
    ReadsOnly (a >>= k) := by
  intro s t u y h hs
  obtain ⟨x, v, hx, hy⟩ := acc_bind_ok hs
  obtain ⟨v', hx', hv⟩ := ha _ _ _ _ h hx
  obtain ⟨u', hy', hu⟩ := hk x _ _ _ _ hv hy
  exact ⟨u', (acc_bind_of_ok hx').trans hy', hu⟩

theorem readsOnly_foldlM {α β : Type} {f : β → α → Acc β} (hf : ∀ b x, ReadsOnly (f b x)) : ∀ (l : List α) (b : β), ReadsOnly (l.foldlM f b)
  | [], b => readsOnly_pure b
  | x :: l, b => by
    rw [List.foldlM_cons]
    exact readsOnly_bind (hf b x) fun y => readsOnly_foldlM hf l y

theorem readsOnly_count (off : Nat) : ReadsOnly (accDo (count off)) := by
  intro s t u x h hs
  cases hs
  exact ⟨_, rfl, h.step (.of_frame (.countN ..)) (.of_frame (.countN ..)) (by rw [count_mem, count_mem, h.1])⟩

/-- R381: the indirect parameters of a manager packet are read through global space. -/
theorem readsOnly_readIndirect (w : Work) (d arg mask : Nat) (c : Cmd) : ReadsOnly (readIndirect w (.manager d) arg mask c) := by
  refine readsOnly_foldlM (fun r j => ?_) _ _
  cases r with
  | none => exact readsOnly_pure none
  | some c =>
    have hrel : (From.manager d == From.graph) = false := rfl
    simp only [hrel, Bool.false_and, Bool.false_eq_true, if_false]
    exact readsOnly_bind (readsOnly_bind (readsOnly_count _) fun _ => readsOnly_bind (readsOnly_globRead _ _ _ _) fun l => readsOnly_pure _)
      fun v => readsOnly_pure _

/-! ### Manager packets (R381, R492) -/

section
variable {dev : Nat} {p : List Byte} {s v : State} {c : Cmd}

/-- R381: a packet that passes its checks starts its command when its parameters are read. -/
theorem managerPacket_of_read (hn : pkLength p ≠ 0) (hmax : pkLength p ≤ 265) (hlen : 16 * pkLength p ≤ p.length)
    (hok : packetOk (.manager dev) p = true)
    (h : readIndirect (.cmd (packetCmd (.mgr dev) 0 p)) (.manager dev) 0 (pkIndirect p) (packetCmd (.mgr dev) 0 p)
      (s.setCrn { s.crn with packets := s.crn.packets ++ [(dev, p)] }) = .ok (some c, v)) :
    ∃ u, managerPacket dev p s = startCmd c u := by
  obtain ⟨w, hw, -⟩ := readsOnly_readIndirect _ _ _ _ _ _ _ _ _ (SameReads.setCrn s _
    { s.crn with packets := (s.crn.packets.filter fun x => x != (dev, p)) ++ [(dev, p)] }) h
  refine ⟨_, (if_neg ?_).trans ((if_neg ?_).trans (runAcc_of_ok hw))⟩
  · simp [hn, hmax, hlen]
  · simp [hok]

end

theorem isOn_of_accepts {h : Hdr} {b : Body} {s : State} (ha : accepts h b s = true) : isOn s = true := by
  rw [accepts, Bool.and_eq_true] at ha
  exact ha.1

/-- R453: a message that is accepted runs its row's effect. -/
theorem whileOn_deliver_accepts {h : Hdr} {b : Body} {s : State} {f : State → State} (ha : accepts h b s = true) :
    whileOn (deliver h b f) s = .next (served h b f s) := whileOn_next (isOn_of_accepts ha) (deliver_accepts f ha)

theorem loss_of_isOn {s : State} (hon : isOn s = true) : s.hl.loss = none := by
  rw [isOn, Bool.and_eq_true, Option.isNone_iff_eq_none] at hon
  exact hon.2

theorem exec_cmd_of_accepts {h : Hdr} {p : List Byte} {s : State} (ha : accepts h (.cmd p) s = true) :
    exec (.cmd h p) s = .next (served h (.cmd p) (fun u => if p.length < 16 then count Reg.FAB_CNT_BAD_MSG u else managerPacket h.src p u) s) :=
  (if_neg (by simp [loss_of_isOn (isOn_of_accepts ha)])).trans (whileOn_deliver_accepts ha)

/-- Settles O30: a record by its ring and by how its write ends, a manager packet by its checks (`managerPacket_of_read`). -/
theorem recordsAndManagerPackets : Obligations.RecordsAndManagerPackets := by
  refine ⟨fun s ctx hon => ⟨fun p ps he hr => ⟨?_, ?_, fun h hf => ⟨?_, fun hb => ?_⟩⟩, ?_, ?_, ?_⟩,
    fun s h => ⟨fun p => exec_cmd_of_accepts, ?_, ?_, ?_⟩⟩
  · exact fun h => whileOn_next hon (recordWrite_of_silent he hr h)
  · exact fun h hf => whileOn_next hon (recordWrite_of_full he hr h hf)
  · exact fun hb hup => whileOn_next hon (recordWrite_of_linkless he hr h hf hb hup)
  · have run := recordWrite_of_reachable he hr h hf hb
    exact ⟨fun v hv => whileOn_next hon (run.trans (runAcc_of_ok hv)), fun f v hv => whileOn_next hon (run.trans (runAcc_of_fail hv))⟩
  · exact fun hh ho => whileOn_next hon (holdoffExpire_of_owed hh ho)
  · exact fun hh ho => whileOn_next hon (holdoffExpire_of_nothing_owed hh ho)
  · exact fun hh => whileOn_next hon (holdoffExpire_of_idle hh)
  · exact fun p c v _ hn hmax hlen hok hr => managerPacket_of_read hn hmax hlen hok hr
  · intro p hl hp hlen
    exact (if_pos hl).trans (congrArg _ (if_neg (by simp [hp, hlen])))
  · exact fun r ha => whileOn_deliver_accepts ha

end Sys2Proof.Machine
end

-- The settling of the firmware's family: start-up and the Taproot mailbox.
section

namespace Sys2Proof.Machine

theorem next_of_eq {u t : State} (h : u = t) : (Host.Outcome.next u : Host.Outcome State Fault Refusal) = .next t := congrArg _ h

/-- A host write that changes nothing, served or not. -/
theorem whileServed_of_nothing {off : Nat} {f : State → State} {s : State} (h : f s = s) : whileServed off f s = .next s := by
  by_cases hserved : hostServed s off = true
  · exact whileServed_next hserved h
  · exact whileServed_of_not_served (Bool.eq_false_iff.mpr hserved)

/-! ### The stages of start-up (R572, R573, R578 to R581) -/

section
variable {s : State}

section
variable (hst : s.sec.stage = .rom) (hp : s.pwr.pstate = .standby ∨ s.pwr.pstate = .run)
include hst hp

theorem romCheckDone_of_rom (fuseOk flashOk : Bool) :
    romCheckDone fuseOk flashOk s =
      if !fuseOk then halt 13 s else if !flashOk then halt 14 s else startTraining (putStage .power s) :=
  if_neg (by rcases hp with h | h <;> simp [hst, h])

end

theorem romCheckDone_of_other (hst : s.sec.stage ≠ .rom) (fuseOk flashOk : Bool) : romCheckDone fuseOk flashOk s = s :=
  if_pos (by simp [hst])

theorem mainConvertersUp_of_power (hp : s.pwr.pstate = .standby) (hst : s.sec.stage = .power) :
    mainConvertersUp s = startTraining (putPState .run s) := if_pos (by simp [hp, hst])

theorem mainConvertersUp_of_other (h : s.pwr.pstate ≠ .standby ∨ s.sec.stage ≠ .power) : mainConvertersUp s = s :=
  if_neg (by simpa [imp_iff_not_or] using h)

theorem hbmTrainDone_of_training (hst : s.sec.stage = .hbmTrain) (ok : Bool) :
    hbmTrainDone ok s = if !ok then halt 12 s
      else grantImage (putStage .waitImage ((List.range (bits (regGet s Reg.MEM_REPAIR_COUNT) 6 0)).foldl (fun s i => hardenRepair i s) s)) :=
  if_neg (by simp [hst])

theorem hbmTrainDone_of_other (hst : s.sec.stage ≠ .hbmTrain) (ok : Bool) : hbmTrainDone ok s = s := if_pos (by simp [hst])

theorem imageReadDone_of_none (h : s.sec.loaded = none) : imageReadDone s = s := by simp only [imageReadDone, h]

/-- R578: the mailbox is free again when the image has been read or its read has failed. -/
theorem imageReadDone_of_some {r : Option (List Byte)} (h : s.sec.loaded = some r) :
    imageReadDone s =
      let u := mboxDone 0 (s.setSec { s.sec with loading := false, loaded := none })
      r.elim (regField Reg.SEC_BOOT_STAT 11 4 10 u) fun l => imageComplete 1 l u := by
  simp only [imageReadDone, h]
  cases r <;> rfl

theorem imageVerifyDone_of_verify {src : Nat} {l : List Byte} (hst : s.sec.stage = .verify) (hi : s.sec.image = some (src, l)) :
    imageVerifyDone s = (imageReason s l).elim (putStage .start (regField Reg.SEC_BOOT_STAT 13 12 src s)) fun r => imageRefused src r s := by
  simp only [imageVerifyDone, hst, hi]
  cases imageReason s l <;> rfl

theorem imageVerifyDone_of_other (hst : s.sec.stage ≠ .verify) : imageVerifyDone s = s := by
  unfold imageVerifyDone
  split
  · next h _ => exact absurd h hst
  · rfl

theorem startDone_of_start {src : Nat} {l : List Byte} (hst : s.sec.stage = .start) (hi : s.sec.image = some (src, l)) (ok : Bool) :
    startDone ok s = if ok then firmwareRuns src l s else imageRefused src 11 s := by
  simp only [startDone, hst, hi]

theorem startDone_of_other (hst : s.sec.stage ≠ .start) (ok : Bool) : startDone ok s = s := by
  unfold startDone
  split
  · next h _ => exact absurd h hst
  · rfl

/-! ### Images from the manager (R579) -/

section
variable {h : Hdr} {l : List Byte}

theorem imageArrives_of_other (hm : h.src ≠ s.fab.mgrId) : imageArrives h l s = count Reg.FAB_CNT_STALE_TERM s := if_pos (by simp [hm])

section
variable (hm : h.src = s.fab.mgrId)
include hm

theorem imageArrives_of_malformed (hl : l.length < 9 ∨ 65544 < l.length ∨ leAt l 4 4 < leAt l 0 4 + (l.length - 8) ∨ 67108864 < leAt l 4 4) :
    imageArrives h l s = count Reg.FAB_CNT_BAD_MSG s :=
  (if_neg (by simp [hm])).trans (if_pos (by simpa [or_assoc] using hl))

variable (h9 : 9 ≤ l.length) (hmax : l.length ≤ 65544) (hoff : leAt l 0 4 + (l.length - 8) ≤ leAt l 4 4) (htot : leAt l 4 4 ≤ 67108864)
include h9 hmax hoff htot

theorem imageArrives_of_segment
    (hst : s.sec.stage = .waitImage ∨ s.sec.stage = .recovery ∨ s.sec.stage = .verify ∨ s.sec.stage = .start) :
    imageArrives h l s = imageSegment (leAt l 0 4) (leAt l 4 4) (l.drop 8) s := by
  refine (if_neg (by simp [hm])).trans ((if_neg (by simp [h9, hmax, hoff, htot])).trans ?_)
  rcases hst with hst | hst | hst | hst <;> simp only [hst]

/-- R579: firmware that runs takes no more images. -/
theorem imageArrives_of_ready (hst : s.sec.stage = .ready) : imageArrives h l s = s := by
  refine (if_neg (by simp [hm])).trans ((if_neg (by simp [h9, hmax, hoff, htot])).trans ?_)
  simp only [hst]

end
end

/-! ### The mailbox (R578, R582, R583, R591) -/

section
variable (hserved : hostServed s Reg.SEC_MBOX_CMD = true)
include hserved

theorem mbox_of_busy (hb : mboxBusy s = true) (f : State → State) : mbox f s = .next s := whileServed_next hserved (if_pos hb)

theorem mbox_of_free (hb : mboxBusy s = false) {f : State → State} {t : State} (h : f s = t) : mbox f s = .next t :=
  whileServed_next hserved ((if_neg (Bool.eq_false_iff.mp hb)).trans h)

end

theorem mboxLoad_of_waiting (hst : s.sec.stage = .waitImage ∨ s.sec.stage = .recovery) :
    mboxLoad s = if regGet s Reg.SEC_IMG_LEN = 0 || 67108864 < regGet s Reg.SEC_IMG_LEN then mboxDone 2 s
      else imageLoadRun (regPut Reg.SEC_MBOX_STAT 1 (s.setSec { s.sec with loading := true, loaded := none })) := by
  rcases hst with hst | hst <;> simp only [mboxLoad, hst]

section
variable (hr : isReady s = true)
include hr

theorem svnCommit_of_old (ok : Bool) (hn : min 64 (runningSvn s) ≤ rollbackCount s) : svnCommit ok s = mboxDone 3 s :=
  (if_neg (by simp [hr])).trans (if_pos hn)

theorem svnCommit_of_new (ok : Bool) (hn : rollbackCount s < min 64 (runningSvn s)) :
    svnCommit ok s = if ok then mboxDone 0 (regPut Reg.SEC_FUSE_ROLLBACK (2 ^ min 64 (runningSvn s) - 1) s) else mboxDone 5 s := by
  refine (if_neg (by simp [hr])).trans ((if_neg (Nat.not_le.mpr hn)).trans ?_)
  cases ok <;> rfl

theorem ownerProgram_of_owned (ok : Bool) (ho : fuseWord s Reg.SEC_FUSE_OWNER ≠ 0) : ownerProgram ok s = mboxDone 3 s :=
  (if_neg (by simp [hr])).trans (if_pos ho)

theorem ownerProgram_of_free (ok : Bool) (ho : fuseWord s Reg.SEC_FUSE_OWNER = 0) :
    ownerProgram ok s =
      let k := Config.shake256 (mboxKey s)
      if ok then mboxDone 0 ((List.range 4).foldl (fun s i => regPut (Reg.SEC_FUSE_OWNER i) (bits k (64 * i + 63) (64 * i)) s) s)
      else mboxDone 5 s := by
  refine (if_neg (by simp [hr])).trans ((if_neg (not_not.mpr ho)).trans ?_)
  cases ok <;> rfl

end

section
variable (hs : isSealed s = false)
include hs

theorem sealCmd_of_unready (ok : Bool) (hr : isReady s = false) : sealCmd ok s = mboxDone 1 s :=
  (if_neg (by simp [hs])).trans (if_pos (by simp [hr]))

variable (hr : isReady s = true)
include hr

theorem sealCmd_of_wrongArg (ok : Bool) (ha : regGet s Reg.SEC_MBOX_ARG ≠ 0x5EA1) : sealCmd ok s = mboxDone 2 s :=
  (if_neg (by simp [hs])).trans ((if_neg (by simp [hr])).trans (if_pos ha))

variable (ha : regGet s Reg.SEC_MBOX_ARG = 0x5EA1)
include ha

/-- R591: SEAL is refused while a context exists or raw test access is open. -/
theorem sealCmd_of_used (ok : Bool) (hu : (∃ x ∈ s.sched.ctxs, x.state ≠ .none) ∨ s.xyl.maint = true) : sealCmd ok s = mboxDone 4 s :=
  (if_neg (by simp [hs])).trans ((if_neg (by simp [hr])).trans ((if_neg (by simp [ha])).trans (if_pos (by simpa using hu))))

theorem sealCmd_of_unused (ok : Bool) (hu : ∀ x ∈ s.sched.ctxs, x.state = .none) (hm : s.xyl.maint = false) :
    sealCmd ok s = if ok then mboxDone 0 (closeRws (regOr Reg.GLB_PART (1 <<< 24) s)) else mboxDone 5 s := by
  refine (if_neg (by simp [hs])).trans ((if_neg (by simp [hr])).trans ((if_neg (by simp [ha])).trans
    ((if_neg (by simpa [hm] using hu)).trans ?_)))
  cases ok <;> rfl

end
end

/-- Settles O47: each event by its stage, each mailbox command by what refuses it. -/
theorem startUpAndMailbox : Obligations.StartUpAndMailbox := by
  refine ⟨fun s => ⟨fun hst hp => ?_, fun hst a b => next_of_eq (romCheckDone_of_other hst a b), fun hp hst => next_of_eq (mainConvertersUp_of_power hp hst),
    fun h => next_of_eq (mainConvertersUp_of_other h), fun cap res a => ⟨?_, ?_⟩, fun hst => ?_,
    fun hst ok => next_of_eq (hbmTrainDone_of_other hst ok), fun h => next_of_eq (imageReadDone_of_none h), fun r h => ⟨?_, ?_⟩,
    fun src l hst hi => ⟨?_, ?_⟩, fun hst => next_of_eq (imageVerifyDone_of_other hst), fun src l hst hi => ?_,
    fun hst ok => next_of_eq (startDone_of_other hst ok), fun h l ha => next_deliver_accepts ha fun _ => rfl,
    fun h l => ⟨imageArrives_of_other, imageArrives_of_malformed, fun hm h9 hmax hoff htot => ⟨?_, ?_⟩⟩⟩,
    fun s hserved => ⟨fun hb => ?_, fun hb => ⟨?_, ?_, fun hst => ?_, fun ok => ⟨?_, ?_, ?_, ?_, ?_, ?_, ?_, ?_, ?_⟩⟩⟩⟩
  · have run (a b : Bool) := next_of_eq (romCheckDone_of_rom hst hp a b)
    exact ⟨fun f => run false f, run true false, run true true⟩
  · exact fun hl => next_of_eq (if_pos (by simp [hl]))
  · exact fun hl => next_of_eq (if_neg (by simp [hl]))
  · have run (ok : Bool) := next_of_eq (hbmTrainDone_of_training hst ok)
    exact ⟨run false, run true⟩
  · rintro l rfl
    exact next_of_eq (imageReadDone_of_some h)
  · rintro rfl
    exact next_of_eq (imageReadDone_of_some h)
  · exact fun r hr => next_of_eq ((imageVerifyDone_of_verify hst hi).trans (by rw [hr]; rfl))
  · exact fun hr => next_of_eq ((imageVerifyDone_of_verify hst hi).trans (by rw [hr]; rfl))
  · have run (ok : Bool) := next_of_eq (startDone_of_start hst hi ok)
    exact ⟨run true, run false⟩
  · exact imageArrives_of_segment hm h9 hmax hoff htot
  · exact imageArrives_of_ready hm h9 hmax hoff htot
  · exact ⟨mbox_of_busy hserved hb _, fun ok => ⟨mbox_of_busy hserved hb _, mbox_of_busy hserved hb _, mbox_of_busy hserved hb _⟩⟩
  · exact fun hst => mbox_of_free hserved hb (by simp only [mboxLoad, hst])
  · exact fun hst => mbox_of_free hserved hb (by simp only [mboxLoad, hst])
  · have run := mboxLoad_of_waiting hst
    exact ⟨fun hl => mbox_of_free hserved hb (run.trans (if_pos (by simpa using hl))),
      fun h1 hmax => mbox_of_free hserved hb (run.trans (if_neg (by simp [Nat.one_le_iff_ne_zero.mp h1, hmax])))⟩
  · exact fun hr => ⟨mbox_of_free hserved hb (if_pos (by simp [hr])), mbox_of_free hserved hb (if_pos (by simp [hr]))⟩
  · exact fun hr hn => mbox_of_free hserved hb (svnCommit_of_old hr ok hn)
  · exact fun hr hn => mbox_of_free hserved hb (svnCommit_of_new hr ok hn)
  · exact fun hr ho => mbox_of_free hserved hb (ownerProgram_of_owned hr ok ho)
  · exact fun hr ho => mbox_of_free hserved hb (ownerProgram_of_free hr ok ho)
  · exact fun hs => mbox_of_free hserved hb (if_pos hs)
  · exact fun hs hr => mbox_of_free hserved hb (sealCmd_of_unready hs ok hr)
  · exact fun hs hr ha => mbox_of_free hserved hb (sealCmd_of_wrongArg hs hr ok ha)
  · exact fun hs hr ha => ⟨fun hu => mbox_of_free hserved hb (sealCmd_of_used hs hr ha ok hu),
      fun hu hm => mbox_of_free hserved hb (sealCmd_of_unused hs hr ha ok hu hm)⟩

end Sys2Proof.Machine
end

-- The settling of the firmware's family: the checks of an image in their order.
section

namespace Sys2Proof.Machine

/-! ### The first check that fails (R580) -/

/-- Of a list of reasons with their failures, `r` is the reason of the first failure, if one holds. -/
def FirstFails : List (Nat × Prop) → Option Nat → Prop
  | [], r => r = none
  | p :: ps, r => (p.2 ∧ r = some p.1) ∨ (¬p.2 ∧ FirstFails ps r)

section
variable {fails : List (Nat × Prop)} {r : Option Nat}

theorem FirstFails.eq_none_iff (h : FirstFails fails r) : r = none ↔ ∀ p ∈ fails, ¬p.2 := by
  induction fails with
  | nil => exact ⟨fun _ _ hp => absurd hp List.not_mem_nil, fun _ => h⟩
  | cons p ps ih =>
    rcases h with ⟨hp, rfl⟩ | ⟨hp, h⟩
    · simp [hp]
    · simp [hp, ih h]

theorem FirstFails.mem (h : FirstFails fails r) {k : Nat} (hk : r = some k) : k ∈ fails.map (·.1) := by
  induction fails with
  | nil => simp [show r = none from h] at hk
  | cons p ps ih =>
    rcases h with ⟨-, rfl⟩ | ⟨-, h⟩
    · simp [Option.some.inj hk]
    · exact List.mem_cons_of_mem _ (ih h)

/-- Where the reasons differ, one is given exactly when its check fails and none before it. -/
theorem FirstFails.eq_some_iff (h : FirstFails fails r) (hd : (fails.map (·.1)).Nodup) {i : Nat} {p : Nat × Prop} (hi : fails[i]? = some p) :
    r = some p.1 ↔ p.2 ∧ ∀ (j : Nat) (q : Nat × Prop), j < i → fails[j]? = some q → ¬q.2 := by
  induction fails generalizing i with
  | nil => simp at hi
  | cons x xs ih =>
    obtain ⟨hx, hd⟩ := List.nodup_cons.mp hd
    cases i with
    | zero =>
      obtain rfl : x = p := by simpa using hi
      rcases h with ⟨hp, rfl⟩ | ⟨hp, h⟩
      · simp [hp]
      · simpa [hp] using fun hr => hx (h.mem hr)
    | succ i =>
      have hi : xs[i]? = some p := by simpa using hi
      rcases h with ⟨hp, rfl⟩ | ⟨hp, h⟩
      · have hne : x.1 ≠ p.1 := fun he => hx (List.mem_map.mpr ⟨p, List.mem_of_getElem? hi, he.symm⟩)
        exact ⟨fun he => absurd (Option.some.inj he) hne, fun ⟨_, hb⟩ => absurd hp (hb 0 x i.succ_pos rfl)⟩
      · rw [ih h hd hi]
        refine and_congr_right fun _ => ⟨fun hb j q hj hq => ?_, fun hb j q hj hq => hb (j + 1) q (Nat.succ_lt_succ hj) (by simpa using hq)⟩
        cases j with
        | zero =>
          obtain rfl : x = q := by simpa using hq
          exact hp
        | succ j => exact hb j q (Nat.lt_of_succ_lt_succ hj) (by simpa using hq)

end

theorem FirstFails.ite {b p : Prop} [Decidable b] {n : Nat} {ps : List (Nat × Prop)} {e : Option Nat} (hb : b ↔ p) (h : FirstFails ps e) :
    FirstFails ((n, p) :: ps) (if b then some n else e) := by
  by_cases hc : b
  · exact .inl ⟨hb.mp hc, if_pos hc⟩
  · rw [if_neg hc]
    exact .inr ⟨mt hb.mpr hc, h⟩

/-- R580: the checks of an image in the order of the table, each with its reason. -/
def imageFails (s : State) (l : List Byte) : List (Nat × Prop) :=
  let n := imgBody l
  let vendorKey := slice n 68 l
  let ownerKey := slice (n + 2888) 68 l
  let owner := fuseWord s Reg.SEC_FUSE_OWNER
  [(1, imageFormatOk l = false),
   (2, leAt l 8 2 ≠ 0x5120 ∨ bit (leAt l 10 2) (bits (regGet s Reg.GLB_PART) 19 16) = false),
   (3, imgDebug l = true ∧ isSealed s = true),
   (4, Config.shake256 vendorKey ≠ fuseWord s Reg.SEC_FUSE_VENDOR),
   (5, Config.xmssVerify vendorKey (l.take n) (slice (n + 68) 2820 l) = false),
   (6, owner ≠ 0 ∧ imgOwner l = false),
   (7, owner ≠ 0 ∧ Config.shake256 ownerKey ≠ owner),
   (8, owner ≠ 0 ∧ Config.xmssVerify ownerKey (l.take (n + 2888)) (slice (n + 2956) 2820 l) = false),
   (9, imgSvn l < rollbackCount s)]

theorem firstFails_imageReason (s : State) (l : List Byte) : FirstFails (imageFails s l) (imageReason s l) := by
  refine .ite ?_ (.ite ?_ (.ite ?_ (.ite ?_ (.ite ?_ (.ite ?_ (.ite ?_ (.ite ?_ (.ite ?_ rfl))))))))
  all_goals simp

/-- Settles O48: the reason is that of the first failure (`firstFails_imageReason`), and the nine reasons differ. -/
theorem imageChecks : Obligations.ImageChecks := fun s l =>
  ⟨(firstFails_imageReason s l).eq_none_iff, fun _ _ hi => (firstFails_imageReason s l).eq_some_iff (show [1, 2, 3, 4, 5, 6, 7, 8, 9].Nodup by decide) hi⟩

end Sys2Proof.Machine
end

-- The settling of the firmware's family: attestation.
section

namespace Sys2Proof.Machine

/-! ### ATTEST (R584 to R588) -/

section
variable {c : Cmd} {s : State} {flash : Bool}

/-- R587: an ATTEST is refused for its operation, its reserved fields, its place or the room for its output. -/
theorem attestBad_iff : attestBad c = true ↔
    bits (par c 0) 1 0 = 3 ∨ bits (par c 0) 63 2 ≠ 0 ∨ bits (par c 3) 63 32 ≠ 0 ∨ par c 2 % 8 ≠ 0 ∨
      bits (par c 3) 31 0 < attestSize (bits (par c 0) 1 0) := by
  simp [attestBad, or_assoc]

theorem attest_of_bad (h : attestBad c = true) : attest c flash s = badPacket c (attestSize (bits (par c 0) 1 0)) (startCmd c s) := if_pos h

/-- R585: an ATTEST goes on; one whose flash write will fail is noted. -/
theorem attest_of_good (h : ¬attestBad c = true) :
    attest c flash s = attestRun c (if flash || (startCmd c s).sec.flashFails.contains c then startCmd c s
      else (startCmd c s).setSec { (startCmd c s).sec with flashFails := (startCmd c s).sec.flashFails ++ [c] }) := if_neg h

section
variable (hn : ∀ a ∈ s.sec.attests, a.1 ≠ c)
include hn

/-- R587: an ATTEST whose output is not being written. -/
theorem attests_find_none : (s.sec.attests.find? fun a => a.1 == c) = none := by simpa using hn

theorem attestRun_of_report (ho : bits (par c 0) 1 0 = 0) {nonce : List Byte} {v : State} (hr : attestRead c (par c 1) 32 s = .ok (nonce, v)) :
    attestRun c s = attestSign c nonce (clearWork (.cmd c) v) := by
  simp only [attestRun, attests_find_none hn, ho]
  exact runAcc_of_ok hr

theorem attestRun_of_certificate (ho : bits (par c 0) 1 0 = 1) :
    attestRun c s = attestOut c (certificate s) (2908 + (2 ^ 20 - sigIndex s) * 2 ^ 32) s := by
  simp only [attestRun, attests_find_none hn, ho]
  rfl

theorem attestRun_of_index (ho : bits (par c 0) 1 0 = 2) : attestRun c s = attestEnd c stOk 0 ((2 ^ 20 - sigIndex s) * 2 ^ 32) s := by
  simp only [attestRun, attests_find_none hn, ho, attestResult, Nat.zero_add]

end

/-! ### Indices and reports (R584, R585, R588) -/

theorem takeIndex_of_used (h : 2 ^ 20 ≤ sigIndex s) : takeIndex flash s = .error 1 := if_pos h

theorem takeIndex_of_failure (h : sigIndex s < 2 ^ 20) : takeIndex false s = .error 2 := if_neg (Nat.not_le.mpr h)

/-- R584: the index is written over the older of the two copies. -/
def indexTaken (s : State) : State :=
  putIdStat true (s.setSec (if sigIndex s % 2 = 0 then { s.sec with indexA := sigIndex s + 1 } else { s.sec with indexB := sigIndex s + 1 }))

theorem takeIndex_of_free (h : sigIndex s < 2 ^ 20) : takeIndex true s = .ok (sigIndex s, indexTaken s) := if_neg (Nat.not_le.mpr h)

theorem sigIndex_indexTaken (s : State) : sigIndex (indexTaken s) = sigIndex s + 1 := by
  have ha : s.sec.indexA ≤ sigIndex s := Nat.le_max_left ..
  have hb : s.sec.indexB ≤ sigIndex s := Nat.le_max_right ..
  have hsec : (indexTaken s).sec = if sigIndex s % 2 = 0 then { s.sec with indexA := sigIndex s + 1 }
    else { s.sec with indexB := sigIndex s + 1 } := rfl
  rw [sigIndex, hsec]
  split
  · exact Nat.max_eq_left (Nat.le_succ_of_le hb)
  · exact Nat.max_eq_right (Nat.le_succ_of_le ha)

theorem signReport_of_refused {path e : Nat} {nonce : List Byte} (h : takeIndex flash s = .error e) :
    signReport path nonce flash s = .error e := by simp only [signReport, h]

theorem signReport_of_taken {path i : Nat} {nonce : List Byte} {t : State} (h : takeIndex flash s = .ok (i, t)) :
    signReport path nonce flash s = .ok (reportBody t path i nonce ++ padTo 2820 (Config.xmssSign i (reportBody t path i nonce)), t) := by
  simp only [signReport, h]

/-! ### DOE requests (R590) -/

variable {req : List Byte}

/-- R590: the state or the fields in which a DOE request is refused. -/
def doeBad (req : List Byte) (s : State) : Prop :=
  accepting s = false ∨ leAt req 1 3 ≠ 0 ∨ 2 < leAt req 0 1 ∨ req.length ≠ (if leAt req 0 1 = 0 then 36 else 4)

theorem doeRequest_of_linkless (h : s.hl.up = false ∨ s.hl.loss.isSome = true) : doeRequest req flash s = s := if_pos (by simpa using h)

section
variable (hup : s.hl.up = true) (hloss : s.hl.loss = none)
include hup hloss

theorem doeRequest_of_bad (h : doeBad req s) : doeRequest req flash s = doeAnswer 3 [] s :=
  (if_neg (by simp [hup, hloss])).trans (if_pos (by simpa [doeBad, or_assoc] using h))

variable (h : ¬doeBad req s)
include h

theorem doeRequest_of_good : doeRequest req flash s = match leAt req 0 1 with
    | 0 => match signReport 2 (req.drop 4) flash s with
      | .error e => doeAnswer e [] (indexRefused e s)
      | .ok (l, s) => doeAnswer 0 l s
    | 1 => doeAnswer 0 (certificate s) s
    | _ => doeAnswer 0 [] s :=
  (if_neg (by simp [hup, hloss])).trans (if_neg (by simpa [doeBad, or_assoc] using h))

end
end

/-- Settles O49: ATTEST by its operation, an index by what is left, a report by its index, a DOE request by its operation. -/
theorem attestation : Obligations.Attestation := by
  refine fun s => ⟨fun c hon => ⟨fun flash h => whileOn_next hon (attest_of_bad (attestBad_iff.mpr h)), fun flash h => ?_,
    fun hn nonce v ho hr => attestRun_of_report hn ho hr, attestRun_of_certificate, attestRun_of_index⟩,
    fun flash => ⟨takeIndex_of_used, takeIndex_of_failure, fun h => ⟨_, takeIndex_of_free h, sigIndex_indexTaken s⟩⟩,
    fun path nonce flash => ⟨fun e => signReport_of_refused, fun i t => signReport_of_taken⟩,
    fun req flash => ⟨fun h => next_of_eq (doeRequest_of_linkless h), fun hup hloss => ⟨fun h => next_of_eq (doeRequest_of_bad hup hloss h),
      fun h ho => ⟨fun e he => ?_, fun l t ht => ?_⟩, fun h ho => ?_, fun h ho => ?_⟩⟩⟩
  · refine ⟨_, ?_, ?_, whileOn_next hon (attest_of_good (mt attestBad_iff.mp h))⟩
    · split
      · exact .inl rfl
      · exact .inr rfl
    · exact fun hf => if_pos (by simp [hf])
  · exact next_of_eq ((doeRequest_of_good hup hloss h).trans (by simp only [ho, he]))
  · exact next_of_eq ((doeRequest_of_good hup hloss h).trans (by simp only [ho, ht]))
  · exact next_of_eq ((doeRequest_of_good hup hloss h).trans (by simp only [ho]))
  · exact next_of_eq ((doeRequest_of_good hup hloss h).trans (by simp only [ho]))

end Sys2Proof.Machine
end

-- The settling of the host link's family: training, host reads, configuration space and MSI-X vectors.
section

namespace Sys2Proof.Machine

/-! ### Training, retraining and inbound requests (R480, R483, R489, R573) -/

section
variable {s : State} {v w : Nat}

/-- R482: the link is down or a host-loss reset is under way. -/
theorem linkless_iff {s : State} : (!s.hl.up || s.hl.loss.isSome) = true ↔ s.hl.up = false ∨ s.hl.loss.isSome = true := by simp

theorem rateOk_iff : rateOk v w = true ↔ 1 ≤ v ∧ v ≤ 6 ∧ 1 ≤ w ∧ w ≤ 16 := by simp [rateOk, and_assoc]

theorem inboundUnsupported_of_nothing {p : Bool} (h : s.hl.up = false ∨ s.hl.loss.isSome = true ∨ p = true) : inboundUnsupported p s = s :=
  if_pos (by simpa [or_assoc] using h)

theorem linkRetrain_of_linkless {e : Bool} (h : s.hl.up = false ∨ s.hl.loss.isSome = true) : linkRetrain e v w s = s :=
  if_pos (linkless_iff.mpr h)

section
variable (hup : s.hl.up = true) (hloss : s.hl.loss = none)
include hup hloss

theorem not_linkless : ¬(!s.hl.up || s.hl.loss.isSome) = true := by simp [hup, hloss]

theorem inboundUnsupported_of_request : inboundUnsupported false s = hlEvent 4 (count Reg.HL_CNT_INBOUND_UR (aerSet 20 s)) :=
  if_neg (by simp [hup, hloss])

theorem linkRetrain_of_entry : linkRetrain false v w s = s.setHl { s.hl with retrain := true } := if_neg (not_linkless hup hloss)

/-- R489: a retrain that ends: its event, and what waited goes out. -/
theorem linkRetrain_of_end (hr : s.hl.retrain = true) (hok : rateOk v w = true) :
    linkRetrain true v w s =
      flushHost (hlEvent 0 (count Reg.HL_CNT_RETRAIN (linkRate v w (s.setHl { s.hl with retrain := false })))) :=
  (if_neg (not_linkless hup hloss)).trans ((if_neg (by simp)).trans (if_neg (by simp [hr, hok])))

theorem linkRetrain_of_no_end (h : s.hl.retrain = false ∨ ¬rateOk v w = true) : linkRetrain true v w s = s :=
  (if_neg (not_linkless hup hloss)).trans ((if_neg (by simp)).trans (if_pos (by simpa using h)))

end

theorem hostLinkTrained_of_down {flit cxl : Bool} (hup : s.hl.up = false) (hp : s.hl.perstLow = false) (hloss : s.hl.loss = none)
    (hpow : powered s = true) (hrom : s.sec.stage ≠ .rom) (hst : s.sec.stage ≠ .power) (hok : rateOk v w = true) :
    hostLinkTrained v w flit cxl s =
      let u := linkRate v w (s.setHl { s.hl with up := true, retrain := false })
      flushHost (configApply (regField Reg.HL_LINK_STAT 11 9 (b2n (flit || v == 6) + 2 + b2n cxl * 4) u)) :=
  if_neg (by simp [hup, hp, hloss, hpow, hrom, hst, hok])

theorem hostLinkTrained_of_other {flit cxl : Bool} (h : s.hl.up = true ∨ s.hl.perstLow = true ∨ s.hl.loss.isSome = true ∨ powered s = false ∨
    s.sec.stage = .rom ∨ s.sec.stage = .power) : hostLinkTrained v w flit cxl s = s := by
  refine if_pos ?_
  simp only [Bool.or_eq_true, Bool.not_eq_true', beq_iff_eq, or_assoc]
  exact h.imp_right (.imp_right (.imp_right (.imp_right (.imp_right .inl))))

/-! ### Host reads (R490) -/

section
variable {tag : Nat}

theorem hostReadCompletion_of_unknown {st : Nat} {data : List Byte} (h : hostReqOf s tag = none) : hostReadCompletion tag st data s = s := by
  simp only [hostReadCompletion, h]

theorem hostCplTimeout_of_unknown (h : hostReqOf s tag = none) : hostCplTimeout tag s = s := by simp only [hostCplTimeout, h]

variable {r : HostReq} (h : hostReqOf s tag = some r)
include h

theorem hostCplTimeout_of_read :
    hostCplTimeout tag s = hostReadEnds tag (.error .bus) (hlEvent 1 (count Reg.HL_CNT_CPL_TIMEOUT (aerSet 14 s))) := by
  simp only [hostCplTimeout, h]

variable {data : List Byte} (hup : s.hl.up = true) (hr : s.hl.retrain = false)
include hup hr

theorem hostReadCompletion_of_data (hd : data.length = r.bytes) :
    hostReadCompletion tag 0 data s = hostReadEnds tag (.ok data) (countN Reg.HL_CNT_RX_BYTES data.length s) := by
  simp [hostReadCompletion, h, hup, hr, hd]

/-- R490: Unsupported Request and Completer Abort. -/
theorem hostReadCompletion_of_refusal {st : Nat} (hst : st = 1 ∨ st = 2) :
    hostReadCompletion tag st data s = hostReadEnds tag (.error (refusedRead s)) (hlEvent 2 (count Reg.HL_CNT_UR_CA_RX s)) := by
  rcases hst with rfl | rfl <;> simp [hostReadCompletion, h, hup, hr]

theorem hostReadCompletion_of_poison :
    hostReadCompletion tag 3 data s = hostReadEnds tag (.error .bus) (hlEvent 3 (count Reg.HL_CNT_POISON_RX (aerSet 12 s))) := by
  simp [hostReadCompletion, h, hup, hr]

end

/-! ### Configuration space (R482) -/

section
variable {off value : Nat}

theorem configWrite_of_nothing {size : Nat}
    (h : s.hl.up = false ∨ s.hl.loss.isSome = true ∨ 4096 ≤ off ∨ 4 < off % 4 + size ∨ size = 0) : configWrite off size value s = s :=
  if_pos (by simpa [or_assoc] using h)

/-- R482: a configuration word with a new value, and what the part takes from it. -/
def configPut (off n : Nat) (s : State) : State := configApply (s.setHl { s.hl with config := mset (configReset off) s.hl.config off n })

/-- R482: what a write of a whole word leaves in it: its writable bits from the write, the others kept. -/
def configNew (off value : Nat) (s : State) : Nat :=
  configGet s off &&& ((2 ^ 32 - 1) ^^^ configMask off) ||| (setBits (configGet s off) 31 0 value &&& configMask off)

/-- A write of a whole word of configuration space. -/
theorem configWrite_word (hup : s.hl.up = true) (hloss : s.hl.loss = none) (hoff : off < 4096) (ha : off % 4 = 0) :
    configWrite off 4 value s =
      let new := if off = 0x104 ∨ off = 0x110 then configGet s off &&& ((2 ^ 32 - 1) ^^^ setBits 0 31 0 value) else configNew off value s
      let u := configPut off new s
      if off = 0x058 && bit (setBits 0 31 0 value) 15 then flr u
      else if off = 0x044 then (if bits new 1 0 = 3 then d3hotEntry u else if bits new 1 0 = 0 then d0Entry u else u)
      else u := by
  have hword : off / 4 * 4 = off := by omega
  simp only [configWrite, hword, configMerge, ha]
  exact if_neg (by simp [hup, hloss, hoff])

end

/-! ### D3hot (R542) -/

theorem d3hotEntry_of_other (h : s.hl.up = false ∨ s.hl.loss.isSome = true ∨ s.pwr.pstate ≠ .run) : d3hotEntry s = s :=
  if_pos (by simpa [or_assoc] using h)

theorem d3hotEntry_of_run (hup : s.hl.up = true) (hloss : s.hl.loss = none) (hp : s.pwr.pstate = .run) :
    d3hotEntry s = putPState .d3hot (
      let miss (u : State) (a : Armed) : State := syncMissed a (u.setFab { u.fab with armed := u.fab.armed.filter fun x => x.sync != a.sync })
      let u := s.fab.armed.foldl miss s
      (u.sched.nodes.map (·.ctx)).foldl (fun v c => preempt c true v) u) := if_neg (by simp [hup, hloss, hp])

theorem d0Entry_of_other (h : s.hl.loss.isSome = true ∨ s.pwr.pstate ≠ .d3hot) : d0Entry s = s :=
  if_neg fun hd => by
    obtain ⟨hloss, hp⟩ : s.hl.loss.isNone = true ∧ s.pwr.pstate = .d3hot := by simpa using hd
    rcases h with h | h
    · simp [Option.isNone_iff_eq_none.mp hloss] at h
    · exact h hp

theorem d0Entry_of_d3hot (hloss : s.hl.loss = none) (hp : s.pwr.pstate = .d3hot) : d0Entry s = putPState .run s :=
  if_pos (by simp [hloss, hp])

/-! ### MSI-X vectors (R485) -/

theorem vectors_of_disabled (h : s.hl.msixEnable = false ∨ isReady s = false) : raiseVector v s = s ∧ sendPending v s = s :=
  ⟨if_pos (by simpa using h), if_neg (by rcases h with h | h <;> simp [h])⟩

section
variable (he : s.hl.msixEnable = true) (hr : isReady s = true)
include he hr

/-- R485: a masked vector is kept pending. -/
theorem vectors_of_masked (h : s.hl.msixMask = true ∨ (msixOf s v).masked = true) :
    raiseVector v s = setMsix v { msixOf s v with pba := true } s ∧ sendPending v s = s :=
  ⟨(if_neg (by simp [he, hr])).trans (if_pos (by simpa using h)), if_neg (by rcases h with h | h <;> simp [h])⟩

variable (hm : s.hl.msixMask = false) (hv : (msixOf s v).masked = false)
include hm hv

theorem raiseVector_of_unmasked : raiseVector v s = count Reg.HL_CNT_MSIX (s.setHl { s.hl with vectors := s.hl.vectors ++ [v] }) :=
  (if_neg (by simp [he, hr])).trans (if_neg (by simp [hm, hv]))

theorem sendPending_of_pending (hp : (msixOf s v).pba = true) :
    sendPending v s =
      count Reg.HL_CNT_MSIX (setMsix v { msixOf s v with pba := false } (s.setHl { s.hl with vectors := s.hl.vectors ++ [v] })) :=
  if_pos (by simp [he, hr, hm, hv, hp])

end

theorem sendPending_of_nothing (hp : (msixOf s v).pba = false) : sendPending v s = s := if_neg (by simp [hp])

end

/-- Settles O50: each event by the link's state, a configuration write by its word (`configWrite_word`), a vector by its masks. -/
theorem hostLink : Obligations.HostLink := by
  refine ⟨fun s => ⟨fun a => rfl, fun p h => next_of_eq (inboundUnsupported_of_nothing h), fun hup hloss => ⟨?_, ?_, ?_, ?_⟩,
    fun e v w h => next_of_eq (linkRetrain_of_linkless h), ?_, fun v w flit cxl h => next_of_eq (hostLinkTrained_of_other h), ?_,
    fun tag r hon h => ⟨?_, fun hup hr data => ⟨?_, ?_, ?_⟩⟩⟩, fun s => ⟨?_, ?_, ?_, ?_, ?_, ?_, ?_, ?_, ?_, ?_⟩⟩
  · exact next_of_eq (inboundUnsupported_of_request hup hloss)
  · exact fun v w => next_of_eq (linkRetrain_of_entry hup hloss)
  · exact fun v w hr h1 h6 hw1 hw16 => next_of_eq (linkRetrain_of_end hup hloss hr (rateOk_iff.mpr ⟨h1, h6, hw1, hw16⟩))
  · exact fun v w h => next_of_eq (linkRetrain_of_no_end hup hloss (h.imp_right fun h => by rw [rateOk_iff]; omega))
  · exact fun v w flit cxl hup hp hloss hpow hrom hst h1 h6 hw1 hw16 =>
      next_of_eq (hostLinkTrained_of_down hup hp hloss hpow hrom hst (rateOk_iff.mpr ⟨h1, h6, hw1, hw16⟩))
  · exact fun tag hon h => ⟨fun st data => whileOn_next hon (hostReadCompletion_of_unknown h), whileOn_next hon (hostCplTimeout_of_unknown h)⟩
  · exact whileOn_next hon (hostCplTimeout_of_read h)
  · exact fun hd => whileOn_next hon (hostReadCompletion_of_data h hup hr hd)
  · exact fun st hst => whileOn_next hon (hostReadCompletion_of_refusal h hup hr hst)
  · exact whileOn_next hon (hostReadCompletion_of_poison h hup hr)
  · exact fun off size value h => next_of_eq (configWrite_of_nothing h)
  · intro off value hup hloss hoff ha put kept new
    have word := configWrite_word (value := value) hup hloss hoff ha
    refine ⟨fun h => ?_, fun h1 h2 h3 h4 => ?_, fun h => ?_, fun h => ?_⟩
    · have h58 : off ≠ 0x058 := by omega
      have h44 : off ≠ 0x044 := by omega
      exact next_of_eq (word.trans (by simp only [h, h58, h44, if_true, decide_false, Bool.false_and, Bool.false_eq_true, if_false]; rfl))
    · exact next_of_eq (word.trans (by simp only [h1, h2, h3, h4, or_self, decide_false, Bool.false_and, Bool.false_eq_true, if_false]; rfl))
    · subst h
      exact next_of_eq (word.trans (by simp only [decide_true, Bool.true_and, Nat.reduceEqDiff, or_self, if_false]; rfl))
    · subst h
      exact next_of_eq (word.trans (by simp only [Nat.reduceEqDiff, decide_false, Bool.false_and, Bool.false_eq_true, if_true, if_false, or_self]; rfl))
  · exact fun u => rfl
  · exact fun h => next_of_eq (d3hotEntry_of_other h)
  · exact fun h => next_of_eq (d0Entry_of_other h)
  · exact fun hloss hp => next_of_eq (d0Entry_of_d3hot hloss hp)
  · exact fun hup hloss hp => next_of_eq (d3hotEntry_of_run hup hloss hp)
  · exact fun v hserved hv => whileServed_next hserved (if_pos hv)
  · rintro v (h | h)
    · exact whileServed_of_not_served h
    · exact whileServed_of_nothing (if_neg (by omega))
  · exact fun v => ⟨vectors_of_disabled, fun he hr => ⟨vectors_of_masked he hr, fun hm hv =>
      ⟨raiseVector_of_unmasked he hr hm hv, sendPending_of_nothing, sendPending_of_pending he hr hm hv⟩⟩⟩

end Sys2Proof.Machine
end

-- The settling of the power family: the regulators of power and temperature.
section

namespace Sys2Proof.Machine

/-! ### The power cap (R548 to R551) -/

section
variable {s : State} {c : Cmd}

/-- R549: a POWER_CAP that is refused: reserved bits, or a cap outside 800 W to 2500 W that is not an empty slot's. -/
theorem powerCap_of_bad
    (h : bits (par c 0) 63 13 ≠ 0 ∨ (bit (par c 0) 12 = false ∧ (bits (par c 0) 11 0 < 800 ∨ 2500 < bits (par c 0) 11 0))) :
    powerCap c s = badPacket c 0 (startCmd c s) := if_pos (by simpa using h)

section
variable (h : ¬(bits (par c 0) 63 13 ≠ 0 ∨ (bit (par c 0) 12 = false ∧ (bits (par c 0) 11 0 < 800 ∨ 2500 < bits (par c 0) 11 0))))
include h

theorem powerCap_of_waiting (hc : c ∈ (startCmd c s).pwr.capCmds) : powerCap c s = startCmd c s :=
  (if_neg (by simpa using h)).trans (if_pos (by simpa using hc))

theorem powerCap_of_new (hc : c ∉ (startCmd c s).pwr.capCmds) :
    powerCap c s = setCap (capSlot c) (if bit (par c 0) 12 then 0 else bits (par c 0) 11 0)
      ((startCmd c s).setPwr { (startCmd c s).pwr with capCmds := (startCmd c s).pwr.capCmds ++ [c] }) :=
  (if_neg (by simpa using h)).trans (if_neg (by simpa using hc))

end

/-- R548: the cap that binds once a slot is looked at: the smaller one, and the first slot when none has bound. -/
def takeCap (a p : Nat × Nat) : Nat × Nat := if p.1 < a.1 || a.2 == 3 then p else a

theorem takeCap_le {a p : Nat × Nat} (hp : p.2 ≠ 3) : (takeCap a p).2 ≠ 3 ∧ (takeCap a p).1 ≤ p.1 ∧ (a.2 ≠ 3 → (takeCap a p).1 ≤ a.1) := by
  unfold takeCap
  split
  · next h =>
    refine ⟨hp, le_refl _, fun ha => ?_⟩
    have hlt : p.1 < a.1 := by simpa [ha] using h
    exact hlt.le
  · next h =>
    simp only [Bool.or_eq_true, decide_eq_true_eq, beq_iff_eq, not_or, Nat.not_lt] at h
    exact ⟨h.2, h.1, fun _ => le_refl _⟩

/-- Over the slots, what binds is no more than any of them, nor than what had bound before. -/
theorem foldl_takeCap_le {l : List (Nat × Nat)} (hl : ∀ p ∈ l, p.2 ≠ 3) : ∀ a, (a.2 ≠ 3 → (l.foldl takeCap a).1 ≤ a.1) ∧
    ∀ p ∈ l, (l.foldl takeCap a).1 ≤ p.1 := by
  induction l with
  | nil => exact fun a => ⟨fun _ => le_refl _, fun p hp => absurd hp List.not_mem_nil⟩
  | cons q l ih =>
    intro a
    obtain ⟨hslot, hq, ha⟩ := takeCap_le (a := a) (hl q List.mem_cons_self)
    obtain ⟨hfirst, hrest⟩ := ih (fun p hp => hl p (List.mem_cons_of_mem q hp)) (takeCap a q)
    refine ⟨fun h => (hfirst hslot).trans (ha h), fun p hp => ?_⟩
    rcases List.mem_cons.mp hp with rfl | hp
    · exact (hfirst hslot).trans hq
    · exact hrest p hp

/-- R548: the effective cap is no more than any cap held. -/
theorem capBinding_le (host mgr bmc : Nat) : ∀ w ∈ [host, mgr, bmc], w ≠ 0 → (capBinding host mgr bmc).1 ≤ w := by
  intro w hw h0
  have hslots : ∀ p ∈ [(host, 0), (mgr, 1), (bmc, 2)].filter fun p : Nat × Nat => p.1 != 0, p.2 ≠ 3 := by
    intro p hp
    rcases List.mem_filter.mp hp with ⟨hp, -⟩
    simp only [List.mem_cons, List.not_mem_nil, or_false] at hp
    rcases hp with rfl | rfl | rfl <;> simp
  obtain ⟨-, hle⟩ := foldl_takeCap_le hslots (2500, 3)
  have hheld (k : Nat) (hk : (w, k) ∈ [(host, 0), (mgr, 1), (bmc, 2)]) : (capBinding host mgr bmc).1 ≤ w :=
    hle (w, k) (List.mem_filter.mpr ⟨hk, bne_iff_ne.mpr h0⟩)
  simp only [List.mem_cons, List.not_mem_nil, or_false] at hw
  rcases hw with rfl | rfl | rfl
  · exact hheld 0 (by simp)
  · exact hheld 1 (by simp)
  · exact hheld 2 (by simp)

/-! ### The ramp governor (R544 to R546) -/

/-- R544, R545: the ballast takes up no more than the limit leaves beside the load, nor more than its capacity. -/
theorem governed_le (total target load : Nat) :
    (governed total target load).1 = min load (total + 40) ∧
    (governed total target load).1 + (governed total target load).2 ≤ total + 40 ∧ (governed total target load).2 ≤ 60000 := by
  dsimp only [governed, rampStep10ns]
  refine ⟨rfl, ?_, ?_⟩ <;> omega

theorem countN_pwr (o n : Nat) (s : State) : (countN o n s).pwr = s.pwr := by rw [countN_frame]; rfl

theorem rampGovernorTick_of_powered (h : powered s = true) (mv load held : Nat) :
    ∃ u : State, u.pwr.grove = min load (s.pwr.grove + s.pwr.ballast + 40) ∧
      u.pwr.grove + u.pwr.ballast ≤ s.pwr.grove + s.pwr.ballast + 40 ∧ u.pwr.ballast ≤ 60000 ∧
      rampGovernorTick mv load held s =
        powerFlags (if u.pwr.grove < load then countN Reg.PWR_CNT_RAMP_HOLD held (pwrEvent 5 u) else u) := by
  let v := dropRamps s
  let gb := governed (s.pwr.grove + s.pwr.ballast) (rampTarget v) load
  let mj := addEnergy v.pwr.mj (gb.2 * mv) 100000000000
  let j := addEnergy v.pwr.joule ((gb.1 + gb.2) * mv) 100000000000000
  let w := countN Reg.PWR_CNT_BALLAST_MJ mj.1 (countN Reg.PWR_CNT_ENERGY_J j.1
    (v.setPwr { v.pwr with grove := gb.1, ballast := gb.2, mj := mj.2, joule := j.2 }))
  let u := regField Reg.PWR_INPUT 31 16 ((gb.1 + gb.2) / 10) (regField Reg.PWR_INPUT 15 0 mv w)
  have hpwr : u.pwr = { v.pwr with grove := gb.1, ballast := gb.2, mj := mj.2, joule := j.2 } :=
    (countN_pwr _ _ _).trans (countN_pwr _ _ _)
  have hgrove : u.pwr.grove = gb.1 := by rw [hpwr]
  have hballast : u.pwr.ballast = gb.2 := by rw [hpwr]
  obtain ⟨hload, hsum, hcap⟩ := governed_le (s.pwr.grove + s.pwr.ballast) (rampTarget v) load
  refine ⟨u, hgrove.trans hload, hgrove ▸ hballast ▸ hsum, hballast ▸ hcap, (if_neg (by simp [h])).trans ?_⟩
  rw [hgrove]
  rfl

theorem prerampStart_of_none {k : Nat} (h : s.pwr.preramps[k]? = none) : prerampStart k s = s := by simp only [prerampStart, h]

theorem prerampStart_of_begun {k : Nat} {p} (h : s.pwr.preramps[k]? = some p) (hb : p.begun = true) : prerampStart k s = s := by
  simp only [prerampStart, h, hb, if_true]

theorem prerampStart_of_waiting {k : Nat} {p} (h : s.pwr.preramps[k]? = some p) (hb : p.begun = false) :
    prerampStart k s =
      let u := reachTime ((p.time + 2 ^ 64 - rampLead p.step) % 2 ^ 64) s
      u.setPwr { u.pwr with preramps := u.pwr.preramps.set k { p with begun := true } } := by
  simp only [prerampStart, h, hb, Bool.false_eq_true, if_false]

/-! ### Thermal duty (R553) -/

section
variable {d : Nat}

/-- R553: a sensor at 100.0 °C or more lowers the die's duty; the first step is an event. -/
theorem thermalDie_of_hot (h : anyAbove s (dieSensors d ++ (List.range 16).map (· + 32)) 1600 = true) :
    thermalDie d s =
      let u := putDuty d (max 8 (thermalDuty s d - 4)) (capDuty s d) s
      if thermalDuty s d = 64 then tracePower 1 (pwrEvent 0 u) else u := if_pos h

section
variable (h : anyAbove s (dieSensors d ++ (List.range 16).map (· + 32)) 1600 = false)
include h

theorem thermalDie_of_warm (hw : anyAbove s (dieSensors d) 1568 = true) : thermalDie d s = s := (if_neg (by simp [h])).trans (if_pos hw)

/-- R553: the die's duty rises; the step that reaches 64 is an event. -/
theorem thermalDie_of_cool (hw : anyAbove s (dieSensors d) 1568 = false) :
    thermalDie d s =
      let u := putDuty d (min 64 (thermalDuty s d + 4)) (capDuty s d) s
      if thermalDuty s d < 64 && 64 ≤ thermalDuty s d + 4 then tracePower 2 (pwrEvent 1 u) else u :=
  (if_neg (by simp [h])).trans (if_neg (by simp [hw]))

end

end

/-! ### Parking and unparking (R554) -/

section
variable {n : Nat}

theorem thermalPark_of_nothing
    (h : powered s = false ∨ 32 ≤ n ∨ mget 0 s.pwr.hot n = 0 ∨ n / 2 ∈ s.pwr.parked ∨ thermalDuty s (n / 16) ≠ 8) : thermalPark n s = s :=
  if_pos (by simpa [or_assoc] using h)

theorem reachTime_pwr (t : Nat) (s : State) : (reachTime t s).pwr = s.pwr := by unfold reachTime; split <;> rfl

/-- R554: the first park: 1 ms after the sensor began to read 102.0 °C. -/
theorem thermalPark_of_first (hp : powered s = true) (hn : n < 32) (ht : mget 0 s.pwr.hot n ≠ 0) (hr : n / 2 ∉ s.pwr.parked)
    (hd : thermalDuty s (n / 16) = 8) (hl : s.pwr.lastPark = 0) :
    thermalPark n s =
      let u := reachTime ((mget 0 s.pwr.hot n - 1 + 1000 * usUnits) % 2 ^ 64) s
      parkRow (n / 2) (u.setPwr { u.pwr with lastPark := u.now + 1 }) := by
  have hlast (t : Nat) : (reachTime t s).pwr.lastPark = 0 := by rw [reachTime_pwr, hl]
  simp only [thermalPark]
  rw [if_neg (by simp [hp, hn, ht, hr, hd]), if_pos (hlast _)]

theorem thermalUnpark_of_nothing
    (h : powered s = false ∨ (∀ r ∈ s.pwr.parked, r / 8 ≠ n) ∨ mget 0 s.pwr.cool n = 0) : thermalUnpark n s = s := by
  unfold thermalUnpark
  split
  · rfl
  · next r hr =>
    have hrow : r / 8 = n := by simpa using List.find?_some hr
    have hmem := List.mem_of_find?_eq_some hr
    rcases h with h | h | h
    · exact if_pos (by simp [h])
    · exact absurd hrow (h r hmem)
    · exact if_pos (by simp [h])

/-- R554: the first unpark: 10 ms after the die began to stay below 97.0 °C. -/
theorem thermalUnpark_of_first {r : Nat} (hp : powered s = true) (hr : (s.pwr.parked.find? fun r => r / 8 == n) = some r)
    (ht : mget 0 s.pwr.cool n ≠ 0) (hl : s.pwr.lastUnpark = 0) :
    thermalUnpark n s =
      let u := reachTime ((mget 0 s.pwr.cool n - 1 + 10000 * usUnits) % 2 ^ 64) s
      pwrEvent 3 (putParked (u.pwr.parked.erase r) (u.setPwr { u.pwr with lastUnpark := u.now + 1 })) := by
  have hlast (t : Nat) : (reachTime t s).pwr.lastUnpark = 0 := by rw [reachTime_pwr, hl]
  simp only [thermalUnpark, hr]
  rw [if_neg (by simp [hp, ht]), if_pos (hlast _)]

end

end

/-- Settles O55: each regulator by its sample (`governed_le`, `thermalDie_of_hot`, `thermalDie_of_cool`), the cap by its slots (`capBinding_le`). -/
theorem powerControl : Obligations.PowerControl := by
  refine fun s => ⟨?_, rfl, capBinding_le, ?_, ?_, ?_, ?_, ?_, ?_, ?_, ?_, ?_, ?_⟩
  · intro c hon u w bad
    exact ⟨fun h => whileOn_next hon (powerCap_of_bad h), fun h hc => whileOn_next hon (powerCap_of_waiting h hc),
      fun h hc => whileOn_next hon (powerCap_of_new h hc)⟩
  · exact fun h => ⟨fun a w => next_of_eq (if_pos (by simp [h])), fun a b c => next_of_eq (if_pos (by simp [h])),
      next_of_eq (if_neg (by simp [h])), fun n => next_of_eq (thermalPark_of_nothing (.inl h)),
      fun d => next_of_eq (thermalUnpark_of_nothing (.inl h))⟩
  · exact fun h avg withheld => next_of_eq (if_neg (by simp [h]))
  · intro h mv load held
    obtain ⟨u, hgrove, hsum, hcap, htick⟩ := rampGovernorTick_of_powered h mv load held
    exact ⟨u, hgrove, hsum, hcap, next_of_eq htick⟩
  · exact fun k hon => ⟨fun h => whileOn_next hon (prerampStart_of_none h), fun p h =>
      ⟨fun hb => whileOn_next hon (prerampStart_of_begun h hb), fun hb => whileOn_next hon (prerampStart_of_waiting h hb)⟩⟩
  · exact fun h => next_of_eq (if_pos h)
  · intro d old hot
    refine ⟨fun h ho => ?_, fun h ho => ?_, thermalDie_of_warm, fun h hw ho => ?_, fun h hw h60 h64 => ?_⟩
    · exact (thermalDie_of_hot h).trans (if_neg ho)
    · exact (thermalDie_of_hot h).trans ((if_pos ho).trans (by rw [show thermalDuty s d = 64 from ho]; rfl))
    · exact (thermalDie_of_cool h hw).trans (if_neg (by simp only [Bool.and_eq_true, decide_eq_true_eq]; omega))
    · have hmin : min 64 (thermalDuty s d + 4) = 64 := by omega
      exact (thermalDie_of_cool h hw).trans (by rw [hmin]; exact if_pos (by simp only [Bool.and_eq_true, decide_eq_true_eq]; omega))
  · exact fun n h => next_of_eq (thermalPark_of_nothing (.inr h))
  · intro n hp hn ht hr hd hl
    refine next_of_eq ((thermalPark_of_first hp hn ht hr hd hl).trans ?_)
    simp only [reachTime_pwr, hl, if_true]
  · exact fun d h => next_of_eq (thermalUnpark_of_nothing (.inr h))
  · exact fun d r hp hr ht hl => next_of_eq (thermalUnpark_of_first hp hr ht hl)

end Sys2Proof.Machine
end

-- The settling of the power family: power states, sensors and the sideband.
section

namespace Sys2Proof.Machine

/-! ### Input power and PLLs (R539 to R541, R561, R563) -/

section
variable {s : State}

theorem inrushDone_of_other {a : Nat} (h : s.pwr.pstate ≠ .off ∨ s.pwr.inrush = false) : inrushDone a s = s :=
  if_neg (by rcases h with h | h <;> simp [h])

theorem emergencyStop_of_unpowered {cause sensor : Nat} (h : powered s = false) : emergencyStop cause sensor s = s := if_pos (by simp [h])

theorem emergencyStop_of_powered {cause sensor : Nat} (h : powered s = true) :
    emergencyStop cause sensor s =
      clocksOff (putPState .stopped (persistent true (regPut Reg.PWR_STOP_CAUSE (cause + sensor * 8) (stopRecord s)))) :=
  if_neg (by simp [h])

theorem rootUnlock_eq :
    rootUnlock s =
      let u := regField Reg.CLK_STAT 0 0 0 s
      if s.pwr.pstate = .run then emergencyStop 6 0 u else u := by
  by_cases h : s.pwr.pstate = .run
  · rw [if_pos h]
    exact if_pos (beq_iff_eq.mpr h)
  · rw [if_neg h]
    exact if_neg fun he => h (beq_iff_eq.mp he)

theorem pllLock_of_powered {pll : Nat} (h : powered s = true) (hp : pll ≤ 4) :
    pllLock pll s = startTraining (regOr Reg.CLK_STAT (1 <<< (if pll = 0 then 0 else pll + 1)) s) := if_neg (by simpa [h] using hp)

/-! ### Sensors (R552, R555) -/

/-- R552: the reading of sensor `n`, where one was sampled. -/
def readSensor (temps : List Nat) (s : State) (n : Nat) : State :=
  match temps[n]? with
  | some t => regPut (Reg.THM_SENSOR n) (t % 2 ^ 16 + 2 ^ 16) s
  | none => s

/-- R552: the readings of the first `k` sensors. -/
def readSensors (temps : List Nat) (k : Nat) (s : State) : State := (List.range k).foldl (readSensor temps) s

theorem readSensors_succ (temps : List Nat) (k : Nat) (s : State) : readSensors temps (k + 1) s = readSensor temps (readSensors temps k s) k := by
  simp only [readSensors, List.range_succ, List.foldl_append, List.foldl_cons, List.foldl_nil]

section
variable {temps : List Nat} {k n o : Nat}

theorem readSensor_frame : readSensor temps s n = s.setRegs (readSensor temps s n).regs := by unfold readSensor; split <;> rfl

theorem readSensor_wf (h : Registers.wf s.regs = true) : Registers.wf (readSensor temps s n).regs = true := by
  unfold readSensor
  split
  · exact Registers.wf_mset _ _ h
  · exact h

theorem readSensor_ne (h : o ≠ Reg.THM_SENSOR n) : regGet (readSensor temps s n) o = regGet s o := by
  unfold readSensor
  split
  · exact regGet_regPut_ne _ h
  · rfl

theorem readSensor_same {t : Nat} (hs : Registers.wf s.regs = true) (h : temps[n]? = some t) :
    regGet (readSensor temps s n) (Reg.THM_SENSOR n) = t % 2 ^ 16 + 2 ^ 16 := by
  simp only [readSensor, h]
  rw [regGet_regPut _ _ hs]
  omega

theorem readSensors_frame : readSensors temps k s = s.setRegs (readSensors temps k s).regs := by
  induction k with
  | zero => rfl
  | succ k ih => rw [readSensors_succ, readSensor_frame, ih]; rfl

theorem readSensors_wf (h : Registers.wf s.regs = true) : Registers.wf (readSensors temps k s).regs = true := by
  induction k with
  | zero => exact h
  | succ k ih => rw [readSensors_succ]; exact readSensor_wf ih

theorem readSensors_ne (h : ∀ n, n < k → o ≠ Reg.THM_SENSOR n) : regGet (readSensors temps k s) o = regGet s o := by
  induction k with
  | zero => rfl
  | succ k ih => rw [readSensors_succ, readSensor_ne (h k (by omega)), ih fun n hn => h n (by omega)]

/-- R552: each sensor's register keeps its own reading: the readings after it go elsewhere. -/
theorem readSensors_same {t : Nat} (hs : Registers.wf s.regs = true) (hn : n < k) (h : temps[n]? = some t) :
    regGet (readSensors temps k s) (Reg.THM_SENSOR n) = t % 2 ^ 16 + 2 ^ 16 := by
  induction k with
  | zero => omega
  | succ k ih =>
    rw [readSensors_succ]
    by_cases hk : n = k
    · subst hk
      exact readSensor_same (readSensors_wf hs) h
    · rw [readSensor_ne (by simp only [Reg.THM_SENSOR]; omega), ih (by omega)]

/-- R552, R554: the state after a sample: the readings, and since when each sensor is hot and each die cool. -/
def sampled (temps : List Nat) (s : State) : State :=
  let u := readSensors temps 48 s
  u.setPwr { u.pwr with
    hot := (List.range 32).foldl (fun l n => since l n (anyAbove u [n] 1632) u.now) u.pwr.hot
    cool := [0, 1].foldl (fun l d => since l d ((dieSensors d).all fun n => match sensorTemp u n with
      | some x => decide (x < 1552)
      | none => false) u.now) u.pwr.cool }

theorem sampled_frame :
    sampled temps s = (s.setRegs (sampled temps s).regs).setPwr
      { s.pwr with hot := (sampled temps s).pwr.hot, cool := (sampled temps s).pwr.cool } := by
  unfold sampled
  generalize hu : readSensors temps 48 s = u
  have hf : u = s.setRegs u.regs := hu ▸ readSensors_frame
  rw [hf]
  rfl

theorem sensorReadTick_of_powered (h : powered s = true) :
    sensorReadTick temps s = match (List.range 48).find? fun n => anyAbove (sampled temps s) [n] 1680 with
      | some n => emergencyStop 4 n (sampled temps s)
      | none => sampled temps s := if_neg (by simp [h])

theorem sensorReadTick_of_cool (h : powered s = true) (hc : ∀ n, n < 48 → anyAbove (sampled temps s) [n] 1680 = false) :
    sensorReadTick temps s = sampled temps s := by
  rw [sensorReadTick_of_powered h, List.find?_eq_none.mpr fun n hn => by simp [hc n (List.mem_range.mp hn)]]

/-- R555: the first sensor at 105.0 °C or more stops the part. -/
theorem sensorReadTick_of_hot (h : powered s = true) (hn : n < 48) (hh : anyAbove (sampled temps s) [n] 1680 = true)
    (hfirst : ∀ m, m < n → anyAbove (sampled temps s) [m] 1680 = false) :
    sensorReadTick temps s = emergencyStop 4 n (sampled temps s) := by
  have hfind : ((List.range 48).find? fun n => anyAbove (sampled temps s) [n] 1680) = some n :=
    List.find?_range_eq_some.mpr ⟨hh, List.mem_range.mpr hn, fun m hm => by simp [hfirst m hm]⟩
  rw [sensorReadTick_of_powered h, hfind]

end

/-! ### RESTART (R558) -/

section
variable {high : Bool} {mv : Nat} {temps : List Nat}

theorem mayRestart_iff : mayRestart high mv temps = true ↔ high = true ∧ 40000 ≤ mv ∧ mv ≤ 48000 ∧ ∀ t ∈ temps, sext t 16 < 1520 := by
  simp [mayRestart, and_assoc]

theorem restart_of_stopped (h : s.pwr.pstate = .stopped) (hm : mayRestart high mv temps = true) :
    restart high mv temps s = putPState .standby (putStage .rom (sideAnswer (some []) s)) :=
  if_pos (by simp [sideAnswer, h, hm])

theorem restart_of_other (h : s.pwr.pstate ≠ .stopped ∨ ¬mayRestart high mv temps = true) : restart high mv temps s = sideAnswer (some []) s :=
  if_neg (by rcases h with h | h <;> simp [sideAnswer, h])

end

/-! ### The sideband (R568, R569) -/

section
variable {pec : Bool}

section
variable {f : State → Option (List Byte)}

theorem sidebandRead_of_off (h : s.pwr.pstate = .off) : sidebandRead pec f s = .next s := next_of_eq (if_neg (by simp [hasStandby, h]))

/-! The transactions that read, by what they read. -/

section
variable {n : Nat}

theorem exec_ident : exec (.ident pec) s = sidebandRead pec (fun s => some (identBytes s)) s := rfl
theorem exec_telemetry : exec (.telemetry pec) s = sidebandRead pec (fun s => some (telemetryBytes s)) s := rfl
theorem exec_sensor : exec (.sensor pec n) s = sidebandRead pec (fun s => if n < 48 then some (leBytes 4 (regGet s (Reg.THM_SENSOR n))) else none) s := rfl
theorem exec_capGet : exec (.capGet pec) s = sidebandRead pec (fun s => some (leBytes 2 (effectiveCap s))) s := rfl
theorem exec_events : exec (.events pec) s = sidebandRead pec (fun s => some (leBytes 2 (eventsWord s))) s := rfl
theorem exec_crash : exec (.crash pec n) s = sidebandRead pec (fun s => if n < 8 then some (crashBytes s n) else none) s := rfl
theorem exec_smbusAlertResponse :
    exec .smbusAlertResponse s = sidebandRead true (fun s => if alert s then some [BitVec.ofNat 8 (smbAddress s * 2)] else none) s := rfl

/-! The transactions that write, by what they do. -/

theorem exec_capSet : exec (.capSet pec n) s = sideWrite pec (bmcCap n) s := rfl
theorem exec_eventsClear : exec (.eventsClear pec n) s = sideWrite pec (eventsClear n) s := rfl
theorem exec_crashClear : exec (.crashClear pec) s = sideWrite pec (fun s => sideAnswer (some []) (crashClear s)) s := rfl

end

theorem sidebandRead_of_standby (h : s.pwr.pstate ≠ .off) : sidebandRead pec f s = .next (sideAnswer (if pec then f s else none) s) :=
  next_of_eq (if_pos (by simp [hasStandby, h]))

/-- R568: a read whose answer is known. -/
theorem sidebandRead_answer {a : Option (List Byte)} (h : s.pwr.pstate ≠ .off) (ha : f s = a) : sidebandRead true f s = .next (sideAnswer a s) :=
  ha ▸ sidebandRead_of_standby h

end

variable {f : State → State}

theorem sideWrite_of_nothing (h : s.pwr.pstate = .off ∨ pec = false) : sideWrite pec f s = .next s :=
  next_of_eq (if_neg (by rcases h with h | h <;> simp [hasStandby, h]))

theorem sideWrite_of_standby {t : State} (h : s.pwr.pstate ≠ .off) (ht : f s = t) : sideWrite true f s = .next t :=
  next_of_eq ((if_pos (by simp [hasStandby, h])).trans ht)

end

theorem bmcCap_of_cap {w : Nat} (h : w = 0 ∨ (800 ≤ w ∧ w ≤ 2500)) : bmcCap w s = sideAnswer (some []) (setCap 2 w s) := if_pos h

theorem bmcCap_of_other {w : Nat} (h0 : w ≠ 0) (h : w < 800 ∨ 2500 < w) : bmcCap w s = sideAnswer none s := if_neg (by omega)

theorem eventsWord_eq : eventsWord s = regGet s Reg.PWR_EVENTS + if s.pwr.pstate = .stopped then 2 ^ 15 else 0 := by
  by_cases h : s.pwr.pstate = .stopped <;> simp [eventsWord, b2n, h]

theorem alert_iff : alert s = true ↔ regGet s Reg.PWR_EVENTS ≠ 0 ∨ s.pwr.pstate = .stopped := by simp [alert]

end

/-- Settles O54: the power states by the part's state, a sample by its readings (`readSensors_same`), a transaction by its PEC and its operand. -/
theorem powerAndSideband : Obligations.PowerAndSideband := by
  refine ⟨fun s => ⟨fun h => next_of_eq (if_pos (by simp [h])), fun h => ⟨next_of_eq (if_neg (by simp [h])), fun a => next_of_eq (inrushDone_of_other (.inl h))⟩,
    fun h a => next_of_eq (inrushDone_of_other (.inr h)), fun h hi a => next_of_eq (if_pos (by simp [h, hi])), rfl, rfl, rfl, rfl, rfl,
    fun cause sensor => ⟨emergencyStop_of_unpowered, emergencyStop_of_powered⟩, next_of_eq rootUnlock_eq, ?_, ?_, ?_, ?_, ?_⟩,
    fun s => ⟨?_, ?_, ?_⟩⟩
  · exact fun pll h => next_of_eq (if_pos (by simpa using h))
  · refine fun h => ⟨next_of_eq (pllLock_of_powered h (by omega)), fun pll h1 h4 => next_of_eq ((pllLock_of_powered h h4).trans ?_)⟩
    rw [if_neg (by omega)]
  · exact fun q hon => ⟨fun h => whileOn_next hon (if_pos h), fun h => whileOn_next hon (if_neg (by omega))⟩
  · refine fun temps => ⟨fun h => next_of_eq (if_pos (by simp [h])), fun h => ⟨sampled temps s, sampled_frame, ?_, ?_, ?_, ?_⟩⟩
    · exact fun hs n t hn ht => readSensors_same hs hn ht
    · exact fun o ho => readSensors_ne ho
    · exact fun hc => next_of_eq (sensorReadTick_of_cool h hc)
    · exact fun n hn hh hfirst => next_of_eq (sensorReadTick_of_hot h hn hh hfirst)
  · intro high mv temps u go
    refine ⟨fun h => sideWrite_of_nothing (.inl h), fun h hgo => ?_, fun h hgo => ?_, fun hoff h => ?_, sideWrite_of_nothing (.inr rfl)⟩
    · exact sideWrite_of_standby (by simp [h]) (restart_of_stopped h (mayRestart_iff.mpr hgo))
    · exact sideWrite_of_standby (by simp [h]) (restart_of_other (.inr fun hm => hgo (mayRestart_iff.mp hm)))
    · exact sideWrite_of_standby hoff (restart_of_other (.inl h))
  · intro h pec n
    simp only [exec_ident, exec_telemetry, exec_sensor, exec_capGet, exec_events, exec_crash, exec_smbusAlertResponse, sidebandRead_of_off h,
      exec_capSet, exec_eventsClear, exec_crashClear, sideWrite_of_nothing (.inl h), and_self]
  · intro h n
    simp only [exec_ident, exec_telemetry, exec_sensor, exec_capGet, exec_events, exec_crash, sidebandRead_of_standby h, Bool.false_eq_true, if_false,
      exec_capSet, exec_eventsClear, exec_crashClear, sideWrite_of_nothing (.inr rfl), and_true]
    exact ⟨rfl, rfl, rfl, rfl, rfl, rfl⟩
  · intro h
    refine ⟨exec_ident.trans (sidebandRead_answer h rfl), exec_telemetry.trans (sidebandRead_answer h rfl),
      fun n hn => exec_sensor.trans (sidebandRead_answer h (if_pos hn)), fun n hn => exec_sensor.trans (sidebandRead_answer h (if_neg (by omega))),
      exec_capGet.trans (sidebandRead_answer h rfl), fun w hw => exec_capSet.trans (sideWrite_of_standby h (bmcCap_of_cap hw)),
      fun w h0 hw => exec_capSet.trans (sideWrite_of_standby h (bmcCap_of_other h0 hw)),
      exec_events.trans (sidebandRead_answer h (congrArg (fun w => some (leBytes 2 w)) eventsWord_eq)),
      fun v => exec_eventsClear.trans (sideWrite_of_standby h rfl), fun n hn => exec_crash.trans (sidebandRead_answer h (if_pos hn)),
      fun n hn => exec_crash.trans (sidebandRead_answer h (if_neg (by omega))), exec_crashClear.trans (sideWrite_of_standby h rfl),
      fun ha => exec_smbusAlertResponse.trans (sidebandRead_answer h (if_pos (alert_iff.mpr ha))),
      fun h0 hp => exec_smbusAlertResponse.trans (sidebandRead_answer h (if_neg (by simp [alert_iff, h0, hp])))⟩

end Sys2Proof.Machine
end

-- The settling of the integrity family: weight digests and probes.
section

namespace Sys2Proof.Machine

/-! ### DIGEST_REGION (R502 to R505) -/

section
variable {s : State}

section
variable {c : Cmd}

theorem digestBad_iff :
    digestBad c = true ↔ 2 ^ 40 < par c 1 ∨ par c 1 = 0 ∨ bits (par c 1) 63 41 ≠ 0 ∨ bit (par c 0) 56 = false ∨ (par c 2 = 0 ∧ par c 3 = 0) ∨
      par c 2 % 16 ≠ 0 ∨ par c 3 % 16 ≠ 0 := by
  simp only [digestBad, Bool.or_eq_true, Bool.and_eq_true, bne_iff_ne, beq_iff_eq, decide_eq_true_eq, Bool.not_eq_true']
  tauto

theorem digestRegion_of_bad (h : digestBad c = true) : digestRegion c s = badPacket c 0 (startCmd c s) := if_pos h

theorem digestRegion_of_digest {m e : Bool} {v : State} (h : ¬digestBad c = true) (hd : digestAcc c (startCmd c s) = .ok ((m, e), v)) :
    digestRegion c s =
      let w := countN Reg.INT_CNT_DIGEST_BYTES (par c 1) (count Reg.INT_CNT_DIGEST (clearWork (.cmd c) v))
      completeOk c (b2n m + 2 * b2n e) (if e then count Reg.INT_CNT_DIGEST_MISMATCH w else w) :=
  (if_neg h).trans (runAcc_of_ok hd)

end

/-! ### Probes (R506 to R508) -/

section
variable {k : Nat}

theorem probeStart_of_busy (h : mayProbe s k = false) : probeStart k s = s := if_pos (by simp [h])

theorem mayProbe_false (h : 128 ≤ k ∨ isReady s = false ∨ bit (regGet s Reg.PRB_CFG) 0 = false ∨ isParked s k = true ∨ isQuarantined s k = true ∨
    bit (regGet s Reg.PWR_STAT) 3 = true ∨ (groveOf s k).tiles ≠ [] ∨ ∃ r ∈ s.prb.runs, r.grove = k) : mayProbe s k = false := by
  rw [Bool.eq_false_iff]
  simp only [ne_eq, mayProbe, Bool.and_eq_true, Bool.not_eq_true', List.isEmpty_iff, List.any_eq_false, beq_iff_eq, decide_eq_true_eq]
  rintro ⟨⟨⟨⟨⟨⟨⟨hready, hcfg⟩, hpark⟩, hquar⟩, hstat⟩, htiles⟩, hruns⟩, hk⟩
  rcases h with h | h | h | h | h | h | h | ⟨r, hr, h⟩
  · omega
  · simp [h] at hready
  · simp [h] at hcfg
  · simp [h] at hpark
  · simp [h] at hquar
  · simp [h] at hstat
  · exact h htiles
  · exact hruns r hr h

section
variable (hm : mayProbe s k = true)
include hm

/-- R506: a Grove that no pair awaits, and that is none of the next pair, starts no run. -/
theorem probeStart_of_none (hown : (s.prb.pairs.map (pairMoved s)).find? (pairAwaits k) = none) (hf : pairAwaits k (probePair s s.prb.next) = false) :
    probeStart k s = s := by
  simp only [probeStart, hm, hown, hf, Bool.not_true, Bool.false_eq_true, if_false]

variable (hlast : mget 0 s.prb.last k = 0)
include hlast

theorem probeStart_of_own {p : ProbePair} (hown : (s.prb.pairs.map (pairMoved s)).find? (pairAwaits k) = some p) :
    probeStart k s = s.setPrb { s.prb with
      pairs := s.prb.pairs.map (pairMoved s), runs := s.prb.runs ++ [{ grove := k, n := p.n }], last := mset 0 s.prb.last k (s.now + 1) } := by
  simp only [probeStart, hm, hown, hlast, Bool.not_true, Bool.false_eq_true, if_false, if_true]
  rfl

theorem probeStart_of_fresh (hown : (s.prb.pairs.map (pairMoved s)).find? (pairAwaits k) = none) (hf : pairAwaits k (probePair s s.prb.next) = true) :
    probeStart k s = s.setPrb { s.prb with
      pairs := s.prb.pairs.map (pairMoved s) ++ [probePair s s.prb.next], runs := s.prb.runs ++ [{ grove := k, n := s.prb.next }],
      next := (s.prb.next + 1) % 2 ^ 32, last := mset 0 s.prb.last k (s.now + 1) } := by
  simp only [probeStart, hm, hown, hf, hlast, Bool.not_true, Bool.false_eq_true, if_false, if_true]
  rfl

end

theorem probeRunEnd_of_none {errors : List (Nat × Nat)} (h : ∀ r ∈ s.prb.runs, r.grove ≠ k) : probeRunEnd k errors s = s := by
  have hfind : (s.prb.runs.find? fun r => r.grove == k) = none := List.find?_eq_none.mpr fun r hr => by simpa using h r hr
  simp only [probeRunEnd, hfind]

/-- R214: a check leaves what a tile's signatures are of: only its outcome is recorded in the tile. -/
theorem probeSig_of_tileCheck {t t' : Tile} {v : State} (h : tileCheck k t s = (t', v)) (L : Nat) : probeSig t' L = probeSig t L := by
  rw [show t' = (tileCheck k t s).1 from (congrArg Prod.fst h).symm]
  rfl

section
variable {errors : List (Nat × Nat)} {r : ProbeRun} {t : Tile} {v : State} (hr : (s.prb.runs.find? fun r => r.grove == k) = some r)
  (hcheck : tileCheck k (probeRun (regGet s Reg.PRB_SEED) r.n)
    (s.setPrb { s.prb with runs := s.prb.runs.filter fun x => x.grove != k }) = (t, v))
include hr hcheck

theorem probeRunEnd_of_mismatch (h : t.checked = false) : probeRunEnd k errors s = t.retry.foldl (fun x P => latStrike k P x) v := by
  rw [probeRunEnd_of hr, probeChecked_of hcheck, h, Bool.not_false, if_pos rfl]

theorem probeRunEnd_of_checked (h : t.checked = true) :
    probeRunEnd k errors s =
      probeEnded k r.n ((List.range 16).map fun L => ((errors.find? fun e => e.1 == L).map (·.2)).getD (probeSig t L)) (count Reg.INT_CNT_PROBE_RUN v) := by
  simp only [probeSig_of_tileCheck hcheck]
  rw [probeRunEnd_of hr, probeChecked_of hcheck, h, Bool.not_true, if_neg Bool.false_ne_true]

end

end

section
variable {n : Nat}

theorem probeExpire_of_none (h : ∀ p ∈ s.prb.pairs, p.n ≠ n) : probeExpire n s = s := by
  have hfind : (s.prb.pairs.find? fun p => p.n == n) = none := List.find?_eq_none.mpr fun p hp => by simpa using h p hp
  simp only [probeExpire, hfind]

variable {p : ProbePair} (hfind : (s.prb.pairs.find? fun p => p.n == n) = some p)
include hfind

/-- R508: a pair with no run ended, or with a third run, does not expire. -/
theorem probeExpire_of_waiting (h : p.firstEnd = none ∨ p.c.isSome = true) : probeExpire n s = s := by
  simp only [probeExpire, hfind]
  rcases h with h | h
  · simp only [h]
  · obtain ⟨c, hc⟩ := Option.isSome_iff_exists.mp h
    rw [hc]
    cases p.firstEnd <;> rfl

theorem probeExpire_of_ended {t : Nat} (ht : p.firstEnd = some t) (hc : p.c = none) :
    probeExpire n s =
      let u := reachTime ((t + bits (regGet s Reg.PRB_CFG) 31 24 * 1000 * usUnits) % 2 ^ 64) s
      count Reg.INT_CNT_PROBE_EXPIRED (u.setPrb { u.prb with pairs := u.prb.pairs.filter fun q => q.n != n, runs := u.prb.runs.filter fun r => r.n != n }) := by
  simp only [probeExpire, hfind, ht, hc]

end

end

/-- Settles O52: a digest by its packet, a probe's start by the pair that awaits the Grove, its end by the residue check (`probeChecked_of`). -/
theorem digestsAndProbes : Obligations.DigestsAndProbes := by
  refine fun s hon => ⟨?_, fun k h => whileOn_next hon (probeStart_of_busy (mayProbe_false h)), ?_, ?_, ?_⟩
  · intro c u bad
    exact ⟨fun h => whileOn_next hon (digestRegion_of_bad (digestBad_iff.mpr h)),
      fun h m e v hd => whileOn_next hon (digestRegion_of_digest (fun hb => h (digestBad_iff.mp hb)) hd)⟩
  · exact fun k hm hlast => ⟨fun p hown => whileOn_next hon (probeStart_of_own hm hlast hown),
      fun hown hf => whileOn_next hon (probeStart_of_none hm hown hf), fun hown hf => whileOn_next hon (probeStart_of_fresh hm hlast hown hf)⟩
  · refine fun k errors => ⟨fun h => whileOn_next hon (probeRunEnd_of_none h), fun r hr => ?_⟩
    intro u t v hcheck
    exact ⟨fun h => whileOn_next hon (probeRunEnd_of_mismatch hr hcheck h), fun h => whileOn_next hon (probeRunEnd_of_checked hr hcheck h)⟩
  · exact fun n => ⟨fun h => whileOn_next hon (probeExpire_of_none h), fun p hfind h => whileOn_next hon (probeExpire_of_waiting hfind h),
      fun p t hfind ht hc => whileOn_next hon (probeExpire_of_ended hfind ht hc)⟩

end Sys2Proof.Machine
end

-- The settling of the observability family: counters, the trace and tensor dumps.
section

namespace Sys2Proof.Machine

/-! ### Event selectors (R517) -/

section
variable {s : State}

section
variable {u i value : Nat}

theorem evtSelWrite_of_no_counter (h : 140 < u ∨ 7 < i) : evtSelWrite u i value s = s :=
  if_neg (by simp only [Bool.and_eq_true, decide_eq_true_eq]; omega)

theorem evtSelWrite_of_refused (hu : u ≤ 140) (hi : i ≤ 7) (h : evtListed u (bits value 7 0) = false ∨ bits value 63 55 ≠ 0) :
    evtSelWrite u i value s = count Reg.OBS_CNT_SEL_REFUSED s :=
  (if_pos (by simp [hu, hi])).trans (if_pos (by simpa using h))

theorem evtSelWrite_of_listed (hu : u ≤ 140) (hi : i ≤ 7) (h : evtListed u (bits value 7 0) = true) (h0 : bits value 63 55 = 0) :
    evtSelWrite u i value s = regPut (Reg.EVT_CNT u i) 0 (regPut (Reg.EVT_SEL u i) value s) :=
  (if_pos (by simp [hu, hi])).trans (if_neg (by simp [h, h0]))

end

/-! ### What an action does to the frozen view (R519) -/

theorem countN_obs (o n : Nat) (s : State) : (countN o n s).obs = s.obs := by rw [countN_frame]; rfl

theorem tracePush_frozen (limit : Nat) (r : TraceRec) (s : State) : (tracePush limit r s).obs.frozen = s.obs.frozen := by
  unfold tracePush
  dsimp only
  split
  · rfl
  · exact (congrArg Obs.frozen (countN_obs _ 1 _)).trans rfl

theorem traceFire_frozen (kind b : Nat) (s : State) : (traceFire kind b s).obs.frozen = s.obs.frozen := by
  unfold traceFire
  dsimp only
  split
  · rfl
  · exact tracePush_frozen ..

/-- R526: a trigger of the trace leaves the frozen view, whether it fires or not. -/
theorem ite_traceFire_frozen {p : Prop} [Decidable p] (kind b : Nat) (s : State) :
    (if p then traceFire kind b s else s).obs.frozen = s.obs.frozen := by
  split
  · exact traceFire_frozen ..
  · rfl

section
variable {a : CounterAct} {late : Bool}

theorem counterAct_frozen_of_thaw (h : a.op = 0) : (counterAct a late s).obs.frozen = none := by
  simp only [counterAct, h]
  exact ite_traceFire_frozen ..

/-- R519: a freeze latches the registers, unless they are latched. -/
theorem counterAct_frozen_of_freeze (h : a.op = 1) : (counterAct a late s).obs.frozen = some (s.obs.frozen.getD s.regs) := by
  simp only [counterAct, h]
  refine (ite_traceFire_frozen ..).trans ?_
  change (if _ then _ else _ : State).obs.frozen = _
  split
  · next hf =>
    obtain ⟨r, hr⟩ := Option.isSome_iff_exists.mp hf
    rw [hr]
    rfl
  · next hf =>
    rw [Option.not_isSome_iff_eq_none.mp hf]
    exact (congrArg Obs.frozen (countN_obs _ 1 _)).trans rfl

theorem counterAct_frozen_of_other (h : 2 ≤ a.op) : (counterAct a late s).obs.frozen = s.obs.frozen := by
  obtain ⟨n, hn⟩ := Nat.exists_eq_add_of_le' h
  simp only [counterAct, hn]
  exact ite_traceFire_frozen ..

end

/-! ### Freezes and their times (R518 to R521) -/

section
variable {c : Cmd}

theorem freezeBad_iff {u : State} :
    freezeBad u c = true ↔ bits (par c 0) 1 0 = 3 ∨ bits (par c 0) 31 3 ≠ 0 ∨ bits (par c 0) 63 62 ≠ 0 ∨
      (bit (par c 0) 2 = true ∧ (u.fab.role ≠ .manager ∨ (par c 1 + 2 ^ 64 - u.now) % 2 ^ 64 < 20 * usUnits ∨
        10000000 * usUnits < (par c 1 + 2 ^ 64 - u.now) % 2 ^ 64)) := by
  simp only [freezeBad, Bool.or_eq_true, Bool.and_eq_true, beq_iff_eq, bne_iff_ne, decide_eq_true_eq, or_assoc]

theorem counterFreeze_of_scheduled (h : ∃ x ∈ (startCmd c s).obs.acts, x.cmd = some c) : counterFreeze c s = startCmd c s :=
  if_pos (by simpa using h)

section
variable (hnew : ∀ x ∈ (startCmd c s).obs.acts, x.cmd ≠ some c)
include hnew

theorem not_scheduled : ¬((startCmd c s).obs.acts.any fun a => a.cmd == some c) = true := by simpa using hnew

theorem counterFreeze_of_bad (h : freezeBad (startCmd c s) c = true) : counterFreeze c s = badPacket c 0 (startCmd c s) :=
  (if_neg (not_scheduled hnew)).trans (if_pos h)

variable (h : ¬freezeBad (startCmd c s) c = true)
include h

theorem counterFreeze_of_now (ht : par c 1 = 0 ∨ ahead (startCmd c s) (par c 1) = false) :
    counterFreeze c s = counterActDone { cmd := some c, op := bits (par c 0) 1 0, id := bits (par c 0) 61 32, time := par c 1 } (startCmd c s) :=
  (if_neg (not_scheduled hnew)).trans ((if_neg h).trans (if_neg (by rcases ht with ht | ht <;> simp [ht])))

/-- R519, R520: an action at a later time; of a domain's, every member is told. -/
theorem counterFreeze_of_later (h0 : par c 1 ≠ 0) (ht : ahead (startCmd c s) (par c 1) = true) :
    counterFreeze c s =
      let a : CounterAct := { cmd := some c, op := bits (par c 0) 1 0, id := bits (par c 0) 61 32, time := par c 1 }
      let v := (startCmd c s).setObs { (startCmd c s).obs with acts := (startCmd c s).obs.acts ++ [a] }
      if bit (par c 0) 2 then send 0xFFFF (.syncTrigger (par c 1) (bits (par c 0) 61 32 + bits (par c 0) 1 0 * 2 ^ 30)) v else v :=
  (if_neg (not_scheduled hnew)).trans ((if_neg h).trans (if_pos (by simp [h0, ht])))

end

section
variable {k : Nat}

theorem freezeTime_of_none (h : s.obs.acts[k]? = none) : freezeTime k s = s := by simp only [freezeTime, h]

variable {a : CounterAct} (h : s.obs.acts[k]? = some a)
include h

theorem freezeTime_of_trigger (hc : a.cmd = none) :
    freezeTime k s = counterAct a false (reachTime a.time (s.setObs { s.obs with acts := s.obs.acts.eraseIdx k })) := by
  simp only [freezeTime, h, hc, counterActDone]

theorem freezeTime_of_cmd (hc : a.cmd = some c) :
    freezeTime k s =
      let u := reachTime a.time (s.setObs { s.obs with acts := s.obs.acts.eraseIdx k })
      if isStarted u c || a.domain then completeOk c (freezeResult (counterAct a false u) a.op) (counterAct a false u) else u := by
  simp only [freezeTime, h, hc, counterActDone]

end

section
variable {time id : Nat}

theorem syncTrigger_of_reserved (h : bits id 31 30 = 3) : syncTrigger time id s = s := if_pos h

theorem syncTrigger_of_later (h : bits id 31 30 ≠ 3) (ht : ahead s time = true) :
    syncTrigger time id s = s.setObs { s.obs with acts := s.obs.acts ++ [{ cmd := none, op := bits id 31 30, id := bits id 29 0, time := time }] } :=
  (if_neg h).trans (if_pos ht)

theorem syncTrigger_of_past (h : bits id 31 30 ≠ 3) (ht : ahead s time = false) :
    syncTrigger time id s = counterAct { cmd := none, op := bits id 31 30, id := bits id 29 0, time := time } (time != s.now) s :=
  (if_neg h).trans (if_neg (Bool.eq_false_iff.mp ht))

end

/-! ### The trace function (R43, R526, R528) -/

section
variable (hop : bit (par c 0) 0 = true)
include hop

theorem traceArm_of_disabled (h : (startCmd c s).obs.trace.fn.state = .disabled) : traceArm c s = traceArmRun c (startCmd c s) := by
  simp only [traceArm, hop, if_true, fnEnable_of_disabled h]

theorem traceArm_of_enabled (h : (startCmd c s).obs.trace.fn.state = .enabled) : traceArm c s = completeOk c 0 (startCmd c s) := by
  simp only [traceArm, hop, if_true, fnEnable_of_enabled h]

/-- R43: an arm while the trace drains is deferred. -/
theorem traceArm_of_draining (h : (startCmd c s).obs.trace.fn.state = .draining ∨ (startCmd c s).obs.trace.fn.state = .drainingDeferred) :
    ∃ fn : Fn, fn.state = .drainingDeferred ∧
      traceArm c s = complete c stDeferred 0 0 ((startCmd c s).setTrace { (startCmd c s).obs.trace with fn := fn }) := by
  rcases h with h | h
  · refine ⟨{ (startCmd c s).obs.trace.fn with state := .drainingDeferred, deferred := [c] }, rfl, ?_⟩
    simp only [traceArm, hop, if_true, fnEnable_of_draining h]
  · refine ⟨{ (startCmd c s).obs.trace.fn with deferred := (startCmd c s).obs.trace.fn.deferred ++ [c] }, h, ?_⟩
    simp only [traceArm, hop, if_true, fnEnable_of_drainingDeferred h]

end

section
variable (hop : bit (par c 0) 0 = false)
include hop

theorem disarmTrace_of_disabled (h : (startCmd c s).obs.trace.fn.state = .disabled) : traceArm c s = completeOk c 0 (startCmd c s) := by
  simp only [traceArm, hop, Bool.false_eq_true, if_false, fnDisable_of_disabled h]

/-- R528: a disarm ends a trace that has not fired at once, and a post phase when its records are written. -/
theorem disarmTrace_of_enabled (h : (startCmd c s).obs.trace.fn.state = .enabled) :
    traceArm c s =
      let t := (startCmd c s).obs.trace
      let v := (startCmd c s).setTrace { t with fn := { t.fn with state := .draining, disables := [c] } }
      if t.fired then v else traceClose 3 v := by
  simp only [traceArm, hop, Bool.false_eq_true, if_false, fnDisable_of_enabled h]

theorem disarmTrace_of_draining (h : (startCmd c s).obs.trace.fn.state = .draining) :
    traceArm c s =
      let t := (startCmd c s).obs.trace
      (startCmd c s).setTrace { t with fn := { t.fn with disables := t.fn.disables ++ [c] } } := by
  simp only [traceArm, hop, Bool.false_eq_true, if_false, fnDisable_of_draining h]
  rfl

theorem disarmTrace_of_drainingDeferred (h : (startCmd c s).obs.trace.fn.state = .drainingDeferred) :
    traceArm c s =
      let t := (startCmd c s).obs.trace
      cancelDeferred t.fn.deferred ((startCmd c s).setTrace { t with fn := { state := .draining, deferred := [], disables := t.fn.disables ++ [c] } }) := by
  simp only [traceArm, hop, Bool.false_eq_true, if_false, fnDisable_of_drainingDeferred h]

end

theorem traceFire_of_other {kind b : Nat} (h : s.obs.trace.fn.state ≠ .enabled ∨ s.obs.trace.fired = true) : traceFire kind b s = s :=
  if_pos (by simpa using h)

theorem traceFire_of_armed {kind b : Nat} (h : s.obs.trace.fn.state = .enabled) (hf : s.obs.trace.fired = false) :
    traceFire kind b s = tracePush 4096 ⟨s.now, traceWord1 0xF0 0xFF 0 kind, b, 0⟩
      (s.setTrace { s.obs.trace with fired := true, trigTime := s.now, accepted := 1 }) := if_neg (by simp [h, hf])

theorem tracePostLimit_of_other (h : s.obs.trace.fn.state ≠ .enabled ∨ s.obs.trace.fired = false ∨ s.obs.trace.limitMs = 0) : tracePostLimit s = s :=
  if_neg (by rcases h with h | h | h <;> simp [h])

theorem tracePostLimit_of_post (h : s.obs.trace.fn.state = .enabled) (hf : s.obs.trace.fired = true) (hl : s.obs.trace.limitMs ≠ 0) :
    tracePostLimit s = traceClose (if s.obs.trace.quota ≤ s.obs.trace.accepted then 1 else 2)
      (reachTime (s.obs.trace.trigTime + s.obs.trace.limitMs * 1000 * usUnits) s) := if_pos (by simp [h, hf, hl])

theorem tracePostEnd_of_other (h : s.obs.trace.live = false ∨ s.obs.trace.fired = false) : tracePostEnd s = s := if_pos (by simpa using h)

section
variable (hlive : s.obs.trace.live = true) (hf : s.obs.trace.fired = true)
include hlive hf

theorem tracePostEnd_of_disarmed (h : s.obs.trace.fn.state ≠ .enabled) : tracePostEnd s = traceClose 3 s :=
  (if_neg (by simp [hlive, hf])).trans (if_pos (by simpa using h))

theorem tracePostEnd_of_enabled (h : s.obs.trace.fn.state = .enabled) :
    tracePostEnd s = if s.obs.trace.quota ≤ s.obs.trace.accepted then traceClose 1 s else s :=
  (if_neg (by simp [hlive, hf])).trans (if_neg (by simp [h]))

end

/-! ### Tensor dumps (R530, R533) -/

theorem dumpBad_iff :
    dumpBad c = true ↔ c.ctx = 0 ∨ bits (par c 0) 31 3 ≠ 0 ∨ bits (par c 2) 63 57 ≠ 0 ∨ bits (par c 3) 63 33 ≠ 0 ∨ par c 2 % 4096 ≠ 0 ∨
      (bit (par c 0) 0 = true ∧ (bit (par c 2) 56 = false ∨ par c 3 = 0 ∨ par c 3 % 4096 ≠ 0 ∨ 2 ^ 32 < par c 3)) := by
  simp only [dumpBad, Bool.or_eq_true, Bool.and_eq_true, beq_iff_eq, bne_iff_ne, decide_eq_true_eq, Bool.not_eq_true', or_assoc]

theorem dumpTensor_of_bad (h : dumpBad c = true) : dumpTensor c s = badPacket c 0 (startCmd c s) := if_pos h

section
variable (h : ¬dumpBad c = true)
include h

section
variable (hop : bit (par c 0) 0 = true)
include hop

theorem dumpTensor_of_slot_in_use (hs : (dumpSlotOf (startCmd c s) c.ctx (bits (par c 0) 2 1)).isSome = true) :
    dumpTensor c s = complete c stNoResource 0 0 (startCmd c s) :=
  (if_neg h).trans ((if_pos hop).trans (if_pos hs))

/-- R530: the header is written and the slot armed; a node's command ends there, another when its dump closes. -/
theorem dumpTensor_of_armed (hs : dumpSlotOf (startCmd c s) c.ctx (bits (par c 0) 2 1) = none) {v : State}
    (hw : ctxWrite (.cmd c) c.ctx (par c 2) (dumpHeader (dumpArmed (startCmd c s) c) false) (startCmd c s) = .ok ((), v)) :
    dumpTensor c s =
      let w := clearWork (.cmd c) v
      let x := w.setObs { w.obs with dumps := w.obs.dumps ++ [dumpArmed (startCmd c s) c] }
      match c.src with
      | .node .. => completeOk c 0 x
      | _ => x :=
  (if_neg h).trans ((if_pos hop).trans ((if_neg (by simp [hs])).trans (runAcc_of_ok hw)))

end

section
variable (hop : bit (par c 0) 0 = false)
include hop

theorem disarmDump_of_none (hs : dumpSlotOf (startCmd c s) c.ctx (bits (par c 0) 2 1) = none) : dumpTensor c s = completeOk c 0 (startCmd c s) := by
  simp only [dumpTensor, h, hop, hs, if_false, Bool.false_eq_true]

theorem disarmDump_of_slot {d : DumpSlot} (hs : dumpSlotOf (startCmd c s) c.ctx (bits (par c 0) 2 1) = some d) :
    dumpTensor c s = completeOk c 0 (if d.fired then startCmd c s else closeDump d (startCmd c s)) := by
  simp only [dumpTensor, h, hop, hs, if_false, Bool.false_eq_true]

end

end

end

section
variable {ctx slot : Nat}

theorem dumpExpire_of_none (h : dumpSlotOf s ctx slot = none) : dumpExpire ctx slot s = s := by simp only [dumpExpire, h]

variable {d : DumpSlot} (h : dumpSlotOf s ctx slot = some d)
include h

theorem dumpExpire_of_no_limit (hd : d.fired = true ∨ d.limitUs = 0) : dumpExpire ctx slot s = s := by
  simp only [dumpExpire, h]
  exact if_pos (by simpa using hd)

theorem dumpExpire_of_armed (hf : d.fired = false) (hl : d.limitUs ≠ 0) :
    dumpExpire ctx slot s = closeDump d (reachTime (d.armTime + d.limitUs * usUnits) s) := by
  simp only [dumpExpire, h]
  exact if_neg (by simp [hf, hl])

end

end

/-- Settles O53: selectors by their range, an action by its time and operation (`counterAct_frozen_of_freeze`), the trace by R43's states, a dump by its slot. -/
theorem countersTracesAndDumps : Obligations.CountersTracesAndDumps := by
  refine ⟨fun s => ⟨?_, ?_, ?_, ?_, ?_, ?_, ?_⟩, fun s => ⟨?_, fun value hserved => whileServed_next hserved rfl,
    fun kind b => ⟨traceFire_of_other, traceFire_of_armed⟩, ?_, ?_, ?_⟩⟩
  · rintro u i value (h | h)
    · exact whileServed_of_not_served h
    · exact whileServed_of_nothing (evtSelWrite_of_no_counter h)
  · exact fun u i value hserved hu hi => ⟨fun h => whileServed_next hserved (evtSelWrite_of_refused hu hi h),
      fun h h0 => whileServed_next hserved (evtSelWrite_of_listed hu hi h h0)⟩
  · intro c hon u op a d bad
    exact ⟨fun h => whileOn_next hon (counterFreeze_of_scheduled h), fun hnew =>
      ⟨fun h => whileOn_next hon (counterFreeze_of_bad hnew (freezeBad_iff.mpr h)),
        fun h ht => whileOn_next hon (counterFreeze_of_now hnew (fun hb => h (freezeBad_iff.mp hb)) ht),
        fun h h0 ht => whileOn_next hon (counterFreeze_of_later hnew (fun hb => h (freezeBad_iff.mp hb)) h0 ht)⟩⟩
  · exact fun k hon => ⟨fun h => whileOn_next hon (freezeTime_of_none h), fun a h =>
      ⟨fun hc => whileOn_next hon (freezeTime_of_trigger h hc), fun c hc => whileOn_next hon (freezeTime_of_cmd h hc)⟩⟩
  · exact fun h time id ha => next_deliver_accepts ha (fun _ => rfl)
  · intro time id a
    exact ⟨syncTrigger_of_reserved, syncTrigger_of_later, syncTrigger_of_past⟩
  · exact fun a late => ⟨counterAct_frozen_of_thaw, counterAct_frozen_of_freeze, counterAct_frozen_of_other⟩
  · intro c hon u t
    refine ⟨fun hop => ⟨fun h hb => ?_, fun h hb => ?_, fun h => whileOn_next hon (traceArm_of_enabled hop h), fun h => ?_⟩, fun hop =>
      ⟨fun h => whileOn_next hon (disarmTrace_of_disabled hop h), fun h => whileOn_next hon (disarmTrace_of_enabled hop h),
        fun h => whileOn_next hon (disarmTrace_of_draining hop h), fun h => whileOn_next hon (disarmTrace_of_drainingDeferred hop h)⟩⟩
    · exact whileOn_next hon ((traceArm_of_disabled hop h).trans (if_pos hb))
    · exact whileOn_next hon ((traceArm_of_disabled hop h).trans (if_neg (Bool.eq_false_iff.mp hb)))
    · obtain ⟨fn, hfn, harm⟩ := traceArm_of_draining hop h
      exact ⟨fn, hfn, whileOn_next hon harm⟩
  · intro hon t
    exact ⟨fun h => whileOn_next hon (tracePostLimit_of_other h), fun h hf hl => whileOn_next hon (tracePostLimit_of_post h hf hl),
      fun h => whileOn_next hon (tracePostEnd_of_other h), fun hlive hf =>
        ⟨fun h => whileOn_next hon (tracePostEnd_of_disarmed hlive hf h), fun h => whileOn_next hon (tracePostEnd_of_enabled hlive hf h)⟩⟩
  · intro c hon u slot bad
    have good (h : ¬bad) : ¬dumpBad c = true := fun hb => h (dumpBad_iff.mp hb)
    refine ⟨fun h => whileOn_next hon (dumpTensor_of_bad (dumpBad_iff.mpr h)), fun h hop hs => whileOn_next hon (dumpTensor_of_slot_in_use (good h) hop hs),
      fun h hop hs v hw => ?_, fun h hop => ⟨fun hs => whileOn_next hon (disarmDump_of_none (good h) hop hs),
        fun d hs => whileOn_next hon (disarmDump_of_slot (good h) hop hs)⟩⟩
    intro w x
    have harm := dumpTensor_of_armed (good h) hop hs hw
    refine ⟨fun hsrc => whileOn_next hon (harm.trans ?_), fun a b hsrc => whileOn_next hon (harm.trans ?_)⟩
    · cases hc : c.src with
      | node a b => exact absurd hc (hsrc a b)
      | _ => rfl
    · simp only [hsrc]
      rfl
  · exact fun ctx slot hon => ⟨fun h => whileOn_next hon (dumpExpire_of_none h), fun d h =>
      ⟨fun hd => whileOn_next hon (dumpExpire_of_no_limit h hd), fun hf hl => whileOn_next hon (dumpExpire_of_armed h hf hl)⟩⟩

end Sys2Proof.Machine
end

-- The settling of the fabric's family: the free ID that the manager gives.
section

namespace Sys2Proof.Machine

/-! ### The first free ID (R458) -/

/-- The `j`th number from `k`, rising or falling. -/
def nthFrom (down : Bool) (k j : Nat) : Nat := if down then k - j else k + j

section
variable {down : Bool} {k : Nat} {l : List Nat}

theorem nthFrom_zero (down : Bool) (k : Nat) : nthFrom down k 0 = k := by cases down <;> rfl

theorem nthFrom_succ (down : Bool) (k j : Nat) : nthFrom down (if down then k - 1 else k + 1) j = nthFrom down k (j + 1) := by
  cases down
  · exact Nat.succ_add_eq_add_succ k j
  · exact (Nat.sub_add_eq k 1 j).symm.trans (congrArg _ (Nat.add_comm 1 j))

/-- The search passes numbers of the list alone, and stops at one outside it or at the end of its `n` steps. -/
theorem firstFree_walk (down : Bool) (l : List Nat) (n : Nat) : ∀ k, ∃ j ≤ n, firstFree down n k l = nthFrom down k j ∧
    (∀ i < j, nthFrom down k i ∈ l) ∧ (j < n → nthFrom down k j ∉ l) := by
  induction n with
  | zero => exact fun k => ⟨0, le_refl 0, (nthFrom_zero down k).symm, fun i hi => by omega, fun h => by omega⟩
  | succ n ih =>
    intro k
    by_cases hk : k ∈ l
    · obtain ⟨j, hj, heq, hbelow, hstop⟩ := ih (if down then k - 1 else k + 1)
      simp only [nthFrom_succ] at heq hbelow hstop
      refine ⟨j + 1, by omega, ?_, fun i hi => ?_, fun h => hstop (by omega)⟩
      · simpa [firstFree, hk] using heq
      · cases i with
        | zero => exact (nthFrom_zero down k).symm ▸ hk
        | succ i => exact hbelow i (by omega)
    · refine ⟨0, by omega, ?_, fun i hi => by omega, fun _ => (nthFrom_zero down k).symm ▸ hk⟩
      simp [firstFree, hk, nthFrom_zero]

/-- More different numbers than a list is long are not all in it. -/
theorem exists_nthFrom_not_mem (hk : down = true → l.length ≤ k) (h : ∀ i < l.length, nthFrom down k i ∈ l) : nthFrom down k l.length ∉ l := by
  intro hlast
  have hnodup : ((List.range (l.length + 1)).map (nthFrom down k)).Nodup := by
    refine List.Nodup.map_on (fun i hi j hj hij => ?_) List.nodup_range
    rw [List.mem_range] at hi hj
    cases down
    · simpa [nthFrom] using hij
    · have := hk rfl
      simp only [nthFrom, if_true] at hij
      omega
  have hsub : (List.range (l.length + 1)).map (nthFrom down k) ⊆ l := by
    intro x hx
    obtain ⟨i, hi, rfl⟩ := List.mem_map.mp hx
    rw [List.mem_range] at hi
    rcases Nat.lt_succ_iff_lt_or_eq.mp hi with hi | rfl
    · exact h i hi
    · exact hlast
  have hlen := (hnodup.subperm hsub).length_le
  rw [List.length_map, List.length_range] at hlen
  omega

/-- R458: a search as long as the list ends at the first number outside it. -/
theorem firstFree_free (hk : down = true → l.length ≤ k) : ∃ j ≤ l.length, firstFree down l.length k l = nthFrom down k j ∧
    nthFrom down k j ∉ l ∧ ∀ i < j, nthFrom down k i ∈ l := by
  obtain ⟨j, hj, heq, hbelow, hstop⟩ := firstFree_walk down l l.length k
  refine ⟨j, hj, heq, ?_, hbelow⟩
  rcases Nat.lt_or_eq_of_le hj with hj | rfl
  · exact hstop hj
  · exact exists_nthFrom_not_mem hk hbelow

end

/-- Settles O44, by the search for a free number (`firstFree_free`), rising and falling. -/
theorem freeIds : Obligations.FreeIds := by
  intro s used hlen
  obtain ⟨j, -, hlow, hfree, hbelow⟩ := firstFree_free (down := false) (k := 0) (l := used) (fun h => absurd h Bool.false_ne_true)
  obtain ⟨m, -, hhigh, hfree', habove⟩ := firstFree_free (down := true) (k := 0xFFFE) (l := used) (fun _ => by omega)
  have hlowest : freeId s false = nthFrom false 0 j := hlow
  have hhighest : freeId s true = nthFrom true 0xFFFE m := hhigh
  rw [hlowest, hhighest]
  refine ⟨hfree, fun k hk => ?_, hfree', Nat.sub_le 0xFFFE m, fun k hk hmax => ?_⟩
  · have hk' : k < 0 + j := hk
    have hmem : 0 + k ∈ used := hbelow k (by omega)
    rwa [Nat.zero_add] at hmem
  · have hk' : 0xFFFE - m < k := hk
    have hmem : 0xFFFE - (0xFFFE - k) ∈ used := habove (0xFFFE - k) (by omega)
    rwa [show 0xFFFE - (0xFFFE - k) = k by omega] at hmem

end Sys2Proof.Machine
end

-- The settling of the fabric's family: fabric time and SYNC_START.
section

namespace Sys2Proof.Machine

/-! ### Beacons (R457, R466) -/

section
variable {s : State}

theorem beaconTimer_of_member (h : isManager s = false) : beaconTimer s = s := if_pos (by simp [h])

theorem beaconTimer_of_manager (h : isManager s = true) :
    beaconTimer s = (routeChords s 0xFFFF).foldl (fun u n => sendOn n 0xFFFF (.beacon u.now 0 u.fab.term) u) s := if_neg (by simp [h])

section
variable {n origin term stamp : Nat} {corr : Int}

theorem beaconArrives_of_stale (h : term < s.fab.term) : beaconArrives n origin corr term stamp s = count Reg.FAB_CNT_STALE_TERM s := if_pos h

/-- R466 step 3: a member takes the plane's estimate; a beacon of the term held is the manager's sign of life. -/
theorem beaconArrives_of_member (h : s.fab.term ≤ term) (hm : isManager s = false) :
    beaconArrives n origin corr term stamp s = s.setFab { s.fab with
      topTerm := max s.fab.topTerm term, lastBeacon := if term = s.fab.term then s.now else s.fab.lastBeacon,
      estimates := s.fab.estimates ++ [planeEstimate s n origin corr stamp] } := by
  unfold beaconArrives
  rw [if_neg (Nat.not_lt.mpr h)]
  simp only [beq_iff_eq]
  exact if_neg (Bool.eq_false_iff.mp hm)

end

/-! ### The discipline of the counter (R466, R467) -/

/-- R466 step 4: the rate changes by at most 200 ppm. -/
theorem adjustRate_eq (s : State) : ∃ r, s.fab.rate - s.fab.rate * 200 / 1000000 ≤ r ∧ r ≤ s.fab.rate + s.fab.rate * 200 / 1000000 ∧
    (adjustRate s).fab = { s.fab with rate := r } := by
  refine ⟨_, ?_, ?_, rfl⟩
  · exact Nat.le_add_right ..
  · have hmod : (Config.undef s.free).toNat % (2 * (s.fab.rate * 200 / 1000000) + 1) < 2 * (s.fab.rate * 200 / 1000000) + 1 :=
      Nat.mod_lt _ (Nat.succ_pos _)
    change s.fab.rate - s.fab.rate * 200 / 1000000 + (Config.undef s.free).toNat % (2 * (s.fab.rate * 200 / 1000000) + 1) ≤ _
    omega

theorem timeDiscipline_of_nothing (h : isManager s = true ∨ s.fab.mgrUid = 0) : timeDiscipline s = s := if_pos (by simpa using h)

section
variable (hm : isManager s = false) (hu : s.fab.mgrUid ≠ 0)
include hm hu

theorem timeDiscipline_of_missed (he : s.fab.estimates = []) : timeDiscipline s = beaconMissed s :=
  (if_neg (by simp [hm, hu])).trans (if_pos (by simp [he]))

theorem timeDiscipline_of_estimates (he : s.fab.estimates ≠ []) :
    timeDiscipline s =
      let t := estimateTaken (median s.fab.estimates) s
      t.setFab { t.fab with estimates := [] } :=
  (if_neg (by simp [hm, hu])).trans (if_neg (by simpa using he))

end

/-- R467: intervals in a row whose offset is within 512 units. -/
def goodRunAfter (s : State) (e : Int) : Nat := if -512 ≤ e ∧ e ≤ 512 then s.fab.goodRun + 1 else 0

/-- R467: what an estimate leaves, before the counter is stepped or its rate adjusted. -/
def offsetTaken (e : Int) (s : State) : State :=
  s.setFab { s.fab with offset := e, planes := s.fab.estimates.length, missRun := 0, holdover := false, goodRun := goodRunAfter s e,
                        locked := s.fab.locked || decide (16 ≤ goodRunAfter s e) }

/-- R466: the first estimate steps the counter. -/
theorem estimateTaken_of_first {e : Int} (h : s.fab.stepped = false) :
    (estimateTaken e s).fab = { (offsetTaken e s).fab with stepped := true, now := unsext ((s.fab.now : Int) + e) 64 } :=
  congrArg State.fab (if_neg (Bool.eq_false_iff.mp h))

/-- R466: the later estimates adjust its rate. -/
theorem estimateTaken_of_stepped {e : Int} (h : s.fab.stepped = true) : estimateTaken e s = adjustRate (offsetTaken e s) := if_pos h

/-! ### Link delay (R466 step 1) -/

section
variable {n t1 t2 t3 t4 : Nat}

section
variable (h : 16 ≤ n ∨ (chordOf s n).up = false)
include h

theorem delayTimer_of_no_link : delayTimer n s = s := by
  refine if_neg ?_
  rcases h with h | h
  · simp [Nat.not_lt.mpr h]
  · simp [h]

theorem delayReq_of_no_link : delayReq n t1 t2 t3 s = s := if_pos (by simpa using h)

theorem delayRsp_of_no_link : delayRsp n t1 t2 t3 t4 s = s := if_pos (by simpa using h)

end

section
variable (hn : n < 16) (hup : (chordOf s n).up = true)
include hn hup

theorem delayTimer_of_link : delayTimer n s = sendOn n 0xFFFF (.delayReq s.now) s := if_pos (by simp [hn, hup])

theorem delayReq_of_link :
    delayReq n t1 t2 t3 s = sendOn n 0xFFFF (.delayRsp t1 t2 t3)
      (count Reg.FAB_CNT_MSG_RX (inboxTake { src := (chordOf s n).peerId } (.delayReq t1) s)) := if_neg (by simp [hn, hup])

theorem delayRsp_of_link :
    delayRsp n t1 t2 t3 t4 s = regPut (Reg.CHORD_DELAY n) (unsext (linkDelay n t1 t2 t3 t4) 32)
      (count Reg.FAB_CNT_MSG_RX (inboxTake { src := (chordOf s n).peerId } (.delayRsp t1 t2 t3) s)) := if_neg (by simp [hn, hup])

end

end

/-! ### SYNC_START (R468, R469) -/

section
variable {c : Cmd}

section
variable (hnew : ∀ a ∈ (startCmd c s).fab.armed, a.sync ≠ c)
include hnew

/-- R469: a SYNC_START that is not armed yet, by where it was found. -/
theorem syncStart_of_new :
    syncStart c s = match c.src with
      | .ring q => syncRing c q (startCmd c s)
      | .node l n => syncGraph c l n (startCmd c s)
      | .mgr _ => badPacket c 0 (startCmd c s) := by
  have h : ¬((startCmd c s).fab.armed.any fun a => a.sync == c) = true := by simpa using hnew
  exact (if_neg h).trans (by cases c.src <;> rfl)

end

section
variable {q : Nat}

theorem syncRing_of_empty (h : ringOf s c.ctx q = none ∨ ∃ r, ringOf s c.ctx q = some r ∧ r.head = r.tail) : syncRing c q s = badPacket c 0 s := by
  rcases h with h | ⟨r, h, hr⟩
  · simp only [syncRing, h]
  · simp only [syncRing, h]
    exact if_pos (by simp [hr])

theorem syncRing_of_packet {r : Ring} {t : Cmd} {head : Nat} {v : State} (h : ringOf s c.ctx q = some r) (hr : r.head ≠ r.tail)
    (hf : syncFetch c.ctx q r s = .ok (.start t head, v)) : syncRing c q s = syncTarget c t head q (clearWork (.fetch c.ctx q) v) := by
  simp only [syncRing, h]
  exact (if_neg (by simpa using hr)).trans (runAcc_of_ok hf)

theorem syncTarget_of_bad {t : Cmd} {head : Nat}
    (h : armable (startCmd t (moveHead c.ctx q head s)) t = false ∨ syncBad (startCmd t (moveHead c.ctx q head s)) c = true) :
    syncTarget c t head q s = badPacket c 0 (badPacket t 0 (startCmd t (moveHead c.ctx q head s))) := if_pos (by simpa using h)

theorem syncTarget_of_good {t : Cmd} {head : Nat} (ha : armable (startCmd t (moveHead c.ctx q head s)) t = true)
    (hb : syncBad (startCmd t (moveHead c.ctx q head s)) c = false) :
    syncTarget c t head q s = armSync c (some t) [] (startCmd t (moveHead c.ctx q head s)) := if_neg (by simp [ha, hb])

end

section
variable {l n : Nat} {x : GLaunch} (h : (s.crn.launches.find? fun x => x.id == l) = some x)
include h

theorem syncGraph_of_bad (hb : syncNodes s x n = [] ∨ syncBad s c = true) : syncGraph c l n s = badPacket c 0 s := by
  simp only [syncGraph, h]
  exact if_pos (by simpa using hb)

theorem syncGraph_of_good (hn : syncNodes s x n ≠ []) (hb : syncBad s c = false) : syncGraph c l n s = armSync c none (syncNodes s x n) s := by
  simp only [syncGraph, h]
  exact if_neg (by simp [hn, hb])

end

/-- R469: what a SYNC_START arms. -/
def armedBy (c : Cmd) (target : Option Cmd) (nodes : List Nat) : Armed :=
  { sync := c, target := target, nodes := nodes, time := par c 0, power := bits (par c 1) 11 0, ballast := bit (par c 1) 12 }

theorem armSync_eq (target : Option Cmd) (nodes : List Nat) :
    armSync c target nodes s =
      let u := s.setFab { s.fab with armed := s.fab.armed ++ [armedBy c target nodes] }
      if bit (par c 1) 12 then preRamp (bits (par c 1) 11 0) (par c 0) u else u := rfl

/-! ### The start at T (R469) -/

theorem syncStartTime_of_none (h : ∀ a ∈ s.fab.armed, a.sync ≠ c) : syncStartTime c s = s := by
  have hfind : (s.fab.armed.find? fun a => a.sync == c) = none := List.find?_eq_none.mpr fun a ha => by simpa using h a ha
  simp only [syncStartTime, hfind]

theorem syncStartTime_of_armed {a : Armed} (h : (s.fab.armed.find? fun a => a.sync == c) = some a) :
    syncStartTime c s =
      let u := reachTime a.time s
      let v := u.setFab { u.fab with armed := u.fab.armed.filter fun x => x.sync != c }
      if syncReady a u then completeOk c u.now ((u.sched.nodes.filter (armedNode a u)).foldl (fun s n => issueNode n s) v)
      else syncMissed a v := by
  simp only [syncStartTime, h]

end

end

/-- Settles O46: a beacon by its term, an interval by its estimates (`adjustRate_eq`), a SYNC_START by where it was found and what it arms. -/
theorem fabricTimeAndStarts : Obligations.FabricTimeAndStarts := by
  refine ⟨fun s => ⟨fun hon => ⟨fun h => whileOn_next hon (beaconTimer_of_member h), fun h => whileOn_next hon (beaconTimer_of_manager h)⟩, ?_, ?_, ?_, ?_⟩,
    fun s c hon => ⟨?_, ?_, ?_, ?_⟩⟩
  · exact fun h origin corr term stamp ha => next_deliver_accepts ha (fun _ => rfl)
  · exact fun n origin corr term stamp => ⟨beaconArrives_of_stale, fun h hm => ⟨_, beaconArrives_of_member h hm, rfl, rfl, rfl, rfl⟩⟩
  · refine fun hon => ⟨fun h => whileOn_next hon (timeDiscipline_of_nothing h), fun hm hu he => whileOn_next hon (timeDiscipline_of_missed hm hu he),
      fun hm hu he => ⟨_, whileOn_next hon (timeDiscipline_of_estimates hm hu he), ?_⟩⟩
    intro e run
    cases hs : s.fab.stepped with
    | false =>
      have hfab := estimateTaken_of_first (e := e) hs
      refine ⟨rfl, ?_⟩
      change (estimateTaken e s).fab.offset = e ∧ (estimateTaken e s).fab.goodRun = run ∧ (estimateTaken e s).fab.missRun = 0 ∧
        (estimateTaken e s).fab.holdover = false ∧ (estimateTaken e s).fab.stepped = true ∧ (estimateTaken e s).fab.locked = _ ∧
        (_ → (estimateTaken e s).fab.now = _ ∧ (estimateTaken e s).fab.rate = _) ∧ _
      rw [hfab]
      exact ⟨rfl, rfl, rfl, rfl, rfl, rfl, fun _ => ⟨rfl, rfl⟩, fun h => absurd h Bool.false_ne_true⟩
    | true =>
      obtain ⟨r, hlow, hhigh, hfab⟩ := adjustRate_eq (offsetTaken e s)
      rw [← estimateTaken_of_stepped hs] at hfab
      refine ⟨rfl, ?_⟩
      change (estimateTaken e s).fab.offset = e ∧ (estimateTaken e s).fab.goodRun = run ∧ (estimateTaken e s).fab.missRun = 0 ∧
        (estimateTaken e s).fab.holdover = false ∧ (estimateTaken e s).fab.stepped = true ∧ (estimateTaken e s).fab.locked = _ ∧
        _ ∧ (_ → (estimateTaken e s).fab.now = _ ∧ _ ≤ (estimateTaken e s).fab.rate ∧ (estimateTaken e s).fab.rate ≤ _)
      rw [hfab]
      exact ⟨rfl, rfl, rfl, rfl, hs, rfl, fun h => absurd h.symm Bool.false_ne_true, fun _ => ⟨rfl, hlow, hhigh⟩⟩
  · exact fun n hon => ⟨fun hn hup => ⟨whileOn_next hon (delayTimer_of_link hn hup), fun t1 t2 t3 => whileOn_next hon (delayReq_of_link hn hup),
      fun t1 t2 t3 t4 => whileOn_next hon (delayRsp_of_link hn hup)⟩, fun h => ⟨whileOn_next hon (delayTimer_of_no_link h),
      fun t1 t2 t3 => whileOn_next hon (delayReq_of_no_link h), fun t1 t2 t3 t4 => whileOn_next hon (delayRsp_of_no_link h)⟩⟩
  · intro u hnew
    have hstart := syncStart_of_new hnew
    refine ⟨fun d hc => ?_, fun q hc h => ?_, ?_, fun l n x hc h => ?_⟩
    · rw [hc] at hstart
      exact whileOn_next hon hstart
    · rw [hc] at hstart
      exact whileOn_next hon (hstart.trans (syncRing_of_empty h))
    · intro q r t head v hc h hr hf w
      rw [hc] at hstart
      have hring := hstart.trans (syncRing_of_packet h hr hf)
      exact ⟨fun hb => whileOn_next hon (hring.trans (syncTarget_of_bad hb)), fun ha hb => whileOn_next hon (hring.trans (syncTarget_of_good ha hb))⟩
    · rw [hc] at hstart
      exact ⟨fun hb => whileOn_next hon (hstart.trans (syncGraph_of_bad h hb)), fun hn hb => whileOn_next hon (hstart.trans (syncGraph_of_good h hn hb))⟩
  · exact fun target nodes => ⟨armedBy c target nodes, rfl, rfl, rfl, rfl, rfl, rfl, fun h => (armSync_eq target nodes).trans (if_neg (Bool.eq_false_iff.mp h)),
      fun h => (armSync_eq target nodes).trans (if_pos h)⟩
  · intro a h u v
    exact ⟨fun hr => whileOn_next hon ((syncStartTime_of_armed h).trans (if_pos hr)),
      fun hr => whileOn_next hon ((syncStartTime_of_armed h).trans (if_neg (Bool.eq_false_iff.mp hr)))⟩
  · exact fun h => whileOn_next hon (syncStartTime_of_none h)

end Sys2Proof.Machine
end

-- The settling of the fabric's family: members, their loss, and reserve switch-in.
section

namespace Sys2Proof.Machine

/-- R452: a row after which work that can go on goes on. -/
theorem whileOn_resumed {f : State → State} {s t : State} (hon : isOn s = true) (h : f s = t) :
    whileOn (fun u => resumeReady (f u)) s = .next (resumeReady t) := whileOn_next hon (congrArg resumeReady h)

/-! ### Members and their loss (R460 to R462) -/

section
variable {s : State} {dev : Nat}

theorem keepaliveTimer_of_member (hd : s.fab.devId.isSome = true) (hm : isManager s = false) (hr : s.fab.role ≠ .discovering) :
    keepaliveTimer s = send s.fab.mgrId (.keepalive s.now) s := by
  obtain ⟨d, hd⟩ := Option.isSome_iff_exists.mp hd
  exact if_neg (by simp [hd, hm, hr])

theorem keepaliveTimer_of_other (h : s.fab.devId = none ∨ isManager s = true) : keepaliveTimer s = s :=
  if_pos (by rcases h with h | h <;> simp [h])

section
variable {m : Member} (h : memberOf s dev = some m)
include h

theorem keepaliveMiss_of_member (hm : isManager s = true) (hdown : m.down = false) (hself : s.fab.devId ≠ some dev) :
    keepaliveMiss dev s =
      let cfg := regGet s Reg.FAB_MGR_CFG
      declareDown dev (reachTime ((m.heardAt + bits cfg 23 20 * bits cfg 19 8 * 100 * 256000) % 2 ^ 64) s) := by
  simp only [keepaliveMiss, h]
  exact if_neg (by simp [hm, hdown, hself])

theorem declareDown_of_nothing (hdown : m.down = true ∨ s.fab.devId = some dev) : declareDown dev s = s := by
  simp only [declareDown, h]
  exact if_pos (by simpa using hdown)

/-- R461: a member declared DOWN: every other is told, its work ends, and a lost deputy is replaced. -/
theorem declareDown_of_member (hdown : m.down = false) (hself : s.fab.devId ≠ some dev) :
    declareDown dev s =
      let u := raiseVector 6 (send 0xFFFF (.deviceDown dev) (updMember dev (fun m => { m with down := true, restoring := false, joined := false }) s))
      let v := switchLost dev (downLocal dev (pubsLost dev u))
      if v.fab.depUid ≠ 0 ∧ dev = v.fab.depId then deputyLost v else v := by
  simp only [declareDown, h]
  refine (if_neg (by simp [hdown, hself])).trans (if_congr ?_ rfl rfl)
  simp only [Bool.and_eq_true, bne_iff_ne, beq_iff_eq]

end

section
variable {src : Nat}

theorem departArrives_of_manager (h : isManager s = true) : departArrives src s = declareDown src s := if_pos h

theorem departArrives_of_deputy (h : isManager s = false) (hr : s.fab.role = .deputy) (hs : src = s.fab.mgrId) :
    departArrives src s = withHello takeover s := (if_neg (Bool.eq_false_iff.mp h)).trans (if_pos (by simp [hr, hs]))

theorem departArrives_of_other (h : isManager s = false) (hr : s.fab.role ≠ .deputy) : departArrives src s = s :=
  (if_neg (Bool.eq_false_iff.mp h)).trans (if_neg (by simp [hr]))

end

theorem deviceDown_of_other (h : s.fab.devId ≠ some dev) :
    deviceDown dev s = downLocal dev (raiseVector 6
      (addMember { (memberOf s dev).getD { uid := 0, id := dev } with down := true, restoring := false } s)) := if_neg (by simpa using h)

/-! ### The deputy (R460, R463) -/

theorem mgrStateAcked_eq (copy : Nat) (s : State) :
    mgrStateAcked copy s = match s.fab.unacked.find? fun p => p.1 == copy with
      | some p => ackAct p.2 (s.setFab { s.fab with unacked := s.fab.unacked.filter fun p => p.1 != copy })
      | none => s := by
  unfold mgrStateAcked
  cases s.fab.unacked.find? fun p => p.1 == copy <;> rfl

theorem deputyTakeover_of_other (h : s.fab.role ≠ .deputy) : deputyTakeover s = s := if_pos (by simpa using h)

theorem deputyTakeover_of_deputy (h : s.fab.role = .deputy) :
    deputyTakeover s = withHello takeover (reachTime ((s.fab.lastBeacon + 3 * beaconUnits s) % 2 ^ 64) s) := if_neg (by simp [h])

/-! ### End-to-end credit and timeouts (R446, R450) -/

theorem served_of_other {h : Hdr} {b : Body} {f : State → State} (hsrc : s.fab.devId ≠ some h.src) :
    served h b f s = grantBack h b (f (takenIn h b s)) := if_neg (by simpa using hsrc)

section
variable {tag : Nat}

theorem e2eTimeout_of_none (h : ∀ t ∈ s.fab.timed, t.tag ≠ tag) : e2eTimeout tag s = s := by
  have hfind : (s.fab.timed.find? fun t => t.tag == tag) = none := List.find?_eq_none.mpr fun t ht => by simpa using h t ht
  simp only [e2eTimeout, hfind]

theorem e2eTimeout_of_timed {t : Timed} (h : (s.fab.timed.find? fun t => t.tag == tag) = some t) :
    e2eTimeout tag s = timedLost t (count Reg.FAB_CNT_E2E_TIMEOUT
      (reachTime ((t.time + bits (regGet s Reg.FAB_CFG) 23 8 * 256000) % 2 ^ 64) s)) := by
  simp only [e2eTimeout, h, usUnits]

end

/-! ### FABRIC_STATUS (R471) -/

section
variable {c : Cmd}

/-- R471: FABRIC_STATUS is refused: reserved bits, an unknown operation, or STAND or WITHDRAW from the manager. -/
def statusRefused (c : Cmd) : Bool :=
  let op := bits (par c 0) 3 0
  let fromMgr := match c.src with
    | .mgr _ => true
    | _ => false
  decide (bits (par c 0) 15 4 ≠ 0) || decide (bits (par c 0) 63 32 ≠ 0) || decide (4 < op) || (fromMgr && (op == 1 || op == 2))

theorem statusRefused_iff :
    statusRefused c = true ↔ bits (par c 0) 15 4 ≠ 0 ∨ bits (par c 0) 63 32 ≠ 0 ∨ 4 < bits (par c 0) 3 0 ∨
      (∃ d, c.src = .mgr d ∧ (bits (par c 0) 3 0 = 1 ∨ bits (par c 0) 3 0 = 2)) := by
  simp only [statusRefused, Bool.or_eq_true, Bool.and_eq_true, decide_eq_true_eq, beq_iff_eq, or_assoc]
  cases c.src <;> simp

theorem fabricStatus_of_refused (h : statusRefused c = true) : fabricStatus c s = badPacket c 0 (startCmd c s) := if_pos h

section
variable (h : ¬statusRefused c = true)
include h

theorem fabricStatus_of_query (hop : bits (par c 0) 3 0 = 0) : fabricStatus c s = completeOk c (queryResult (startCmd c s)) (startCmd c s) := by
  refine (if_neg h).trans ?_
  simp only [hop]

theorem fabricStatus_of_stand (hop : bits (par c 0) 3 0 = 1) :
    fabricStatus c s = if !mgrCapable (startCmd c s) || isReserve (startCmd c s) then badPacket c 0 (startCmd c s)
      else completeOk c 0 (withHello stand (startCmd c s)) := by
  refine (if_neg h).trans ?_
  simp only [hop]

theorem fabricStatus_of_withdraw (hop : bits (par c 0) 3 0 = 2) : fabricStatus c s = completeOk c 0 (withHello withdraw (startCmd c s)) := by
  refine (if_neg h).trans ?_
  simp only [hop]

theorem fabricStatus_of_members (hop : bits (par c 0) 3 0 = 3) :
    fabricStatus c s =
      let l := ((startCmd c s).fab.members.take (par c 2 / 16)).map memberRecord
      runAcc (.cmd c) (ctxWrite (.cmd c) c.ctx (par c 1) l.flatten) (fun _ s => completeOk c l.length s) (faultCmd c) (startCmd c s) := by
  refine (if_neg h).trans ?_
  simp only [hop]

theorem fabricStatus_of_outcome (hop : bits (par c 0) 3 0 = 4) :
    fabricStatus c s = if isManager (startCmd c s) then completeOk c (outcomeResult (startCmd c s) (bits (par c 0) 31 16)) (startCmd c s)
      else badPacket c 0 (startCmd c s) := by
  refine (if_neg h).trans ?_
  simp only [hop]

end

/-! ### SWITCH_IN (R472 to R474) -/

/-- R472: SWITCH_IN is refused. -/
def SwitchRefused (c : Cmd) (s : State) : Prop :=
  isManager s = false ∨ isDown s (bits (par c 0) 15 0) = false ∨ bits (par c 0) 63 32 ≠ 0 ∨ par c 2 = 0 ∨ 2 ^ 20 < par c 2 ∨
    ∃ o ∈ s.fab.switchOps, o.failed = bits (par c 0) 15 0

section
variable (hnew : ∀ o ∈ (startCmd c s).fab.switchOps, o.cmd ≠ c)
include hnew

theorem not_switching : ¬((startCmd c s).fab.switchOps.any fun o => o.cmd == c) = true := by simpa using hnew

theorem switchIn_of_refused (h : SwitchRefused c (startCmd c s)) : switchIn c s = badPacket c 0 (startCmd c s) :=
  (if_neg (not_switching hnew)).trans (if_pos (by simpa [SwitchRefused, or_assoc] using h))

theorem switchIn_of_records (h : ¬SwitchRefused c (startCmd c s)) {l : List Byte} {v : State}
    (hr : ctxRead (.cmd c) c.ctx (par c 1) (32 * par c 2) (startCmd c s) = .ok (l, v)) :
    switchIn c s = switchWith c l (clearWork (.cmd c) v) :=
  (if_neg (not_switching hnew)).trans ((if_neg (by simpa [SwitchRefused, or_assoc] using h)).trans (runAcc_of_ok hr))

end

section
variable {l : List Byte}

theorem switchWith_of_bad (h : ∃ r ∈ (List.range (par c 2)).map fun i => slice (32 * i) 32 l, recBad r = true) : switchWith c l s = badPacket c 0 s :=
  if_pos (List.any_eq_true.mpr h)

section
variable (h : ∀ r ∈ (List.range (par c 2)).map fun i => slice (32 * i) 32 l, recBad r = false)
include h

theorem not_any_recBad : ¬((List.range (par c 2)).map fun i => slice (32 * i) 32 l).any recBad = true := by
  rw [List.any_eq_true]
  rintro ⟨r, hr, hbad⟩
  exact Bool.false_ne_true ((h r hr).symm.trans hbad)

theorem switchWith_of_no_reserve (hr : pickReserve s (bits (par c 0) 31 16) = none) : switchWith c l s = complete c stNoResource 0 0 s := by
  refine (if_neg (not_any_recBad h)).trans ?_
  simp only [hr]

theorem switchWith_of_reserve {r : Member} (hr : pickReserve s (bits (par c 0) 31 16) = some r) :
    switchWith c l s = mgrCopy (.switchIn (bits (par c 0) 15 0) r.id) (switchStart (bits (par c 0) 15 0) r.id)
      (s.setFab { s.fab with switchOps := s.fab.switchOps ++ [{
        cmd := c, failed := bits (par c 0) 15 0, reserve := r.id,
        recs := ((List.range (par c 2)).map fun i => slice (32 * i) 32 l).map restoreRecOf }] }) := by
  refine (if_neg (not_any_recBad h)).trans ?_
  simp only [hr]

end

end

end

theorem restoreBegins_of_other (h : s.fab.devId ≠ some dev) :
    restoreBegins dev s =
      let u := updMember dev (fun m => { m with down := false, restoring := true }) s
      restoreAcks (lookDown dev (u.setFab { u.fab with
        restoring := (u.fab.restoring.filter fun d => d != dev) ++ [dev], restoreOwe := u.fab.restoreOwe ++ [dev] })) := if_neg (by simpa using h)

theorem restoreDone_of_sent {src failed first : Nat} {o : SwitchOp} (h : (s.fab.switchOps.find? fun o => o.failed == src && o.sentRecs) = some o) :
    restoreDone src failed first s =
      switchEnd o (fun c s => completeOk c (failed + first * 2 ^ 32) s) (restoreEnds src (send 0xFFFF (.restoreEnd src) s)) := by
  simp only [restoreDone, h]

end

/-- Settles O45: a member's loss by who hears of it, each message by its row, FABRIC_STATUS by its operation, SWITCH_IN by its records. -/
theorem membersAndSwitchIn : Obligations.MembersAndSwitchIn := by
  refine ⟨fun s h dev => ⟨fun hon hd hm hr => whileOn_next hon (keepaliveTimer_of_member hd hm hr), fun hon hd => whileOn_next hon (keepaliveTimer_of_other hd),
    fun time ha => next_deliver_accepts ha (fun _ => rfl), ?_, fun m hmem => declareDown_of_nothing hmem,
    fun m hmem hdown hself => declareDown_of_member hmem hdown hself, ?_, fun ha => next_deliver_accepts ha (fun _ => rfl), deviceDown_of_other,
    fun item copy ha => next_deliver_accepts ha (fun _ => rfl), ?_, ?_, ?_, ?_, ?_⟩, fun s h => ⟨?_, ?_, fun dev ha => next_deliver_accepts ha (fun _ => rfl),
    fun dev => restoreBegins_of_other, fun dev ha => next_deliver_accepts ha (fun _ => rfl), fun recs ha => next_deliver_accepts ha (fun _ => rfl),
    fun failed first ha => next_deliver_accepts ha (fun _ => rfl), fun src failed first o => restoreDone_of_sent,
    fun dev ha => next_deliver_accepts ha (fun _ => rfl)⟩⟩
  · exact fun hon m hmem hm hdown hself => whileOn_resumed hon (keepaliveMiss_of_member hmem hm hdown hself)
  · refine fun reason ha => ⟨fun u => resumeReady (departArrives h.src u), next_deliver_accepts ha (fun _ => rfl), fun u => ⟨?_, ?_, ?_⟩⟩
    · exact fun hm => congrArg resumeReady (departArrives_of_manager hm)
    · exact fun hm hr hs => congrArg resumeReady (departArrives_of_deputy hm hr hs)
    · exact fun hm hr => congrArg resumeReady (departArrives_of_other hm hr)
  · exact fun kind copy ha => next_deliver_accepts ha (fun u => congrArg (responded _ · u) (funext (mgrStateAcked_eq copy)))
  · exact fun hon => ⟨fun hr => whileOn_resumed hon (deputyTakeover_of_other hr),
      fun hr => whileOn_resumed hon (deputyTakeover_of_deputy hr)⟩
  · exact fun ha hsrc => next_of_eq ((deliver_accepts id ha).trans (served_of_other hsrc))
  · exact fun tag hon ht => whileOn_resumed hon (e2eTimeout_of_none ht)
  · exact fun tag t hon ht => whileOn_resumed hon (e2eTimeout_of_timed ht)
  · intro c hon u op bad
    have good (hb : ¬bad) : ¬statusRefused c = true := fun hr => hb (statusRefused_iff.mp hr)
    refine ⟨fun hb => whileOn_next hon (fabricStatus_of_refused (statusRefused_iff.mpr hb)), fun hb hop => whileOn_next hon (fabricStatus_of_query (good hb) hop),
      fun hb hop hr => ?_, fun hb hop hc hr => ?_, fun hb hop => whileOn_next hon (fabricStatus_of_withdraw (good hb) hop), fun hb hop => ?_,
      fun hb hop hm => ?_, fun hb hop hm => ?_⟩
    · exact whileOn_next hon ((fabricStatus_of_stand (good hb) hop).trans (if_pos (by simpa using hr)))
    · exact whileOn_next hon ((fabricStatus_of_stand (good hb) hop).trans (if_neg (by simp [u, hc, hr])))
    · exact ⟨fun v hw => whileOn_next hon ((fabricStatus_of_members (good hb) hop).trans (runAcc_of_ok hw)),
        fun f v hw => whileOn_next hon ((fabricStatus_of_members (good hb) hop).trans (runAcc_of_fail hw))⟩
    · exact whileOn_next hon ((fabricStatus_of_outcome (good hb) hop).trans (if_pos hm))
    · exact whileOn_next hon ((fabricStatus_of_outcome (good hb) hop).trans (if_neg (Bool.eq_false_iff.mp hm)))
  · intro c hon u f hnew bad
    refine ⟨fun hb => whileOn_next hon (switchIn_of_refused hnew hb), fun hb l v hr => ?_⟩
    intro w recs
    have hrun := switchIn_of_records hnew hb hr
    refine ⟨fun hbad => whileOn_next hon (hrun.trans (switchWith_of_bad hbad)), fun hgood => ⟨fun hn => ?_, fun r hp => ?_⟩⟩
    · exact whileOn_next hon (hrun.trans (switchWith_of_no_reserve hgood hn))
    · exact ⟨_, rfl, rfl, rfl, rfl, rfl, whileOn_next hon (hrun.trans (switchWith_of_reserve hgood hp))⟩

end Sys2Proof.Machine
end

-- The settling of the contexts' family: the scheduler's events.
section

namespace Sys2Proof.Machine

/-! ### How a node was stopped, and when its slice ends (R425, R524) -/

/-- R524: how a node was stopped: 1 soft, 2 hard, 3 a soft stop that became hard. -/
def stopKind (n : Node) : Nat := if n.escalated then 3 else if n.state = .softStop then 1 else 2

theorem stopKind_eq (n : Node) : (if n.escalated then 3 else if n.state == .softStop then 1 else 2) = stopKind n := by
  unfold stopKind
  split
  · rfl
  · exact if_congr beq_iff_eq rfl rfl

/-- R425: a node of no higher class that holds Groves the waiter wants has run its slice. -/
def SliceMay (s : State) (ctx runner : Nat) (n r : Node) : Prop :=
  (n.state = .waiting ∨ n.state = .saved) ∧ r.state = .running ∧ n.cls ≤ r.cls ∧ r.sheltered s = false ∧
    ∃ m ∈ holders s ctx (nodeGroves s n), m.ctx = runner

/-! ### A node starts (R424) -/

section
variable {s : State} {ctx : Nat}

section
variable {n : Node} (h : nodeOf s ctx = some n)
include h

theorem nodeStart_of_nothing (hn : accepting s = false ∨ n.state ≠ .waiting ∨ (getCtx s ctx).state ≠ .resident) : nodeStart ctx s = s := by
  simp only [nodeStart, h]
  exact if_pos (by simpa [or_assoc] using hn)

section
variable (ha : accepting s = true) (hw : n.state = .waiting) (hx : (getCtx s ctx).state = .resident)
include ha hw hx

/-- R424: a node that cannot take its Groves pre-empts for them; else its program is read. -/
theorem nodeStart_of_waiting :
    nodeStart ctx s = if !canTake s n (nodeGroves s n).eraseDups then preemptFor n (nodeGroves s n) s
      else runAcc (.cmd n.cmd) (ctxRead (.cmd n.cmd) ctx n.image (4 * n.count))
        (fun l s' => loadNode n (nodeGroves s n) ((List.range n.count).map fun i => leAt l (4 * i) 4) s') (faultCmd n.cmd) s := by
  simp only [nodeStart, h]
  exact if_neg (by simp [ha, hw, hx])

theorem nodeStart_of_held (ht : canTake s n (nodeGroves s n).eraseDups = false) : nodeStart ctx s = preemptFor n (nodeGroves s n) s :=
  (nodeStart_of_waiting h ha hw hx).trans (if_pos (by simp [ht]))

theorem nodeStart_of_program {l : List Byte} {v : State} (ht : canTake s n (nodeGroves s n).eraseDups = true)
    (hr : ctxRead (.cmd n.cmd) ctx n.image (4 * n.count) s = .ok (l, v)) :
    nodeStart ctx s = loadNode n (nodeGroves s n) ((List.range n.count).map fun i => leAt l (4 * i) 4) (clearWork (.cmd n.cmd) v) :=
  (nodeStart_of_waiting h ha hw hx).trans ((if_neg (by simp [ht])).trans (runAcc_of_ok hr))

theorem nodeStart_of_fault {f : Flt} {v : State} (ht : canTake s n (nodeGroves s n).eraseDups = true)
    (hr : ctxRead (.cmd n.cmd) ctx n.image (4 * n.count) s = .error (.fail f v)) :
    nodeStart ctx s = faultCmd n.cmd f (clearWork (.cmd n.cmd) v) :=
  (nodeStart_of_waiting h ha hw hx).trans ((if_neg (by simp [ht])).trans (runAcc_of_fail hr))

end

/-! ### Slices and stops (R425 to R427) -/

theorem softEscalate_of_running_tile {k : Nat} (hs : n.state = .softStop) (hk : k ∈ n.groves) (ht : atTileBoundary s k = false) (hn : k ∉ n.stopped) :
    softEscalate ctx k s =
      let u := reachTime ((n.held + 19 * 256000) % 2 ^ 64) s
      updNode ctx (fun n => { n with escalated := true, stopped := n.stopped ++ [k] })
        (if n.escalated then u else count Reg.CTX_CNT_SOFT_ESCALATED u) := by
  simp only [softEscalate, h]
  exact if_neg (by simp [hs, hk, ht, hn])

/-- R426: every Grove writes its records, then the context; the node is saved. -/
theorem preemptStopped_of_stopping (hs : n.state = .softStop ∨ n.state = .hardStop) (hsave : ∀ k ∈ n.groves.eraseDups, canSave s n k = true) :
    preemptStopped ctx s =
      let u := saveContext (getCtx s ctx) (n.groves.eraseDups.foldl (fun u k => saveGrove (getCtx s ctx) n k u) s)
      let v := emit 0x05 129 ctx (stopKind n) (nodeIdent s n.cmd).1 ((u.now + 2 ^ 64 - n.held) % 2 ^ 64 / 256) u
      pinSettleAll (updNode ctx (fun n => { n with state := .saved, since := v.now, stopped := [], escalated := false }) v) := by
  have hall : (n.groves.eraseDups.all fun k => canSave s n k) = true := List.all_eq_true.mpr hsave
  unfold preemptStopped
  rw [h]
  dsimp only
  rw [stopKind_eq, if_neg (by rcases hs with hs | hs <;> simp [hs, hall])]

theorem preemptStopped_of_other (hs : n.state ≠ .softStop) (hh : n.state ≠ .hardStop) : preemptStopped ctx s = s := by
  simp only [preemptStopped, h]
  exact if_pos (by simp [hs, hh])

/-! ### Restore (R428, R436) -/

/-- R428: what is left once every saved Grove whose turn it is has been put back. -/
def restoredNode (ctx : Nat) (n : Node) (gs : List Nat) (s : State) : State :=
  let u := (List.range gs.length).foldl (fun s j =>
    match s.gro.saved.find? fun g => g.ctx == ctx && g.grove.logical == j with
    | some g => if turnNow s n gs (gs.getD j 0) == some j then restoreGrove (gs.getD j 0) g s else s
    | none => s) s
  progress ctx (updNode ctx (fun n => { n with state := .running, groves := gs, held := u.now }) u)

theorem nodeRestore_of_saved (hs : n.state = .saved) (hx : (getCtx s ctx).state = .resident) (ha : cmdArmed s n.cmd = false) :
    nodeRestore ctx s = if !canTake s n (nodeGroves s n).eraseDups then preemptFor n (nodeGroves s n) s
      else if savePoisoned s (getCtx s ctx) then faultNode 0x01 0 ctx .ecc s else restoredNode ctx n (nodeGroves s n) s := by
  unfold nodeRestore
  rw [h]
  exact if_neg (by simp [hs, hx, ha])

section
variable {runner : Nat} {r : Node} (hr : nodeOf s runner = some r)
include hr

theorem sliceExpire_eq [Decidable (SliceMay s ctx runner n r)] :
    sliceExpire ctx runner s = if SliceMay s ctx runner n r then
        preempt runner false (reachTime ((r.held + sliceUnits s) % 2 ^ 64) (reachTime ((n.since + sliceUnits s) % 2 ^ 64) s))
      else s := by
  simp only [sliceExpire, h, hr]
  by_cases hm : SliceMay s ctx runner n r
  · rw [if_pos hm]
    obtain ⟨hn, hrun, hcls, hshelter, hholds⟩ := hm
    have hany : ((holders s ctx (nodeGroves s n)).any fun m => m.ctx == runner) = true := by simpa using hholds
    refine if_neg ?_
    rcases hn with hn | hn <;> simp [hn, hrun, hshelter, hany, Nat.not_lt.mpr hcls]
  · rw [if_neg hm]
    refine if_pos ?_
    by_contra hc
    refine hm ?_
    simp only [Bool.or_eq_true, Bool.and_eq_true, bne_iff_ne, decide_eq_true_eq, Bool.not_eq_true', not_or, not_and, Decidable.not_not, Nat.not_lt,
      Bool.not_eq_true, Bool.not_eq_false, List.any_eq_true, beq_iff_eq] at hc
    obtain ⟨⟨⟨⟨hn, hrun⟩, hcls⟩, hshelter⟩, hholds⟩ := hc
    exact ⟨Decidable.or_iff_not_imp_left.mpr hn, hrun, hcls, hshelter, hholds⟩

end

end

/-! ### The end of a Grove's save (R426) -/

section
variable {k : Nat}

theorem saveWrite_sched (a : Nat) (l : List Byte) (s : State) : (saveWrite a l s).sched = s.sched := by
  change (countN _ _ s).sched = s.sched
  rw [countN_frame]
  rfl

theorem foldl_saveWrite_sched {α : Type} (a : α → Nat) (b : α → List Byte) (xs : List α) (s : State) :
    (xs.foldl (fun s c => saveWrite (a c) (b c) s) s).sched = s.sched := by
  induction xs generalizing s with
  | nil => rfl
  | cons x xs ih => exact (ih _).trans (saveWrite_sched ..)

theorem groveSaveDone_of_other (h : k ∉ s.sched.saving) : groveSaveDone k s = s := if_pos (by simpa using h)

theorem groveSaveDone_saving (h : k ∈ s.sched.saving) : (groveSaveDone k s).sched.saving = s.sched.saving.filter fun j => j != k := by
  unfold groveSaveDone
  rw [if_neg (by simpa using h)]
  dsimp only
  split
  · rfl
  · rw [saveWrite_sched, foldl_saveWrite_sched]
    rfl

end

/-! ### Residency (R429 to R433, R436) -/

theorem swapIn_of_nothing (h : accepting s = false ∨ runnable s ctx = false) : swapIn ctx s = s :=
  if_neg (by rcases h with h | h <;> simp [h])

/-- R429: a slot is free and no scratch range stands in the way. -/
theorem swapIn_of_free_slot (ha : accepting s = true) (hr : runnable s ctx = true) (hp : pinnedOverlap s (getCtx s ctx) = false)
    (hl : (residents s).length < resLimit s) (he : evictBy (getCtx s ctx) [1] s = none) :
    swapIn ctx s = updCtx ctx (fun x => { x with state := .swappingIn, waitSince := none, reserveSlot := false }) s := by
  have hslot : swapInBy [1, 2, 3] ctx s = beginSwapIn ctx false s := by
    refine (if_neg (Bool.eq_false_iff.mp hp)).trans ((if_pos hl).trans ?_)
    rw [he]
  exact (if_pos (by simp [ha, hr])).trans hslot

theorem residencySliceExpire_of_wait {t : Nat} (ht : (getCtx s ctx).waitSince = some t) (hr : runnable s ctx = true) :
    residencySliceExpire ctx s = swapInBy [1, 2, 3, 4] ctx (reachTime ((t + sliceUnits s) % 2 ^ 64) s) := by
  simp only [residencySliceExpire, ht, hr, if_true]

theorem residencySliceExpire_of_none (ht : (getCtx s ctx).waitSince = none) : residencySliceExpire ctx s = s := by
  simp only [residencySliceExpire, ht]

/-- R433: the scratch range and the context record are saved, and the slot is free. -/
theorem evictionDone_of_quiet (hx : (getCtx s ctx).state = .evicting) (hq : groveQuiet s ctx = true) :
    evictionDone ctx s =
      let x := getCtx s ctx
      let u := if x.scratchMib = 0 then s else saveWrite (scratchImage s x) (memRead s x.scratchBase x.scratchBytes) s
      updCtx ctx (fun x => { x with state := .out, reserveSlot := false }) (saveContext x u) := if_neg (by simp [hx, hq])

theorem evictionDone_of_other (hx : (getCtx s ctx).state ≠ .evicting) : evictionDone ctx s = s := if_pos (by simp [hx])

section
variable (hx : (getCtx s ctx).state = .swappingIn)
  (ho : ∀ y ∈ s.sched.ctxs, y.id ≠ ctx → y.state = .evicting → scratchOverlap (getCtx s ctx) y = false)
include hx ho

theorem swapInDone_clear :
    ¬((getCtx s ctx).state != .swappingIn || (s.sched.ctxs.any fun y => y.id != ctx && y.state == .evicting && scratchOverlap (getCtx s ctx) y)) = true := by
  simpa [hx] using ho

theorem swapInDone_of_poisoned (hp : savePoisoned s (getCtx s ctx) = true) : swapInDone ctx s = faultNode 0x01 0 ctx .ecc s :=
  (if_neg (swapInDone_clear hx ho)).trans (if_pos hp)

theorem swapInDone_of_clean (hp : savePoisoned s (getCtx s ctx) = false) (hf : (getCtx s ctx).pending = none) :
    swapInDone ctx s =
      let x := getCtx s ctx
      let u := if x.scratchMib = 0 then s else memWrite x.scratchBase (memRead s (scratchImage s x) x.scratchBytes) s
      pinSettle ctx (emit 0x06 129 ctx 1 0 0
        (updCtx ctx (fun x => { x with state := .resident, reserveSlot := false }) (count Reg.CTX_CNT_SWAP_IN u))) := by
  refine (if_neg (swapInDone_clear hx ho)).trans ((if_neg (Bool.eq_false_iff.mp hp)).trans ?_)
  simp only [hf]

end

end

/-- Settles O42: a node by its state and whether it can take its Groves, a save by the Groves that still owe it (`groveSaveDone_saving`),
residency by the free slots. -/
theorem scheduling : Obligations.Scheduling := by
  intro s ctx hon x
  refine ⟨fun n h => ?_, fun k h => whileOn_next hon (groveSaveDone_of_other h), fun k h => ⟨_, whileOn_next hon rfl, groveSaveDone_saving h⟩,
    fun h => whileOn_next hon (swapIn_of_nothing h), fun ha hr hp hl he => whileOn_next hon (swapIn_of_free_slot ha hr hp hl he),
    fun t ht hr => whileOn_next hon (residencySliceExpire_of_wait ht hr), fun ht => whileOn_next hon (residencySliceExpire_of_none ht),
    fun hx hq => whileOn_next hon (evictionDone_of_quiet hx hq), fun hx => whileOn_next hon (evictionDone_of_other hx),
    fun hx ho => ⟨fun hp => whileOn_next hon (swapInDone_of_poisoned hx ho hp), fun hp hf => whileOn_next hon (swapInDone_of_clean hx ho hp hf)⟩⟩
  intro gs
  refine ⟨fun hn => whileOn_next hon (nodeStart_of_nothing h hn), fun ha hw hx => ⟨fun ht => whileOn_next hon (nodeStart_of_held h ha hw hx ht),
      fun l v ht hr => whileOn_next hon (nodeStart_of_program h ha hw hx ht hr), fun f v ht hr => whileOn_next hon (nodeStart_of_fault h ha hw hx ht hr)⟩,
    fun k hs hk ht hn => whileOn_next hon (softEscalate_of_running_tile h hs hk ht hn),
    fun hs hsave => whileOn_next hon (preemptStopped_of_stopping h hs hsave), fun hs hh => whileOn_next hon (preemptStopped_of_other h hs hh),
    fun hs hx ha => ?_, fun runner r hr => ?_⟩
  · have hrestore := nodeRestore_of_saved h hs hx ha
    exact ⟨fun ht => whileOn_next hon (hrestore.trans (if_pos (by simp [gs, ht]))),
      fun ht hp => whileOn_next hon (hrestore.trans ((if_neg (by simp [gs, ht])).trans (if_pos hp))),
      fun ht hp => whileOn_next hon (hrestore.trans ((if_neg (by simp [gs, ht])).trans (if_neg (Bool.eq_false_iff.mp hp))))⟩
  · classical
    intro may
    exact ⟨fun hm => whileOn_next hon ((sliceExpire_eq h hr).trans (if_neg hm)), fun hm => whileOn_next hon ((sliceExpire_eq h hr).trans (if_pos hm))⟩

end Sys2Proof.Machine
end
